-- ==== Sys2Proof/Word.lean ====
section
/-! DEFINITION. The word types of the ZX2 (R3, R5, R12): bytes, 32-bit words, 64-bit uniform
registers, lane masks, and the register numbers of Table 4 of the encoding chapter. -/

namespace Sys2Proof

/-- One byte of memory (R5). -/
abbrev Byte := BitVec 8

/-- A 32-bit word: an instruction word or one vector register of one lane (R12, R119). -/
abbrev Word := BitVec 32

/-- A 64-bit uniform register (R12) or global address (R52). -/
abbrev DWord := BitVec 64

/-- A lane mask: bit l for lane l of a team of at most 1,024 lanes (R12, R15). -/
abbrev Mask := BitVec 1024

/-- A uniform register number, `s0` to `s63` (R131). -/
abbrev SReg := BitVec 6

/-- A vector register number, `v0` to `v255` (R131). -/
abbrev VReg := BitVec 8

/-- A lane-mask register number, `p0` to `p7` (R131). -/
abbrev PReg := BitVec 3

end Sys2Proof
end

