-- ==== Sys2Proof/Machine/Kinds.lean ====
section
/-! DEFINITION. The small vocabularies of the manual that instructions and events carry: condition
codes, sizes, scopes, orders, operation names, formats, and the data of the events that come from
outside the device (fabric packets, host accesses, detected errors). -/

namespace Sys2Proof

/-- Condition codes (R132, Table 5 of the encoding chapter), in code order. -/
inductive Cond where
  | eq | ne | lt | le | gt | ge | ord | uno | ueq | une | ult | ule | ugt | uge
  deriving DecidableEq, Repr

/-- The second operand of the scalar arithmetic mould (R174): a register or an 8-bit immediate. -/
inductive Src2 where
  | reg (r : SReg)
  | imm (n : BitVec 8)
  deriving DecidableEq, Repr

/-- The mode of `sli` (R178). -/
inductive SliMode where
  | zx | sx | hi
  deriving DecidableEq, Repr

/-- The operation of `sbit` and `bcnt` (R181, R192). -/
inductive BitOp where
  | cnt | clz | ctz | rev | bswap
  deriving DecidableEq, Repr

/-- Special registers (R143, Table 10), in code order from 0x01. -/
inductive Special where
  | team | path | twidth | crewx | crewy | crewz | gridx | gridy | gridz | cluster | core | die
  | grid | domain | version | step | tsc | cyc | scc | xmsum | status | mode | ctag | flags
  | device | grace | role
  deriving DecidableEq, Repr

/-- Conversion format codes (R201, Table 3), in code order. -/
inductive Fmt where
  | f32 | f16 | bf16 | e4m3 | e5m2 | i8 | n8 | i16 | n16 | i32 | n32 | i64 | n64
  deriving DecidableEq, Repr

/-- The mode of `shflx` (R208). -/
inductive ShflMode where
  | xor | up | dn
  deriving DecidableEq, Repr

/-- The operation of `vote` (R208); `ballot` carries the 64-lane group K. -/
inductive VoteOp where
  | any | all | ballot (k : BitVec 4)
  deriving DecidableEq, Repr

/-- The operation of `scan` and `red` (R209). -/
inductive FoldOp where
  | add | min | max | and | or | xor
  deriving DecidableEq, Repr

/-- Access sizes of a memory descriptor (R134, Table 6). -/
inductive MSize where
  | b8 | b16 | b32 | b64 | b128
  deriving DecidableEq, Repr

/-- Scopes (R134, R218), in code order. -/
inductive Scope where
  | team | crew | cluster | die | device | system | pod
  deriving DecidableEq, Repr

/-- Orders (R134), in code order. -/
inductive Order where
  | plain | acq | rel | ar
  deriving DecidableEq, Repr

/-- A memory descriptor (R134). OP and HINT keep their codes. -/
structure MDesc where
  size  : MSize
  scope : Scope
  order : Order
  op    : BitVec 4
  hint  : BitVec 2
  off   : BitVec 16
  deriving DecidableEq, Repr

/-- Field a and field b of a format M word (R135): the base register, the index register when a[6]
is set, and the extension a[7] of the index. -/
structure MAddr where
  base : SReg
  idx  : Option VReg
  sx   : Bool
  deriving DecidableEq, Repr

/-- Atomic operations (R271, Table 5), in code order. -/
inductive AtomOp where
  | add | and | or | xor | smin | smax | umin | umax | fadd | fmin | fmax | incw | decw | cas | xchg
  deriving DecidableEq, Repr

/-- Output formats of `mdrain` (R298), in code order. -/
inductive OFmt where
  | f32 | f16 | bf16 | e4m3 | e5m2 | i32
  deriving DecidableEq, Repr

/-- Reductions of a memory `mdrain` (R298), in code order. -/
inductive RedOp where
  | store | add | max
  deriving DecidableEq, Repr

/-- Scopes of `bar` (R310), in code order. -/
inductive BarScope where
  | crew | clu | die | grid
  deriving DecidableEq, Repr

/-- The operation of `csrw` (R400), in code order. -/
inductive CsrOp where
  | write | set | clear
  deriving DecidableEq, Repr

/-- The pool boundary registers (R54). -/
inductive PoolReg where
  | regtop | sptop | cachetop
  deriving DecidableEq, Repr

/-- One issuing path: the team's token (R412) and the path number (R12). -/
structure PathRef where
  tok  : Nat
  path : Bool
  deriving DecidableEq, Repr

/-- Kinds of a checked access (R443). -/
inductive Access where
  | load | store | atomic | fetch | cache
  deriving DecidableEq, Repr

/-- The outcome of an ATS translation completion (R445). -/
inductive AtsOutcome where
  | ok | noPermission | error
  deriving DecidableEq, Repr

/-- The outcome of a PRI page response (R445). -/
inductive PriOutcome where
  | success | invalid | failure
  deriving DecidableEq, Repr

/-- One lane of a remote request: the lane, the peer's virtual address and the operand bytes. -/
structure RLane where
  lane : Nat
  va   : DWord
  data : BitVec 128
  deriving DecidableEq, Repr

/-- A decision on a boundary: COMPLETE or ABORT, of position 0 or as the outcome of a query (R475, R476). -/
structure Decision where
  complete : Bool
  query    : Bool
  deriving DecidableEq, Repr

/-- The place of a home's message in the order of its domain (R482): of a numbered one its number and the notices since
the number before; of a notice the number before it and its count after that. -/
structure DomNum where
  dom : Nat
  num : Nat
  k   : Nat
  deriving DecidableEq, Repr

/-- A new version and its parent (R481). -/
structure NewVer where
  ver    : Nat
  parent : Nat
  deriving DecidableEq, Repr

/-- What the packets of a collective say of it (R480): a checksum stands for its group. -/
structure CollHdr where
  collid : Nat
  op     : Nat
  type   : Nat
  red    : Nat
  count  : Nat
  crc    : Word
  deriving DecidableEq, Repr

/-- The memory operation a fabric packet asks for (R266), or the reply to one. -/
inductive PBody where
  /-- `rld` of the given lanes, with acquire order or not. -/
  | load (size : MSize) (acq : Bool) (lanes : List RLane)
  /-- `rst` of the given lanes with the sender's global team index (R269). -/
  | store (size : MSize) (gti : Nat) (lanes : List RLane)
  /-- `ratm` and `ratmr` (R270); the second operand field of a `cas` is in the upper half. -/
  | atomic (op : AtomOp) (size : MSize) (lanes : List RLane)
  /-- The values read, one for each requested lane performed. -/
  | reply (lanes : List RLane)
  /-- Refusal: the lanes performed before it, the cause (R256, R268) and the refused lane. -/
  | refuse (done : List RLane) (cause : Nat) (sub : Nat) (lane : Nat) (va : DWord)
  /-- The home's answer to an ALLOC: the version, or none when refused (R481). -/
  | allocAnswer (req : Nat) (ver : Option Nat)
  /-- A peer's acknowledgement of an allocation notice (R481). -/
  | allocAck (dom ver : Nat)
  /-- A peer's acknowledgement of a numbered resolve (R482). -/
  | resolveAck (dom num : Nat)
  /-- A tree node's ARRIVE(s) (R475). -/
  | arrive (s level index : Nat)
  /-- COMPLETE(s) or ABORT(s), or the outcome of a query (R475, R476). -/
  | decide (s : Nat) (d : Decision)
  | keepAlive (s : Nat)
  /-- A member that detects a failure asks for the decision, and the decision that the one asked holds (R476). -/
  | query (s : Nat)
  | queryAnswer (s : Nat) (complete : Option Bool)
  | alloc (req dom parent : Nat)
  /-- A version and its parent; the last numbered message before it, and its place after that one (R481, R482). -/
  | notice (n : DomNum) (v : NewVer)
  /-- A numbered message, with the notices since the number before it (R481, R482). -/
  | withdraw (n : DomNum) (ver : Nat)
  | resolve (n : DomNum) (committed squashed : List Nat)
  | cancel (req dom : Nat)
  /-- A node's value of a collective (R479, R480). -/
  | collective (c : CollHdr) (level index : Nat) (vals : List DWord)
  /-- A member has found a mismatch between members (R331). -/
  | collFail (collid : Nat)
  /-- A request is held at a frozen peer (R462). -/
  | hold (serial : Nat)
  /-- A message has been performed (R472). -/
  | ack (serial : Nat)
  deriving DecidableEq, Repr

/-- The Dueryar extension header (R469) with the packet's destination and its number (R472). `clean`: no reserved
field is set. -/
structure PodHdr where
  serial  : Nat
  src     : Nat
  dst     : Nat
  jobkey  : BitVec 32
  cls     : Nat
  dom     : Nat
  ver     : Nat
  parity  : Bool
  step    : BitVec 32
  tlevel  : Nat
  tindex  : Nat
  clean   : Bool
  deriving DecidableEq, Repr

/-- How a message came: its port and its header. -/
structure Via where
  port : Nat
  h    : PodHdr
  deriving DecidableEq, Repr

/-- A transaction packet with its extension header (R469). -/
structure Packet extends PodHdr where
  body    : PBody
  deriving DecidableEq, Repr

/-- The bytes of a checkpoint's stream, with the poison marks that they carry (R456, R464). -/
structure Marked where
  bytes : List Byte
  /-- Where a poisoned flake of the sender's begins. -/
  bad   : List Nat
  deriving DecidableEq, Repr

/-- A host access to a die's window through BAR 2 (R411, R417). -/
inductive HostAccess where
  | load (off size : Nat)
  | store (off size : Nat) (val : BitVec 64)
  | atomic (off : Nat) (wide : Bool) (op : AtomOp) (x y : BitVec 64)
  deriving DecidableEq, Repr

/-- Where an uncorrectable error is detected (R455, Table 6). -/
inductive ErrSite where
  | hbm (pa : Nat)
  | l2 (pa : Nat) (dirty : Bool)
  | l1 (core pa : Nat)
  | rdc (die pa : Nat)
  | scratch (crew word : Nat)
  | vreg (tok lane reg : Nat)
  | sreg (tok reg : Nat)
  | slot (core slot unit : Nat)
  | acc (core bank cell : Nat)
  | path (r : PathRef)
  | icache (core : Nat)
  | macroStore (core : Nat)
  | link (port : Nat)
  /-- The SRAM of a die's firn buffer, at an address that its entries name. -/
  | firn (die : Bool) (pa : Nat)
  /-- The die-to-die link. -/
  | crossing
  deriving DecidableEq, Repr

/-- Sources of a semaphore request (R412). -/
inductive SemSource where
  | port0 | port1 | team (token : BitVec 32) | mgmt
  deriving DecidableEq, Repr

end Sys2Proof
end

