-- ==== Sys2Proof/Syntax.lean ====
section
/-! DEFINITION. The instruction set: one constructor for each row of spec/opcode_table.json. Rows with
an encoding are instructions of a path (chapters 05, 06, 08, 09, 10, 11, 12, 15); rows without one
are the machine's own steps and what reaches it from outside, each indivisible
(95_what_each_step_holds.md). -/

namespace Sys2Proof

/-- The rows of the opcode table: instructions, then the machine's own steps, then outside inputs. -/
inductive Instr where
  -- Control flow (R156 to R172)
  | nop
  | bra (off : BitVec 24)
  | bsz (a : SReg) (off : Word)
  | bsnz (a : SReg) (off : Word)
  | brp (neg : Bool) (p : PReg) (toff joff : BitVec 16)
  | bany (p : PReg) (off : Word)
  | ball (p : PReg) (off : Word)
  | join
  | jmpiVector (a : VReg) (b : SReg) (joff : Word)
  | jmpiUniform (b : SReg)
  | call (d : SReg) (off : Word)
  | calli (d a : SReg)
  | ret (a : SReg)
  | exit
  | macroWord (m : BitVec 6) (p0 p1 : BitVec 8)
  | yield
  | trap (n : BitVec 8)
  -- Uniform scalar (R173 to R183)
  | sadd (w u : Bool) (d a : SReg) (b : Src2)
  | ssub (w u : Bool) (d a : SReg) (b : Src2)
  | smul (w u : Bool) (d a : SReg) (b : Src2)
  | smulh (w u : Bool) (d a : SReg) (b : Src2)
  | sdiv (w u : Bool) (d a : SReg) (b : Src2)
  | srem (w u : Bool) (d a : SReg) (b : Src2)
  | sand (w u : Bool) (d a : SReg) (b : Src2)
  | sor (w u : Bool) (d a : SReg) (b : Src2)
  | sxor (w u : Bool) (d a : SReg) (b : Src2)
  | sshl (w u : Bool) (d a : SReg) (b : Src2)
  | sshr (w u : Bool) (d a : SReg) (b : Src2)
  | ssra (w u : Bool) (d a : SReg) (b : Src2)
  | smin (w u : Bool) (d a : SReg) (b : Src2)
  | smax (w u : Bool) (d a : SReg) (b : Src2)
  | scmp (c : Cond) (p : PReg) (u : Bool) (a : SReg) (b : Src2)
  | ssel (d a b : SReg) (p : PReg) (all : Bool)
  | smov (d a : SReg)
  | sli (d : SReg) (md : SliMode) (lit : Word)
  | slea (d a b : SReg) (k : BitVec 2)
  | sbfe (d a : SReg) (pos : BitVec 6) (len : BitVec 7) (sx : Bool)
  | sbfi (d a : SReg) (pos : BitVec 6) (len : BitVec 7)
  | sbit (op : BitOp) (w : Bool) (d a : SReg)
  | sr (d : SReg) (sel : Special)
  | sw (sel : Special) (a : SReg)
  -- Vector integer (R190 to R195)
  | add (d a b : VReg)
  | sub (d a b : VReg)
  | mul (d a b : VReg)
  | mulh (d a b : VReg)
  | mad (d a b : VReg)
  | min (d a b : VReg)
  | max (d a b : VReg)
  | abs (d a : VReg)
  | neg (d a : VReg)
  | and (d a b : VReg)
  | or (d a b : VReg)
  | xor (d a b : VReg)
  | not (d a : VReg)
  | shl (d a b : VReg)
  | shr (d a b : VReg)
  | sra (d a b : VReg)
  | rot (d a b : VReg)
  | bfe (d a : VReg) (pos : BitVec 5) (len : BitVec 6)
  | bfi (d a : VReg) (pos : BitVec 5) (len : BitVec 6)
  | bcnt (op : BitOp) (d a : VReg)
  | cmp (c : Cond) (p : PReg) (a b : VReg)
  | sel (d a b : VReg) (p : PReg) (neg : Bool)
  | mov (d a : VReg)
  | movs (d : VReg) (hi : Bool) (a : SReg)
  | li (d : VReg) (lit : Word)
  | lid (d : VReg)
  -- Vector float (R196 to R200)
  | fadd (d a b : VReg)
  | fsub (d a b : VReg)
  | fmul (d a b : VReg)
  | ffma (d a b : VReg)
  | fmin (d a b : VReg)
  | fmax (d a b : VReg)
  | fabs (d a : VReg)
  | fneg (d a : VReg)
  | fcmp (c : Cond) (p : PReg) (a b : VReg)
  | frcp (d a : VReg)
  | frsq (d a : VReg)
  | fsqrt (d a : VReg)
  | fdiv (d a b : VReg)
  | fexp2 (d a : VReg)
  | flog2 (d a : VReg)
  | fsin (d a : VReg)
  | fcos (d a : VReg)
  | fclass (d a : VReg)
  | fround (d a : VReg)
  -- Conversion (R201 to R207)
  | cvtf (d a : VReg) (dst src : Fmt)
  | cvti (d a : VReg) (dst src : Fmt)
  | cvtq (d a : VReg) (b : Option VReg) (e5m2 : Bool)
  | cvtd (d a : VReg) (b : Option VReg) (e5m2 : Bool)
  | pk (d a b : VReg)
  | upk (d a : VReg) (h : Bool)
  | sp8x (d a : VReg) (j : BitVec 2)
  | i4x (d a b : VReg) (h : BitVec 2)
  -- Lane (R208 to R210)
  | shfl (d a b : VReg)
  | shflx (d a : VReg) (n : BitVec 10) (mode : ShflMode)
  | bcast (d : SReg) (a : VReg) (lane : Option SReg)
  | vote (d : SReg) (p : PReg) (op : VoteOp)
  | mcnt (d : SReg) (p : PReg)
  | scan (op : FoldOp) (d a : VReg)
  | red (op : FoldOp) (d : SReg) (a : VReg)
  | rank (d : VReg) (p : PReg)
  | compact (d a : VReg) (p : PReg)
  -- Predicate, mask and mode (R211 to R214)
  | pand (all : Bool) (d a b : PReg)
  | por (all : Bool) (d a b : PReg)
  | pxor (all : Bool) (d a b : PReg)
  | pnot (all : Bool) (d a : PReg)
  | pmov (all : Bool) (d a : PReg)
  | psetClr (all : Bool) (d : PReg)
  | psetSet (all : Bool) (d : PReg)
  | psetSc (all : Bool) (d : PReg) (a : SReg) (k : BitVec 4)
  | xmset (neg : Bool) (p : PReg)
  | xmget (d : PReg)
  | mode (m : BitVec 24)
  | modes (a : SReg)
  -- Memory (R251 to R275)
  | lds (d : BitVec 8) (a : MAddr) (m : MDesc)
  | sts (d : BitVec 8) (a : MAddr) (m : MDesc)
  | ldsf (d : BitVec 8) (a : MAddr) (m : MDesc)
  | ldse (d : BitVec 8) (a : MAddr) (m : MDesc)
  | stsf (d : BitVec 8) (a : MAddr) (m : MDesc)
  | stsx (d : BitVec 8) (a : MAddr) (m : MDesc)
  | feclr (a : MAddr) (m : MDesc)
  | feset (a : MAddr) (m : MDesc)
  | feq (d : BitVec 8) (a : MAddr) (m : MDesc)
  | fullEmptyWake (r : PathRef)
  | ldg (d : BitVec 8) (a : MAddr) (m : MDesc)
  | stg (d : BitVec 8) (a : MAddr) (m : MDesc)
  | pfg (a : MAddr) (m : MDesc)
  | cwb (a : MAddr) (m : MDesc)
  | cinv (a : MAddr) (m : MDesc)
  | ldp (d : BitVec 8) (a : MAddr) (m : MDesc)
  | rld (d : BitVec 8) (a : MAddr) (peer : VReg) (m : MDesc)
  | rst (d : BitVec 8) (a : MAddr) (peer : VReg) (m : MDesc)
  | ratm (d : BitVec 8) (a : MAddr) (peer : VReg) (m : MDesc)
  | ratmr (d : BitVec 8) (a : MAddr) (peer : VReg) (m : MDesc)
  | atm (d : BitVec 8) (a : MAddr) (m : MDesc)
  | atmr (d : BitVec 8) (a : MAddr) (m : MDesc)
  | cas (d : BitVec 8) (a : MAddr) (m : MDesc)
  | cas128 (d : BitVec 8) (a : MAddr) (m : MDesc)
  | xchg (d : BitVec 8) (a : MAddr) (m : MDesc)
  -- Matrix (R276 to R303)
  | tclaim (d : SReg)
  | trel (a : SReg)
  | tld (a b : SReg) (first cnt : BitVec 7) (off : BitVec 16)
  | tfmt (a b : SReg)
  | mma (a b : SReg) (klen : BitVec 9)
  | mmaz (a b : SReg) (klen : BitVec 9)
  | mclr (banks : BitVec 2)
  | mdrainRegister (d : VReg) (a : SReg) (fmt : OFmt) (clr : Bool)
  | mdrainMemory (a : SReg) (fmt : OFmt) (red : RedOp) (clr wide : Bool)
  | mcoop (a b : SReg) (klen : BitVec 9) (z : Bool) (mt : BitVec 3) (nt : BitVec 4)
  | mcoopRendezvous (grid cluster : Nat)
  | tzero (a : SReg)
  | ttrans (d a : SReg) (two : Bool)
  | arrayQueueExecute (core : Nat)
  -- Synchronisation (R304 to R320)
  | fence (ord : Order) (scope : Scope)
  | flwait (m : BitVec 12)
  | twany (d a : SReg)
  | twall (a : SReg)
  | tffr (d : SReg)
  | tclr (t : BitVec 6)
  | bar (id : BitVec 2) (scope : BarScope)
  | dieArrived (grid : Nat) (id : BitVec 2) (inst : Nat)
  | complete (grid : Nat) (id : BitVec 2) (inst : Nat)
  | marm (d base : SReg) (m : MDesc)
  | mwait (d a : SReg)
  | mwaitTimeout (r : PathRef)
  | grin
  | grout
  | grq (d : SReg)
  | grwait (d : SReg)
  | grfree (d a : SReg)
  | grpop (d : SReg)
  | step (d : SReg)
  | stepq (d : SReg)
  | ldacq (d : BitVec 8) (a : MAddr) (m : MDesc)
  | strel (d : BitVec 8) (a : MAddr) (m : MDesc)
  -- Engines (R321 to R341, R350 to R357, R362)
  | cpy (d a : SReg) (sp hold : Bool) (tag : BitVec 6)
  | cpyx (d a : SReg) (hold : Bool) (tag : BitVec 6)
  | gath (a : SReg) (tag : BitVec 6)
  | kvap (a : SReg) (tag : BitVec 6)
  | kvseal (a : SReg) (tag : BitVec 6)
  | kvcopy (a : SReg) (tag : BitVec 6)
  | smpl (d a : SReg) (tag : BitVec 6)
  | coll (a : SReg) (tag : BitVec 6)
  | spawn (len : BitVec 3) (a : SReg) (b : VReg)
  | launch (d a : SReg) (hold : Bool)
  | resolve (d a b : SReg)
  | wqpop (d a b : SReg)
  | wqpush (d a b : SReg)
  | cntp (d a b : SReg)
  -- System (R400 to R406)
  | csrr (d : SReg) (addr : BitVec 16)
  | csrw (op : CsrOp) (addr : BitVec 16) (a : SReg)
  | tretRes (a b : SReg)
  | tretVal (a b : SReg)
  | tretKill (a b : SReg)
  | ecall (n : BitVec 8)
  | tlbiPage (d a : SReg)
  | tlbiCtx (a : SReg)
  | tlbiPart
  | frz (a : SReg)
  | frzThaw (a : SReg)
  | wfi (d a : SReg)
  | wfiTimeout (r : PathRef)
  | sfence
  -- Completions, paths, teams and grids
  | longLatencyCompletion (n : Nat)
  | pathMerge (tok : Nat)
  | teamRetirement (tok : Nat)
  | gridCompletion (grid : Nat)
  | gridStart (grid : Nat)
  | launchQueueRecord (q : Nat)
  | cartTimerExpiry (cart : Nat)
  | clusterPlacement (die : Bool)
  | timeSliceExpiry (grid cluster : Nat)
  | drainExpiry (grid cluster : Nat)
  | clusterSaveCompletion (grid cluster : Nat)
  | clusterFlushCompletion (grid cluster : Nat)
  | clusterRestoration (grid cluster : Nat)
  | pathAged (r : PathRef)
  | remoteCopyBoundExpiry (unit flake : Nat)
  -- Translation (R441 to R446)
  | pageWalk (unit ctx : Nat) (va : DWord) (acc : Access) (who : Option PathRef)
  -- Engines running
  | engineCommandStart (n : Nat)
  | engineCommandCompletion (n : Nat)
  | samplerSlotRun (n slot : Nat)
  | adjustKernelCompletion (n slot : Nat)
  | watchdog (n slot : Nat)
  -- Faults and errors (R450, R455)
  | faultRecordDeferredWrite (ctx : Nat)
  -- Boundaries (R474 to R476)
  | keepAlive (s : Nat)
  -- Fabric (R466 to R473, R491)
  | remoteTimeout (serial : Nat)
  | ackResend (serial : Nat)
  -- Freeze and capture (R461 to R464)
  | freezeTakesEffect (ctx : Nat)
  | thawTakesEffect (ctx : Nat)
  -- Control-register accesses from a host port, the management controller or `csrw`
  | semaphoreTickServe
  | relockEnd (die : Bool)
  -- Bring-up, power, attestation (R484 to R494)
  -- The rest of the table
  | homeAcknowledgement (n : Nat)
  | valueArrival (n : Nat)
  | unassignedOpcode (op : Byte)
  | priorityAging (grid cluster : Nat)
  | restorationGuardExpiry (grid cluster : Nat)
  | hostWindowAccess (port die : Bool) (a : HostAccess)
  | atsTimeout (port : Bool) (ctx page : Nat)
  | allocAckTimeout (dom ver peer : Nat)
  | allocAnswerTimeout (req : Nat)
  | resolveAckTimeout (dom num peer : Nat)
  | transactionPacket (port : Nat) (p : Packet)
  -- What reaches the device from outside: host ports, management, peers, the fabric, detected errors
  | atsTranslationCompletion (port : Bool) (ctx page : Nat) (o : AtsOutcome) (target : Nat)
      (writable : Bool)
  | pageRequestResponse (port : Bool) (ctx page : Nat) (o : PriOutcome)
  | hostInvalidationRequest (port : Bool) (ctx page count : Nat)
  | hostLinkDown (port : Bool)
  | collectiveData (via : Via) (c : CollHdr) (level index : Nat) (vals : List DWord)
  | uncorrectableError (site : ErrSite)
  | correctedError (source : Nat) (addr : DWord)
  | arrive (via : Via) (s : Nat) (node : Nat × Nat)
  | boundaryDecision (via : Via) (s : Nat) (d : Decision)
  | memberFailure (rank : Nat)
  | failureQuery (via : Via) (s : Nat)
  | alloc (via : Via) (req dom parent : Nat)
  | versionNotice (via : Via) (n : DomNum) (v : NewVer)
  | withdraw (via : Via) (n : DomNum) (ver : Nat)
  | cancel (via : Via) (req dom : Nat)
  | resolveBroadcast (via : Via) (n : DomNum) (committed squashed : List Nat)
  | holdNotice (m : Via × Nat)
  | linkDown (port : Nat)
  | linkUp (port : Nat)
  | timeMessage (m : Via × Nat)
  | checkpointStream (src : Nat) (data : Marked)
  | iceboxFinished (ok : Bool)
  | frzctlFreeze (ctx : Nat)
  | frzctlThaw (ctx : Nat)
  | icectl (ctx : Nat)
  | poolBoundaryWrite (core : Nat) (reg : PoolReg) (val : DWord)
  | doorbell (die : Bool)
  | semRead (src : SemSource) (n : Nat)
  | semWrite (src : SemSource) (n : Nat)
  | hflush (port : Bool) (token : Word)
  | partWrite (n : Nat) (val : DWord)
  | clkctl (die : Bool) (val : DWord)
  | d2dconn (val : DWord)
  | pq (mask : Word)
  | portQuiesced (port : Nat)
  | porten (val : Word)
  | fmode (strict : Bool)
  | rankWrite (rank : BitVec 12)
  | stepctlEn (val : DWord)
  | firnsize (die : Bool) (val : DWord)
  | controlRegisterWrite (src : Nat) (addr : BitVec 16) (unit : Nat) (val : DWord)
  | go (port : Bool)
  | railFail (rail : Nat)
  | powerLimitWrite (die : Bool) (f : Nat)
  | railTelemetryRead (rail : Nat)
  | getVersion (chan : Nat)
  | getCapabilities (chan : Nat)
  | negotiateAlgorithms (chan : Nat)
  | getDigests (chan : Nat)
  | getCertificate (chan slot off len : Nat)
  | challenge (chan slot : Nat) (nonce : BitVec 256)
  | getMeasurements (chan index : Nat)
  | unsupportedRequest (chan code : Nat)
  | inputPowerApplied (railsGood : Nat)
  | hostLinkUp (port : Bool)
  | scandata
  | dqSet
  | dqClear
  | dieToDieQuiesced
  | circuitChangeDone
  | resume
  | pwrgdRise
  | resetnLow
  | resetnRelease
  deriving DecidableEq, Repr

end Sys2Proof
end

