-- ==== Sys2Proof/WellFormed.lean ====
section
/-! DEFINITION. Which instructions the encoding tables admit, by their fields alone: the values that
Table 2 of the memory chapter permits (R252), the ranges of literals and the even-register rules that
do not depend on the team or on `md`. What depends on those is checked when the instruction issues
(R13, R138, R251). -/

namespace Sys2Proof

/-- Condition codes legal for integer comparisons (R132, R176, R193). -/
def Cond.integer : Cond → Bool
  | .eq | .ne | .lt | .le | .gt | .ge => true
  | _ => false

/-- A floating format of Table 3 of the vector chapter (R201). -/
def Fmt.isFloat : Fmt → Bool
  | .f32 | .f16 | .bf16 | .e4m3 | .e5m2 => true
  | _ => false

/-- A 64-bit format, which names a register pair (R185, R201). -/
def Fmt.isPair : Fmt → Bool
  | .i64 | .n64 => true
  | _ => false

/-- An even register number. -/
def evenReg {n : Nat} (r : BitVec n) : Bool := r.toNat % 2 == 0

/-- The register of a pair format is even (R201). -/
def pairOk (f : Fmt) (r : VReg) : Bool := !f.isPair || evenReg r

/-- The orders loads accept (R252). -/
def Order.loads : Order → Bool
  | .plain | .acq => true
  | _ => false

/-- The orders stores accept (R252). -/
def Order.stores : Order → Bool
  | .plain | .rel => true
  | _ => false

/-- OP is 0, or 1 for `.sx`, `.peek` or `.span` (R252). -/
def MDesc.op01 (m : MDesc) : Bool := m.op == 0 || m.op == 1

/-- OP is at most a code (R252). -/
def MDesc.opLe (m : MDesc) (n : Nat) : Bool := m.op.toNat ≤ n

/-- The scopes `cwb` and `cinv` accept: 2 to 5 (R252). -/
def Scope.maint : Scope → Bool
  | .cluster | .die | .device | .system => true
  | _ => false

/-- Sizes of 32 and 64 bits (R252). -/
def MSize.word : MSize → Bool
  | .b32 | .b64 => true
  | _ => false

/-- The atomic operations limited to 32 bits are not used with SIZE 3 (R271). -/
def MDesc.atomOk (m : MDesc) : Bool :=
  m.size.word && !(m.size == .b64 && (m.op == 8 || m.op == 9 || m.op == 10))

/-- The index register of a remote instruction is the register after the even peer register (R253). -/
def remoteOk (a : MAddr) (peer : VReg) : Bool :=
  match a.idx with
  | none => true
  | some i => evenReg peer && i == peer + 1

/-- An opcode Table 8 of the encoding chapter leaves unassigned (R140). -/
def unassigned (op : Byte) : Bool :=
  let n := op.toNat
  (0x88 ≤ n && n ≤ 0x8F) || (0x9B ≤ n && n ≤ 0x9F) || (0xB3 ≤ n && n ≤ 0xBF) ||
  n == 0xCE || n == 0xCF || (0xD8 ≤ n && n ≤ 0xEF)

/-- The instruction's fields are ones its entry admits. Events, which have no encoding, are not
instructions of a path and are not well-formed here. -/
def Instr.wf : Instr → Bool
  | .nop | .join | .exit | .yield | .grin | .grout | .sfence | .tlbiPart => true
  | .bra _ | .bsz .. | .bsnz .. | .brp .. | .bany .. | .ball .. | .jmpiVector .. | .jmpiUniform _ => true
  | .call .. | .calli .. | .ret _ | .macroWord .. | .trap _ => true
  | .sadd .. | .ssub .. | .smul .. | .smulh .. | .sdiv .. | .srem .. | .sand .. | .sor .. => true
  | .sxor .. | .sshl .. | .sshr .. | .ssra .. | .smin .. | .smax .. => true
  | .scmp c _ _ _ _ => c.integer
  | .ssel .. | .smov .. | .sli .. | .slea .. => true
  | .sbfe _ _ _ len _ => 1 ≤ len.toNat && len.toNat ≤ 64
  | .sbfi _ _ _ len => 1 ≤ len.toNat && len.toNat ≤ 64
  | .sbit .. | .sr .. => true
  | .sw x _ => x == .status || x == .mode
  | .add .. | .sub .. | .mul .. | .mulh .. | .mad .. | .min .. | .max .. | .abs .. | .neg .. => true
  | .and .. | .or .. | .xor .. | .not .. | .shl .. | .shr .. | .sra .. | .rot .. => true
  | .bfe _ _ _ len | .bfi _ _ _ len => 1 ≤ len.toNat && len.toNat ≤ 32
  | .bcnt .. => true
  | .cmp c _ _ _ => c.integer
  | .sel .. | .mov .. | .movs .. | .li .. | .lid _ => true
  | .fadd .. | .fsub .. | .fmul .. | .ffma .. | .fmin .. | .fmax .. | .fabs .. | .fneg .. => true
  | .fcmp .. | .frcp .. | .frsq .. | .fsqrt .. | .fdiv .. | .fexp2 .. | .flog2 .. => true
  | .fsin .. | .fcos .. | .fclass .. | .fround .. => true
  | .cvtf _ a dst src => dst.isFloat && pairOk src a
  | .cvti d a dst src => !dst.isFloat && pairOk dst d && pairOk src a
  | .cvtq _ a _ _ => a.toNat % 4 == 0
  | .cvtd d _ _ _ => d.toNat % 4 == 0
  | .pk .. | .upk .. | .sp8x .. | .i4x .. => true
  | .shfl .. | .shflx .. | .bcast .. | .vote .. | .mcnt .. | .scan .. | .red .. => true
  | .rank .. | .compact .. => true
  | .pand .. | .por .. | .pxor .. | .pnot .. | .pmov .. | .psetClr .. | .psetSet .. => true
  | .psetSc .. | .xmset .. | .xmget _ | .mode _ | .modes _ => true
  | .lds _ _ m => m.order.loads && m.op01 && m.hint == 0
  | .sts _ _ m => m.order.stores && m.op == 0 && m.hint == 0
  | .ldsf _ _ m => m.size == .b32 && m.order.loads && m.op01 && m.hint == 0
  | .ldse _ _ m | .feq _ _ m => m.size == .b32 && m.order.loads && m.op == 0 && m.hint == 0
  | .stsf _ _ m | .stsx _ _ m => m.size == .b32 && m.order.stores && m.op == 0 && m.hint == 0
  | .feclr _ m | .feset _ m => m.size == .b32 && m.order.stores && m.op == 0 && m.hint == 0
  | .ldg _ _ m => m.order.loads && m.op01
  | .stg _ _ m => m.order.stores && m.op == 0
  | .pfg _ m => m.scope == .team && m.order == .plain && m.op == 0
  | .cwb _ m | .cinv _ m => m.size == .b8 && m.scope.maint && m.order == .plain && m.op01 && m.hint == 0
  | .ldp _ a m => m.scope == .team && m.order == .plain && m.op01 && a.base.toNat < 8
  | .rld _ a p m => m.scope == .pod && m.order.loads && m.op01 && m.hint == 0 && remoteOk a p
  | .rst _ a p m => m.scope == .pod && m.order.stores && m.op == 0 && m.hint == 0 && remoteOk a p
  | .ratm _ a p m => m.scope == .pod && m.atomOk && m.opLe 12 && m.hint == 0 && remoteOk a p
  | .ratmr _ a p m => m.scope == .pod && m.atomOk && m.opLe 14 && m.hint == 0 && remoteOk a p
  | .atm _ _ m | .atmr _ _ m => m.atomOk && m.opLe 12 && m.hint == 0
  | .cas _ _ m | .xchg _ _ m => m.size.word && m.op == 0 && m.hint == 0
  | .cas128 _ _ m => m.size == .b128 && m.op == 0 && m.hint == 0
  | .tclaim _ | .trel _ | .tfmt .. | .tzero _ | .ttrans .. => true
  | .tld _ _ first cnt _ => first.toNat + (cnt.toNat + 1) ≤ 64
  | .mma _ _ k | .mmaz _ _ k => 1 ≤ k.toNat && k.toNat ≤ 256
  | .mclr b => b != 0
  | .mdrainRegister .. => true
  | .mdrainMemory a _ _ _ _ => evenReg a
  | .mcoop _ _ k _ _ nt => 1 ≤ k.toNat && k.toNat ≤ 256 && nt.toNat < 12
  | .fence o _ => o != .plain
  | .flwait m => m != 0
  | .twany .. | .twall _ | .tffr _ | .tclr _ | .bar .. | .mwait .. => true
  | .marm _ _ m => m.size.word && m.order.loads && m.op == 0 && m.hint == 0
  | .grq _ | .grwait _ | .step _ | .stepq _ => true
  | .grfree _ a => evenReg a
  | .grpop d => evenReg d
  | .ldacq _ _ m => m.size != .b128 && m.order == .plain && m.op01
  | .strel _ _ m => m.size != .b128 && m.order == .plain && m.op == 0
  | .cpy d _ _ hold _ => hold || d == 0
  | .cpyx d _ hold _ => hold || d == 0
  | .gath .. | .kvap .. | .kvseal .. | .kvcopy .. | .smpl .. | .coll .. | .spawn .. => true
  | .launch .. | .resolve .. | .wqpop .. | .wqpush .. | .cntp .. => true
  | .csrr .. | .csrw .. | .tretRes .. | .tretVal .. | .tretKill .. | .ecall _ => true
  | .tlbiPage .. | .tlbiCtx _ | .frz _ | .frzThaw _ | .wfi .. => true
  | .unassignedOpcode op => unassigned op
  | .fullEmptyWake _ | .mcoopRendezvous .. | .arrayQueueExecute _ | .dieArrived .. | .complete .. => false
  | .mwaitTimeout _ | .wfiTimeout _ | .longLatencyCompletion _ | .pathMerge _ | .teamRetirement _ => false
  | .gridCompletion _ | .gridStart _ | .launchQueueRecord _ | .cartTimerExpiry _ => false
  | .clusterPlacement _ | .timeSliceExpiry .. | .drainExpiry .. | .clusterSaveCompletion .. => false
  | .clusterFlushCompletion .. | .clusterRestoration .. | .pathAged _ | .remoteCopyBoundExpiry .. => false
  | .pageWalk .. | .atsTranslationCompletion .. | .pageRequestResponse .. | .atsTimeout .. => false
  | .hostInvalidationRequest .. | .hostLinkDown _ | .engineCommandStart _ => false
  | .engineCommandCompletion _ | .samplerSlotRun .. | .adjustKernelCompletion .. | .watchdog .. => false
  | .collectiveData .. | .faultRecordDeferredWrite _ | .uncorrectableError _ | .correctedError .. => false
  | .arrive .. | .boundaryDecision .. | .keepAlive _ | .memberFailure _ | .failureQuery .. => false
  | .alloc .. | .versionNotice .. | .allocAckTimeout .. | .withdraw .. | .cancel .. => false
  | .allocAnswerTimeout _ | .resolveBroadcast .. | .resolveAckTimeout .. | .transactionPacket .. => false
  | .ackResend _ | .remoteTimeout _ | .holdNotice _ | .linkDown _ | .linkUp _ | .timeMessage _ => false
  | .freezeTakesEffect _ | .thawTakesEffect _ | .checkpointStream .. | .iceboxFinished _ => false
  | .frzctlFreeze _ | .frzctlThaw _ | .scandata | .icectl _ | .poolBoundaryWrite .. | .doorbell _ => false
  | .semRead .. | .semWrite .. | .semaphoreTickServe | .hflush .. | .partWrite .. | .clkctl .. => false
  | .relockEnd _ | .d2dconn _ | .dqSet | .dqClear | .dieToDieQuiesced | .pq _ | .portQuiesced _ => false
  | .porten _ | .circuitChangeDone | .fmode _ | .rankWrite _ | .stepctlEn _ | .resume => false
  | .firnsize .. | .controlRegisterWrite .. | .pwrgdRise | .resetnLow | .go _ | .railFail _ => false
  | .powerLimitWrite .. | .railTelemetryRead _ | .getVersion _ | .getCapabilities _ => false
  | .negotiateAlgorithms _ | .getDigests _ | .getCertificate .. | .challenge .. => false
  | .getMeasurements .. | .unsupportedRequest .. | .homeAcknowledgement _ | .valueArrival _ => false
  | .priorityAging .. | .restorationGuardExpiry .. | .hostWindowAccess .. | .resetnRelease => false
  | .inputPowerApplied _ | .hostLinkUp _ => false

/-- The instruction is well-formed. -/
abbrev Instr.WellFormed (i : Instr) : Prop := i.wf = true

end Sys2Proof
end

