-- ==== Sys2Proof/Decode.lean ====
section
/-! DEFINITION. Decoding and encoding (R119 to R140): clause headers, the four formats, memory
descriptors, and every instruction of the opcode map. The decoder is total and rejects by name; it
accepts a word only if the instruction it reads is well-formed and re-encodes to the same words, so
that every spare bit is checked (R131). -/

namespace Sys2Proof

/-- Why words are not an instruction (R142). -/
inductive DecodeErr where
  /-- A leading byte 0xF0 to 0xFF where an instruction word is due (R120). -/
  | header
  /-- A reserved value, an illegal operand field or a non-zero spare bit (R131, R134). -/
  | illegal
  deriving DecidableEq, Repr

/-! ### Words -/

/-- The word of format A, L or M with the given opcode and fields (R130). -/
def mkWord (op d a b : Byte) : Word := op ++ d ++ a ++ b

def opOf (w : Word) : Byte := w.extractLsb' 24 8
def dOf (w : Word) : Byte := w.extractLsb' 16 8
def aOf (w : Word) : Byte := w.extractLsb' 8 8
def bOf (w : Word) : Byte := w.extractLsb' 0 8

/-- One bit as a Boolean. -/
def bit {n : Nat} (x : BitVec n) (i : Nat) : Bool := x.getLsbD i

/-- A Boolean as one bit. -/
def b1 (b : Bool) : BitVec 1 := BitVec.ofBool b

/-- Bits [5:0] of a field: a uniform register. -/
def sreg (x : Byte) : SReg := x.extractLsb' 0 6

/-- Bits [2:0] of a field: a lane-mask register. -/
def preg (x : Byte) : PReg := x.extractLsb' 0 3

/-- A field holding a uniform register and zero selectors. -/
def ofS (r : SReg) : Byte := (0 : BitVec 2) ++ r

/-- A field holding a lane-mask register and zero spare bits. -/
def ofP (r : PReg) : Byte := (0 : BitVec 5) ++ r

/-! ### Clause headers -/

/-- A clause header (R120, Table 1). -/
structure Header where
  wait : BitVec 12
  av   : Bool
  af   : BitVec 4
  bv   : Bool
  bf   : BitVec 4
  len  : BitVec 6
  deriving DecidableEq, Repr

/-- A word whose leading byte is 0xF0 to 0xFF (R120). -/
def isHeader (w : Word) : Bool := w.extractLsb' 28 4 == 0xF

/-- The fields of a header word. -/
def headerOf (w : Word) : Header :=
  ⟨w.extractLsb' 16 12, bit w 15, w.extractLsb' 11 4, bit w 10, w.extractLsb' 6 4, w.extractLsb' 0 6⟩

/-- The cases of R121. -/
def Header.malformed (h : Header) : Bool :=
  (h.av && 12 ≤ h.af.toNat) || (h.bv && 12 ≤ h.bf.toNat) || (h.bv && !h.av) ||
  (h.av && h.bv && h.af == h.bf) || (!h.av && h.af != 0) || (!h.bv && h.bf != 0)

/-- The header word of given fields. -/
def Header.encode (h : Header) : Word :=
  (0xF : BitVec 4) ++ h.wait ++ b1 h.av ++ h.af ++ b1 h.bv ++ h.bf ++ h.len

/-! ### Codes -/

def Cond.code : Cond → BitVec 5
  | .eq => 0 | .ne => 1 | .lt => 2 | .le => 3 | .gt => 4 | .ge => 5 | .ord => 6 | .uno => 7
  | .ueq => 8 | .une => 9 | .ult => 10 | .ule => 11 | .ugt => 12 | .uge => 13

def Cond.ofCode (c : BitVec 5) : Option Cond :=
  match c.toNat with
  | 0 => some .eq | 1 => some .ne | 2 => some .lt | 3 => some .le | 4 => some .gt | 5 => some .ge
  | 6 => some .ord | 7 => some .uno | 8 => some .ueq | 9 => some .une | 10 => some .ult
  | 11 => some .ule | 12 => some .ugt | 13 => some .uge | _ => none

def BitOp.code : BitOp → Byte
  | .cnt => 0 | .clz => 1 | .ctz => 2 | .rev => 3 | .bswap => 4

def BitOp.ofCode (c : Byte) : Option BitOp :=
  match c.toNat with
  | 0 => some .cnt | 1 => some .clz | 2 => some .ctz | 3 => some .rev | 4 => some .bswap | _ => none

def SliMode.code : SliMode → Byte
  | .zx => 0 | .sx => 1 | .hi => 2

def SliMode.ofCode (c : Byte) : Option SliMode :=
  match c.toNat with
  | 0 => some .zx | 1 => some .sx | 2 => some .hi | _ => none

/-- Selector codes of the special registers (R143, Table 10). -/
def Special.code : Special → Byte
  | .team => 0x01 | .path => 0x02 | .twidth => 0x03 | .crewx => 0x04 | .crewy => 0x05 | .crewz => 0x06
  | .gridx => 0x07 | .gridy => 0x08 | .gridz => 0x09 | .cluster => 0x0A | .core => 0x0B | .die => 0x0C
  | .grid => 0x0D | .domain => 0x0E | .version => 0x0F | .step => 0x10 | .tsc => 0x11 | .cyc => 0x12
  | .scc => 0x13 | .xmsum => 0x14 | .status => 0x15 | .mode => 0x16 | .ctag => 0x17 | .flags => 0x18
  | .device => 0x19 | .grace => 0x1A | .role => 0x1B

def Special.ofCode (c : Byte) : Option Special :=
  match c.toNat with
  | 0x01 => some .team | 0x02 => some .path | 0x03 => some .twidth | 0x04 => some .crewx
  | 0x05 => some .crewy | 0x06 => some .crewz | 0x07 => some .gridx | 0x08 => some .gridy
  | 0x09 => some .gridz | 0x0A => some .cluster | 0x0B => some .core | 0x0C => some .die
  | 0x0D => some .grid | 0x0E => some .domain | 0x0F => some .version | 0x10 => some .step
  | 0x11 => some .tsc | 0x12 => some .cyc | 0x13 => some .scc | 0x14 => some .xmsum
  | 0x15 => some .status | 0x16 => some .mode | 0x17 => some .ctag | 0x18 => some .flags
  | 0x19 => some .device | 0x1A => some .grace | 0x1B => some .role | _ => none

/-- Conversion format codes (R201, Table 3). -/
def Fmt.code : Fmt → BitVec 4
  | .f32 => 0 | .f16 => 1 | .bf16 => 2 | .e4m3 => 3 | .e5m2 => 4 | .i8 => 5 | .n8 => 6 | .i16 => 7
  | .n16 => 8 | .i32 => 9 | .n32 => 10 | .i64 => 11 | .n64 => 12

def Fmt.ofCode (c : BitVec 4) : Option Fmt :=
  match c.toNat with
  | 0 => some .f32 | 1 => some .f16 | 2 => some .bf16 | 3 => some .e4m3 | 4 => some .e5m2
  | 5 => some .i8 | 6 => some .n8 | 7 => some .i16 | 8 => some .n16 | 9 => some .i32
  | 10 => some .n32 | 11 => some .i64 | 12 => some .n64 | _ => none

def ShflMode.code : ShflMode → BitVec 2
  | .xor => 0 | .up => 1 | .dn => 2

def ShflMode.ofCode (c : BitVec 2) : Option ShflMode :=
  match c.toNat with
  | 0 => some .xor | 1 => some .up | 2 => some .dn | _ => none

def FoldOp.code : FoldOp → Byte
  | .add => 0 | .min => 1 | .max => 2 | .and => 3 | .or => 4 | .xor => 5

def FoldOp.ofCode (c : Byte) : Option FoldOp :=
  match c.toNat with
  | 0 => some .add | 1 => some .min | 2 => some .max | 3 => some .and | 4 => some .or
  | 5 => some .xor | _ => none

def MSize.code : MSize → BitVec 3
  | .b8 => 0 | .b16 => 1 | .b32 => 2 | .b64 => 3 | .b128 => 4

def MSize.ofCode (c : BitVec 3) : Option MSize :=
  match c.toNat with
  | 0 => some .b8 | 1 => some .b16 | 2 => some .b32 | 3 => some .b64 | 4 => some .b128 | _ => none

def Scope.code : Scope → BitVec 3
  | .team => 0 | .crew => 1 | .cluster => 2 | .die => 3 | .device => 4 | .system => 5 | .pod => 6

def Scope.ofCode (c : BitVec 3) : Option Scope :=
  match c.toNat with
  | 0 => some .team | 1 => some .crew | 2 => some .cluster | 3 => some .die | 4 => some .device
  | 5 => some .system | 6 => some .pod | _ => none

def Order.code : Order → BitVec 2
  | .plain => 0 | .acq => 1 | .rel => 2 | .ar => 3

def Order.ofCode (c : BitVec 2) : Order :=
  match c.toNat with
  | 0 => .plain | 1 => .acq | 2 => .rel | _ => .ar

/-- Atomic operation codes (R271, Table 5). -/
def AtomOp.ofCode (c : BitVec 4) : Option AtomOp :=
  match c.toNat with
  | 0 => some .add | 1 => some .and | 2 => some .or | 3 => some .xor | 4 => some .smin
  | 5 => some .smax | 6 => some .umin | 7 => some .umax | 8 => some .fadd | 9 => some .fmin
  | 10 => some .fmax | 11 => some .incw | 12 => some .decw | 13 => some .cas | 14 => some .xchg
  | _ => none

def OFmt.code : OFmt → BitVec 3
  | .f32 => 0 | .f16 => 1 | .bf16 => 2 | .e4m3 => 3 | .e5m2 => 4 | .i32 => 5

def OFmt.ofCode (c : BitVec 3) : Option OFmt :=
  match c.toNat with
  | 0 => some .f32 | 1 => some .f16 | 2 => some .bf16 | 3 => some .e4m3 | 4 => some .e5m2
  | 5 => some .i32 | _ => none

def RedOp.code : RedOp → BitVec 2
  | .store => 0 | .add => 1 | .max => 2

def RedOp.ofCode (c : BitVec 2) : Option RedOp :=
  match c.toNat with
  | 0 => some .store | 1 => some .add | 2 => some .max | _ => none

def BarScope.code : BarScope → BitVec 2
  | .crew => 0 | .clu => 1 | .die => 2 | .grid => 3

def BarScope.ofCode (c : BitVec 2) : BarScope :=
  match c.toNat with
  | 0 => .crew | 1 => .clu | 2 => .die | _ => .grid

def CsrOp.code : CsrOp → Byte
  | .write => 0 | .set => 1 | .clear => 2

def CsrOp.ofCode (c : Byte) : Option CsrOp :=
  match c.toNat with
  | 0 => some .write | 1 => some .set | 2 => some .clear | _ => none

/-! ### Descriptors and address fields -/

/-- The memory descriptor word (R134, Table 6). -/
def MDesc.encode (m : MDesc) : Word :=
  m.size.code ++ m.scope.code ++ m.order.code ++ m.op ++ m.hint ++ (0 : BitVec 2) ++ m.off

/-- The descriptor of a word; size codes 5 to 7 and scope code 7 are illegal (R134). -/
def mdescOf (w : Word) : Option MDesc :=
  match MSize.ofCode (w.extractLsb' 29 3), Scope.ofCode (w.extractLsb' 26 3) with
  | some sz, some sc =>
    some ⟨sz, sc, Order.ofCode (w.extractLsb' 24 2), w.extractLsb' 20 4, w.extractLsb' 18 2,
      w.extractLsb' 0 16⟩
  | _, _ => none

/-- Field a of a format M word (R135). -/
def MAddr.encodeA (a : MAddr) : Byte := b1 a.sx ++ b1 a.idx.isSome ++ a.base

/-- Field b of a format M word: the index register, or zero (R135). -/
def MAddr.encodeB (a : MAddr) : Byte := a.idx.getD 0

/-- The address fields of a format M word. -/
def maddrOf (a b : Byte) : MAddr := ⟨sreg a, if bit a 6 then some b else none, bit a 7⟩

/-- The address fields of a remote instruction, whose index is the register after the peer (R253). -/
def raddrOf (a b : Byte) : MAddr := ⟨sreg a, if bit a 6 then some (b + 1) else none, bit a 7⟩

/-! ### Scalar moulds -/

/-- Fields d, a, b of the arithmetic mould (R174, Table 4). -/
def arithD (w : Bool) (d : SReg) (b : Src2) : Byte :=
  (match b with | .imm _ => b1 true | .reg _ => b1 false) ++ b1 w ++ d

def arithA (u : Bool) (a : SReg) : Byte := b1 u ++ (0 : BitVec 1) ++ a

def Src2.encode : Src2 → Byte
  | .reg r => ofS r
  | .imm n => n

/-- The second operand from field b, an immediate when I is set. -/
def src2Of (i : Bool) (b : Byte) : Src2 := if i then .imm b else .reg (sreg b)

/-- A predicate destination with a condition code (R131). -/
def condD (c : Cond) (p : PReg) : Byte := c.code ++ p

/-- A predicate destination with the ALL bit (R211). -/
def allD (all : Bool) (p : PReg) : Byte := (0 : BitVec 4) ++ b1 all ++ p

/-! ### Encoding -/

/-- One word of format A. -/
def encA (op d a b : Byte) : List Word := [mkWord op d a b]

/-- Two words: format L, or format M with its descriptor. -/
def encL (op d a b : Byte) (lit : Word) : List Word := [mkWord op d a b, lit]

/-- A format M instruction with the address fields of R135. -/
def encM (op d : Byte) (a : MAddr) (m : MDesc) : List Word := encL op d a.encodeA a.encodeB m.encode

/-- A remote instruction: field b is the peer register (R253). -/
def encR (op d : Byte) (a : MAddr) (peer : VReg) (m : MDesc) : List Word :=
  encL op d a.encodeA peer m.encode

/-- The arithmetic mould. -/
def encS (op : Byte) (w u : Bool) (d a : SReg) (b : Src2) : List Word :=
  encA op (arithD w d b) (arithA u a) b.encode

/-- The words of an instruction; events have none. -/
def encode : Instr → List Word
  | .nop => encA 0x00 0 0 0
  | .bra off => [(0x01 : Byte) ++ off]
  | .bsz a off => encL 0x02 0 (ofS a) 0 off
  | .bsnz a off => encL 0x03 0 (ofS a) 0 off
  | .brp neg p toff joff => encL 0x04 ((0 : BitVec 7) ++ b1 neg) (ofP p) 0 (toff ++ joff)
  | .bany p off => encL 0x05 0 (ofP p) 0 off
  | .ball p off => encL 0x06 0 (ofP p) 0 off
  | .join => encA 0x07 0 0 0
  | .jmpiVector a b joff => encL 0x08 0 a (ofS b) joff
  | .jmpiUniform b => encL 0x08 1 0 (ofS b) 0
  | .call d off => encL 0x09 (ofS d) 0 0 off
  | .calli d a => encA 0x0A (ofS d) (ofS a) 0
  | .ret a => encA 0x0B 0 (ofS a) 0
  | .exit => encA 0x0C 0 0 0
  | .macroWord m p0 p1 => encA 0x0D (ofS m) p0 p1
  | .yield => encA 0x0E 0 0 0
  | .trap n => encA 0x0F 0 0 n
  | .sadd w u d a b => encS 0x10 w u d a b
  | .ssub w u d a b => encS 0x11 w u d a b
  | .smul w u d a b => encS 0x12 w u d a b
  | .smulh w u d a b => encS 0x13 w u d a b
  | .sdiv w u d a b => encS 0x14 w u d a b
  | .srem w u d a b => encS 0x15 w u d a b
  | .sand w u d a b => encS 0x16 w u d a b
  | .sor w u d a b => encS 0x17 w u d a b
  | .sxor w u d a b => encS 0x18 w u d a b
  | .sshl w u d a b => encS 0x19 w u d a b
  | .sshr w u d a b => encS 0x1A w u d a b
  | .ssra w u d a b => encS 0x1B w u d a b
  | .smin w u d a b => encS 0x1C w u d a b
  | .smax w u d a b => encS 0x1D w u d a b
  | .scmp c p u a b =>
    encA 0x1E (condD c p) (b1 u ++ (match b with | .imm _ => b1 true | .reg _ => b1 false) ++ a) b.encode
  | .ssel d a b p all => encL 0x1F (ofS d) (ofS a) (ofS b) ((0 : BitVec 28) ++ b1 all ++ p)
  | .smov d a => encA 0x20 (ofS d) (ofS a) 0
  | .sli d md lit => encL 0x21 (ofS d) md.code 0 lit
  | .slea d a b k => encA 0x22 (ofS d) (ofS a) (k ++ b)
  | .sbfe d a pos len sx =>
    encL 0x23 (ofS d) (ofS a) 0 ((0 : BitVec 15) ++ b1 sx ++ (0 : BitVec 1) ++ len ++ (0 : BitVec 2) ++ pos)
  | .sbfi d a pos len =>
    encL 0x24 (ofS d) (ofS a) 0 ((0 : BitVec 17) ++ len ++ (0 : BitVec 2) ++ pos)
  | .sbit op w d a => encA 0x25 ((0 : BitVec 1) ++ b1 w ++ d) (ofS a) op.code
  | .sr d sel => encA 0x26 (ofS d) sel.code 0
  | .sw sel a => encA 0x27 sel.code (ofS a) 0
  | .add d a b => encA 0x28 d a b
  | .sub d a b => encA 0x29 d a b
  | .mul d a b => encA 0x2A d a b
  | .mulh d a b => encA 0x2B d a b
  | .mad d a b => encA 0x2C d a b
  | .min d a b => encA 0x2D d a b
  | .max d a b => encA 0x2E d a b
  | .abs d a => encA 0x2F d a 0
  | .neg d a => encA 0x30 d a 0
  | .and d a b => encA 0x31 d a b
  | .or d a b => encA 0x32 d a b
  | .xor d a b => encA 0x33 d a b
  | .not d a => encA 0x34 d a 0
  | .shl d a b => encA 0x35 d a b
  | .shr d a b => encA 0x36 d a b
  | .sra d a b => encA 0x37 d a b
  | .rot d a b => encA 0x38 d a b
  | .bfe d a pos len => encL 0x39 d a 0 ((0 : BitVec 18) ++ len ++ (0 : BitVec 3) ++ pos)
  | .bfi d a pos len => encL 0x3A d a 0 ((0 : BitVec 18) ++ len ++ (0 : BitVec 3) ++ pos)
  | .bcnt op d a => encA 0x3B d a op.code
  | .cmp c p a b => encA 0x3C (condD c p) a b
  | .sel d a b p neg => encL 0x3D d a b ((0 : BitVec 28) ++ b1 neg ++ p)
  | .mov d a => encA 0x3E d a 0
  | .movs d hi a => encA 0x3F d ((0 : BitVec 1) ++ b1 hi ++ a) 0
  | .li d lit => encL 0x40 d 0 0 lit
  | .lid d => encA 0x41 d 0 0
  | .fadd d a b => encA 0x42 d a b
  | .fsub d a b => encA 0x43 d a b
  | .fmul d a b => encA 0x44 d a b
  | .ffma d a b => encA 0x45 d a b
  | .fmin d a b => encA 0x46 d a b
  | .fmax d a b => encA 0x47 d a b
  | .fabs d a => encA 0x48 d a 0
  | .fneg d a => encA 0x49 d a 0
  | .fcmp c p a b => encA 0x4A (condD c p) a b
  | .frcp d a => encA 0x4B d a 0
  | .frsq d a => encA 0x4C d a 0
  | .fsqrt d a => encA 0x4D d a 0
  | .fdiv d a b => encA 0x4E d a b
  | .fexp2 d a => encA 0x4F d a 0
  | .flog2 d a => encA 0x50 d a 0
  | .fsin d a => encA 0x51 d a 0
  | .fcos d a => encA 0x52 d a 0
  | .fclass d a => encA 0x53 d a 0
  | .fround d a => encA 0x54 d a 0
  | .cvtf d a dst src => encA 0x55 d a (dst.code ++ src.code)
  | .cvti d a dst src => encA 0x56 d a (dst.code ++ src.code)
  | .cvtq d a b f => encL 0x57 d a (b.getD 0) ((0 : BitVec 30) ++ b1 b.isSome ++ b1 f)
  | .cvtd d a b f => encL 0x58 d a (b.getD 0) ((0 : BitVec 30) ++ b1 b.isSome ++ b1 f)
  | .pk d a b => encA 0x59 d a b
  | .upk d a h => encA 0x5A d a ((0 : BitVec 7) ++ b1 h)
  | .sp8x d a j => encA 0x5B d a ((0 : BitVec 6) ++ j)
  | .i4x d a b h => encL 0x5C d a b ((0 : BitVec 30) ++ h)
  | .shfl d a b => encA 0x5D d a b
  | .shflx d a n m => encL 0x5E d a 0 ((0 : BitVec 20) ++ m.code ++ n)
  | .bcast d a lane =>
    encA 0x5F (ofS d) a ((0 : BitVec 1) ++ b1 lane.isNone ++ lane.getD 0)
  | .vote d p op =>
    encA 0x60 (ofS d) (ofP p)
      (match op with
       | .any => 0x00
       | .all => 0x40
       | .ballot k => (2 : BitVec 2) ++ (0 : BitVec 2) ++ k)
  | .mcnt d p => encA 0x61 (ofS d) (ofP p) 0
  | .scan op d a => encA 0x62 d a op.code
  | .red op d a => encA 0x63 (ofS d) a op.code
  | .rank d p => encA 0x64 d (ofP p) 0
  | .compact d a p => encA 0x65 d a (ofP p)
  | .pand all d a b => encA 0x66 (allD all d) (ofP a) (ofP b)
  | .por all d a b => encA 0x67 (allD all d) (ofP a) (ofP b)
  | .pxor all d a b => encA 0x68 (allD all d) (ofP a) (ofP b)
  | .pnot all d a => encA 0x69 (allD all d) (ofP a) 0
  | .pmov all d a => encA 0x6A (allD all d) (ofP a) 0
  | .psetClr all d => encA 0x6B (allD all d) 0 0x00
  | .psetSet all d => encA 0x6B (allD all d) 0 0x40
  | .psetSc all d a k => encA 0x6B (allD all d) (ofS a) ((2 : BitVec 2) ++ (0 : BitVec 2) ++ k)
  | .xmset neg p => encA 0x6C 0 ((0 : BitVec 4) ++ b1 neg ++ p) 0
  | .xmget d => encA 0x6D (ofP d) 0 0
  | .mode m => [(0x6E : Byte) ++ m]
  | .modes a => encA 0x6F 0 (ofS a) 0
  | .lds d a m => encM 0x70 d a m
  | .sts d a m => encM 0x71 d a m
  | .ldsf d a m => encM 0x72 d a m
  | .ldse d a m => encM 0x73 d a m
  | .stsf d a m => encM 0x74 d a m
  | .stsx d a m => encM 0x75 d a m
  | .feclr a m => encM 0x76 0 a m
  | .feset a m => encM 0x77 0 a m
  | .feq d a m => encM 0x78 d a m
  | .ldg d a m => encM 0x79 d a m
  | .stg d a m => encM 0x7A d a m
  | .pfg a m => encM 0x7B 0 a m
  | .cwb a m => encM 0x7C 0 a m
  | .cinv a m => encM 0x7D 0 a m
  | .ldp d a m => encM 0x7E d a m
  | .rld d a p m => encR 0x7F d a p m
  | .rst d a p m => encR 0x80 d a p m
  | .ratm d a p m => encR 0x81 d a p m
  | .ratmr d a p m => encR 0x82 d a p m
  | .atm d a m => encM 0x83 d a m
  | .atmr d a m => encM 0x84 d a m
  | .cas d a m => encM 0x85 d a m
  | .cas128 d a m => encM 0x86 d a m
  | .xchg d a m => encM 0x87 d a m
  | .tclaim d => encA 0x90 (ofS d) 0 0
  | .trel a => encA 0x91 0 (ofS a) 0
  | .tld a b first cnt off =>
    encL 0x92 0 (ofS a) (ofS b) (off ++ (0 : BitVec 1) ++ cnt ++ (0 : BitVec 1) ++ first)
  | .tfmt a b => encA 0x93 0 (ofS a) (ofS b)
  | .mma a b k => encL 0x94 0 (ofS a) (ofS b) ((0 : BitVec 23) ++ k)
  | .mmaz a b k => encL 0x95 0 (ofS a) (ofS b) ((0 : BitVec 23) ++ k)
  | .mclr k => encA 0x96 0 0 ((0 : BitVec 6) ++ k)
  | .mdrainRegister d a fmt clr =>
    encL 0x97 d (ofS a) 0 ((0 : BitVec 26) ++ b1 clr ++ (0 : BitVec 2) ++ fmt.code)
  | .mdrainMemory a fmt red clr wide =>
    encL 0x97 0 (ofS a) 0
      ((0 : BitVec 24) ++ b1 wide ++ b1 true ++ b1 clr ++ red.code ++ fmt.code)
  | .mcoop a b k z mt nt =>
    encL 0x98 0 (ofS a) (ofS b)
      ((0 : BitVec 8) ++ nt ++ (0 : BitVec 1) ++ mt ++ (0 : BitVec 6) ++ b1 z ++ k)
  | .tzero a => encA 0x99 0 (ofS a) 0
  | .ttrans d a two => encA 0x9A (ofS d) (ofS a) (if two then 2 else 1)
  | .fence o sc => encA 0xA0 0 0 ((0 : BitVec 3) ++ o.code ++ sc.code)
  | .flwait m => encA 0xA1 0 ((0 : BitVec 4) ++ m.extractLsb' 8 4) (m.extractLsb' 0 8)
  | .twany d a => encA 0xA2 (ofS d) (ofS a) 0
  | .twall a => encA 0xA3 0 (ofS a) 0
  | .tffr d => encA 0xA4 (ofS d) 0 0
  | .tclr t => encA 0xA5 0 0 (ofS t)
  | .bar id sc => encA 0xA6 0 0 ((0 : BitVec 4) ++ id ++ sc.code)
  | .marm d base m => encL 0xA7 (ofS d) (ofS base) 0 m.encode
  | .mwait d a => encA 0xA8 (ofS d) (ofS a) 0
  | .grin => encA 0xA9 0 0 0
  | .grout => encA 0xAA 0 0 0
  | .grq d => encA 0xAB (ofS d) 0 0
  | .grwait d => encA 0xAC (ofS d) 0 0
  | .grfree d a => encA 0xAD (ofS d) (ofS a) 0
  | .grpop d => encA 0xAE (ofS d) 0 0
  | .step d => encA 0xAF (ofS d) 0 0
  | .stepq d => encA 0xB0 (ofS d) 0 0
  | .ldacq d a m => encM 0xB1 d a m
  | .strel d a m => encM 0xB2 d a m
  | .cpy d a sp hold t => encA 0xC0 (ofS d) (ofS a) (b1 sp ++ b1 hold ++ t)
  | .cpyx d a hold t => encA 0xC1 (ofS d) (ofS a) ((0 : BitVec 1) ++ b1 hold ++ t)
  | .gath a t => encA 0xC2 0 (ofS a) (ofS t)
  | .kvap a t => encA 0xC3 0 (ofS a) (ofS t)
  | .kvseal a t => encA 0xC4 0 (ofS a) (ofS t)
  | .kvcopy a t => encA 0xC5 0 (ofS a) (ofS t)
  | .smpl d a t => encA 0xC6 (ofS d) (ofS a) (ofS t)
  | .coll a t => encA 0xC7 0 (ofS a) (ofS t)
  | .spawn len a b => encA 0xC8 (ofP len) (ofS a) b
  | .launch d a hold => encA 0xC9 (ofS d) (ofS a) ((0 : BitVec 7) ++ b1 hold)
  | .resolve d a b => encA 0xCA (ofS d) (ofS a) (ofS b)
  | .wqpop d a b => encA 0xCB (ofS d) (ofS a) (ofS b)
  | .wqpush d a b => encA 0xCC (ofS d) (ofS a) (ofS b)
  | .cntp d a b => encA 0xCD (ofS d) (ofS a) (ofS b)
  | .csrr d addr => encL 0xD0 (ofS d) 0 0 ((0 : BitVec 16) ++ addr)
  | .csrw op addr a => encL 0xD1 op.code (ofS a) 0 ((0 : BitVec 16) ++ addr)
  | .tretRes a b => encA 0xD2 0 (ofS a) (ofS b)
  | .tretVal a b => encA 0xD2 1 (ofS a) (ofS b)
  | .tretKill a b => encA 0xD2 2 (ofS a) (ofS b)
  | .ecall n => encA 0xD3 0 0 n
  | .tlbiPage d a => encA 0xD4 (ofS d) (ofS a) 0
  | .tlbiCtx a => encA 0xD4 0 (ofS a) 1
  | .tlbiPart => encA 0xD4 0 0 2
  | .frz a => encA 0xD5 0 (ofS a) 0
  | .frzThaw a => encA 0xD5 0 (ofS a) 1
  | .wfi d a => encA 0xD6 (ofS d) (ofS a) 0
  | .sfence => encA 0xD7 0 0 0
  | .unassignedOpcode op => encA op 0 0 0
  | _ => []

/-! ### Decoding -/

/-- The instruction an opcode and its fields name, before spare bits and ranges are checked. -/
def parseA (op d a b : Byte) (lit : Word) : Option Instr :=
  match op.toNat with
  | 0x00 => some .nop
  | 0x01 => some (.bra (d ++ a ++ b))
  | 0x02 => some (.bsz (sreg a) lit)
  | 0x03 => some (.bsnz (sreg a) lit)
  | 0x04 => some (.brp (bit d 0) (preg a) (lit.extractLsb' 16 16) (lit.extractLsb' 0 16))
  | 0x05 => some (.bany (preg a) lit)
  | 0x06 => some (.ball (preg a) lit)
  | 0x07 => some .join
  | 0x08 => if bit d 0 then some (.jmpiUniform (sreg b)) else some (.jmpiVector a (sreg b) lit)
  | 0x09 => some (.call (sreg d) lit)
  | 0x0A => some (.calli (sreg d) (sreg a))
  | 0x0B => some (.ret (sreg a))
  | 0x0C => some .exit
  | 0x0D => some (.macroWord (sreg d) a b)
  | 0x0E => some .yield
  | 0x0F => some (.trap b)
  | 0x10 => some (.sadd (bit d 6) (bit a 7) (sreg d) (sreg a) (src2Of (bit d 7) b))
  | 0x11 => some (.ssub (bit d 6) (bit a 7) (sreg d) (sreg a) (src2Of (bit d 7) b))
  | 0x12 => some (.smul (bit d 6) (bit a 7) (sreg d) (sreg a) (src2Of (bit d 7) b))
  | 0x13 => some (.smulh (bit d 6) (bit a 7) (sreg d) (sreg a) (src2Of (bit d 7) b))
  | 0x14 => some (.sdiv (bit d 6) (bit a 7) (sreg d) (sreg a) (src2Of (bit d 7) b))
  | 0x15 => some (.srem (bit d 6) (bit a 7) (sreg d) (sreg a) (src2Of (bit d 7) b))
  | 0x16 => some (.sand (bit d 6) (bit a 7) (sreg d) (sreg a) (src2Of (bit d 7) b))
  | 0x17 => some (.sor (bit d 6) (bit a 7) (sreg d) (sreg a) (src2Of (bit d 7) b))
  | 0x18 => some (.sxor (bit d 6) (bit a 7) (sreg d) (sreg a) (src2Of (bit d 7) b))
  | 0x19 => some (.sshl (bit d 6) (bit a 7) (sreg d) (sreg a) (src2Of (bit d 7) b))
  | 0x1A => some (.sshr (bit d 6) (bit a 7) (sreg d) (sreg a) (src2Of (bit d 7) b))
  | 0x1B => some (.ssra (bit d 6) (bit a 7) (sreg d) (sreg a) (src2Of (bit d 7) b))
  | 0x1C => some (.smin (bit d 6) (bit a 7) (sreg d) (sreg a) (src2Of (bit d 7) b))
  | 0x1D => some (.smax (bit d 6) (bit a 7) (sreg d) (sreg a) (src2Of (bit d 7) b))
  | 0x1E => (Cond.ofCode (d.extractLsb' 3 5)).map fun c =>
      .scmp c (preg d) (bit a 7) (sreg a) (src2Of (bit a 6) b)
  | 0x1F => some (.ssel (sreg d) (sreg a) (sreg b) (lit.extractLsb' 0 3) (bit lit 3))
  | 0x20 => some (.smov (sreg d) (sreg a))
  | 0x21 => (SliMode.ofCode a).map fun m => .sli (sreg d) m lit
  | 0x22 => some (.slea (sreg d) (sreg a) (sreg b) (b.extractLsb' 6 2))
  | 0x23 => some (.sbfe (sreg d) (sreg a) (lit.extractLsb' 0 6) (lit.extractLsb' 8 7) (bit lit 16))
  | 0x24 => some (.sbfi (sreg d) (sreg a) (lit.extractLsb' 0 6) (lit.extractLsb' 8 7))
  | 0x25 => (BitOp.ofCode b).map fun o => .sbit o (bit d 6) (sreg d) (sreg a)
  | 0x26 => (Special.ofCode a).map fun sl => .sr (sreg d) sl
  | 0x27 => (Special.ofCode d).map fun sl => .sw sl (sreg a)
  | 0x28 => some (.add d a b)
  | 0x29 => some (.sub d a b)
  | 0x2A => some (.mul d a b)
  | 0x2B => some (.mulh d a b)
  | 0x2C => some (.mad d a b)
  | 0x2D => some (.min d a b)
  | 0x2E => some (.max d a b)
  | 0x2F => some (.abs d a)
  | 0x30 => some (.neg d a)
  | 0x31 => some (.and d a b)
  | 0x32 => some (.or d a b)
  | 0x33 => some (.xor d a b)
  | 0x34 => some (.not d a)
  | 0x35 => some (.shl d a b)
  | 0x36 => some (.shr d a b)
  | 0x37 => some (.sra d a b)
  | 0x38 => some (.rot d a b)
  | 0x39 => some (.bfe d a (lit.extractLsb' 0 5) (lit.extractLsb' 8 6))
  | 0x3A => some (.bfi d a (lit.extractLsb' 0 5) (lit.extractLsb' 8 6))
  | 0x3B => (BitOp.ofCode b).map fun o => .bcnt o d a
  | 0x3C => (Cond.ofCode (d.extractLsb' 3 5)).map fun c => .cmp c (preg d) a b
  | 0x3D => some (.sel d a b (lit.extractLsb' 0 3) (bit lit 3))
  | 0x3E => some (.mov d a)
  | 0x3F => some (.movs d (bit a 6) (sreg a))
  | _ => none

/-- Opcodes 0x40 to 0x6F. -/
def parseB (op d a b : Byte) (lit : Word) : Option Instr :=
  match op.toNat with
  | 0x40 => some (.li d lit)
  | 0x41 => some (.lid d)
  | 0x42 => some (.fadd d a b)
  | 0x43 => some (.fsub d a b)
  | 0x44 => some (.fmul d a b)
  | 0x45 => some (.ffma d a b)
  | 0x46 => some (.fmin d a b)
  | 0x47 => some (.fmax d a b)
  | 0x48 => some (.fabs d a)
  | 0x49 => some (.fneg d a)
  | 0x4A => (Cond.ofCode (d.extractLsb' 3 5)).map fun c => .fcmp c (preg d) a b
  | 0x4B => some (.frcp d a)
  | 0x4C => some (.frsq d a)
  | 0x4D => some (.fsqrt d a)
  | 0x4E => some (.fdiv d a b)
  | 0x4F => some (.fexp2 d a)
  | 0x50 => some (.flog2 d a)
  | 0x51 => some (.fsin d a)
  | 0x52 => some (.fcos d a)
  | 0x53 => some (.fclass d a)
  | 0x54 => some (.fround d a)
  | 0x55 => match Fmt.ofCode (b.extractLsb' 4 4), Fmt.ofCode (b.extractLsb' 0 4) with
      | some t, some f => some (.cvtf d a t f)
      | _, _ => none
  | 0x56 => match Fmt.ofCode (b.extractLsb' 4 4), Fmt.ofCode (b.extractLsb' 0 4) with
      | some t, some f => some (.cvti d a t f)
      | _, _ => none
  | 0x57 => some (.cvtq d a (if bit lit 1 then some b else none) (bit lit 0))
  | 0x58 => some (.cvtd d a (if bit lit 1 then some b else none) (bit lit 0))
  | 0x59 => some (.pk d a b)
  | 0x5A => some (.upk d a (bit b 0))
  | 0x5B => some (.sp8x d a (b.extractLsb' 0 2))
  | 0x5C => some (.i4x d a b (lit.extractLsb' 0 2))
  | 0x5D => some (.shfl d a b)
  | 0x5E => (ShflMode.ofCode (lit.extractLsb' 10 2)).map fun m => .shflx d a (lit.extractLsb' 0 10) m
  | 0x5F => some (.bcast (sreg d) a (if bit b 6 then none else some (sreg b)))
  | 0x60 => match (b.extractLsb' 6 2).toNat with
      | 0 => some (.vote (sreg d) (preg a) .any)
      | 1 => some (.vote (sreg d) (preg a) .all)
      | 2 => some (.vote (sreg d) (preg a) (.ballot (b.extractLsb' 0 4)))
      | _ => none
  | 0x61 => some (.mcnt (sreg d) (preg a))
  | 0x62 => (FoldOp.ofCode b).map fun o => .scan o d a
  | 0x63 => (FoldOp.ofCode b).map fun o => .red o (sreg d) a
  | 0x64 => some (.rank d (preg a))
  | 0x65 => some (.compact d a (preg b))
  | 0x66 => some (.pand (bit d 3) (preg d) (preg a) (preg b))
  | 0x67 => some (.por (bit d 3) (preg d) (preg a) (preg b))
  | 0x68 => some (.pxor (bit d 3) (preg d) (preg a) (preg b))
  | 0x69 => some (.pnot (bit d 3) (preg d) (preg a))
  | 0x6A => some (.pmov (bit d 3) (preg d) (preg a))
  | 0x6B => match (b.extractLsb' 6 2).toNat with
      | 0 => some (.psetClr (bit d 3) (preg d))
      | 1 => some (.psetSet (bit d 3) (preg d))
      | 2 => some (.psetSc (bit d 3) (preg d) (sreg a) (b.extractLsb' 0 4))
      | _ => none
  | 0x6C => some (.xmset (bit a 3) (preg a))
  | 0x6D => some (.xmget (preg d))
  | 0x6E => some (.mode (d ++ a ++ b))
  | 0x6F => some (.modes (sreg a))
  | _ => none

/-- Opcodes 0x70 to 0x87, format M. -/
def parseM (op d a b : Byte) (lit : Word) : Option Instr :=
  match mdescOf lit with
  | none => none
  | some m =>
    match op.toNat with
    | 0x70 => some (.lds d (maddrOf a b) m)
    | 0x71 => some (.sts d (maddrOf a b) m)
    | 0x72 => some (.ldsf d (maddrOf a b) m)
    | 0x73 => some (.ldse d (maddrOf a b) m)
    | 0x74 => some (.stsf d (maddrOf a b) m)
    | 0x75 => some (.stsx d (maddrOf a b) m)
    | 0x76 => some (.feclr (maddrOf a b) m)
    | 0x77 => some (.feset (maddrOf a b) m)
    | 0x78 => some (.feq d (maddrOf a b) m)
    | 0x79 => some (.ldg d (maddrOf a b) m)
    | 0x7A => some (.stg d (maddrOf a b) m)
    | 0x7B => some (.pfg (maddrOf a b) m)
    | 0x7C => some (.cwb (maddrOf a b) m)
    | 0x7D => some (.cinv (maddrOf a b) m)
    | 0x7E => some (.ldp d (maddrOf a b) m)
    | 0x7F => some (.rld d (raddrOf a b) b m)
    | 0x80 => some (.rst d (raddrOf a b) b m)
    | 0x81 => some (.ratm d (raddrOf a b) b m)
    | 0x82 => some (.ratmr d (raddrOf a b) b m)
    | 0x83 => some (.atm d (maddrOf a b) m)
    | 0x84 => some (.atmr d (maddrOf a b) m)
    | 0x85 => some (.cas d (maddrOf a b) m)
    | 0x86 => some (.cas128 d (maddrOf a b) m)
    | 0x87 => some (.xchg d (maddrOf a b) m)
    | 0xA7 => some (.marm (sreg d) (sreg a) m)
    | 0xB1 => some (.ldacq d (maddrOf a b) m)
    | 0xB2 => some (.strel d (maddrOf a b) m)
    | _ => none

/-- Opcodes 0x90 to 0xD7 outside format M. -/
def parseC (op d a b : Byte) (lit : Word) : Option Instr :=
  match op.toNat with
  | 0x90 => some (.tclaim (sreg d))
  | 0x91 => some (.trel (sreg a))
  | 0x92 => some (.tld (sreg a) (sreg b) (lit.extractLsb' 0 7) (lit.extractLsb' 8 7)
      (lit.extractLsb' 16 16))
  | 0x93 => some (.tfmt (sreg a) (sreg b))
  | 0x94 => some (.mma (sreg a) (sreg b) (lit.extractLsb' 0 9))
  | 0x95 => some (.mmaz (sreg a) (sreg b) (lit.extractLsb' 0 9))
  | 0x96 => some (.mclr (b.extractLsb' 0 2))
  | 0x97 => match OFmt.ofCode (lit.extractLsb' 0 3), RedOp.ofCode (lit.extractLsb' 3 2) with
      | some f, some r =>
        if bit lit 6 then some (.mdrainMemory (sreg a) f r (bit lit 5) (bit lit 7))
        else some (.mdrainRegister d (sreg a) f (bit lit 5))
      | _, _ => none
  | 0x98 => some (.mcoop (sreg a) (sreg b) (lit.extractLsb' 0 9) (bit lit 9) (lit.extractLsb' 16 3)
      (lit.extractLsb' 20 4))
  | 0x99 => some (.tzero (sreg a))
  | 0x9A => some (.ttrans (sreg d) (sreg a) (bit b 1))
  | 0xA0 => (Scope.ofCode (b.extractLsb' 0 3)).map fun sc => .fence (Order.ofCode (b.extractLsb' 3 2)) sc
  | 0xA1 => some (.flwait (a.extractLsb' 0 4 ++ b))
  | 0xA2 => some (.twany (sreg d) (sreg a))
  | 0xA3 => some (.twall (sreg a))
  | 0xA4 => some (.tffr (sreg d))
  | 0xA5 => some (.tclr (sreg b))
  | 0xA6 => some (.bar (b.extractLsb' 2 2) (BarScope.ofCode (b.extractLsb' 0 2)))
  | 0xA8 => some (.mwait (sreg d) (sreg a))
  | 0xA9 => some .grin
  | 0xAA => some .grout
  | 0xAB => some (.grq (sreg d))
  | 0xAC => some (.grwait (sreg d))
  | 0xAD => some (.grfree (sreg d) (sreg a))
  | 0xAE => some (.grpop (sreg d))
  | 0xAF => some (.step (sreg d))
  | 0xB0 => some (.stepq (sreg d))
  | 0xC0 => some (.cpy (sreg d) (sreg a) (bit b 7) (bit b 6) (sreg b))
  | 0xC1 => some (.cpyx (sreg d) (sreg a) (bit b 6) (sreg b))
  | 0xC2 => some (.gath (sreg a) (sreg b))
  | 0xC3 => some (.kvap (sreg a) (sreg b))
  | 0xC4 => some (.kvseal (sreg a) (sreg b))
  | 0xC5 => some (.kvcopy (sreg a) (sreg b))
  | 0xC6 => some (.smpl (sreg d) (sreg a) (sreg b))
  | 0xC7 => some (.coll (sreg a) (sreg b))
  | 0xC8 => some (.spawn (preg d) (sreg a) b)
  | 0xC9 => some (.launch (sreg d) (sreg a) (bit b 0))
  | 0xCA => some (.resolve (sreg d) (sreg a) (sreg b))
  | 0xCB => some (.wqpop (sreg d) (sreg a) (sreg b))
  | 0xCC => some (.wqpush (sreg d) (sreg a) (sreg b))
  | 0xCD => some (.cntp (sreg d) (sreg a) (sreg b))
  | 0xD0 => some (.csrr (sreg d) (lit.extractLsb' 0 16))
  | 0xD1 => (CsrOp.ofCode d).map fun o => .csrw o (lit.extractLsb' 0 16) (sreg a)
  | 0xD2 => match d.toNat with
      | 0 => some (.tretRes (sreg a) (sreg b))
      | 1 => some (.tretVal (sreg a) (sreg b))
      | 2 => some (.tretKill (sreg a) (sreg b))
      | _ => none
  | 0xD3 => some (.ecall b)
  | 0xD4 => match b.toNat with
      | 0 => some (.tlbiPage (sreg d) (sreg a))
      | 1 => some (.tlbiCtx (sreg a))
      | 2 => some .tlbiPart
      | _ => none
  | 0xD5 => if bit b 0 then some (.frzThaw (sreg a)) else some (.frz (sreg a))
  | 0xD6 => some (.wfi (sreg d) (sreg a))
  | 0xD7 => some .sfence
  | _ => none

/-- The instruction named by the words, spare bits not yet checked. -/
def parse (w lit : Word) : Option Instr :=
  let op := opOf w
  match parseA op (dOf w) (aOf w) (bOf w) lit with
  | some i => some i
  | none =>
    match parseB op (dOf w) (aOf w) (bOf w) lit with
    | some i => some i
    | none =>
      match parseM op (dOf w) (aOf w) (bOf w) lit with
      | some i => some i
      | none => parseC op (dOf w) (aOf w) (bOf w) lit

/-- How many words an instruction word takes: its format follows from its opcode alone (R130). -/
def wordsOf (w : Word) : Nat :=
  match (opOf w).toNat with
  | 0x02 | 0x03 | 0x04 | 0x05 | 0x06 | 0x08 | 0x09 | 0x1F | 0x21 | 0x23 | 0x24 | 0x39 | 0x3A => 2
  | 0x3D | 0x40 | 0x57 | 0x58 | 0x5C | 0x5E => 2
  | 0x70 | 0x71 | 0x72 | 0x73 | 0x74 | 0x75 | 0x76 | 0x77 | 0x78 | 0x79 | 0x7A | 0x7B | 0x7C => 2
  | 0x7D | 0x7E | 0x7F | 0x80 | 0x81 | 0x82 | 0x83 | 0x84 | 0x85 | 0x86 | 0x87 => 2
  | 0x92 | 0x94 | 0x95 | 0x97 | 0x98 | 0xA7 | 0xB1 | 0xB2 | 0xD0 | 0xD1 => 2
  | _ => 1

/-- The words that belong to an instruction word and the word after it. -/
def wordsAt (w lit : Word) : List Word := if wordsOf w = 2 then [w, lit] else [w]

/-- Decode an instruction word with the word after it (R119 to R142). An unassigned opcode decodes to
the instruction that takes its illegal-instruction fault (R140). -/
def decode (w lit : Word) : Except DecodeErr Instr :=
  if isHeader w then .error .header
  else if unassigned (opOf w) then .ok (.unassignedOpcode (opOf w))
  else
    match parse w lit with
    | none => .error .illegal
    | some i => if i.wf && encode i == wordsAt w lit then .ok i else .error .illegal

/-- Four bytes, lowest address first, as a little-endian word (R5). -/
def wordOfBytes (b0 b1 b2 b3 : Byte) : Word := b3 ++ b2 ++ b1 ++ b0

/-- The bytes of a word, lowest address first (R5). -/
def bytesOfWord (w : Word) : List Byte :=
  [w.extractLsb' 0 8, w.extractLsb' 8 8, w.extractLsb' 16 8, w.extractLsb' 24 8]

/-- A little-endian word from the front of a byte list; absent bytes are zero. -/
def wordOfList (l : List Byte) : Word :=
  wordOfBytes (l.getD 0 0) (l.getD 1 0) (l.getD 2 0) (l.getD 3 0)

/-- The two words a table row's bits stand for: bit 0 is the least significant bit of the first word. -/
def tableWords (nbits w : Nat) : Word × Word :=
  let v := w % 2 ^ nbits
  (BitVec.ofNat 32 v, BitVec.ofNat 32 (v / 2 ^ 32))

/-- The instruction the decoder reads from a word of the opcode table, laid out in memory bytes. -/
def decodeTableWord (nbits w : Nat) : Option Instr :=
  let ws := tableWords nbits w
  let bytes := bytesOfWord ws.1 ++ bytesOfWord ws.2
  match decode (wordOfList bytes) (wordOfList (bytes.drop 4)) with
  | .ok i => some i
  | .error _ => none

end Sys2Proof
end

