-- ==== Sys2Proof/Config.lean ====
section
/-! DEFINITION. What the manual leaves open: free values with no body, so that no proof can lean on
one, each applied to the operands it depends on or to the counter State.fresh. Each is named in the
assumption log. -/

namespace Sys2Proof.Config

/-- The time that passes at a step of the machine, in parts of a TSC tick (timing is open, R227; assumption 2). -/
opaque elapsed : Nat → Nat

/-- The fixed hash that spreads spans over the L2's sets: programs cannot observe it (R72, R83;
assumption 9). -/
opaque l2Set : Nat → Nat

/-- Bytes a displaced versioned copy takes in the moraine (R83; assumption 9). -/
opaque moraineBytes : Nat → Nat

/-- SHA-384 of a byte string (R484, R486): the manual names the function and does not define it. -/
opaque sha384 : List Byte → List Byte

/-- The firmware image the flash holds when it is supplied: empty where none is attached (R494). -/
opaque makerImage : List Byte

/-- Whether an image's ECDSA P-384 signature verifies against the fused key hash, and its security
version (R484): the manual does not give an image's layout. -/
opaque imageSigned : List Byte → Bool
opaque imageSvn : List Byte → Nat

/-- Whether the boot flash is attached and answers (R494): applied to State.fresh. -/
opaque flashAnswers : Nat → Bool

/-- Whether the running firmware raises the fused minimum (R485): its own decision. -/
opaque raisesFuse : Nat → Bool

/-- An ECDSA P-384 signature by the device identity key (R486), given the bytes signed. -/
opaque sign : List Byte → List Byte

/-- The certificate chain of slot 0 (R486). -/
opaque certificate : List Byte

/-- The bytes of the boot ROM and of the fuse configuration that measurements 1 and 4 digest. -/
opaque romBytes : List Byte
opaque fuseBytes : List Byte

/-- The body of a DMTF SPDM response whose layout the manual leaves to that standard (R486). -/
opaque spdmBody : Nat → Nat → List Byte

/-- A rail telemetry value (R494). -/
opaque telemetry : Nat → Nat → Nat

/-- TSC ticks the ROM and firmware take from step 1 to step 5 of R484: ticks at 0.6 GHz before, and
ticks at 1.8 GHz after, the CLKCTL writes. -/
opaque bootSlow : Nat → Nat
opaque bootFast : Nat → Nat

/-- How far an operation that races with another has got: the products added to an accumulator that is drained
meanwhile, and whether a unit of a slot that is overwritten meanwhile is read old (R283, R302). -/
opaque raced : Nat → Nat

/-- Which flake a cache that is full evicts (R66; assumption 83). -/
opaque victim : Nat → Nat → Nat

/-- Which of the ports that may take a packet takes it at a sending (R473). -/
opaque spine : Nat → Nat → Nat

/-- Which of an old and a new translation a lane's access to an address uses, while the TLBs hold both (R444). -/
opaque translation : Nat → Nat → Nat → Nat

/-- The value left of a race or of working storage whose contents are open (R283, R366, R384). -/
opaque openByte : Nat → Byte

end Sys2Proof.Config
end

