-- ==== Sys2Proof/Machine/Store.lean ====
section
/-! DEFINITION. Sparse tables in one canonical form: keys strictly rising, and no entry equal to the
value an unlisted key reads as. Memory, register files, scratchpads and the device's tables are held
so, and equal contents are equal lists. -/

namespace Sys2Proof

/-- A sparse table from Nat keys. What an unlisted key reads as is given to `get` and `set`. -/
abbrev Store (β : Type) := List (Nat × β)

namespace Store

variable {β : Type}

/-- The value at a key, or the default when the key is not listed. -/
def get (dflt : β) : Store β → Nat → β
  | [], _ => dflt
  | (k, v) :: rest, key => if k = key then v else get dflt rest key

/-- Remove a key, which then reads as the default. -/
def erase (m : Store β) (key : Nat) : Store β := m.filter fun e => e.1 != key

/-- List a value at a key, in the rising order of keys. -/
def put : Store β → Nat → β → Store β
  | [], key, v => [(key, v)]
  | (k, w) :: rest, key, v =>
    if k < key then (k, w) :: put rest key v
    else if k = key then (key, v) :: rest
    else (key, v) :: (k, w) :: rest

/-- Write a key, keeping the canonical form: writing the default removes the entry. -/
def set [DecidableEq β] (dflt : β) (m : Store β) (key : Nat) (v : β) : Store β :=
  if v = dflt then erase m key else put m key v

/-- Write consecutive keys from a first one. -/
def setList [DecidableEq β] (dflt : β) : Store β → Nat → List β → Store β
  | m, _, [] => m
  | m, key, v :: vs => setList dflt (set dflt m key v) (key + 1) vs

/-- Read n consecutive keys. -/
def getList (dflt : β) (m : Store β) (key n : Nat) : List β :=
  (List.range n).map fun i => get dflt m (key + i)

/-- The canonical form: every key at least lo, keys strictly rising, no default listed. -/
def wfFrom [DecidableEq β] (dflt : β) : Nat → Store β → Bool
  | _, [] => true
  | lo, (k, v) :: rest => decide (lo ≤ k) && decide (v ≠ dflt) && wfFrom dflt (k + 1) rest

/-- The canonical form of a whole table. -/
def wf [DecidableEq β] (dflt : β) (m : Store β) : Bool := wfFrom dflt 0 m

end Store
end Sys2Proof
end

