-- ==== Sys2Proof/Machine/Data.lean ====
section
/-! DEFINITION. The records the device's state is made of: paths and teams (R12), crews, cores and
their arrays, engine commands, grids and carts, contexts and queues, speculation domains, the fabric,
clocks and bring-up. Every record is plain data. -/

namespace Sys2Proof.Machine

/-! ### Paths and teams -/

/-- A serial stack entry (R159, Table 3). -/
structure StackEntry where
  indirect : Bool
  outer    : Mask
  pend     : Mask
  ppc      : BitVec 56
  join     : BitVec 56
  rsm      : Bool
  deriving DecidableEq, Repr

/-- A `macro` word being executed (R125, R153): its number, parameters and next operation. -/
structure MacroRun where
  num : Nat
  p0  : Byte
  p1  : Byte
  idx : Nat
  deriving DecidableEq, Repr

/-- What a path that is not ready waits for (R47). -/
inductive Wait where
  /-- Nothing: the path may issue. -/
  | none
  /-- Completion flags: a clause's WAIT, `flwait`, or a busy flag of its own slot (R122, R127, R307). -/
  | flags (m : BitVec 12)
  /-- The `join` at which a divided team merges (R20). -/
  | join
  /-- Full/empty words: the lanes not in the done mask wait, for these words of crews' scratchpads to be
  full, or empty (R259, R261). -/
  | fullEmpty (words : List (Nat × Nat × Bool))
  /-- An instance of a barrier (R310). -/
  | bar (scope : BarScope) (id : BitVec 2) (inst : Nat)
  /-- `mwait`, with the TSC at which reason 1 ends it (R313). -/
  | mwait (deadline : Option Nat) (d : SReg)
  /-- `wfi`, likewise (R406). -/
  | wfi (deadline : Option Nat) (d : SReg)
  /-- The end of a grace period (R316). -/
  | grwait (period : Nat) (d : SReg)
  /-- The departure from a boundary (R319). -/
  | step (s : Nat) (d : SReg)
  /-- Copy tags named in a mask: some clear, or all clear (R309). -/
  | tags (mask : BitVec 64) (all : Bool)
  /-- The late value of a register the next instruction reads (R63, R304). -/
  | late
  /-- A remote request (R267). -/
  | remote (serial : Nat)
  /-- A semaphore read to be served at the end of the tick (R412). -/
  | sem (n : Nat) (d : SReg)
  /-- An ATS translation or page response (R445). -/
  | ats (port : Bool) (page : Nat)
  /-- The rendezvous of an `mcoop` (R297). -/
  | mcoop
  /-- What a release waits for (R220, R282, R305). -/
  | release
  /-- Room in a queue or table: array queue, engine queue, held copies, grids, miss entries; a line that an
  engine command owns. -/
  | room
  /-- A stalled `spawn`: a free cart (R40, R47). -/
  | spawn
  /-- A `frz` of its own context, until the freeze takes effect (R404, R461). -/
  | frz
  /-- The departure of the device, before a load of a pod-shared region (R240, R270). -/
  | boundary
  /-- A stop: only `tret`, a kill or a squash ends it (R447). -/
  | stopped
  deriving DecidableEq, Repr

/-- A stop of a path (R447, R448, R451). -/
structure Stop where
  handle : BitVec 64
  cause  : Nat
  sub    : Nat
  deriving DecidableEq, Repr

/-- A poisoned result not yet reported (R248): the flag of the operation, its PC, its done mask and
the registers of its destination: a vector register as its number, a uniform one as 256 + its number. -/
structure PoisonNote where
  flag   : Option Nat
  loadpc : DWord
  done   : Mask
  vregs  : List Nat
  lane   : Nat
  addr   : DWord
  /-- The access: 0 a load, 2 an atomic (R450, DETAIL). -/
  kind   : Nat
  deriving DecidableEq, Repr

/-- A path's monitor (R312, R313): the armed flake, whether a write landed on it since. -/
structure Monitor where
  flake    : Nat
  landed   : Bool
  restored : Bool
  deriving DecidableEq, Repr

/-- The per-path state of R12, with the clause position of R125 and the path's wait. -/
structure Path where
  /-- The path exists: it has been created and has not ended (R161). -/
  live     : Bool
  pc       : DWord
  inClause : Bool
  hdrAddr  : DWord
  hdrWord  : Word
  widx     : Nat
  ll       : Nat
  mac      : Option MacroRun
  xm       : Mask
  md       : BitVec 24
  status   : BitVec 7
  flags    : BitVec 12
  stack    : List StackEntry
  domain   : Mask
  wait     : Wait
  done     : Mask
  stop     : Option Stop
  monitor  : Option Monitor
  pend0    : Bool
  pend2    : Bool
  /-- The tick at which a DOORBELL ended its `wfi`, and the register of the reason, until it issues again (R406). -/
  woke     : Option (Nat × SReg)
  age      : Nat
  poison   : List PoisonNote
  /-- Flakes whose stores failed (R247, R457): the key of the line or of the versioned copy, and the
  virtual address. -/
  failed   : List (Nat × Nat)
  /-- A release fence stands earlier in the path, at this scope, the widest of them: its later stores are release
  events of that scope (R220). -/
  fenced   : Option Scope
  deriving DecidableEq, Repr

/-- A path that does not exist. -/
def Path.none : Path where
  live := false
  pc := 0
  inClause := false
  hdrAddr := 0
  hdrWord := 0
  widx := 0
  ll := 0
  mac := Option.none
  xm := 0
  md := 0
  status := 0
  flags := 0
  stack := []
  domain := 0
  wait := Wait.none
  done := 0
  stop := Option.none
  monitor := Option.none
  pend0 := false
  pend2 := false
  woke := Option.none
  age := 0
  poison := []
  failed := []
  fenced := Option.none

/-- Roles of a team (R23), in code order. -/
inductive Role where
  | work | drain | feed | matrix
  deriving DecidableEq, Repr

/-- A team (R12): its registers, masks, paths and the state the spec holds by team. -/
structure Team where
  /-- The team has started and has not retired. -/
  live       : Bool
  crew       : Nat
  num        : Nat
  width      : Nat
  role       : Role
  budget     : Nat
  s          : Store DWord
  p          : Store Mask
  /-- Vector registers, keyed reg × 1,024 + lane. -/
  v          : Store Word
  retired    : Mask
  grace      : Nat
  divided    : Bool
  djoin      : DWord
  /-- The serial counter at the division: what has a lower number precedes both paths (R222). -/
  divSer     : Nat
  path0      : Path
  path1      : Path
  /-- Arrivals made, keyed scope × 4 + id (R310). -/
  barArr     : Store Nat
  stepMember : Bool
  stepAt     : Option Nat
  killed     : Bool
  /-- Registers whose stored word has an uncorrectable error (R455). -/
  vErr       : List Nat
  sErr       : List Nat
  deriving DecidableEq, Repr

/-- No team. -/
def Team.none : Team where
  live := false
  crew := 0
  num := 0
  width := 0
  role := Role.work
  budget := 0
  s := []
  p := []
  v := []
  retired := 0
  grace := 0
  divided := false
  djoin := 0
  divSer := 0
  path0 := Path.none
  path1 := Path.none
  barArr := []
  stepMember := false
  stepAt := Option.none
  killed := false
  vErr := []
  sErr := []

/-! ### Cores and crews -/

/-- One operation of the macro control store (R151): its words and substitution bits. -/
structure MacroOp where
  w0   : Word
  w1   : Word
  subd : Bool
  suba : Bool
  subb : Bool
  deriving DecidableEq, Repr

/-- A crew (R11, R25): its place, its scratchpad with full/empty bits, its copy tags. -/
structure Crew where
  live     : Bool
  grid     : Nat
  lin      : Nat
  x        : Nat
  y        : Nat
  z        : Nat
  cluster  : Nat
  cidx     : Nat
  /-- die × 288 + CORE. -/
  core     : Nat
  slot     : Nat
  size     : Nat
  scratch  : Store Byte
  full     : Store Bool
  spPoison : List Nat
  tags     : BitVec 64
  tagErr   : BitVec 64
  /-- The widest scope of the commands that have cleared a tag since a wait observed it, where wider than
  the crew (R234). -/
  tagScope : Store Scope
  issues   : Nat
  /-- The version of its grid when it was placed, which stays taken while the crew remains (R39). -/
  origin   : Nat
  macros   : List (List MacroOp)
  matrix   : Bool
  mcoops   : Nat
  gated    : Bool
  frozen   : Bool
  /-- The done masks of its paths at the freeze, by team (R463). -/
  shown    : List (Nat × Mask × Mask)
  teams    : List Nat
  /-- Vector register demand in bytes (R25). -/
  demand   : Nat
  deriving DecidableEq, Repr

/-- No crew. -/
def Crew.none : Crew where
  live := false
  grid := 0
  lin := 0
  x := 0
  y := 0
  z := 0
  cluster := 0
  cidx := 0
  core := 0
  slot := 0
  size := 0
  scratch := []
  full := []
  spPoison := []
  tags := 0
  tagErr := 0
  tagScope := []
  issues := 0
  origin := 0
  macros := []
  matrix := false
  mcoops := 0
  gated := false
  frozen := false
  shown := []
  teams := []
  demand := 0

/-- A format block (R108). -/
structure FmtBlock where
  elem    : Nat
  layout  : Nat
  skind   : Nat
  sfmt    : Nat
  group   : Nat
  sstride : Nat
  zstride : Nat
  saddr   : DWord
  zaddr   : DWord
  deriving DecidableEq, Repr

/-- A recorded drain scale (R294): the array's address and its scale format. -/
structure DrainScale where
  addr : DWord
  fmt  : Nat
  deriving DecidableEq, Repr

/-- A multiply's operands, snapshotted at its issue (R292, R293). Scale and zero-point values of the
prologue are read at issue: keyed by row and group. -/
structure MulCmd where
  slotA : Nat
  slotB0 : Nat
  slotB1 : Option Nat
  coreA : Nat
  coreB : Nat
  fa    : FmtBlock
  fb    : FmtBlock
  double : Bool
  zero  : Bool
  klen  : Nat
  scalesA : Store (BitVec 32)
  scalesB : Store (BitVec 32)
  zerosA  : Store (BitVec 4)
  zerosB  : Store (BitVec 4)
  /-- How far each accumulator is, where a drain has looked meanwhile: 0 not begun, and otherwise one more than the products
  already added (R302). -/
  added   : Store Nat
  deriving DecidableEq, Repr

/-- A queued matrix instruction (R281). -/
inductive ArrayOp where
  | trel (slot : Nat)
  | tld (slot first count : Nat) (crew spaddr : Nat)
  | mul (m : MulCmd)
  | mclr (banks : BitVec 2)
  | coop (m : MulCmd) (cores : List Nat)
  | tzero (slot : Nat)
  | ttrans (dst src : Nat) (two : Bool)
  deriving DecidableEq, Repr

/-- An array-queue entry: the issuing path, its place in the issue order, the operation, and the bytes that
copies not ordered with it have overwritten in slots: core, byte, old value (R283). -/
structure ArrayEntry where
  r      : PathRef
  serial : Nat
  op     : ArrayOp
  old    : List (Nat × Nat × Byte)
  deriving DecidableEq, Repr

/-- The state of one core: pool boundaries are control registers; here the array, the tile store,
the queue and the issue order (R276 to R284, R432). -/
structure CoreSt where
  claimed : BitVec 32
  /-- Slots whose handle a `trel` has ended (R286). -/
  ending  : BitVec 32
  /-- The issue number of an executed `trel`, by slot: the slot is free once the copies that name it,
  issued before, have completed (R286). -/
  ended   : Store Nat
  gens    : Store Nat
  slots   : Store Byte
  slotPoison : List Nat
  /-- Accumulators as binary32, keyed bank × 4,096 + 64 m + n. -/
  acc     : Store Word
  accPoison : List Nat
  fa      : Option DWord
  fb      : Option DWord
  scaleA0 : Option DrainScale
  scaleB0 : Option DrainScale
  scaleA1 : Option DrainScale
  scaleB1 : Option DrainScale
  queue   : List ArrayEntry
  /-- Slot bytes that copies not yet complete have overwritten: the copy's serial number, the byte, its old
  value (R283). -/
  racing  : List (Nat × Nat × Byte)
  /-- The places, in the order of R432, of the paths that its two sequencers issued last: crew slot, TEAM, PATH. -/
  lastV   : Option Nat
  lastU   : Option Nat
  macros  : List (List MacroOp)
  deriving DecidableEq, Repr

/-- A core with nothing placed on it. Every slot's generation is 0 at reset, which the manual does not give, and a
crew that leaves the core by retiring or by a flush leaves the generations as a squash does (assumption 74). -/
def CoreSt.init : CoreSt where
  claimed := 0
  ending := 0
  ended := []
  gens := []
  slots := []
  slotPoison := []
  acc := []
  accPoison := []
  fa := none
  fb := none
  scaleA0 := none
  scaleB0 := none
  scaleA1 := none
  scaleB1 := none
  queue := []
  racing := []
  lastV := none
  lastU := none
  macros := []

/-! ### Memory traffic -/

/-- One byte of a remote-die copy (R229): its value, whether it is dirty, and the path whose store
dirtied it. -/
structure CopyByte where
  valid : Bool
  dirty : Bool
  val   : Byte
  owner : Option PathRef
  bad   : Bool
  /-- The virtual address it was stored through. -/
  va    : Nat
  /-- CYC of the holding die at its fill, or at the write that dirtied it (R230). -/
  since : Nat
  /-- The serial number of the store that dirtied it, and its context. -/
  ser   : Nat
  ctx   : Nat
  /-- It was filled from a poisoned flake, whose mark it carries (R456). -/
  poison : Bool
  deriving DecidableEq, Repr

/-- No copy of the byte. -/
def CopyByte.none : CopyByte where
  valid := false
  dirty := false
  val := 0
  owner := Option.none
  bad := false
  va := 0
  since := 0
  ser := 0
  ctx := 0
  poison := false

/-- A byte filled at a time, with the mark of the flake it came from. -/
def CopyByte.filled (b : Byte) (since : Nat) (poison : Bool) : CopyByte :=
  { CopyByte.none with valid := true, val := b, since := since, poison := poison }

/-- A dirty byte that belongs to no path: of host memory in its home L2. -/
def CopyByte.written (b : Byte) : CopyByte := { CopyByte.none with valid := true, dirty := true, val := b }

/-- A flake homed on its own die that a core's L1 holds dirty (R67): the key of its first byte, of the committed line or
of a versioned copy, and the stores that dirtied it: path, serial number, virtual address, context. -/
structure OwnLine where
  core   : Nat
  key    : Nat
  owners : List (PathRef × Nat × Nat × Nat)
  deriving DecidableEq, Repr

/-- What a store in flight will do at its home (R75, R272). -/
inductive HomeOp where
  | write (bytes : List Byte)
  | atomic (op : AtomOp) (size : Nat) (x : BitVec 64)
  deriving DecidableEq, Repr

/-- A plain store or non-returning atomic between issue and home (R75, R238, R247). -/
structure Flight where
  serial : Nat
  r      : PathRef
  ctx    : Nat
  dom    : Nat
  ver    : Nat
  core   : Nat
  key    : Nat
  op     : HomeOp
  poison : Bool
  /-- The die of its home. -/
  home   : Bool
  /-- The virtual address it was issued through. -/
  va     : Nat
  /-- It was issued before the team divided: it precedes both paths (R222). -/
  both   : Bool
  /-- A synchronising event (R220): a release, or an atomic. -/
  sync   : Bool
  /-- The pass it belongs to: the stores of one pass to one flake share a miss entry (R75). -/
  pass   : Nat
  /-- The flag of the long-latency operation that completes only once it has been performed (R126). -/
  tie    : Option Nat
  /-- A release: the path's earlier operations are performed before it (R220, R221). -/
  rel    : Bool
  /-- The tick at which it was sent (R275). -/
  sent   : Nat
  deriving DecidableEq, Repr

/-- A register write held by a long-latency operation or a late value. -/
inductive RegWrite where
  | v (reg lane : Nat) (val : Word)
  | s (reg : SReg) (val : DWord)
  deriving DecidableEq, Repr

/-- The lanes of a load that have not bound their values yet (R225, R227): lane, virtual address, key and
home die of each, with the destination and what a poisoned value will report (R248). -/
structure LoadSet where
  d      : Byte
  size   : MSize
  sx     : Bool
  bypass : Bool
  loadpc : DWord
  done   : Mask
  vregs  : List Nat
  lanes  : List (Nat × DWord × Nat × Bool)
  deriving DecidableEq, Repr

/-- A long-latency operation in progress (R126): its flag and what it will write. -/
structure Pend where
  serial : Nat
  r      : PathRef
  flag   : Nat
  writes : List RegWrite
  poison : Option PoisonNote
  /-- It waits for something besides time: an ALLOC answer or resolve acknowledgements. -/
  held   : Bool
  /-- The loads that have not bound. -/
  loads  : Option LoadSet
  /-- Miss entries it holds until its data returns (R75). -/
  misses : Nat
  /-- A memory access: what it would write to lanes that have retired is discarded (R170). -/
  memory : Bool
  /-- The completion scope, where it is wider than the crew (R234, R307). -/
  scope  : Option Scope
  deriving DecidableEq, Repr

/-- A late value of a short instruction (R63, R304). -/
structure Late where
  serial : Nat
  r      : PathRef
  writes : List RegWrite
  poison : Option PoisonNote
  /-- A load: what it would write to lanes that have retired is discarded (R170). -/
  memory : Bool
  deriving DecidableEq, Repr

/-- A remote request awaiting its reply (R267, R268, R472). -/
structure Req where
  serial    : Nat
  r         : PathRef
  packet    : Packet
  lanes     : Mask
  /-- The data register and its sign extension, where the request returns values. -/
  dest      : Option (Byte × Bool)
  suspended : Bool
  resends   : Nat
  /-- A request of the device to itself has come to it (R266). -/
  looped    : Bool
  /-- The tick at which it was sent (R472). -/
  sent      : Nat
  /-- A lane that faults at the source once the lanes below it have ended: cause, sub-cause, lane, address
  (R254). -/
  after     : Option (Nat × Nat × Nat × DWord)
  /-- The run has ended and the next one has not been sent yet. -/
  ended     : Bool
  /-- The port it was last sent through (R467): none for one of the device to itself, and while no port takes it. -/
  port      : Option Nat
  deriving DecidableEq, Repr

/-- A message of class 2 or 3 that its destination has not acknowledged (R472): the port it was last sent through, the
tick of its first sending, and how often it has been sent again. -/
structure PodSent where
  p       : Packet
  port    : Option Nat
  sent    : Nat
  resends : Nat
  deriving DecidableEq, Repr

/-- A TLB entry (R444): held by a core (0 to 575) or a cluster unit (576 to 581). -/
structure TlbEntry where
  unit  : Nat
  ctx   : Nat
  vbase : Nat
  size  : Nat
  pbase : Nat
  host  : Bool
  port  : Bool
  home  : Bool
  perms : BitVec 4
  deriving DecidableEq, Repr

/-- An entry of a host port's address translation cache (R445). -/
structure AtcEntry where
  port   : Bool
  ctx    : Nat
  page   : Nat
  target : Nat
  write  : Bool
  deriving DecidableEq, Repr

/-- A page request group (R445): the faulting instruction's path, engine command or launch queue, and the page. -/
structure PageReq where
  who  : PathRef
  port : Bool
  ctx  : Nat
  page : Nat
  /-- The tick at which the host was asked. -/
  sent : Nat
  deriving DecidableEq, Repr

/-! ### Engines -/

/-- An entry of a copy chain (R325, Table 4). -/
inductive ChainEntry where
  | copy (ssp : Bool) (dkind : Nat) (setf : Bool) (len : Nat) (src dst : DWord)
  | strided (ssp : Bool) (dkind : Nat) (setf : Bool) (rows rowlen : Nat) (src dst : DWord)
      (sstride dstride : Int)
  | loop (back count : Nat) (sdelta ddelta : BitVec 64)
  | cond (ssp : Bool) (skip : Nat) (val : Word) (addr : DWord) (cmp : Nat)
  | signal (scope : Nat) (obj : DWord) (gen : Nat)
  | fin
  deriving DecidableEq, Repr

/-- The descriptor of a `cpyx` (R329) with its row indices' address. -/
structure CpyxDesc where
  scat    : Bool
  ssp     : Bool
  dkind   : Nat
  setf    : Bool
  rowlen  : Nat
  count   : Nat
  idx     : DWord
  base    : DWord
  istride : Nat
  lin     : DWord
  lstride : Nat
  deriving DecidableEq, Repr

/-- The descriptor of a `coll` (R330) with its group. -/
structure CollDesc where
  op     : Nat
  type   : Nat
  red    : Nat
  count  : Nat
  src    : DWord
  dst    : DWord
  group  : List Nat
  root   : Nat
  obj    : DWord
  gen    : Nat
  scope  : Nat
  collid : Nat
  deriving DecidableEq, Repr

/-- A sequence record (R342). -/
structure SeqRec where
  table   : DWord
  nlb     : Nat
  h       : Nat
  d       : Nat
  pool    : DWord
  bstride : Nat
  tail    : DWord
  deriving DecidableEq, Repr

/-- Which KV command (R350). -/
inductive KvOp where
  | gath | kvap | kvseal | kvcopy
  deriving DecidableEq, Repr

/-- A KV command block (R351) with its sequence records. -/
structure KvCmd where
  op      : KvOp
  block   : DWord
  seq     : SeqRec
  src     : Option SeqRec
  data    : DWord
  pos     : Nat
  n       : Nat
  ctl     : Nat
  hstride : Nat
  slb     : Nat
  obj     : DWord
  gen     : Nat
  scope   : Nat
  deriving DecidableEq, Repr

/-- A stage control block (R368, Table 5). -/
inductive Stage where
  | scale (factor : Word)
  | mask (pol : Bool) (mstride : Nat) (maddr : DWord) (nstride : Nat)
  | call (budget : Nat) (kdesc arg : DWord)
  | topk (k : Nat)
  | topp (p : Word)
  | minp (p : Word)
  | draw
  | verify
  | emit
  | loop (cond : Bool) (back max : Nat)
  | skipIf (cond skip : Nat)
  deriving DecidableEq, Repr

/-- A slot record (R365). -/
structure SlotRec where
  addr   : DWord
  seed   : DWord
  draw   : DWord
  pos    : Word
  stream : Word
  logits : DWord
  draft  : DWord
  out    : DWord
  deriving DecidableEq, Repr

/-- A draft tree as read at a slot's start (R367): its rows, and TOKEN, PARENT and VER of each node. -/
structure DraftTree where
  laddr   : DWord
  lstride : Nat
  qstride : Nat
  qaddr   : DWord
  nodes   : List (Nat × Nat × Nat)
  deriving DecidableEq, Repr

/-- The running state of a slot (R369, Table 6) between a CALL and its kernel's completion. -/
structure SlotRun where
  tree  : Option DraftTree
  idx   : Nat
  cur   : Nat
  acc   : Nat
  prob  : Bool
  done  : Bool
  n     : DWord
  e     : List Nat
  loops : Store Nat
  deriving DecidableEq, Repr

/-- How far a slot of a `smpl` has got. -/
inductive SlotPhase where
  | waiting
  /-- In a CALL: its kernel's grid, the budget, the scaled cycles counted so far in units of 2^-16, and
  the SCC of its die from which it counts now (R380). -/
  | calling (run : SlotRun) (grid : Nat) (budget used : Nat) (start : Option Nat)
  /-- Ended, with the OUT range it wrote. -/
  | ended (out : Option (Nat × Nat))
  deriving DecidableEq, Repr

/-- A `smpl` command (R362 to R365). -/
structure SmplCmd where
  job    : DWord
  nslot  : Nat
  vocab  : Nat
  work   : DWord
  lfmt   : Bool
  trapEmpty : Bool
  obj    : DWord
  gen    : Nat
  scope  : Nat
  chain  : List Stage
  slots  : List SlotRec
  phases : List SlotPhase
  trapped : Nat
  deriving DecidableEq, Repr

/-- The snapshot of an engine command (R321). -/
inductive EngKind where
  | chain (entries : List ChainEntry)
  | indexed (desc : CpyxDesc)
  | coll (desc : CollDesc) (nodes : List (Nat × Nat × List DWord))
  | kv (cmd : KvCmd)
  | smpl (cmd : SmplCmd)
  deriving DecidableEq, Repr

/-- How far an engine command has got. -/
inductive EngPhase where
  | held (id : Nat)
  | queued
  /-- Begun and not finished: a collective or a `smpl`. -/
  | running
  /-- Holding an engine stop; whether all its writes but those of its completion are performed. -/
  | stopped (handle : BitVec 64) (late : Bool)
  | finished
  deriving DecidableEq, Repr

/-- An engine command (R321). -/
structure EngCmd where
  serial : Nat
  core   : Nat
  crew   : Nat
  r      : PathRef
  pc     : DWord
  ctx    : Nat
  kernel : Bool
  dom    : Nat
  ver    : Nat
  tag    : Nat
  kind   : EngKind
  phase  : EngPhase
  err    : Bool
  /-- A host page it waits for, with the address and kind of the access (R445). -/
  asks   : Option (Bool × Nat × DWord × Nat)
  /-- It has held a stop for poison already (R248, R449). -/
  hurt   : Bool
  /-- Its tag has cleared, and only its arrival at an object is left (R384). -/
  clear  : Bool
  deriving DecidableEq, Repr

/-! ### Grids and carts -/

/-- One team of a kernel descriptor (R333). -/
structure TeamDesc where
  width  : Nat
  role   : Role
  budget : Nat
  deriving DecidableEq, Repr

/-- A kernel descriptor (R333). -/
structure KDesc where
  addr     : DWord
  entry    : DWord
  regtop   : Nat
  sptop    : Nat
  cachetop : Nat
  scratch  : Nat
  teams    : List TeamDesc
  macros   : List (List MacroOp)
  nodeW    : Nat
  reclen   : Nat
  timer    : Nat
  valid    : Bool
  deriving DecidableEq, Repr

/-- A launch record (R332, R29). -/
structure LaunchRec where
  kdesc   : DWord
  gx      : Nat
  gy      : Nat
  gz      : Nat
  cx      : Nat
  cy      : Nat
  cz      : Nat
  place   : Nat
  prio    : Nat
  res     : Bool
  idem    : Bool
  deps    : List Nat
  spec    : Option (Nat × Nat)
  windows : List (DWord × Nat)
  /-- No reserved field of the record is set. -/
  sound   : Bool
  deriving DecidableEq, Repr

/-- Where a grid came from (R422). -/
inductive GridSource where
  /-- A record of a launch queue: the queue, its index, and the place of its completion record (R416). -/
  | queue (q idx place : Nat)
  | launch
  | cart (records : List (List Word))
  /-- An adjust kernel: its command and slot, and s1 onwards at its start (R380). -/
  | adjust (cmd slot : Nat) (regs : List DWord)
  deriving DecidableEq, Repr

/-- Where a cluster of a grid stands (R423, R436). -/
inductive ClusterPhase where
  | waiting
  | resident
  | draining
  | saving
  | flushing
  | saved
  | retired
  deriving DecidableEq, Repr

/-- A cluster that has been placed at least once, or is waiting again (R423 to R439). -/
structure ClusterSt where
  idx        : Nat
  phase      : ClusterPhase
  die        : Bool
  hw         : Nat
  since      : Nat
  placedAt   : Nat
  restoredAt : Option Nat
  guarded    : Bool
  drained    : Bool
  saveStart  : Nat
  saveTime   : Nat
  saveOrder  : Nat
  /-- When its restoration began (R434). -/
  restoreStart : Nat
  crews      : List Nat
  /-- Frames reserved for a save in progress: address and pages. -/
  frames     : List (Nat × Nat)
  /-- A pre-emption has been made for it (R426, R433). -/
  claim      : Bool
  /-- Cluster indices of crews that had retired when it was flushed (R436). -/
  gone       : List Nat
  /-- A save of it found no room (R437): the pool's free pages, the device's crews and the partition's waiting
  clusters at that decision. -/
  stuck      : Option (Nat × Nat × Nat)
  deriving DecidableEq, Repr

/-- Where a grid stands (R423). -/
inductive GridPhase where
  | held
  | blocked
  | allocating
  | runnable
  | complete
  deriving DecidableEq, Repr

/-- A grid (R29, R422). -/
structure Grid where
  live     : Bool
  ctx      : Nat
  kernel   : Bool
  dom      : Nat
  ver      : Nat
  record   : LaunchRec
  kd       : KDesc
  source   : GridSource
  phase    : GridPhase
  cause    : Nat
  order    : Nat
  since    : Nat
  clusters : List ClusterSt
  /-- The team that launched it: domain and version its structures are read in (R321). -/
  ldom     : Nat
  lver     : Nat
  /-- The crew that launched it, 0 for none (R433). -/
  lcrew    : Nat
  /-- A team of it has executed a `bar` at die scope (R439). -/
  dieBar   : Bool
  /-- A team of it has been killed (R380). -/
  killed   : Bool
  /-- Its version was squashed with cause OVERFLOW (R84). -/
  overflow : Bool
  /-- The dependences that are not met (R31): one that has been met stays so. -/
  unmet    : List Nat
  deriving DecidableEq, Repr

/-- A launch record with every field zero. -/
def LaunchRec.zero : LaunchRec :=
  ⟨0, 0, 0, 0, 1, 1, 1, 2, 0, false, false, [], none, [], true⟩

/-- A kernel descriptor that is not valid. -/
def KDesc.zero : KDesc := ⟨0, 0, 0, 0, 0, 0, [], [], 0, 0, 0, false⟩

/-- No grid. -/
def Grid.none : Grid where
  live := false
  ctx := 0
  kernel := false
  dom := 0
  ver := 0
  record := LaunchRec.zero
  kd := KDesc.zero
  source := GridSource.launch
  phase := GridPhase.complete
  cause := 0
  order := 0
  since := 0
  clusters := []
  ldom := 0
  lver := 0
  lcrew := 0
  dieBar := false
  killed := false
  overflow := false
  unmet := []

/-- A cart (R40): its key, node kernel and records. -/
structure Cart where
  id      : Nat
  kdesc   : DWord
  dom     : Nat
  ver     : Nat
  origin  : Nat
  ctx     : Nat
  kernel  : Bool
  prio    : Nat
  kd      : KDesc
  due     : Nat
  records : List (List Word)
  deriving DecidableEq, Repr

/-! ### Contexts, queues, domains -/

/-- A context record (R407). -/
structure CtxRec where
  valid  : Bool
  root   : Nat
  jobkey : BitVec 32
  part   : Nat
  fqbase : Nat
  fqsize : Nat
  grsize : Nat
  grbase : Nat
  deriving DecidableEq, Repr

/-- What the device keeps of a deferred-ring entry beside its 16 bytes at GRBASE (R317, R407): the period, and
whether it stands on the thaw list. -/
structure RingEntry where
  period : Nat
  thawed : Bool
  deriving DecidableEq, Repr

/-- A grace unit (R314, R315). -/
structure Grace where
  last     : Nat
  active   : Bool
  snapshot : List Nat
  pending  : Bool
  ring     : List RingEntry
  /-- The place in the ring of the oldest entry. -/
  head     : Nat
  deriving DecidableEq, Repr

/-- What the device keeps of one context: the cached record, the stop serial, fault records without
room, the grace unit, the freeze and the measured Tc. -/
structure Ctx where
  record  : CtxRec
  serial  : Nat
  heldRec : List (List Byte)
  fqFull  : Bool
  grace   : Grace
  frozen  : Bool
  /-- The tick at which its freeze took effect (R461). -/
  frozenAt : Nat
  tc      : Nat
  sharedFreeze : Bool
  heldPackets  : List Packet
  deriving DecidableEq, Repr

/-- No context record cached. -/
def Ctx.none : Ctx :=
  ⟨⟨false, 0, 0, 0, 0, 0, 0, 0⟩, 0, [], false, ⟨0, false, [], false, [], 0⟩, false, 0, 0, false, []⟩

/-- A cached work-queue entry (R414). -/
structure WqEnt where
  valid : Bool
  item  : Bool
  priv  : Bool
  prod  : Nat
  logn  : Nat
  recsz : Nat
  ctx   : Nat
  base  : Nat
  idx   : Nat
  cring : Nat
  /-- The queue was overrun; it stays disabled until its entry changes (R415). -/
  lost  : Bool
  deriving DecidableEq, Repr

/-- No work queue. -/
def WqEnt.none : WqEnt := ⟨false, false, false, 0, 0, 0, 0, 0, 0, 0, false⟩

/-- A cached region entry (R418). -/
structure Region where
  base : Nat
  size : Nat
  imm  : Bool
  rule : Nat
  type : Nat
  ctx  : Nat
  deriving DecidableEq, Repr

/-- A live version (R36, R37). -/
structure VerSt where
  ver    : Nat
  parent : Nat
  order  : Nat
  deriving DecidableEq, Repr

/-- A pending allocation at the home (R481). -/
structure AllocSt where
  src     : Nat
  req     : Nat
  ver     : Nat
  /-- The job key that asked for it. -/
  key     : BitVec 32
  waiting : List Nat
  /-- The tick at which the peers were told. -/
  sent    : Nat
  deriving DecidableEq, Repr

/-- A resolve awaiting acknowledgements (R340, R482). -/
structure ResolveSt where
  num     : Nat
  pend    : Nat
  result  : DWord
  waiting : List Nat
  /-- The tick at which the peers were told. -/
  sent    : Nat
  deriving DecidableEq, Repr

/-- A speculation domain (R36, R420, R340, R427, R482). -/
structure Dom where
  home    : Nat
  peers   : List Nat
  morsize : Nat
  morbase : Nat
  live    : List VerSt
  accept  : Nat
  num     : Nat
  /-- The number of the last resolve applied: none after the entry of a device that was cut off is rewritten, when the
  next number that comes is taken first. -/
  applied : Option Nat
  /-- Committed versions whose numbers have not been used again (R339). -/
  past    : List Nat
  /-- Notices since the last numbered message: sent by the home, applied by a peer (R482). -/
  notes   : Nat
  /-- The device has failed to acknowledge to the home: it refuses launches in the domain until its entry is written
  anew (R482). -/
  cut     : Bool
  failed  : List Nat
  allocs  : List AllocSt
  resolves : List ResolveSt
  cd0     : Nat
  ct0     : Nat
  cd1     : Nat
  ct1     : Nat
  deriving DecidableEq, Repr

/-- A domain at reset: acceptance average 0x0080 (R340). -/
def Dom.init : Dom where
  home := 0
  peers := []
  morsize := 0
  morbase := 0
  live := []
  accept := 0x80
  num := 0
  applied := some 0
  past := []
  notes := 0
  cut := false
  failed := []
  allocs := []
  resolves := []
  cd0 := 0
  ct0 := 0
  cd1 := 0
  ct1 := 0

/-- A launch that waits for a version from the domain's home (R481). -/
structure AllocReq where
  req  : Nat
  grid : Nat
  pend : Option Nat
  dom  : Nat
  /-- The tick at which the home was asked. -/
  sent : Nat
  deriving DecidableEq, Repr

/-- A versioned copy of a span, for displacement (R83): its domain, version, span and whether it has
been displaced into the moraine. -/
structure VCopy where
  dom       : Nat
  ver       : Nat
  span      : Nat
  displaced : Bool
  deriving DecidableEq, Repr

/-- A partition scheduling entry (R421), as the device read it. -/
structure Sched where
  slice    : Nat
  age      : Nat
  savebase : Nat
  savesize : Nat
  draftq   : List (Nat × Nat)
  deriving DecidableEq, Repr

/-- No slicing, no aging, no save pool. -/
def Sched.zero : Sched := ⟨0, 0, 0, 0, []⟩

/-- What the device knows of a saved crew beside its frame's bytes (R438). -/
structure SavedCrew where
  num   : Nat
  frame : Nat
  part  : Nat
  pages : Nat
  crew  : Crew
  teams : List (Nat × Team)
  array : Option CoreSt
  crc   : Word
  deriving DecidableEq, Repr

/-- A firn entry (R86, R477): the step (its parity is bit 0), where it stands, the contribution and its rank (R241). -/
structure FirnEntry where
  step   : Nat
  die    : Bool
  logged : Bool
  ctx    : Nat
  va     : Nat
  pa     : Nat
  size   : Nat
  data   : DWord
  rank   : Nat
  gti    : Nat
  poison : Bool
  deriving DecidableEq, Repr

/-! ### Clocks, fabric, host -/

/-- A die's clock (R487 to R489): F, the target, the relock, the ceiling, CYC, SCC in 2^-16 units, and
the time run since the last whole cycle, in parts of ten ticks times F. -/
structure Die where
  f       : Nat
  target  : Nat
  relock  : Option Nat
  fmax    : Nat
  fwWrite : Bool
  cyc     : Nat
  scc     : Nat
  part    : Nat
  deriving DecidableEq, Repr

/-- A semaphore (R412). -/
structure Sem where
  held   : Bool
  owner  : Nat
  holder : BitVec 32
  deriving DecidableEq, Repr

/-- A collected semaphore request: the source, the semaphore, a read or a write, and the waiting path. -/
structure SemReq where
  src   : SemSource
  n     : Nat
  write : Bool
  tick  : Nat
  /-- The value written. -/
  val   : DWord
  who   : Option PathRef
  deriving DecidableEq, Repr

/-- A freeze or thaw request before its tick (R461, R462). -/
structure FrzReq where
  ctx  : Nat
  thaw : Bool
  due  : Nat
  deriving DecidableEq, Repr

/-- What the device has answered to a host, a peer's boundary protocol, or the management bus. -/
inductive OutMsg where
  | barRead (port : Nat) (addr : Nat) (val : DWord)
  | windowRead (port : Bool) (val : DWord)
  | semReply (src : SemSource) (n : Nat) (val : DWord)
  | hostWrite (port : Bool) (addr : Nat) (bytes : List Byte)
  | ats (port : Bool) (ctx page : Nat)
  | pageRequest (port : Bool) (ctx page : Nat)
  | invalidated (port : Bool) (ctx page : Nat)
  /-- A packet through a port, or again through another one (R472, R473). -/
  | packet (port : Nat) (p : Packet)
  | checkpoint (dst : Nat) (data : Marked)
  | spdm (chan : Nat) (code : Nat) (body : List Byte)
  | telemetry (rail : Nat) (val : Nat)
  /-- The management controller brings a rail up or removes it (R493). -/
  | rail (rail : Nat) (on : Bool)
  /-- Its log of the rail that failed. -/
  | railFailed (rail : Nat)
  deriving DecidableEq, Repr

/-- Which agent moves next (see notes/assumptions/1.md): an event, a path that issues, or a result of the
operation with a serial number that reaches its register before the flag clears (R128), its loads binding
where they have not; a host's read of a control register through BAR 0 (R399, R411); a host's write of
device memory (R236). -/
inductive Turn where
  | event (i : Instr)
  | issue (r : PathRef)
  | land (serial k : Nat)
  | hostRead (port : Bool) (off : Nat)
  | hostStore (key : Nat) (bytes : List Byte)
  deriving DecidableEq, Repr

end Sys2Proof.Machine
end

