-- ==== Sys2Proof/Machine/State.lean ====
section
/-! DEFINITION. The state of one ZX2 device, as plain data: everything the manual gives the machine
(INVENTORY.md, State), the model's own agenda and counters, and the reset state. -/

namespace Sys2Proof.Machine

/-- Why a step stops the machine. Faults of the ZX2 are stops of one path, taken as next states
(R447); only the model's own impossibilities are faults here. -/
inductive Fault where
  /-- Raised by an instruction's meaning when State.cur names no live path, so that the instruction
  has no issuer: `step` never does it. Safe. -/
  | noIssuer
  deriving DecidableEq, Repr

/-- Why a step has no meaning to give. -/
inductive Refusal where
  /-- An arm of exec not modelled yet, by its mnemonic. Safe. -/
  | notModelled (mnemonic : String)
  deriving DecidableEq, Repr

/-- The device. -/
structure State where
  -- Memory and what travels to it
  /-- Bytes by physical key: device memory and host windows at their physical address (R408), host
  memory of port n at 2^56 × (1 + n) + its PCI Express address (R442). -/
  mem       : Store Byte
  /-- Poisoned flakes of memory (R455), by first key. -/
  poison    : List Nat
  /-- Versioned copies, keyed (domain × 64 + version) × 2^60 + key (R78). -/
  vcopy     : Store (Option Byte)
  /-- Spans holding versioned copies, least recently used first (R83). -/
  vspans    : List VCopy
  /-- Remote-die copies, keyed unit × 2^60 + key: cores 0 to 575, remote-data caches 576, 577 (R229). -/
  copies    : Store CopyByte
  /-- Flakes of their own die that the L1s hold dirty (R67). -/
  l1own     : List OwnLine
  /-- The home L2's copies of host memory (R73), by host key. -/
  hostL2    : Store CopyByte
  /-- Bytes on their way to a host, which a host flush delivers: key and bytes (R73, R236, R264, R417). -/
  hostWr    : List (Nat × List Byte)
  /-- Host accesses to windows that wait for a line an engine command owns (R232): port, die, access. -/
  hostWaits : List (Bool × Bool × HostAccess)
  flight    : List Flight
  pend      : List Pend
  late      : List Late
  reqs      : List Req
  tlb       : List TlbEntry
  atc       : List AtcEntry
  atsOut    : List (Bool × Nat × Nat)
  /-- Page request groups without a response, one for each faulting instruction and page. -/
  prqOut    : List PageReq
  /-- Host-page faults to deliver: the path, the port, the page, the sub-cause (R445). -/
  hostFails : List (PathRef × Bool × Nat × Nat)
  firn      : List FirnEntry
  -- Teams, crews, cores, engines
  teams     : Store Team
  crews     : Store Crew
  cores     : Store CoreSt
  engines   : List EngCmd
  /-- Collective messages that came before their command began: header, level, index, values. -/
  collIn    : List (CollHdr × Nat × Nat × List DWord)
  -- Dispatcher
  grids     : Store Grid
  carts     : List Cart
  expect    : List (Bool × DWord × Nat)
  saved     : List SavedCrew
  allocReqs : List AllocReq
  -- System state
  csr       : Store (Option DWord)
  ctxs      : Store Ctx
  wqs       : Store WqEnt
  /-- Table entries as read last: table × 2^20 + index, the bytes. -/
  seen      : Store (List Byte)
  /-- The launch queue after the one read last, by partition (R423). -/
  lastq     : Store Nat
  regions   : List Region
  /-- Membership entries read at the last `sfence` or DOORBELL (R471): 64 × port + slot, job key,
  context. -/
  mship     : List (Nat × BitVec 32 × Nat)
  regionsNext : Option (List Region)
  doms      : Store Dom
  scheds    : Store Sched
  sems      : Store Sem
  semReqs   : List SemReq
  frzReqs   : List FrzReq
  frzCtx    : Nat
  frzTsc    : Nat
  iceCtx    : Option Nat
  iceState  : Nat
  iceTsc    : Nat
  -- Barriers across the dies (R495): instances whose message has crossed
  dieMsgs   : List (Nat × Nat × Nat)
  completes : List (Nat × Nat × Nat)
  -- Boundaries
  stepNo    : Nat
  stepOut   : Nat
  stepState : Nat
  members   : List Nat
  arrived   : Bool
  arrivals  : List (Nat × Nat)
  /-- ARRIVE messages of the boundary after this one (R475). -/
  early     : List (Nat × Nat)
  /-- The device has handed its ARRIVE up the tree. -/
  handed    : Bool
  /-- The tick of the last keep-alive, or of the boundary's beginning. -/
  aliveAt   : Nat
  decision  : Option Bool
  queried   : Bool
  /-- Members whose answers to the device's query are outstanding (R476). -/
  asked     : List Nat
  failures  : List Nat
  -- Photonic routing die and fabric
  dq        : Bool
  dqd       : Bool
  /-- The serial number at the setting of DQ: later operations wait to cross. -/
  dqSer     : Nat
  /-- Remote-data caches whose write-backs wait to cross (R466, R488). -/
  owed      : List Nat
  /-- A circuit change lasts until this tick (R466, R467). -/
  busy      : Option Nat
  pqd       : Word
  portup    : Word
  drops     : List (Nat × BitVec 32)
  seenSeq   : List (Nat × Nat)
  /-- The answers given to requests (R472). -/
  answers   : List Packet
  /-- Messages not acknowledged yet (R472). -/
  podOut    : List PodSent
  -- Clocks and counters
  tsc       : Nat
  /-- The parts of the present tick that have passed. -/
  sub       : Nat
  locked    : Bool
  /-- Ticks by which rank 0's TSC was ahead at its last message and that are not made up yet, and the
  ticks since the TSC slewed last, 999 at most (R491). -/
  slew      : Int
  slewTicks : Nat
  die0      : Die
  die1      : Die
  hostUp0   : Bool
  hostUp1   : Bool
  -- Bring-up
  power     : Bool
  resetn    : Bool
  boot      : Nat
  /-- The boot flash as the last GO left it, with the length of the image: none as it leaves the maker. -/
  flash     : Option (Nat × Store Byte)
  /-- The staging areas behind BAR 2 of the two ports (R485). -/
  staged0   : Store Byte
  staged1   : Store Byte
  fuseSvn   : Nat
  meas      : List (List Byte)
  rails     : List Bool
  /-- The security version of the firmware that was started. -/
  runSvn    : Nat
  -- Numbering
  nextGrid  : BitVec 32
  nextTok   : BitVec 32
  nextCrew  : Nat
  nextSer   : Nat
  /-- Counter of the free values drawn (the model's own). -/
  fresh     : Nat
  /-- What has been sent to the outside: host, pod, management bus (the model's own record). -/
  out       : List OutMsg
  /-- Who moves next (the model's own), and the path that is issuing. -/
  agenda    : List Turn
  cur       : Option PathRef
  deriving DecidableEq, Repr

/-- A die at step 1 of R484: 0.6 GHz, counters zero. -/
def Die.reset : Die := ⟨6, 6, none, 20, false, 0, 0, 0⟩

/-- The package right after reset (R484, step 1): the TSC and the counters at 0, both dies at 0.6 GHz,
every control register at its reset value, nothing resident, no memory byte listed. -/
def State.reset : State where
  mem := []
  poison := []
  vcopy := []
  vspans := []
  copies := []
  l1own := []
  hostL2 := []
  hostWr := []
  hostWaits := []
  flight := []
  pend := []
  late := []
  reqs := []
  tlb := []
  atc := []
  atsOut := []
  prqOut := []
  hostFails := []
  firn := []
  teams := []
  crews := []
  cores := []
  engines := []
  collIn := []
  grids := []
  carts := []
  expect := []
  saved := []
  allocReqs := []
  csr := []
  ctxs := []
  wqs := []
  seen := []
  lastq := []
  regions := []
  mship := []
  regionsNext := none
  doms := []
  scheds := []
  sems := []
  semReqs := []
  frzReqs := []
  frzCtx := 0
  frzTsc := 0
  iceCtx := none
  iceState := 0
  iceTsc := 0
  dieMsgs := []
  completes := []
  stepNo := 0
  stepOut := 3
  stepState := 0
  members := []
  arrived := false
  arrivals := []
  early := []
  handed := false
  aliveAt := 0
  decision := none
  queried := false
  asked := []
  failures := []
  dq := false
  dqd := false
  dqSer := 0
  owed := []
  busy := none
  pqd := 0
  portup := 0
  drops := []
  seenSeq := []
  answers := []
  podOut := []
  tsc := 0
  sub := 0
  locked := false
  slew := 0
  slewTicks := 0
  die0 := Die.reset
  die1 := Die.reset
  hostUp0 := false
  hostUp1 := false
  power := true
  resetn := true
  boot := 0
  flash := none
  staged0 := []
  staged1 := []
  fuseSvn := 0
  meas := []
  rails := [true, true, true, true]
  runSvn := 0
  nextGrid := 1
  nextTok := 1
  nextCrew := 1
  nextSer := 1
  fresh := 0
  out := []
  agenda := []
  cur := none

end Sys2Proof.Machine
end

