-- ==== Sys2Proof/Machine/Access.lean ====
section
/-! DEFINITION. Named access to the records of State: teams, paths, crews, cores, grids, contexts,
domains, control registers; the registers of a team. -/

namespace Sys2Proof.Machine

/-- The answer of a meaning. -/
abbrev Res := Host.Outcome State Fault Refusal

/-! ### Paths, teams, crews, cores -/

def Team.path (t : Team) (p : Bool) : Path := if p then t.path1 else t.path0

def Team.setPath (t : Team) (p : Bool) (x : Path) : Team :=
  if p then { t with path1 := x } else { t with path0 := x }

def State.team (s : State) (tok : Nat) : Team := Store.get Team.none s.teams tok

def State.setTeam (s : State) (tok : Nat) (t : Team) : State :=
  { s with teams := Store.set Team.none s.teams tok t }

def State.modTeam (s : State) (tok : Nat) (f : Team → Team) : State := s.setTeam tok (f (s.team tok))

def State.path (s : State) (r : PathRef) : Path := (s.team r.tok).path r.path

def State.setPath (s : State) (r : PathRef) (p : Path) : State :=
  s.modTeam r.tok fun t => t.setPath r.path p

def State.modPath (s : State) (r : PathRef) (f : Path → Path) : State := s.setPath r (f (s.path r))

def State.crew (s : State) (n : Nat) : Crew := Store.get Crew.none s.crews n

def State.setCrew (s : State) (n : Nat) (c : Crew) : State :=
  { s with crews := Store.set Crew.none s.crews n c }

def State.modCrew (s : State) (n : Nat) (f : Crew → Crew) : State := s.setCrew n (f (s.crew n))

def State.coreSt (s : State) (n : Nat) : CoreSt := Store.get CoreSt.init s.cores n

def State.setCore (s : State) (n : Nat) (c : CoreSt) : State :=
  { s with cores := Store.set CoreSt.init s.cores n c }

def State.modCore (s : State) (n : Nat) (f : CoreSt → CoreSt) : State := s.setCore n (f (s.coreSt n))

def State.grid (s : State) (n : Nat) : Grid := Store.get Grid.none s.grids n

def State.setGrid (s : State) (n : Nat) (g : Grid) : State :=
  { s with grids := Store.set Grid.none s.grids n g }

def State.modGrid (s : State) (n : Nat) (f : Grid → Grid) : State := s.setGrid n (f (s.grid n))

def State.ctx (s : State) (c : Nat) : Ctx := Store.get Ctx.none s.ctxs c

def State.setCtx (s : State) (c : Nat) (x : Ctx) : State :=
  { s with ctxs := Store.set Ctx.none s.ctxs c x }

def State.modCtx (s : State) (c : Nat) (f : Ctx → Ctx) : State := s.setCtx c (f (s.ctx c))

def State.dom (s : State) (d : Nat) : Dom := Store.get Dom.init s.doms d

def State.setDom (s : State) (d : Nat) (x : Dom) : State :=
  { s with doms := Store.set Dom.init s.doms d x }

def State.modDom (s : State) (d : Nat) (f : Dom → Dom) : State := s.setDom d (f (s.dom d))

/-- Live teams, by token. -/
def State.liveTeams (s : State) : List (Nat × Team) := s.teams.filter fun x => x.2.live

/-- The crew number, crew, grid and context of a path. -/
def State.crewNo (s : State) (r : PathRef) : Nat := (s.team r.tok).crew
def State.crewOf (s : State) (r : PathRef) : Crew := s.crew (s.crewNo r)
def State.gridOf (s : State) (r : PathRef) : Grid := s.grid (s.crewOf r).grid
def State.ctxOf (s : State) (r : PathRef) : Nat := (s.gridOf r).ctx
def State.coreOf (s : State) (r : PathRef) : Nat := (s.crewOf r).core
def State.kernel (s : State) (r : PathRef) : Bool := (s.gridOf r).kernel
def State.domOf (s : State) (r : PathRef) : Nat := (s.gridOf r).dom
def State.verOf (s : State) (r : PathRef) : Nat := (s.gridOf r).ver

/-- The die of a core number die × 288 + CORE (R399). -/
def dieOfCore (core : Nat) : Nat := core / 288

/-- The cluster unit, 0 to 5, of a core: 96 cores a cluster, three clusters a die (R11, R399). -/
def clusterOfCore (core : Nat) : Nat := core / 96

def State.die (s : State) (d : Bool) : Die := if d then s.die1 else s.die0

def State.setDie (s : State) (d : Bool) (x : Die) : State :=
  if d then { s with die1 := x } else { s with die0 := x }

/-- The global team index of a path's team (R46). -/
def State.gti (s : State) (r : PathRef) : Nat :=
  (s.crewOf r).grid * 2 ^ 36 + (s.crewOf r).lin * 16 + (s.team r.tok).num

/-! ### Registers of a team (R12) -/

/-- A uniform register: `s0` reads zero. -/
def Team.sget (t : Team) (r : SReg) : DWord := if r = 0 then 0 else Store.get 0 t.s r.toNat

/-- Write a uniform register: `s0` ignores writes. A write mends a register in error. -/
def Team.sset (t : Team) (r : SReg) (x : DWord) : Team :=
  if r = 0 then t else { t with s := Store.set 0 t.s r.toNat x, sErr := t.sErr.filter (· != r.toNat) }

/-- Lanes 0 to width − 1. -/
def Team.allLanes (t : Team) : Mask := BitVec.ofNat 1024 (2 ^ t.width - 1)

/-- A lane-mask register: bits above the width read zero (R13). -/
def Team.pget (t : Team) (r : PReg) : Mask := Store.get 0 t.p r.toNat &&& t.allLanes

/-- Write a lane-mask register: bits above the width are dropped (R13). -/
def Team.pset (t : Team) (r : PReg) (x : Mask) : Team :=
  { t with p := Store.set 0 t.p r.toNat (x &&& t.allLanes) }

def vkey (reg lane : Nat) : Nat := reg * 1024 + lane

/-- A vector register of one lane. -/
def Team.vget (t : Team) (reg : VReg) (lane : Nat) : Word := Store.get 0 t.v (vkey reg.toNat lane)

/-- Write a vector register of one lane. -/
def Team.vset (t : Team) (reg : VReg) (lane : Nat) (x : Word) : Team :=
  let k := vkey reg.toNat lane
  { t with v := Store.set 0 t.v k x, vErr := t.vErr.filter (· != k) }

def State.sget (s : State) (r : PathRef) (x : SReg) : DWord := (s.team r.tok).sget x
def State.sset (s : State) (r : PathRef) (x : SReg) (v : DWord) : State :=
  s.modTeam r.tok fun t => t.sset x v
def State.pget (s : State) (r : PathRef) (x : PReg) : Mask := (s.team r.tok).pget x
def State.pset (s : State) (r : PathRef) (x : PReg) (v : Mask) : State :=
  s.modTeam r.tok fun t => t.pset x v
def State.vget (s : State) (r : PathRef) (x : VReg) (lane : Nat) : Word := (s.team r.tok).vget x lane
def State.vset (s : State) (r : PathRef) (x : VReg) (lane : Nat) (v : Word) : State :=
  s.modTeam r.tok fun t => t.vset x lane v

/-- One register write. -/
def State.regWrite (s : State) (tok : Nat) : RegWrite → State
  | .v reg lane x => s.modTeam tok fun t => t.vset (BitVec.ofNat 8 reg) lane x
  | .s reg x => s.modTeam tok fun t => t.sset reg x

/-- Register writes, in order. -/
def State.regWrites (s : State) (tok : Nat) (ws : List RegWrite) : State :=
  ws.foldl (fun s w => s.regWrite tok w) s

/-- The lanes whose bits are set, ascending. -/
def lanesOf (t : Team) (m : Mask) : List Nat := (List.range t.width).filter fun l => m.getLsbD l

/-- A mask of one lane. -/
def laneBit (l : Nat) : Mask := BitVec.ofNat 1024 (2 ^ l)

/-! ### The mode register (R137, R138) -/

/-- Element types of `md.TYPE`, in code order. -/
inductive ElemType where
  | i32 | n32 | f32 | bf16x2 | f16x2 | i16x2 | n16x2 | i8x4 | n8x4 | i64 | n64
  deriving DecidableEq, Repr

/-- TYPE of a mode value; reserved codes are never held (R137). -/
def mdType (md : BitVec 24) : ElemType :=
  match (md.extractLsb' 5 5).toNat with
  | 0 => .i32 | 1 => .n32 | 2 => .f32 | 3 => .bf16x2 | 4 => .f16x2 | 5 => .i16x2 | 6 => .n16x2
  | 7 => .i8x4 | 8 => .n8x4 | 9 => .i64 | _ => .n64

/-- Rounding modes of `md.RND`, in code order (R99). -/
inductive Rnd where
  | rn | rz | ru | rd
  deriving DecidableEq, Repr

def mdRnd (md : BitVec 24) : Rnd :=
  match (md.extractLsb' 10 2).toNat with
  | 0 => .rn | 1 => .rz | 2 => .ru | _ => .rd

def mdSat (md : BitVec 24) : Bool := md.getLsbD 12

/-- A mode value holds no reserved value (R137). -/
def mdLegal (md : BitVec 24) : Bool :=
  md.extractLsb' 13 11 == 0 && (md.extractLsb' 5 5).toNat ≤ 10 &&
  (md.getLsbD 3 || md.extractLsb' 0 5 == 0)

/-- The lanes the guard admits (R138). -/
def Team.guard (t : Team) (md : BitVec 24) : Mask :=
  if md.getLsbD 3 then
    let p := t.pget (md.extractLsb' 0 3)
    if md.getLsbD 4 then ~~~ p else p
  else ~~~ (0 : Mask)

/-- The active lanes of a path: set in `xm` and in the guard (R138). -/
def State.active (s : State) (r : PathRef) : Mask :=
  (s.path r).xm &&& (s.team r.tok).guard (s.path r).md

/-- Whether the team is a uniform team (R12). -/
def Team.uniform (t : Team) : Bool := t.width == 1

/-- OR bits into the path's sticky STATUS (R103). -/
def State.addStatus (s : State) (r : PathRef) (b : BitVec 7) : State :=
  s.modPath r fun p => { p with status := p.status ||| b }

/-! ### Control registers (R399) -/

/-- The key of a control register of one unit. -/
def csrKey (addr unit : Nat) : Nat := addr * 1024 + unit

/-- Reset values of the control registers (R54, R399, and the tables of chapters 17 to 19). -/
def csrReset (addr : Nat) : DWord :=
  if addr = 0x1000 then 0x80000
  else if addr = 0x1001 then 0xC0000
  else if addr = 0x1002 then 0x100000
  else if addr = 0x2000 then 7
  else if addr = 0x3020 then 6
  else if addr = 0x4080 then 0x04000400
  else if addr = 0x4086 then 1000
  else 0

/-- The stored value of a control register. -/
def State.csrGet (s : State) (addr unit : Nat) : DWord :=
  (Store.get none s.csr (csrKey addr unit)).getD (csrReset addr)

/-- Store a control register. -/
def State.csrPut (s : State) (addr unit : Nat) (v : DWord) : State :=
  let x := if v = csrReset addr then none else some v
  { s with csr := Store.set none s.csr (csrKey addr unit) x }

/-- The device's pod rank (R45). -/
def State.rank (s : State) : Nat := ((s.csrGet 0x4089 0).extractLsb' 0 12).toNat

end Sys2Proof.Machine
end

