-- ==== Sys2Proof/Machine/Mem.lean ====
section
/-! DEFINITION. Memory: physical addresses (R408), translation (R441 to R445), targets (R256), views
of a (domain, version) (R78 to R82), remote-die copies (R229), and writes performed at the home. -/

namespace Sys2Proof.Machine

/-! ### Bytes -/

/-- Little-endian value of bytes (R5). -/
def leNat : List Byte → Nat
  | [] => 0
  | b :: bs => b.toNat + 256 * leNat bs

/-- The n low bytes of a value, lowest first (R5). -/
def leBytes : Nat → Nat → List Byte
  | 0, _ => []
  | n + 1, x => BitVec.ofNat 8 x :: leBytes n (x / 256)

/-- The canonical form of memory: addresses strictly rising, and no byte listed that an unlisted address
reads as. -/
def Memory.wf (m : Store Byte) : Bool := Store.wf 0 m

/-- Host memory. -/
def isHostKey (k : Nat) : Bool := decide (2 ^ 56 ≤ k)

/-- A byte of host memory as a fetch of it returns it: the last of the bytes on their way to the host's port, where
there are some, or the host's own (R73, R264). -/
def hostByte (mem : Store Byte) (wr : List (Nat × List Byte)) (k : Nat) : Byte :=
  (wr.foldl (fun acc w => if w.1 ≤ k ∧ k < w.1 + w.2.length then w.2[k - w.1]? else acc) none).getD (Store.get 0 mem k)

/-- A committed byte as its home holds it: of host memory, the home L2's copy where there is one (R73). -/
def State.memByte (s : State) (k : Nat) : Byte :=
  if isHostKey k then
    if (Store.get CopyByte.none s.hostL2 k).valid then (Store.get CopyByte.none s.hostL2 k).val else hostByte s.mem s.hostWr k
  else Store.get 0 s.mem k
def State.memBytes (s : State) (k n : Nat) : List Byte := (List.range n).map fun i => s.memByte (k + i)
def State.memNat (s : State) (k n : Nat) : Nat := leNat (s.memBytes k n)

/-- The flake of a key (R65). -/
def flakeOf (k : Nat) : Nat := k / 32
/-- The span of a key (R65). -/
def spanOf (k : Nat) : Nat := k / 256

/-! ### Physical addresses -/

/-- One GiB. -/
def gib : Nat := 2 ^ 30

/-- Device memory (R72, R408). -/
def inDeviceMem (k : Nat) : Bool := decide (k < 576 * gib)

/-- The base of the host windows (R408). -/
def windowBase : Nat := 0x8000000000000

/-- A host window (R408). -/
def inWindow (k : Nat) : Bool := decide (windowBase ≤ k) && decide (k < windowBase + 2 * 2 ^ 20)

/-- The key of a byte of host memory: the port and its PCI Express address. -/
def hostKey (port : Bool) (a : Nat) : Nat := 2 ^ 56 * (1 + port.toNat) + a

/-- The home die of device memory or of a host window (R72, R74). -/
def homeOfPa (k : Nat) : Bool :=
  if inWindow k then decide (windowBase + 2 ^ 20 ≤ k) else decide (288 * gib ≤ k)

/-- A range lying wholly in device memory, or wholly in one host window (R408); the base of an empty one lies there
too. -/
def physRangeOk (k n : Nat) : Bool :=
  let n := Nat.max 1 n
  decide (k + n ≤ 576 * gib) ||
  (decide (windowBase ≤ k) && decide (k + n ≤ windowBase + 2 ^ 20)) ||
  (decide (windowBase + 2 ^ 20 ≤ k) && decide (k + n ≤ windowBase + 2 ^ 21))

/-! ### Partitions (R413) -/

def State.part (s : State) (n : Nat) : DWord := s.csrGet (0x4030 + n) 0
def partValid (p : DWord) : Bool := p.getLsbD 52
def partHi (p : DWord) : Nat := (p.extractLsb' 42 10).toNat
def partLo (p : DWord) : Nat := (p.extractLsb' 32 10).toNat
def partWqHi (p : DWord) : Nat := (p.extractLsb' 19 13).toNat
def partWqLo (p : DWord) : Nat := (p.extractLsb' 6 13).toNat
def partMask (p : DWord) : BitVec 6 := p.extractLsb' 0 6

/-- The partition of a context. -/
def State.ctxPart (s : State) (c : Nat) : Nat := (s.ctx c).record.part

/-- A physical address lies in the partition's device memory. -/
def State.inPartMem (s : State) (part k : Nat) : Bool :=
  let p := s.part part
  partValid p && decide (partLo p * gib ≤ k) && decide (k < partHi p * gib)

/-! ### Page walks (R441 to R443) -/

/-- A result of translation that is no physical address. -/
inductive XErr where
  /-- A fault with its cause and sub-cause (R443, R445). -/
  | fault (cause sub : Nat)
  /-- An ATS translation of this page is needed, or is lacking write permission (R445). -/
  | ats (port : Bool) (page : Nat)
  deriving DecidableEq, Repr

def pteBit (e : Nat) (i : Nat) : Bool := e.testBit i
/-- ADDR of an entry as an address. -/
def pteAddr (e : Nat) : Nat := e / 2 ^ 12 % 2 ^ 40 * 2 ^ 12
/-- Bits hi:lo of an entry. -/
def pteBits (e hi lo : Nat) : Nat := e / 2 ^ lo % 2 ^ (hi - lo + 1)

/-- Read a table entry: the table must lie in the partition's device memory (R443, WALK). -/
def State.pte (s : State) (c table idx : Nat) : Except XErr Nat :=
  let k := table + 8 * idx
  if s.inPartMem (s.ctxPart c) k then .ok (s.memNat k 8) else .error (.fault 6 3)

/-- Check a leaf of the given page size and form its TLB entry (R442, R443). A frame greater than a host window lies in
none. -/
def State.leaf (s : State) (c va e size : Nat) : Except XErr TlbEntry :=
  if pteBits e 63 52 != 0 || pteBits e 11 10 != 0 || pteAddr e % size != 0 ||
      (!pteBit e 7 && (pteBit e 8 || pteBit e 9)) then .error (.fault 6 3)
  else if !pteBit e 7 && !(s.inPartMem (s.ctxPart c) (pteAddr e) || (inWindow (pteAddr e) && decide (size ≤ 2 ^ 20))) then
    .error (.fault 6 4)
  else .ok ⟨0, c, va / size * size, size, pteAddr e, pteBit e 7, pteBit e 8, pteBit e 9,
    BitVec.ofNat 4 (pteBits e 5 2)⟩

/-- A non-leaf entry is well formed (R442). -/
def nonLeafOk (e : Nat) : Bool := pteBits e 63 52 == 0 && pteBits e 11 2 == 0

/-- The level-0 part of a walk, with the 64 KiB group rule (R442). -/
def State.walk0 (s : State) (c va table : Nat) : Except XErr TlbEntry := do
  let idx := va / 2 ^ 12 % 512
  let e0 ← s.pte c table (idx / 16 * 16)
  if pteBit e0 0 && pteBit e0 6 then
    if pteBit e0 1 then s.leaf c va e0 (2 ^ 16) else .error (.fault 6 3)
  else
    let e ← s.pte c table idx
    if !pteBit e 0 then .error (.fault 6 1)
    else if pteBit e 6 || !pteBit e 1 then .error (.fault 6 3)
    else s.leaf c va e (2 ^ 12)

/-- Levels 1 and 2 of a walk: a leaf of the given size, or the next table. -/
def State.walkMid (s : State) (c va table size : Nat) (next : Nat → Except XErr TlbEntry) :
    Except XErr TlbEntry := do
  let e ← s.pte c table (va / size % 512)
  if !pteBit e 0 then .error (.fault 6 1)
  else if pteBit e 1 then
    if pteBit e 6 then .error (.fault 6 3) else s.leaf c va e size
  else if nonLeafOk e then next (pteAddr e) else .error (.fault 6 3)

/-- A walk of context c for a 56-bit virtual address (R441 to R443). -/
def State.walk (s : State) (c : Nat) (va : Nat) : Except XErr TlbEntry := do
  if va / 2 ^ 56 != 0 then .error (.fault 6 2)
  else
    let e ← s.pte c (s.ctx c).record.root (va / 2 ^ 39 % 2 ^ 17)
    if !pteBit e 0 then .error (.fault 6 1)
    else if pteBit e 1 || !nonLeafOk e then .error (.fault 6 3)
    else s.walkMid c va (pteAddr e) (2 ^ 30) fun t =>
      s.walkMid c va t (2 ^ 21) fun t => s.walk0 c va t

/-- Missing permissions of an access, one bit each: R, W, X, U (R443). -/
def missing (perms : BitVec 4) (kernel : Bool) : Access → BitVec 4
  | acc =>
    let need : BitVec 4 := match acc with
      | .load | .cache => 1
      | .store => 2
      | .atomic => 3
      | .fetch => 4
    let need := if kernel then need else need ||| 8
    need &&& ~~~ perms

/-- A translated address: its key, what kind of memory, and the home die. -/
structure Xlat where
  key  : Nat
  host : Bool
  home : Bool
  deriving DecidableEq, Repr

/-- The entries of a core's TLB and of its cluster's that map an address. -/
def State.tlbHits (s : State) (core c va : Nat) : List TlbEntry :=
  s.tlb.filter fun e => (e.unit == core || e.unit == 576 + clusterOfCore core) && e.ctx == c &&
    decide (e.vbase ≤ va) && decide (va < e.vbase + e.size)

/-- The translation an access uses: an entry's of its core's TLB or its cluster's, or a walk's. Where the TLBs hold an
old entry and a new one, the choice is open for each access and lane (R444). -/
def State.lookup (s : State) (core c va lane : Nat) : Except XErr TlbEntry :=
  match s.tlbHits core c va with
  | [] => s.walk c va
  | [e] => .ok e
  | e :: es => .ok (((e :: es)[Config.translation s.fresh va lane % (es.length + 1)]?).getD e)

/-- Whether an access writes. -/
def accWrites : Access → Bool
  | .store | .atomic => true
  | _ => false

/-- Translate a virtual address for an access (R52, R441 to R445). -/
def State.translate (s : State) (core c : Nat) (kernel : Bool) (acc : Access) (va : DWord)
    (who : Option PathRef := none) (lane : Nat := 0) : Except XErr Xlat := do
  let a := va.toNat
  if a / 2 ^ 56 != 0 then .error (.fault 6 2)
  else
    let e ← s.lookup core c a lane
    let m := missing e.perms kernel acc
    if m != 0 then .error (.fault 7 m.toNat)
    else
      let pa := e.pbase + (a - e.vbase)
      if !e.host then .ok ⟨pa, false, homeOfPa pa⟩
      else
        let page := pa / 4096
        match s.hostFails.find? fun f => some f.1 == who && f.2.1 == e.port && f.2.2.1 == page with
        | some f => .error (.fault 8 f.2.2.2)
        | none =>
          match s.atc.find? fun x => x.port == e.port && x.ctx == c && x.page == page with
          | some x =>
            if accWrites acc && !x.write then .error (.ats e.port page)
            else .ok ⟨hostKey e.port (x.target * 4096 + pa % 4096), true, e.home⟩
          | none => .error (.ats e.port page)

/-! ### Targets (R256) -/

/-- What an access reaches. -/
inductive Target where
  | device | host | window
  | pod (rule type : Nat)
  | imm
  deriving DecidableEq, Repr

/-- The region of a context that holds a virtual address (R418). -/
def State.region (s : State) (c : Nat) (va : Nat) : Option Region :=
  s.regions.find? fun g => g.ctx == c && decide (g.base ≤ va) && decide (va < g.base + g.size)

/-- The target of a translated access; none where a region's page lies outside the device's own
memory (R419), which refuses the access. -/
def State.target (s : State) (c : Nat) (va : Nat) (x : Xlat) : Option Target :=
  match s.region c va with
  | some g =>
    if x.host || !inDeviceMem x.key then none
    else if g.imm then some .imm else some (.pod g.rule g.type)
  | none => if x.host then some .host else if inWindow x.key then some .window else some .device

/-! ### Versions (R78 to R80) -/

/-- The key of a byte of a versioned copy. -/
def vcKey (d v k : Nat) : Nat := (d * 64 + v) * 2 ^ 60 + k

/-- The ancestor chain of a version, deepest first, up to but not including 0 (R80). -/
def chainGo (live : List VerSt) : Nat → Nat → List Nat
  | 0, _ => []
  | fuel + 1, v =>
    if v = 0 then [] else
      match live.find? fun x => x.ver == v with
      | none => []
      | some x => v :: chainGo live fuel x.parent

def State.chain (s : State) (d v : Nat) : List Nat := chainGo (s.dom d).live 64 v

/-- A byte as its home holds it for a (domain, version) (R80). -/
def State.homeByte (s : State) (d v k : Nat) : Byte :=
  match (s.chain d v).findSome? fun u => Store.get none s.vcopy (vcKey d u k) with
  | some b => b
  | none => s.memByte k

/-- n bytes as their home holds them. -/
def State.homeBytes (s : State) (d v k n : Nat) : List Byte :=
  (List.range n).map fun i => s.homeByte d v (k + i)

/-! ### Remote-die copies (R71, R229) -/

/-- The key of a byte of a remote-die copy of a unit. -/
def cpKey (unit k : Nat) : Nat := unit * 2 ^ 60 + k

/-- The unit of the remote-data cache of a die. -/
def rdcUnit (die : Nat) : Nat := 576 + die

def State.copyByte (s : State) (unit k : Nat) : CopyByte := Store.get CopyByte.none s.copies (cpKey unit k)

def State.setCopy (s : State) (unit k : Nat) (c : CopyByte) : State :=
  { s with copies := Store.set CopyByte.none s.copies (cpKey unit k) c }

/-- Whether the core has an L1 (R57). -/
def State.hasL1 (s : State) (core : Nat) : Bool :=
  s.csrGet 0x1001 core != s.csrGet 0x1002 core

/-- Whether a key is homed on the other die than a core's, so that copies of it are held under
scopes. Host windows are never cached (R74). -/
def remoteDie (core : Nat) (home : Bool) (k : Nat) : Bool :=
  !inWindow k && (decide (dieOfCore core = 1) != home)

/-- A byte as a core's access in version 0 reads it through its L1 and the remote-data cache. -/
def State.cachedByte (s : State) (core : Nat) (home : Bool) (k : Nat) : Byte :=
  if remoteDie core home k then
    let c := s.copyByte core k
    if c.valid then c.val
    else
      let c := s.copyByte (rdcUnit (dieOfCore core)) k
      if c.valid then c.val else s.memByte k
  else s.memByte k

/-- An operation in flight precedes the path: its own, or one of its team from before the division
(R222). -/
def Flight.of (f : Flight) (r : PathRef) : Bool := f.r == r || (f.both && f.r.tok == r.tok)

/-- A path's stores in flight to one byte, oldest first: the last one's value (R224, item 1). -/
def flightByte (fl : List Flight) (r : PathRef) (k : Nat) : Option Byte :=
  fl.foldl (fun acc f =>
    match f.op with
    | .write bs =>
      if f.of r && decide (f.key ≤ k) && decide (k < f.key + bs.length) then bs[k - f.key]? else acc
    | .atomic .. => acc) none

/-- A byte as a path's load reads it: its own stores in flight, then its core's caches in version 0,
then the home's view (R80, R82, R229). -/
def State.viewByte (s : State) (r : PathRef) (home : Bool) (k : Nat) : Byte :=
  match flightByte s.flight r k with
  | some b => b
  | none =>
    if s.verOf r = 0 then s.cachedByte (s.coreOf r) home k
    else s.homeByte (s.domOf r) (s.verOf r) k

def State.viewBytes (s : State) (r : PathRef) (home : Bool) (k n : Nat) : List Byte :=
  (List.range n).map fun i => s.viewByte r home (k + i)

/-- Some byte of a range is in a flake poisoned at its home (R455). -/
def State.poisoned (s : State) (k n : Nat) : Bool :=
  s.poison.any fun p => decide (p < k + n) && decide (k < p + 32)

/-- The key under which a (domain, version) finds a byte: of the deepest copy on the ancestor chain that holds it, or
of the committed line (R80). -/
def State.heldAt (s : State) (d v k : Nat) : Nat :=
  match (s.chain d v).find? fun u => (Store.get none s.vcopy (vcKey d u k)).isSome with
  | some u => vcKey d u k
  | none => k

/-- The places of the n bytes a (domain, version) reads that lie in poisoned flakes (R80, R248, R455). -/
def State.badPlaces (s : State) (d v k n : Nat) : List Nat :=
  if s.poison.isEmpty then []
  else ((List.range n).map fun i => s.heldAt d v (k + i)).filter fun j => s.poisoned j 1

/-- Poison seen in a (domain, version), at the home. -/
def State.poisonedIn (s : State) (d v k n : Nat) : Bool := !(s.badPlaces d v k n).isEmpty

/-- A byte as a core's access in version 0 reads it carries poison: the mark of the copy it is read from, or its home
flake's (R456). -/
def State.cachedBad (s : State) (core : Nat) (home : Bool) (k : Nat) : Bool :=
  if remoteDie core home k then
    let c := s.copyByte core k
    if c.valid then c.poison
    else
      let c := s.copyByte (rdcUnit (dieOfCore core)) k
      if c.valid then c.poison else s.poisoned k 1
  else s.poisoned k 1

/-- Some byte of n that a core reads in a (domain, version) is poisoned, as it reads it. -/
def State.poisonedAt (s : State) (core : Nat) (home : Bool) (d v k n : Nat) : Bool :=
  if v = 0 then (List.range n).any fun i => s.cachedBad core home (k + i) else s.poisonedIn d v k n

/-- Mark the flake of a key poisoned. -/
def State.poisonFlake (s : State) (k : Nat) : State :=
  let p := k / 32 * 32
  if s.poison.contains p then s else { s with poison := p :: s.poison }

/-- Mark a flake poisoned as a write in (domain, version) does. -/
def State.poisonFor (s : State) (d v k : Nat) : State :=
  s.poisonFlake (if v = 0 then k else vcKey d v k)

/-! ### Performing writes at the home -/

/-- Write one committed byte. -/
def State.putByte (s : State) (k : Nat) (b : Byte) : State :=
  { s with
    mem := if isHostKey k then s.mem else Store.set 0 s.mem k b,
    hostL2 := if isHostKey k then Store.set CopyByte.none s.hostL2 k (.written b) else s.hostL2 }

/-- Write committed bytes. -/
def State.putBytes (s : State) (k : Nat) (bs : List Byte) : State :=
  { s with
    mem := if isHostKey k then s.mem else Store.setList 0 s.mem k bs,
    hostL2 :=
      if isHostKey k then
        Store.setList CopyByte.none s.hostL2 k (bs.map CopyByte.written)
      else s.hostL2 }

/-- The port of a host key, and the PCI Express address (R442). -/
def hostPortOf (k : Nat) : Bool := decide (2 ^ 57 ≤ k)
def hostAddrOf (k : Nat) : Nat := k % 2 ^ 56

/-- Fetch one byte of host memory into the home L2, unless it is held. -/
def hostFill (mem : Store Byte) (wr : List (Nat × List Byte)) (l : Store CopyByte) (j : Nat) : Store CopyByte :=
  if (Store.get CopyByte.none l j).valid then l
  else Store.set CopyByte.none l j (.filled (hostByte mem wr j) 0 false)

/-- The home L2 fetches the flakes of n bytes of host memory, keeping bytes it holds (R73). -/
def State.fillHost (s : State) (k n : Nat) : State :=
  { s with hostL2 :=
      if isHostKey k then
        (List.range (32 * (flakeOf (k + n - 1) - flakeOf k + 1))).foldl (fun l i => hostFill s.mem s.hostWr l (flakeOf k * 32 + i)) s.hostL2
      else s.hostL2 }

/-- Send the dirty bytes of some lines of host memory to the host's port, where they wait for the flush (R73,
R264); `drop` leaves no copy of the lines in the home L2. -/
def State.hostOut (s : State) (first n : Nat) (drop : Bool) : State :=
  let mine := fun (x : Nat × CopyByte) => decide (first ≤ x.1) && decide (x.1 < first + n)
  let dirty := s.hostL2.filter fun x => mine x && x.2.dirty
  { s with
    hostWr := s.hostWr ++ dirty.map fun x => (x.1, [x.2.val]),
    hostL2 := if drop then s.hostL2.filter fun x => !mine x
      else s.hostL2.map fun x => if mine x then (x.1, { x.2 with dirty := false }) else x }

/-- Deliver to a port's host what is on its way there, in order (R73, R417, R446). -/
def State.deliver (s : State) (port : Bool) : State :=
  let mine := s.hostWr.filter fun w => hostPortOf w.1 == port
  { s with
    hostWr := s.hostWr.filter (fun w => hostPortOf w.1 != port),
    mem := mine.foldl (fun m w => Store.setList 0 m w.1 w.2) s.mem,
    out := s.out ++ mine.map fun w => OutMsg.hostWrite port (hostAddrOf w.1) w.2 }

/-- Write the bytes of copy (d, v) (R78). -/
def State.putVersion (s : State) (d v k : Nat) (bs : List Byte) : State :=
  let st := { s with vcopy := Store.setList none s.vcopy (vcKey d v k) (bs.map some) }
  let hit := fun (x : VCopy) => x.dom == d && x.ver == v && x.span == spanOf k
  { st with vspans := st.vspans.filter (fun x => !hit x) ++
      [⟨d, v, spanOf k, (st.vspans.any fun x => hit x && x.displaced)⟩] }

/-- Drop the poison of flakes that a write covers whole (R456). -/
def State.mend (s : State) (k n : Nat) : State :=
  { s with poison := s.poison.filter fun p => !(decide (k ≤ p) && decide (p + 32 ≤ k + n)) }

/-! ### Fills and write-backs of remote-die copies (R229, R230) -/

/-- The die that holds a unit's copies: of a core, or of a remote-data cache. -/
def dieOfUnit (unit : Nat) : Nat := if unit < 576 then dieOfCore unit else unit - 576

/-- CYC of the die that holds a unit's copies, from which the bound of R230 counts. -/
def State.unitCyc (s : State) (unit : Nat) : Nat := (s.die (decide (dieOfUnit unit = 1))).cyc

/-- Fill the flake of a key into a unit, keeping bytes it already holds. Each byte carries the mark of what it was
copied from (R456). -/
def State.fillFlake (s : State) (unit : Nat) (k : Nat) (src : Nat → Byte × Bool) : State :=
  let base := k / 32 * 32
  (List.range 32).foldl (fun s i =>
    if (s.copyByte unit (base + i)).valid then s
    else s.setCopy unit (base + i) (.filled (src (base + i)).1 (s.unitCyc unit) (src (base + i)).2)) s

/-- A load in version 0 of a remote-die line fills the L1 (unless bypassed) and the remote-data
cache. -/
def State.fillLoad (s : State) (core : Nat) (home : Bool) (k : Nat) (bypass : Bool) : State :=
  if remoteDie core home k then
    let rdc := rdcUnit (dieOfCore core)
    let s := s.fillFlake rdc k fun i => (s.memByte i, s.poisoned i 1)
    if bypass || !s.hasL1 core then s
    else s.fillFlake core k fun i => ((s.copyByte rdc i).val, (s.copyByte rdc i).poison)
  else s

/-- The entries of one unit's copies: key and byte. -/
def State.copiesOf (s : State) (unit : Nat) : List (Nat × CopyByte) :=
  s.copies.filterMap fun x => if x.1 / 2 ^ 60 = unit then some (x.1 % 2 ^ 60, x.2) else none

/-- A die's clock has stopped for a relock (R488). -/
def State.stopped (s : State) (d : Bool) : Bool :=
  match (s.die d).relock with
  | none => false
  | some t => decide (t ≤ s.tsc)

/-- No traffic crosses between the dies: a quiesce is asked for, or the clock of one of them has stopped (R466, R488). -/
def State.crossStop (s : State) : Bool := s.dq || s.stopped false || s.stopped true

/-- Drop a unit's copies that satisfy a test: all but dirty bytes whose write-back waits to cross. -/
def State.dropCopies (s : State) (unit : Nat) (f : Nat → Bool) : State :=
  { s with copies := s.copies.filter fun x => !(x.1 / 2 ^ 60 == unit && f (x.1 % 2 ^ 60)) || (x.2.dirty && s.crossStop) }

end Sys2Proof.Machine
end

