-- ==== Sys2Proof/Machine/Ops.lean ====
section
/-! DEFINITION. Operations every family shares: advancing a path, events of the log (R458 to R460),
taking a stop (R447 to R452) and its return, monitors (R313), writes at the home, cross-die actions
(R229), long-latency results and late values (R126 to R128, R304), and what a release waits for
(R220, R247, R305, R457). -/

namespace Sys2Proof.Machine

/-! ### The issuing path -/

/-- Run a meaning as the path that issues. Without a live issuer there is no instruction to give a
meaning to. -/
def issued (s : State) (k : PathRef → State) : Res :=
  match s.cur with
  | none => .fault .noIssuer
  | some r => if (s.path r).live then .next (k r) else .fault .noIssuer

/-- Move a path past a word of n words; inside a `macro` word, to its next operation (R125, R155). -/
def Path.advance (p : Path) (n : Nat) : Path :=
  match p.mac with
  | some m => { p with mac := some { m with idx := m.idx + 1 }, done := 0, wait := .none, stop := Option.none }
  | .none =>
    { p with
      pc := p.pc + BitVec.ofNat 64 (4 * n), widx := p.widx + n, done := 0, wait := .none, stop := Option.none }

def State.advance (s : State) (r : PathRef) (n : Nat) : State := s.modPath r fun p => p.advance n

/-- Make a path wait in place: its word is taken up again when the wait is over. -/
def State.waitFor (s : State) (r : PathRef) (w : Wait) : State := s.modPath r fun p => { p with wait := w }

/-- Transfer control: the target must be a clause header (R123); the rest of the clause is
abandoned. -/
def State.transfer (s : State) (r : PathRef) (pc : DWord) : State :=
  s.modPath r fun p =>
    { p with
      pc := pc, inClause := false, widx := 0, ll := 0, mac := none, done := 0, wait := .none, stop := Option.none }

/-! ### The event log (R458 to R460) -/

/-- Make room in a ring of records of n bytes for one that comes before some of those that nothing has read yet: they move
on by one. The ring has been filled up to an index; so many of its records are unread. -/
def makeRoom (put : State → Nat → List Byte → State) (at' : Nat → Nat) (n : Nat) (later : State → Nat → Bool) :
    Nat → Nat → State → State × Nat
  | 0, i, s => (s, i)
  | k + 1, i, s =>
    let j := (i + 2 ^ 32 - 1) % 2 ^ 32
    if later s (at' j) then makeRoom put at' n later k j (put s (at' i) (s.memBytes (at' j) n)) else (s, i)

/-- Log one event: nothing when logging is off, a lost count when the ring is full. Records of one tick stand in ascending
order of their sources (R459). -/
def State.logEvent (s : State) (src code cls : Nat) (ctx : Option Nat) (detail : List Byte) : State :=
  let size := (s.csrGet 0x4051 0).toNat
  let pidx := (s.csrGet 0x4052 0).toNat
  let cidx := (s.csrGet 0x4053 0).toNat
  if size = 0 then s
  else if (pidx + 2 ^ 32 - cidx % 2 ^ 32) % 2 ^ 32 ≥ size then
    s.csrPut 0x4054 0 (BitVec.ofNat 64 (((s.csrGet 0x4054 0).toNat + 1) % 2 ^ 32))
  else
    let base := (s.csrGet 0x4050 0).toNat
    let c := ctx.getD 0xFFFFF
    let bs := leBytes 8 s.tsc ++ leBytes 2 src ++ leBytes 2 code ++ leBytes 4 (c % 2 ^ 20 + cls * 2 ^ 20) ++
      (detail ++ List.replicate 16 0).take 16
    let at' := fun (i : Nat) => base + i % size * 32
    let x := makeRoom State.putBytes at' 32 (fun s a => s.memNat a 8 == s.tsc && decide (src < s.memNat (a + 8) 2))
      ((pidx + 2 ^ 32 - cidx % 2 ^ 32) % 2 ^ 32) pidx s
    (x.1.putBytes (at' x.2) bs).csrPut 0x4052 0 (BitVec.ofNat 64 ((pidx + 1) % 2 ^ 32))

/-- Event 1: a write or a table entry ignored, refused or deferred (R460). -/
def State.logRefused (s : State) (src : Nat) (ctx : Option Nat) (addr val : Nat) : State :=
  s.logEvent src 1 0 ctx (leBytes 8 addr ++ leBytes 8 val)

/-- Event 9: an uncorrectable error in the store of a unit, at an address or index: 0 poisoned, 1 a path
stopped (R455, R460). -/
def State.logError (s : State) (src : Nat) (ctx : Option Nat) (at' : Nat) (stopped : Bool) : State :=
  s.logEvent src 9 2 ctx (leBytes 8 at' ++ leBytes 1 stopped.toNat)

/-- The source of a unit's copies: a core, or the controllers of a die. -/
def copySrc (unit : Nat) : Nat := if unit < 576 then unit else 584 + (unit - 576)

/-- An operation with a serial number was issued before the team divided: it belongs to both paths. -/
def State.inherited (s : State) (tok serial : Nat) : Bool :=
  (s.team tok).divided && decide (serial < (s.team tok).divSer)

/-- What a path issued, by its serial number, precedes a path: its own, or its team's from before the division. -/
def State.precedes (s : State) (r r' : PathRef) (serial : Nat) : Bool :=
  r' == r || (r'.tok == r.tok && s.inherited r.tok serial)

/-- Record a store's failure, at the flake of a key, against its path (R247): against both paths, where the
store was issued before the team divided. A path that has ended keeps it for the merge. -/
def State.noteFailed (s : State) (r : PathRef) (both : Bool) (k va : Nat) : State :=
  if !(s.team r.tok).live then s
  else
    let b := (k / 32 * 32, va / 32 * 32)
    let f := fun (p : Path) => if p.failed.contains b then p else { p with failed := p.failed ++ [b] }
    let s := s.modPath r f
    if both then s.modPath ⟨r.tok, !r.path⟩ f else s

/-- An error in a unit's dirty copy is found when its flake is read (R457): the home flake is poisoned, the
copy dropped, and the failure recorded against the paths that dirtied it. The event bears the context of the first of
them (R460). -/
def State.failCopy (s : State) (unit k : Nat) : State :=
  let base := k / 32 * 32
  let mine := (List.range 32).filterMap fun i =>
    let c := s.copyByte unit (base + i)
    c.owner.map fun r => (r, c)
  let gone : State := { s with copies := s.copies.filter fun x => !(x.1 / 2 ^ 60 == unit && x.1 % 2 ^ 60 / 32 == k / 32) }
  let s := (gone.poisonFlake k).logError (copySrc unit)
    (mine.head?.map fun x => x.2.ctx) base false
  mine.foldl (fun s x => s.noteFailed x.1 (s.inherited x.1.tok x.2.ser) base x.2.va) s

/-! ### Dirty flakes of the own die (R67) -/

/-- A dirty flake of a core's own die meets n bytes at a key. -/
def OwnLine.meets (o : OwnLine) (k n : Nat) : Bool := decide (o.key < k + n) && decide (k < o.key + 32)

/-- An access by an agent recalls the flakes that other cores' L1s hold dirty: the directory's write-back (R67). No core
stands for 576 and above. -/
def State.recallBut (s : State) (core k n : Nat) : State :=
  if s.l1own.isEmpty then s else { s with l1own := s.l1own.filter fun o => o.core == core || !o.meets k n }

/-- A write at the home, or a read-modify-write there, leaves no L1 with the flakes dirty. -/
def State.recall (s : State) (k n : Nat) : State :=
  if s.l1own.isEmpty then s else { s with l1own := s.l1own.filter fun o => !o.meets k n }

/-- The stores that dirtied a core's flake. -/
def State.ownersOf (s : State) (core k : Nat) : List (PathRef × Nat × Nat × Nat) :=
  (s.l1own.filter fun o => o.core == core && o.meets k 1).flatMap fun o => o.owners

/-- A store of a core has been performed on a flake of its own die: the L1 holds the flake dirty. -/
def State.holdOwn (s : State) (core k : Nat) (owners : List (PathRef × Nat × Nat × Nat)) : State :=
  { s with l1own := (s.l1own.filter fun o => !(o.core == core && o.meets k 1)) ++ [⟨core, k / 32 * 32, owners⟩] }

/-- An uncorrectable error in a dirty flake of the own die, found as the flake is read (R457). -/
def State.failOwn (s : State) (o : OwnLine) : State :=
  let s := (({ s with l1own := s.l1own.filter fun x => x != o } : State).poisonFlake o.key).logError o.core
    (o.owners.head?.map fun x => x.2.2.2) (o.key % 2 ^ 60) false
  o.owners.foldl (fun s x => s.noteFailed x.1 (s.inherited x.1.tok x.2.1) o.key x.2.2.1) s

/-- The cluster unit source of a core (R459). -/
def clusterSrc (core : Nat) : Nat := 576 + clusterOfCore core
/-- The dispatcher source of a die (R459). -/
def dispSrc (die : Nat) : Nat := 582 + die

/-! ### Waking `wfi` (R406) -/

/-- End a wait of one path with a reason written to a register. -/
def State.endWait (s : State) (r : PathRef) (d : SReg) (reason : Nat) : State :=
  (s.sset r d (BitVec.ofNat 64 reason)).advance r 1

/-- Both paths of every live team. -/
def State.allPaths (s : State) : List PathRef :=
  s.liveTeams.flatMap fun x =>
    ([⟨x.1, false⟩, ⟨x.1, true⟩] : List PathRef).filter fun r => (x.2.path r.path).live

/-- An event of reason 0 or 2 reaches a path: it ends a sleeping `wfi`, or is kept pending. Reason 0 comes before
reason 2 where both come in one tick. -/
def State.wfiEvent (s : State) (r : PathRef) (two : Bool) : State :=
  let p := s.path r
  match p.wait, p.woke with
  | .wfi _ d, _ =>
    (s.endWait r d (if two then 2 else 0)).modPath r fun p => { p with woke := if two then some (s.tsc, d) else none }
  | _, some (t, d) =>
    if !two && t == s.tsc then (s.sset r d 0).modPath r fun p => { p with pend2 := true, woke := none }
    else s.modPath r fun p => if two then { p with pend2 := true } else { p with pend0 := true }
  | _, none => s.modPath r fun p => if two then { p with pend2 := true } else { p with pend0 := true }

/-- An event of reason 0 or 2 reaches saved paths, which keep it (R406). -/
def State.wfiSaved (s : State) (f : SavedCrew → Bool) (two : Bool) : State :=
  let set := fun (p : Path) => if two then { p with pend2 := true } else { p with pend0 := true }
  let team := fun (t : Nat × Team) => (t.1, { t.2 with path0 := set t.2.path0, path1 := set t.2.path1 })
  let crew := fun (v : SavedCrew) => if f v then { v with teams := v.teams.map team } else v
  { s with saved := s.saved.map crew }

/-- A record was added to a fault queue of a partition (R406, reason 0). -/
def State.wakePart (s : State) (part : Nat) : State :=
  let s := s.wfiSaved (fun v => s.ctxPart (s.grid v.crew.grid).ctx == part) false
  s.allPaths.foldl (fun s r => if s.ctxPart (s.ctxOf r) = part then s.wfiEvent r false else s) s

/-! ### Monitors (R312, R313) -/

/-- A write lands on n bytes at a key: armed monitors of those flakes see it. -/
def State.land (s : State) (k n : Nat) : State :=
  s.allPaths.foldl (fun s r =>
    match (s.path r).monitor with
    | some m =>
      if decide (flakeOf k ≤ m.flake) && decide (m.flake ≤ flakeOf (k + n - 1)) then
        match (s.path r).wait with
        | .mwait _ d => (s.modPath r fun p => { p with monitor := none }).endWait r d 0
        | _ => s.modPath r fun p => { p with monitor := some { m with landed := true } }
      else s
    | none => s) s

/-- Write committed bytes at their home, mending poison and waking monitors (R224, R313, R456). No L1 of the home die
keeps the flakes dirty (R67). -/
def State.homeWrite (s : State) (k : Nat) (bs : List Byte) : State :=
  if bs.isEmpty then s else ((((s.putBytes k bs).recall k bs.length).mend k bs.length).land k bs.length)

/-- Write bytes at their home for a (domain, version): the committed line, or the versioned copy
(R78). Host memory and windows have no versions. -/
def State.writeFor (s : State) (d v k : Nat) (bs : List Byte) : State :=
  if v = 0 then s.homeWrite k bs
  else (((s.putVersion d v k bs).recall (vcKey d v k) bs.length).mend (vcKey d v k) bs.length).land k bs.length

/-! ### Stops (R447 to R451) -/

/-- What a stop reports (R450, Table 3). -/
structure StopInfo where
  cause     : Nat
  sub       : Nat := 0
  addr      : DWord := 0
  lane      : Nat := 0
  detail    : Nat := 0
  done      : Mask := 0
  loadpc    : DWord := 0
  uncertain : Bool := false
  /-- The word reported, where it is not the path's PC (R172, R450). -/
  word      : Option DWord := none
  deriving DecidableEq, Repr

/-- The next stop handle of a context (R448). -/
def State.newHandle (s : State) (c : Nat) : BitVec 64 :=
  BitVec.ofNat 64 (c % 2 ^ 20 + ((s.ctx c).serial + 1) * 2 ^ 24)

/-- Bytes 40 to 43 of a fault record. -/
def whereBits (num : Nat) (path : Bool) (core : Nat) : Nat :=
  num % 16 + path.toNat * 16 + core / 288 * 32 + core % 288 * 64

/-- The 128 bytes of a fault record (R450, Table 3). -/
def State.faultRecord (s : State) (h : BitVec 64) (i : StopInfo) (grid : Nat) (pc : DWord) (lin wh : Nat)
    (engine saved : Bool) (regs : List DWord) : List Byte :=
  leBytes 8 h.toNat ++ leBytes 2 i.cause ++ leBytes 1 i.sub ++
  leBytes 1 (engine.toNat + i.uncertain.toNat * 2 + saved.toNat * 4) ++
  leBytes 4 grid ++ leBytes 8 pc.toNat ++ leBytes 8 i.addr.toNat ++ leBytes 4 i.lane ++
  leBytes 4 lin ++ leBytes 4 wh ++ leBytes 4 i.detail ++ leBytes 16 i.done.toNat ++
  (regs.flatMap fun x => leBytes 8 x.toNat) ++ List.replicate (32 - 8 * regs.length) 0 ++
  leBytes 8 s.tsc ++ leBytes 8 i.loadpc.toNat ++ List.replicate 16 0

/-- Room in a context's fault queue (R450). -/
def State.fqRoom (s : State) (c : Nat) : Bool :=
  let rec' := (s.ctx c).record
  let p := s.memNat rec'.fqbase 4
  let q := s.memNat (rec'.fqbase + 4) 4
  rec'.valid && decide (rec'.fqsize ≠ 0) && decide ((p + 2 ^ 32 - q) % 2 ^ 32 ≠ rec'.fqsize)

/-- The die and the tick of a fault record. -/
def recDie (bs : List Byte) : Bool := (bs.getD 40 0).getLsbD 5
def recTsc (bs : List Byte) : Nat := leNat ((bs.drop 96).take 8)

/-- A record of die 1 that one of die 0 of the same tick comes before (R450). -/
def recAfter (new old : List Byte) : Bool := !recDie new && recDie old && recTsc new == recTsc old

/-- Write one record into the queue, advance PIDX and wake `wfi` (R450, R406). The records of the two dies stand in
ascending order of TSC and source. -/
def State.fqWrite (s : State) (c : Nat) (bs : List Byte) : State :=
  let rec' := (s.ctx c).record
  let p := s.memNat rec'.fqbase 4
  let q := s.memNat (rec'.fqbase + 4) 4
  let at' := fun (i : Nat) => rec'.fqbase + 64 + 128 * (i % rec'.fqsize)
  let x := makeRoom State.homeWrite at' 128 (fun s a => recAfter bs (s.memBytes a 128)) ((p + 2 ^ 32 - q) % 2 ^ 32) p s
  let s := x.1.homeWrite (at' x.2) bs
  let s := s.homeWrite rec'.fqbase (leBytes 4 ((p + 1) % 2 ^ 32))
  s.wakePart rec'.part

/-- Put a record among those that wait, before the ones it comes before. -/
def recInsert (bs : List Byte) (l : List (List Byte)) : List (List Byte) :=
  let k := (l.reverse.takeWhile (recAfter bs)).length
  l.take (l.length - k) ++ bs :: l.drop (l.length - k)

/-- Deliver a fault record: into the queue, or held until room appears (R450). -/
def State.fqAdd (s : State) (c die : Nat) (bs : List Byte) : State :=
  if (s.ctx c).heldRec.isEmpty && s.fqRoom c then s.fqWrite c bs
  else
    let full := (s.ctx c).fqFull
    let s := s.modCtx c fun x => { x with heldRec := recInsert bs x.heldRec, fqFull := true }
    if full then s else s.logEvent (dispSrc die) 10 0 (some c) []

/-- The registers s1 to s4 a TRAP or ECALL record carries. -/
def State.stopRegs (s : State) (r : PathRef) (cause : Nat) : List DWord :=
  if cause = 21 || cause = 22 then [s.sget r 1, s.sget r 2, s.sget r 3, s.sget r 4] else []

/-- TAKING AN EXCEPTION (R447, R448, R450): the path stops at its word with a new handle, keeping its
PC, clause position and done mask, and one record goes to its context's fault queue. A FIRNFULL stop
that the device replayed, and that stops again, keeps its handle and its one record (R453). -/
def State.takeStop (s : State) (r : PathRef) (i : StopInfo) : State :=
  if i.cause = 9 ∧ ((s.path r).stop.any fun x => x.cause == 9) then s.waitFor r .stopped
  else
  let c := s.ctxOf r
  let h := s.newHandle c
  let t := s.team r.tok
  let cr := s.crewOf r
  let bs := s.faultRecord h i cr.grid (i.word.getD (s.path r).pc) cr.lin (whereBits t.num r.path cr.core) false false
    (s.stopRegs r i.cause)
  let s := s.modPath r fun p => { p with wait := .stopped, stop := some ⟨h, i.cause, i.sub⟩ }
  let s := s.modCtx c fun x => { x with serial := x.serial + 1 }
  s.fqAdd c (dieOfCore cr.core) bs

/-- An illegal-instruction stop (cause 1). -/
def State.illegal (s : State) (r : PathRef) : State := s.takeStop r { cause := 1 }

/-- Take an illegal-instruction stop where a decode condition fails (R13, R138, R142). -/
def State.legalIf (s : State) (r : PathRef) (ok : Bool) (k : State) : State :=
  if ok then k else s.illegal r

/-- THE RETURN (R401, ACT 0 and 1): a stopped path is taken up again: a fault is replayed at its word
for the lanes not done, a TRAP, an ECALL or a local load's poison continues at its saved PC. -/
def State.resume (s : State) (r : PathRef) : State :=
  s.modPath r fun p => { p with wait := .none, stop := none }

/-! ### Failed translations (R254, R443, R445) -/

/-- Stand for a launch queue, and for an engine command, where a path would be named. -/
def queueRef (q : Nat) : PathRef := ⟨2 ^ 40 + q, false⟩
def engineRef (n : Nat) : PathRef := ⟨2 ^ 41 + n, false⟩

/-- A group is for a page. -/
def PageReq.names (q : PageReq) (port : Bool) (c page : Nat) : Bool := q.port == port && q.ctx == c && q.page == page

/-- The host has been asked for a page, for a path, an engine command or a launch queue. -/
def State.pageAsked (s : State) (who : PathRef) (port : Bool) (c page : Nat) : Bool :=
  s.prqOut.any fun q => q.who == who && q.names port c page

/-- A page request: one group for each faulting instruction and page, at most 512 outstanding a port (R445). -/
def State.pageAsk (s : State) (who : PathRef) (port : Bool) (c page : Nat) : State :=
  if s.pageAsked who port c page || decide (512 ≤ (s.prqOut.filter fun x => x.port == port).length) then s
  else { s with prqOut := s.prqOut ++ [⟨who, port, c, page, s.tsc⟩], out := s.out ++ [.pageRequest port c page] }

/-- Ask the host port for a translation, or for a page when an entry lacks write permission (R445). -/
def State.atsAsk (s : State) (who : PathRef) (port : Bool) (c page : Nat) : State :=
  if s.atc.any fun x => x.port == port && x.ctx == c && x.page == page then s.pageAsk who port c page
  else if s.atsOut.contains (port, c, page) then s
  else { s with atsOut := s.atsOut ++ [(port, c, page)], out := s.out ++ [.ats port c page] }

/-- An access whose translation failed: a precise stop, or a wait for the host. -/
def State.xerr (s : State) (r : PathRef) (e : XErr) (va : DWord) (lane detail : Nat) : State :=
  match e with
  | .fault cause sub =>
    let s := { s with hostFails := s.hostFails.filter fun f => f.1 != r }
    s.takeStop r { cause := cause, sub := sub, addr := va, lane := lane, done := (s.path r).done,
                   detail := if decide (6 ≤ cause) && decide (cause ≤ 8) then detail else 0 }
  | .ats port page => (s.atsAsk r port (s.ctxOf r) page).waitFor r (.ats port page)

/-! ### Cross-die actions (R229) -/

/-- Scopes that act on the L1, and on the remote-data cache as well. -/
def Scope.crossL1 : Scope → Bool
  | .team | .crew => false
  | _ => true

def Scope.crossRdc : Scope → Bool
  | .device | .system | .pod => true
  | _ => false

/-- The wider of two scopes, in code order (R218). -/
def Scope.wider (a b : Scope) : Scope := if a.ctorIdx ≤ b.ctorIdx then b else a

/-- The wider of the scopes of release fences, where there are any. -/
def widest : Option Scope → Option Scope → Option Scope
  | some a, some b => some (Scope.wider a b)
  | some a, none => some a
  | none, b => b

/-- The first keys of the flakes whose every byte is dirty in a unit, and without error. -/
def State.wholeDirty (s : State) (unit : Nat) (f : Nat → Bool) : List Nat :=
  (s.copiesOf unit).filterMap fun x =>
    if x.1 % 32 = 0 && f x.1 && (List.range 32).all fun i =>
        let c := s.copyByte unit (x.1 + i)
        c.dirty && !c.bad
    then some x.1 else none

/-- When a byte was dirtied, where it was dirty before: the earlier of two times of a clock that now shows the given
count, so that no store waits longer than the bound of R230. -/
def sinceFirst (now : Nat) (old : CopyByte) (new : Nat) : Nat :=
  if old.dirty && decide ((now + 2 ^ 64 - new) % 2 ^ 64 < (now + 2 ^ 64 - old.since) % 2 ^ 64) then old.since else new

/-- Write the L1's dirty bytes (of keys that satisfy a test) to the remote-data cache (R229); a byte in
error is found as it is read (R457). -/
def State.l1ToRdc (s : State) (core : Nat) (f : Nat → Bool) : State :=
  let rdc := rdcUnit (dieOfCore core)
  (s.copiesOf core).foldl (fun s x =>
    if (s.copyByte core x.1).dirty && f x.1 then
      if x.2.bad then s.failCopy core x.1
      else (s.setCopy core x.1 { x.2 with dirty := false, owner := none }).setCopy
        rdc x.1 { x.2 with dirty := true, since := sinceFirst (s.unitCyc rdc) (s.copyByte rdc x.1) x.2.since }
    else s) s

/-- Write the dirty bytes of a unit back to the home (R229, R230); a flake written whole loses its
poison (R456). While nothing crosses between the dies they wait, and are written once it does (R466, R488). -/
def State.writeBack (s : State) (unit : Nat) (f : Nat → Bool) : State :=
  if s.crossStop then { s with owed := if s.owed.contains unit then s.owed else s.owed ++ [unit] }
  else
    let whole := s.wholeDirty unit f
    let s := (s.copiesOf unit).foldl (fun s x =>
      if (s.copyByte unit x.1).dirty && f x.1 then
        if x.2.bad then s.failCopy unit x.1
        else (s.setCopy unit x.1 { x.2 with dirty := false, owner := none }).homeWrite x.1 [x.2.val]
      else s) s
    whole.foldl (fun s k => s.mend k 32) s

/-- Traffic crosses again: the write-backs that waited are made. -/
def State.payOwed (s : State) : State :=
  if s.crossStop then s else s.owed.foldl (fun s u => s.writeBack u fun _ => true) { s with owed := [] }

/-- A release at a scope by a core would have to write dirty bytes across to the other die, and nothing crosses. -/
def State.outHeld (s : State) (core : Nat) (sc : Scope) : Bool :=
  Scope.crossRdc sc && s.crossStop && s.copies.any fun x =>
    x.2.dirty && (x.1 / 2 ^ 60 == core || x.1 / 2 ^ 60 == rdcUnit (dieOfCore core))

/-- The same of a release by the device itself. -/
def State.allHeld (s : State) : Bool := s.crossStop && s.copies.any fun x => x.2.dirty

/-- Units that hold copies. -/
def State.copyUnits (s : State) : List Nat := (s.copies.map fun x => x.1 / 2 ^ 60).eraseDups

/-- Write the dirty bytes that a core reaches back to their home (R229): the L1's, which are the newer
ones, join the remote-data cache first, so that no older byte follows them. -/
def State.flushHome (s : State) (core : Nat) (f : Nat → Bool) : State :=
  (s.l1ToRdc core f).writeBack (rdcUnit (dieOfCore core)) f

/-- Write back and drop what a core reaches of the keys that satisfy a test. -/
def State.purge (s : State) (core : Nat) (f : Nat → Bool) : State :=
  ((s.flushHome core f).dropCopies core f).dropCopies (rdcUnit (dieOfCore core)) f

/-- The cross-die action of a release at a scope for a core (R229). -/
def State.releaseCore (s : State) (core : Nat) (sc : Scope) : State :=
  if Scope.crossRdc sc then s.flushHome core fun _ => true
  else if Scope.crossL1 sc then s.l1ToRdc core fun _ => true
  else s

/-- After a release that passed its check, an error in a flake that the path had dirtied concerns data that was good when
it was published: it is no failure of the path's (R457). -/
def State.disown (s : State) (r : PathRef) (sc : Scope) : State :=
  if sc == .team then s
  else
    { s with
      copies := s.copies.map fun (x : Nat × CopyByte) => if x.2.owner == some r then (x.1, { x.2 with owner := none }) else x,
      l1own := s.l1own.map fun (o : OwnLine) => { o with owners := o.owners.filter fun x => x.1 != r } }

/-- The cross-die action of a release of a path (R229). -/
def State.releaseAct (s : State) (r : PathRef) (sc : Scope) : State := (s.releaseCore (s.coreOf r) sc).disown r sc

/-- The cross-die action of an acquire at a scope for a core (R229); dirty bytes are written back first,
so that no store is lost. -/
def State.acquireCore (s : State) (core : Nat) (sc : Scope) : State :=
  if Scope.crossRdc sc then s.purge core fun _ => true
  else if Scope.crossL1 sc then (s.l1ToRdc core fun _ => true).dropCopies core fun _ => true
  else s

/-- The cross-die action of an acquire of a path (R229). -/
def State.acquireAct (s : State) (r : PathRef) (sc : Scope) : State := s.acquireCore (s.coreOf r) sc

/-- What a unit of the other die's lines holds at most, in flakes: an L1, by its part of the pool (R57), or a remote-data
cache of 32 MiB (R2, R71). -/
def State.flakeRoom (s : State) (unit : Nat) : Nat :=
  if unit < 576 then ((s.csrGet 0x1002 unit).toNat - (s.csrGet 0x1001 unit).toNat) / 32 else 2 ^ 20

/-- The flakes a unit holds copies of. -/
def State.flakesIn (s : State) (unit : Nat) : List Nat := ((s.copiesOf unit).map fun x => x.1 / 32).eraseDups

/-- A unit that holds a flake too many after an access to one evicts another: its dirty bytes go a level down and its copy
is dropped. Which flake goes is open. -/
def State.evict (s : State) (unit k : Nat) : State :=
  let l := s.flakesIn unit
  if l.length ≤ s.flakeRoom unit then s
  else
    match (l.filter fun j => j != k / 32)[Config.victim s.fresh k % (l.length - 1)]? with
    | none => s
    | some j =>
      let mine := fun (i : Nat) => i / 32 == j
      let s := if unit < 576 then s.l1ToRdc unit mine else s.writeBack unit mine
      s.dropCopies unit mine

/-- An access of a core to a flake of the other die leaves its L1 and its die's remote-data cache within their room. -/
def State.evictFor (s : State) (core k : Nat) : State := (s.evict core k).evict (rdcUnit (dieOfCore core)) k

/-! ### Long-latency operations and late values -/

/-- The flag a long-latency instruction would take (R127). -/
inductive Slot where
  | fault
  | busy (f : Nat)
  | ok (f : Nat)
  deriving DecidableEq, Repr

def Path.slot (p : Path) : Slot :=
  let h := headerOf p.hdrWord
  let pick := fun (v : Bool) (f : BitVec 4) =>
    if v then (if p.flags.getLsbD f.toNat then Slot.busy f.toNat else Slot.ok f.toNat) else Slot.fault
  if p.ll = 0 then pick h.av h.af else if p.ll = 1 then pick h.bv h.bf else .fault

/-- Take the slot of a long-latency instruction: a clause stop, a wait for the flag, or go on with
the flag's number (R127). -/
def State.withSlot (s : State) (r : PathRef) (k : Nat → State) : State :=
  match (s.path r).slot with
  | .fault => s.takeStop r { cause := 2 }
  | .busy f => s.waitFor r (.flags (BitVec.ofNat 12 (2 ^ f)))
  | .ok f => k f

/-- The same for an instruction of several runs, whose flag is busy from its first run on: no operation in progress
holds it then (R267). -/
def State.withOwnSlot (s : State) (r : PathRef) (k : Nat → State) : State :=
  match (s.path r).slot with
  | .busy f => if s.pend.any fun p => s.precedes r p.r p.serial && p.flag == f then s.withSlot r k else k f
  | _ => s.withSlot r k

/-- Count a long-latency instruction in its clause. -/
def State.takeSlot (s : State) (r : PathRef) : State := s.modPath r fun p => { p with ll := p.ll + 1 }

def State.setFlag (s : State) (r : PathRef) (f : Nat) : State :=
  s.modPath r fun p => { p with flags := p.flags ||| BitVec.ofNat 12 (2 ^ f) }

def State.clearFlag (s : State) (r : PathRef) (f : Nat) : State :=
  s.modPath r fun p => { p with flags := p.flags &&& ~~~ BitVec.ofNat 12 (2 ^ f) }

/-- Put a long-latency operation in progress: its flag goes busy, its results come with its
LONG_LATENCY_COMPLETION. -/
def State.startPend (s : State) (r : PathRef) (f : Nat) (ws : List RegWrite)
    (poison : Option PoisonNote := none) (held : Bool := false) (loads : Option LoadSet := none)
    (misses : Nat := 0) (memory : Bool := false) (scope : Option Scope := none) : State :=
  let s := (s.takeSlot r).setFlag r f
  { s with pend := s.pend ++ [⟨s.nextSer, r, f, ws, poison, held, loads, misses, memory, scope⟩], nextSer := s.nextSer + 1 }

/-- A long-latency instruction with no active lanes takes its slot and leaves the flag (R127). -/
def State.emptyPend (s : State) (r : PathRef) (n : Nat) : State := (s.takeSlot r).advance r n

/-- Put a late value on its way (R63, R304). -/
def State.startLate (s : State) (r : PathRef) (ws : List RegWrite) (poison : Option PoisonNote := none)
    (memory : Bool := false) : State :=
  { s with late := s.late ++ [⟨s.nextSer, r, ws, poison, memory⟩], nextSer := s.nextSer + 1 }

/-- A flag is cleared in its path, and in the other path when it was inherited at a division (R129). -/
def State.clearFlagBoth (s : State) (r : PathRef) (f : Nat) (both : Bool) : State :=
  let s := s.clearFlag r f
  if both then s.clearFlag ⟨r.tok, !r.path⟩ f else s

/-! ### Releases (R220, R247, R305, R457) -/

/-- What stands between a path and a release. -/
inductive Gate where
  | go
  | wait
  | stop (i : StopInfo)
  deriving DecidableEq, Repr

/-- A command whose sources are not all read: queued, stopped, or a `smpl` that runs. A held copy is
inert until released (R44). -/
def EngCmd.unread (e : EngCmd) : Bool :=
  match e.phase, e.kind with
  | .queued, _ | .stopped _ false, _ => true
  | .running, .smpl _ => true
  | _, _ => false

/-- An engine command of the path, or from before its team divided, whose sources are not read yet (R222,
R233). -/
def State.unread (s : State) (r : PathRef) : Bool :=
  s.engines.any fun e => s.precedes r e.r e.serial && e.unread

/-- A matrix instruction of the path, or of its team from before a division, is still queued (R222, R282). -/
def State.arrayBusy (s : State) (r : PathRef) : Bool :=
  (s.coreSt (s.coreOf r)).queue.any fun q => s.precedes r q.r q.serial

/-- A load of the path, or of its team from before a division, has not bound its value (R225, R305). -/
def State.unbound (s : State) (r : PathRef) : Bool :=
  s.pend.any fun q => s.precedes r q.r q.serial && q.loads.isSome

/-- The first poison note found, as the stop it causes (R248). -/
def poisonStop (n : PoisonNote) : StopInfo :=
  { cause := 14, sub := 1, addr := n.addr, lane := n.lane, done := n.done, loadpc := n.loadpc, detail := n.kind }

/-- Whether a release at a scope may issue: everything earlier has happened, and the checks of R247,
R248 and R457 pass. Above team scope, a copy in error that the path dirtied is detected first. -/
def State.releaseGate (s : State) (r : PathRef) (sc : Scope) : Gate :=
  let p := s.path r
  if s.flight.any (fun f => f.of r) || s.reqs.any (fun q => q.r == r && !q.ended) || s.arrayBusy r ||
      (s.unread r && sc != .team) || s.pend.any (fun q => s.precedes r q.r q.serial && q.held) || s.unbound r ||
      s.outHeld (s.coreOf r) sc then .wait
  else
    match p.poison with
    | n :: _ => .stop (poisonStop n)
    | [] =>
      match p.failed.find? fun k => s.poison.contains k.1 with
      | some k => .stop { cause := 14, sub := 2, addr := BitVec.ofNat 64 k.2, detail := 1 }
      | none => .go

/-- Detect errors in the L1 flakes that stores before the release dirtied: the path's, or its team's from before a
division (R222, R457). A release at team scope checks none. -/
def State.releaseCheck (s : State) (r : PathRef) (sc : Scope) : State :=
  if sc == .team then s
  else
    (s.copiesOf (s.coreOf r)).foldl (fun s x =>
      if x.2.dirty && x.2.bad && x.2.owner.any fun o => s.precedes r o x.2.ser then s.failCopy (s.coreOf r) x.1 else s) s

/-- Issue an instruction that carries a release: wait, stop at it, or perform the release and go on.
Notes of poison that caused the stop are consumed (R456). -/
def State.release (s : State) (r : PathRef) (sc : Scope) (k : State → State) : State :=
  let s := s.releaseCheck r sc
  match s.releaseGate r sc with
  | .wait => s.waitFor r .release
  | .stop i =>
    (if i.sub = 1 then s.modPath r fun p => { p with poison := p.poison.drop 1 } else s).takeStop r i
  | .go => k ((s.releaseAct r sc).modPath r fun p => { p with failed := [] })

/-- Issue an instruction that comes after everything earlier without being one of those that carry a release: it
waits as they do, and takes the cross-die action (R245). -/
def State.afterAll (s : State) (r : PathRef) (sc : Scope) (k : State → State) : State :=
  match s.releaseGate r sc with
  | .wait => s.waitFor r .release
  | _ => k (s.releaseAct r sc)

/-- A release, where an order carries one. -/
def State.releaseIf (s : State) (r : PathRef) (b : Bool) (sc : Scope) (k : State → State) : State :=
  if b then s.release r sc k else k s

/-- Whether an order releases, and acquires (R220). -/
def releases : Order → Bool
  | .rel | .ar => true
  | _ => false

def acquires : Order → Bool
  | .acq | .ar => true
  | _ => false

/-- The acquire of an order at a scope. -/
def State.acquireIf (s : State) (r : PathRef) (b : Bool) (sc : Scope) : State :=
  if b then s.acquireAct r sc else s

/-- Privileged instructions: a user team takes a privilege stop (R141). -/
def State.privileged (s : State) (r : PathRef) (k : State) : State :=
  if s.kernel r then k else s.takeStop r { cause := 3 }

end Sys2Proof.Machine
end

