-- ==== Sys2Proof/Machine/Fabric.lean ====
section
/-! DEFINITION. Packets of the fabric as one device sends and takes them (R467 to R473): the port of a packet, its
header, what is sent again until it is acknowledged, and what an arrival has to pass before it is performed. -/

namespace Sys2Proof.Machine

/-- Strict-standard mode (R470). -/
def State.strict (s : State) : Bool := (s.csrGet 0x4085 0).getLsbD 0

/-! ### CRC-32C -/

/-- One byte into a reflected CRC-32C register. -/
def crcByte (c : Word) (b : Byte) : Word :=
  (List.range 8).foldl (fun (x : Word) _ => if x.getLsbD 0 then (x >>> 1) ^^^ 0x82F63B78 else x >>> 1) (c ^^^ b.setWidth 32)

/-- CRC-32C of bytes. -/
def crc32c (l : List Byte) : Word := ~~~ (l.foldl crcByte 0xFFFFFFFF)

/-! ### Ports (R467, R473) -/

/-- A port's link is trained. -/
def State.portIsUp (s : State) (port : Nat) : Bool := s.portup.getLsbD port

/-- The ports that take a new packet of the device: enabled, up, and not being quiesced (R467). -/
def State.ports (s : State) : List Nat :=
  (List.range 32).filter fun p =>
    s.portIsUp p && (s.csrGet 0x4083 0).getLsbD p && !(s.csrGet 0x4081 0).getLsbD (32 + p)

/-- The port of a packet, or of its next sending: one of those that take it, another than the last where there is one.
Which is free (R473): it follows the queues' occupancy. -/
def State.spine (s : State) (serial resends : Nat) (last : Option Nat) : Option Nat :=
  let other := s.ports.filter fun p => some p != last
  let l := if other.isEmpty then s.ports else other
  l[Config.spine serial resends % l.length]?

/-- Send a packet through a port; without one it waits. -/
def State.emit (s : State) (port : Option Nat) (p : Packet) : State :=
  { s with out := s.out ++ port.toList.map fun q => .packet q p }

/-! ### Headers (R469, R470) -/

/-- The ordering class of a packet: 0 request, 1 response, 2 boundary and resolve messages, 3 collective data. -/
def bodyCls : PBody → Nat
  | .load .. | .store .. | .atomic .. => 0
  | .reply _ | .refuse .. | .hold _ | .ack _ => 1
  | .collective .. | .collFail _ => 3
  | _ => 2

/-- The tree level and index of a packet: zero where it concerns no node. -/
def bodyNode : PBody → Nat × Nat
  | .arrive _ l i | .collective _ l i _ => (l, i)
  | _ => (0, 0)

/-- The job key of a context (R407). -/
def State.keyOf (s : State) (c : Nat) : BitVec 32 := (s.ctx c).record.jobkey

/-- A packet with the header that the device fills in for it; in strict-standard mode it has none but its number and
its ranks. -/
def State.packetTo (s : State) (serial dst : Nat) (key : BitVec 32) (dom ver : Nat) (body : PBody) : Packet :=
  let h : Packet :=
    { serial := serial, src := s.rank, dst := dst, jobkey := key, cls := bodyCls body, dom := dom, ver := ver,
      parity := decide (s.stepNo % 2 = 1), step := BitVec.ofNat 32 s.stepNo, tlevel := (bodyNode body).1,
      tindex := (bodyNode body).2, clean := true, body := body }
  if s.strict then { h with jobkey := 0, cls := 0, dom := 0, ver := 0, parity := false, step := 0, tlevel := 0, tindex := 0 }
  else h

/-! ### Messages between devices, and their acknowledgements (R472) -/

/-- Send a message of class 2 or 3: it is kept until it is acknowledged. -/
def State.post (s : State) (key : BitVec 32) (dst dom : Nat) (body : PBody) : State :=
  let n := s.nextSer
  let p := s.packetTo n dst key dom 0 body
  let port := s.spine n 0 none
  ({ s with podOut := s.podOut ++ [⟨p, port, s.tsc, 0⟩], nextSer := n + 1 } : State).emit port p

/-- Send a message to each of some devices. -/
def State.postAll (s : State) (key : BitVec 32) (dsts : List Nat) (dom : Nat) (body : PBody) : State :=
  dsts.foldl (fun s d => s.post key d dom body) s

/-- Answer the sender of a packet: a response is not kept. -/
def State.respond (s : State) (h : PodHdr) (body : PBody) : State :=
  s.emit (s.spine h.serial 0 none) (s.packetTo h.serial h.src h.jobkey h.dom h.ver body)

/-- A message has been acknowledged by its destination. -/
def State.ackIn (s : State) (src serial : Nat) : State :=
  { s with podOut := s.podOut.filter fun x => x.p.serial != serial || x.p.dst != src }

/-- What is not acknowledged and was last sent through a port that goes away is sent again through another (R467,
R468). -/
def State.movePorts (s : State) (gone : Word) : State :=
  let away := fun (p : Option Nat) => p.any fun q => gone.getLsbD q
  let s := s.reqs.foldl (fun s q =>
    if q.ended || !away q.port then s
    else
      let port := s.spine q.serial (q.resends + 1) q.port
      ({ s with reqs := s.reqs.map fun x => if x.serial = q.serial then { x with port := port } else x } : State).emit
        port q.packet) s
  s.podOut.foldl (fun s q =>
    if !away q.port then s
    else
      let port := s.spine q.p.serial (q.resends + 1) q.port
      ({ s with podOut := s.podOut.map fun x => if x.p.serial = q.p.serial then { x with port := port } else x } : State).emit
        port q.p) s

/-- Packets that no port would take are sent once one does (R467, R473). -/
def State.sendWaiting (s : State) : State :=
  if s.ports.isEmpty then s
  else
    let s := s.reqs.foldl (fun s q =>
      if q.ended || q.port.isSome || q.packet.dst == s.rank then s
      else
        let port := s.spine q.serial q.resends none
        ({ s with reqs := s.reqs.map fun x => if x.serial = q.serial then { x with port := port } else x } : State).emit
          port q.packet) s
    s.podOut.foldl (fun s q =>
      if q.port.isSome then s
      else
        let port := s.spine q.p.serial q.resends none
        ({ s with podOut := s.podOut.map fun x => if x.p.serial = q.p.serial then { x with port := port } else x } : State).emit
          port q.p) s

/-! ### Arrivals (R469 to R472) -/

/-- Drop a packet without reply (R469, R471): counted, and the first of a (port, key) in 10^6 ticks logged. -/
def State.dropPacket (s : State) (port : Nat) (key : BitVec 32) : State :=
  let s' := s.csrPut 0x4088 0 (BitVec.ofNat 64 (((s.csrGet 0x4088 0).toNat + 1) % 2 ^ 32))
  let tag := (port + 32 * (s.tsc / 10 ^ 6), key)
  if s.drops.contains tag then s'
  else ({ s' with drops := s.drops ++ [tag] } : State).logEvent (590 + port) 12 0 none (leBytes 4 key.toNat)

/-- The context a packet is accepted in by its arrival port's table, or in strict mode by entry 0 of port 0 (R470,
R471). -/
def State.packetCtx (s : State) (port : Nat) (h : PodHdr) : Option Nat :=
  if s.strict then (s.mship.find? fun e => e.1 == 0).map fun e => e.2.2
  else if !h.clean then none
  else (s.mship.find? fun e => e.1 / 64 == port && e.2.1 == h.jobkey).map fun e => e.2.2

/-- A message arrives at a port: at one that is up, with a job key that the port's table holds, it is performed once
and acknowledged. One whose turn has not come answers none, and is sent again (R472, R482). -/
def State.onMsg (s : State) (via : Via) (act : State → Option State) : State :=
  let port := via.port
  let h := via.h
  if s.boot ≠ 2 || !s.portIsUp port || h.dst != s.rank then s
  else if !s.strict && (s.packetCtx port h).isNone then s.dropPacket port h.jobkey
  else if s.seenSeq.contains (h.src, h.serial) then s.respond h (.ack h.serial)
  else
    match act s with
    | none => s
    | some t => ({ t with seenSeq := t.seenSeq ++ [(h.src, h.serial)] } : State).respond h (.ack h.serial)

end Sys2Proof.Machine
end

