-- ==== Sys2Proof/Machine/Flags.lean ====
section
/-! DEFINITION. The flags the ISA computes: the sticky STATUS bits (R103), and the outcomes of
integer and floating comparisons by condition code (R132, R176, R193, R198). -/

namespace Sys2Proof.Machine

/-- STATUS bits (R103). -/
def stNV : BitVec 7 := 0x01
def stDZ : BitVec 7 := 0x02
def stOF : BitVec 7 := 0x04
def stUF : BitVec 7 := 0x08
def stNX : BitVec 7 := 0x10
def stSAT : BitVec 7 := 0x20
def stPWV : BitVec 7 := 0x40

/-- How two values compare; none when either is a NaN. -/
abbrev Order3 := Option Ordering

/-- The truth of a condition code on a comparison (R132, Table 5). -/
def condHolds (c : Cond) (o : Order3) : Bool :=
  match c, o with
  | .eq, some .eq => true
  | .ne, some .lt | .ne, some .gt => true
  | .lt, some .lt => true
  | .le, some .lt | .le, some .eq => true
  | .gt, some .gt => true
  | .ge, some .gt | .ge, some .eq => true
  | .ord, some _ => true
  | .uno, none => true
  | .ueq, none | .ueq, some .eq => true
  | .une, none | .une, some .lt | .une, some .gt => true
  | .ult, none | .ult, some .lt => true
  | .ule, none | .ule, some .lt | .ule, some .eq => true
  | .ugt, none | .ugt, some .gt => true
  | .uge, none | .uge, some .gt | .uge, some .eq => true
  | _, _ => false

/-- Compare two integers. -/
def cmpInt (a b : Int) : Ordering := if a < b then .lt else if a = b then .eq else .gt

end Sys2Proof.Machine
end

