-- ==== Sys2Proof/Machine/Float.lean ====
section
/-! DEFINITION. Floating-point arithmetic (R91 to R107): values, one rounding, the operations of the
vector unit, comparisons, conversions, and the transcendentals by exact integer enclosures. -/

namespace Sys2Proof.Machine

/-! ### Formats and values -/

/-- A floating format (R91): exponent bits, fraction bits, bias, and whether the all-ones exponent
holds infinities (all but E4M3). -/
structure FFmt where
  eb   : Nat
  fb   : Nat
  bias : Nat
  inf  : Bool
  deriving DecidableEq, Repr

def fmtF32 : FFmt := ⟨8, 23, 127, true⟩
def fmtF16 : FFmt := ⟨5, 10, 15, true⟩
def fmtBf16 : FFmt := ⟨8, 7, 127, true⟩
def fmtE4M3 : FFmt := ⟨4, 3, 7, false⟩
def fmtE5M2 : FFmt := ⟨5, 2, 15, true⟩

/-- A floating value: m × 2^e with a sign, an infinity, or a NaN (signalling or quiet). -/
inductive FVal where
  | nan (sig : Bool)
  | inf (neg : Bool)
  | fin (neg : Bool) (m : Nat) (e : Int)
  deriving DecidableEq, Repr

def FFmt.expOnes (f : FFmt) : Nat := 2 ^ f.eb - 1

/-- The canonical quiet NaN (R93, Table 2). -/
def FFmt.nan (f : FFmt) : Nat :=
  if f.inf then f.expOnes * 2 ^ f.fb + 2 ^ (f.fb - 1) else 2 ^ (f.eb + f.fb) - 1

/-- Place the sign. -/
def FFmt.signed (f : FFmt) (neg : Bool) (mag : Nat) : Nat := neg.toNat * 2 ^ (f.eb + f.fb) + mag

/-- The largest finite magnitude. -/
def FFmt.maxFin (f : FFmt) : Nat :=
  if f.inf then f.expOnes * 2 ^ f.fb - 1 else 2 ^ (f.eb + f.fb) - 2

def FFmt.infBits (f : FFmt) (neg : Bool) : Nat :=
  if f.inf then f.signed neg (f.expOnes * 2 ^ f.fb) else f.nan

/-- The value of an encoding (R91, R94). -/
def FFmt.unpack (f : FFmt) (bits : Nat) : FVal :=
  let neg := bits.testBit (f.eb + f.fb)
  let e := bits / 2 ^ f.fb % 2 ^ f.eb
  let m := bits % 2 ^ f.fb
  if f.inf && e == f.expOnes then
    if m = 0 then .inf neg else .nan (!m.testBit (f.fb - 1))
  else if !f.inf && e == f.expOnes && m == 2 ^ f.fb - 1 then .nan false
  else if e = 0 then .fin neg m (1 - (f.bias : Int) - f.fb)
  else .fin neg (2 ^ f.fb + m) ((e : Int) - f.bias - f.fb)

/-! ### Rounding (R99 to R103) -/

/-- Round m × 2^e (strictly above it when sticky) to a multiple of 2^lsb: the multiple, and whether
it is inexact. -/
def roundAt (r : Rnd) (neg : Bool) (m : Nat) (e : Int) (sticky : Bool) (lsb : Int) : Nat × Bool :=
  if lsb ≤ e then (m * 2 ^ (e - lsb).toNat, sticky)
  else
    let sh := (lsb - e).toNat
    let n := m / 2 ^ sh
    let rm := m % 2 ^ sh
    let inexact := rm != 0 || sticky
    let half := 2 ^ (sh - 1)
    let up := match r with
      | .rn => decide (half < rm) || (rm == half && (sticky || n % 2 == 1))
      | .rz => false
      | .ru => inexact && !neg
      | .rd => inexact && neg
    (if up then n + 1 else n, inexact)

/-- An overflow's result (R101, R102). -/
def FFmt.overflow (f : FFmt) (r : Rnd) (sat neg : Bool) : Nat :=
  let toInf := match r with
    | .rn => true
    | .rz => false
    | .ru => !neg
    | .rd => neg
  if toInf && !sat then f.infBits neg else f.signed neg f.maxFin

/-- Round a finite magnitude m × 2^e (plus less than one unit when sticky) to a format: the bits and
the STATUS bits it sets (R100 to R103). -/
def FFmt.round (f : FFmt) (r : Rnd) (sat neg : Bool) (m : Nat) (e : Int) (sticky : Bool) :
    Nat × BitVec 7 :=
  if m = 0 && !sticky then (f.signed neg 0, 0)
  else
    let top : Int := (Nat.log2 m : Int) + e
    let emin : Int := 1 - (f.bias : Int)
    let lsb := (if top < emin then emin else top) - f.fb
    let (n, inx) := roundAt r neg m e sticky lsb
    let mag := ((if top < emin then 0 else top - emin) * (2 ^ f.fb : Nat) + (n : Int)).toNat
    if f.maxFin < mag then (f.overflow r sat neg, stOF ||| stNX)
    else
      let (u, _) := roundAt r neg m e sticky (top - f.fb)
      let tiny := decide (top < emin) && !(u == 2 ^ (f.fb + 1) && decide (top + 1 = emin))
      (f.signed neg mag, (if inx then stNX else 0) ||| (if inx && tiny then stUF else 0))

/-- NV for a signalling NaN operand (R94). -/
def FVal.nv : FVal → BitVec 7
  | .nan true => stNV
  | _ => 0

def FVal.isNan : FVal → Bool
  | .nan _ => true
  | _ => false

def FVal.neg : FVal → FVal
  | .nan s => .nan s
  | .inf n => .inf !n
  | .fin n m e => .fin (!n) m e

/-! ### Addition, multiplication, fusion (R196) -/

/-- A finite value as a signed integer at exponent e0, at most its own exponent. -/
def scaled (neg : Bool) (m : Nat) (e e0 : Int) : Int :=
  let v : Int := (m * 2 ^ (e - e0).toNat : Nat)
  if neg then -v else v

/-- The exact sum of two finite values: sign, magnitude, exponent; an exact zero sum takes the sign
of R196. -/
def addExact (r : Rnd) (n1 : Bool) (m1 : Nat) (e1 : Int) (n2 : Bool) (m2 : Nat) (e2 : Int) :
    Bool × Nat × Int :=
  let e0 := if e1 ≤ e2 then e1 else e2
  let x := scaled n1 m1 e1 e0 + scaled n2 m2 e2 e0
  if x = 0 then ((if n1 == n2 then n1 else r == .rd), 0, e0)
  else (decide (x < 0), x.natAbs, e0)

/-- An addition of values, rounded once. -/
def FFmt.addV (f : FFmt) (r : Rnd) (sat : Bool) (x y : FVal) : Nat × BitVec 7 :=
  match x, y with
  | .nan a, y => (f.nan, (FVal.nan a).nv ||| y.nv)
  | x, .nan b => (f.nan, x.nv ||| (FVal.nan b).nv)
  | .inf a, .inf b => if a == b then (f.infBits a, 0) else (f.nan, stNV)
  | .inf a, .fin .. => (f.infBits a, 0)
  | .fin .., .inf b => (f.infBits b, 0)
  | .fin n1 m1 e1, .fin n2 m2 e2 =>
    let (n, m, e) := addExact r n1 m1 e1 n2 m2 e2
    f.round r sat n m e false

/-- The exact product of two values, with the STATUS bits of R196. -/
def mulV (x y : FVal) : FVal × BitVec 7 :=
  match x, y with
  | .nan a, y => (.nan false, (FVal.nan a).nv ||| y.nv)
  | x, .nan b => (.nan false, x.nv ||| (FVal.nan b).nv)
  | .inf a, .inf b => (.inf (a != b), 0)
  | .inf a, .fin n m _ => if m = 0 then (.nan false, stNV) else (.inf (a != n), 0)
  | .fin n m _, .inf b => if m = 0 then (.nan false, stNV) else (.inf (n != b), 0)
  | .fin n1 m1 e1, .fin n2 m2 e2 => (.fin (n1 != n2) (m1 * m2) (e1 + e2), 0)

/-- Round an exact value. -/
def FFmt.roundV (f : FFmt) (r : Rnd) (sat : Bool) : FVal → Nat × BitVec 7
  | .nan _ => (f.nan, 0)
  | .inf n => (f.infBits n, 0)
  | .fin n m e => f.round r sat n m e false

def FFmt.add (f : FFmt) (r : Rnd) (sat : Bool) (x y : Nat) : Nat × BitVec 7 :=
  f.addV r sat (f.unpack x) (f.unpack y)

def FFmt.sub (f : FFmt) (r : Rnd) (sat : Bool) (x y : Nat) : Nat × BitVec 7 :=
  f.addV r sat (f.unpack x) (f.unpack y).neg

def FFmt.mul (f : FFmt) (r : Rnd) (sat : Bool) (x y : Nat) : Nat × BitVec 7 :=
  let (p, st) := mulV (f.unpack x) (f.unpack y)
  let (b, st') := f.roundV r sat p
  (b, st ||| st')

/-- x × y + z, one rounding (R100, R196). -/
def FFmt.fma (f : FFmt) (r : Rnd) (sat : Bool) (x y z : Nat) : Nat × BitVec 7 :=
  let (p, st) := mulV (f.unpack x) (f.unpack y)
  let (b, st') := f.addV r sat p (f.unpack z)
  (b, st ||| st')

/-! ### Division and roots (R106) -/

/-- The quotient n ÷ d as m × 2^e with at least 96 significant bits, and whether it is inexact. -/
def ratBits (n d : Nat) : Nat × Int × Bool :=
  let k := Nat.log2 d + 96
  (n * 2 ^ k / d, -(k : Int), n * 2 ^ k % d != 0)

def FFmt.divV (f : FFmt) (r : Rnd) (sat : Bool) (x y : FVal) : Nat × BitVec 7 :=
  match x, y with
  | .nan a, y => (f.nan, (FVal.nan a).nv ||| y.nv)
  | x, .nan b => (f.nan, x.nv ||| (FVal.nan b).nv)
  | .inf _, .inf _ => (f.nan, stNV)
  | .inf a, .fin n _ _ => (f.infBits (a != n), 0)
  | .fin n _ _, .inf b => (f.signed (n != b) 0, 0)
  | .fin n1 m1 e1, .fin n2 m2 e2 =>
    if m2 = 0 then (if m1 = 0 then (f.nan, stNV) else (f.infBits (n1 != n2), stDZ))
    else if m1 = 0 then (f.signed (n1 != n2) 0, 0)
    else
      let (m, e, sticky) := ratBits m1 m2
      f.round r sat (n1 != n2) m (e + e1 - e2) sticky

def FFmt.div (f : FFmt) (r : Rnd) (sat : Bool) (x y : Nat) : Nat × BitVec 7 :=
  f.divV r sat (f.unpack x) (f.unpack y)

def FFmt.rcp (f : FFmt) (r : Rnd) (sat : Bool) (x : Nat) : Nat × BitVec 7 :=
  f.divV r sat (.fin false 1 0) (f.unpack x)

/-- The square root of n ÷ d × 2^(2k) as an integer with at least 96 bits, and whether inexact. -/
def sqrtBits (n d : Nat) : Nat × Int × Bool :=
  let k := Nat.log2 d + 96
  let q := n * 2 ^ (2 * k) / d
  let s := Nat.sqrt q
  (s, -(k : Int), s * s * d != n * 2 ^ (2 * k))

/-- m × 2^e with an even exponent. -/
def evenExp (m : Nat) (e : Int) : Nat × Int := if e % 2 = 0 then (m, e) else (2 * m, e - 1)

def FFmt.sqrt (f : FFmt) (r : Rnd) (sat : Bool) (x : Nat) : Nat × BitVec 7 :=
  match f.unpack x with
  | .nan a => (f.nan, (FVal.nan a).nv)
  | .inf n => if n then (f.nan, stNV) else (f.infBits false, 0)
  | .fin n m e =>
    if m = 0 then (f.signed n 0, 0)
    else if n then (f.nan, stNV)
    else
      let (m', e') := evenExp m e
      let (q, k, sticky) := sqrtBits m' 1
      f.round r sat false q (k + e' / 2) sticky

/-- 1 ÷ √x: toward zero in f32, in the mode otherwise (R106). -/
def FFmt.rsq (f : FFmt) (r : Rnd) (sat : Bool) (x : Nat) : Nat × BitVec 7 :=
  match f.unpack x with
  | .nan a => (f.nan, (FVal.nan a).nv)
  | .inf n => if n then (f.nan, stNV) else (f.signed false 0, 0)
  | .fin n m e =>
    if m = 0 then (f.infBits n, stDZ)
    else if n then (f.nan, stNV)
    else
      let (m', e') := evenExp m e
      let (q, k, sticky) := sqrtBits 1 m'
      f.round (if f == fmtF32 then .rz else r) sat false q (k - e' / 2) sticky

/-! ### Transcendentals: integer enclosures at a fixed point of P bits -/

/-- Σ over k < n of sign^k × 1 ÷ ((2k + 1) q^(2k+1)), at P bits: atanh(1/q), or atan(1/q). -/
def atanSeries (alt : Bool) (P q : Nat) : Nat → Nat → Nat → Int → Int
  | 0, _, _, acc => acc
  | fuel + 1, k, pw, acc =>
    let t : Int := ((pw / (2 * k + 1) : Nat) : Int)
    atanSeries alt P q fuel (k + 1) (pw / (q * q)) (if alt && k % 2 == 1 then acc - t else acc + t)

/-- π at P fraction bits, by Machin's formula. -/
def piAt (P : Nat) : Nat :=
  let g := P + 32
  ((16 * atanSeries true g 5 (g / 4 + 4) 0 (2 ^ g / 5) 0 -
    4 * atanSeries true g 239 (g / 15 + 4) 0 (2 ^ g / 239) 0).toNat) / 2 ^ 32

/-- ln 2 at P fraction bits: 2 atanh(1/3). -/
def ln2At (P : Nat) : Nat :=
  let g := P + 32
  ((2 * atanSeries false g 3 (g / 3 + 4) 0 (2 ^ g / 3) 0).toNat) / 2 ^ 32

/-- Σ x^k ÷ k! for x at P bits, x below 1: e^x at P bits. -/
def expSeries (P x : Nat) : Nat → Nat → Nat → Nat → Nat
  | 0, _, _, acc => acc
  | fuel + 1, k, t, acc =>
    let t' := t * x / 2 ^ P / k
    expSeries P x fuel (k + 1) t' (acc + t')

/-- 2^fr for a fraction fr at P bits. -/
def exp2Frac (P fr : Nat) : Nat :=
  expSeries P (fr * ln2At P / 2 ^ P) 100 1 (2 ^ P) (2 ^ P)

def FFmt.exp2 (f : FFmt) (r : Rnd) (sat : Bool) (x : Nat) : Nat × BitVec 7 :=
  match f.unpack x with
  | .nan a => (f.nan, (FVal.nan a).nv)
  | .inf n => if n then (f.signed false 0, 0) else (f.infBits false, 0)
  | .fin n m e =>
    if m = 0 then f.round r sat false 1 0 false
    else
      let P : Nat := 400
      -- |x| of 2^12 or more is beyond every format's range
      if decide (12 ≤ (Nat.log2 m : Int) + e) then
        f.round r sat false 1 (if n then -5000 else 5000) (true && n)
      else
        let v := scaled n m (e + P) 0
        let whole := v.fdiv (2 ^ P)
        let fr := (v - whole * 2 ^ P).toNat
        if fr = 0 then f.round r sat false 1 whole false
        else f.round r sat false (exp2Frac P fr) (whole - P) true

/-- Σ t^(2k+1) ÷ (2k+1) for t at P bits: atanh t. -/
def atanhSeries (P t2 : Nat) : Nat → Nat → Nat → Nat → Nat
  | 0, _, _, acc => acc
  | fuel + 1, k, pw, acc => atanhSeries P t2 fuel (k + 1) (pw * t2 / 2 ^ P) (acc + pw / (2 * k + 1))

/-- ln y at P bits for y = m ÷ 2^l in [1, 2). -/
def lnFrac (P m l : Nat) : Nat :=
  let t := (m - 2 ^ l) * 2 ^ P / (m + 2 ^ l)
  2 * atanhSeries P (t * t / 2 ^ P) 140 0 t 0

def FFmt.log2 (f : FFmt) (r : Rnd) (sat : Bool) (x : Nat) : Nat × BitVec 7 :=
  match f.unpack x with
  | .nan a => (f.nan, (FVal.nan a).nv)
  | .inf n => if n then (f.nan, stNV) else (f.infBits false, 0)
  | .fin n m e =>
    if m = 0 then (f.infBits true, stDZ)
    else if n then (f.nan, stNV)
    else
      let l := Nat.log2 m
      let top : Int := (l : Int) + e
      if m = 2 ^ l then f.round r sat (decide (top < 0)) top.natAbs 0 false
      else
        let P : Nat := 400
        let fr := lnFrac P m l * 2 ^ P / ln2At P
        let v : Int := top * 2 ^ P + fr
        -- a negative magnitude is rounded up by one unit and made sticky from below
        if v < 0 then f.round r sat true (v.natAbs - 1) (-(P : Int)) true
        else f.round r sat false v.toNat (-(P : Int)) true

/-- Alternating series of sine (from k = 1) or cosine (from k = 0) for x at P bits. -/
def trigSeries (P x2 : Nat) : Nat → Nat → Nat → Int → Int
  | 0, _, _, acc => acc
  | fuel + 1, k, t, acc =>
    let t' := t * x2 / 2 ^ P / ((k + 1) * (k + 2))
    trigSeries P x2 fuel (k + 2) t' (if k % 4 < 2 then acc - t' else acc + t')

def sinFrac (P x : Nat) : Int := trigSeries P (x * x / 2 ^ P) 120 1 x x
def cosFrac (P x : Nat) : Int := trigSeries P (x * x / 2 ^ P) 120 0 (2 ^ P) (2 ^ P)

/-- Sine (or cosine) of a finite non-zero magnitude m × 2^e at 640 bits: sign and magnitude. -/
def trig (cosine : Bool) (m : Nat) (e : Int) : Bool × Nat :=
  let P : Nat := 640
  let X := (scaled false m (e + P) 0).toNat
  let h := piAt P / 2
  let q := X / h
  let x := X % h
  let q := q + cosine.toNat
  let v := if q % 2 = 0 then sinFrac P x else cosFrac P x
  (decide (2 ≤ q % 4), v.toNat)

def FFmt.trigOp (f : FFmt) (cosine : Bool) (r : Rnd) (sat : Bool) (x : Nat) : Nat × BitVec 7 :=
  match f.unpack x with
  | .nan a => (f.nan, (FVal.nan a).nv)
  | .inf _ => (f.nan, stNV)
  | .fin n m e =>
    if m = 0 then (if cosine then f.round r sat false 1 0 false else (f.signed n 0, 0))
    else
      let (g, v) := trig cosine m e
      f.round (if f == fmtF32 then .rz else r) sat (g != (n && !cosine)) v (-640) true

/-! ### Minimum, maximum, comparison, class, integral rounding (R197 to R200) -/

/-- The order of two values; none when either is a NaN. −0 and +0 are equal. -/
def FVal.cmp (x y : FVal) : Order3 :=
  match x, y with
  | .nan _, _ | _, .nan _ => none
  | .inf a, .inf b => some (if a == b then .eq else if a then .lt else .gt)
  | .inf a, .fin .. => some (if a then .lt else .gt)
  | .fin .., .inf b => some (if b then .gt else .lt)
  | .fin n1 m1 e1, .fin n2 m2 e2 =>
    let e0 := if e1 ≤ e2 then e1 else e2
    some (cmpInt (scaled n1 m1 e1 e0) (scaled n2 m2 e2 e0))

def FVal.negative : FVal → Bool
  | .nan _ => false
  | .inf n => n
  | .fin n _ _ => n

/-- `fmin` and `fmax` (R197): −0 below +0, a NaN operand ignored. -/
def FFmt.minmax (f : FFmt) (max : Bool) (x y : Nat) : Nat × BitVec 7 :=
  let a := f.unpack x
  let b := f.unpack y
  let st := a.nv ||| b.nv
  match a.isNan, b.isNan with
  | true, true => (f.nan, st)
  | true, false => (y, st)
  | false, true => (x, st)
  | false, false =>
    let less := match a.cmp b with
      | some .lt => true
      | some .eq => a.negative
      | _ => false
    (if less != max then x else y, st)

/-- A comparison with its NV (R198). -/
def FFmt.compare (f : FFmt) (c : Cond) (x y : Nat) : Bool × BitVec 7 :=
  let a := f.unpack x
  let b := f.unpack y
  let ordered := match c with
    | .lt | .le | .gt | .ge => true
    | _ => false
  (condHolds c (a.cmp b),
    if ordered then (if a.isNan || b.isNan then stNV else 0) else a.nv ||| b.nv)

/-- The one-hot class mask (R199). -/
def FFmt.classOf (f : FFmt) (x : Nat) : Nat :=
  match f.unpack x with
  | .nan true => 2 ^ 8
  | .nan false => 2 ^ 9
  | .inf true => 2 ^ 0
  | .inf false => 2 ^ 7
  | .fin n m _ =>
    if m = 0 then (if n then 2 ^ 3 else 2 ^ 4)
    else if m < 2 ^ f.fb then (if n then 2 ^ 2 else 2 ^ 5)
    else (if n then 2 ^ 1 else 2 ^ 6)

/-- Round to an integral value of the format (R200). -/
def FFmt.integral (f : FFmt) (r : Rnd) (x : Nat) : Nat × BitVec 7 :=
  match f.unpack x with
  | .nan a => (f.nan, (FVal.nan a).nv)
  | .inf n => (f.infBits n, 0)
  | .fin n m e =>
    if m = 0 then (x, 0)
    else
      let (q, inx) := roundAt r n m e false 0
      let (b, _) := f.round r false n q 0 false
      (b, if inx then stNX else 0)

/-! ### Conversions (R107, R202) -/

/-- Between floating formats: one rounding, with the E4M3 rule for infinities. -/
def cvtFloat (dst src : FFmt) (r : Rnd) (sat : Bool) (x : Nat) : Nat × BitVec 7 :=
  match src.unpack x with
  | .nan a => (dst.nan, (FVal.nan a).nv)
  | .inf n =>
    if dst.inf then (dst.infBits n, 0)
    else if sat then (dst.signed n dst.maxFin, stNX) else (dst.nan, stNV)
  | .fin n m e => if dst == src then (x, 0) else dst.round r sat n m e false

/-- An integer type: its width and signedness (R95). -/
structure IFmt where
  w  : Nat
  sx : Bool
  deriving DecidableEq, Repr

def IFmt.lo (f : IFmt) : Int := if f.sx then -(2 ^ (f.w - 1)) else 0
def IFmt.hi (f : IFmt) : Int := if f.sx then 2 ^ (f.w - 1) - 1 else 2 ^ f.w - 1

/-- The integer an encoding stands for. -/
def IFmt.val (f : IFmt) (x : Nat) : Int :=
  let v := x % 2 ^ f.w
  if f.sx && decide (2 ^ (f.w - 1) ≤ v) then (v : Int) - 2 ^ f.w else v

/-- The low w bits of an integer. -/
def IFmt.wrap (f : IFmt) (q : Int) : Nat := (q % (2 ^ f.w : Int)).toNat

/-- Wrap, or clamp with SAT when the saturate bit is set (R95, R190). -/
def IFmt.narrow (f : IFmt) (sat : Bool) (q : Int) : Nat × BitVec 7 :=
  if sat && decide (q < f.lo) then (f.wrap f.lo, stSAT)
  else if sat && decide (f.hi < q) then (f.wrap f.hi, stSAT)
  else (f.wrap q, 0)

/-- Floating to integer: always clamped, with NV (R107). -/
def cvtToInt (dst : IFmt) (src : FFmt) (r : Rnd) (x : Nat) : Nat × BitVec 7 :=
  match src.unpack x with
  | .nan _ => (0, stNV)
  | .inf n => (dst.wrap (if n then dst.lo else dst.hi), stNV)
  | .fin n m e =>
    let (q, inx) := roundAt r n m e false 0
    let v : Int := if n then -(q : Int) else q
    if v < dst.lo then (dst.wrap dst.lo, stNV)
    else if dst.hi < v then (dst.wrap dst.hi, stNV)
    else (dst.wrap v, if inx then stNX else 0)

/-- Integer to floating: one rounding (R107). -/
def cvtFromInt (dst : FFmt) (src : IFmt) (r : Rnd) (sat : Bool) (x : Nat) : Nat × BitVec 7 :=
  let v := src.val x
  dst.round r sat (decide (v < 0)) v.natAbs 0 false

/-- The value of an SP8 byte at exponent −6 (R96). -/
def sp8Val (b : Nat) : Int :=
  let term := fun (neg : Bool) (a : Nat) => if a = 7 then (0 : Int) else if neg then -(2 ^ (6 - a)) else 2 ^ (6 - a)
  term (b.testBit 7) (b / 16 % 8) + term (b.testBit 3) (b % 8)

/-- An SP8 byte in a floating format, exactly (R96). -/
def sp8Bits (f : FFmt) (b : Nat) : Nat :=
  let v := sp8Val b
  (f.round .rn false (decide (v < 0)) v.natAbs (-6) false).1

/-- A named rounding function RN (R105) of an exact value. -/
def FFmt.rn (f : FFmt) (v : FVal) : Nat :=
  match v with
  | .nan _ => f.nan
  | .inf n => if f.inf then f.infBits n else f.signed n f.maxFin
  | .fin n m e => (f.round .rn (!f.inf) n m e false).1

/-- RN32 of a sum and of a fused product, used by atomics, boundaries, the array and engines. -/
def rn32Add (x y : Nat) : Nat := (fmtF32.add .rn false x y).1
def rn32Mul (x y : Nat) : Nat := (fmtF32.mul .rn false x y).1
def rn32Fma (x y z : Nat) : Nat := (fmtF32.fma .rn false x y z).1

end Sys2Proof.Machine
end

