-- ==== Sys2Proof/Machine/Owned.lean ====
section
/-! DEFINITION. Where an engine command's data goes (R325, R327, R329), and the lines it owns from its issue until its
completion (R232, R353): a line is owned whatever address an access reaches it by. -/

namespace Sys2Proof.Machine

/-! ### Places -/

/-- One end of a copy. -/
inductive Place where
  | glob (va : DWord)
  | sp (va : DWord)
  | tile (h : Word) (off : Nat)
  deriving DecidableEq, Repr

/-- A destination by its DKIND. -/
def placeOf (dk : Nat) (dst : DWord) : Place :=
  if dk = 0 then .glob dst else if dk = 1 then .sp dst else .tile (dst.extractLsb' 32 32) (dst.toNat % 2 ^ 32)

/-- A source place. -/
def srcPlace (ssp : Bool) (va : DWord) : Place := if ssp then .sp va else .glob va

/-- Move a place on by some bytes: scratchpad and tile addresses modulo 2^32. -/
def Place.add (p : Place) (n : Nat) : Place :=
  match p with
  | .glob va => .glob (va + BitVec.ofNat 64 n)
  | .sp va => .sp (((va + BitVec.ofNat 64 n).setWidth 32).setWidth 64)
  | .tile h off => .tile h ((off + n) % 2 ^ 32)

/-- The address of a place for piece boundaries. -/
def Place.at (p : Place) : Nat :=
  match p with
  | .glob va | .sp va => va.toNat
  | .tile _ off => off

/-- Add a LOOP's deltas to an entry (R327). -/
def ChainEntry.shift (sd dd : BitVec 64) : ChainEntry → ChainEntry
  | .copy ssp dk f len src dst =>
    let half := fun (h : Bool) (x d : DWord) =>
      if h then (x.extractLsb' 32 32 ++ (x.setWidth 32 + d.setWidth 32)) else x + d
    .copy ssp dk f len (half ssp src sd) (half (dk != 0) dst dd)
  | .strided ssp dk f rows rl src dst ss ds =>
    let half := fun (h : Bool) (x d : DWord) =>
      if h then (x.extractLsb' 32 32 ++ (x.setWidth 32 + d.setWidth 32)) else x + d
    .strided ssp dk f rows rl (half ssp src sd) (half (dk != 0) dst dd) ss ds
  | e => e

/-- The LOOP that an entry of a chain stands in: its steps and its iterations. -/
def chainLoop (es : List ChainEntry) (i : Nat) : BitVec 64 × BitVec 64 × Nat :=
  (es.zipIdx.findSome? fun x =>
    match x.1 with
    | .loop back count sd dd => if x.2 - back ≤ i ∧ i < x.2 then some (sd, dd, count) else none
    | _ => none).getD (0, 0, 1)

/-- A place moved by a signed stride some times. -/
def Place.row (p : Place) (i : Nat) (d : Int) : Place := p.add ((BitVec.ofInt 64 ((i : Int) * d)).toNat)

/-- The moves of an entry in each iteration of its LOOP, row by row: source, destination, bytes. -/
def ChainEntry.moves (l : BitVec 64 × BitVec 64 × Nat) (e : ChainEntry) : List (Place × Place × Nat) :=
  (List.range l.2.2).flatMap fun k =>
    match e.shift (BitVec.ofNat 64 (k * l.1.toNat)) (BitVec.ofNat 64 (k * l.2.1.toNat)) with
    | .copy ssp dk _ len src dst => [(srcPlace ssp src, placeOf dk dst, len)]
    | .strided ssp dk _ rows rl src dst ss ds =>
      (List.range rows).map fun i => ((srcPlace ssp src).row i ss, (placeOf dk dst).row i ds, rl)
    | _ => []

/-- The moves of a chain. -/
def chainMoves (es : List ChainEntry) : List (Place × Place × Nat) :=
  es.zipIdx.flatMap fun x => x.1.moves (chainLoop es x.2)

/-- Row i of the linear side of an indexed copy. -/
def CpyxDesc.line (d : CpyxDesc) (i : Nat) : Place :=
  (if d.scat then srcPlace d.ssp d.lin else placeOf d.dkind d.lin).add (i * d.lstride)

/-! ### The lines a command owns (R232, R353) -/

/-- Global addresses of a place and its bytes, from the first to the one after the last. -/
def globRange (p : Place) (n : Nat) : Option (Nat × Nat) :=
  match p with
  | .glob va => if n = 0 then none else some (va.toNat, va.toNat + n)
  | _ => none

/-- A row index of an indexed copy, where it can be read: in the view of the command's team. -/
def State.rowIndex (s : State) (e : EngCmd) (d : CpyxDesc) (i : Nat) : Option Nat :=
  match s.translate e.core e.ctx e.kernel .load (d.idx + BitVec.ofNat 64 (4 * i)) with
  | .ok x => some (leNat (s.homeBytes e.dom e.ver x.key 4))
  | .error _ => none

/-- The global addresses that a command will write: of an indexed copy that scatters, the rows its indices name. -/
def State.destsOf (s : State) (e : EngCmd) : List (Nat × Nat) :=
  match e.kind with
  | .chain es => (chainMoves es).filterMap fun x => globRange x.2.1 x.2.2
  | .indexed d =>
    (List.range d.count).filterMap fun i =>
      if d.scat then
        (s.rowIndex e d i).bind fun j => globRange (.glob (d.base + BitVec.ofNat 64 (j * d.istride))) d.rowlen
      else globRange (d.line i) d.rowlen
  | .coll d _ => if d.count = 0 then [] else [(d.dst.toNat, d.dst.toNat + 8 * d.count * d.group.length)]
  | .kv c =>
    match c.op with
    | .gath =>
      if c.ctl.testBit 0 then []
      else
        let h0 := c.ctl / 2 ^ 8 % 256
        let hc := c.ctl / 2 ^ 16 % 256
        let heads := if hc = 0 then c.seq.h - h0 else hc
        (List.range heads).filterMap fun h =>
          globRange (.glob (c.data + BitVec.ofNat 64 (h * c.hstride))) (c.n * c.seq.d * (if c.ctl / 4 % 4 = 0 then 4 else 2))
    | _ => [(c.seq.tail.toNat, c.seq.tail.toNat + 1024 + 128 * c.seq.h * c.seq.d)]
  | .smpl c => (c.job.toNat + 28, c.job.toNat + 32) :: c.slots.flatMap fun x =>
      [(x.addr.toNat, x.addr.toNat + 64), (x.out.toNat, x.out.toNat + 256)]

/-- The pieces of an address range that lie each within one page of 4 KiB. -/
def pagePieces (lo hi : Nat) : List (Nat × Nat) :=
  (List.range ((hi - 1) / 4096 + 1 - lo / 4096)).map fun i =>
    (Nat.max lo ((lo / 4096 + i) * 4096), Nat.min hi ((lo / 4096 + i + 1) * 4096))

/-- The keys a command will write: first and number, page by page. -/
def State.destKeys (s : State) (e : EngCmd) : List (Nat × Nat) :=
  (s.destsOf e).flatMap fun d => (pagePieces d.1 d.2).filterMap fun p =>
    match s.translate e.core e.ctx e.kernel .store (BitVec.ofNat 64 p.1) with
    | .ok x => some (x.key, p.2 - p.1)
    | .error _ => none

/-- A command holds its lines: it has been issued and is not held, and its completion has not been performed. -/
def EngCmd.holds (e : EngCmd) : Bool := !e.clear && (match e.phase with | .held _ => false | _ => true)

/-- A flake of some keys is one that a command owns, one issued before the one given: its completion has not been
performed yet. -/
def State.ownedBut (s : State) (own : Option Nat) (k n : Nat) : Bool :=
  s.engines.any fun e =>
    own.all (fun i => decide (e.serial < i)) && e.holds &&
    (s.destKeys e).any fun d => decide (d.1 / 32 ≤ (k + n - 1) / 32) && decide (k / 32 ≤ (d.1 + d.2 - 1) / 32)

/-- A flake of some keys is one that a command not yet complete will write. -/
def State.owned (s : State) (k n : Nat) : Bool := s.ownedBut none k n

end Sys2Proof.Machine
end

