-- ==== Sys2Proof/Machine/Operands.lean ====
section
/-! DEFINITION. Operand forms: vector elements by TYPE (R5, R185), the second scalar operand (R174),
effective addresses (R135), data registers of memory instructions (R136, R251, R273), and the
registers an instruction names. -/

namespace Sys2Proof

/-! ### Sizes and registers of the small vocabularies -/

/-- Bytes of an access. -/
def MSize.bytes : MSize → Nat
  | .b8 => 1 | .b16 => 2 | .b32 => 4 | .b64 => 8 | .b128 => 16

/-- Registers one access takes in a vector team, and in a uniform one (R136, R251). -/
def MSize.vregs (z : MSize) : Nat := match z with | .b64 => 2 | .b128 => 4 | _ => 1

def Src2.regs : Src2 → List SReg
  | .reg x => [x]
  | .imm _ => []

/-- What an instruction reads, and everything it names: uniform and vector registers. -/
structure Names where
  sR : List SReg := []
  vR : List VReg := []
  sN : List SReg := []
  vN : List VReg := []
  deriving Repr

def Names.add (a b : Names) : Names := ⟨a.sR ++ b.sR, a.vR ++ b.vR, a.sN ++ b.sN, a.vN ++ b.vN⟩

/-- The registers an address reads. -/
def MAddr.names (a : MAddr) : Names := { sR := [a.base], vR := a.idx.toList }

end Sys2Proof

namespace Sys2Proof.Machine

/-! ### Element types (R95, R137, R185) -/

/-- Element width in bits. -/
def ElemType.width : ElemType → Nat
  | .i32 | .n32 | .f32 => 32
  | .bf16x2 | .f16x2 | .i16x2 | .n16x2 => 16
  | .i8x4 | .n8x4 => 8
  | .i64 | .n64 => 64

/-- Signed integer types. -/
def ElemType.signed : ElemType → Bool
  | .i32 | .i16x2 | .i8x4 | .i64 => true
  | _ => false

def ElemType.isInt : ElemType → Bool
  | .f32 | .bf16x2 | .f16x2 => false
  | _ => true

def ElemType.isFloat : ElemType → Bool := fun t => !t.isInt

/-- Types that name a register pair. -/
def ElemType.pair : ElemType → Bool
  | .i64 | .n64 => true
  | _ => false

/-- Elements in one operand. -/
def ElemType.count (t : ElemType) : Nat := if t.pair then 1 else 32 / t.width

/-- The integer type of an element. -/
def ElemType.ifmt (t : ElemType) : IFmt := ⟨t.width, t.signed⟩

/-- The floating format of an element. -/
def ElemType.ffmt : ElemType → FFmt
  | .bf16x2 => fmtBf16
  | .f16x2 => fmtF16
  | _ => fmtF32

/-- The registers lie within the budget; a uniform team has none (R13, R131). -/
def State.vOk (s : State) (r : PathRef) (regs : List VReg) : Bool :=
  regs.all fun x => decide (x.toNat < (s.team r.tok).budget)

/-- Element operands: within the budget, and even pairs under 64-bit types (R13, R185). -/
def State.eOk (s : State) (r : PathRef) (ty : ElemType) (regs : List VReg) : Bool :=
  if ty.pair then
    regs.all fun x => evenReg x && decide (x.toNat + 1 < (s.team r.tok).budget)
  else s.vOk r regs

/-- An element operand of one lane: 32 bits, or a pair (R5). -/
def Team.eget (t : Team) (ty : ElemType) (reg : VReg) (lane : Nat) : Nat :=
  let lo := (t.vget reg lane).toNat
  if ty.pair then lo + 2 ^ 32 * (t.vget (reg + 1) lane).toNat else lo

/-- Writes of an element operand. -/
def eWrites (ty : ElemType) (reg : VReg) (lane : Nat) (x : Nat) : List RegWrite :=
  if ty.pair then
    [.v reg.toNat lane (BitVec.ofNat 32 x), .v (reg.toNat + 1) lane (BitVec.ofNat 32 (x / 2 ^ 32))]
  else [.v reg.toNat lane (BitVec.ofNat 32 x)]

/-- Element j of an operand. -/
def elemAt (ty : ElemType) (x j : Nat) : Nat := x / 2 ^ (j * ty.width) % 2 ^ ty.width

/-- Put elements together, element 0 lowest. -/
def packElems (w : Nat) : List Nat → Nat
  | [] => 0
  | x :: xs => x % 2 ^ w + 2 ^ w * packElems w xs

/-- Compute every element of an operand, with the STATUS bits they set (R187). -/
def elems (ty : ElemType) (f : Nat → Nat × BitVec 7) : Nat × BitVec 7 :=
  let rs := (List.range ty.count).map f
  (packElems ty.width (rs.map (·.1)), (rs.map (·.2)).foldl (· ||| ·) 0)

/-- Do the work of every active lane: the writes as if all lanes wrote at once, and the STATUS bits
(R17, R186, R187). -/
def State.mapLanes (s : State) (r : PathRef) (f : Team → Nat → List RegWrite × BitVec 7) : State :=
  let t := s.team r.tok
  let rs := (lanesOf t (s.active r)).map (f t)
  (s.regWrites r.tok (rs.flatMap (·.1))).addStatus r ((rs.map (·.2)).foldl (· ||| ·) 0)

/-- The TYPE, rounding and saturation in force. -/
def State.ty (s : State) (r : PathRef) : ElemType := mdType (s.path r).md
def State.rnd (s : State) (r : PathRef) : Rnd := mdRnd (s.path r).md
def State.sat (s : State) (r : PathRef) : Bool := mdSat (s.path r).md

/-- A lane-by-lane instruction over elements: check TYPE and registers, compute, advance. -/
def State.elementwise (s : State) (r : PathRef) (ok : ElemType → Bool) (d : VReg) (srcs : List VReg)
    (words : Nat) (f : Team → Nat → Nat → Nat × BitVec 7) : State :=
  let ty := s.ty r
  s.legalIf r (ok ty && s.eOk r ty (d :: srcs)) <|
    (s.mapLanes r fun t l =>
      let x := elems ty fun j => f t l j
      (eWrites ty d l x.1, x.2)).advance r words

/-! ### Scalar operands (R174) -/

/-- The second operand of the scalar mould as 64 bits: an immediate is sign-extended when U = 0. -/
def State.src2 (s : State) (r : PathRef) (u : Bool) : Src2 → DWord
  | .reg x => s.sget r x
  | .imm n => if u then n.setWidth 64 else n.signExtend 64

/-- A shift count: an immediate always zero-extended (R174, R175). -/
def State.shiftCount (s : State) (r : PathRef) : Src2 → Nat
  | .reg x => (s.sget r x).toNat
  | .imm n => n.toNat

/-! ### Memory operands (R135, R136, R251) -/

/-- The effective address of a lane (R135). -/
def State.ea (s : State) (r : PathRef) (a : MAddr) (off : BitVec 16) (lane : Nat) : DWord :=
  let i : DWord := match a.idx with
    | none => 0
    | some v =>
      let x := s.vget r v lane
      if a.sx then x.signExtend 64 else x.setWidth 64
  s.sget r a.base + i + off.signExtend 64

/-- The data register is legal: aligned and within the budget, or a uniform register of at most 64
bits (R136, R251). -/
def State.dataOk (s : State) (r : PathRef) (d : Byte) (z : MSize) : Bool :=
  if (s.team r.tok).uniform then d.extractLsb' 6 2 == 0 && z != .b128
  else d.toNat % z.vregs == 0 && decide (d.toNat + z.vregs ≤ (s.team r.tok).budget)

/-- The address fields are legal: a uniform team has no index (R135). -/
def State.addrOk (s : State) (r : PathRef) (a : MAddr) : Bool :=
  match a.idx with
  | none => true
  | some v => !(s.team r.tok).uniform && s.vOk r [v]

/-- The lanes of a memory instruction: the active ones, or the one lane of a uniform team whatever
its mask (R257). -/
def State.memLanes (s : State) (r : PathRef) : List Nat :=
  let t := s.team r.tok
  if t.uniform then [0] else lanesOf t (s.active r)

/-- n consecutive registers of a lane as one number, the lowest register lowest (R5); in a uniform
team, uniform registers of 64 bits. -/
def State.dataGet (s : State) (r : PathRef) (d : Nat) (n lane : Nat) : Nat :=
  let t := s.team r.tok
  if t.uniform then
    packElems 64 ((List.range n).map fun i => (t.sget (BitVec.ofNat 6 (d + i))).toNat)
  else packElems 32 ((List.range n).map fun i => (t.vget (BitVec.ofNat 8 (d + i)) lane).toNat)

/-- Writes of n consecutive registers of a lane. -/
def State.dataSet (s : State) (r : PathRef) (d : Nat) (n lane x : Nat) : List RegWrite :=
  if (s.team r.tok).uniform then
    (List.range n).map fun i => .s (BitVec.ofNat 6 (d + i)) (BitVec.ofNat 64 (x / 2 ^ (64 * i)))
  else (List.range n).map fun i => .v (d + i) lane (BitVec.ofNat 32 (x / 2 ^ (32 * i)))

/-- The value a store of a size takes from its register (R251). -/
def State.storeVal (s : State) (r : PathRef) (d : Byte) (z : MSize) (lane : Nat) : Nat :=
  let n := if (s.team r.tok).uniform then 1 else z.vregs
  s.dataGet r d.toNat n lane % 2 ^ (8 * z.bytes)

/-- Extend an 8 or 16-bit load to the register (R251). -/
def loadExt (z : MSize) (sx : Bool) (w x : Nat) : Nat :=
  let n := 8 * z.bytes
  if sx && n < w && x.testBit (n - 1) then x + (2 ^ w - 2 ^ n) else x

/-- The register writes of a load of a size (R251): 8 and 16 bits extended; into a uniform register
any size is extended to 64 bits. The old value of a 32-bit atomic fills a uniform register the same way, its upper half
being zero, which the manual does not say (assumption 80). -/
def State.loadWrites (s : State) (r : PathRef) (d : Byte) (z : MSize) (sx : Bool) (lane x : Nat) :
    List RegWrite :=
  if (s.team r.tok).uniform then s.dataSet r d.toNat 1 lane (loadExt z sx 64 x)
  else
    let w := if z.bytes < 4 then 32 else 8 * z.bytes
    s.dataSet r d.toNat z.vregs lane (loadExt z sx w x)

/-! ### Registers an instruction names -/

/-- Consecutive vector registers. -/
def vRun (d : VReg) (n : Nat) : List VReg := (List.range n).map fun i => d + BitVec.ofNat 8 i

/-- Consecutive uniform registers from a data field. -/
def sRun (d : Byte) (n : Nat) : List SReg := (List.range n).map fun i => BitVec.ofNat 6 (d.toNat + i)

/-- The data group of a memory instruction, as registers of either kind. -/
def dataNames (uni : Bool) (d : Byte) (nv ns : Nat) (reads : Bool) : Names :=
  if uni then { sR := if reads then sRun d ns else [], sN := sRun d ns }
  else { vR := if reads then vRun d nv else [], vN := vRun d nv }

/-- Element operands: pairs count twice. -/
def eRun (ty : ElemType) (l : List VReg) : List VReg := l.flatMap fun x => if ty.pair then [x, x + 1] else [x]

/-- The registers an instruction reads (sR, vR) and writes besides (sN, vN), given the team's kind
and TYPE (R63, R173, R304, R455). -/
def names (uni : Bool) (ty : ElemType) : Instr → Names
  | .bsz a _ | .bsnz a _ => { sR := [a] }
  | .jmpiVector a b _ => { sR := [b], vR := [a] }
  | .jmpiUniform b => { sR := [b] }
  | .call d _ => { sN := [d] }
  | .calli d a => { sR := [a], sN := [d] }
  | .ret a => { sR := [a] }
  | .trap _ | .ecall _ => { sR := [1, 2, 3, 4] }
  | .sadd _ _ d a b | .ssub _ _ d a b | .smul _ _ d a b | .smulh _ _ d a b | .sdiv _ _ d a b
  | .srem _ _ d a b | .sand _ _ d a b | .sor _ _ d a b | .sxor _ _ d a b | .sshl _ _ d a b
  | .sshr _ _ d a b | .ssra _ _ d a b | .smin _ _ d a b | .smax _ _ d a b =>
    { sR := a :: b.regs, sN := [d] }
  | .scmp _ _ _ a b => { sR := a :: b.regs }
  | .ssel d a b _ _ | .slea d a b _ => { sR := [a, b], sN := [d] }
  | .smov d a | .sbfe d a _ _ _ | .sbit _ _ d a => { sR := [a], sN := [d] }
  | .sli d m _ => { sR := if m == .hi then [d] else [], sN := [d] }
  | .sbfi d a _ _ => { sR := [a, d], sN := [d] }
  | .sr d _ => { sN := [d] }
  | .sw _ a => { sR := [a] }
  | .add d a b | .sub d a b | .mul d a b | .mulh d a b | .min d a b | .max d a b | .and d a b
  | .or d a b | .xor d a b => { vR := eRun ty [a, b], vN := eRun ty [d] }
  | .rot d a b | .shl d a b | .shr d a b | .sra d a b => { vR := b :: eRun ty [a], vN := eRun ty [d] }
  | .mad d a b => { vR := eRun ty [a, b, d], vN := eRun ty [d] }
  | .abs d a | .neg d a | .not d a | .mov d a => { vR := eRun ty [a], vN := eRun ty [d] }
  | .bfe d a _ _ | .bcnt _ d a => { vR := [a], vN := [d] }
  | .bfi d a _ _ => { vR := [a, d], vN := [d] }
  | .cmp _ _ a b => { vR := eRun ty [a, b] }
  | .sel d a b _ _ => { vR := eRun ty [a, b], vN := eRun ty [d] }
  | .movs d _ a => { sR := [a], vN := eRun ty [d] }
  | .li d _ => { vN := eRun ty [d] }
  | .lid d => { vN := [d] }
  | .fadd d a b | .fsub d a b | .fmul d a b | .fmin d a b | .fmax d a b | .fdiv d a b =>
    { vR := [a, b], vN := [d] }
  | .ffma d a b => { vR := [a, b, d], vN := [d] }
  | .fcmp _ _ a b => { vR := [a, b] }
  | .fabs d a | .fneg d a | .frcp d a | .frsq d a | .fsqrt d a | .fexp2 d a | .flog2 d a | .fsin d a
  | .fcos d a | .fclass d a | .fround d a => { vR := [a], vN := [d] }
  | .cvtf d a _ src => { vR := if src.isPair then [a, a + 1] else [a], vN := [d] }
  | .cvti d a dst src =>
    { vR := if src.isPair then [a, a + 1] else [a], vN := if dst.isPair then [d, d + 1] else [d] }
  | .cvtq d a b _ => { vR := vRun a 4 ++ b.toList, vN := [d] }
  | .cvtd d a b _ => { vR := a :: b.toList, vN := vRun d 4 }
  | .pk d a b | .i4x d a b _ => { vR := [a, b], vN := [d] }
  | .upk d a _ | .sp8x d a _ => { vR := [a], vN := [d] }
  | .shfl d a b => { vR := b :: eRun ty [a], vN := eRun ty [d] }
  | .shflx d a _ _ => { vR := eRun ty [a], vN := eRun ty [d] }
  | .bcast d a l => { sR := l.toList, vR := eRun ty [a], sN := [d] }
  | .vote d _ _ | .mcnt d _ => { sN := [d] }
  | .scan _ d a => { vR := eRun ty [a], vN := eRun ty [d] }
  | .red _ d a => { vR := eRun ty [a], sN := [d] }
  | .rank d _ => { vN := [d] }
  | .compact d a _ => { vR := eRun ty [a], vN := eRun ty [d] }
  | .psetSc _ _ a _ => { sR := [a] }
  | .modes a => { sR := [a] }
  | .lds d a m | .ldsf d a m | .ldse d a m | .feq d a m | .ldg d a m | .ldacq d a m =>
    a.names.add (dataNames uni d m.size.vregs 1 false)
  | .ldp d a m => Names.add { vR := a.idx.toList } (dataNames uni d m.size.vregs 1 false)
  | .sts d a m | .stsf d a m | .stsx d a m | .stg d a m | .strel d a m | .atm d a m | .atmr d a m
  | .xchg d a m => a.names.add (dataNames uni d m.size.vregs 1 true)
  | .cas d a m => a.names.add (dataNames uni d (2 * m.size.vregs) 2 true)
  | .cas128 d a _ => a.names.add (dataNames uni d 8 4 true)
  | .feclr a _ | .feset a _ | .pfg a _ | .cwb a _ | .cinv a _ => a.names
  | .rld d a p m => (a.names.add { vR := [p] }).add (dataNames uni d m.size.vregs 1 false)
  | .rst d a p m | .ratm d a p m | .ratmr d a p m =>
    (a.names.add { vR := [p] }).add
      (dataNames uni d (if m.op == 13 then 2 * m.size.vregs else m.size.vregs) 1 true)
  | .tclaim d => { sN := [d] }
  | .trel a | .tzero a => { sR := [a] }
  | .tld a b _ _ _ | .tfmt a b | .mma a b _ | .mmaz a b _ | .mcoop a b _ _ _ _ => { sR := [a, b] }
  | .mdrainRegister d a _ _ => { sR := [a], vN := [d] }
  | .mdrainMemory a _ _ _ _ => { sR := [a, a + 1] }
  | .ttrans d a two => { sR := if two then [d, a] else [d, a] }
  | .twany d a => { sR := [a], sN := [d] }
  | .twall a => { sR := [a] }
  | .tffr d => { sN := [d] }
  | .marm d base _ => { sR := [base], sN := [d] }
  | .mwait d a | .wfi d a => { sR := [a], sN := [d] }
  | .grq d | .grwait d | .step d | .stepq d => { sN := [d] }
  | .grfree d a => { sR := [a, a + 1], sN := [d] }
  | .grpop d => { sN := [d, d + 1] }
  | .cpy d a _ hold _ | .cpyx d a hold _ => { sR := [a], sN := if hold then [d] else [] }
  | .gath a _ | .kvap a _ | .kvseal a _ | .kvcopy a _ | .coll a _ => { sR := [a] }
  | .smpl d a _ => { sR := [a], sN := [d] }
  | .spawn n a b => { sR := [a], vR := vRun b (n.toNat + 1) }
  | .launch d a _ => { sR := [a], sN := [d] }
  | .resolve d a b => { sR := [a, b], sN := [d] }
  | .wqpop d a b | .wqpush d a b | .cntp d a b => { sR := [a, b], sN := [d] }
  | .csrr d _ => { sN := [d] }
  | .csrw _ _ a => { sR := [a] }
  | .tretRes a _ => { sR := [a] }
  | .tretVal a b => { sR := [a, b] }
  | .tretKill a _ => { sR := [a] }
  | .tlbiPage d a => { sR := [d, a] }
  | .tlbiCtx a | .frz a | .frzThaw a => { sR := [a] }
  | _ => {}

/-- The source lane of `shflx` (R208, Table 4). -/
def shflSource (mode : ShflMode) (n : BitVec 10) (l : Nat) : Int :=
  match mode with
  | .xor => ((l ^^^ n.toNat : Nat) : Int)
  | .up => (l : Int) - n.toNat
  | .dn => (l : Int) + n.toNat

/-- A source lane below TWIDTH, or the lane itself (R208). -/
def laneFrom (width : Nat) (m : Int) (l : Nat) : Nat := if 0 ≤ m ∧ m < width then m.toNat else l

end Sys2Proof.Machine
end

