-- ==== Sys2Proof/Machine/Teams.lean ====
section
/-! DEFINITION. The life of paths, teams, crews and clusters: unwinding (R161), merging (R20),
barriers (R310, R495), grace periods (R315), retirement and kills (R170, R401, R435, R452). -/

namespace Sys2Proof.Machine

/-! ### Unwinding and the end of a path (R161) -/

/-- One path whose `xm` has become empty releases pending arms and pops entries until it has lanes or
its stack is empty. It leaves a `macro` word it was in (R155). -/
def unwindGo (retired : Mask) : List StackEntry → Path → Path
  | [], p => { p with stack := [] }
  | e :: rest, p =>
    if p.xm != 0 then { p with stack := e :: rest }
    else if e.pend != 0 then
      let e' := { e with pend := 0, rsm := e.rsm || e.indirect }
      { p with
        xm := e.pend, pc := e.ppc.setWidth 64, stack := e' :: rest, inClause := false, widx := 0, ll := 0,
        mac := Option.none }
    else
      unwindGo retired rest
        { p with
          xm := e.outer &&& ~~~ retired, pc := e.join.setWidth 64 + 4, inClause := false, widx := 0, ll := 0,
          mac := Option.none }

def Path.unwind (p : Path) (retired : Mask) : Path := unwindGo retired p.stack p

/-- A path whose `xm` and stack are both empty has ended (R161). -/
def Path.ended (p : Path) : Bool := p.xm == 0 && p.stack.isEmpty

/-- End a path: it issues nothing more. -/
def State.endPath (s : State) (r : PathRef) : State :=
  s.modPath r fun p =>
    { p with
      live := false, xm := 0, stack := [], wait := .none, mac := none, stop := none, monitor := none }

/-! ### Barriers (R310, R311, R495) -/

def barCode : BarScope → Nat
  | .crew => 0 | .clu => 1 | .die => 2 | .grid => 3

/-- The scope of a barrier's release and acquire (R310). -/
def barOrder : BarScope → Scope
  | .crew => .crew | .clu => .cluster | .die => .die | .grid => .device

/-- The barrier key of a team's arrival counts. -/
def barKey (sc : BarScope) (id : BitVec 2) : Nat := barCode sc * 4 + id.toNat

/-- The arrivals a team has made at a barrier. -/
def Team.arrivals (t : Team) (sc : BarScope) (id : BitVec 2) : Nat := Store.get 0 t.barArr (barKey sc id)

/-- A live team of a grid with its crew: resident, or held in a save frame. -/
def State.gridTeams (s : State) (g : Nat) : List (Crew × Team) :=
  (s.liveTeams.filterMap fun x =>
    let c := s.crew x.2.crew
    if c.grid = g then some (c, x.2) else none) ++
  s.saved.flatMap fun v =>
    if v.crew.grid = g then v.teams.filterMap fun x => if x.2.live then some (v.crew, x.2) else none else []

/-- The members of a barrier that a path of crew c belongs to (R310); retired teams count as
arrived and are left out. -/
def State.barMembers (s : State) (c : Crew) (sc : BarScope) : List (Crew × Team) :=
  (s.gridTeams c.grid).filter fun x =>
    match sc with
    | .crew => x.1.lin == c.lin
    | .clu => x.1.cluster == c.cluster
    | .die => dieOfCore x.1.core == dieOfCore c.core
    | .grid => true

/-- Whether a grid has crews on both dies. -/
def Grid.twoDies (g : Grid) : Bool := (g.clusters.any fun c => c.die) && g.clusters.any fun c => !c.die

/-- Every member on a die has arrived at instance n of a grid barrier. -/
def State.dieArrivedAt (s : State) (g : Nat) (die : Nat) (id : BitVec 2) (n : Nat) : Bool :=
  (s.gridTeams g).all fun x => dieOfCore x.1.core != die || decide (n < x.2.arrivals .grid id)

/-- An instance key of the messages of R495. -/
def barMsg (g : Nat) (id : BitVec 2) (n : Nat) : Nat × Nat × Nat := (g, id.toNat, n)

/-- Instance n is complete for a crew's paths (R310, R495). -/
def State.barDone (s : State) (c : Crew) (sc : BarScope) (id : BitVec 2) (n : Nat) : Bool :=
  if sc == .grid && (s.grid c.grid).twoDies then
    if dieOfCore c.core = 0 then
      s.dieArrivedAt c.grid 0 id n && s.dieMsgs.contains (barMsg c.grid id n)
    else s.completes.contains (barMsg c.grid id n)
  else (s.barMembers c sc).all fun x => decide (n < x.2.arrivals sc id)

/-- Let every waiting path of a grid depart whose instance is complete; departure is an acquire. -/
def State.barSweep (s : State) (g : Nat) : State :=
  s.allPaths.foldl (fun s r =>
    match (s.path r).wait with
    | .bar sc id n =>
      if (s.crewOf r).grid = g && s.barDone (s.crewOf r) sc id n then
        (s.acquireAct r (barOrder sc)).advance r 1
      else s
    | _ => s) s

/-- A team arrives once each of its live paths waits at the same instance (R310). -/
def State.barArrive (s : State) (r : PathRef) (sc : BarScope) (id : BitVec 2) : State :=
  let s := if sc == .die then s.modGrid (s.crewOf r).grid fun g => { g with dieBar := true } else s
  let t := s.team r.tok
  let n := t.arrivals sc id
  let at' := fun (p : Path) => !p.live || p.wait == .bar sc id n
  if at' t.path0 && at' t.path1 then
    let s := s.modTeam r.tok fun t => { t with barArr := Store.set 0 t.barArr (barKey sc id) (n + 1) }
    s.barSweep (s.crewOf r).grid
  else s

/-- When a path of a divided team ends, the other may now be the only live one at a barrier. -/
def State.barAfterEnd (s : State) (tok : Nat) : State :=
  let t := s.team tok
  [false, true].foldl (fun s b =>
    match (t.path b).wait with
    | .bar sc id n =>
      if (t.path b).live && n == (s.team tok).arrivals sc id then s.barArrive ⟨tok, b⟩ sc id else s
    | _ => s) s

/-! ### Grace periods (R314 to R318) -/

/-- The teams of a context with open sections, resident and saved (R315). -/
def State.graceTeams (s : State) (c : Nat) : List Nat :=
  (s.liveTeams.filterMap fun x =>
    if (s.grid (s.crew x.2.crew).grid).ctx = c && x.2.grace != 0 then some x.1 else none) ++
  s.saved.flatMap fun v =>
    if (s.grid v.crew.grid).ctx = c then
      v.teams.filterMap fun x => if x.2.live && x.2.grace != 0 then some x.1 else none
    else []

/-- Mark the entries of a period thawed. -/
def thawRing (n : Nat) (l : List RingEntry) : List RingEntry :=
  l.map fun e => if e.period = n then { e with thawed := true } else e

/-- Wake the `grwait`s of a period: what follows comes after what the readers did (R246). -/
def State.graceWake (s : State) (c n : Nat) : State :=
  s.allPaths.foldl (fun s r =>
    match (s.path r).wait with
    | .grwait m d => if s.ctxOf r = c && m == n then (s.acquireAct r .device).endWait r d n else s
    | _ => s) s

/-- End the period in progress when its snapshot is empty; a pending one then starts (R315). Two
rounds suffice: a request starts at most one pending period. -/
def State.graceSettle (s : State) (c : Nat) : Nat → State
  | 0 => s
  | fuel + 1 =>
    let g := (s.ctx c).grace
    if g.active && g.snapshot.isEmpty then
      let n := g.last + 1
      let s := s.modCtx c fun x =>
        { x with grace := { g with last := n, active := g.pending, pending := false, ring := thawRing n g.ring,
                                   snapshot := if g.pending then s.graceTeams c else [] } }
      (s.graceWake c n).graceSettle c fuel
    else s

/-- A team has returned to depth 0, or retired: it leaves the snapshot (R315). -/
def State.graceLeave (s : State) (c tok : Nat) : State :=
  let s := s.modCtx c fun x =>
    { x with grace := { x.grace with snapshot := x.grace.snapshot.filter (· != tok) } }
  s.graceSettle c 3

/-- A request: it starts a period, or creates or joins the pending one. The period it names. -/
def State.graceRequest (s : State) (c : Nat) : State × Nat :=
  let g := (s.ctx c).grace
  if g.active then
    (s.modCtx c fun x => { x with grace := { g with pending := true } }, g.last + 2)
  else
    (s.modCtx c fun x => { x with grace := { g with active := true, snapshot := s.graceTeams c } }, g.last + 1)

/-! ### Merging (R20) -/

/-- A path of a divided team has arrived at the merge: it waits at the `join`, or has ended. -/
def Path.merged (p : Path) : Bool := !p.live || p.wait == .join

/-- Both paths wait, and all flags of both are clear. -/
def Team.canMerge (t : Team) : Bool :=
  t.live && t.divided && t.path0.merged && t.path1.merged && (t.path0.live || t.path1.live) &&
  t.path0.flags == 0 && t.path1.flags == 0

/-- The merged path (R20, R406 for the pending bits). It holds path 0's monitor, and path 1's is dropped: the
manual does not say which it holds (assumption 70). -/
def Team.merge (t : Team) : Team :=
  let a := t.path0
  let b := t.path1
  let x := if a.live then a else b
  let xm := (if a.live then a.xm else 0) ||| (if b.live then b.xm else 0)
  let p : Path :=
    { Path.none with
      live := true, pc := x.pc + 4, xm := xm, md := a.md, status := a.status ||| b.status,
      monitor := a.monitor, pend0 := a.pend0 || b.pend0, pend2 := a.pend2 || b.pend2,
      poison := a.poison ++ b.poison.filter fun n => !a.poison.contains n,
      failed := a.failed ++ b.failed.filter fun k => !a.failed.contains k, fenced := widest a.fenced b.fenced }
  { t with path0 := p, path1 := Path.none, divided := false, djoin := 0, divSer := 0 }

/-- References of the second path's work in progress move to the one path left; its queued matrix
instructions are the merged path's (R282). -/
def State.repath (s : State) (tok : Nat) : State :=
  let f := fun (r : PathRef) => if r.tok = tok then (⟨tok, false⟩ : PathRef) else r
  let core := (s.crew (s.team tok).crew).core
  let s := s.modCore core fun c => { c with queue := c.queue.map fun q => { q with r := f q.r } }
  { s with
    flight := s.flight.map fun x => { x with r := f x.r, both := x.both && x.r.tok != tok },
    copies := s.copies.map fun (x : Nat × CopyByte) => (x.1, { x.2 with owner := x.2.owner.map f }),
    l1own := s.l1own.map fun (o : OwnLine) => { o with owners := o.owners.map fun x => (f x.1, x.2) },
    late := s.late.map fun x => { x with r := f x.r },
    engines := s.engines.map fun x => { x with r := f x.r } }

/-! ### Retirement (R170, R401, R435) -/

/-- Every path has ended. -/
def Team.allEnded (t : Team) : Bool := t.live && !t.path0.live && !t.path1.live

/-- What a retirement waits for: flagged operations, stores, queued matrix instructions and engine
commands (R170, R282). -/
def State.teamIdle (s : State) (tok : Nat) : Bool :=
  !(s.pend.any fun p => p.r.tok == tok) && !(s.flight.any fun f => f.r.tok == tok) &&
  !(s.engines.any fun e => e.r.tok == tok) && !(s.reqs.any fun q => q.r.tok == tok) &&
  !((s.coreSt (s.crew (s.team tok).crew).core).queue.any fun q => q.r.tok == tok)

/-- Free the semaphores a team holds, each logged (R412). -/
def State.freeSems (s : State) (tok : Nat) (c : Nat) : State :=
  (List.range 32).foldl (fun s n =>
    let m := Store.get ⟨false, 0, 0⟩ s.sems n
    if m.held && m.owner == 2 && m.holder.toNat == tok then
      ({ s with sems := Store.set ⟨false, 0, 0⟩ s.sems n ⟨false, 0, 0⟩ } : State).logRefused 588 (some c)
        (0x4000 + n) 0
    else s) s

/-- Free every slot a retiring crew holds on its core: the crew that holds the matrix role (R276). -/
def State.freeArray (s : State) (c : Crew) : State :=
  if c.matrix then s.setCore c.core { CoreSt.init with
    gens := (s.coreSt c.core).gens, macros := (s.coreSt c.core).macros,
    lastV := (s.coreSt c.core).lastV, lastU := (s.coreSt c.core).lastU }
  else s

/-- The expectation table of a die after a crew of a kernel retires with an issue count (R435). -/
def expectUpdate (l : List (Bool × DWord × Nat)) (die : Bool) (k : DWord) (i : Nat) :
    List (Bool × DWord × Nat) :=
  let hit := fun (x : Bool × DWord × Nat) => x.1 == die && x.2.1 == k
  let e := match l.find? hit with
    | none => i
    | some x => ((x.2.2 : Int) + ((i : Int) - x.2.2).fdiv 8).toNat
  let rest := l.filter fun x => !hit x
  let mine := rest.filter fun x => x.1 == die
  let rest := if 512 ≤ mine.length then
      match mine with
      | [] => rest
      | o :: _ => rest.filter fun x => x != o
    else rest
  rest ++ [(die, k, e)]

/-- A cluster whose crews have all retired is retired, and its crews' scratchpads go. -/
def State.clusterSweep (s : State) (g idx : Nat) : State :=
  let over' := fun (c : ClusterSt) => c.idx == idx && (c.phase == .resident || c.phase == .draining || c.phase == .saving || c.phase == .flushing) &&
    c.crews.all fun n => !(s.crew n).live
  let gone := (s.grid g).clusters.flatMap fun c => if over' c then c.crews else []
  let s := s.modGrid g fun x =>
    { x with clusters := x.clusters.map fun c => if over' c then { c with phase := .retired, crews := [], frames := [] } else c }
  gone.foldl (fun s n => s.setCrew n Crew.none) s

/-- A crew retires when its teams have: its core's resources are free, its kernel's expectation is
updated. Its scratchpad stays readable to its cluster until the cluster retires. -/
def State.retireCrew (s : State) (n : Nat) : State :=
  let c := s.crew n
  let k := (s.grid c.grid).kd.addr
  let s := s.freeArray c
  let s := { s with
    expect := expectUpdate s.expect (decide (dieOfCore c.core = 1)) k c.issues,
    teams := s.teams.filter fun x => x.2.crew != n }
  let s := s.setCrew n { c with live := false, teams := [], matrix := false }
  s.clusterSweep c.grid c.cluster

/-- A team retires: it counts as arrived at barriers, leaves grace snapshots and step membership,
and its semaphores are free (R170, R310, R315, R319, R412). What it stored comes before the events that its retirement
lets go on, at a barrier, at the end of a grace period or on its grid's completion: its core's dirty copies are written
back to their homes (R222, R229, R246). -/
def State.retireTeam (s : State) (tok : Nat) : State :=
  let t := s.team tok
  let c := s.crew t.crew
  let ctx := (s.grid c.grid).ctx
  let s := s.releaseCore c.core .device
  let s := s.setTeam tok { t with live := false, grace := 0, stepMember := false, stepAt := none,
                                  path0 := Path.none, path1 := Path.none }
  let s := (s.freeSems tok ctx).graceLeave ctx tok
  let s := { s with late := s.late.filter fun l => l.r.tok != tok }
  let s := if c.teams.all fun k => !(s.team k).live then s.retireCrew t.crew else s
  s.barSweep c.grid

/-- A kill ends every path of a team (R401, R452): its waits, stops, monitors and pending results go;
stores already performed or sent stand; queued matrix instructions of the team are discarded. The
retirement itself waits for what the team still has in progress. -/
def State.killTeam (s : State) (tok : Nat) : State :=
  let core := (s.crew (s.team tok).crew).core
  let s := s.modTeam tok fun t =>
    { t with killed := true, divided := false, stepMember := false, stepAt := none,
             path0 := { Path.none with live := false }, path1 := Path.none }
  let s := { s with
    pend := s.pend.filter fun p => p.r.tok != tok,
    late := s.late.filter fun l => l.r.tok != tok,
    reqs := s.reqs.filter fun q => q.r.tok != tok,
    semReqs := s.semReqs.filter fun q => (q.who.map fun (r : PathRef) => r.tok) != some tok }
  let s := s.modCore core fun x => { x with queue := x.queue.filter fun q => q.r.tok != tok }
  let s := s.modGrid (s.crew (s.team tok).crew).grid fun g => { g with killed := true }
  s.barSweep (s.crew (s.team tok).crew).grid

end Sys2Proof.Machine
end

