-- ==== Sys2Proof/Machine/Time.lean ====
section
/-! DEFINITION. Time (R487 to R491): the TSC, and each die's CYC and SCC, which run with its
arithmetic clock and stop during a relock. -/

namespace Sys2Proof.Machine

/-- The SCC increment of a cycle (R489). -/
def sccInc (f : Nat) : Nat := 18 * 2 ^ 16 / f

/-- Parts of a TSC tick: the least number in which every cycle of every frequency from 0.6 to 2.0 GHz begins at a whole
one (R487, R496). -/
def tickParts : Nat := 232792560

/-- Run a die's clock for a number of parts of a tick: CYC and SCC advance by F ÷ 10 cycles a tick (R487, R489). -/
def Die.runFor (d : Die) (parts : Nat) : Die :=
  let t := d.part + d.f * parts
  let n := t / (10 * tickParts)
  { d with part := t % (10 * tickParts), cyc := (d.cyc + n) % 2 ^ 64, scc := (d.scc + n * sccInc d.f) % 2 ^ 80 }

/-- The parts of an interval in which the die's clock runs: none from the start of a relock (R488). -/
def Die.runningParts (d : Die) (a b : Nat) : Nat :=
  match d.relock with
  | none => b - a
  | some t => min b (t * tickParts) - min a (t * tickParts)

/-- The moment, in parts of a tick. -/
def State.moment (s : State) : Nat := s.tsc * tickParts + s.sub

/-- Let parts of a tick pass (R144: the TSC counts whole ticks). -/
def State.passParts (s : State) (n : Nat) : State :=
  let a := s.moment
  let b := a + n
  { s with
    die0 := s.die0.runFor (s.die0.runningParts a b), die1 := s.die1.runFor (s.die1.runningParts a b),
    tsc := b / tickParts, sub := b % tickParts }

/-- Let TSC ticks pass. -/
def State.pass (s : State) (n : Nat) : State := s.passParts (n * tickParts)

/-- Carry the time forward to the beginning of a tick that is not past. -/
def State.passTo (s : State) (t : Nat) : State := s.passParts (t * tickParts - s.moment)

/-- Ticks by which the TSC slews in an interval: on at most one tick in 1,000 it advances by 0 or 2 (R491). -/
def State.slewIn (s : State) (n : Nat) : Nat := Nat.min s.slew.natAbs ((s.slewTicks + n) / 1000)

/-- Let time pass while the TSC slews towards that of pod rank 0 (R491). It never decreases (R144). -/
def State.passSlewed (s : State) (parts : Nat) : State :=
  let s' := s.passParts parts
  let n := s'.tsc - s.tsc
  let k := s.slewIn n
  let rest := Nat.min 999 (s.slewTicks + n - 1000 * k)
  if s.slew < 0 then
    { s' with tsc := s'.tsc - Nat.min k n, slew := s.slew + k, slewTicks := rest,
              locked := s.locked || decide ((s.slew + k).natAbs ≤ 100) }
  else if 0 < s.slew then
    { s' with tsc := s'.tsc + k, slew := s.slew - k, slewTicks := rest,
              locked := s.locked || decide ((s.slew - k).natAbs ≤ 100) }
  else { s' with slewTicks := rest }

/-- The time a step takes: open (R227), drawn anew at each step. -/
def State.tick (s : State) : State :=
  let s' := s.passSlewed (Config.elapsed s.fresh)
  { s' with fresh := s.fresh + 1 }

end Sys2Proof.Machine
end

