-- ==== Sys2Proof/Machine/Versions.lean ====
section
/-! DEFINITION. Versions on this device: allocation of numbers (R37, R39), commit and squash as one
event (R85, R238, R339), the acceptance average (R340), displacement into the moraine (R83, R84), and
the performance of stores at their home (R75, R238, R272). -/

namespace Sys2Proof.Machine

/-! ### Version numbers (R36, R37, R39) -/

/-- A version is live: 0, or on the domain's list. -/
def Dom.liveVer (d : Dom) (v : Nat) : Bool := v == 0 || d.live.any fun x => x.ver == v

/-- A number is free when its version is not live and no crew placed in it, resident or saved, no copy and no cart of it
remains (R39). -/
def State.verFree (s : State) (d v : Nat) : Bool :=
  let mine := fun (c : Crew) => c.live && (s.grid c.grid).dom == d && c.origin == v
  !((s.dom d).live.any fun x => x.ver == v) &&
  !(s.crews.any fun c => mine c.2) && !(s.saved.any fun c => mine c.crew) &&
  !(s.vcopy.any fun x => x.1 / 2 ^ 60 == d * 64 + v) &&
  !(s.carts.any fun c => c.dom == d && c.origin == v)

/-- The lowest free version, at most 63 live at once (R37). -/
def State.freeVersion (s : State) (d : Nat) : Option Nat :=
  ((List.range 64).drop 1).find? fun v => s.verFree d v

/-- Record a new version under a parent; the order of allocation decides the youngest (R84). Nothing of an
earlier version of the number remains (R85). -/
def State.addVersion (s : State) (d v parent : Nat) : State :=
  let s := { s with
    vcopy := s.vcopy.filter fun x => x.1 / 2 ^ 60 != d * 64 + v,
    vspans := s.vspans.filter fun x => !(x.dom == d && x.ver == v),
    poison := s.poison.filter fun p => p / 2 ^ 60 != d * 64 + v || v == 0 }
  s.modDom d fun x =>
    let o := (x.live.map fun y => y.order).foldl Nat.max 0
    { x with live := x.live ++ [⟨v, parent, o + 1⟩], past := x.past.filter (· != v),
             allocs := x.allocs.filter fun a => a.ver != v }

/-- The descendants of a version, itself included. -/
def descendants (live : List VerSt) : Nat → List Nat → List Nat
  | 0, vs => vs
  | fuel + 1, vs =>
    let new := (live.filter fun x => vs.contains x.parent && !vs.contains x.ver).map fun x => x.ver
    if new.isEmpty then vs else descendants live fuel (vs ++ new)

/-! ### Squash (R339) -/

/-- A team of a squashed version ends at once: killed, with nothing left in progress, and retired. -/
def State.squashTeam (s : State) (tok : Nat) : State :=
  let s := s.killTeam tok
  let s := { s with
    flight := s.flight.filter fun f => f.r.tok != tok,
    engines := s.engines.filter fun e => e.r.tok != tok }
  s.retireTeam tok

/-- Write a completion record of a launch-queue grid (R416). -/
def State.completionRecord (s : State) (g : Nat) (cause : Nat) : State :=
  match (s.grid g).source with
  | .queue _ _ place => s.homeWrite place (leBytes 4 g ++ leBytes 1 cause ++ leBytes 3 0 ++ leBytes 8 s.tsc)
  | _ => s

/-- A grid has completed, or has been squashed: the dependences on it are met, and stay so whatever grid has its
number later (R31). -/
def State.meetDeps (s : State) (g : Nat) : State :=
  { s with grids := s.grids.map fun x => (x.1, { x.2 with unmet := x.2.unmet.filter (· != g) }) }

/-- A grid of a squashed version: its crews and saved frames end, and its dependants are met (R31). Its
completion record carries 5 (DEAD): no code of R35 stands for a squash or for OVERFLOW (assumption 71); the
grid keeps that the cause was OVERFLOW. -/
def State.squashGrid (full : Bool) (s : State) (g : Nat) : State :=
  let toks := s.liveTeams.filterMap fun x => if (s.crew x.2.crew).grid = g then some x.1 else none
  let ctx := (s.grid g).ctx
  let savedToks := s.saved.flatMap fun v => if v.crew.grid = g then v.teams.map (·.1) else []
  let s := toks.foldl State.squashTeam s
  let s := { s with
    saved := s.saved.filter fun v => v.crew.grid != g,
    crews := s.crews.filter fun c => c.2.grid != g }
  let s := savedToks.foldl (fun s k => (s.freeSems k ctx).graceLeave ctx k) s
  let s := (s.completionRecord g 5).meetDeps g
  s.modGrid g fun x => { x with phase := .complete, cause := 5, clusters := [], overflow := full }

/-- Squash versions of a domain (R339, Table 6). -/
def State.squash (s : State) (d : Nat) (vs : List Nat) (full : Bool := false) : State :=
  let gs := s.grids.filterMap fun x =>
    if x.2.live && x.2.phase != .complete &&
        ((x.2.dom = d && vs.contains x.2.ver) ||
         (x.2.phase == .held && x.2.ldom = d && vs.contains x.2.lver)) then some x.1 else none
  let s := gs.foldl (State.squashGrid full) s
  let gone := fun (e v : Nat) => e == d && vs.contains v
  { s.modDom d (fun x => { x with live := x.live.filter fun y => !vs.contains y.ver }) with
    carts := s.carts.filter fun c => !gone c.dom c.ver,
    engines := s.engines.filter fun e => !gone e.dom e.ver,
    flight := s.flight.filter fun f => !gone f.dom f.ver,
    vspans := s.vspans.filter fun x => !gone x.dom x.ver,
    vcopy := s.vcopy.filter fun x => !gone (x.1 / 2 ^ 60 / 64) (x.1 / 2 ^ 60 % 64),
    poison := s.poison.filter fun p => !(decide (2 ^ 60 ≤ p) && gone (p / 2 ^ 60 / 64) (p / 2 ^ 60 % 64)),
    l1own := s.l1own.filter fun o => !(decide (2 ^ 60 ≤ o.key) && gone (o.key / 2 ^ 60 / 64) (o.key / 2 ^ 60 % 64)),
    allocReqs := s.allocReqs }

/-! ### Commit (R85, R238) -/

/-- Commit one version whose parent is 0: its bytes join the committed line, and everything it left
in flight acts as version 0. No clean copy of the lines stays, so that an observer in version 0 sees all the bytes or none
(R238); a committed line that the version had written whole loses its poison (R456). A cart of it may then have the key of another: both are kept, and new records
join the first (assumption 72: the manual does not say). -/
def State.commitOne (s : State) (d v : Nat) : State :=
  let mine := fun (k : Nat) => k / 2 ^ 60 == d * 64 + v
  let keys := s.vcopy.filterMap fun x => if mine x.1 then some (x.1 % 2 ^ 60) else none
  let whole := fun (p : Nat) => (List.range 32).all fun i => keys.contains (p + i)
  let s := s.vcopy.foldl (fun s x =>
    if mine x.1 then
      match x.2 with
      | some b => s.putByte (x.1 % 2 ^ 60) b
      | none => s
    else s) s
  let re := fun (e u : Nat) => if e = d ∧ u = v then 0 else u
  let key := fun (k : Nat) => if mine k && decide (v ≠ 0) then k % 2 ^ 60 else k
  let path := fun (p : Path) => { p with failed := p.failed.map fun (x : Nat × Nat) => (key x.1, x.2) }
  let team := fun (t : Nat × Team) => (t.1, { t.2 with path0 := path t.2.path0, path1 := path t.2.path1 })
  { s.modDom d (fun x =>
      { x with
        past := v :: x.past,
        live := (x.live.filter fun y => y.ver != v).map fun y =>
          if y.parent = v then { y with parent := 0 } else y }) with
    vcopy := s.vcopy.filter fun x => !mine x.1,
    vspans := s.vspans.filter fun x => !(x.dom == d && x.ver == v),
    copies := s.copies.filter fun x => x.2.dirty || !keys.contains (x.1 % 2 ^ 60),
    l1own := s.l1own.filter fun o => !mine o.key && !keys.any fun k => o.meets k 1,
    poison := (s.poison.filter fun p => !whole p).map key,
    teams := s.teams.map team,
    saved := s.saved.map fun (c : SavedCrew) => { c with teams := c.teams.map team },
    grids := s.grids.map fun g => (g.1, { g.2 with ver := re g.2.dom g.2.ver, lver := re g.2.ldom g.2.lver }),
    carts := s.carts.map fun c => { c with ver := re c.dom c.ver },
    engines := s.engines.map fun e => { e with ver := re e.dom e.ver },
    flight := s.flight.map fun f => { f with ver := re f.dom f.ver } }

/-- The acceptance average after a resolve (R340). -/
def acceptNext (a committed squashed : Nat) : Nat :=
  if committed + squashed = 0 then a
  else ((a : Int) + ((256 * committed / (committed + squashed) : Nat) - (a : Int)).fdiv 8).toNat

/-- The event C of a resolve: commit these versions, parent before child, squash those (R338, R339);
the placement counters of the domain start again (R427). -/
def State.applyResolve (s : State) (d : Nat) (committed squashed : List Nat) : State :=
  let s := s.squash d squashed
  let s := committed.foldl (fun s v => s.commitOne d v) s
  s.modDom d fun x => { x with cd0 := 0, ct0 := 0, cd1 := 0, ct1 := 0 }

/-! ### The L2's room for versioned copies (R83, R84) -/

/-- Bytes of a domain's moraine in use. -/
def State.moraineUsed (s : State) (d : Nat) : Nat :=
  (s.vspans.filter fun x => x.dom == d && x.displaced).foldl (fun n x => n + Config.moraineBytes x.span) 0

/-- Sets of a die's L2: 128 MiB in spans of 256 bytes, 16 ways (R2, R65, R83). -/
def l2Sets : Nat := 2 ^ 15

/-- The set of a span: its home die's L2, and the set that the fixed hash gives it there (R72). -/
def setOf (span : Nat) : Bool × Nat := (homeOfPa (256 * span), Config.l2Set span % l2Sets)

/-- The first copy that needs displacing: the least recently used of a set that holds more than 8. -/
def overFull (l : List VCopy) : Option VCopy :=
  l.find? fun x => !x.displaced &&
    decide (8 < (l.filter fun y => !y.displaced && setOf y.span == setOf x.span).length)

/-- Displace copies until every set has room; a moraine without room, as one of size zero always is, squashes
the domain's youngest version with its descendants (R84), on this device: the manual does not say that such
a squash is sent to the domain's other devices (assumption 71). -/
def displaceGo : Nat → State → State
  | 0, s => s
  | fuel + 1, s =>
    match overFull s.vspans with
    | none => s
    | some x =>
      if (s.dom x.dom).morsize ≠ 0 ∧
          s.moraineUsed x.dom + Config.moraineBytes x.span ≤ (s.dom x.dom).morsize * 2 ^ 20 then
        displaceGo fuel { s with vspans := s.vspans.map fun y => if y == x then { y with displaced := true } else y }
      else
        let live := (s.dom x.dom).live
        match live.find? fun y => live.all fun z => decide (z.order ≤ y.order) with
        | none => s
        | some y => displaceGo fuel (s.squash x.dom (descendants live 64 [y.ver]) true)

def State.displace (s : State) : State := if s.vspans.isEmpty then s else displaceGo 128 s

/-- A load through versioned copies uses them (R83: least recently used). -/
def State.useSpans (s : State) (d v k : Nat) : State :=
  if s.vspans.isEmpty then s
  else
    let ch := s.chain d v
    let hit := fun (x : VCopy) => x.dom == d && ch.contains x.ver && x.span == spanOf k
    { s with vspans := s.vspans.filter (fun x => !hit x) ++ s.vspans.filter hit }

/-! ### Atomics and stores at the home (R271, R272) -/

/-- The new value of an atomic operation on n bits (R271, Table 5); `cas` is given its new value when
the comparison succeeded. -/
def atomNew (op : AtomOp) (n old x : Nat) : Nat :=
  let sv := fun v => (IFmt.mk n true).val v
  match op with
  | .add => (old + x) % 2 ^ n
  | .and => old &&& x
  | .or => old ||| x
  | .xor => old ^^^ x
  | .smin => if sv old ≤ sv x then old else x
  | .smax => if sv old ≤ sv x then x else old
  | .umin => if old ≤ x then old else x
  | .umax => if old ≤ x then x else old
  | .fadd => rn32Add old x
  | .fmin => (fmtF32.minmax false old x).1
  | .fmax => (fmtF32.minmax true old x).1
  | .incw => if x ≤ old then 0 else old + 1
  | .decw => if old = 0 ∨ x < old then x else old - 1
  | .cas => x
  | .xchg => x

/-- The poisoned flake among n bytes of a (domain, version), by its key: the committed line's, or that of the versioned
copy that holds the byte (R80). -/
def State.badFlake (s : State) (d v k n : Nat) : Nat := ((s.badPlaces d v k n).headD k) / 32 * 32

/-- A write at its home reaches the clean copies of a remote-die line that its core holds, and those of the
remote-data cache it crossed, so that the core reads no older byte there (R224, item 1). -/
def State.refresh (s : State) (core : Nat) (home : Bool) (k : Nat) (bs : List Byte) : State :=
  if remoteDie core home k then
    bs.zipIdx.foldl (fun s x =>
      [core, rdcUnit (dieOfCore core)].foldl (fun s u =>
        let c := s.copyByte u (k + x.2)
        if c.valid && !c.dirty then s.setCopy u (k + x.2) { c with val := x.1, poison := s.poisoned (k + x.2) 1 } else s) s) s
  else s

/-- The key of a byte of the committed line, or of a versioned copy. -/
def placeKey (d v k : Nat) : Nat := if v = 0 then k else vcKey d v k

/-- A store that has been performed at a home of its core's own die leaves the flake dirty in the core's L1 (R67): the
stores that had dirtied it there before are given. Host windows are never cached (R74). -/
def State.keepOwn (s : State) (f : Flight) (before : List (PathRef × Nat × Nat × Nat)) : State :=
  if s.hasL1 f.core && !remoteDie f.core f.home f.key && !inWindow f.key then
    s.holdOwn f.core (placeKey f.dom f.ver f.key) (before ++ [(f.r, f.serial, f.va, f.ctx)])
  else s

/-- Perform one store or non-returning atomic at its home (R238, R247, R272). -/
def State.perform (s : State) (f : Flight) : State :=
  if !(s.dom f.dom).liveVer f.ver then s
  else
    match f.op with
    | .write bs =>
      let own := s.ownersOf f.core (placeKey f.dom f.ver f.key)
      let s := s.writeFor f.dom f.ver f.key bs
      let s := if f.poison then s.poisonFor f.dom f.ver f.key else s
      let s := (if f.ver = 0 then s.refresh f.core f.home f.key bs else s).keepOwn f own
      (if f.poison then s.noteFailed f.r f.both (placeKey f.dom f.ver f.key) f.va else s).displace
    | .atomic op n x =>
      if s.poisonedIn f.dom f.ver f.key n then
        s.noteFailed f.r f.both (s.badFlake f.dom f.ver f.key n) f.va
      else
        let old := leNat (s.homeBytes f.dom f.ver f.key n)
        let bs := leBytes n (atomNew op (8 * n) old x.toNat)
        let s := (s.useSpans f.dom f.ver f.key).writeFor f.dom f.ver f.key bs
        (if f.ver = 0 then s.refresh f.core f.home f.key bs else s).displace

/-- Bytes an operation in flight touches. -/
def Flight.size (f : Flight) : Nat :=
  match f.op with
  | .write bs => bs.length
  | .atomic _ n _ => n

/-- Two byte ranges meet. -/
def meets (k n j m : Nat) : Bool := decide (k < j + m) && decide (j < k + n)

/-- An operation in flight comes before a later one of its path: they meet, or both synchronise, or the later one is a
release (R220, R224). -/
def Flight.before (f g : Flight) : Bool :=
  (f.of g.r || g.of f.r) && (meets f.key f.size g.key g.size || g.rel || (f.sync && g.sync))

/-- The operations in flight, in order, that satisfy a test or come before one that is taken. -/
def needed (hit : Flight → Bool) (l : List Flight) : List Flight :=
  l.foldr (fun f acc => if hit f || acc.any fun g => f.before g then f :: acc else acc) []

/-- Perform the operations in flight that satisfy a test, in order, each after those that come before it. -/
def State.drainIf (s : State) (hit : Flight → Bool) : State :=
  let l := needed hit s.flight
  l.foldl State.perform { s with flight := s.flight.filter fun f => !l.contains f }

/-- Perform a path's operations in flight that touch some bytes, in order (R224, item 1). -/
def State.drain (s : State) (r : PathRef) (k n : Nat) : State :=
  s.drainIf fun f => f.of r && meets f.key f.size k n

/-- Perform a path's synchronising operations in flight, in order: they precede, in the order of R224 item 3,
any synchronising event the path makes later (assumption 10). -/
def State.drainSync (s : State) (r : PathRef) : State := s.drainIf fun f => f.of r && f.sync

/-- What tells an operation in flight apart: the pass it belongs to, whether it synchronises, and the
long-latency operation that waits for it. -/
structure Trip where
  pass : Nat := 0
  /-- A release. -/
  sync : Bool := false
  tie  : Option Nat := none

/-- Put an operation in flight. A store behind a release fence, and any atomic, is a synchronising event
(R220). -/
def State.send (s : State) (r : PathRef) (home : Bool) (k va : Nat) (op : HomeOp) (poison : Bool)
    (trip : Trip := {}) : State :=
  let atomic := match op with | .atomic .. => true | .write _ => false
  { s with
    flight := s.flight ++ [⟨s.nextSer, r, s.ctxOf r, s.domOf r, s.verOf r, s.coreOf r, k, op, poison, home, va,
      false, trip.sync || atomic || (s.path r).fenced.isSome, trip.pass, trip.tie,
      trip.sync || (s.path r).fenced.isSome, s.tsc⟩],
    nextSer := s.nextSer + 1 }

/-- An operation waits to cross the die-to-die connection: while DQ is set and it came after (R466), or
while a die is in relock (R488). -/
def State.crossHeld (s : State) (f : Flight) : Bool :=
  decide (dieOfCore f.core = 1) != f.home &&
  ((s.dq && decide (s.dqSer ≤ f.serial)) || s.stopped false || s.stopped true)

/-- A load, with a serial number, of a line homed on a die waits to cross. -/
def State.loadHeld (s : State) (core : Nat) (home : Bool) (serial : Nat) : Bool :=
  decide (dieOfCore core = 1) != home &&
  ((s.dq && decide (s.dqSer ≤ serial)) || s.stopped false || s.stopped true)

/-- Some operation in flight that satisfies a test, or that comes before one that does, waits to cross. -/
def State.flightHeld (s : State) (hit : Flight → Bool) : Bool := (needed hit s.flight).any s.crossHeld

/-- A synchronising operation of the path cannot be performed yet. -/
def State.syncHeld (s : State) (r : PathRef) : Bool := s.flightHeld fun f => f.of r && f.sync

/-- A home acknowledges an operation: it has been performed, after the path's earlier ones that come before it. An
atomic arrives at its home, and is performed there, with this event: none stands in line behind another (R275). -/
def execHomeAcknowledgement (n : Nat) (s : State) : Res :=
  if s.flightHeld fun f => f.serial == n then .next s else .next (s.drainIf fun f => f.serial == n)

end Sys2Proof.Machine
end

