-- ==== Sys2Proof/Machine/Bind.lean ====
section
/-! DEFINITION. When a load binds its value (R225, R227): a global load that acquires nothing reads its bytes
at some moment between its issue and its completion. It binds as it completes, as its result lands, or before
an access of its team that meets its bytes, an instruction that reads its destination, or an acquire that
promotes it. -/

namespace Sys2Proof.Machine

/-- An error held in a copy is found when the copy is read (R455, R457): a dirty one poisons the home
flake, a clean one is dropped. -/
def State.checkCopy (s : State) (unit k : Nat) : State :=
  let l := (List.range 32).map fun i => s.copyByte unit (k / 32 * 32 + i)
  if l.any fun c => c.valid && c.bad then
    if l.any fun c => c.valid && c.dirty then s.failCopy unit k else s.dropCopies unit fun j => j / 32 == k / 32
  else s

/-- A path reads n bytes of device or host memory now: after its synchronising operations and its atomics to
those bytes, through its core's copies in version 0, from the home in a speculative one. The value, and
whether a byte is poisoned. -/
def State.bindBytes (s : State) (r : PathRef) (home : Bool) (k n : Nat) (bypass : Bool) : State × List Byte × Bool :=
  let s := s.drainIf fun f => f.of r && (f.sync || (meets f.key f.size k n && (match f.op with | .atomic .. => true | .write _ => false)))
  let core := s.coreOf r
  let s :=
    if s.verOf r = 0 then
      let s := if remoteDie core home k then (s.checkCopy core k).checkCopy (rdcUnit (dieOfCore core)) k else s
      (s.fillHost k n).fillLoad core home k bypass
    else (s.fillHost k n).useSpans (s.domOf r) (s.verOf r) k
  let s := (if s.verOf r = 0 && remoteDie core home k then s.evictFor core k else s).recallBut core (placeKey (s.domOf r) (s.verOf r) k) n
  (s, s.viewBytes r home k n, s.poisonedAt core home (s.domOf r) (s.verOf r) k n)

/-- What the lanes of a load have bound so far. -/
structure Bound where
  s    : State
  ws   : List RegWrite := []
  done : Mask
  bad  : Option (Nat × DWord) := none

/-- One lane binds: a poisoned one writes nothing and is not done (R248). -/
def LoadSet.bindLane (l : LoadSet) (r : PathRef) (x : Bound) (e : Nat × DWord × Nat × Bool) : Bound :=
  let y := x.s.bindBytes r e.2.2.2 e.2.2.1 l.size.bytes l.bypass
  if y.2.2 then { x with s := y.1, bad := x.bad.or (some (e.1, e.2.1)) }
  else { x with s := y.1, ws := x.ws ++ x.s.loadWrites r l.d l.size l.sx e.1 (leNat y.2.1), done := x.done ||| laneBit e.1 }

/-- All the lanes of a load bind. -/
def LoadSet.bind (l : LoadSet) (s : State) (r : PathRef) : Bound := l.lanes.foldl (l.bindLane r) { s := s, done := l.done }

/-- A load waits for a crossing that is held (R466, R488). -/
def State.bindHeld (s : State) (p : Pend) : Bool :=
  match p.loads with
  | none => false
  | some l => s.syncHeld p.r || l.lanes.any fun e => s.loadHeld (s.coreOf p.r) e.2.2.2 p.serial

/-- The load of an operation in progress binds. -/
def State.bindPend (s : State) (p : Pend) : State :=
  match p.loads with
  | none => s
  | some l =>
    let x := l.bind s p.r
    let note : Option PoisonNote := x.bad.map fun b => ⟨some p.flag, l.loadpc, x.done, l.vregs, b.1, b.2, 0⟩
    { x.s with pend := x.s.pend.map fun q =>
        if q.serial = p.serial then { q with writes := q.writes ++ x.ws, poison := q.poison.or note, loads := none } else q }

/-- The unbound loads that satisfy a test bind. -/
def State.bindIf (s : State) (f : Pend → LoadSet → Bool) : State :=
  (s.pend.filter fun p => match p.loads with | some l => f p l | none => false).foldl State.bindPend s

/-- The unbound loads of a path's team. -/
def State.bindAll (s : State) (r : PathRef) : State := s.bindIf fun p _ => p.r.tok == r.tok

/-- The unbound loads of a path's team that meet n bytes. -/
def State.bindMeet (s : State) (r : PathRef) (k n : Nat) : State :=
  s.bindIf fun p l => p.r.tok == r.tok && l.lanes.any fun e => meets e.2.2.1 l.size.bytes k n

/-- The unbound loads of a path's team that write a register of the given ones. -/
def State.bindRegs (s : State) (r : PathRef) (vs : List VReg) (ss : List SReg) : State :=
  let uni := (s.team r.tok).uniform
  s.bindIf fun p l => p.r.tok == r.tok &&
    if uni then ss.any fun x => x.toNat == l.d.toNat % 64 else vs.any fun x => l.vregs.contains x.toNat

/-- Such a load waits to cross. -/
def State.regsHeld (s : State) (r : PathRef) (vs : List VReg) (ss : List SReg) : Bool :=
  let uni := (s.team r.tok).uniform
  s.pend.any fun p => p.r.tok == r.tok && s.bindHeld p &&
    match p.loads with
    | none => false
    | some l => if uni then ss.any fun x => x.toNat == l.d.toNat % 64 else vs.any fun x => l.vregs.contains x.toNat

end Sys2Proof.Machine
end

