-- ==== Sys2Proof/Machine/Lanes.lean ====
section
/-! DEFINITION. What every memory instruction does lane by lane (R254 to R256): checking an address and
its target, done masks and faults, stores on their way
(R75, R229), read-modify-writes at the home (R228, R272), and the firn buffer (R86, R477). -/

namespace Sys2Proof.Machine

/-! ### Reaching a target -/

/-- The access kind of a fault record's DETAIL (R450). -/
def accDetail : Access → Nat
  | .load | .cache => 0
  | .store => 1
  | .atomic => 2
  | .fetch => 3

/-- Check the address and its alignment, translate it and find its target (R254, causes 1 to 4;
R256). -/
def State.reach (s : State) (r : PathRef) (acc : Access) (n : Nat) (va : DWord) (lane : Nat := 0) : Except XErr (Xlat × Target) := do
  if va.toNat / 2 ^ 56 != 0 then .error (.fault 6 2)
  else if va.toNat % n != 0 then .error (.fault 4 0)
  else
    let x ← s.translate (s.coreOf r) (s.ctxOf r) (s.kernel r) acc va (some r) lane
    match s.target (s.ctxOf r) va.toNat x with
    | none => .error (.fault 10 0)
    | some t => .ok (x, t)

/-- Bytes to store: the home key, the home die, the virtual address, the bytes, the pass of the lane, and whether
the data is poisoned. -/
structure Out where
  key   : Nat
  home  : Bool
  va    : Nat
  bytes : List Byte
  pass  : Nat := 0
  poison : Bool := false

/-- What one lane's access comes to. -/
inductive LaneRes where
  /-- Performed: register writes, bytes to store, and the address of a poisoned value read. -/
  | ok (s : State) (ws : List RegWrite) (out : List Out) (bad : Option DWord)
  /-- A load that will bind later: its address, key and home die (R227). -/
  | load (s : State) (va : DWord) (key : Nat) (home : Bool)
  /-- Not performed: a fault or a missing host translation. -/
  | err (e : XErr)
  /-- The same, at an address other than the lane's first. -/
  | errAt (e : XErr) (va : DWord)
  /-- Not performed: it waits. -/
  | hold (w : Wait)

/-- The lanes gone through so far. -/
structure Sweep where
  s    : State
  ws   : List RegWrite := []
  out  : List Out := []
  done : Mask
  shut : List Nat := []
  err  : Option (Nat × DWord × XErr) := none
  wait : Option Wait := none
  bad  : Option (Nat × DWord) := none
  /-- Loads that have not bound. -/
  loads : List (Nat × DWord × Nat × Bool) := []
  /-- Miss entries taken (R75). -/
  misses : Nat := 0

/-- Mark an access not performed: later lanes that touch its bytes are not performed either (R255). -/
def Sweep.miss (x : Sweep) (a : DWord) : Sweep := { x with shut := a.toNat :: x.shut }

/-- A lane that faults, or that lacks a host translation. -/
def Sweep.fail (x : Sweep) (l : Nat) (a va : DWord) (e : XErr) : Sweep :=
  match e with
  | .fault .. => { x.miss a with err := x.err.or (some (l, va, e)) }
  | .ats .. => if x.err.isSome then x.miss a else { x.miss a with err := some (l, va, e), wait := some .none }

/-- A lane waits for a full/empty word. -/
def Wait.isFull : Wait → Bool
  | .fullEmpty _ => true
  | _ => false

/-- The wait of an instruction of which one more lane waits: full/empty words are waited for together. -/
def joinWait (a : Option Wait) (b : Wait) : Wait :=
  match a, b with
  | some (.fullEmpty l), .fullEmpty m => .fullEmpty (l ++ m)
  | _, _ => b

/-- Go through one lane (R254, R255). -/
def Sweep.lane (r : PathRef) (n : Nat) (ea : Nat → DWord) (f : State → Nat → DWord → LaneRes) (x : Sweep)
    (l : Nat) : Sweep :=
  let a := ea l
  if x.done.getLsbD l || !(x.s.path r).live || (x.wait.any fun w => !w.isFull) then x
  else if x.shut.any fun b => meets a.toNat n b n then x.miss a
  else
    match f x.s l a with
    | .ok s ws out bad =>
      { x with
        s := s, ws := x.ws ++ ws, out := x.out ++ out.map (fun o => { o with pass := l / 32 }),
        bad := x.bad.or (bad.map fun d => (l, d)),
        done := if bad.isSome then x.done else x.done ||| laneBit l }
    | .load s va key home => { x with s := s, loads := x.loads ++ [(l, va, key, home)], done := x.done ||| laneBit l }
    | .err e => x.fail l a a e
    | .errAt e va => x.fail l a va e
    | .hold w => if x.err.isSome && !w.isFull then x.miss a else { x.miss a with wait := some (joinWait x.wait w) }

/-! ### Miss entries (R75) -/

/-- Miss entries of a core. -/
def missEntries : Nat := 2048

/-- The entries that a core's operations in progress hold: one for each flake of a pass. -/
def State.missesUsed (s : State) (core : Nat) : Nat :=
  ((s.flight.filter fun f => f.core == core).map fun f => (f.pass, flakeOf f.key)).eraseDups.length +
  (s.pend.filter fun p => s.coreOf p.r == core).foldl (fun n p => n + p.misses) 0

/-- The flakes n bytes at an address lie in. -/
def flakesOf (n : Nat) (va : DWord) : List Nat :=
  (List.range (flakeOf (va.toNat + n - 1) - flakeOf va.toNat + 1)).map fun i => flakeOf va.toNat + i

/-- Go through one pass of 32 lanes: it waits at issue while the entries it needs are not free. -/
def Sweep.pass (r : PathRef) (n : Nat) (ea : Nat → DWord) (f : State → Nat → DWord → LaneRes) (free : Nat) (x : Sweep)
    (lanes : List Nat) : Sweep :=
  let todo := lanes.filter fun l => !x.done.getLsbD l
  let need := (todo.flatMap fun l => flakesOf n (ea l)).eraseDups.length
  if x.misses + need ≤ free then lanes.foldl (Sweep.lane r n ea f) { x with misses := x.misses + need }
  else if x.err.isSome then todo.foldl (fun x l => x.miss (ea l)) x
  else { x with wait := x.wait.or (some .room) }

/-- The passes of some lanes. -/
def passesOf (lanes : List Nat) : List (List Nat) :=
  ((List.range 32).map fun p => lanes.filter fun l => l / 32 == p).filter fun l => !l.isEmpty

/-- Bytes of one flake that stores write, if they cover it whole. -/
def wholeFlake (f : Nat) (l : List Out) : Option (List Byte) :=
  (List.range 32).mapM fun i =>
    l.foldl (fun acc x => if x.key ≤ 32 * f + i ∧ 32 * f + i < x.key + x.bytes.length then x.bytes[32 * f + i - x.key]? else acc) none

/-- Stores of one instruction that cover a flake whole are one write of it (R456: a store that writes
every byte of a poisoned flake). -/
def coalesce (l : List Out) : List Out :=
  (l.map fun x => flakeOf x.key).eraseDups.flatMap fun f =>
    let here := l.filter fun x => flakeOf x.key == f
    match here, wholeFlake f here with
    | x :: _, some bs => [⟨32 * f, x.home, x.va / 32 * 32, bs, x.pass, here.any fun y => y.poison⟩]
    | _, _ => here

/-! ### Stores (R75, R78, R229) -/

/-- Write back and drop the copies of a flake that a core reaches, so that an access can be made at
the home. -/
def State.homeSync (s : State) (core : Nat) (home : Bool) (k n : Nat) : State :=
  if remoteDie core home k then
    s.purge core fun j => decide (flakeOf k ≤ flakeOf j) && decide (flakeOf j ≤ flakeOf (k + n - 1))
  else s

/-- How far a store goes at once: to the L1, the remote-data cache, or its home. -/
def storeLevel (rel : Bool) (sc : Scope) : Nat :=
  if !rel then 0 else if Scope.crossRdc sc then 2 else if Scope.crossL1 sc then 1 else 0

/-- Put the bytes of a store into a remote-die copy, with the fetch of a missing flake unless the core
is in no-fetch mode (R68). A byte that was dirty keeps the time of its first write (R230); a store of a whole flake leaves
it without a poison mark, a partial one as it was (R456). -/
def State.storeCopy (s : State) (r : PathRef) (k va : Nat) (bs : List Byte) (toRdc : Bool) : State :=
  let core := s.coreOf r
  let rdc := rdcUnit (dieOfCore core)
  let hit := fun j => flakeOf j == flakeOf k
  let s := s.drain r k bs.length
  let s := if toRdc then (s.l1ToRdc core hit).dropCopies core hit else s
  let unit := if toRdc then rdc else core
  let s := s.checkCopy unit k
  let word := (List.range 4).any fun i => !(s.copyByte unit (k / 4 * 4 + i)).valid
  let s := if (s.csrGet 0x1003 core).getLsbD 0 && (decide (4 ≤ bs.length) || !word) then s
    else s.fillLoad core (!decide (dieOfCore core = 1)) k toRdc
  let s := bs.zipIdx.foldl (fun s x =>
    let old := s.copyByte unit (k + x.2)
    s.setCopy unit (k + x.2)
      { valid := true, dirty := true, val := x.1, owner := some r, bad := false, va := va,
        since := sinceFirst (s.unitCyc unit) old (s.unitCyc unit), ser := s.nextSer, ctx := s.ctxOf r,
        poison := old.poison && decide (bs.length < 32) }) s
  ({ s with nextSer := s.nextSer + 1 } : State).evictFor core k

/-- The level of a path's store: at least that of the release fence before it, whose scope its release has (R220). -/
def State.levelOf (s : State) (r : PathRef) (lvl : Nat) : Nat :=
  match (s.path r).fenced with
  | none => lvl
  | some sc => Nat.max lvl (storeLevel true sc)

/-- Send a store on its way: to a remote-die copy in version 0, else to its home. A store behind a release fence, while
earlier ones of its path have not been performed, goes to its home after them (R221), and so does one that a flag waits
for until it has been performed (R126). -/
def State.store (s : State) (r : PathRef) (lvl : Nat) (bypass : Bool) (trip : Trip) (x : Out) : State :=
  let core := s.coreOf r
  let trip := { trip with pass := trip.pass * 32 + x.pass }
  if s.verOf r = 0 && remoteDie core x.home x.key then
    let lvl := s.levelOf r lvl
    if lvl = 2 || x.poison || trip.tie.isSome || ((s.path r).fenced.isSome && s.flight.any fun f => f.of r) then
      (s.homeSync core x.home x.key x.bytes.length).send r x.home x.key x.va (.write x.bytes) x.poison trip
    else
      let held := (s.copyByte core x.key).valid
      s.storeCopy r x.key x.va x.bytes (decide (lvl = 1) || !s.hasL1 core || (bypass && !held))
  else s.send r x.home x.key x.va (.write x.bytes) x.poison trip

/-- Send all the stores of an instruction. Behind a release fence they are releases of its scope: what the core holds
dirty goes before them (R220, R229). -/
def State.storeAll (s : State) (r : PathRef) (lvl : Nat) (bypass : Bool) (l : List Out) (trip : Trip := {}) : State :=
  let t := match (s.path r).fenced with
    | some sc => if l.isEmpty then s else s.releaseCore (s.coreOf r) sc
    | none => s
  (coalesce l).foldl (fun t x => t.store r lvl bypass { trip with pass := s.nextSer } x) t

/-! ### Ending an instruction (R254) -/

/-- Go through the lanes of an instruction. -/
def State.sweep (s : State) (r : PathRef) (n : Nat) (ea : Nat → DWord) (f : State → Nat → DWord → LaneRes) : Sweep :=
  (s.memLanes r).foldl (Sweep.lane r n ea f) { s := s, done := (s.path r).done }

/-- Go through the lanes of a global access, pass by pass (R17, R75). -/
def State.sweepMem (s : State) (r : PathRef) (n : Nat) (ea : Nat → DWord) (f : State → Nat → DWord → LaneRes) : Sweep :=
  (passesOf (s.memLanes r)).foldl (Sweep.pass r n ea f (missEntries - s.missesUsed (s.coreOf r)))
    { s := s, done := (s.path r).done }

/-- End a sweep: what was performed stands; a fault or a wait keeps the done mask; otherwise go on. -/
def Sweep.finish (x : Sweep) (r : PathRef) (detail lvl : Nat) (bypass : Bool)
    (k : State → Mask → List RegWrite → Option (Nat × DWord) → State) (trip : Trip := {}) : State :=
  if !(x.s.path r).live then x.s
  else
    let s := x.s.storeAll r lvl bypass x.out trip
    let part := fun (_ : Unit) => (s.regWrites r.tok x.ws).modPath r fun p => { p with done := x.done }
    match x.err, x.wait with
    | some (l, a, e), _ => (part ()).xerr r e a l detail
    | none, some w => (part ()).waitFor r w
    | none, none => k s x.done x.ws x.bad

/-- The note of a poisoned value read (R248). -/
def State.noteFor (s : State) (r : PathRef) (flag : Option Nat) (vregs : List Nat) (done : Mask)
    (bad : Option (Nat × DWord)) (kind : Nat) : Option PoisonNote :=
  bad.map fun b => ⟨flag, (s.path r).pc, done, vregs, b.1, b.2, kind⟩

/-- End a long-latency instruction: its results come with its flag. Without lanes it only takes its
slot (R127, R257). -/
def Sweep.finishLong (x : Sweep) (r : PathRef) (flag detail lvl : Nat) (bypass : Bool) (vregs : List Nat)
    (lanes : List Nat) (loads : Option LoadSet := none) (trip : Trip := {}) : State :=
  x.finish r detail lvl bypass (trip := trip) fun s done ws bad =>
    if lanes.isEmpty then s.emptyPend r 2
    else (s.startPend r flag ws (s.noteFor r (some flag) vregs done bad detail) false loads x.misses true).advance r 2

/-- The lanes of a load that have not bound, as a load to bind. -/
def Sweep.loadSet (x : Sweep) (r : PathRef) (d : Byte) (z : MSize) (sx bypass : Bool) (vregs : List Nat) : LoadSet :=
  ⟨d, z, sx, bypass, (x.s.path r).pc, x.loads.foldl (fun m e => m &&& ~~~ laneBit e.1) x.done, vregs, x.loads⟩

/-- End a load: it goes on its way unbound (R227). Where lanes are left over, those performed bind at once, so
that their effects stand (R254), or are left over too while they cannot cross the dies. -/
def Sweep.finishLoad (x : Sweep) (r : PathRef) (flag : Nat) (l : LoadSet) (lanes : List Nat) : State :=
  if x.loads.isEmpty then x.finishLong r flag 0 0 false l.vregs lanes
  else if x.err.isSome || x.wait.isSome then
    if x.s.syncHeld r || l.lanes.any fun e => x.s.loadHeld (x.s.coreOf r) e.2.2.2 x.s.nextSer then
      ({ x with done := l.done } : Sweep).finishLong r flag 0 0 false l.vregs lanes
    else
      let b := l.bind x.s r
      ({ x with s := b.s, ws := x.ws ++ b.ws, done := b.done } : Sweep).finishLong r flag 0 0 false l.vregs lanes
  else x.finishLong r flag 0 0 false l.vregs lanes (some l)

/-- End a short instruction. -/
def Sweep.finishShort (x : Sweep) (r : PathRef) (detail lvl : Nat) (bypass : Bool) (trip : Trip := {}) : State :=
  x.finish r detail lvl bypass (trip := trip) fun s _ _ _ => s.advance r 2

/-! ### The firn buffer (R86, R88, R477) -/

/-- Entries a die's firn SRAM holds: 64 MiB of 32 bytes. -/
def firnSram : Nat := 2 ^ 21

/-- Append a contribution, replacing an earlier one of the same team to the same address; none when
SRAM and log are both full. -/
def State.firnStore (s : State) (e : FirnEntry) : Option State :=
  let same := fun (x : FirnEntry) => x.step == e.step && x.pa == e.pa && x.gti == e.gti && x.rank == e.rank
  let count := fun b => (s.firn.filter fun x => x.die == e.die && x.logged == b).length
  let log := ((s.csrGet 0x3011 e.die.toNat).toNat / 4096 * 4096) / 32
  if s.firn.any same then
    some { s with firn := s.firn.map fun x => if same x then { x with data := e.data, poison := e.poison } else x }
  else if count false < firnSram then some { s with firn := s.firn ++ [{ e with logged := false }] }
  else if count true < log then some { s with firn := s.firn ++ [{ e with logged := true }] }
  else none

/-- Bytes of a pod-shared element type (R418: n32, i32, f32, i64). -/
def podBytes (type : Nat) : Nat := if type = 3 then 8 else 4

/-! ### Loads -/

/-- An access of a path to n bytes must wait before it is made: its earlier operations to them, or its
synchronising ones, are held at the die-to-die connection, or it would have to cross there itself. -/
def State.meetHeld (s : State) (r : PathRef) (home : Bool) (k n : Nat) : Bool :=
  s.syncHeld r || s.loadHeld (s.coreOf r) home s.nextSer ||
  (s.flightHeld fun f => f.of r && meets f.key f.size k n) ||
  s.pend.any fun p => p.r.tok == r.tok && s.bindHeld p &&
    (p.loads.any fun l => l.lanes.any fun e => meets e.2.2.1 l.size.bytes k n)

/-- Bytes read at their home, in the view of version 0 (R89, R240). -/
def State.readHome (s : State) (k n : Nat) (va : DWord) (w : Nat → List RegWrite) : LaneRes :=
  if s.poisoned k n then .ok s [] [] (some va) else .ok s (w (leNat (s.homeBytes 0 0 k n))) [] none

/-- A load of a lane (R256, loads column; R240, R89). Acquiring loads of an immediate window are
atomic loads. A load that does not acquire binds later (R227). -/
def State.loadLane (s : State) (r : PathRef) (n : Nat) (acq bypass : Bool) (va : DWord)
    (w : Nat → List RegWrite) (lane : Nat := 0) : LaneRes :=
  match s.reach r .load n va lane with
  | .error e => .err e
  | .ok (x, t) =>
    if s.owned x.key n || s.meetHeld r x.home x.key n then .hold .room
    else
      let s := s.bindMeet r x.key n
      match t with
      | .window =>
        if n = 16 then .err (.fault 4 0) else .ok s (w (leNat (s.viewBytes r x.home x.key n))) [] none
      | .pod .. => if s.arrived then .hold .boundary else s.readHome x.key n va w
      | .imm =>
        if acq && (n == 4 || n == 8) then ((s.drain r x.key n).homeSync (s.coreOf r) x.home x.key n).readHome x.key n va w
        else .err (.fault 10 0)
      | .device | .host =>
        if !acq then .load s va x.key x.home
        else
          let b := s.bindBytes r x.home x.key n bypass
          if b.2.2 then .ok b.1 [] [] (some va) else .ok b.1 (w (leNat b.2.1)) [] none

/-! ### Stores of a lane (R256, stores column; R79, R86) -/

/-- A contribution of a path's team to a pod-shared line. -/
def State.firnOf (s : State) (r : PathRef) (x : Xlat) (va : DWord) (n v : Nat) (poison : Bool := false) : FirnEntry :=
  { step := s.stepNo, die := decide (dieOfCore (s.coreOf r) = 1), logged := false,
    ctx := s.ctxOf r, va := va.toNat, pa := x.key, size := n, data := BitVec.ofNat 64 v,
    rank := s.rank, gti := s.gti r, poison := poison }

/-- A store of n bytes of a lane, of poisoned data or not (R242, R455). -/
def State.storeLane (s : State) (r : PathRef) (n v : Nat) (va : DWord) (bad : Bool := false) (lane : Nat := 0) : LaneRes :=
  match s.reach r .store n va lane with
  | .error e => .err e
  | .ok (x, t) =>
    let spec := s.verOf r != 0
    let out := fun (_ : Unit) =>
      if s.owned x.key n || s.meetHeld r (decide (dieOfCore (s.coreOf r) = 1)) x.key n then LaneRes.hold .room
      else LaneRes.ok (s.bindMeet r x.key n) [] [⟨x.key, x.home, va.toNat, leBytes n v, 0, bad⟩] none
    match t with
    | .device => out ()
    | .host => if spec then .err (.fault 12 0) else out ()
    | .window => if n = 16 then .err (.fault 4 0) else if spec then .err (.fault 12 0) else out ()
    | .pod _ type =>
      if n ≠ podBytes type then .err (.fault 4 0)
      else if spec then .err (.fault 12 0)
      else
        match s.firnStore (s.firnOf r x va n v bad) with
        | none => .err (.fault 9 0)
        | some s => .ok s [] [] none
    | .imm => .err (.fault 10 0)

/-! ### Read-modify-writes of a lane (R228, R256, R272 to R274) -/

/-- A read-modify-write of n bytes at the home: the new value, or none for a comparison that failed;
the register writes are a function of the old value. -/
def State.rmwLane (s : State) (r : PathRef) (n : Nat) (va : DWord) (f : Nat → Option Nat)
    (k : Nat → List RegWrite) (lane : Nat := 0) : LaneRes :=
  match s.reach r .atomic n va lane with
  | .error e => .err e
  | .ok (x, t) =>
    let spec := s.verOf r != 0
    let act := fun (_ : Unit) =>
      if s.owned x.key n || s.meetHeld r x.home x.key n then LaneRes.hold .room
      else
        let s := (((s.bindMeet r x.key n).drainSync r).drain r x.key n).fillHost x.key n
        let s := if spec then s.useSpans (s.domOf r) (s.verOf r) x.key else s.homeSync (s.coreOf r) x.home x.key n
        if s.poisonedIn (s.domOf r) (s.verOf r) x.key n then .ok s [] [] (some va)
        else
          let old := leNat (s.homeBytes (s.domOf r) (s.verOf r) x.key n)
          match f old with
          | none => .ok s (k old) [] none
          | some new => .ok ((s.writeFor (s.domOf r) (s.verOf r) x.key (leBytes n new)).displace) (k old) [] none
    match t with
    | .device => act ()
    | .host | .imm => if spec then .err (.fault 12 0) else act ()
    | .window => if n ≠ 4 ∧ n ≠ 8 then .err (.fault 4 0) else if spec then .err (.fault 12 0) else act ()
    | .pod .. => .err (.fault 13 0)

/-- A non-returning atomic of a lane: performed at once in an immediate window (R89), at a host window, or where
it acquires, since what follows it must wait for it (R220); else sent to its home (R272). -/
def State.atmLane (s : State) (r : PathRef) (op : AtomOp) (n v : Nat) (acq : Bool) (pass : Nat) (va : DWord)
    (lane : Nat := 0) : LaneRes :=
  match s.reach r .atomic n va lane with
  | .error e => .err e
  | .ok (x, t) =>
    if acq || t == .imm || t == .window then
      match s.rmwLane r n va (fun old => some (atomNew op (8 * n) old v)) (fun _ => []) lane with
      | .ok s ws out bad =>
        .ok (if bad.isSome then s.noteFailed r false (s.badFlake (s.domOf r) (s.verOf r) x.key n) va.toNat else s) ws out none
      | e => e
    else
      match t with
      | .pod .. => .err (.fault 13 0)
      | _ =>
        if t == .host && s.verOf r != 0 then .err (.fault 12 0)
        else if s.owned x.key n || s.meetHeld r (decide (dieOfCore (s.coreOf r) = 1)) x.key n then .hold .room
        else
          let s := ((s.bindMeet r x.key n).drain r x.key n).fillHost x.key n
          let s := if s.verOf r = 0 then s.homeSync (s.coreOf r) x.home x.key n else s
          .ok (s.send r x.home x.key va.toNat (.atomic op n (BitVec.ofNat 64 v)) false { pass := pass }) [] [] none

end Sys2Proof.Machine
end

