-- ==== Sys2Proof/Machine/Global.lean ====
section
/-! DEFINITION. Global accesses: loads and stores (R262, R306), prefetch and cache maintenance (R263,
R264), parameter windows (R76, R265), atomics (R271 to R275) and `marm` (R312). -/

namespace Sys2Proof.Machine

/-- Vector registers of a data group, as numbers. -/
def State.group (s : State) (r : PathRef) (d : Byte) (n : Nat) : List Nat :=
  if (s.team r.tok).uniform then [] else (List.range n).map fun i => d.toNat + i

/-! ### Loads and stores -/

/-- The scope at which a memory instruction synchronises: its descriptor's, or the pod where a lane reaches an
immediate window (R244). -/
def State.memScope (s : State) (r : PathRef) (acc : Access) (a : MAddr) (m : MDesc) : Scope :=
  let imm := (s.memLanes r).any fun l =>
    match s.reach r acc m.size.bytes (s.ea r a m.off l) l with
    | .ok (_, .imm) => true
    | _ => false
  if imm then .pod else m.scope

/-- Issue an instruction that acquires: the path's synchronising operations come first (R224, item 3), so it
waits while one cannot be performed; a fence after a load promotes the loads before it, which bind first. -/
def State.acquire (s : State) (r : PathRef) (acq fence : Bool) (sc : Scope) (k : State → State) : State :=
  if !acq then k s
  else if s.syncHeld r || (fence && s.pend.any fun p => p.r.tok == r.tok && s.bindHeld p) then s.waitFor r .room
  else
    let s := if fence then (s.drainSync r).bindAll r else s.drainSync r
    if (s.path r).live then k (s.acquireAct r sc) else s

/-- A global load with an acquire or not (R262, R306); `ldacq` is a load and an acquire fence. -/
def State.globalLoad (s : State) (r : PathRef) (d : Byte) (a : MAddr) (m : MDesc) (acq fence : Bool) : State :=
  s.legalIf r (s.dataOk r d m.size && s.addrOk r a) <|
    s.withSlot r fun f =>
      let n := m.size.bytes
      let lanes := s.memLanes r
      let vregs := s.group r d m.size.vregs
      s.acquire r (acq && !lanes.isEmpty) fence (s.memScope r .load a m) fun s =>
        let x := s.sweepMem r n (s.ea r a m.off) fun s l va =>
          s.loadLane r n acq (m.hint == 2) va (fun x => s.loadWrites r d m.size (m.op.getLsbD 0) l x) l
        x.finishLoad r f (x.loadSet r d m.size (m.op.getLsbD 0) (m.hint == 2) vregs) lanes

/-- A global store with a release or not (R262, R306). -/
def State.globalStore (s : State) (r : PathRef) (d : Byte) (a : MAddr) (m : MDesc) (rel fence : Bool) : State :=
  s.legalIf r (s.dataOk r d m.size && s.addrOk r a) <|
    if (s.memLanes r).isEmpty then s.advance r 2
    else
      s.releaseIf r rel m.scope fun s =>
        let n := m.size.bytes
        let s := if fence then s.modPath r fun p => { p with fenced := widest p.fenced (some m.scope) } else s
        (s.sweepMem r n (s.ea r a m.off) fun s l va => s.storeLane r n (s.storeVal r d m.size l) va false l).finishShort
          r 1 (storeLevel rel m.scope) (m.hint == 2) { sync := rel }

/-- `ldg` (R262). -/
def execLdg (d : Byte) (a : MAddr) (m : MDesc) (s : State) : Res :=
  issued s fun r => s.globalLoad r d a m (acquires m.order) false

/-- `stg` (R262). -/
def execStg (d : Byte) (a : MAddr) (m : MDesc) (s : State) : Res :=
  issued s fun r => s.globalStore r d a m (releases m.order) false

/-- `ldacq`: a load and an acquire fence at the descriptor's scope (R306). -/
def execLdacq (d : Byte) (a : MAddr) (m : MDesc) (s : State) : Res :=
  issued s fun r => s.globalLoad r d a m true true

/-- `strel`: a release fence at the descriptor's scope and a store (R306). -/
def execStrel (d : Byte) (a : MAddr) (m : MDesc) (s : State) : Res :=
  issued s fun r => s.globalStore r d a m true true

/-! ### Prefetch and cache maintenance -/

/-- The flakes that cover n bytes at a virtual address, by their first addresses. -/
def flakesAt (va : DWord) (n : Nat) : List DWord :=
  (List.range ((va.toNat % 2 ^ 56 + n - 1) / 32 - va.toNat % 2 ^ 56 / 32 + 1)).map fun i =>
    va - BitVec.ofNat 64 (va.toNat % 32) + BitVec.ofNat 64 (32 * i)

/-- One flake that a `pfg` of n bytes covers, translated: none where it cannot be fetched (R263). -/
def State.prefetchable (s : State) (r : PathRef) (va : DWord) : Option Xlat :=
  match s.translate (s.coreOf r) (s.ctxOf r) (s.kernel r) .load va (some r) with
  | .error _ => none
  | .ok x =>
    match s.target (s.ctxOf r) va.toNat x with
    | some .device | some .host => if s.verOf r ≠ 0 || s.poisoned x.key 32 then none else some x
    | _ => none

/-- `pfg` of one lane: a lane of which a flake cannot be fetched is dropped (R263). -/
def State.prefetch (s : State) (r : PathRef) (n : Nat) (bypass : Bool) (va : DWord) : State :=
  if va.toNat / 2 ^ 56 != 0 then s
  else
    match (flakesAt va n).mapM fun f => s.prefetchable r f with
    | none => s
    | some xs => xs.foldl (fun s x =>
        let t := (s.fillHost x.key 32).fillLoad (s.coreOf r) x.home x.key bypass
        if remoteDie (s.coreOf r) x.home x.key then t.evictFor (s.coreOf r) x.key else t) s

/-- `pfg`: its fetches take miss entries, and wait at issue for free ones (R75). -/
def execPfg (a : MAddr) (m : MDesc) (s : State) : Res :=
  issued s fun r =>
    s.legalIf r (s.addrOk r a) <|
      (s.sweepMem r m.size.bytes (s.ea r a m.off) fun s _ va =>
        .ok (s.prefetch r m.size.bytes (m.hint == 2) va) [] [] none).finishShort r 0 0 false

/-- Write back, and drop, the lines of some keys at a scope (R264): dirty bytes to the remote-data cache, or to
the home; `cinv` writes back what it drops. -/
def State.maintain (s : State) (r : PathRef) (inv : Bool) (sc : Scope) (hit : Nat → Bool) : State :=
  let core := s.coreOf r
  if Scope.crossRdc sc then if inv then s.purge core hit else s.flushHome core hit
  else
    let s := s.l1ToRdc core hit
    if inv then s.dropCopies core hit else s

/-- One lane of `cwb` or `cinv`: malformed addresses and translation faults only (R264). At system scope the dirty
bytes of host-memory lines go from the home L2 to the host's port (R73, R236). -/
def State.maintainLane (s : State) (r : PathRef) (inv span : Bool) (sc : Scope) (va : DWord)
    (lane : Nat := 0) : LaneRes :=
  if va.toNat / 2 ^ 56 != 0 then .err (.fault 6 2)
  else
    match s.translate (s.coreOf r) (s.ctxOf r) (s.kernel r) .cache va (some r) lane with
    | .error e => .err e
    | .ok x =>
      let size := if span then 256 else 32
      let first := x.key / size * size
      if s.owned first size ||
          (Scope.crossRdc sc && s.meetHeld r (decide (dieOfCore (s.coreOf r) = 1)) first size) then .hold .room
      else
        let s := if Scope.crossRdc sc then s.drain r first size else s
        let s := s.maintain r inv sc fun j => decide (first ≤ j) && decide (j < first + size)
        .ok (if sc == .system then s.hostOut first size inv else s) [] [] none

/-- `cwb` and `cinv`. -/
def State.maintainAll (s : State) (r : PathRef) (inv : Bool) (a : MAddr) (m : MDesc) : State :=
  s.legalIf r (s.addrOk r a) <|
    (s.sweep r 1 (s.ea r a m.off) fun s l va => s.maintainLane r inv (m.op.getLsbD 0) m.scope va l).finishShort
      r 0 0 false

/-- `cwb` (R264). -/
def execCwb (a : MAddr) (m : MDesc) (s : State) : Res := issued s fun r => s.maintainAll r false a m

/-- `cinv` (R264). -/
def execCinv (a : MAddr) (m : MDesc) (s : State) : Res := issued s fun r => s.maintainAll r true a m

/-! ### Parameter windows (R76, R77, R265) -/

/-- The keys of n bytes at a virtual address of any alignment, and whether their home is die 1. -/
def State.bytesAt (s : State) (r : PathRef) (va : DWord) (lane : Nat) : Nat → Except XErr (List Xlat)
  | 0 => .ok []
  | n + 1 => do
    let x ← s.translate (s.coreOf r) (s.ctxOf r) (s.kernel r) .load va (some r) lane
    let xs ← s.bytesAt r (va + 1) lane n
    .ok (x :: xs)

/-- One byte of a window read, of a given target: pod-shared bytes come from their home (R87, R240), those of a host
window from its SRAM after the path's own stores to it (R76, R77), and an immediate window takes none but its own
accesses (R89). -/
def State.windowByte (s : State) (r : PathRef) (t : Target) (x : Xlat) : State × Byte × Bool :=
  match t with
  | .pod .. | .imm => (s, s.homeByte 0 0 x.key, s.poisoned x.key 1)
  | .window => (s, s.viewByte r x.home x.key, s.poisoned x.key 1)
  | .device | .host =>
    let b := s.bindBytes r x.home x.key 1 false
    (b.1, b.2.1.headD 0, b.2.2)

/-- A window read in bound: as a global load of the team, with no alignment check. -/
def State.windowLane (s : State) (r : PathRef) (n : Nat) (va : DWord) (k : Nat → List RegWrite) (lane : Nat) : LaneRes :=
  match s.bytesAt r va lane n with
  | .error e => .err e
  | .ok xs =>
    let ts := xs.zipIdx.map fun x => (x.1, s.target (s.ctxOf r) (va.toNat + x.2) x.1)
    if ts.any fun x => x.2 == none || x.2 == some .imm then .err (.fault 10 0)
    else if s.arrived && ts.any fun x => (match x.2 with | some (.pod ..) => true | _ => false) then .hold .boundary
    else if xs.any fun x => s.owned x.key 1 || s.meetHeld r x.home x.key 1 then .hold .room
    else
      let s := xs.foldl (fun s x => s.bindMeet r x.key 1) s
      let y := ts.foldl (fun (y : State × List Byte × Bool) x =>
        let b := y.1.windowByte r (x.2.getD .device) x.1
        (b.1, y.2.1 ++ [b.2.1], y.2.2 || b.2.2)) (s, [], false)
      if y.2.2 then .ok y.1 [] [] (some va) else .ok y.1 (k (leNat y.2.1)) [] none

/-- `ldp`: the base register field names a window (R265). -/
def execLdp (d : Byte) (a : MAddr) (m : MDesc) (s : State) : Res :=
  issued s fun r =>
    s.legalIf r (s.dataOk r d m.size && s.addrOk r a) <|
      s.withSlot r fun f =>
        let n := m.size.bytes
        let lanes := s.memLanes r
        let w := (s.gridOf r).record.windows.getD (a.base.toNat % 8) (0, 0)
        let o := fun l => (s.ea r { a with base := 0 } m.off l).toInt
        (s.sweepMem r n (fun l => w.1 + s.ea r { a with base := 0 } m.off l) fun t l va =>
            let k := fun x => s.loadWrites r d m.size (m.op.getLsbD 0) l x
            if 0 ≤ o l ∧ w.2 ≠ 0 ∧ (o l).toNat + n ≤ w.2 then t.windowLane r n va k l
            else .ok (t.addStatus r stPWV) (k 0) [] none).finishLong
          r f 0 0 false (s.group r d m.size.vregs) lanes

/-! ### Atomics -/

/-- Operand x of an atomic (R271). -/
def State.atomOperand (s : State) (r : PathRef) (d : Byte) (z : MSize) (lane : Nat) : Nat := s.storeVal r d z lane

/-- `atm`: short, non-returning (R272). One that acquires is performed at its issue, since nothing of the path that
follows may come before it (R220, R221). -/
def execAtm (d : Byte) (a : MAddr) (m : MDesc) (s : State) : Res :=
  issued s fun r =>
    s.legalIf r (s.dataOk r d m.size && s.addrOk r a) <|
      match AtomOp.ofCode m.op with
      | none => s.illegal r
      | some op =>
        if (s.memLanes r).isEmpty then s.advance r 2
        else
          let sc := s.memScope r .atomic a m
          s.releaseIf r (releases m.order) sc fun s =>
            s.acquire r (acquires m.order) false sc fun s =>
              let n := m.size.bytes
              let base := s.nextSer
              (s.sweepMem r n (s.ea r a m.off) fun s l va =>
                s.atmLane r op n (s.atomOperand r d m.size l) (acquires m.order) (base * 32 + l / 32) va l).finishShort r 2 0 false

/-- A long-latency read-modify-write: its order, then lane by lane at the home (R272 to R274). -/
def State.rmwAll (s : State) (r : PathRef) (a : MAddr) (m : MDesc) (vregs : List Nat)
    (f : Nat → Nat → Option Nat) (k : Nat → Nat → List RegWrite) : State :=
  s.withSlot r fun flag =>
    let lanes := s.memLanes r
    if lanes.isEmpty then s.emptyPend r 2
    else
      let sc := s.memScope r .atomic a m
      s.releaseIf r (releases m.order) sc fun s =>
        s.acquire r (acquires m.order) false sc fun s =>
          (s.sweepMem r m.size.bytes (s.ea r a m.off) fun s l va => s.rmwLane r m.size.bytes va (f l) (k l) l).finishLong
            r flag 2 0 false vregs lanes

/-- `atmr` (R272). -/
def execAtmr (d : Byte) (a : MAddr) (m : MDesc) (s : State) : Res :=
  issued s fun r =>
    s.legalIf r (s.dataOk r d m.size && s.addrOk r a) <|
      match AtomOp.ofCode m.op with
      | none => s.illegal r
      | some op =>
        s.rmwAll r a m (s.group r d m.size.vregs)
          (fun l old => some (atomNew op (8 * m.size.bytes) old (s.atomOperand r d m.size l)))
          fun l old => s.loadWrites r d m.size false l old

/-- `xchg` (R273). -/
def execXchg (d : Byte) (a : MAddr) (m : MDesc) (s : State) : Res :=
  issued s fun r =>
    s.legalIf r (s.dataOk r d m.size && s.addrOk r a) <|
      s.rmwAll r a m (s.group r d m.size.vregs) (fun l _ => some (s.atomOperand r d m.size l))
        fun l old => s.loadWrites r d m.size false l old

/-- Registers of half a compare-and-swap group: vector registers, or uniform ones (R273). -/
def State.casHalf (s : State) (r : PathRef) (z : MSize) : Nat :=
  if (s.team r.tok).uniform then (if z == .b128 then 2 else 1) else z.vregs

/-- A compare-and-swap group is aligned and within the budget (R273). -/
def State.casOk (s : State) (r : PathRef) (d : Byte) (z : MSize) : Bool :=
  let n := 2 * s.casHalf r z
  if (s.team r.tok).uniform then d.extractLsb' 6 2 == 0 && d.toNat % n == 0
  else d.toNat % n == 0 && decide (d.toNat + n ≤ (s.team r.tok).budget)

/-- `cas` and `cas128` (R273, R274). -/
def State.casAll (s : State) (r : PathRef) (d : Byte) (a : MAddr) (m : MDesc) : State :=
  let h := s.casHalf r m.size
  let bits := 8 * m.size.bytes
  s.legalIf r (s.casOk r d m.size && s.addrOk r a) <|
    s.rmwAll r a m (s.group r d (2 * h))
      (fun l old =>
        if old = s.dataGet r d.toNat h l % 2 ^ bits then some (s.dataGet r (d.toNat + h) h l % 2 ^ bits) else none)
      fun l old => s.dataSet r d.toNat h l old

/-- `cas`. -/
def execCas (d : Byte) (a : MAddr) (m : MDesc) (s : State) : Res := issued s fun r => s.casAll r d a m

/-- `cas128`. -/
def execCas128 (d : Byte) (a : MAddr) (m : MDesc) (s : State) : Res := issued s fun r => s.casAll r d a m

/-! ### `marm` (R312) -/

/-- `marm`: read at the home and arm the monitor in one step. Its value comes late (R304). An immediate window refuses it,
since it is none of the accesses that R89 lists (assumption 84). It takes a miss entry of its core (R75). -/
def execMarm (d base : SReg) (m : MDesc) (s : State) : Res :=
  issued s fun r =>
    let n := m.size.bytes
    let va := s.sget r base + m.off.signExtend 64
    let stop := fun (e : XErr) => s.xerr r e va 0 0
    match s.reach r .load n va with
    | .error e => stop e
    | .ok (x, t) =>
      let go := fun (_ : Unit) =>
        if s.owned x.key n || s.meetHeld r x.home x.key n ||
            decide (missEntries ≤ s.missesUsed (s.coreOf r)) then s.waitFor r .room
        else
          s.acquire r (acquires m.order) false m.scope fun s =>
            let s := (((s.bindMeet r x.key n).drainSync r).drain r x.key n).fillHost x.key n
            let s := if s.verOf r = 0 then s.homeSync (s.coreOf r) x.home x.key n else s.useSpans (s.domOf r) (s.verOf r) x.key
            if !(s.path r).live then s
            else if s.poisonedIn (s.domOf r) (s.verOf r) x.key n then
              s.takeStop r { cause := 14, sub := 1, addr := va, loadpc := (s.path r).pc }
            else
              let v := leNat (s.homeBytes (s.domOf r) (s.verOf r) x.key n)
              let s := s.modPath r fun p => { p with monitor := some ⟨flakeOf x.key, false, false⟩ }
              (s.startLate r [.s d (BitVec.ofNat 64 v)]).advance r 2
      match t with
      | .imm => stop (.fault 10 0)
      | .pod .. => if s.arrived then s.waitFor r .boundary else go ()
      | _ => go ()

end Sys2Proof.Machine
end

