-- ==== Sys2Proof/Machine/Issue.lean ====
section
/-! DEFINITION. Taking up a path's next word (R119 to R128, R142, R151 to R155): fetch, the clause
header and its WAIT, the position in the clause, the operations of a `macro` word, the registers an
instruction must wait for, and register errors. -/

namespace Sys2Proof.Machine

/-- What issuing a path comes to: the step is over, or an instruction executes. -/
inductive Taken where
  | over (s : State)
  | run (i : Instr) (s : State)

/-- Fetch the word at an address as the path (R443: instruction fetch needs X; R456: a poisoned
flake; R232: a line an engine command owns is waited for; R466, R488: so is the die-to-die connection; R89: an immediate
window refuses it; R240: pod-shared words are those of the last boundary). The word is read in the team's view, as its
loads are. -/
def State.fetch (s : State) (r : PathRef) (va : DWord) (k : State → Word → Taken) : Taken :=
  match s.translate (s.coreOf r) (s.ctxOf r) (s.kernel r) .fetch va (some r) with
  | .error e => .over (s.xerr r e va 0 3)
  | .ok x =>
    if s.poisonedAt (s.coreOf r) x.home (s.domOf r) (s.verOf r) x.key 4 then
      .over (s.takeStop r { cause := 14, sub := 5, addr := BitVec.ofNat 64 (va.toNat / 32 * 32), detail := 3 })
    else if s.owned x.key 4 || s.loadHeld (s.coreOf r) x.home s.nextSer then .over (s.waitFor r .room)
    else
      match s.target (s.ctxOf r) va.toNat x with
      | none | some .imm => .over (s.xerr r (.fault 10 0) va 0 3)
      | some (.pod ..) =>
        if s.arrived then .over (s.waitFor r .boundary) else k s (wordOfList (s.homeBytes 0 0 x.key 4))
      | some _ =>
        let t := if s.verOf r = 0 then s else s.useSpans (s.domOf r) (s.verOf r) x.key
        k t (wordOfList (s.viewBytes r x.home x.key 4))

/-- Instructions a macro body may hold (R152): of `mdrain`, the register form alone. -/
def macroLegal (w lit : Word) : Bool :=
  let n := (opOf w).toNat
  (decide (0x10 ≤ n) && decide (n ≤ 0x6F) && n != 0x27 && n != 0x4E) || n == 0x70 || n == 0x71 ||
  (decide (0x90 ≤ n) && decide (n ≤ 0x9A) && (n != 0x97 || !lit.getLsbD 6))

/-- A substituted field (R154). -/
def substField (m : MacroRun) (sub : Bool) (q : Byte) : Byte :=
  if sub then (if bit q 7 then m.p1 else m.p0) + (q &&& 0x7F) else q

/-- A stored operation with its parameters in place (R154). -/
def substOp (m : MacroRun) (o : MacroOp) : Word :=
  mkWord (opOf o.w0) (substField m o.subd (dOf o.w0)) (substField m o.suba (aOf o.w0))
    (substField m o.subb (bOf o.w0))

/-- A pending poison of a short result (`lds`, register `mdrain`) that this instruction reads (R248). -/
def readsNote (t : List PoisonNote) (vs : List VReg) (ss : List SReg) : Option PoisonNote :=
  t.find? fun n => n.flag.isNone &&
    ((vs.any fun v => n.vregs.contains v.toNat) || ss.any fun x => n.vregs.contains (256 + x.toNat))

/-- The lanes at which an instruction reads a vector register: its active ones, but for the source lanes of the lane moves,
which are read whether or not they are active (R208). -/
def State.readLanes (s : State) (r : PathRef) (i : Instr) (x : VReg) : List Nat :=
  let t := s.team r.tok
  let act := lanesOf t (s.active r)
  match i with
  | .shfl _ a b =>
    (if x == b then act else []) ++
      (if (eRun (s.ty r) [a]).contains x then act.map fun l => laneFrom t.width (t.vget b l).toNat l else [])
  | .shflx _ _ n mode => act.map fun l => laneFrom t.width (shflSource mode n l) l
  | .bcast _ _ lane =>
    match act, lane with
    | [], _ => []
    | l :: _, none => [l]
    | _, some b => if (t.sget b).toNat < t.width then [(t.sget b).toNat] else []
  | _ => act

/-- The checks between decoding and executing: late values (R63, R304), loads to be bound (R225), register
errors (R455), and poison of a short result (R248). A vector register at or above the budget is illegal
before all of them (R13). That poison and register errors come before the other decode faults of the word is
the model's choice (assumption 69): R142 orders decode faults alone. A load whose destination is read binds
first: the register holds its old value or the new one (R128), and what depends on the load follows it
(R225). -/
def State.ready (s : State) (r : PathRef) (i : Instr) : Taken :=
  let t := s.team r.tok
  let n := names t.uniform (s.ty r) i
  let pending := s.late.any fun l => l.r.tok == r.tok && l.writes.any fun w =>
    match w with
    | .v reg _ _ => (n.vR ++ n.vN).any fun x => x.toNat == reg
    | .s reg _ => (n.sR ++ n.sN).contains reg
  if (n.vR ++ n.vN).any fun x => decide (t.budget ≤ x.toNat) then .run i s
  else if pending || s.regsHeld r n.vR n.sR then .over (s.waitFor r .late)
  else
    let s := s.bindRegs r n.vR n.sR
    let p := s.path r
    if !p.live then .over s else
    match readsNote p.poison n.vR n.sR with
    | some note =>
      .over ((s.modPath r fun p => { p with poison := p.poison.erase note }).takeStop r (poisonStop note))
    | none =>
      let badS := n.sR.find? fun x => x != 0 && t.sErr.contains x.toNat
      let badV := n.vR.find? fun x => (s.readLanes r i x).any fun l => t.vErr.contains (vkey x.toNat l)
      match badS.map BitVec.toNat, badV.map BitVec.toNat with
      | none, none => .run i s
      | x, y =>
        .over ((s.takeStop r { cause := 14, sub := 4 }).logError (s.coreOf r) (some (s.ctxOf r)) (x.getD (y.getD 0)) true)

/-- Decode the words of an instruction and issue it; a decode error is an illegal-instruction stop. -/
def State.issueWords (s : State) (r : PathRef) (w lit : Word) : Taken :=
  match decode w lit with
  | .error _ => .over (s.illegal r)
  | .ok i => s.ready r i

/-- An operation of a `macro` word (R152, R154). -/
def State.issueMacro (s : State) (r : PathRef) (m : MacroRun) (o : MacroOp) : Taken :=
  if macroLegal o.w0 o.w1 then s.issueWords r (substOp m o) o.w1 else .over (s.illegal r)

/-- The word at the path's position in its clause (R122, R142). -/
def State.issueClause (s : State) (r : PathRef) : Taken :=
  let p := s.path r
  s.fetch r p.pc fun s w =>
    if isHeader w then .over (s.illegal r)
    else if wordsOf w = 2 then
      if p.widx + 1 ≤ (headerOf p.hdrWord).len.toNat then
        s.fetch r (p.pc + 4) fun s lit => s.issueWords r w lit
      else .over (s.illegal r)
    else s.issueWords r w 0

/-- The note of poison a WAIT mask names (R248). -/
def waitNote (ns : List PoisonNote) (m : BitVec 12) : Option PoisonNote :=
  ns.find? fun n => match n.flag with
    | some f => m.getLsbD f
    | none => false

/-- Enter a clause at its header: malformed headers, the WAIT, and the poison it observes (R121, R122,
R248). The WAIT acquires at crew scope, at which remote-die copies stay (R229, R234). -/
def State.enterClause (s : State) (r : PathRef) : Taken :=
  let p := s.path r
  s.fetch r p.pc fun s w =>
    if !isHeader w || (headerOf w).malformed then .over (s.illegal r)
    else if p.flags &&& (headerOf w).wait != 0 then .over (s.waitFor r (.flags (headerOf w).wait))
    else
      let s := s.modPath r fun p =>
        { p with inClause := true, hdrAddr := p.pc, hdrWord := w, widx := 0, ll := 0, pc := p.pc + 4 }
      match waitNote p.poison (headerOf w).wait with
      | some n =>
        .over ((s.modPath r fun p => { p with poison := p.poison.erase n }).takeStop r (poisonStop n))
      | none => s.issueClause r

/-- The next word of a path outside a `macro` word. -/
def State.issueNext (s : State) (r : PathRef) : Taken :=
  let p := s.path r
  if p.inClause && decide (p.widx ≤ (headerOf p.hdrWord).len.toNat) then s.issueClause r
  else s.enterClause r

/-- Take up a path's next word: the next operation of a `macro` word (R155), or the word after it. -/
def State.takeUp (s : State) (r : PathRef) : Taken :=
  let p := s.path r
  if !p.live then .over s
  else
    let s := { s.modPath r fun p => { p with wait := .none } with cur := some r }
    match p.mac with
    | some m =>
      match ((s.crewOf r).macros.getD m.num [])[m.idx]? with
      | some o => s.issueMacro r m o
      | none => ((s.modPath r fun p => { p with mac := none }).advance r 1).issueNext r
    | none => s.issueNext r

end Sys2Proof.Machine
end

