-- ==== Sys2Proof/Machine/Scratch.lean ====
section
/-! DEFINITION. Scratchpad accesses (R58 to R63, R258) and the full/empty instructions (R259 to
R261). -/

namespace Sys2Proof.Machine

/-! ### Addresses (R58 to R60) -/

/-- The crews of a path's cluster. -/
def State.clusterCrews (s : State) (c : Crew) : List (Nat × Crew) :=
  s.crews.filter fun x => x.2.grid == c.grid && x.2.cluster == c.cluster

/-- The crew and byte offset a scratchpad address names for a crew, with the checks of R60: malformed
(cause 5) before misaligned (cause 4). -/
def State.spRange (s : State) (me : Nat) (a n align : Nat) : Except XErr (Nat × Nat) :=
  let c := s.crew me
  let idx := a / 2 ^ 24 % 128
  let off := a % 2 ^ 20
  if a / 2 ^ 20 % 16 ≠ 0 then .error (.fault 5 0)
  else
    let target := if a / 2 ^ 31 % 2 = 1 then (s.clusterCrews c).find? fun x => x.2.cidx == idx
      else if idx = 0 then some (me, c) else none
    match target with
    | none => .error (.fault 5 0)
    | some (k, x) =>
      if off + n > x.size then .error (.fault 5 0)
      else if off % align ≠ 0 then .error (.fault 4 0)
      else .ok (k, off)

/-- An access of n bytes, aligned to its size. -/
def State.spAddr (s : State) (me a n : Nat) : Except XErr (Nat × Nat) := s.spRange me a n n

/-- A scratchpad address is cluster-shared. -/
def spShared (va : DWord) : Bool := va.getLsbD 31

/-- Scopes of scratchpad accesses (R219): at least crew, or cluster for a cluster-shared address; at
most cluster. -/
def spScope (shared : Bool) (sc : Scope) : Scope :=
  match shared, sc with
  | true, _ => .cluster
  | false, .team | false, .crew => .crew
  | false, _ => .cluster

/-- The scope of an instruction over its lanes. -/
def State.spScopeOf (s : State) (r : PathRef) (a : MAddr) (m : MDesc) : Scope :=
  spScope ((s.memLanes r).any fun l => spShared (s.ea r a m.off l)) m.scope

/-! ### Bytes, bits and poison -/

def Crew.bytes (c : Crew) (off n : Nat) : Nat := leNat (Store.getList 0 c.scratch off n)

def Crew.put (c : Crew) (off : Nat) (bs : List Byte) : Crew :=
  { c with scratch := Store.setList 0 c.scratch off bs }

/-- The full/empty bit of a word (R62). -/
def Crew.isFull (c : Crew) (off : Nat) : Bool := Store.get false c.full (off / 4)

def Crew.setFull (c : Crew) (off : Nat) (b : Bool) : Crew :=
  { c with full := Store.set false c.full (off / 4) b }

def Crew.spPoisoned (c : Crew) (off n : Nat) : Bool :=
  c.spPoison.any fun w => meets (4 * w) 4 off n

/-- Drop the poison of words that ranges cover whole (R456). -/
def Crew.spMend (c : Crew) (rs : List (Nat × Nat)) : Crew :=
  { c with spPoison := c.spPoison.filter fun w =>
      !((List.range 4).all fun i => rs.any fun x => decide (x.1 ≤ 4 * w + i) && decide (4 * w + i < x.1 + x.2)) }

/-! ### `lds` and `sts` (R258, R63) -/

/-- Destination of a short load in a poison note. -/
def State.noteRegs (s : State) (r : PathRef) (d : Byte) (z : MSize) : List Nat :=
  if (s.team r.tok).uniform then [256 + d.toNat % 64] else s.group r d z.vregs

/-- `lds`: short; the value of another crew's scratchpad comes late (R63). -/
def execLds (d : Byte) (a : MAddr) (m : MDesc) (s : State) : Res :=
  issued s fun r =>
    s.legalIf r (s.dataOk r d m.size && s.addrOk r a) <|
      let n := m.size.bytes
      let me := s.crewNo r
      let lanes := s.memLanes r
      s.acquire r (acquires m.order && !lanes.isEmpty) false (s.spScopeOf r a m) fun s =>
      let ea := fun l => (s.ea r a m.off l).setWidth 32 |>.setWidth 64
      let other := lanes.any fun l => match s.spAddr me (ea l).toNat n with
        | .ok (k, _) => k != me
        | .error _ => false
      (s.sweep r n ea fun s l va =>
          match s.spAddr me va.toNat n with
          | .error e => .err e
          | .ok (k, off) =>
            let c := s.crew k
            if c.spPoisoned off n then .ok s [] [] (some va)
            else .ok s (s.loadWrites r d m.size (m.op.getLsbD 0) l (c.bytes off n)) [] none).finish
        r 0 0 false fun s done ws bad =>
          let note := s.noteFor r none (s.noteRegs r d m.size) done bad 0
          if other then (s.startLate r ws note true).advance r 2
          else
            let s := s.regWrites r.tok ws
            (match note with
             | none => s
             | some x => s.modPath r fun p => { p with poison := p.poison ++ [x] }).advance r 2

/-- The ranges a crew's scratchpad was written in by the lanes a sweep performed. -/
def spRanges (s : State) (me n : Nat) (eas : List Nat) (k : Nat) : List (Nat × Nat) :=
  eas.filterMap fun a => match s.spAddr me a n with
    | .ok (c, off) => if c = k then some (off, n) else none
    | .error _ => none

/-- `sts`. -/
def execSts (d : Byte) (a : MAddr) (m : MDesc) (s : State) : Res :=
  issued s fun r =>
    s.legalIf r (s.dataOk r d m.size && s.addrOk r a) <|
      if (s.memLanes r).isEmpty then s.advance r 2
      else
        s.releaseIf r (releases m.order) (s.spScopeOf r a m) fun s =>
          let n := m.size.bytes
          let me := s.crewNo r
          let ea := fun l => (s.ea r a m.off l).setWidth 32 |>.setWidth 64
          let x := s.sweep r n ea fun t l va =>
            match t.spAddr me va.toNat n with
            | .error e => .err e
            | .ok (k, off) => .ok (t.modCrew k fun c => c.put off (leBytes n (s.storeVal r d m.size l))) [] [] none
          let eas := (lanesOf (s.team r.tok) x.done).map fun l => (ea l).toNat
          let mended := s.crews.foldl (fun t c =>
            if c.2.spPoison.isEmpty then t else t.modCrew c.1 fun y => y.spMend (spRanges s me n eas c.1)) x.s
          ({ x with s := mended } : Sweep).finishShort r 1 0 false

/-! ### Full/empty instructions (R259 to R261) -/

/-- What a full/empty instruction does with a word (Table 4). -/
structure FeRow where
  waits  : Option Bool := none
  reads  : Bool := false
  query  : Bool := false
  writes : Bool := false
  leaves : Option Bool := none

/-- One lane of a full/empty instruction. -/
def State.feLane (s : State) (me : Nat) (row : FeRow) (v : Nat) (va : DWord)
    (k : Nat → List RegWrite) : LaneRes :=
  match s.spAddr me va.toNat 4 with
  | .error e => .err e
  | .ok (n, off) =>
    let c := s.crew n
    if row.waits.any fun b => b != c.isFull off then .hold (.fullEmpty [(n, off, !c.isFull off)])
    else if row.reads && c.spPoisoned off 4 then .ok s [] [] (some va)
    else
      let ws := if row.query then k (c.isFull off).toNat else if row.reads then k (c.bytes off 4) else []
      let c := if row.writes then (c.put off (leBytes 4 v)).spMend [(off, 4)] else c
      let c := match row.leaves with | none => c | some b => c.setFull off b
      .ok (s.setCrew n c) ws [] none

/-- Some full/empty bit differs between two states. -/
def State.bitChanged (s t : State) : Bool := t.crews.any fun c => c.2.full != (s.crew c.1).full

/-- The lanes of a full/empty instruction: one that changes a bit is a release, as one that orders release is, and carries
it before the instruction issues (R220, R260); one that waited, or orders acquire, acquires. -/
def State.feSweep (s : State) (r : PathRef) (d : Byte) (a : MAddr) (m : MDesc) (row : FeRow) (acq : Bool)
    (k : Sweep → State) : State :=
  let sc := s.spScopeOf r a m
  let run := fun (s : State) =>
    s.sweep r 4 (fun l => (s.ea r a m.off l).setWidth 32 |>.setWidth 64) fun t l va =>
      t.feLane (s.crewNo r) row (s.storeVal r d .b32 l) va fun x => s.loadWrites r d .b32 false l x
  s.releaseIf r (releases m.order || s.bitChanged (run s).s) sc fun s => s.acquire r acq false sc fun s => k (run s)

/-- A long-latency full/empty instruction. -/
def State.feLong (s : State) (r : PathRef) (d : Byte) (a : MAddr) (m : MDesc) (row : FeRow) (acq : Bool) : State :=
  s.legalIf r (s.dataOk r d .b32 && s.addrOk r a) <|
    s.withSlot r fun f =>
      let lanes := s.memLanes r
      if lanes.isEmpty then s.emptyPend r 2
      else s.feSweep r d a m row acq fun x => x.finishLong r f 0 0 false (s.group r d 1) lanes

/-- A short full/empty instruction. -/
def State.feShort (s : State) (r : PathRef) (d : Byte) (a : MAddr) (m : MDesc) (row : FeRow) (acq : Bool) : State :=
  s.legalIf r ((!row.writes || s.dataOk r d .b32) && s.addrOk r a) <|
    if (s.memLanes r).isEmpty then s.advance r 2
    else s.feSweep r d a m row acq fun x => x.finishShort r 1 0 false

/-- `ldsf`, and `ldsf.peek` (OP 1). -/
def execLdsf (d : Byte) (a : MAddr) (m : MDesc) (s : State) : Res :=
  issued s fun r =>
    s.feLong r d a m { waits := some true, reads := true, leaves := if m.op.getLsbD 0 then none else some false } true

/-- `ldse`. -/
def execLdse (d : Byte) (a : MAddr) (m : MDesc) (s : State) : Res :=
  issued s fun r => s.feLong r d a m { waits := some false, reads := true } true

/-- `stsf`. -/
def execStsf (d : Byte) (a : MAddr) (m : MDesc) (s : State) : Res :=
  issued s fun r => s.feShort r d a m { waits := some false, writes := true, leaves := some true } true

/-- `stsx`. -/
def execStsx (d : Byte) (a : MAddr) (m : MDesc) (s : State) : Res :=
  issued s fun r => s.feShort r d a m { writes := true, leaves := some true } false

/-- `feclr`. -/
def execFeclr (a : MAddr) (m : MDesc) (s : State) : Res :=
  issued s fun r => s.feShort r 0 a m { leaves := some false } false

/-- `feset`. -/
def execFeset (a : MAddr) (m : MDesc) (s : State) : Res :=
  issued s fun r => s.feShort r 0 a m { leaves := some true } false

/-- `feq`. -/
def execFeq (d : Byte) (a : MAddr) (m : MDesc) (s : State) : Res :=
  issued s fun r => s.feLong r d a m { query := true } (acquires m.order)

end Sys2Proof.Machine
end

