-- ==== Sys2Proof/Machine/Reads.lean ====
section
/-! DEFINITION. Memory as an engine or an instruction's structure reads see it: in the issuing team's
context, domain and version (R109, R299, R321). -/

namespace Sys2Proof.Machine

/-- On whose behalf memory is accessed: a path's, or an engine command's with its serial number. -/
structure View where
  core   : Nat
  ctx    : Nat
  kernel : Bool
  dom    : Nat
  ver    : Nat
  who    : Option PathRef
  eng    : Option Nat
  deriving DecidableEq, Repr

/-- The view of a path. -/
def State.viewOf (s : State) (r : PathRef) : View :=
  ⟨s.coreOf r, s.ctxOf r, s.kernel r, s.domOf r, s.verOf r, some r, none⟩

/-- A read that could not be made: where, and why. -/
inductive RdErr where
  | xlat (e : XErr) (va : DWord)
  | poison (va : DWord)
  /-- It waits: for the boundary (R240), or for a line an engine owns or an atomic of the path in flight. -/
  | wait (w : Wait)
  deriving DecidableEq, Repr

/-- A byte in a view: the path's own stores on their way, then caches or versions. -/
def State.vByte (s : State) (v : View) (home : Bool) (k : Nat) : Byte :=
  let own := match v.who with
    | some r => flightByte s.flight r k
    | none => none
  match own with
  | some b => b
  | none => if v.ver = 0 then s.cachedByte v.core home k else s.homeByte v.dom v.ver k

/-- Translate for a view and find the target. -/
def State.vReach (s : State) (v : View) (acc : Access) (va : DWord) : Except XErr (Xlat × Target) := do
  let x ← s.translate v.core v.ctx v.kernel acc va v.who
  match s.target v.ctx va.toNat x with
  | none => .error (.fault 10 0)
  | some t => .ok (x, t)

/-- Bytes that an engine command owns, other than the one that accesses them or those issued after it (R232). -/
def State.vOwned (s : State) (v : View) (k n : Nat) : Bool :=
  (v.who.isSome || v.eng.isSome) && s.ownedBut v.eng k n

/-- What a read of n bytes waits for: a line that a command owns, the boundary, a crossing to the line's home die, or
an atomic of the reading path that is not performed yet (R224 item 1, R232, R240, R466, R488). -/
def State.vWaits (s : State) (v : View) (t : Target) (home : Bool) (k n : Nat) : Option Wait :=
  match v.who with
  | none => none
  | some r =>
    let pod := match t with | .pod .. => true | _ => false
    if pod && s.arrived then some .boundary
    else if s.vOwned v k n || s.loadHeld v.core home s.nextSer then some .room
    else if v.eng.isNone && (s.syncHeld r || (s.flight.any fun f =>
        f.of r && meets f.key f.size k n && (match f.op with | .atomic .. => true | .write _ => false))) then some .room
    else none

/-- Read n bytes within one page. A load that Table 3 of R256 refuses is refused here. Pod-shared bytes come from
their home (R87). -/
def State.vPiece (s : State) (v : View) (n : Nat) (va : DWord) : Except RdErr (List Byte) :=
  match s.vReach v .load va with
  | .error e => .error (.xlat e va)
  | .ok (x, t) =>
    if t == .imm then .error (.xlat (.fault 10 0) va)
    else
      match s.vWaits v t x.home x.key n with
      | some w => .error (.wait w)
      | none =>
        if s.poisonedAt v.core x.home v.dom v.ver x.key n then .error (.poison va)
        else
          match t with
          | .pod .. => .ok (s.homeBytes 0 0 x.key n)
          | _ => .ok ((List.range n).map fun i => s.vByte v x.home (x.key + i))

/-- Read k pieces of p bytes each, at consecutive addresses aligned to p. -/
def State.vUnits (s : State) (v : View) (p : Nat) : Nat → DWord → Except RdErr (List Nat)
  | 0, _ => .ok []
  | k + 1, va => do
    let b ← s.vPiece v p va
    let rest ← s.vUnits v p k (va + BitVec.ofNat 64 p)
    .ok (leNat b :: rest)

/-- One little-endian value of p bytes. -/
def State.vNat (s : State) (v : View) (p : Nat) (va : DWord) : Except RdErr Nat :=
  (s.vPiece v p va).map leNat

/-- Read n bytes at any address. -/
def State.vBytes (s : State) (v : View) (n : Nat) (va : DWord) : Except RdErr (List Byte) :=
  (s.vUnits v 1 n va).map fun l => l.map fun x => BitVec.ofNat 8 x

/-- A read at issue that failed: a precise stop at the instruction, or a wait for the host. -/
def State.rdErr (s : State) (r : PathRef) (e : RdErr) (lane : Nat := 0) : State :=
  match e with
  | .xlat e va => s.xerr r e va lane 0
  | .wait w => s.waitFor r w
  | .poison va =>
    s.takeStop r { cause := 14, sub := 1, addr := va, lane := lane, done := (s.path r).done,
                   loadpc := (s.path r).pc }

/-- Read at issue and go on, or stop. -/
def State.withRead {α : Type} (s : State) (r : PathRef) (x : Except RdErr α) (k : α → State) : State :=
  match x with
  | .ok a => k a
  | .error e => s.rdErr r e

/-- A read of n bytes at an address uses the versioned copies it resolves through (R83), and recalls what other cores' L1s
hold dirty of its spans (R67). -/
def State.vUse (s : State) (v : View) (va : DWord) (n : Nat) : State :=
  if (s.vspans.isEmpty && s.l1own.isEmpty) || n = 0 then s
  else
    (List.range ((va.toNat + n - 1) / 256 - va.toNat / 256 + 1)).foldl (fun s i =>
      match s.vReach v .load (if i = 0 then va else BitVec.ofNat 64 ((va.toNat / 256 + i) * 256)) with
      | .ok (x, _) => (s.useSpans v.dom v.ver x.key).recallBut v.core (placeKey v.dom v.ver x.key / 256 * 256) 256
      | .error _ => s) s

/-- Reads of some ranges, as `vUse` says. -/
def State.usedAll (s : State) (v : View) (l : List (DWord × Nat)) : State := l.foldl (fun s y => s.vUse v y.1 y.2) s

/-- Read at issue from the ranges named, and go on, or stop. -/
def State.withUsed {α : Type} (s : State) (r : PathRef) (v : View) (at' : List (DWord × Nat)) (x : Except RdErr α)
    (k : State → α → State) : State :=
  s.withRead r x (k (s.usedAll v at'))

/-- The range of a word that is read where its address is not 0. -/
def objRange (obj : DWord) : List (DWord × Nat) := if obj = 0 then [] else [(obj, 8)]

/-- Read k values of p bytes of a structure at issue and go on, or stop. -/
def State.readUnits (s : State) (r : PathRef) (v : View) (p n : Nat) (va : DWord) (k : State → List Nat → State) : State :=
  s.withRead r (s.vUnits v p n va) fun w => k (s.vUse v va (p * n)) w

/-- Bits hi:lo of a number. -/
def bitsOf (x hi lo : Nat) : Nat := x / 2 ^ lo % 2 ^ (hi - lo + 1)

/-- A structure's address must be aligned (R322): a precise alignment fault otherwise. -/
def State.alignedTo (s : State) (r : PathRef) (n : Nat) (va : DWord) (k : State) : State :=
  if va.toNat % n = 0 then k else s.takeStop r { cause := 4, addr := va }

end Sys2Proof.Machine
end

