-- ==== Sys2Proof/Machine/Scalar.lean ====
section
/-! DEFINITION. Uniform scalar instructions (R173 to R183). They execute whatever the mask, read
neither `md` nor flags and set no STATUS; each takes one word but for those of format L. -/

namespace Sys2Proof.Machine

/-- The low n bits of a value as a signed or unsigned integer (R175). -/
def scalarVal (n : Nat) (u : Bool) (x : DWord) : Int := (IFmt.mk n (!u)).val x.toNat

/-- The write of the arithmetic mould: wrapped to n bits, then extended under W (R175). -/
def scalarRes (w u : Bool) (q : Int) : DWord :=
  if w then
    let v : Word := BitVec.ofInt 32 q
    if u then v.setWidth 64 else v.signExtend 64
  else BitVec.ofInt 64 q

/-- One instruction of the arithmetic mould (R174, R175): f is the exact result over integers. -/
def scalarArith (w u : Bool) (d a : SReg) (b : Src2) (f : Nat → Int → Int → Int) (s : State) : Res :=
  issued s fun r =>
    let n := if w then 32 else 64
    let q := f n (scalarVal n u (s.sget r a)) (scalarVal n u (s.src2 r u b))
    (s.sset r d (scalarRes w u q)).advance r 1

/-- A shift of the mould: the count is the whole second operand, unsigned (R175). -/
def scalarShift (w u : Bool) (d a : SReg) (b : Src2) (f : Nat → DWord → Nat → Int) (s : State) : Res :=
  issued s fun r =>
    let n := if w then 32 else 64
    (s.sset r d (scalarRes w u (f n (s.sget r a) (s.shiftCount r b)))).advance r 1

def execSadd (w u : Bool) (d a : SReg) (b : Src2) (s : State) : Res :=
  scalarArith w u d a b (fun _ x y => x + y) s

def execSsub (w u : Bool) (d a : SReg) (b : Src2) (s : State) : Res :=
  scalarArith w u d a b (fun _ x y => x - y) s

def execSmul (w u : Bool) (d a : SReg) (b : Src2) (s : State) : Res :=
  scalarArith w u d a b (fun _ x y => x * y) s

/-- The floor of the product over 2^n. -/
def execSmulh (w u : Bool) (d a : SReg) (b : Src2) (s : State) : Res :=
  scalarArith w u d a b (fun n x y => (x * y).fdiv (2 ^ n)) s

/-- Truncated toward zero; division by zero gives 2^n − 1. -/
def execSdiv (w u : Bool) (d a : SReg) (b : Src2) (s : State) : Res :=
  scalarArith w u d a b (fun n x y => if y = 0 then 2 ^ n - 1 else x.tdiv y) s

/-- The remainder takes the sign of x; by zero gives x. -/
def execSrem (w u : Bool) (d a : SReg) (b : Src2) (s : State) : Res :=
  scalarArith w u d a b (fun _ x y => if y = 0 then x else x - y * x.tdiv y) s

/-- A bitwise instruction of the mould, on the n-bit operands. -/
def scalarBits (w u : Bool) (d a : SReg) (b : Src2) (f : Nat → Nat → Nat) (s : State) : Res :=
  scalarArith w u d a b (fun n x y => (f (IFmt.wrap ⟨n, false⟩ x) (IFmt.wrap ⟨n, false⟩ y) : Nat)) s

def execSand (w u : Bool) (d a : SReg) (b : Src2) (s : State) : Res := scalarBits w u d a b (· &&& ·) s

def execSor (w u : Bool) (d a : SReg) (b : Src2) (s : State) : Res := scalarBits w u d a b (· ||| ·) s

def execSxor (w u : Bool) (d a : SReg) (b : Src2) (s : State) : Res := scalarBits w u d a b (· ^^^ ·) s

/-- x × 2^c, or 0 when c ≥ n. -/
def execSshl (w u : Bool) (d a : SReg) (b : Src2) (s : State) : Res :=
  scalarShift w u d a b (fun n x c => if n ≤ c then 0 else scalarVal n true x * 2 ^ c) s

/-- x unsigned over 2^c, or 0 when c ≥ n. -/
def execSshr (w u : Bool) (d a : SReg) (b : Src2) (s : State) : Res :=
  scalarShift w u d a b (fun n x c => if n ≤ c then 0 else (scalarVal n true x).fdiv (2 ^ c)) s

/-- x signed over 2^c; its sign when c ≥ n. -/
def execSsra (w u : Bool) (d a : SReg) (b : Src2) (s : State) : Res :=
  scalarShift w u d a b (fun n x c =>
    let v := scalarVal n false x
    if n ≤ c then (if v < 0 then -1 else 0) else v.fdiv (2 ^ c)) s

def execSmin (w u : Bool) (d a : SReg) (b : Src2) (s : State) : Res :=
  scalarArith w u d a b (fun _ x y => if x ≤ y then x else y) s

def execSmax (w u : Bool) (d a : SReg) (b : Src2) (s : State) : Res :=
  scalarArith w u d a b (fun _ x y => if x ≤ y then y else x) s

/-- `scmp` (R176): every bit of p[d] below TWIDTH takes the result. -/
def execScmp (c : Cond) (p : PReg) (u : Bool) (a : SReg) (b : Src2) (s : State) : Res :=
  issued s fun r =>
    let o := cmpInt (scalarVal 64 u (s.sget r a)) (scalarVal 64 u (s.src2 r u b))
    (s.pset r p (if condHolds c (some o) then ~~~ (0 : Mask) else 0)).advance r 1

/-- Some lane of `xm`, or every lane, has its bit set (R158, R177). -/
def State.anyLane (s : State) (r : PathRef) (p : PReg) : Bool := (s.path r).xm &&& s.pget r p != 0
def State.everyLane (s : State) (r : PathRef) (p : PReg) : Bool :=
  (s.path r).xm &&& s.pget r p == (s.path r).xm

/-- `ssel` (R177). -/
def execSsel (d a b : SReg) (p : PReg) (all : Bool) (s : State) : Res :=
  issued s fun r =>
    let c := if all then s.everyLane r p else s.anyLane r p
    (s.sset r d (if c then s.sget r a else s.sget r b)).advance r 2

/-- `smov` (R178). -/
def execSmov (d a : SReg) (s : State) : Res :=
  issued s fun r => (s.sset r d (s.sget r a)).advance r 1

/-- `sli` (R178). -/
def execSli (d : SReg) (md : SliMode) (lit : Word) (s : State) : Res :=
  issued s fun r =>
    let v : DWord := match md with
      | .zx => lit.setWidth 64
      | .sx => lit.signExtend 64
      | .hi => lit ++ (s.sget r d).extractLsb' 0 32
    (s.sset r d v).advance r 2

/-- The scale of `slea`, by its code: 1, 4, 8 or 16 (R179). -/
def leaShift (k : BitVec 2) : Nat := if k = 0 then 0 else k.toNat + 1

/-- `slea` (R179). -/
def execSlea (d a b : SReg) (k : BitVec 2) (s : State) : Res :=
  issued s fun r => (s.sset r d (s.sget r a + (s.sget r b <<< leaShift k))).advance r 1

/-- `sbfe` (R180): bits beyond bit 63 read as zero. -/
def execSbfe (d a : SReg) (pos : BitVec 6) (len : BitVec 7) (sx : Bool) (s : State) : Res :=
  issued s fun r =>
    let v := (s.sget r a).toNat / 2 ^ pos.toNat % 2 ^ len.toNat
    let q := (IFmt.mk len.toNat sx).val v
    (s.sset r d (BitVec.ofInt 64 q)).advance r 2

/-- Replace len bits at pos of an n-bit value (R180, R191). -/
def insertBits (n pos len old new : Nat) : Nat :=
  let m := (2 ^ len - 1) * 2 ^ pos % 2 ^ n
  (old &&& (2 ^ n - 1 - m)) ||| (new * 2 ^ pos &&& m)

/-- `sbfi` (R180). -/
def execSbfi (d a : SReg) (pos : BitVec 6) (len : BitVec 7) (s : State) : Res :=
  issued s fun r =>
    let v := insertBits 64 pos.toNat len.toNat (s.sget r d).toNat (s.sget r a).toNat
    (s.sset r d (BitVec.ofNat 64 v)).advance r 2

/-- A bit operation over n bits (R181, R192). -/
def bitOp (op : BitOp) (n x : Nat) : Nat :=
  let bits := (List.range n).map fun i => x.testBit i
  match op with
  | .cnt => bits.countP id
  | .clz => (bits.reverse.takeWhile (!·)).length
  | .ctz => (bits.takeWhile (!·)).length
  | .rev => packElems 1 (bits.reverse.map Bool.toNat)
  | .bswap => packElems 8 (((List.range (n / 8)).map fun i => x / 2 ^ (8 * i) % 256).reverse)

/-- `sbit` (R181). -/
def execSbit (op : BitOp) (w : Bool) (d a : SReg) (s : State) : Res :=
  issued s fun r =>
    let n := if w then 32 else 64
    (s.sset r d (BitVec.ofNat 64 (bitOp op n ((s.sget r a).toNat % 2 ^ n)))).advance r 1

/-- The execute-mask summary (R15). -/
def xmSum (xm : Mask) : Nat :=
  packElems 1 ((List.range 32).map fun i => (xm.extractLsb' (32 * i) 32 != 0).toNat)

/-- Role codes (R23). -/
def roleCode : Role → Nat
  | .work => 0 | .drain => 1 | .feed => 2 | .matrix => 3

/-- CTAG (R143): held tags with commands incomplete. -/
def State.ctag (s : State) (crew : Nat) : Nat :=
  packElems 1 ((List.range 64).map fun i =>
    ((s.crew crew).tags.getLsbD i && s.engines.any fun e => e.crew == crew && e.tag == i && !e.clear).toNat)

/-- The value of a special register (R45, R143, R144). -/
def State.special (s : State) (r : PathRef) : Special → Nat
  | .team => (s.team r.tok).num
  | .path => r.path.toNat
  | .twidth => (s.team r.tok).width
  | .crewx => (s.crewOf r).x
  | .crewy => (s.crewOf r).y
  | .crewz => (s.crewOf r).z
  | .gridx => (s.gridOf r).record.gx
  | .gridy => (s.gridOf r).record.gy
  | .gridz => (s.gridOf r).record.gz
  | .cluster => (s.crewOf r).cluster
  | .core => s.coreOf r % 288
  | .die => dieOfCore (s.coreOf r)
  | .grid => (s.crewOf r).grid
  | .domain => s.domOf r
  | .version => s.verOf r
  | .step => s.stepNo
  | .tsc => s.tsc
  | .cyc => (s.die (decide (dieOfCore (s.coreOf r) = 1))).cyc
  | .scc => (s.die (decide (dieOfCore (s.coreOf r) = 1))).scc / 2 ^ 16
  | .xmsum => xmSum (s.path r).xm
  | .status => (s.path r).status.toNat
  | .mode => (s.path r).md.toNat
  | .ctag => s.ctag (s.crewNo r)
  | .flags => (s.path r).flags.toNat
  | .device => s.rank
  | .grace => (s.team r.tok).grace
  | .role => roleCode (s.team r.tok).role

/-- `sr` (R182). -/
def execSr (d : SReg) (sel : Special) (s : State) : Res :=
  issued s fun r => (s.sset r d (BitVec.ofNat 64 (s.special r sel))).advance r 1

/-- Write `md`: a reserved value is an illegal-instruction stop with `md` unchanged (R137). -/
def State.writeMd (s : State) (r : PathRef) (x : DWord) : State :=
  let md := x.extractLsb' 0 24
  s.legalIf r (x.extractLsb' 24 40 == 0 && mdLegal md) ((s.modPath r fun p => { p with md := md }).advance r 1)

/-- `sw` (R183): STATUS is write-1-to-clear; MODE is written whole. -/
def execSw (sel : Special) (a : SReg) (s : State) : Res :=
  issued s fun r =>
    let x := s.sget r a
    if sel = .status then
      (s.modPath r fun p => { p with status := p.status &&& ~~~ (x.extractLsb' 0 7) }).advance r 1
    else if sel = .mode then s.writeMd r x
    else s.illegal r

/-- `mode` (R214). -/
def execMode (m : BitVec 24) (s : State) : Res := issued s fun r => s.writeMd r (m.setWidth 64)

/-- `modes` (R214). -/
def execModes (a : SReg) (s : State) : Res := issued s fun r => s.writeMd r (s.sget r a)

end Sys2Proof.Machine
end

