-- ==== Sys2Proof/Machine/VInt.lean ====
section
/-! DEFINITION. Vector integer, select and move instructions (R190 to R195). -/

namespace Sys2Proof.Machine

/-- A binary integer instruction (R190): the exact result of two elements, then wrapped or clamped. -/
def intBinary (d a b : VReg) (f : ElemType → Int → Int → Int) (s : State) : Res :=
  issued s fun r => s.elementwise r ElemType.isInt d [a, b] 1 fun t l j =>
    let ty := s.ty r
    ty.ifmt.narrow (s.sat r)
      (f ty (ty.ifmt.val (elemAt ty (t.eget ty a l) j)) (ty.ifmt.val (elemAt ty (t.eget ty b l) j)))

/-- A unary integer instruction. -/
def intUnary (d a : VReg) (f : ElemType → Int → Int) (s : State) : Res :=
  issued s fun r => s.elementwise r ElemType.isInt d [a] 1 fun t l j =>
    let ty := s.ty r
    ty.ifmt.narrow (s.sat r) (f ty (ty.ifmt.val (elemAt ty (t.eget ty a l) j)))

def execAdd (d a b : VReg) (s : State) : Res := intBinary d a b (fun _ x y => x + y) s
def execSub (d a b : VReg) (s : State) : Res := intBinary d a b (fun _ x y => x - y) s
def execMul (d a b : VReg) (s : State) : Res := intBinary d a b (fun _ x y => x * y) s

/-- The high half of the product; SAT ignored. -/
def execMulh (d a b : VReg) (s : State) : Res :=
  issued s fun r => s.elementwise r ElemType.isInt d [a, b] 1 fun t l j =>
    let ty := s.ty r
    let q := ty.ifmt.val (elemAt ty (t.eget ty a l) j) * ty.ifmt.val (elemAt ty (t.eget ty b l) j)
    (ty.ifmt.wrap (q.fdiv (2 ^ ty.width)), 0)

/-- x × y + z with one clamp or wrap of the exact value. -/
def execMad (d a b : VReg) (s : State) : Res :=
  issued s fun r => s.elementwise r ElemType.isInt d [a, b] 1 fun t l j =>
    let ty := s.ty r
    let v := fun x => ty.ifmt.val (elemAt ty (t.eget ty x l) j)
    ty.ifmt.narrow (s.sat r) (v a * v b + v d)

def execMin (d a b : VReg) (s : State) : Res := intBinary d a b (fun _ x y => if x ≤ y then x else y) s
def execMax (d a b : VReg) (s : State) : Res := intBinary d a b (fun _ x y => if x ≤ y then y else x) s
def execAbs (d a : VReg) (s : State) : Res := intUnary d a (fun _ x => (x.natAbs : Int)) s
def execNeg (d a : VReg) (s : State) : Res := intUnary d a (fun _ x => -x) s

/-- A bitwise instruction over the whole register or pair, in every TYPE. -/
def vecBits (d : VReg) (srcs : List VReg) (f : Team → ElemType → Nat → Nat) (s : State) : Res :=
  issued s fun r =>
    let ty := s.ty r
    s.legalIf r (s.eOk r ty (d :: srcs)) <|
      (s.mapLanes r fun t l => (eWrites ty d l (f t ty l), 0)).advance r 1

def execAnd (d a b : VReg) (s : State) : Res :=
  vecBits d [a, b] (fun t ty l => t.eget ty a l &&& t.eget ty b l) s
def execOr (d a b : VReg) (s : State) : Res :=
  vecBits d [a, b] (fun t ty l => t.eget ty a l ||| t.eget ty b l) s
def execXor (d a b : VReg) (s : State) : Res :=
  vecBits d [a, b] (fun t ty l => t.eget ty a l ^^^ t.eget ty b l) s
def execNot (d a : VReg) (s : State) : Res :=
  vecBits d [a] (fun t ty l => 2 ^ 64 - 1 - t.eget ty a l) s

/-- A shift or rotation (R190): c is element j of v[b], or the low register of the pair; SAT
ignored. The count register of a pair type is a single register (R185). -/
def vecShift (d a b : VReg) (f : Nat → Nat → Nat → Int) (s : State) : Res :=
  issued s fun r =>
    let ty := s.ty r
    s.legalIf r (ty.isInt && s.eOk r ty [d, a] && s.vOk r [b]) <|
      (s.mapLanes r fun t l =>
        let x := elems ty fun j =>
          let c := if ty.pair then (t.vget b l).toNat else elemAt ty (t.vget b l).toNat j
          (ty.ifmt.wrap (f ty.width (elemAt ty (t.eget ty a l) j) c), 0)
        (eWrites ty d l x.1, 0)).advance r 1

def execShl (d a b : VReg) (s : State) : Res :=
  vecShift d a b (fun w x c => if w ≤ c then 0 else ((x * 2 ^ c : Nat) : Int)) s
def execShr (d a b : VReg) (s : State) : Res :=
  vecShift d a b (fun w x c => if w ≤ c then 0 else ((x / 2 ^ c : Nat) : Int)) s
def execSra (d a b : VReg) (s : State) : Res :=
  vecShift d a b (fun w x c =>
    let v := (IFmt.mk w true).val x
    if w ≤ c then (if v < 0 then -1 else 0) else v.fdiv (2 ^ c)) s
def execRot (d a b : VReg) (s : State) : Res :=
  vecShift d a b (fun w x c => ((x * 2 ^ (c % w) + x / 2 ^ (w - c % w) : Nat) : Int)) s

/-- TYPE i32 or n32 (R191, R192). -/
def ElemType.is32 : ElemType → Bool
  | .i32 | .n32 => true
  | _ => false

/-- `bfe` (R191). -/
def execBfe (d a : VReg) (pos : BitVec 5) (len : BitVec 6) (s : State) : Res :=
  issued s fun r => s.elementwise r ElemType.is32 d [a] 2 fun t l _ =>
    let v := (t.vget a l).toNat / 2 ^ pos.toNat % 2 ^ len.toNat
    ((IFmt.mk 32 false).wrap ((IFmt.mk len.toNat (s.ty r == .i32)).val v), 0)

/-- `bfi` (R191). -/
def execBfi (d a : VReg) (pos : BitVec 5) (len : BitVec 6) (s : State) : Res :=
  issued s fun r => s.elementwise r ElemType.is32 d [a] 2 fun t l _ =>
    (insertBits 32 pos.toNat len.toNat (t.vget d l).toNat (t.vget a l).toNat, 0)

/-- `bcnt` (R192). -/
def execBcnt (op : BitOp) (d a : VReg) (s : State) : Res :=
  issued s fun r => s.elementwise r ElemType.is32 d [a] 1 fun t l _ =>
    (bitOp op 32 (t.vget a l).toNat, 0)

/-- Write the bits of active lanes of a mask register (R186). -/
def State.writeLanes (s : State) (r : PathRef) (p : PReg) (m bits : Mask) : State :=
  s.pset r p ((s.pget r p &&& ~~~ m) ||| (bits &&& m))

/-- The mask of the lanes a test holds for. -/
def maskOf (lanes : List Nat) (f : Nat → Bool) : Mask :=
  lanes.foldl (fun m l => if f l then m ||| laneBit l else m) 0

/-- `cmp` (R193). -/
def execCmp (c : Cond) (p : PReg) (a b : VReg) (s : State) : Res :=
  issued s fun r =>
    let ty := s.ty r
    let t := s.team r.tok
    s.legalIf r ((ty.is32 || ty.pair) && s.eOk r ty [a, b]) <|
      (s.writeLanes r p (s.active r) (maskOf (lanesOf t (s.active r)) fun l =>
        condHolds c (some (cmpInt (ty.ifmt.val (t.eget ty a l)) (ty.ifmt.val (t.eget ty b l)))))).advance r 1

/-- `sel` (R194). -/
def execSel (d a b : VReg) (p : PReg) (neg : Bool) (s : State) : Res :=
  issued s fun r =>
    let ty := s.ty r
    s.legalIf r (s.eOk r ty [d, a, b]) <|
      (s.mapLanes r fun t l =>
        (eWrites ty d l (t.eget ty (if (t.pget p).getLsbD l != neg then a else b) l), 0)).advance r 2

/-- `mov` (R195). -/
def execMov (d a : VReg) (s : State) : Res :=
  issued s fun r =>
    let ty := s.ty r
    s.legalIf r (s.eOk r ty [d, a]) <|
      (s.mapLanes r fun t l => (eWrites ty d l (t.eget ty a l), 0)).advance r 1

/-- `movs` (R195): under 64-bit types HI must be 0. -/
def execMovs (d : VReg) (hi : Bool) (a : SReg) (s : State) : Res :=
  issued s fun r =>
    let ty := s.ty r
    let x := (s.sget r a).toNat
    s.legalIf r (s.eOk r ty [d] && !(ty.pair && hi)) <|
      (s.mapLanes r fun _ l => (eWrites ty d l (if hi then x / 2 ^ 32 else x), 0)).advance r 1

/-- `li` (R195). -/
def execLi (d : VReg) (lit : Word) (s : State) : Res :=
  issued s fun r =>
    let ty := s.ty r
    let x := if ty == .i64 then (lit.signExtend 64).toNat else lit.toNat
    s.legalIf r (s.eOk r ty [d]) <|
      (s.mapLanes r fun _ l => (eWrites ty d l x, 0)).advance r 2

/-- `lid` (R195): one register, whatever the TYPE (R185). -/
def execLid (d : VReg) (s : State) : Res :=
  issued s fun r =>
    s.legalIf r (s.vOk r [d]) <|
      (s.mapLanes r fun _ l => ([.v d.toNat l (BitVec.ofNat 32 l)], 0)).advance r 1

end Sys2Proof.Machine
end

