-- ==== Sys2Proof/Machine/Matrix.lean ====
section
/-! DEFINITION. The matrix array and the tile store (R64, R108 to R114, R276 to R303): handles, the
array queue, multiplies, cooperative tiles and drains. -/

namespace Sys2Proof.Machine

/-! ### Ownership and handles (R276, R279, R280) -/

/-- The issuing crew holds the core's matrix role. -/
def State.ownsArray (s : State) (r : PathRef) : Bool := (s.crewOf r).matrix

/-- The issuing team has the matrix role. -/
def State.matrixTeam (s : State) (r : PathRef) : Bool := s.ownsArray r && (s.team r.tok).role == .matrix

/-- The generation of a slot. -/
def CoreSt.gen (c : CoreSt) (slot : Nat) : Nat := Store.get 0 c.gens slot

/-- The slot of a live handle (R279). -/
def CoreSt.handle (c : CoreSt) (h : Word) : Option Nat :=
  let slot := h.toNat % 32
  if h.toNat / 2 ^ 16 = 0 ∧ bitsOf h.toNat 7 5 = 0 ∧ c.claimed.getLsbD slot = true ∧
      c.ending.getLsbD slot = false ∧ bitsOf h.toNat 15 8 = c.gen slot then some slot
  else none

/-- The low half of a uniform register, as a handle. -/
def State.lowHalf (s : State) (r : PathRef) (a : SReg) : Word := (s.sget r a).setWidth 32

/-- Check a handle at issue: a tile fault HANDLE otherwise (R280). -/
def State.withHandle (s : State) (r : PathRef) (h : Word) (k : Nat → State) : State :=
  match (s.coreSt (s.coreOf r)).handle h with
  | some slot => k slot
  | none => s.takeStop r { cause := 16, sub := 1 }

/-! ### Slots (R284) -/

/-- The key of a byte of a slot. -/
def slotKeyOf (slot off : Nat) : Nat := slot * 8192 + off

def CoreSt.slotBytes (c : CoreSt) (slot off n : Nat) : List Byte := Store.getList 0 c.slots (slotKeyOf slot off) n

def CoreSt.slotPut (c : CoreSt) (slot off : Nat) (bs : List Byte) : CoreSt :=
  { c with slots := Store.setList 0 c.slots (slotKeyOf slot off) bs }

/-- The 8-byte units of a slot that are in error, as slot × 1,024 + unit. -/
def CoreSt.slotBad (c : CoreSt) (slot off n : Nat) : Bool :=
  c.slotPoison.any fun u => u / 1024 == slot && meets (u % 1024 * 8) 8 off n

/-- Drop the error marks of units that a write covers. -/
def CoreSt.slotMend (c : CoreSt) (slot off n : Nat) : CoreSt :=
  { c with slotPoison := c.slotPoison.filter fun u =>
      !(u / 1024 == slot && decide (off ≤ u % 1024 * 8) && decide (u % 1024 * 8 + 8 ≤ off + n)) }

/-- Mark the units of a range. -/
def CoreSt.slotSpoil (c : CoreSt) (slot off n : Nat) : CoreSt :=
  let us := (List.range ((off + n + 7) / 8 - off / 8)).map fun i => slot * 1024 + off / 8 + i
  { c with slotPoison := c.slotPoison ++ us.filter fun u => !c.slotPoison.contains u }

/-- A command names a slot: a tile destination of its snapshot (R286). -/
def EngKind.names (k : EngKind) (slot : Nat) : Bool :=
  let tile := fun (d : Nat) (dst : DWord) => d == 2 && dst.toNat / 2 ^ 32 % 32 == slot
  match k with
  | .chain es => es.any fun e => match e with
      | .copy _ d _ _ _ dst => tile d dst
      | .strided _ d _ _ _ _ dst _ _ => tile d dst
      | _ => false
  | .indexed d => !d.scat && tile d.dkind d.lin
  | _ => false

/-- A slot is free: not claimed, or its `trel` has executed and every copy that names it and was
issued before has completed (R286). -/
def State.slotFree (s : State) (core slot : Nat) : Bool :=
  let c := s.coreSt core
  if !c.claimed.getLsbD slot then true
  else
    let n := Store.get 0 c.ended slot
    n != 0 && !(s.engines.any fun e => e.core == core && decide (e.serial < n) && e.kind.names slot)

/-! ### The array queue (R281) -/

/-- Queue an operation and go on; with the queue full the path waits at issue. -/
def State.enqueue (s : State) (r : PathRef) (words : Nat) (op : ArrayOp) (f : CoreSt → CoreSt := id) : State :=
  let core := s.coreOf r
  if 8 ≤ (s.coreSt core).queue.length then s.waitFor r .room
  else
    let old := s.cores.flatMap fun c => c.2.racing.map fun x => (c.1, x.2)
    let s := s.modCore core fun c => { f c with queue := c.queue ++ [⟨r, s.nextSer, op, old⟩] }
    ({ s with nextSer := s.nextSer + 1 } : State).advance r words

/-- `tclaim` (R285). -/
def execTclaim (d : SReg) (s : State) : Res :=
  issued s fun r =>
    s.legalIf r (s.ownsArray r) <|
      let core := s.coreOf r
      match (List.range 32).find? fun i => s.slotFree core i with
      | none => (s.sset r d 0x80000000).advance r 1
      | some i =>
        let g := ((s.coreSt core).gen i + 1) % 256
        let bit' := BitVec.ofNat 32 (2 ^ i)
        let s := s.modCore core fun c =>
          { c with claimed := c.claimed ||| bit', ending := c.ending &&& ~~~ bit',
                   ended := Store.set 0 c.ended i 0, gens := Store.set 0 c.gens i g }
        (s.sset r d (BitVec.ofNat 64 (g * 256 + i))).advance r 1

/-- `trel` (R286): the handle ends at issue. -/
def execTrel (a : SReg) (s : State) : Res :=
  issued s fun r =>
    s.legalIf r (s.ownsArray r) <|
      s.withHandle r (s.lowHalf r a) fun slot =>
        s.enqueue r 1 (.trel slot) fun c => { c with ending := c.ending ||| BitVec.ofNat 32 (2 ^ slot) }

/-- `tld` (R287): the source range is checked at issue. -/
def execTld (a b : SReg) (first cnt : BitVec 7) (off : BitVec 16) (s : State) : Res :=
  issued s fun r =>
    let n := cnt.toNat + 1
    s.legalIf r (s.ownsArray r && decide (first.toNat + n ≤ 64)) <|
      s.withHandle r (s.lowHalf r a) fun slot =>
        let src := (s.sget r b + off.signExtend 64).toNat % 2 ^ 32
        match s.spRange (s.crewNo r) src (128 * n) 16 with
        | .error e => s.xerr r e (BitVec.ofNat 64 src) 0 0
        | .ok (crew, o) => s.enqueue r 2 (.tld slot first.toNat n crew o)

/-- `tfmt` (R290). That a broken R52 in either address comes before a misalignment is the model's choice
(assumption 75). -/
def execTfmt (a b : SReg) (s : State) : Res :=
  issued s fun r =>
    s.legalIf r (s.matrixTeam r) <|
      let x := s.sget r a
      let y := s.sget r b
      let bad := fun (v : DWord) => decide (v.toNat / 2 ^ 56 ≠ 0)
      let mis := fun (v : DWord) => decide (v.toNat % 32 ≠ 0)
      if bad x || bad y then s.takeStop r { cause := 6, sub := 2, addr := if bad x then x else y }
      else if mis x || mis y then s.takeStop r { cause := 4, addr := if mis x then x else y }
      else (s.modCore (s.coreOf r) fun c => { c with fa := some x, fb := some y }).advance r 1

/-- `mclr` (R295). -/
def execMclr (banks : BitVec 2) (s : State) : Res :=
  issued s fun r => s.legalIf r (s.matrixTeam r && banks != 0) (s.enqueue r 1 (.mclr banks))

/-- `tzero` (R288). -/
def execTzero (a : SReg) (s : State) : Res :=
  issued s fun r =>
    s.legalIf r (s.ownsArray r) <| s.withHandle r (s.lowHalf r a) fun slot => s.enqueue r 1 (.tzero slot)

/-- `ttrans` (R289). -/
def execTtrans (d a : SReg) (two : Bool) (s : State) : Res :=
  issued s fun r =>
    s.legalIf r (s.ownsArray r) <|
      s.withHandle r (s.lowHalf r d) fun x =>
        s.withHandle r (s.lowHalf r a) fun y => s.enqueue r 1 (.ttrans x y two)

/-! ### Format blocks (R108, R109, R284) -/

/-- The fields of a block's eight words. -/
def fmtBlockOf (w : List Nat) : FmtBlock :=
  let w0 := w.getD 0 0
  ⟨bitsOf w0 3 0, bitsOf w0 5 4, bitsOf w0 7 6, bitsOf w0 9 8, bitsOf w0 11 10, w.getD 1 0, w.getD 2 0,
    BitVec.ofNat 64 (w.getD 4 0 + 2 ^ 32 * w.getD 5 0), BitVec.ofNat 64 (w.getD 6 0 + 2 ^ 32 * w.getD 7 0)⟩

/-- Bytes of a scale: f32, bf16 or an int8 exponent. -/
def FmtBlock.scaleSize (f : FmtBlock) : Nat := if f.sfmt = 0 then 4 else if f.sfmt = 1 then 2 else 1

/-- A block is valid (R109, and R284 for INT4). -/
def fmtValid (w : List Nat) : Bool :=
  let f := fmtBlockOf w
  let int4 := f.elem == 7
  bitsOf (w.getD 0 0) 31 12 == 0 && w.getD 3 0 == 0 &&
  decide (f.elem ≤ 7) && decide (f.layout ≤ 1) && f.skind != 3 && f.sfmt != 3 && f.group != 3 &&
  !(f.skind == 1 && (f.elem == 5 || f.elem == 6)) &&
  (f.sfmt == 2) == (f.elem == 4 && f.skind == 1) &&
  (!int4 || (f.skind == 1 && f.sfmt == 1 && f.layout == 0)) &&
  (f.skind == 1 || (f.group == 0 && f.sstride == 0)) &&
  (int4 || (f.zstride == 0 && f.zaddr == 0)) &&
  (if f.skind = 0 then f.saddr == 0
   else f.saddr.toNat % f.scaleSize == 0 && f.saddr.toNat / 2 ^ 56 == 0) &&
  f.zaddr.toNat % 4 == 0 && f.zaddr.toNat / 2 ^ 56 == 0

/-- k positions of a slot (Table 3). -/
def FmtBlock.kslot (f : FmtBlock) : Nat := if f.elem ≤ 1 then 64 else if f.elem = 7 then 256 else 128

/-- The rate of an operand pair (Table 11): none if it is not listed, else whether it is double. -/
def pairRate (a b : FmtBlock) : Option Bool :=
  let flt := fun (e : Nat) => decide (e ≤ 3)
  let fi := fun (e : Nat) => decide (e ≤ 3) || e == 7
  let ints := fun (e : Nat) => e == 5 || e == 6
  if fi a.elem && fi b.elem then some false
  else if (a.elem == 4 && flt b.elem) || (b.elem == 4 && flt a.elem) then some true
  else if ints a.elem && ints b.elem then some true
  else none

/-- The group length G along k. -/
def FmtBlock.groupLen (f : FmtBlock) : Nat := 32 * 2 ^ f.group

/-- The key of a scale or zero point of a row and group. -/
def scaleKey (row g : Nat) : Nat := row * 16 + g

/-- Read the scales of some rows, for klen positions (R110). -/
def State.readScales (s : State) (v : View) (f : FmtBlock) (rows : List Nat) (klen : Nat) :
    Except RdErr (Store (BitVec 32)) :=
  if f.skind ≠ 1 then .ok []
  else
    let gs := List.range ((klen + f.groupLen - 1) / f.groupLen)
    (rows.flatMap fun row => gs.map fun g => (row, g)).foldlM (fun acc x => do
      let va := f.saddr + BitVec.ofNat 64 (x.1 * f.sstride + x.2 * f.scaleSize)
      let b ← s.vBytes v f.scaleSize va
      .ok (Store.set 0 acc (scaleKey x.1 x.2) (BitVec.ofNat 32 (leNat b)))) []

/-- Read the zero points of some rows (R98). -/
def State.readZeros (s : State) (v : View) (f : FmtBlock) (rows : List Nat) (klen : Nat) :
    Except RdErr (Store (BitVec 4)) :=
  if f.elem ≠ 7 then .ok []
  else
    let gs := List.range ((klen + f.groupLen - 1) / f.groupLen)
    (rows.flatMap fun row => gs.map fun g => (row, g)).foldlM (fun acc x => do
      let w ← s.vBytes v 4 (f.zaddr + BitVec.ofNat 64 (x.1 * f.zstride + x.2 / 8 * 4))
      .ok (Store.set 0 acc (scaleKey x.1 x.2) (BitVec.ofNat 4 (leNat w / 2 ^ (4 * (x.2 % 8)))))) []

/-! ### Issue checks of a multiply (R292) -/

/-- A check that failed: a stop, or a read that failed. -/
inductive MulErr where
  | stop (cause sub : Nat)
  | read (e : RdErr)

/-- The handles a multiply uses: the cores and slots, and whether B1 is present. -/
structure MulSlots where
  coreA : Nat
  slotA : Nat
  coreB : Nat
  slotB0 : Nat

/-- The B1 slot at double rate: none where the handle has NONE (R290, R292 item 4), whatever its other bits: that
R292 goes before the zero bits of R280 there is the model's choice (assumption 76). Another participant's
handle is checked by its owner. -/
def CoreSt.b1 (c : CoreSt) (double use : Bool) (h : Word) : Except MulErr (Option Nat) :=
  if !double || h.getLsbD 31 then .ok none
  else if !use then .ok (some 0)
  else match c.handle h with
    | some i => .ok (some i)
    | none => .error (.stop 16 1)

/-- The handle of A or B0, where this instruction's own is used (R292 item 2, R297). -/
def CoreSt.own (c : CoreSt) (use : Bool) (h : Word) : Except MulErr Nat :=
  if !use then .ok 0 else match c.handle h with
    | some i => .ok i
    | none => .error (.stop 16 1)

/-- Read both format blocks at the addresses the registers hold. -/
def State.readFmt (s : State) (v : View) (a : Option DWord) : Except MulErr (List Nat) :=
  match a with
  | none => .error (.stop 17 0)
  | some va => (s.vUnits v 4 8 va).mapError .read

/-- The checks of R292 in order, and the snapshot of a multiply. In a cooperative tile only the handles
that this participant provides are checked (R297). -/
def State.mulCheck (s : State) (r : PathRef) (ha hb hb1 : Word) (useA useB : Bool) (klen : Nat) (zero : Bool) :
    Except MulErr MulCmd := do
  let core := s.coreOf r
  let c := s.coreSt core
  let v := s.viewOf r
  if c.fa.isNone || c.fb.isNone then .error (.stop 17 0)
  let sa ← c.own useA ha
  let sb ← c.own useB hb
  let wa ← s.readFmt v c.fa
  let wb ← s.readFmt v c.fb
  let fa := fmtBlockOf wa
  let fb := fmtBlockOf wb
  if !(fmtValid wa && fmtValid wb) then .error (.stop 17 0)
  match pairRate fa fb with
  | none => .error (.stop 17 0)
  | some double =>
    let b1 ← c.b1 double useB hb1
    if min fa.kslot fb.kslot < klen then .error (.stop 17 0)
    let ra := List.range 64
    let rb := List.range (if b1.isSome then 128 else 64)
    let xa ← (s.readScales v fa ra klen).mapError MulErr.read
    let za ← (s.readZeros v fa ra klen).mapError MulErr.read
    let xb ← (s.readScales v fb rb klen).mapError MulErr.read
    let zb ← (s.readZeros v fb rb klen).mapError MulErr.read
    .ok ⟨sa, sb, b1, core, core, fa, fb, double, zero, klen, xa, xb, za, zb, []⟩

/-- The format blocks, scales and zero points that a checked multiply has read are used (R83). -/
def State.useMul (s : State) (r : PathRef) (m : MulCmd) : State :=
  if s.vspans.isEmpty && s.l1own.isEmpty then s
  else
    let v := s.viewOf r
    let c := s.coreSt (s.coreOf r)
    let block := fun (s : State) (a : Option DWord) => match a with | some va => s.vUse v va 32 | none => s
    let rows := fun (s : State) (f : FmtBlock) (n : Nat) =>
      let gs := (m.klen + f.groupLen - 1) / f.groupLen
      (List.range n).foldl (fun s row =>
        let s := if f.skind = 1 then s.vUse v (f.saddr + BitVec.ofNat 64 (row * f.sstride)) (gs * f.scaleSize) else s
        if f.elem = 7 then s.vUse v (f.zaddr + BitVec.ofNat 64 (row * f.zstride)) ((gs + 7) / 8 * 4) else s) s
    rows (rows (block (block s c.fa) c.fb) m.fa 64) m.fb (if m.slotB1.isSome then 128 else 64)

/-- Stop a path at a failed check. -/
def State.mulErr (s : State) (r : PathRef) : MulErr → State
  | .stop c sub => s.takeStop r { cause := c, sub := sub }
  | .read e => s.rdErr r e

/-- `mma` and `mmaz` (R291, R292). -/
def State.multiply (s : State) (r : PathRef) (a b : SReg) (klen : BitVec 9) (zero : Bool) : State :=
  s.legalIf r (s.matrixTeam r && decide (1 ≤ klen.toNat) && decide (klen.toNat ≤ 256)) <|
    let hb1 := (s.sget r b).extractLsb' 32 32
    match s.mulCheck r (s.lowHalf r a) (s.lowHalf r b) hb1 true true klen.toNat zero with
    | .error e => s.mulErr r e
    | .ok m => (s.useMul r m).enqueue r 2 (.mul m)

def execMma (a b : SReg) (klen : BitVec 9) (s : State) : Res := issued s fun r => s.multiply r a b klen false

def execMmaz (a b : SReg) (klen : BitVec 9) (s : State) : Res := issued s fun r => s.multiply r a b klen true

/-! ### The prologue and the products (R96 to R98, R110, R113) -/

/-- An integer as an exact value. -/
def fvInt (v : Int) (e : Int) : FVal := .fin (decide (v < 0)) v.natAbs e

/-- A k-scale as a value: f32 or bf16. -/
def scaleVal (sfmt : Nat) (x : Nat) : FVal := if sfmt = 0 then fmtF32.unpack x else fmtBf16.unpack x

/-- A floating element with its prologue: rounded to bf16, or to f16 for f16. -/
def scaledElem (f : FmtBlock) (fmt : FFmt) (x sc : Nat) : FVal :=
  let v := fmt.unpack x
  if f.skind ≠ 1 then v
  else
    let out := if f.elem = 1 then fmtF16 else fmtBf16
    out.unpack (out.roundV .rn false (mulV v (scaleVal f.sfmt sc)).1).1

/-- The byte offset of element (row, k) in its slot (R284); for INT4, of its byte. -/
def FmtBlock.offset (f : FmtBlock) (row k : Nat) : Nat :=
  if f.elem = 7 then row * 128 + k / 2
  else
    let size := if f.elem ≤ 1 then 2 else 1
    if f.layout = 0 then (row * f.kslot + k) * size else (k * 64 + row) * size

/-- Bytes read for an element. -/
def FmtBlock.elemSize (f : FmtBlock) : Nat := if f.elem ≤ 1 then 2 else 1

/-- Element (row, k) of a slot after the prologue; the scale's row may differ from the slot's (rows of B1
are numbered from 64). -/
def CoreSt.elem (c : CoreSt) (slot : Nat) (f : FmtBlock) (row srow k : Nat) (sc : Store (BitVec 32))
    (zp : Store (BitVec 4)) : FVal :=
  let x := leNat (c.slotBytes slot (f.offset row k) f.elemSize)
  let key := scaleKey srow (k / f.groupLen)
  let s := (Store.get 0 sc key).toNat
  match f.elem with
  | 0 => scaledElem f fmtBf16 x s
  | 1 => scaledElem f fmtF16 x s
  | 2 => scaledElem f fmtE4M3 x s
  | 3 => scaledElem f fmtE5M2 x s
  | 4 => fvInt (sp8Val x) (if f.skind = 1 then (IFmt.mk 8 true).val s - 6 else -6)
  | 5 => fvInt ((IFmt.mk 8 true).val x) 0
  | 6 => fvInt x 0
  | _ =>
    let q := x / 16 ^ (k % 2) % 16
    let d : Int := (q : Int) - (Store.get 0 zp key).toNat
    fmtBf16.unpack (fmtBf16.roundV .rn false (mulV (fvInt d 0) (fmtBf16.unpack s)).1).1

/-- The accumulator key of a bank and cell. -/
def accKey (bank m n : Nat) : Nat := bank * 4096 + 64 * m + n

/-- One accumulation over k: RN32 of each exact product added in turn (R113). -/
def accumulate (acc : Nat) : List FVal → List FVal → Nat
  | x :: xs, y :: ys => accumulate (fmtF32.addV .rn false (fmtF32.unpack acc) (mulV x y).1).1 xs ys
  | _, _ => acc

/-- A row of an operand after the prologue, and whether any unit it uses is in error. -/
def CoreSt.row (c : CoreSt) (slot : Nat) (f : FmtBlock) (base klen : Nat) (sc : Store (BitVec 32))
    (zp : Store (BitVec 4)) (row : Nat) : List FVal × Bool :=
  ((List.range klen).map fun k => c.elem slot f row (base + row) k sc zp,
   !c.slotPoison.isEmpty && (List.range klen).any fun k => c.slotBad slot (f.offset row k) f.elemSize)

/-- The rows of an operand. -/
def CoreSt.rows (c : CoreSt) (slot : Nat) (f : FmtBlock) (base klen : Nat) (sc : Store (BitVec 32))
    (zp : Store (BitVec 4)) : List (List FVal × Bool) := (List.range 64).map (c.row slot f base klen sc zp)

/-- Take one accumulator from one point of a multiply to a later one: 0 is before it begins, n + 1 after n products; it
begins from +0 where the multiply clears it (R291). -/
def cellMul (zero : Bool) (lo hi k : Nat) (x y : List FVal × Bool) (st : Store Word × List Nat) : Store Word × List Nat :=
  let fresh := zero && lo == 0
  let a0 := if fresh then 0 else (Store.get 0 st.1 k).toNat
  let st2 := if x.2 || y.2 then (if st.2.contains k then st.2 else k :: st.2)
    else if fresh then st.2.filter (· != k) else st.2
  (Store.set 0 st.1 k (BitVec.ofNat 32 (accumulate a0 ((x.1.take (hi - 1)).drop (lo - 1)) ((y.1.take (hi - 1)).drop (lo - 1)))), st2)

/-- Multiply into one bank, with the products already added left out. -/
def bankMul (acc : Store Word) (bad : List Nat) (bank klen : Nat) (zero : Bool) (added : Store Nat)
    (A B : List (List FVal × Bool)) : Store Word × List Nat :=
  (A.zipIdx).foldl (fun st x => (B.zipIdx).foldl (fun st y =>
    let k := accKey bank x.2 y.2
    cellMul zero (Store.get 0 added k) (klen + 1) k x.1 y.1 st) st) (acc, bad)

/-- The drain-scale record of a block (R294). -/
def drainScaleOf (f : FmtBlock) : Option DrainScale := if f.skind = 2 then some ⟨f.saddr, f.sfmt⟩ else none

/-- A core's slots as a queued instruction reads them: of each aligned 8 bytes that a copy not ordered with it has
overwritten, the old data or the new (R283). -/
def ArrayEntry.view (e : ArrayEntry) (core : Nat) (c : CoreSt) : CoreSt :=
  let mine := e.old.filter fun x => x.1 == core
  { c with slots := mine.foldr (fun x m =>
      if Config.raced (e.serial * 2 ^ 40 + core * 2 ^ 20 + x.2.1 / 8) % 2 = 0 then Store.set 0 m x.2.1 x.2.2 else m) c.slots }

/-- Execute a multiply on a core (R293, R294). -/
def State.runMul (s : State) (core : Nat) (e : ArrayEntry) (m : MulCmd) : State :=
  let ca := e.view m.coreA (s.coreSt m.coreA)
  let cb := e.view m.coreB (s.coreSt m.coreB)
  let A := ca.rows m.slotA m.fa 0 m.klen m.scalesA m.zerosA
  let B0 := cb.rows m.slotB0 m.fb 0 m.klen m.scalesB m.zerosB
  let sa := drainScaleOf m.fa
  let sb := drainScaleOf m.fb
  s.modCore core fun c =>
    let r0 := bankMul c.acc c.accPoison 0 m.klen m.zero m.added A B0
    let c := { c with acc := r0.1, accPoison := r0.2, scaleA0 := sa, scaleB0 := sb }
    match m.slotB1 with
    | none => c
    | some b1 =>
      let B1 := cb.rows b1 m.fb 64 m.klen m.scalesB m.zerosB
      let r1 := bankMul c.acc c.accPoison 1 m.klen m.zero m.added A B1
      { c with acc := r1.1, accPoison := r1.2, scaleA1 := sa, scaleB1 := sb }

/-! ### Executing the queue (R281, R286 to R289, R295) -/

/-- Transpose a slot, as it is read (R289). -/
def CoreSt.transpose (c old : CoreSt) (dst src e : Nat) : CoreSt :=
  let ks := 128 / e
  let cells := (List.range 64).flatMap fun r => (List.range ks).map fun k => (r, k)
  cells.foldl (fun c x =>
    let so := (x.1 * ks + x.2) * e
    let d := (x.2 * 64 + x.1) * e
    let c := c.slotPut dst d (old.slotBytes src so e)
    if old.slotBad src so e then c.slotSpoil dst d e else c) (c.slotMend dst 0 8192)

/-- Clear banks (R295). -/
def CoreSt.clearBanks (c : CoreSt) (banks : BitVec 2) : CoreSt :=
  let hit := fun (k : Nat) => banks.getLsbD (k / 4096)
  let c := { c with acc := c.acc.filter fun x => !hit x.1, accPoison := c.accPoison.filter fun k => !hit k }
  let c := if banks.getLsbD 0 then { c with scaleA0 := none, scaleB0 := none } else c
  if banks.getLsbD 1 then { c with scaleA1 := none, scaleB1 := none } else c

/-- An array instruction is about to write n bytes of a slot. A copy not ordered with what is queued behind it had put its
data there: of those bytes the ones queued later now see either that data or what is written here (R283). -/
def State.raceOn (s : State) (core slot off n : Nat) : State :=
  let lo := slotKeyOf slot off
  let now := (s.coreSt core).slots
  let fix := fun (k : Nat) (b : Byte) => if lo ≤ k ∧ k < lo + n then Store.get 0 now k else b
  let old := fun (q : ArrayEntry) => { q with old := q.old.map fun (x : Nat × Nat × Byte) => if x.1 = core then (core, x.2.1, fix x.2.1 x.2.2) else x }
  if s.cores.all fun c => c.2.racing.isEmpty && c.2.queue.all fun q => q.old.isEmpty then s
  else
    let s := { s with cores := s.cores.map fun (c : Nat × CoreSt) => (c.1, { c.2 with queue := c.2.queue.map old }) }
    s.modCore core fun c => { c with racing := c.racing.map fun (x : Nat × Nat × Byte) => (x.1, x.2.1, fix x.2.1 x.2.2) }

/-- The races of the slot bytes that an operation writes. -/
def State.raceOp (s : State) (core : Nat) : ArrayOp → State
  | .tld slot first n _ _ => s.raceOn core slot (128 * first) (128 * n)
  | .tzero slot => s.raceOn core slot 0 8192
  | .ttrans dst _ _ => s.raceOn core dst 0 8192
  | _ => s

/-- Execute one operation on a core. -/
def State.runArray (s : State) (core : Nat) (e : ArrayEntry) : State :=
  let s := s.raceOp core e.op
  match e.op with
  | .trel slot => s.modCore core fun c => { c with ended := Store.set 0 c.ended slot (e.serial + 1) }
  | .tld slot first n crew o =>
    let cr := s.crew crew
    let bs := Store.getList 0 cr.scratch o (128 * n)
    let bad := (List.range (16 * n)).filter fun i => cr.spPoisoned (o + 8 * i) 8
    s.modCore core fun c =>
      bad.foldl (fun c i => c.slotSpoil slot (128 * first + 8 * i) 8)
        ((c.slotPut slot (128 * first) bs).slotMend slot (128 * first) (128 * n))
  | .mul m => s.runMul core e m
  | .mclr banks => s.modCore core fun c => c.clearBanks banks
  | .coop m _ => s.runMul core e m
  | .tzero slot => s.modCore core fun c =>
      { c.slotMend slot 0 8192 with slots := c.slots.filter fun x => x.1 / 8192 != slot }
  | .ttrans dst src two => s.modCore core fun c => c.transpose (e.view core c) dst src (if two then 2 else 1)

/-- Take the head off a core's queue. -/
def State.popArray (s : State) (core : Nat) : State := s.modCore core fun c => { c with queue := c.queue.drop 1 }

/-- The cores that execute together with a core's head: the participants of a cooperative tile, once the
tile is at the head of each of their queues (R297 item 6). -/
def State.arrayTeam (s : State) (core : Nat) : Option (List Nat) :=
  match (s.coreSt core).queue with
  | [] => none
  | e :: _ =>
    match e.op with
    | .coop _ cores =>
      let ready := cores.all fun k => match (s.coreSt k).queue with
        | x :: _ => (match x.op with | .coop _ l => l == cores | _ => false)
        | [] => false
      if ready then some cores else none
    | _ => some [core]

/-- A core's array stands still: its crews are frozen (R461), or its die's clock is stopped (R488). -/
def State.arrayStill (s : State) (core : Nat) : Bool :=
  (s.crews.any fun c => c.2.core == core && c.2.live && c.2.frozen) || s.stopped (decide (dieOfCore core = 1))

/-- ARRAY_QUEUE_EXECUTE: the instruction at the head of a core's queue executes and completes. -/
def execArrayQueueExecute (core : Nat) (s : State) : Res :=
  match s.arrayTeam core with
  | none => .next s
  | some cores =>
    if cores.any s.arrayStill then .next s else
    let heads := cores.filterMap fun k => (s.coreSt k).queue.head?.map fun (e : ArrayEntry) => (k, e)
    .next (cores.foldl (fun s k => s.popArray k) (heads.foldl (fun s x => s.runArray x.1 x.2) s))

/-! ### Cooperative tiles (R296, R297) -/

/-- `mcoop`: the path waits for its participants. -/
def execMcoop (_a _b : SReg) (klen : BitVec 9) (_z : Bool) (mt : BitVec 3) (nt : BitVec 4) (s : State) : Res :=
  issued s fun r =>
    s.legalIf r (s.matrixTeam r && decide (1 ≤ klen.toNat) && decide (klen.toNat ≤ 256) && decide (nt.toNat < 12)) <|
      if (mt.toNat + 1) * (nt.toNat + 1) ≤ (s.crewOf r).cidx then s.takeStop r { cause := 16, sub := 2 }
      else s.waitFor r .mcoop

/-- One participant of a tile: its path, its cluster index, its operands. -/
structure Coop where
  r    : PathRef
  cidx : Nat
  a    : SReg
  b    : SReg
  klen : Nat
  z    : Bool
  mt   : Nat
  nt   : Nat
  deriving DecidableEq, Repr

/-- The waiting participants of a cluster, with the instruction each waits at. -/
def State.coopWaiting (s : State) (grid cluster : Nat) : List Coop :=
  s.allPaths.filterMap fun r =>
    let c := s.crewOf r
    if c.grid = grid ∧ c.cluster = cluster ∧ (s.path r).wait = .mcoop ∧ c.gated = false ∧ c.frozen = false then
      match s.takeUp r with
      | .run (.mcoop a b k z mt nt) _ => some ⟨r, c.cidx, a, b, k.toNat, z, mt.toNat + 1, nt.toNat + 1⟩
      | _ => none
    else none

/-- The checks of one participant (R292, R297); whether B1 is there is for participant (0, j) to say. -/
def State.coopCheck (s : State) (ps : List Coop) (p : Coop) : Except MulErr MulCmd :=
  let o := (ps.find? fun q => q.cidx == p.cidx / p.mt * p.mt).getD p
  s.mulCheck p.r (s.lowHalf p.r p.a) (s.lowHalf p.r p.b) ((s.sget o.r o.b).extractLsb' 32 32)
    (decide (p.cidx / p.mt = 0)) (decide (p.cidx % p.mt = 0)) p.klen p.z

/-- The command of participant (i, j): A of (i, 0), B of (0, j). -/
def coopCmd (l : List (Coop × MulCmd)) (p : Coop) (m : MulCmd) : MulCmd :=
  let at' := fun c => (l.find? fun x => x.1.cidx == c).map fun x => x.2
  let a := (at' (p.cidx % p.mt)).getD m
  let b := (at' (p.cidx / p.mt * p.mt)).getD m
  { m with slotA := a.slotA, coreA := a.coreA, slotB0 := b.slotB0, slotB1 := b.slotB1, coreB := b.coreB }

/-- Every participant a waiting one names has issued its own n-th `mcoop`: it waits there too, or has gone past it, as
where it named fewer participants (R297 step 2). -/
def State.coopMet (s : State) (grid cluster : Nat) (w : List Coop) (p : Coop) : Bool :=
  let n := (s.crewOf p.r).mcoops
  (List.range (p.mt * p.nt)).all fun c =>
    (w.any fun q => q.cidx == c && (s.crewOf q.r).mcoops == n) ||
      s.crews.any fun x => x.2.grid == grid && x.2.cluster == cluster && x.2.cidx == c && decide (n < x.2.mcoops)

/-- MCOOP_RENDEZVOUS: every participant has issued its n-th `mcoop`: they are compared, checked and
queued (R297). Participants that name different tiles are compared as those of the largest, and one that has gone past its
n-th without the others does not match them. Where one fails R292 and the participants also differ, the failure of R292 is reported: the
model's choice (assumption 77). -/
def execMcoopRendezvous (grid cluster : Nat) (s : State) : Res :=
  let w := s.coopWaiting grid cluster
  let met := w.filter (s.coopMet grid cluster w)
  match met.find? fun p => met.all fun q => decide (q.mt * q.nt ≤ p.mt * p.nt) with
  | none => .next s
  | some p0 =>
    let n := p0.mt * p0.nt
    let ps := (List.range n).filterMap fun c =>
      w.find? fun p => p.cidx == c && (s.crewOf p.r).mcoops == (s.crewOf p0.r).mcoops
    let checked := ps.map fun p => (p, s.coopCheck ps p)
    let bad := checked.filterMap fun x => match x.2 with | .error e => some (x.1, e) | .ok _ => none
    if !bad.isEmpty then .next (bad.foldl (fun s x => s.mulErr x.1.r x.2) s)
    else
      let ok := checked.filterMap fun x => match x.2 with | .ok m => some (x.1, m) | .error _ => none
      let match' := ok.all fun x => ok.all fun y =>
        x.1.klen == y.1.klen && x.1.mt == y.1.mt && x.1.nt == y.1.nt && x.1.z == y.1.z && x.2.double == y.2.double
      let wide := ok.any fun x => x.2.double && decide (6 < x.1.nt)
      if !match' || wide || ps.length ≠ n then .next (ps.foldl (fun s p => s.takeStop p.r { cause := 16, sub := 2 }) s)
      else if ok.any fun x => decide (8 ≤ (s.coreSt (s.coreOf x.1.r)).queue.length) then .next s
      else
        let cores := ps.map fun p => s.coreOf p.r
        .next (ok.foldl (fun s x =>
          let s := (s.useMul x.1.r x.2).enqueue x.1.r 2 (.coop (coopCmd ok x.1 x.2) cores)
          s.modCrew (s.crewNo x.1.r) fun c => { c with mcoops := c.mcoops + 1 }) s)

/-! ### Drains (R298 to R302) -/

/-- Bytes of an output element. -/
def ofmtBytes : OFmt → Nat
  | .f32 | .i32 => 4
  | .f16 | .bf16 => 2
  | .e4m3 | .e5m2 => 1

/-- The floating format of an output. -/
def ofmtF : OFmt → FFmt
  | .f16 => fmtF16 | .bf16 => fmtBf16 | .e4m3 => fmtE4M3 | .e5m2 => fmtE5M2 | _ => fmtF32

/-- Round an exact value to an output format (R111, R299). -/
def ofmtRound (o : OFmt) (v : FVal) : Nat :=
  match o with
  | .i32 =>
    let f : IFmt := ⟨32, true⟩
    match v with
    | .nan _ => 0
    | .inf n => f.wrap (if n then f.lo else f.hi)
    | .fin n m e =>
      let q := (roundAt .rn n m e false 0).1
      f.wrap (max f.lo (min f.hi (if n then -(q : Int) else q)))
  | _ => (ofmtF o).rn v

/-- A drain scale: absent is 1 (R111). -/
def State.drainScale (s : State) (v : View) (d : Option DrainScale) (i : Nat) : Except RdErr FVal :=
  match d with
  | none => .ok (.fin false 1 0)
  | some x =>
    let n := if x.fmt = 0 then 4 else 2
    (s.vNat v n (x.addr + BitVec.ofNat 64 (i * n))).map (scaleVal x.fmt)

/-- A drain reads an accumulator while a multiply into its bank is at the head of the queue: some whole number of the
products of that cell has been added by then (R302). -/
def State.raceCell (s : State) (core bank m n : Nat) : State :=
  match (s.coreSt core).queue, s.arrayTeam core with
  | e :: rest, some _ =>
    let go := fun (c : MulCmd) (op : MulCmd → ArrayOp) =>
      let slot := if bank = 0 then some c.slotB0 else c.slotB1
      match slot with
      | none => s
      | some sb =>
        let k := accKey bank m n
        let lo := Store.get 0 c.added k
        let hi := lo + Config.raced (s.fresh * 2 ^ 20 + k) % (c.klen + 2 - lo)
        let x := (e.view c.coreA (s.coreSt c.coreA)).row c.slotA c.fa 0 c.klen c.scalesA c.zerosA m
        let y := (e.view c.coreB (s.coreSt c.coreB)).row sb c.fb (64 * bank) c.klen c.scalesB c.zerosB n
        if hi = lo then s
        else s.modCore core fun t =>
          let r := cellMul c.zero lo hi k x y (t.acc, t.accPoison)
          { t with acc := r.1, accPoison := r.2, queue := { e with op := op { c with added := Store.set 0 c.added k hi } } :: rest }
    match e.op with
    | .mul c => go c .mul
    | .coop c l => go c fun c => .coop c l
    | _ => s
  | _, _ => s

/-- The same for the cells of a drain. -/
def State.raceCells (s : State) (core : Nat) (cells : List (Nat × Nat)) : State :=
  if (s.coreSt core).queue.isEmpty then s
  else cells.foldl (fun s x => s.raceCell core (x.2 / 64) x.1 (x.2 % 64)) s

/-- The drained value of output element (m, n), and whether its accumulator is in error (R299). -/
def State.drained (s : State) (r : PathRef) (o : OFmt) (m n : Nat) : Except RdErr (Nat × Bool) := do
  let c := s.coreSt (s.coreOf r)
  let v := s.viewOf r
  let bank := n / 64
  let k := accKey bank m (n % 64)
  let sa ← s.drainScale v (if bank = 0 then c.scaleA0 else c.scaleA1) m
  let sb ← s.drainScale v (if bank = 0 then c.scaleB0 else c.scaleB1) n
  let y := (mulV (mulV (fmtF32.unpack (Store.get 0 c.acc k).toNat) sa).1 sb).1
  .ok (ofmtRound o y, c.accPoison.contains k)

/-- The scales that drained elements have read are used (R83). -/
def State.useScales (s : State) (r : PathRef) (cells : List (Nat × Nat)) : State :=
  if s.vspans.isEmpty && s.l1own.isEmpty then s
  else
    let c := s.coreSt (s.coreOf r)
    let one := fun (s : State) (d : Option DrainScale) (i : Nat) => match d with
      | none => s
      | some x =>
        let n := if x.fmt = 0 then 4 else 2
        s.vUse (s.viewOf r) (x.addr + BitVec.ofNat 64 (i * n)) n
    cells.foldl (fun s x =>
      one (one s (if x.2 / 64 = 0 then c.scaleA0 else c.scaleA1) x.1) (if x.2 / 64 = 0 then c.scaleB0 else c.scaleB1) x.2) s

/-- Set drained accumulators to +0 (CLR). -/
def State.clearAcc (s : State) (r : PathRef) (ks : List Nat) : State :=
  s.modCore (s.coreOf r) fun c =>
    { c with acc := c.acc.filter fun x => !ks.contains x.1, accPoison := c.accPoison.filter fun k => !ks.contains k }

/-- Vector teams of the owning crew drain (Table 1, R298). -/
def State.drains (s : State) (r : PathRef) : Bool := s.ownsArray r && !(s.team r.tok).uniform

/-- A failed scale read as a lane's result. -/
def rdLane : RdErr → LaneRes
  | .xlat e va => .errAt e va
  | .poison va => .errAt (.fault 14 1) va
  | .wait w => .hold w

/-- `mdrain`, register form (R300). -/
def execMdrainRegister (d : VReg) (a : SReg) (o : OFmt) (clr : Bool) (s : State) : Res :=
  issued s fun r =>
    s.legalIf r (s.drains r && s.vOk r [d]) <|
      let c0 := (s.sget r a).toNat % 128
      (s.sweep r 1 (fun l => BitVec.ofNat 64 l) fun s l _ =>
          let m := l % 64
          let n := c0 + l / 64
          if 127 < n then .ok s [] [] none
          else
            let s := s.raceCells (s.coreOf r) [(m, n)]
            match s.drained r o m n with
            | .error e => rdLane e
            | .ok (v, bad) =>
              let s := s.useScales r [(m, n)]
              if bad then .ok s [] [] (some 0)
              else
                .ok (if clr then s.clearAcc r [accKey (n / 64) m (n % 64)] else s)
                  [.v d.toNat l (BitVec.ofNat 32 v)] [] none).finish
        r 0 0 false fun s done ws bad =>
          (s.startLate r ws (s.noteFor r none [d.toNat] done bad 0)).advance r 2

/-- The new value of an add-on-store element (R301). -/
def redNew (o : OFmt) (red : RedOp) (old v : Nat) : Nat :=
  let i : IFmt := ⟨32, true⟩
  match red with
  | .store => v
  | .add => if o == .i32 then (old + v) % 2 ^ 32 else ((ofmtF o).add .rn (!(ofmtF o).inf) old v).1
  | .max => if o == .i32 then (if i.val old < i.val v then v else old) else ((ofmtF o).minmax true old v).1

/-- One element of a memory drain at its address (R301): a store, or a read-modify-write at its home.
A poisoned element is stored as poison (R455). An add-on-store whose old value or element is poisoned fails at
the home, leaves the flake poisoned and counts as performed (R247). -/
def State.drainElem (s : State) (r : PathRef) (o : OFmt) (red : RedOp) (va : DWord) (v : Nat) (bad : Bool)
    (lane : Nat := 0) : LaneRes :=
  let n := ofmtBytes o
  if red == .store then s.storeLane r n v va bad lane
  else
    let spoil := fun (s : State) =>
      match s.reach r .atomic n va lane with
      | .ok (x, _) =>
        let s := if s.poisonedIn (s.domOf r) (s.verOf r) x.key n then s else s.poisonFor (s.domOf r) (s.verOf r) x.key
        s.noteFailed r false (s.badFlake (s.domOf r) (s.verOf r) x.key n) va.toNat
      | .error _ => s
    match s.rmwLane r n va (fun old => if bad then none else some (redNew o red old v)) (fun _ => []) lane with
    | .ok s' ws out b => if bad || b.isSome then .ok (spoil s') ws out none else .ok s' ws out none
    | e => e

/-- A row's elements in turn. Where elements of one row fail with different causes, or a scale's read and an element's access
both fail, R301 does not say which is reported: the model takes them element by element in ascending n, the scales first
(assumption 93). -/
def State.drainRow (r : PathRef) (o : OFmt) (red : RedOp) (m : Nat) (row : DWord) :
    List Nat → State → List Out → LaneRes
  | [], s, out => .ok s [] out none
  | n :: ns, s, out =>
    match s.drained r o m n with
    | .error e => rdLane e
    | .ok (v, bad) =>
      let va := row + BitVec.ofNat 64 (n * ofmtBytes o)
      match s.drainElem r o red va v bad m with
      | .ok s _ more _ => State.drainRow r o red m row ns s (out ++ more)
      | .err e => .errAt e va
      | e => e

/-- `mdrain`, memory form (R301). Lanes 64 and above are done at once. -/
def execMdrainMemory (a : SReg) (o : OFmt) (red : RedOp) (clr wide : Bool) (s : State) : Res :=
  issued s fun r =>
    s.legalIf r (s.drains r && a.toNat % 2 == 0) <|
      s.withSlot r fun f =>
        let lanes := s.memLanes r
        let cols := List.range (if wide then 128 else 64)
        let row := fun (l : Nat) => s.sget r a + BitVec.ofNat 64 l * s.sget r (a + 1)
        let rest := maskOf lanes fun l => decide (64 ≤ l)
        let s := s.modPath r fun p => { p with done := p.done ||| rest }
        (s.sweepMem r (cols.length * ofmtBytes o) row fun s l va =>
            let s := s.raceCells (s.coreOf r) (cols.map fun n => (l, n))
            match State.drainRow r o red l va cols s [] with
            | .ok s ws out b =>
              let s := s.useScales r (cols.map fun n => (l, n))
              .ok (if clr then s.clearAcc r (cols.map fun n => accKey (n / 64) l (n % 64)) else s) ws out b
            | e => e).finishLong r f (if red == .store then 1 else 2) 0 false [] lanes (trip := { tie := some f })

end Sys2Proof.Machine
end

