-- ==== Sys2Proof/Machine/Remote.lean ====
section
/-! DEFINITION. Remote accesses (R253, R266 to R270): the loop over peers at the source, what the
device does as a peer, and the ends of a request: reply, refusal, timeout, hold notice, resend (R462,
R472). -/

namespace Sys2Proof.Machine

/-! ### At the source -/

/-- What a remote instruction sends. -/
inductive RemoteKind where
  | load (acq : Bool)
  | store
  | atomic (op : AtomOp) (returns : Bool)
  deriving DecidableEq, Repr

/-- The access kind of a fault record. -/
def RemoteKind.detail : RemoteKind → Nat
  | .load _ => 0
  | .store => 1
  | .atomic .. => 2

/-- A fault found at the source for one lane (R254, R266, R268, R470). -/
def State.remoteFault (s : State) (r : PathRef) (k : RemoteKind) (n : Nat) (va : DWord) (peer : Word) :
    Option Nat :=
  let load := match k with | .load _ => true | _ => false
  let pod := match s.region (s.ctxOf r) va.toNat with | some g => !g.imm | none => false
  if va.toNat / 2 ^ 56 != 0 then some 6
  else if va.toNat % n != 0 then some 4
  else if peer.toNat / (if s.strict then 1024 else 4096) != 0 then some 10
  else if !load && s.verOf r != 0 then some 12
  else if s.strict && (k == .store || (load && pod)) then some 10
  else none

/-- The body of a request for some lanes. -/
def State.remoteBody (s : State) (r : PathRef) (k : RemoteKind) (d : Byte) (z : MSize) (ea : Nat → DWord)
    (g : List Nat) : PBody :=
  let h := z.vregs
  let val := fun l => s.storeVal r d z l
  match k with
  | .load acq => .load z acq (g.map fun l => ⟨l, ea l, 0⟩)
  | .store => .store z (s.gti r) (g.map fun l => ⟨l, ea l, BitVec.ofNat 128 (val l)⟩)
  | .atomic op _ => .atomic op z (g.map fun l =>
      let x := if op == .cas then
          s.dataGet r d.toNat h l + 2 ^ 64 * s.dataGet r (d.toNat + h) h l
        else val l
      ⟨l, ea l, BitVec.ofNat 128 x⟩)

/-- The last run of a remote instruction has ended, or one has faulted: its flag is as before it (R127, R267). -/
def State.endRuns (s : State) (r : PathRef) (f : Nat) : State :=
  { (s.clearFlag r f) with reqs := s.reqs.filter fun q => !(q.r == r && q.ended) }

/-- Send one run to a peer and wait for its end (R267). One to the device itself crosses no link. -/
def State.sendRun (s : State) (r : PathRef) (peer : Word) (body : PBody) (lanes : Mask)
    (dest : Option (Byte × Bool)) (after : Option (Nat × Nat × Nat × DWord)) : State :=
  let n := s.nextSer
  let p := s.packetTo n (peer.toNat % 4096) (s.keyOf (s.ctxOf r)) (s.domOf r) (s.verOf r) body
  let port := if p.dst = s.rank then none else s.spine n 0 none
  let q : Req :=
    { serial := n, r := r, packet := p, lanes := lanes, dest := dest, suspended := false, resends := 0, looped := false,
      sent := s.tsc, after := after, ended := false, port := port }
  ({ (s.waitFor r (.remote n)) with
    reqs := (s.reqs.filter fun q => !(q.r == r && q.ended)) ++ [q], nextSer := n + 1 } : State).emit port p

/-- A remote instruction: one run for each distinct peer, in order of first occurrence (R267). Each
time it is taken up, it runs the next peer of the lanes that are not done; its flag is busy from the first run to
the end of the last. Of a run, the lanes below one that faults at the source go first, since the cause reported is
that of the lowest lane that faults (R254). A synchronising event of it comes after the path's earlier ones (R224, item 3). A load or a store of a pod-shared region waits while the device has
arrived at its boundary (R270; for stores the model's choice, assumption 73). -/
def State.remoteAll (s : State) (r : PathRef) (k : RemoteKind) (d : Byte) (a : MAddr) (peer : VReg) (m : MDesc) :
    State :=
  let t := s.team r.tok
  let dOk := match k with | .atomic .cas _ => s.casOk r d m.size | _ => s.dataOk r d m.size
  s.legalIf r (!t.uniform && s.vOk r [peer] && s.addrOk r a && dOk) <|
    s.withOwnSlot r fun f =>
      let lanes := s.memLanes r
      if lanes.isEmpty then s.emptyPend r 2
      else
        s.releaseIf r (releases m.order) .pod fun s =>
          let left := lanes.filter fun l => !(s.path r).done.getLsbD l
          match left with
          | [] => (((s.acquireIf r (acquires m.order) .pod).takeSlot r).endRuns r f).advance r 2
          | e :: _ =>
            let p := t.vget peer e
            let g := left.filter fun l => t.vget peer l == p
            let ea := s.ea r a m.off
            let n := m.size.bytes
            let bad := fun l => s.remoteFault r k n (ea l) p
            let sent := g.takeWhile fun l => (bad l).isNone
            let after := (g.find? fun l => (bad l).isSome).bind fun l =>
              (bad l).map fun c => (c, (if c = 6 then 2 else 0), l, ea l)
            match sent, after with
            | [], some (c, sub, l, va) =>
              (s.endRuns r f).takeStop r { cause := c, sub := sub, addr := va, lane := l,
                                           done := (s.path r).done, detail := if c = 6 then k.detail else 0 }
            | _, _ =>
              let sync := acquires m.order || (match k with | .atomic .. => true | _ => false)
              let pod := sent.any fun l =>
                match s.region (s.ctxOf r) (ea l).toNat with | some x => !x.imm | none => false
              let stays := match k with | .load _ => pod | .store => true | _ => false
              if stays && s.arrived then s.waitFor r .boundary
              else if sync && s.syncHeld r then s.waitFor r .room
              else
                let s := if sync then s.drainSync r else s
                if !(s.path r).live then s else
                let dest := match k with
                  | .load _ => some (d, m.op.getLsbD 0)
                  | .atomic _ true => some (d, false)
                  | _ => none
                (s.setFlag r f).sendRun r p (s.remoteBody r k d m.size ea sent) (maskOf sent fun _ => true) dest after

/-- `rld`. -/
def execRld (d : Byte) (a : MAddr) (peer : VReg) (m : MDesc) (s : State) : Res :=
  issued s fun r => s.remoteAll r (.load (acquires m.order)) d a peer m

/-- `rst`. -/
def execRst (d : Byte) (a : MAddr) (peer : VReg) (m : MDesc) (s : State) : Res :=
  issued s fun r => s.remoteAll r .store d a peer m

/-- `ratm`. -/
def execRatm (d : Byte) (a : MAddr) (peer : VReg) (m : MDesc) (s : State) : Res :=
  issued s fun r =>
    match AtomOp.ofCode m.op with
    | none => s.illegal r
    | some op => s.remoteAll r (.atomic op false) d a peer m

/-- `ratmr`. -/
def execRatmr (d : Byte) (a : MAddr) (peer : VReg) (m : MDesc) (s : State) : Res :=
  issued s fun r =>
    match AtomOp.ofCode m.op with
    | none => s.illegal r
    | some op => s.remoteAll r (.atomic op true) d a peer m

/-! ### The end of a run -/

/-- Bytes of a request's accesses. -/
def pbodySize : PBody → MSize
  | .load z _ _ | .store z _ _ | .atomic _ z _ => z
  | _ => .b32

/-- Registers written by the lanes of a reply. -/
def State.replyWrites (s : State) (q : Req) (lanes : List RLane) : List RegWrite :=
  match q.dest with
  | none => []
  | some (d, sx) => lanes.flatMap fun x => s.loadWrites q.r d (pbodySize q.packet.body) sx x.lane x.data.toNat

/-- The lanes performed are done and their values written; the run is over. -/
def State.endRun (s : State) (q : Req) (lanes : List RLane) : State :=
  let s := (s.regWrites q.r.tok (s.replyWrites q lanes)).modPath q.r fun p =>
    { p with done := p.done ||| maskOf (lanes.map fun x => x.lane) fun _ => true, wait := .none }
  { s with reqs := s.reqs.map fun x => if x.serial = q.serial then { x with ended := true } else x }

/-- The flag of the slot a path's instruction has taken. -/
def Path.slotFlag (p : Path) : Nat := if p.ll = 0 then (headerOf p.hdrWord).af.toNat else (headerOf p.hdrWord).bf.toNat

/-- A request ends in a precise fault of its path (R254, R267, R268). -/
def State.failRun (s : State) (q : Req) (cause sub lane : Nat) (va : DWord) (uncertain : Bool) : State :=
  let kind := match q.packet.body with | .load .. => 0 | .store .. => 1 | _ => 2
  let detail := if (6 ≤ cause ∧ cause ≤ 8) ∨ cause = 14 then kind else 0
  (s.endRuns q.r (s.path q.r).slotFlag).takeStop q.r
    { cause := cause, sub := sub, addr := va, lane := lane, done := (s.path q.r).done,
      detail := detail, uncertain := uncertain, loadpc := if cause = 14 then (s.path q.r).pc else 0 }

/-- A reply or a refusal arrives for a request. -/
def State.remoteReply (s : State) (serial : Nat) (body : PBody) : State :=
  match s.reqs.find? fun q => q.serial == serial && !q.ended with
  | none => s
  | some q =>
    match body with
    | .reply lanes =>
      match q.after with
      | none => s.endRun q lanes
      | some (cause, sub, lane, va) => (s.endRun q lanes).failRun q cause sub lane va false
    | .refuse done cause sub lane va => (s.endRun q done).failRun q cause sub lane va false
    | _ => s

/-- The lowest lane of a request and its address. -/
def pbodyFirst : PBody → Nat × DWord
  | .load _ _ (x :: _) | .store _ _ (x :: _) | .atomic _ _ (x :: _) => (x.lane, x.va)
  | _ => (0, 0)

/-- REMOTE_TIMEOUT: no reply within FTIMEOUT (R268, R454, R472); a hold notice suspends it (R462). -/
def execRemoteTimeout (serial : Nat) (s : State) : Res :=
  match s.reqs.find? fun q => q.serial == serial && !q.suspended && !q.ended with
  | none => .next s
  | some q =>
    let load := match q.packet.body with | .load .. => true | _ => false
    let f := pbodyFirst q.packet.body
    .next ((s.endRun q []).failRun q 11 0 f.1 f.2 (!load))

/-- Suspend the timeout of a request. -/
def State.suspend (s : State) (serial : Nat) : State :=
  { s with reqs := s.reqs.map fun q => if q.serial = serial then { q with suspended := true } else q }

/-- HOLD_NOTICE: the peer's context is frozen, and the timeout of a request is suspended (R462). -/
def execHoldNotice (m : Via × Nat) (s : State) : Res := .next (s.onMsg m.1 fun s => some (s.suspend m.2))

/-! ### As a peer (R256, R266, R268 to R270) -/

/-- A core number no TLB belongs to: fabric accesses walk the tables. -/
def fabricUnit : Nat := 600

/-- Translate and find the target of a fabric access, checked as a user access: the packet carries no
privilege (R469). Anything but a region or window of the peer refuses (R90). -/
def State.peerTarget (s : State) (c : Nat) (acc : Access) (va : DWord) : Option (Xlat × Target) :=
  match s.translate fabricUnit c false acc va with
  | .error _ => none
  | .ok x => (s.target c va.toNat x).map fun t => (x, t)

/-- What one lane of a request comes to at the peer: the value returned, or a refusal's cause. -/
abbrev PeerRes := Except (Nat × Nat) (State × Nat)

/-- A load of a lane at the peer. -/
def State.peerLoad (s : State) (c n : Nat) (acq : Bool) (va : DWord) : PeerRes :=
  match s.peerTarget c .load va with
  | some (x, .pod ..) => if s.poisoned x.key n then .error (14, 1) else .ok (s, s.memNat x.key n)
  | some (x, .imm) =>
    if !acq || !(n == 4 || n == 8) then .error (10, 0)
    else if s.poisoned x.key n then .error (14, 1)
    else .ok (s, s.memNat x.key n)
  | _ => .error (10, 0)

/-- The step a packet is tagged with: its low 32 bits, nearest the device's own step (R269). -/
def State.stepOf (s : State) (p : Packet) : Nat :=
  let d := (p.step.toNat + 2 ^ 32 - s.stepNo % 2 ^ 32) % 2 ^ 32
  if d < 2 ^ 31 then s.stepNo + d else s.stepNo + d - 2 ^ 32

/-- A store of a lane at the peer: into the firn buffer of the home die (R269). -/
def State.peerStore (s : State) (c : Nat) (p : Packet) (n gti : Nat) (l : RLane) : PeerRes :=
  if p.ver ≠ 0 then .error (10, 0)
  else
    match s.peerTarget c .store l.va with
    | some (x, .pod _ type) =>
      if n ≠ podBytes type || l.va.toNat % n ≠ 0 then .error (4, 0)
      else
        match s.firnStore { step := s.stepOf p, die := x.home, logged := false, ctx := c, va := l.va.toNat,
                            pa := x.key, size := n, data := l.data.setWidth 64, rank := p.src, gti := gti,
                            poison := false } with
        | none => .error (9, 0)
        | some s => .ok (s, 0)
    | _ => .error (10, 0)

/-- An atomic of a lane at the peer's home L2 (R270). -/
def State.peerAtomic (s : State) (c : Nat) (p : Packet) (op : AtomOp) (n : Nat) (l : RLane) : PeerRes :=
  if p.ver ≠ 0 then .error (10, 0)
  else
    match s.peerTarget c .atomic l.va with
    | some (_, .pod ..) => .error (13, 0)
    | some (x, .imm) =>
      if s.poisoned x.key n then .error (14, 1)
      else
        let old := s.memNat x.key n
        let bits := 8 * n
        let new :=
          if op == .cas then
            if old = l.data.toNat % 2 ^ 64 % 2 ^ bits then some (l.data.toNat / 2 ^ 64 % 2 ^ bits) else none
          else some (atomNew op bits old (l.data.toNat % 2 ^ bits))
        match new with
        | none => .ok (s, old)
        | some v => .ok (s.homeWrite x.key (leBytes n v), old)
    | _ => .error (10, 0)

/-- Go through the lanes of a request in ascending order, up to the first refusal. -/
def peerLanes (f : State → RLane → PeerRes) (s : State) (done : List RLane) : List RLane → State × PBody
  | [] => (s, .reply done)
  | l :: ls =>
    match f s l with
    | .error (c, sub) => (s, .refuse done c sub l.lane l.va)
    | .ok (s, v) => peerLanes f s (done ++ [{ l with data := BitVec.ofNat 128 v }]) ls

/-- A load of a pod-shared region must wait until the device has departed from the boundary before the
packet's step (R270). -/
def State.peerWaits (s : State) (c : Nat) (p : Packet) : Bool :=
  match p.body with
  | .load _ _ lanes =>
    decide (s.stepNo % 2 ^ 32 < p.step.toNat) &&
    lanes.any fun l => match s.peerTarget c .load l.va with | some (_, .pod ..) => true | _ => false
  | _ => false

/-- Send the answer of a request back to its source, which may be the device itself (R266). -/
def State.answer (s : State) (p : Packet) (body : PBody) : State :=
  if p.src = s.rank then s.remoteReply p.serial body
  else
    let q := s.packetTo p.serial p.src p.jobkey p.dom p.ver body
    ({ s with answers := s.answers ++ [q] } : State).emit (s.spine p.serial 0 none) q

/-- Perform a request in a context and answer it, once (R472). -/
def State.serve (s : State) (c : Nat) (p : Packet) : State :=
  let x := match p.body with
    | .load z acq ls => some (peerLanes (fun s l => s.peerLoad c z.bytes acq l.va) s [] ls)
    | .store z gti ls => some (peerLanes (fun s l => s.peerStore c p z.bytes gti l) s [] ls)
    | .atomic op z ls => some (peerLanes (fun s l => s.peerAtomic c p op z.bytes l) s [] ls)
    | _ => none
  match x with
  | none => s
  | some (s, body) => ({ s with seenSeq := s.seenSeq ++ [(p.src, p.serial)] } : State).answer p body

/-- The answer already given to a request, sent again (R472). -/
def State.repeatAnswer (s : State) (p : Packet) : State :=
  match s.answers.find? fun q => q.serial == p.serial && q.dst == p.src with
  | some q => s.emit (s.spine p.serial 1 none) q
  | none => s

/-- The flakes that a request touches in a context: those of its lanes whose addresses translate. -/
def State.packetFlakes (s : State) (c : Nat) (p : Packet) : List Nat :=
  let of := fun (acc : Access) (n : Nat) (ls : List RLane) => ls.flatMap fun l =>
    match s.translate fabricUnit c false acc l.va with
    | .ok x => [x.key / 32, (x.key + n - 1) / 32]
    | .error _ => []
  match p.body with
  | .load z _ ls => of .load z.bytes ls
  | .store z _ ls => of .store z.bytes ls
  | .atomic _ z ls => of .atomic z.bytes ls
  | _ => []

/-- A request comes after one of its source that is held and touches a common flake: they are performed in order
(R473). -/
def State.behindHeld (s : State) (c : Nat) (p : Packet) : Bool :=
  let mine := s.packetFlakes c p
  s.ctxs.any fun y => y.2.heldPackets.any fun q =>
    q.src == p.src && q.serial != p.serial && (s.packetFlakes y.1 q).any fun k => mine.contains k

/-- A request reaches a line that an engine command of the device owns: it waits for the recall (R232). -/
def State.packetOwned (s : State) (c : Nat) (p : Packet) : Bool :=
  match p.body with
  | .load z _ ls | .store z _ ls | .atomic _ z ls => ls.any fun l =>
    match s.translate fabricUnit c false (match p.body with | .load .. => .load | .store .. => .store | _ => .atomic) l.va with
    | .ok x => s.owned x.key z.bytes
    | .error _ => false
  | _ => false

/-- A request accepted in a context: a duplicate is only answered again; stores and atomics of a frozen
context are held, with a notice to the source (R462); a load may wait for a departure. In strict-standard mode a packet
has no version and no step (R470). -/
def State.accept (s : State) (c : Nat) (p : Packet) : State :=
  let p := if s.strict then { p with dom := 0, ver := 0, step := BitVec.ofNat 32 s.stepNo } else p
  let load := match p.body with | .load .. => true | _ => false
  if s.seenSeq.contains (p.src, p.serial) then s.repeatAnswer p
  else if (s.ctx c).frozen && !load then
    let s := if (s.ctx c).heldPackets.contains p then s
      else s.modCtx c fun x => { x with heldPackets := x.heldPackets ++ [p] }
    if p.src = s.rank then s.suspend p.serial else s.respond p.toPodHdr (.hold p.serial)
  else if (s.ctx c).heldPackets.contains p then s
  else if s.peerWaits c p || s.packetOwned c p || s.behindHeld c p then s.modCtx c fun x => { x with heldPackets := x.heldPackets ++ [p] }
  else s.serve c p

/-- Take up the packets a context held, in arrival order. -/
def State.acceptHeld (s : State) (c : Nat) : State :=
  let l := (s.ctx c).heldPackets
  l.foldl (fun s p => s.accept c p) (s.modCtx c fun x => { x with heldPackets := [] })

end Sys2Proof.Machine
end

