-- ==== Sys2Proof/Machine/Regions.lean ====
section
/-! DEFINITION. The region table (R418, R419): its entries, the check of their pages, and when a change
takes effect. -/

namespace Sys2Proof.Machine

/-! ### Tables in memory -/

/-- The entries of a table of n records of some size that have a listed byte: the others are all zero. -/
def State.listed (s : State) (base size n : Nat) : List Nat :=
  ((s.mem.filter fun x => decide (base ≤ x.1) && decide (x.1 < base + size * n)).map fun x =>
    (x.1 - base) / size).eraseDups

/-- The bytes of an entry as the device read them last, by table and index (R410, R414, R418, R420, R421). -/
def State.lastRead (s : State) (table idx : Nat) : List Byte := Store.get [] s.seen (table * 2 ^ 20 + idx)

/-- The entries of a table that have been read before. -/
def State.seenOf (s : State) (table : Nat) : List Nat :=
  (s.seen.filter fun x => x.1 / 2 ^ 20 == table).map fun x => x.1 % 2 ^ 20

/-- Keep the bytes of an entry as they are read now. -/
def State.noteRead (s : State) (table idx : Nat) (bs : List Byte) : State :=
  { s with seen := Store.set [] s.seen (table * 2 ^ 20 + idx) bs }

/-- The entry's bytes differ from those read last; an entry never read counts as zero. -/
def State.isNew (s : State) (table idx : Nat) (bs : List Byte) : Bool :=
  let old := s.lastRead table idx
  if old.isEmpty then bs.any fun b => b != 0 else old != bs

/-- An entry of a table is ignored or deferred (event 1, with the first 8 bytes of the entry). -/
def State.logEntry (s : State) (ctx : Option Nat) (base : Nat) : State :=
  s.logRefused (dispSrc 0) ctx base (s.memNat base 8)

/-- Bits of a field within an entry. -/
def field (e off n : Nat) : Nat := e / 2 ^ (8 * off) % 2 ^ (8 * n)

/-! ### Regions -/

/-- A region entry that keeps every rule but those about other entries and about pages (Table 7). -/
def regionOf (e : Nat) : Option Region :=
  let base := field e 0 8
  let size := field e 8 8
  let f := field e 16 4
  let ctx := field e 20 4
  let imm := f.testBit 1
  let rule := f / 4 % 8
  let type := f / 32 % 4
  let ok := decide (base < 2 ^ 56) && base % 4096 == 0 && decide (size < 2 ^ 56) && size % 4096 == 0 && size != 0 &&
    decide (f < 2 ^ 7) && decide (ctx < 2 ^ 20) && field e 24 8 == 0 &&
    !(imm && (rule != 0 || type != 0)) && !((rule == 5 || rule == 6) && type == 2) && !(rule == 7 && type != 2)
  if ok then some ⟨base, size, imm, rule, type, ctx⟩ else none

/-- Two regions of one context overlap. -/
def Region.overlaps (a b : Region) : Bool :=
  a.ctx == b.ctx && decide (a.base < b.base + b.size) && decide (b.base < a.base + a.size)

/-- A page of n pages from a virtual address is mapped outside the device's own memory (R418). -/
def State.pageOutside (s : State) (ctx : Nat) : Nat → Nat → Bool
  | 0, _ => false
  | n + 1, va =>
    (match s.walk ctx va with
     | .ok e => e.host || !inDeviceMem (e.pbase + (va - e.vbase))
     | .error _ => false) || s.pageOutside ctx n (va + 4096)

/-- A region's mapped pages lie in the device's own memory. -/
def State.regionOk (s : State) (g : Region) : Bool := !s.pageOutside g.ctx (g.size / 4096) g.base

/-- The entries of the table in use: index and, where its own fields are in order, the region. -/
def State.regionEntries (s : State) : List (Nat × Option Region) :=
  let base := (s.csrGet 0x4023 0).toNat
  (s.listed base 32 64).filterMap fun i =>
    let e := s.memNat (base + 32 * i) 32
    if e.testBit 128 then some (i, regionOf e) else none

/-- The indices of entries in use now or read before. -/
def State.regionIdx (s : State) : List Nat :=
  let now := s.listed (s.csrGet 0x4023 0).toNat 32 64
  now ++ (s.seen.filterMap fun x => if x.1 / 2 ^ 20 = 2 then some (x.1 % 2 ^ 20) else none).filter fun i => !now.contains i

/-- Keep the entries as they are read now, and log those turned away, once for each change of theirs; one that was in effect
until another came to overlap it is among those named to be logged whatever its bytes (R418). -/
def State.noteRegions (s : State) (bad fell : List Nat) : State :=
  let base := (s.csrGet 0x4023 0).toNat
  s.regionIdx.foldl (fun s i =>
    let bs := s.memBytes (base + 32 * i) 32
    let s := if bad.contains i && (s.isNew 2 i bs || fell.contains i) then
        s.logEntry (some (field (leNat bs) 20 4 % 2 ^ 20)) (base + 32 * i) else s
    s.noteRead 2 i bs) s

/-- A region that takes effect: one in effect already stays valid, whatever its pages have become (R419); another
has its mapped pages judged now (R418). -/
def State.stands (s : State) (g : Region) : Bool := s.regions.contains g || s.regionOk g

/-- The regions that overlap no other of a list (R418). -/
def clearOf (l : List (Nat × Region)) : List (Nat × Region) :=
  l.filter fun x => !l.any fun y => y.1 != x.1 && x.2.overlaps y.2

/-- Pod-shared entries read before take effect at a departure; one whose mapped pages lie elsewhere, or that
overlaps another valid entry, is absent and logged (R418, R419). -/
def State.takeRegions (s : State) : State :=
  match s.regionsNext with
  | none => s
  | some l =>
    let imm := s.regions.filter fun g => g.imm
    let valid := (l.filter s.stands ++ imm).zipIdx.map fun x => (x.2, x.1)
    let live := ((clearOf valid).map (·.2)).filter fun g => !g.imm
    let bad := s.regionEntries.filter fun x => match x.2 with | some g => l.contains g && !live.contains g | none => false
    let base := (s.csrGet 0x4023 0).toNat
    let s := bad.foldl (fun s x =>
      s.logEntry (x.2.map fun g => g.ctx) (base + 32 * x.1)) s
    { s with regions := imm ++ live, regionsNext := none }

/-- Read the region table at an `sfence` or DOORBELL (R419): immediate windows take effect at once,
pod-shared entries at the next departure. Valid entries that overlap are all absent. -/
def State.readRegions (s : State) : State :=
  let es := s.regionEntries
  let good := es.filterMap fun x => x.2.map fun g => (x.1, g)
  let live := (clearOf (good.filter fun x => s.stands x.2)).filter fun x => x.2.imm
  let pods := (good.filter fun x => !x.2.imm).map (·.2)
  let bad := (es.filter fun x => match x.2 with
    | none => true
    | some g => g.imm && !live.any fun y => y.1 == x.1).map (·.1)
  let fell := (good.filter fun x => x.2.imm && s.regions.contains x.2).map (·.1)
  let s := s.noteRegions bad fell
  { s with regions := (s.regions.filter fun g => !g.imm) ++ live.map (·.2), regionsNext := some pods }

/-! ### Copies of pod-shared lines (R87) -/

/-- The physical pages that n pages from a virtual address are mapped to. -/
def State.pagesOf (s : State) (ctx : Nat) : Nat → Nat → List Nat
  | 0, _ => []
  | n + 1, va =>
    (match s.walk ctx va with
     | .ok e => if e.host then [] else [(e.pbase + (va - e.vbase)) / 4096]
     | .error _ => []) ++ s.pagesOf ctx n (va + 4096)

/-- Every L1 and remote-data-cache copy of a pod-shared line is invalidated; what an alias dirtied is written
back first. -/
def State.dropPod (s : State) : State :=
  if s.copies.isEmpty then s
  else
    let pages := (s.regions.filter fun g => !g.imm).flatMap fun g => s.pagesOf g.ctx (g.size / 4096) g.base
    let units := ((s.copies.map fun x => x.1 / 2 ^ 60).filter fun u => decide (u < 576)).eraseDups
    let s := units.foldl (fun s u => s.purge u fun k => pages.contains (k / 4096)) s
    [rdcUnit 0, rdcUnit 1].foldl (fun s u =>
      (s.writeBack u fun k => pages.contains (k / 4096)).dropCopies u fun k => pages.contains (k / 4096)) s

end Sys2Proof.Machine
end

