-- ==== Sys2Proof/Machine/Boundary.lean ====
section
/-! DEFINITION. Superstep boundaries (R86, R87, R240 to R242, R319, R453, R474 to R479): the device's
arrival, the arrival tree, the decision, and the application of contributions. -/

namespace Sys2Proof.Machine

/-! ### The step group (R474) -/

/-- The step group is enabled, and the mode is not strict-standard (R470). -/
def State.stepGroup (s : State) : Bool := (s.csrGet 0x4090 0).getLsbD 20 && !s.strict

/-- The context of the step group. -/
def State.stepCtx (s : State) : Nat := (s.csrGet 0x4090 0).toNat % 2 ^ 20

/-- The ranks of the step bitmap at STEPGRP: bit r of byte r ÷ 8 stands for rank r. -/
def State.readMembers (s : State) : List Nat :=
  let base := (s.csrGet 0x4091 0).toNat / 64 * 64
  (List.range 4096).filter fun r => (s.memByte (base + r / 8)).getLsbD (r % 8)

/-- The members of the group: this device alone while the group is not enabled. -/
def State.group' (s : State) : List Nat := if s.stepGroup then s.members else [s.rank]

/-- Positions follow ascending rank. -/
def State.position (s : State) : Nat := (s.group'.takeWhile fun r => r != s.rank).length

/-- Step member teams: resident and saved, with whether each has arrived. -/
def State.stepTeams (s : State) : List Team :=
  (s.liveTeams.map (·.2) ++ s.saved.flatMap fun v => (v.teams.map (·.2)).filter fun t => t.live).filter fun t =>
    t.stepMember

/-! ### Applying contributions (R241, R242, R87) -/

/-- Insert by rank: (device rank, global team index) ascending. -/
def firnInsert (e : FirnEntry) : List FirnEntry → List FirnEntry
  | [] => [e]
  | x :: xs =>
    if x.rank < e.rank ∨ (x.rank = e.rank ∧ x.gti ≤ e.gti) then x :: firnInsert e xs else e :: x :: xs

/-- Contributions in ascending rank. -/
def firnSort (l : List FirnEntry) : List FirnEntry := l.foldl (fun acc e => firnInsert e acc) []

/-- The lesser or greater of two values of an element type (R241, Table 3). -/
def podMinMax (max' : Bool) (type x y : Nat) : Nat :=
  match type with
  | 2 => (fmtF32.minmax max' x y).1
  | 0 => if max' then Nat.max x y else Nat.min x y
  | t =>
    let f : IFmt := ⟨if t = 3 then 64 else 32, true⟩
    let less := decide (f.val x ≤ f.val y)
    if max' then (if less then y else x) else (if less then x else y)

/-- The new value of an address under its conflict rule, and whether it is a conflict (Table 3). -/
def podApply (rule type old : Nat) (cs : List Nat) : Nat × Bool :=
  let w := 8 * podBytes type
  match cs with
  | [] => (old, false)
  | c :: rest =>
    match rule with
    | 0 => if rest.isEmpty then (c, false) else (old, true)
    | 1 => (c, false)
    | 2 => (rest.getLastD c, false)
    | 3 => (cs.foldl (podMinMax false type) old, false)
    | 4 => (cs.foldl (podMinMax true type) old, false)
    | 5 => ((cs.foldl (· + ·) old) % 2 ^ w, false)
    | 6 => (cs.foldl (· ||| ·) old, false)
    | _ => (rn32Add old (rest.foldl rn32Add c), false)

/-- Apply the contributions to one address: the state, and whether they conflict. -/
def State.applyAddr (s : State) (l : List FirnEntry) : State × Bool :=
  match firnSort l with
  | [] => (s, false)
  | e :: es =>
    let src := if homeOfPa e.pa then 585 else 584
    let detail := leBytes 8 e.pa ++ leBytes 8 s.stepNo
    if (e :: es).any fun x => x.poison then
      (((s.poisonFlake e.pa).land e.pa e.size).logEvent src 5 2 (some e.ctx) detail, false)
    else
      match s.region e.ctx e.va with
      | none => (s, false)
      | some g =>
        let old := s.memNat e.pa e.size
        let r := podApply g.rule g.type old ((e :: es).map fun x => x.data.toNat % 2 ^ (8 * e.size))
        if r.2 then (s.logEvent src 4 3 (some e.ctx) detail, true)
        else (s.homeWrite e.pa (leBytes e.size r.1), false)

/-- Apply the buffers of the step, firn log entries included; whether an ERROR region
conflicted. -/
def State.applyFirn (s : State) : State × Bool :=
  let now := fun (e : FirnEntry) => e.step == s.stepNo
  let mine := s.firn.filter now
  let pas := (mine.map fun e => e.pa).eraseDups
  pas.foldl (fun st pa =>
    let r := st.1.applyAddr (mine.filter fun e => e.pa == pa)
    (r.1, st.2 || r.2)) ({ s with firn := s.firn.filter fun e => !now e }, false)

/-! ### Departure (R475, R476, R453) -/

/-- After a departure: a team whose live paths wait for the boundary that comes next has arrived there, having
executed its first `step` after the device's arrival (R319); no other team has arrived anywhere. -/
def Team.stepOn (t : Team) (n : Nat) : Team :=
  let at' := fun (p : Path) => !p.live || (match p.wait with | .step m _ => m == n | _ => false)
  { t with stepAt := if (t.path0.live || t.path1.live) && at' t.path0 && at' t.path1 then some n else Option.none }

/-- Let the paths that wait at a boundary depart, with its outcome. -/
def State.stepWake (s : State) (n out : Nat) : State :=
  let s := s.allPaths.foldl (fun s r =>
    match (s.path r).wait with
    | .step m d => if m = n then (s.acquireAct r .pod).endWait r d out else s
    | _ => s) s
  { s with teams := s.teams.map fun x => (x.1, x.2.stepOn (n + 1)) }

/-- FIRNFULL stops are replayed at each departure, with the same handle (R453). -/
def State.firnReplay (s : State) : State :=
  s.allPaths.foldl (fun s r =>
    if (s.path r).wait == .stopped && ((s.path r).stop.any fun x => x.cause == 9) then s.waitFor r .none else s) s

/-- Saved paths that wait at a boundary depart too: their outcome is in their saved registers. Their FIRNFULL stops are
replayed, as those of resident paths are (R453). -/
def SavedCrew.stepWake (v : SavedCrew) (n out : Nat) : SavedCrew :=
  let one := fun (t : Team) (b : Bool) =>
    match (t.path b).wait with
    | .step m d => if m = n then (t.sset d (BitVec.ofNat 64 out)).setPath b ((t.path b).advance 1) else t
    | .stopped => if (t.path b).stop.any fun x => x.cause == 9 then t.setPath b { t.path b with wait := .none } else t
    | _ => t
  { v with teams := v.teams.map fun x => (x.1, (one (one x.2 false) true).stepOn (n + 1)) }

/-- The device departs from its boundary: applied, applied with a conflict, or aborted. Copies of pod-shared
lines go before it enters the next step (R87): of the regions of the step that ends, and of those that begin now. -/
def State.depart (s : State) (complete : Bool) : State :=
  let n := s.stepNo
  let a : State × Bool := if complete then s.applyFirn else ({ s with firn := [] }, false)
  let out := if !complete then 2 else if a.2 then 1 else 0
  let s := a.1
  let s := { s with
    stepNo := n + 1, stepOut := out, arrived := false, arrivals := s.early, early := [], handed := false,
    aliveAt := s.tsc, decision := none, queried := false, asked := [],
    stepState := if complete then s.stepState else 2,
    saved := s.saved.map fun (v : SavedCrew) => v.stepWake n out }
  let s := (s.stepWake n out).firnReplay.dropPod.takeRegions.dropPod
  (s.ctxs.map fun x => x.1).foldl (fun s c => s.acceptHeld c) s

/-! ### Arrival (R319, R475) -/

/-- Remote accesses of the step that delay the device's arrival: `rst`, and `rld` of a pod-shared
region. -/
def State.stepPending (s : State) : Bool :=
  s.reqs.any fun q =>
    match q.packet.body with
    | .store .. => true
    | .load _ _ ls => ls.any fun l => match s.region (s.ctxOf q.r) l.va.toNat with | some g => !g.imm | none => false
    | _ => false

/-- The device may arrive at its boundary (R319, R462, R476). -/
def State.mayArrive (s : State) : Bool :=
  !s.arrived && s.stepState != 2 && !s.stepPending &&
  (s.stepTeams.all fun t => t.stepAt == some s.stepNo) &&
  !(s.stepGroup && (s.ctx s.stepCtx).frozen) &&
  !(s.liveTeams.any fun x => x.2.stepMember && (s.crew x.2.crew).frozen) &&
  !(s.saved.any fun v => (v.teams.any fun t => t.2.stepMember) && (s.ctx (s.grid v.crew.grid).ctx).frozen)

/-- Every right half of the nodes a position computes has arrived: levels below its highest. -/
def State.halvesIn (s : State) (n p lvl : Nat) : Bool :=
  (List.range lvl).all fun l =>
    let right := p / 2 ^ l + 1
    decide (n ≤ right * 2 ^ l) || s.arrivals.contains (l, right)

/-- The level at which a position hands its value up: the root's level for position 0. -/
def handUp (n p : Nat) : Nat :=
  ((List.range 13).find? fun l => p % 2 ^ (l + 1) != 0 || decide (n ≤ 2 ^ l)).getD 12

/-- The boundary has begun as far as the device knows. -/
def State.begun (s : State) : Bool := s.arrived || !s.arrivals.isEmpty

/-- Send members a message of the boundary, under the job key of the step group's context. -/
def State.tell (s : State) (dsts : List Nat) (body : PBody) : State := s.postAll (s.keyOf s.stepCtx) dsts 0 body

/-- The other members, and those of them that have not failed. -/
def State.otherMembers (s : State) : List Nat := s.members.filter fun r => r != s.rank
def State.liveMembers (s : State) : List Nat := s.otherMembers.filter fun r => !s.failures.contains r

/-- The rank of the device's tree parent: the position left of its highest node (R479). -/
def State.treeParent (s : State) : Nat :=
  s.group'.getD (s.position - 2 ^ handUp s.group'.length s.position) 0

/-- Position 0 takes the decision and multicasts it; others hand ARRIVE up, once (R475, R476). A device that holds
ABORT departs as it arrives. -/
def State.treeStep (s : State) : State :=
  let n := s.group'.length
  let p := s.position
  let lvl := handUp n p
  if s.arrived && s.decision == some false then s.depart false
  else if !s.arrived || !s.halvesIn n p lvl then s
  else if p = 0 then
    if s.queried then s
    else (({ s with decision := some true } : State).tell (if n = 1 then [] else s.otherMembers)
      (.decide s.stepNo ⟨true, false⟩)).depart true
  else if s.handed then s
  else ({ s with handed := true } : State).tell [s.treeParent] (.arrive s.stepNo lvl (p / 2 ^ lvl))

/-- ABORT(s) is known: the device departs with it once its members have arrived, so that each of their `step`
instructions gets the outcome (R397, R476); without members it departs at once. -/
def State.abort (s : State) : State :=
  let s := { s with decision := some false }
  if s.arrived || s.stepTeams.isEmpty then s.depart false else s

/-- Position 0 decides ABORT where a failure has been reported before the last arrival (R476). -/
def State.abortIf (s : State) : State :=
  if s.begun && !s.failures.isEmpty && s.position = 0 && !s.queried && s.decision.isNone then
    (s.tell s.otherMembers (.decide s.stepNo ⟨false, false⟩)).abort
  else s

/-- The device arrives if it may. One without members arrives once it has learned, now or earlier, that the boundary
has begun (R474). -/
def State.stepCheck (s : State) (begun : Bool := false) : State :=
  if (!s.stepTeams.isEmpty || ((begun || s.begun) && s.stepGroup)) && s.mayArrive then
    (({ s with arrived := true, aliveAt := if s.begun then s.aliveAt else s.tsc } : State).abortIf).treeStep
  else s

/-! ### Events of the boundary protocol -/

/-- ARRIVE(s) of a tree node (R475): it is kept, forwarded when both halves are in, and tells a device without members
that the boundary has begun (R474). One of the next boundary, which a peer that has departed already sends, is kept
for it. -/
def State.arriveMsg (s : State) (n : Nat) (node : Nat × Nat) : State :=
  if !s.stepGroup then s
  else if n = s.stepNo + 1 then
    { s with early := if s.early.contains node then s.early else s.early ++ [node] }
  else if n ≠ s.stepNo then s
  else
    let s := { s with
      arrivals := if s.arrivals.contains node then s.arrivals else s.arrivals ++ [node]
      aliveAt := if s.begun then s.aliveAt else s.tsc }
    let n := s.stepNo
    let s := s.abortIf
    if s.stepNo ≠ n then s else if s.arrived then s.treeStep else s.stepCheck true

/-- ARRIVE. -/
def execArrive (via : Via) (n : Nat) (node : Nat × Nat) (s : State) : Res :=
  .next (s.onMsg via fun s => some (s.arriveMsg n node))

/-- COMPLETE(s) or ABORT(s), or the outcome of a query. A member that answered a query without a decision ignores any
other (R476). -/
def State.decideMsg (s : State) (n : Nat) (d : Decision) : State :=
  if n ≠ s.stepNo || !s.stepGroup || (s.queried && !d.query) then s
  else if d.complete then (if s.arrived then s.depart true else s)
  else s.abort

/-- BOUNDARY_DECISION. -/
def execBoundaryDecision (via : Via) (n : Nat) (d : Decision) (s : State) : Res :=
  .next (s.onMsg via fun s => some (s.decideMsg n d))

/-- The outcome of the device's own query: told to every live member, and applied (R476). -/
def State.outcome (s : State) (complete : Bool) : State :=
  let s := ({ s with asked := [] } : State).tell s.liveMembers (.decide s.stepNo ⟨complete, true⟩)
  if complete then (if s.arrived then s.depart true else s) else s.abort

/-- Ask every live member for its decision: without any, no one holds COMPLETE. -/
def State.ask (s : State) : State :=
  let s := { s with queried := true, asked := s.liveMembers }
  if s.asked.isEmpty then s.outcome false else s.tell s.asked (.query s.stepNo)

/-- A member's answer is not awaited any more: after the last the boundary aborts. -/
def State.heard (s : State) (rank : Nat) : State :=
  if s.asked.contains rank then
    let s := { s with asked := s.asked.filter fun x => x != rank }
    if s.asked.isEmpty then s.outcome false else s
  else s

/-- A member answers the device's query: if any holds COMPLETE(s), every live member completes (R476). -/
def State.answerMsg (s : State) (src n : Nat) (complete : Option Bool) : State :=
  if n ≠ s.stepNo || !s.asked.contains src then s
  else if complete = some true then s.outcome true
  else s.heard src

/-- The collectives that some test names end with error status, their destinations poisoned (R323). -/
def State.endColls (s : State) (hit : CollDesc → Bool) : State :=
  { s with engines := s.engines.map fun e =>
      match e.kind with
      | .coll d _ =>
        if hit d && e.phase != .finished then
          { e with err := true, phase := if e.phase == .running then .queued else e.phase }
        else e
      | _ => e }

/-- The collectives that a member that fails takes part in end (R480). -/
def State.failColl (s : State) (rank : Nat) : State := s.endColls fun d => d.group.contains rank

/-- A member is failed (R476). Position 0 aborts if it has not decided, once the boundary has begun; another member
without a decision asks every live member. -/
def State.failMember (s : State) (rank : Nat) : State :=
  if !s.stepGroup || !s.members.contains rank then s.failColl rank
  else
    let s := if s.failures.contains rank then s else { s with failures := s.failures ++ [rank] }
    let s := s.failColl rank
    if s.decision.isSome then s
    else if s.position = 0 && !s.queried then s.abortIf
    else if s.asked.isEmpty then s.ask
    else s.heard rank

/-- MEMBER_FAILURE: a member reports a fatal error, or has been silent. -/
def execMemberFailure (rank : Nat) (s : State) : Res := .next (s.failMember rank)

/-- A member asks whether this device holds a decision (R476). -/
def State.queryMsg (s : State) (src n : Nat) : State :=
  if n < s.stepNo then s.tell [src] (.queryAnswer n (some (n + 1 != s.stepNo || s.stepOut != 2)))
  else if n = s.stepNo then
    ({ s with queried := s.queried || s.decision.isNone } : State).tell [src] (.queryAnswer n s.decision)
  else s

/-- FAILURE_QUERY. -/
def execFailureQuery (via : Via) (n : Nat) (s : State) : Res :=
  .next (s.onMsg via fun s => some (s.queryMsg via.h.src n))

/-- KEEP_ALIVE: sent to the tree parent while the boundary is open (R475); position 0 has none. -/
def execKeepAlive (n : Nat) (s : State) : Res :=
  if n = s.stepNo && s.stepGroup && s.begun && s.position != 0 then
    .next (({ s with aliveAt := s.tsc } : State).tell [s.treeParent] (.keepAlive n))
  else .next s

end Sys2Proof.Machine
end

