-- ==== Sys2Proof/Machine/Sync.lean ====
section
/-! DEFINITION. Synchronisation (R304 to R320): fences, flags and copy tags, barriers, monitors, grace
periods and supersteps. -/

namespace Sys2Proof.Machine

/-! ### Fences and flags (R305, R307) -/

/-- `fence` (R305): the path's later stores are release events (R220). -/
def execFence (ord : Order) (scope : Scope) (s : State) : Res :=
  issued s fun r =>
    s.releaseIf r (releases ord) scope fun s =>
      s.acquire r (acquires ord) true scope fun s =>
        (s.modPath r fun p => { p with fenced := if releases ord then widest p.fenced (some scope) else p.fenced }).advance r 1

/-- `flwait` (R307, R248): it acquires at crew scope, at which remote-die copies stay (R229, R234), or at the wider
completion scope of the operation whose flag it is, which `State.complete` has done. -/
def execFlwait (m : BitVec 12) (s : State) : Res :=
  issued s fun r =>
    let p := s.path r
    if p.flags &&& m != 0 then s.waitFor r (.flags m)
    else
      match waitNote p.poison m with
      | some n => (s.modPath r fun p => { p with poison := p.poison.erase n }).takeStop r (poisonStop n)
      | none => s.advance r 1

/-! ### Copy tags (R308, R309) -/

/-- A copy tag is busy while a command of the crew that names it is incomplete (R308). -/
def State.tagBusy (s : State) (crew : Nat) (t : Nat) : Bool :=
  s.engines.any fun e => e.crew == crew && e.tag == t && !e.clear

/-- The tags that a mask names and that are clear; tags not held count as clear (R309). -/
def clearTags (busy : Nat → Bool) (mask : BitVec 64) : List Nat :=
  (List.range 64).filter fun t => mask.getLsbD t && !busy t

/-- Tags as a mask. -/
def tagMask (l : List Nat) : BitVec 64 := l.foldl (fun m t => m ||| BitVec.ofNat 64 (2 ^ t)) 0

/-- A wait has seen some tags clear: the error status of their commands is consumed and stops the wait
(R309, R456); otherwise it acquires at the widest scope of the tags' commands (R234). -/
def State.seeTags (s : State) (r : PathRef) (l : List Nat) (k : State → State) : State :=
  let m := tagMask l
  let n := s.crewNo r
  if (s.crew n).tagErr &&& m != 0 then
    (s.modCrew n fun c => { c with tagErr := c.tagErr &&& ~~~ m }).takeStop r { cause := 14, sub := 3 }
  else
    let old := (s.crew n).tagScope
    let sc := l.foldl (fun a t => Scope.wider a (Store.get .crew old t)) .crew
    k ((s.modCrew n fun c => { c with tagScope := c.tagScope.filter fun x => !l.contains x.1 }).acquireAct r sc)

/-- `twany` (R309). -/
def execTwany (d a : SReg) (s : State) : Res :=
  issued s fun r =>
    let m := s.sget r a
    let l := clearTags (s.tagBusy (s.crewNo r)) m
    if m = 0 then (s.startLate r [.s d 0]).advance r 1
    else if l.isEmpty then s.waitFor r (.tags m false)
    else s.seeTags r l fun s => (s.startLate r [.s d (tagMask l)]).advance r 1

/-- `twall` (R309). -/
def execTwall (a : SReg) (s : State) : Res :=
  issued s fun r =>
    let m := s.sget r a
    let l := clearTags (s.tagBusy (s.crewNo r)) m
    if tagMask l = m then s.seeTags r l fun s => s.advance r 1 else s.waitFor r (.tags m true)

/-- Tags claimed on a core (R308). -/
def State.tagsOn (s : State) (core : Nat) : Nat :=
  (s.crews.filter fun c => c.2.live && c.2.core == core).foldl (fun n c =>
    n + ((List.range 64).filter fun t => c.2.tags.getLsbD t).length) 0

/-- `tffr` (R309). -/
def execTffr (d : SReg) (s : State) : Res :=
  issued s fun r =>
    let c := s.crewOf r
    let free := if s.tagsOn c.core < 64 then (List.range 64).find? fun t => !c.tags.getLsbD t else none
    match free with
    | none => (s.startLate r [.s d 64]).advance r 1
    | some t =>
      ((s.modCrew (s.crewNo r) fun c => { c with tags := c.tags ||| tagMask [t] }).startLate r
        [.s d (BitVec.ofNat 64 t)]).advance r 1

/-- `tclr` (R309). -/
def execTclr (t : BitVec 6) (s : State) : Res :=
  issued s fun r =>
    let n := s.crewNo r
    let m := tagMask [t.toNat]
    if !(s.crew n).tags.getLsbD t.toNat then s.advance r 1
    else if s.tagBusy n t.toNat then s.waitFor r (.tags m true)
    else s.seeTags r [t.toNat] fun s => (s.modCrew n fun c => { c with tags := c.tags &&& ~~~ m }).advance r 1

/-! ### Barriers (R310, R311, R495) -/

/-- `bar`: die and grid scope need a resident grid. -/
def execBar (id : BitVec 2) (scope : BarScope) (s : State) : Res :=
  issued s fun r =>
    if (scope == .die || scope == .grid) && !(s.gridOf r).record.res then s.takeStop r { cause := 19, sub := 1 }
    else
      s.release r (barOrder scope) fun s =>
        let n := (s.team r.tok).arrivals scope id
        (s.waitFor r (.bar scope id n)).barArrive r scope id

/-- Traffic crosses between the dies: no quiesce (R466) and no relock (R488). -/
def State.crossOpen (s : State) : Bool := !s.crossStop

/-- DIE_ARRIVED: die 1's message crosses, once every member on die 1 has arrived (R495). -/
def execDieArrived (grid : Nat) (id : BitVec 2) (inst : Nat) (s : State) : Res :=
  let m := barMsg grid id inst
  if (s.grid grid).live && (s.grid grid).twoDies && s.crossOpen && s.dieArrivedAt grid 1 id inst &&
      !s.dieMsgs.contains m then
    .next (({ s with dieMsgs := s.dieMsgs ++ [m] } : State).barSweep grid)
  else .next s

/-- COMPLETE: die 0's message crosses, once the instance is complete there (R495). -/
def execComplete (grid : Nat) (id : BitVec 2) (inst : Nat) (s : State) : Res :=
  let m := barMsg grid id inst
  if (s.grid grid).live && (s.grid grid).twoDies && s.crossOpen && s.dieArrivedAt grid 0 id inst &&
      s.dieMsgs.contains m && !s.completes.contains m then
    .next (({ s with completes := s.completes ++ [m] } : State).barSweep grid)
  else .next s

/-! ### Monitors (R313) -/

/-- The TSC at which a wait of some ticks ends: never for 0. -/
def State.deadline (s : State) (ticks : DWord) : Option Nat := if ticks = 0 then none else some (s.tsc + ticks.toNat)

/-- `mwait` (R313): it returns at once without a monitor, after a landing, or after a restoration. -/
def execMwait (d a : SReg) (s : State) : Res :=
  issued s fun r =>
    let off := fun (s : State) => s.modPath r fun p => { p with monitor := none }
    match (s.path r).monitor with
    | none => s.endWait r d 2
    | some m =>
      if m.restored then (off s).endWait r d 3
      else if m.landed then (off s).endWait r d 0
      else s.waitFor r (.mwait (s.deadline (s.sget r a)) d)

/-- `grin` (R314). One that opens a section, and so is in no snapshot taken before, comes after those snapshots and
what precedes them (R245): its core keeps no older copy. -/
def execGrin (s : State) : Res :=
  issued s fun r =>
    if (s.team r.tok).grace = 15 then s.takeStop r { cause := 20, sub := 1 }
    else
      let s := if (s.team r.tok).grace = 0 then s.acquireAct r .device else s
      (s.modTeam r.tok fun t => { t with grace := t.grace + 1 }).advance r 1

/-- `grout` (R314): a release at device scope; at depth 0 the team leaves its snapshot (R315). -/
def execGrout (s : State) : Res :=
  issued s fun r =>
    if (s.team r.tok).grace = 0 then s.takeStop r { cause := 20, sub := 2 }
    else
      s.release r .device fun s =>
        let s := (s.modTeam r.tok fun t => { t with grace := t.grace - 1 }).advance r 1
        if (s.team r.tok).grace = 0 then s.graceLeave (s.ctxOf r) r.tok else s

/-- `grq` (R314). -/
def execGrq (d : SReg) (s : State) : Res :=
  issued s fun r =>
    let g := (s.ctx (s.ctxOf r)).grace
    let v := g.last % 2 ^ 32 + g.active.toNat * 2 ^ 32 + g.pending.toNat * 2 ^ 33
    (s.startLate r [.s d (BitVec.ofNat 64 v)]).advance r 1

/-- `grwait` (R316): a request, and a wait for its period's end. The snapshot comes after every event of the path
before it (R245), as behind a release at device scope. -/
def execGrwait (d : SReg) (s : State) : Res :=
  issued s fun r =>
    s.afterAll r .device fun s =>
      let c := s.ctxOf r
      let q := s.graceRequest c
      (q.1.waitFor r (.grwait q.2 d)).graceSettle c 3

/-- The address of a place of a context's deferred ring, counted from its oldest entry (R407). -/
def Ctx.ringPlace (x : Ctx) (i : Nat) : Nat := x.record.grbase + 16 * ((x.grace.head + i) % x.record.grsize)

/-- `grfree` (R317): the entry's 16 bytes go to the ring in memory (R407). -/
def execGrfree (d a : SReg) (s : State) : Res :=
  issued s fun r =>
    let c := s.ctxOf r
    let x := s.ctx c
    if s.verOf r ≠ 0 then s.takeStop r { cause := 12 }
    else if x.record.grsize ≤ x.grace.ring.length then (s.startLate r [.s d 1]).advance r 1
    else
      s.afterAll r .device fun s =>
        let q := s.graceRequest c
        let e : List Byte := leBytes 8 (s.sget r a).toNat ++ leBytes 8 (s.sget r (a + 1)).toNat
        let s := (q.1.modCtx c fun x => { x with grace := { x.grace with ring := x.grace.ring ++ [⟨q.2, false⟩] } }).homeWrite
          (x.ringPlace x.grace.ring.length) e
        ((s.startLate r [.s d 0]).advance r 1).graceSettle c 3

/-- `grpop` (R318): the entry's two words are read from the ring. What follows comes after the events of the readers
that its period waited for (R246). -/
def execGrpop (d : SReg) (s : State) : Res :=
  issued s fun r =>
    let c := s.ctxOf r
    let x := s.ctx c
    match x.grace.ring with
    | e :: rest =>
      if e.thawed then
        let k := x.ringPlace 0
        let v := fun (i : Nat) => BitVec.ofNat 64 (s.memNat (k + i) 8)
        let t := s.modCtx c fun x =>
          { x with grace := { x.grace with ring := rest, head := (x.grace.head + 1) % x.record.grsize } }
        ((t.acquireAct r .device).startLate r [.s d (v 0), .s (d + 1) (v 8)]).advance r 1
      else (s.startLate r [.s d 0, .s (d + 1) 0]).advance r 1
    | [] => (s.startLate r [.s d 0, .s (d + 1) 0]).advance r 1

/-! ### Supersteps (R319, R320, R474) -/

/-- `step`: the team becomes a member, and arrives once each of its live paths waits here. A first
`step` after the device has arrived waits for the departure, which marks the team arrived at the boundary after
it. -/
def execStep (d : SReg) (s : State) : Res :=
  issued s fun r =>
    if s.stepGroup && s.ctxOf r != s.stepCtx then s.takeStop r { cause := 19, sub := 2 }
    else
      s.release r .pod fun s =>
        if s.arrived then
          (s.waitFor r (.step (s.stepNo + 1) d)).modTeam r.tok fun t => { t with stepMember := true }
        else
          let n := s.stepNo
          let s := s.waitFor r (.step n d)
          let t := s.team r.tok
          let at' := fun (p : Path) => !p.live || (match p.wait with | .step m _ => m == n | _ => false)
          let here := at' t.path0 && at' t.path1
          (s.modTeam r.tok fun t =>
            { t with stepMember := true, stepAt := if here then some n else t.stepAt }).stepCheck

/-- `stepq` (R320). -/
def execStepq (d : SReg) (s : State) : Res :=
  issued s fun r =>
    let v := s.stepOut + (if (s.team r.tok).stepAt.isSome then 4 else 0)
    (s.startLate r [.s d (BitVec.ofNat 64 v)]).advance r 1

end Sys2Proof.Machine
end

