-- ==== Sys2Proof/Machine/Engine.lean ====
section
/-! DEFINITION. Engine commands (R321 to R331): the snapshot read at issue, the accesses an engine
makes, completion barrier objects, copy chains, indexed copies and collectives. -/

namespace Sys2Proof.Machine

/-! ### Accesses of an engine (R231, R328, R449) -/

/-- Why an engine's access was not made. -/
inductive EngErr where
  /-- A fault that holds an engine stop: cause, sub-cause, address, access kind. -/
  | fault (cause sub : Nat) (va : DWord) (acc : Nat)
  /-- A host translation is needed (R445), for an access of a kind at an address. -/
  | ats (port : Bool) (page : Nat) (va : DWord) (acc : Nat)
  /-- The target refuses: the command completes with error status. -/
  | refuse
  /-- It waits: for a line that an earlier command owns, or for the boundary (R232, R240). -/
  | wait
  deriving DecidableEq, Repr

/-- A failed read as an engine's error: address faults and poison hold a stop (R449); a refusal does not. -/
def engRead : RdErr → EngErr
  | .xlat (.fault c sub) va => if 6 ≤ c ∧ c ≤ 8 then .fault c sub va 0 else .refuse
  | .xlat (.ats port page) va => .ats port page va 0
  | .poison va => .fault 14 1 va 0
  | .wait _ => .wait

/-- A failed translation of a write. -/
def engXlat (e : XErr) (va : DWord) (acc : Nat) : EngErr :=
  match e with
  | .fault c sub => if 6 ≤ c ∧ c ≤ 8 then .fault c sub va acc else .refuse
  | .ats port page => .ats port page va acc

/-- Store elements of a pod-shared region (R86). -/
def State.vFirn (s : State) (v : View) (x : Xlat) (va : DWord) (size : Nat) : List Byte → Nat → Except EngErr State
  | _, 0 => .ok s
  | bs, k + 1 =>
    match v.who with
    | none => .error .refuse
    | some r =>
      match s.firnStore { s.firnOf r x va size (leNat (bs.take size)) with ctx := v.ctx } with
      | none => .error .refuse
      | some s =>
        s.vFirn v { x with key := x.key + size } (va + BitVec.ofNat 64 size) size (bs.drop size) k

/-- Every copy of some lines is recalled, in every L1 and remote-data cache: dirty bytes are written back to their home
first (R232). -/
def State.recallCopies (s : State) (k n : Nat) : State :=
  if s.copies.isEmpty then s
  else
    let hit := fun j => decide (flakeOf k ≤ flakeOf j) && decide (flakeOf j ≤ flakeOf (k + n - 1))
    let us := s.copyUnits
    let s := (us.filter fun u => decide (u < 576)).foldl (fun s u => (s.l1ToRdc u hit).dropCopies u hit) s
    [576, 577].foldl (fun s u => (s.writeBack u hit).dropCopies u hit) s

/-- Write bytes within one flake as a coherent agent, in the view's (domain, version) (R328). What a version writes
that has been squashed meanwhile is dropped (R84, R339). -/
def State.vWrite (s : State) (v : View) (va : DWord) (bs : List Byte) : Except EngErr State :=
  let n := bs.length
  if !(s.dom v.dom).liveVer v.ver then .ok s
  else match s.vReach v .store va with
  | .error e => .error (engXlat e va 1)
  | .ok (x, t) =>
    if s.vOwned v x.key n || s.loadHeld v.core x.home s.nextSer then .error .wait else
    let put := fun (_ : Unit) =>
      let s := if v.ver = 0 then s.recallCopies x.key n else s
      .ok ((s.writeFor v.dom v.ver x.key bs).displace)
    match t with
    | .device => put ()
    | .host | .window => if v.ver ≠ 0 then .error .refuse else put ()
    | .pod _ type =>
      let z := podBytes type
      if v.ver ≠ 0 || va.toNat % z ≠ 0 || n % z ≠ 0 then .error .refuse else s.vFirn v x va z bs (n / z)
    | .imm => .error .refuse

/-- Bytes to the next flake boundary. -/
def toFlake (a : Nat) : Nat := 32 - a % 32

/-- Write bytes at any address, flake by flake. -/
def State.vWriteAll (s : State) (v : View) : Nat → DWord → List Byte → Except EngErr State
  | 0, _, _ => .ok s
  | fuel + 1, va, bs =>
    if bs.isEmpty then .ok s
    else
      let n := min bs.length (toFlake va.toNat)
      match s.vWrite v va (bs.take n) with
      | .error e => .error e
      | .ok s => s.vWriteAll v fuel (va + BitVec.ofNat 64 n) (bs.drop n)

/-- Write bytes. -/
def State.vPut (s : State) (v : View) (va : DWord) (bs : List Byte) : Except EngErr State :=
  s.vWriteAll v bs.length va bs

/-- Poisoned contributions to the elements of a pod-shared region in a range of addresses on one page, which the
boundary applies as poison (R242). -/
def State.podPoison (s : State) (v : View) (x : Xlat) (lo hi size : Nat) : State :=
  match v.who with
  | none => s
  | some r =>
    (List.range (hi / size + 1 - lo / size)).foldl (fun s i =>
      let a := (lo / size + i) * size
      if a < lo || hi < a + size then s
      else
        (s.firnStore { s.firnOf r { x with key := x.key + (a - lo) } (BitVec.ofNat 64 a) size 0 true with ctx := v.ctx }).getD s) s

/-- Mark the flakes of a global range poisoned (R323): of device memory, host memory or a host window at their home, and
of a pod-shared region in the command's contributions. -/
def State.vPoison (s : State) (v : View) (va len : Nat) : State :=
  if len = 0 then s
  else
    (List.range ((va + len - 1) / 32 - va / 32 + 1)).foldl (fun s i =>
      let lo := Nat.max va ((va / 32 + i) * 32)
      let hi := Nat.min (va + len) ((va / 32 + i + 1) * 32)
      match s.vReach v .store (BitVec.ofNat 64 lo) with
      | .ok (x, .device) | .ok (x, .host) => s.poisonFor v.dom v.ver x.key
      | .ok (x, .window) => if v.ver = 0 then s.poisonFlake x.key else s
      | .ok (x, .pod _ type) => if v.ver = 0 then s.podPoison v x lo hi (podBytes type) else s
      | _ => s) s

/-! ### Completion barrier objects (R324) -/

/-- GEN of an object. -/
def objGen (o : Nat) : Nat := bitsOf o 47 24

/-- Whether an arrival reaches a word it may change, as an atomic does (R256): in version 0 host memory and the windows
too, and never a pod-shared word. That TARGET, which R343 gives the data of a KV command, does not bind its arrival is the
model's choice (assumption 87). -/
def State.objReach (s : State) (v : View) (sc : Scope) (obj : DWord) : Except EngErr Nat :=
  match s.vReach v .atomic obj with
  | .error e => .error (engXlat e obj 2)
  | .ok (x, t) =>
    let spec := match t with | .device => false | .pod .. => true | _ => v.ver != 0
    if s.vOwned v x.key 8 || s.loadHeld v.core x.home s.nextSer || s.outHeld v.core sc then .error .wait
    else if spec then .error .refuse
    else if s.poisonedIn v.dom v.ver x.key 8 then .error (.fault 14 1 obj 2)
    else .ok x.key

/-- One arrival at an object, for a core's engine and context: a release at the arrival's scope, and one
read-modify-write at the object's home (R234, R324). A command whose version has been squashed makes none (R339). -/
def State.objArrive (s : State) (v : View) (sc : Scope) (obj : DWord) (gen : Nat) : Except EngErr State :=
  if !(s.dom v.dom).liveVer v.ver then .ok s else
  match s.objReach v sc obj with
  | .error e => .error e
  | .ok k =>
    let s := (s.releaseCore v.core sc).fillHost k 8
    let s := if v.ver = 0 then s.purge v.core fun j => decide (flakeOf j = flakeOf k) else s.useSpans v.dom v.ver k
    let o := leNat (s.homeBytes v.dom v.ver k 8)
    let status := fun (b : Nat) (found : Nat) (s : State) =>
      (s.csrPut 0x1004 v.core (s.csrGet 0x1004 v.core ||| BitVec.ofNat 64 (2 ^ b))).logEvent (clusterSrc v.core) 2 3
        (some v.ctx) (leBytes 8 obj.toNat ++ leBytes 4 found ++ leBytes 1 b)
    if objGen o ≠ gen then .ok (status 0 (objGen o) s)
    else
      let count := o % 2 ^ 24
      let new :=
        if count = 0 then o ||| 2 ^ 49
        else if count = 1 then (o - 1) ||| 2 ^ 48
        else o - 1
      let s := (s.writeFor v.dom v.ver k (leBytes 8 new)).displace
      .ok (if count = 0 then status 1 (objGen o) s else s)

/-- The scope a code names (R218); 0 is the crew's. -/
def scopeOf (n : Nat) : Scope := if n = 0 then .crew else (Scope.ofCode (BitVec.ofNat 3 n)).getD .crew

/-! ### Issuing a command (R308, R321, R322) -/

/-- Commands in a core's engine queue. -/
def State.queueLen (s : State) (core : Nat) : Nat :=
  (s.engines.filter fun e => e.core == core && (match e.phase with | .held _ => false | _ => true)).length

/-- An engine command: its tag must be held, everything before it performed, and the queue have room. -/
def State.engineIssue (s : State) (r : PathRef) (tag : BitVec 6) (k : State → State) : State :=
  if !(s.crewOf r).tags.getLsbD tag.toNat then s.takeStop r { cause := 18, sub := 1 }
  else s.release r .crew fun s => if 64 ≤ s.queueLen (s.coreOf r) then s.waitFor r .room else k s

/-- The command a path issues. -/
def State.command (s : State) (r : PathRef) (tag : BitVec 6) (kind : EngKind) (phase : EngPhase) : EngCmd :=
  { serial := s.nextSer, core := s.coreOf r, crew := s.crewNo r, r := r, pc := (s.path r).pc, ctx := s.ctxOf r,
    kernel := s.kernel r, dom := s.domOf r, ver := s.verOf r, tag := tag.toNat, kind := kind, phase := phase,
    err := false, asks := none, hurt := false, clear := false }

/-- Queue a command. -/
def State.submit (s : State) (r : PathRef) (tag : BitVec 6) (kind : EngKind) (phase : EngPhase := .queued) : State :=
  { s with engines := s.engines ++ [s.command r tag kind phase], nextSer := s.nextSer + 1 }

/-- A free held-copy index (R325). -/
def State.freeHeld (s : State) : Option Nat :=
  (List.range 1024).find? fun i => !s.engines.any fun e => e.phase == .held i

/-- With HOLD a copy is long-latency: take its slot first (R126, R142). -/
def State.slotIf (s : State) (r : PathRef) (hold : Bool) (k : Option Nat → State) : State :=
  if hold then s.withSlot r fun f => k (some f) else k none

/-- Queue a copy, or hold it: a held copy writes its id and waits for `cntp` (R325). -/
def State.submitCopy (s : State) (r : PathRef) (d : SReg) (tag : BitVec 6) (hold : Option Nat) (kind : EngKind) : State :=
  match hold with
  | none => (s.submit r tag kind).advance r 1
  | some f =>
    match s.freeHeld with
    | none => s.waitFor r .room
    | some i => ((s.submit r tag kind (.held i)).startPend r f [.s d (BitVec.ofNat 64 (0x80000000 + i))]).advance r 1

/-! ### Copy chains (R325, R326) -/

/-- A signed 32-bit field. -/
def sInt32 (x : Nat) : Int := (BitVec.ofNat 32 x).toInt

/-- An address whose upper half is zero where it names the scratchpad. -/
def spForm (sp : Bool) (va : DWord) : Bool := !sp || va.toNat / 2 ^ 32 == 0

/-- One entry's eight words: the entry, or none where it is malformed (R325, R326). An IF whose ADDR is no multiple of
4 is malformed too: R327 reads an aligned word there, and no rule names the fault (assumption 78). -/
def chainEntryOf (w : List Nat) : Option ChainEntry :=
  let w0 := w.getD 0 0
  let w1 := w.getD 1 0
  let q := fun i => BitVec.ofNat 64 (w.getD i 0 + 2 ^ 32 * w.getD (i + 1) 0)
  let zero := fun (l : List Nat) => l.all fun i => w.getD i 0 == 0
  let ssp := w0.testBit 4
  let dk := bitsOf w0 6 5
  let setf := w0.testBit 7
  let hdr := bitsOf w0 15 8 == 0 && dk != 3 && (!setf || dk == 1) && spForm ssp (q 2) && spForm (dk == 1) (q 4) &&
    (!setf || (q 4).toNat % 4 == 0)
  match w0 % 16 with
  | 0 => if w0 == 0 && zero [1, 2, 3, 4, 5, 6, 7] then some .fin else none
  | 1 =>
    if hdr && bitsOf w0 31 16 == 0 && zero [6, 7] && (!setf || w1 % 4 == 0) then
      some (.copy ssp dk setf w1 (q 2) (q 4)) else none
  | 2 =>
    let ds := sInt32 (w.getD 7 0)
    let rl := bitsOf w1 19 0 + 1
    if hdr && bitsOf w1 31 20 == 0 && (!setf || (rl % 4 == 0 && ds % 4 == 0)) then
      some (.strided ssp dk setf (bitsOf w0 31 16 + 1) rl (q 2) (q 4) (sInt32 (w.getD 6 0)) ds) else none
  | 3 =>
    let back := bitsOf w0 31 16
    if bitsOf w0 15 4 == 0 && decide (1 ≤ back) && decide (back ≤ 63) && w1 != 0 && zero [6, 7] then
      some (.loop back w1 (q 2) (q 4)) else none
  | 4 =>
    let skip := bitsOf w0 31 16
    if bitsOf w0 15 5 == 0 && decide (1 ≤ skip) && decide (skip ≤ 63) && spForm ssp (q 2) &&
        (q 2).toNat % 4 == 0 && bitsOf (w.getD 4 0) 31 2 == 0 && zero [5, 6, 7] then
      some (.cond ssp skip (BitVec.ofNat 32 w1) (q 2) (w.getD 4 0 % 4)) else none
  | 5 =>
    if bitsOf w0 31 4 == 0 && decide (1 ≤ w1) && decide (w1 ≤ 6) && (q 2).toNat % 8 == 0 && zero [4, 5, 6, 7] then
      some (.signal w1 (q 2) 0) else none
  | _ => none

/-- The structure of a chain: loops inside it and not nested, jumps that do not pass END. -/
def chainShape (es : List ChainEntry) : Bool :=
  es.zipIdx.all fun x =>
    match x.1 with
    | .loop back _ _ dd =>
      decide (back ≤ x.2) && ((es.drop (x.2 - back)).take back).all fun e =>
        match e with
        | .loop .. => false
        | .copy _ _ setf .. | .strided _ _ setf .. => !setf || dd.toNat % 4 == 0
        | _ => true
    | .cond _ skip _ _ _ => decide (x.2 + skip + 1 ≤ es.length)
    | _ => true

/-- One row of a tile destination lies within its slot, and its handle is live (R326). -/
def CoreSt.tileOk (c : CoreSt) (h : Word) (off len : Nat) : Bool := (c.handle h).isSome && decide (off + len ≤ 8192)

/-- A place of n bytes at issue: scratchpad ranges under R60, global addresses under R52, tile rows by the test above, whose
fault is the command's engine fault with the sub-cause given. -/
def State.placeFault (s : State) (r : PathRef) (p : Place) (n sub : Nat) : Option (XErr × DWord) :=
  if n = 0 then none
  else
    match p with
    | .glob va => if va.toNat / 2 ^ 56 = 0 then none else some (.fault 6 2, va)
    | .sp va =>
      match s.spRange (s.crewNo r) va.toNat n 1 with
      | .error e => some (e, va)
      | .ok _ => none
    | .tile h off =>
      if (s.crewOf r).matrix && (s.coreSt (s.coreOf r)).tileOk h off n then none else some (.fault 18 sub, 0)

/-- The issue checks of one entry of a chain, for every row and iteration (R326): none when it passes, else the fault. -/
def State.entryFault (s : State) (r : PathRef) (es : List ChainEntry) (i : Nat) (e : ChainEntry) : Option (XErr × DWord) :=
  match e with
  | .cond ssp _ _ addr _ => s.placeFault r (srcPlace ssp addr) 4 2
  | .signal _ obj _ => s.placeFault r (.glob obj) 8 2
  | _ => (e.moves (chainLoop es i)).findSome? fun x =>
      (s.placeFault r x.1 x.2.2 2).or (s.placeFault r x.2.1 x.2.2 2)

/-- Read a chain's entries up to END: none when there is no END among 64, or an entry is malformed. -/
def State.readChain (rd : DWord → Except RdErr (List Nat)) : Nat → DWord → Except RdErr (Option (List ChainEntry))
  | 0, _ => .ok none
  | fuel + 1, va => do
    let w ← rd va
    match chainEntryOf w with
    | none => .ok none
    | some .fin => .ok (some [])
    | some e =>
      let rest ← State.readChain rd fuel (va + 32)
      .ok (rest.map fun l => e :: l)

/-- Read eight words of a structure in the scratchpad (R60). -/
def State.spWords (s : State) (crew : Nat) (va : DWord) : Except RdErr (List Nat) :=
  match s.spRange crew va.toNat 32 32 with
  | .error e => .error (.xlat e va)
  | .ok (k, off) =>
    if (s.crew k).spPoisoned off 32 then .error (.poison va)
    else .ok ((List.range 8).map fun i => (s.crew k).bytes (off + 4 * i) 4)

/-- Record the generation of every object a chain signals (R324). -/
def State.chainGens (s : State) (v : View) : List ChainEntry → Except RdErr (List ChainEntry)
  | [] => .ok []
  | .signal sc obj _ :: es => do
    let o ← s.vNat v 8 obj
    let rest ← s.chainGens v es
    .ok (.signal sc obj (objGen o) :: rest)
  | e :: es => do
    let rest ← s.chainGens v es
    .ok (e :: rest)

/-- `cpy` (R325, R326). -/
def execCpy (d a : SReg) (sp hold : Bool) (tag : BitVec 6) (s : State) : Res :=
  issued s fun r =>
    s.slotIf r hold fun hold => s.engineIssue r tag fun s =>
      let v := s.viewOf r
      let va := if sp then ((s.sget r a).setWidth 32).setWidth 64 else s.sget r a
      let rd := fun x => if sp then s.spWords (s.crewNo r) x else s.vUnits v 4 8 x
      let bad := s.takeStop r { cause := 18, sub := 2 }
      s.alignedTo r 32 va <|
        s.withRead r (State.readChain rd 64 va) fun c =>
          match c with
          | none => bad
          | some es =>
            if !chainShape es then bad
            else
              match es.zipIdx.findSome? fun x => s.entryFault r es x.2 x.1 with
              | some (e, x) => s.xerr r e x 0 0
              | none =>
                let used := (if sp then [] else [(va, 32 * es.length)]) ++ es.filterMap fun e => match e with
                  | .signal _ obj _ => some (obj, 8)
                  | _ => none
                s.withUsed r v used (s.chainGens v es) fun s es => s.submitCopy r d tag hold (.chain es)

/-! ### Indexed copies (R329) -/

/-- A `cpyx` descriptor's sixteen words: none where it breaks its entry. R329 gives SSP no meaning when gathering and DKIND
none when SCAT is set: that SSP is ignored there, and that DKIND must then be 0, is the model's choice (assumption 88). -/
def cpyxOf (w : List Nat) : Option CpyxDesc :=
  let w0 := w.getD 0 0
  let q := fun i => BitVec.ofNat 64 (w.getD i 0 + 2 ^ 32 * w.getD (i + 1) 0)
  let scat := w0.testBit 0
  let dk := bitsOf w0 3 2
  let setf := w0.testBit 4
  let rl := bitsOf w0 31 16 + 1
  let ssp := w0.testBit 1
  let lin := q 8
  let sp := if scat then ssp else dk == 1
  let ok := bitsOf w0 15 5 == 0 && dk != 3 && (!scat || (dk == 0 && !setf)) && (!setf || dk == 1) &&
    (q 2).toNat % 4 == 0 && w.getD 7 0 == 0 && ([11, 12, 13, 14, 15].all fun i => w.getD i 0 == 0) && spForm sp lin &&
    (!setf || (lin.toNat % 4 == 0 && rl % 4 == 0 && w.getD 10 0 % 4 == 0))
  if ok then some ⟨scat, ssp, dk, setf, rl, w.getD 1 0, q 2, q 4, w.getD 6 0, lin, w.getD 10 0⟩ else none

/-- `cpyx` (R329). A tile row outside its slot, or with a handle that is not live, raises DESC, where a chain raises CHAIN:
R329 leaves this to R326, and the model takes the fault of the structure concerned (assumption 88). -/
def execCpyx (d a : SReg) (hold : Bool) (tag : BitVec 6) (s : State) : Res :=
  issued s fun r =>
    s.slotIf r hold fun hold => s.engineIssue r tag fun s =>
      let va := s.sget r a
      s.alignedTo r 64 va <|
        s.readUnits r (s.viewOf r) 4 16 va fun s w =>
          let bad := s.takeStop r { cause := 18, sub := 3 }
          match cpyxOf w with
          | none => bad
          | some x =>
            match (List.range x.count).findSome? fun i => s.placeFault r (x.line i) x.rowlen 3 with
            | some (e, at') => s.xerr r e at' 0 0
            | none =>
              if x.idx.toNat / 2 ^ 56 ≠ 0 then s.xerr r (.fault 6 2) x.idx 0 0
              else if x.base.toNat / 2 ^ 56 ≠ 0 then s.xerr r (.fault 6 2) x.base 0 0
              else s.submitCopy r d tag hold (.indexed x)

/-! ### Running a copy (R327 to R329) -/

/-- The view of a command: its issuing team's. -/
def EngCmd.view (e : EngCmd) : View := ⟨e.core, e.ctx, e.kernel, e.dom, e.ver, some e.r, some e.serial⟩

/-- Read a piece at a place; scratchpad poison reads as an engine's poison. -/
def State.engGet (s : State) (e : EngCmd) (p : Place) (n : Nat) : Except EngErr (List Byte) :=
  match p with
  | .glob va => (s.vPiece e.view n va).mapError engRead
  | .sp va =>
    match s.spRange e.crew va.toNat n 1 with
    | .error _ => .error .refuse
    | .ok (k, off) =>
      if (s.crew k).spPoisoned off n then .error (.fault 14 1 va 0)
      else .ok (Store.getList 0 (s.crew k).scratch off n)
  | .tile .. => .error .refuse

/-- The slot a handle's index names, if its crew still claims it. -/
def CoreSt.slotOf (c : CoreSt) (h : Word) : Option Nat :=
  let i := h.toNat % 32
  if c.claimed.getLsbD i && bitsOf h.toNat 15 8 == c.gen i then some i else none

/-- A copy is about to write n bytes of a slot: the array instructions queued now, and those queued before it
completes, may read the old ones (R283). -/
def State.noteRace (s : State) (e : EngCmd) (slot off n : Nat) : State :=
  let c := s.coreSt e.core
  let old := (List.range n).map fun i => (slotKeyOf slot (off + i), (c.slotBytes slot (off + i) 1).headD 0)
  let s := s.modCore e.core fun c => { c with racing := c.racing ++ old.map fun x => (e.serial, x.1, x.2) }
  { s with cores := s.cores.map fun c =>
      (c.1, { c.2 with queue := c.2.queue.map fun q => { q with old := q.old ++ old.map fun x => (e.core, x.1, x.2) } }) }

/-- Write a piece at a place; with SETF the words it covers become full, as a release at cluster scope for a cluster-shared
address (R328). -/
def State.engPut (s : State) (e : EngCmd) (p : Place) (setf : Bool) (bs : List Byte) : Except EngErr State :=
  match p with
  | .glob va => s.vWrite e.view va bs
  | .sp va =>
    match s.spRange e.crew va.toNat bs.length 1 with
    | .error _ => .error .refuse
    | .ok (k, off) =>
      let s := if setf && spShared va then s.releaseCore e.core .cluster else s
      .ok (s.modCrew k fun c =>
        let c := (c.put off bs).spMend [(off, bs.length)]
        if setf then (List.range ((bs.length + 3) / 4)).foldl (fun c i => c.setFull (off + 4 * i) true) c else c)
  | .tile h off =>
    match (s.coreSt e.core).slotOf h with
    | none => .error .refuse
    | some i =>
      if off + bs.length > 8192 then .error .refuse
      else .ok ((s.noteRace e i off bs.length).modCore e.core fun c => (c.slotPut i off bs).slotMend i off bs.length)

/-- Copy bytes piece by piece, ascending. R327 does not say what a copy whose ends overlap reads, nor an entry that reads what
an earlier one writes: each piece reads what has been written before it, which is the model's choice (assumption 89). -/
def State.engCopy (s : State) (e : EngCmd) (setf : Bool) : Nat → Place → Place → Nat → Except EngErr State
  | 0, _, _, _ => .ok s
  | fuel + 1, src, dst, len =>
    if len = 0 then .ok s
    else
      let n := min len (min (toFlake src.at) (toFlake dst.at))
      match s.engGet e src n with
      | .error x => .error x
      | .ok bs =>
        let s := match src with | .glob va => s.vUse e.view va n | _ => s
        match s.engPut e dst setf bs with
        | .error x => .error x
        | .ok s => s.engCopy e setf fuel (src.add n) (dst.add n) (len - n)

/-- A run of a copy: the state, and the destinations written so far. -/
structure Run where
  s     : State
  dests : List (Place × Nat)

/-- One move of bytes: an error keeps the destinations it would have written. -/
def Run.move (x : Run) (e : EngCmd) (setf : Bool) (src dst : Place) (len : Nat) : Except (EngErr × List (Place × Nat)) Run :=
  let to' := x.dests ++ [(dst, len)]
  match x.s.engCopy e setf len src dst len with
  | .error er => .error (er, to')
  | .ok s => .ok ⟨s, to'⟩

/-- Rows of a strided move. -/
def Run.rows (e : EngCmd) (setf : Bool) (src dst : Place) (rl : Nat) (ss ds : Int) :
    Nat → Nat → Run → Except (EngErr × List (Place × Nat)) Run
  | 0, _, x => .ok x
  | k + 1, i, x =>
    match x.move e setf (src.row i ss) (dst.row i ds) rl with
    | .error er => .error er
    | .ok x => Run.rows e setf src dst rl ss ds k (i + 1) x

/-- Compare as an IF entry does. -/
def chainCmp (c : Nat) (x v : Nat) : Bool :=
  match c with
  | 0 => x == v
  | 1 => x != v
  | 2 => decide (x < v)
  | _ => decide (v ≤ x)

/-- Run a chain from entry i (R327): the entries with their addresses so far, and the LOOP iterations
done, keyed by entry. -/
def runChain (e : EngCmd) (orig : List ChainEntry) : Nat → Nat → List ChainEntry → Store Nat → Run →
    Except (EngErr × List (Place × Nat)) Run
  | 0, _, _, _, x => .ok x
  | fuel + 1, i, es, loops, x =>
    match es[i]? with
    | none => .ok x
    | some .fin => .ok x
    | some (.copy ssp dk f len src dst) =>
      match x.move e f (srcPlace ssp src) (placeOf dk dst) len with
      | .error er => .error er
      | .ok x => runChain e orig fuel (i + 1) es loops x
    | some (.strided ssp dk f rows rl src dst ss ds) =>
      match Run.rows e f (srcPlace ssp src) (placeOf dk dst) rl ss ds rows 0 x with
      | .error er => .error er
      | .ok x => runChain e orig fuel (i + 1) es loops x
    | some (.loop back count sd dd) =>
      let done := Store.get 0 loops i
      let body := fun (y : ChainEntry × Nat) => decide (i - back ≤ y.2) && decide (y.2 < i)
      if done + 1 < count then
        let es := es.zipIdx.map fun y => if body y then y.1.shift sd dd else y.1
        runChain e orig fuel (i - back) es (Store.set 0 loops i (done + 1)) x
      else
        let es := es.zipIdx.map fun y => if body y then orig.getD y.2 y.1 else y.1
        runChain e orig fuel (i + 1) es (Store.set 0 loops i 0) x
    | some (.cond ssp skip val addr cmp) =>
      match x.s.engGet e (srcPlace ssp addr) 4 with
      | .error er => .error (er, x.dests)
      | .ok bs =>
        let t := if ssp then x.s else x.s.vUse e.view addr 4
        runChain e orig fuel (if chainCmp cmp (leNat bs) val.toNat then i + 1 else i + skip + 1) es loops { x with s := t }
    | some (.signal sc obj gen) =>
      match x.s.objArrive e.view (scopeOf sc) obj gen with
      | .error er => .error (er, x.dests)
      | .ok s => runChain e orig fuel (i + 1) es loops { x with s := s }

/-- Rows of an indexed copy, ascending (R329). -/
def runIndexed (e : EngCmd) (d : CpyxDesc) : Nat → Nat → Run → Except (EngErr × List (Place × Nat)) Run
  | 0, _, x => .ok x
  | k + 1, i, x =>
    match x.s.vNat e.view 4 (d.idx + BitVec.ofNat 64 (4 * i)) with
    | .error er => .error (engRead er, x.dests)
    | .ok j =>
      let x := { x with s := x.s.vUse e.view (d.idx + BitVec.ofNat 64 (4 * i)) 4 }
      let far : Place := .glob (d.base + BitVec.ofNat 64 (j * d.istride))
      let lin := d.line i
      let m := if d.scat then x.move e false lin far d.rowlen else x.move e d.setf far lin d.rowlen
      match m with
      | .error er => .error er
      | .ok x => runIndexed e d k (i + 1) x

/-- Mark a destination poisoned (R323). -/
def State.poisonPlace (s : State) (e : EngCmd) (x : Place × Nat) : State :=
  match x.1 with
  | .glob va => s.vPoison e.view va.toNat x.2
  | .sp va =>
    match s.spRange e.crew va.toNat x.2 1 with
    | .error _ => s
    | .ok (k, off) =>
      if x.2 = 0 then s
      else s.modCrew k fun c =>
        let ws := (List.range ((off + x.2 + 3) / 4 - off / 4)).map fun i => off / 4 + i
        { c with spPoison := c.spPoison ++ ws.filter fun w => !c.spPoison.contains w }
  | .tile h off =>
    match (s.coreSt e.core).slotOf h with
    | none => s
    | some i => s.modCore e.core fun c => c.slotSpoil i off (min x.2 (8192 - off))

/-! ### Collectives (R330, R331, R479, R480) -/

/-- Bytes of an element. -/
def CollDesc.size (d : CollDesc) : Nat := if d.type = 3 then 8 else 4

/-- Combine two elements (R331). -/
def CollDesc.combine (d : CollDesc) (x y : Nat) : Nat :=
  match d.red with
  | 0 => if d.type = 0 then rn32Add x y else (x + y) % 2 ^ (8 * d.size)
  | r =>
    let type := if d.type = 0 then 2 else if d.type = 1 then 1 else if d.type = 2 then 0 else 3
    podMinMax (r == 2) type x y

/-- A `coll` descriptor's words and its group: none where it breaks its entry (R330). -/
def collOf (w : List Nat) (group : List Nat) (rank gen : Nat) : Option CollDesc :=
  let w0 := w.getD 0 0
  let q := fun i => BitVec.ofNat 64 (w.getD i 0 + 2 ^ 32 * w.getD (i + 1) 0)
  let n := w.getD 8 0
  let op := w0 % 16
  let type := bitsOf w0 7 4
  let z := if type = 3 then 8 else 4
  let sc := w.getD 12 0
  let asc := (group.zip (group.drop 1)).all fun x => decide (x.1 < x.2)
  let ok := decide (op ≤ 4) && decide (type ≤ 3) && decide (bitsOf w0 11 8 ≤ 2) && bitsOf w0 31 12 == 0 &&
    (q 2).toNat % z == 0 && (q 4).toNat % z == 0 && decide (2 ≤ n) && decide (n ≤ 4096) && asc &&
    group.contains rank && (!(op == 1 || op == 2) || decide (w.getD 9 0 < n)) && (q 10).toNat % 8 == 0 &&
    (q 10 == 0 || (decide (1 ≤ sc) && decide (sc ≤ 6))) && decide (sc ≤ 6) && w.getD 14 0 == 0 && w.getD 15 0 == 0
  if ok then
    some ⟨op, type, bitsOf w0 11 8, w.getD 1 0, q 2, q 4, group, w.getD 9 0, q 10, gen, sc, w.getD 13 0⟩
  else none

/-- `coll` (R330). A GROUP address that is no multiple of 4 raises DESC: R330 gives GROUP no alignment, and this is the
model's choice (assumption 88). -/
def execColl (a : SReg) (tag : BitVec 6) (s : State) : Res :=
  issued s fun r =>
    s.engineIssue r tag fun s =>
      let va := s.sget r a
      let v := s.viewOf r
      let bad := s.takeStop r { cause := 18, sub := 3 }
      if s.verOf r ≠ 0 then s.takeStop r { cause := 12 }
      else
        s.alignedTo r 64 va <|
          s.readUnits r v 4 16 va fun s w =>
            let n := w.getD 8 0
            let g := BitVec.ofNat 64 (w.getD 6 0 + 2 ^ 32 * w.getD 7 0)
            let obj := BitVec.ofNat 64 (w.getD 10 0 + 2 ^ 32 * w.getD 11 0)
            if n < 2 || 4096 < n || g.toNat % 4 ≠ 0 || obj.toNat % 8 ≠ 0 then bad
            else
              s.readUnits r v 4 n g fun s group =>
                s.withUsed r v (objRange obj) (if obj = 0 then .ok 0 else s.vNat v 8 obj) fun s o =>
                  match collOf w group s.rank (objGen o) with
                  | none => bad
                  | some d => (s.submit r tag (.coll d [])).advance r 1

/-- This device's position in a group. -/
def CollDesc.pos (d : CollDesc) (rank : Nat) : Nat := (d.group.takeWhile fun x => x != rank).length

/-- A node's value, if it has been computed or received. -/
def nodeVal (nodes : List (Nat × Nat × List DWord)) (l i : Nat) : Option (List DWord) :=
  (nodes.find? fun x => x.1 == l && x.2.1 == i).map fun x => x.2.2

/-- Compute the nodes of a position upwards from its own value, as far as its right halves are in
(R479, R480). -/
def collUp (d : CollDesc) (p : Nat) : Nat → Nat → List (Nat × Nat × List DWord) → List (Nat × Nat × List DWord)
  | 0, _, nodes => nodes
  | fuel + 1, l, nodes =>
    let n := d.group.length
    let i := p / 2 ^ l
    match nodeVal nodes l i with
    | none => nodes
    | some x =>
      if n ≤ 2 ^ l || i % 2 = 1 then nodes
      else
        let up := fun y => nodes.filter (fun z => !(z.1 == l + 1 && z.2.1 == i / 2)) ++ [(l + 1, i / 2, y)]
        if n ≤ (i + 1) * 2 ^ l then collUp d p fuel (l + 1) (up x)
        else
          match nodeVal nodes l (i + 1) with
          | none => nodes
          | some y =>
            collUp d p fuel (l + 1)
              (up ((x.zip y).map fun z => BitVec.ofNat 64 (d.combine z.1.toNat z.2.toNat)))

/-- The level of the root. -/
def CollDesc.rootLevel (d : CollDesc) : Nat := ((List.range 13).find? fun l => decide (d.group.length ≤ 2 ^ l)).getD 12

/-- What a collective's packets say of it (R480). -/
def CollDesc.hdr (d : CollDesc) : CollHdr :=
  ⟨d.collid, d.op, d.type, d.red, d.count, crc32c (d.group.flatMap fun r => leBytes 4 r)⟩

/-- The members other than one position's. -/
def CollDesc.others (d : CollDesc) (p : Nat) : List Nat :=
  (d.group.zipIdx.filter fun x => x.2 != p).map fun x => x.1

/-- The messages a member owes, with the members they go to: its value up the tree, the root's result, or its own
block. -/
def CollDesc.owes (d : CollDesc) (p : Nat) (nodes : List (Nat × Nat × List DWord)) : List (List Nat × PBody) :=
  let msg := fun ds l i => (nodeVal nodes l i).toList.map fun v => (ds, PBody.collective d.hdr l i v)
  match d.op with
  | 2 => if p = d.root then msg (d.others p) 0 p else []
  | 3 => msg (d.others p) 0 p
  | _ =>
    let l := handUp d.group.length p
    msg (if p ≠ 0 then [d.group.getD (p - 2 ^ l) 0]
      else if d.op = 1 then (if d.root = 0 then [] else [d.group.getD d.root 0]) else d.others p) l (p / 2 ^ l)

/-- What a member writes when it has all it needs: none while something is missing. -/
def CollDesc.result (d : CollDesc) (p : Nat) (nodes : List (Nat × Nat × List DWord)) : Option (List DWord) :=
  let root := nodeVal nodes d.rootLevel 0
  match d.op with
  | 0 => root
  | 1 => if p = d.root then root else (nodeVal nodes (handUp d.group.length p) (p / 2 ^ handUp d.group.length p)).map fun _ => []
  | 2 => nodeVal nodes 0 d.root
  | 3 => ((List.range d.group.length).mapM fun q => nodeVal nodes 0 q).map List.flatten
  | _ => root.map fun v => (v.drop (p * d.count)).take d.count

/-- Elements a member contributes. -/
def CollDesc.len (d : CollDesc) : Nat := if d.op = 4 then d.count * d.group.length else d.count

/-- The level under which a member notes that it has sent what it owes. -/
def collSent : Nat := 100

/-- Go on with a collective: compute nodes, send what is owed, write the result when it is complete. -/
def State.collStep (s : State) (e : EngCmd) (d : CollDesc) (nodes : List (Nat × Nat × List DWord)) :
    Except EngErr (State × List (Nat × Nat × List DWord) × Bool) :=
  let p := d.pos s.rank
  let nodes := if d.op = 2 || d.op = 3 then nodes else collUp d p 13 0 nodes
  let new := if (nodeVal nodes collSent 0).isSome then [] else d.owes p nodes
  let nodes := if new.isEmpty then nodes else nodes ++ [(collSent, 0, [])]
  let s := new.foldl (fun s x => s.postAll (s.keyOf e.ctx) x.1 0 x.2) s
  match d.result p nodes with
  | none => .ok (s, nodes, false)
  | some vals =>
    match s.vPut e.view d.dst (vals.flatMap fun x => leBytes d.size x.toNat) with
    | .error x => .error x
    | .ok s => .ok (s, nodes, true)

/-! ### Engine stops (R449) -/

/-- Change a command. -/
def State.modEngine (s : State) (n : Nat) (f : EngCmd → EngCmd) : State :=
  { s with engines := s.engines.map fun e => if e.serial = n then f e else e }

def State.engine (s : State) (n : Nat) : Option EngCmd := s.engines.find? fun e => e.serial == n

/-- A command holds an engine stop: a handle of its own, and one record in its context's fault queue
with the ENGINE bit and the command's PC (R449, R450). -/
def State.engineStop (s : State) (e : EngCmd) (i : StopInfo) : State :=
  let h := s.newHandle e.ctx
  let c := s.crew e.crew
  let bs := s.faultRecord h i c.grid e.pc c.lin (whereBits (s.team e.r.tok).num e.r.path e.core) true false []
  let s := s.modEngine e.serial fun x => { x with phase := .stopped h (x.phase == .finished) }
  let s := s.modCtx e.ctx fun x => { x with serial := x.serial + 1 }
  s.fqAdd e.ctx (dieOfCore e.core) bs

/-- A command's host page is still asked for. -/
def State.asking (s : State) (e : EngCmd) : Bool :=
  match e.asks with
  | some (port, page, _, _) => s.atsOut.contains (port, e.ctx, page) || s.pageAsked (engineRef e.serial) port e.ctx page
  | none => false

/-- Bytes a member of a collective writes (R331). -/
def CollDesc.dstLen (d : CollDesc) (p : Nat) : Nat :=
  d.size * (match d.op with
    | 1 => if p = d.root then d.count else 0
    | 3 => d.count * d.group.length
    | _ => d.count)

/-- All the destinations of a command, which an error poisons (R323): those of every entry of a chain, with the steps
of its LOOP; every row of an indexed copy whose index can be read. A KV command that ends in error has those alone
that it had written (R352). -/
def State.engPlaces (s : State) (e : EngCmd) : List (Place × Nat) :=
  match e.kind with
  | .chain es => (chainMoves es).map fun x => x.2
  | .indexed d => (List.range d.count).flatMap fun i =>
      if d.scat then
        match s.vNat e.view 4 (d.idx + BitVec.ofNat 64 (4 * i)) with
        | .ok j => [(Place.glob (d.base + BitVec.ofNat 64 (j * d.istride)), d.rowlen)]
        | .error _ => []
      else [(d.line i, d.rowlen)]
  | .coll d _ => [(Place.glob d.dst, d.dstLen (d.pos s.rank))]
  | .kv _ => []
  | .smpl c => (Place.glob (c.job + 28), 4) ::
      c.slots.flatMap fun x => [(Place.glob x.addr, 64), (Place.glob x.out, 256)]

/-- Mark some destinations poisoned. -/
def State.poisonAll (s : State) (e : EngCmd) (ds : List (Place × Nat)) : State :=
  ds.foldl (fun s x => s.poisonPlace e x) s

/-- Complete with error status: poison the destinations (R323). -/
def State.engError (s : State) (e : EngCmd) (ds : List (Place × Nat)) : State :=
  (s.poisonAll e ds).modEngine e.serial fun x => { x with phase := .finished, err := true }

/-- What an engine's failed access comes to, but for a refusal: a stop, a request to the host, or a wait, after
which the access is made again. A command that reads poison holds a stop (R449) with its destinations poisoned;
one that reads poison again, once it has been resumed, completes with error status (R248; assumption 54). -/
def State.engFault (s : State) (e : EngCmd) (er : EngErr) (ds : List (Place × Nat) := s.engPlaces e) : State :=
  match er with
  | .fault cause sub va acc =>
    let stop := fun (s : State) =>
      s.engineStop e { cause := cause, sub := sub, addr := va, detail := acc + 4, loadpc := if cause = 14 then e.pc else 0 }
    if cause ≠ 14 then stop s
    else if e.hurt then s.engError e ds
    else stop ((s.poisonAll e ds).modEngine e.serial fun x => { x with hurt := true })
  | .wait => s
  | .ats port page va acc => (s.atsAsk (engineRef e.serial) port e.ctx page).modEngine e.serial fun x => { x with asks := some (port, page, va, acc) }
  | .refuse => s

end Sys2Proof.Machine
end

