-- ==== Sys2Proof/Machine/Place.lean ====
section
/-! DEFINITION. Kernel descriptors (R333) and where crews may run (R23, R25, R27, R55, R56, R429 to
R431): the choice of hardware cluster and cores, the placing of a crew and the start of its teams
(R14). -/

namespace Sys2Proof.Machine

/-! ### Kernel descriptors (R333) -/

/-- A team word of a descriptor. -/
def teamDescOf (x : Nat) : TeamDesc :=
  ⟨x % 2 ^ 11,
   match bitsOf x 12 11 with
   | 0 => .work | 1 => .drain | 2 => .feed | _ => .matrix,
   8 * bitsOf x 18 13⟩

/-- A team within R11 and R23: a vector team of role work or drain, or a uniform one of role feed or
matrix. -/
def TeamDesc.ok (t : TeamDesc) : Bool :=
  if t.width = 1 then (t.role == .feed || t.role == .matrix) && t.budget == 0
  else decide (32 ≤ t.width) && decide (t.width ≤ 1024) && t.width % 32 == 0 && (t.role == .work || t.role == .drain) &&
    decide (8 ≤ t.budget) && decide (t.budget ≤ 256)

def TeamDesc.vector (t : TeamDesc) : Bool := t.width != 1

/-- Bytes of vector registers a crew takes (R25). -/
def KDesc.demand (k : KDesc) : Nat := (k.teams.map fun t => if t.vector then t.width * t.budget * 4 else 0).sum

def KDesc.vectors (k : KDesc) : Nat := (k.teams.filter fun t => t.vector).length
def KDesc.hasMatrix (k : KDesc) : Bool := k.teams.any fun t => t.role == .matrix

/-- The unit of the pool boundaries (R54). -/
def kib16 : Nat := 16384

/-- The limits of R11, R23 and R25, and the fit on an empty core. -/
def KDesc.layoutOk (k : KDesc) : Bool :=
  k.entry.toNat % 4 == 0 && (k.teams.all fun t => t.ok) && decide (1 ≤ k.vectors) && decide (k.vectors ≤ 8) &&
  decide (k.teams.length - k.vectors ≤ 2) && decide ((k.teams.filter fun t => t.role == .matrix).length ≤ 1) &&
  decide (k.regtop ≤ k.sptop) && decide (k.sptop ≤ k.cachetop) && decide (k.cachetop ≤ 64) &&
  decide (k.demand ≤ k.regtop * kib16) && decide (k.scratch ≤ (k.sptop - k.regtop) * kib16)

/-- An operation of a macro table: its two words, and bits [2:0] for d, a and b from the top (R151). -/
def macroOpOf (w : List Nat) : MacroOp :=
  let f := w.getD 2 0
  ⟨BitVec.ofNat 32 (w.getD 0 0), BitVec.ofNat 32 (w.getD 1 0), f.testBit 2, f.testBit 1, f.testBit 0⟩

/-- Read n macro entries of 388 bytes: none where an operation count is out of range or a reserved bit
is set. -/
def State.readMacros (s : State) (v : View) : Nat → DWord → Except RdErr (Option (List (List MacroOp)))
  | 0, _ => .ok (some [])
  | n + 1, va => do
    let w ← s.vUnits v 4 97 va
    let c := w.getD 0 0
    let ops := (List.range c).map fun i => (w.drop (1 + 3 * i)).take 3
    if c = 0 ∨ 32 < c ∨ (ops.any fun o => decide (8 ≤ o.getD 2 0)) then .ok none
    else
      let rest ← s.readMacros v n (va + 388)
      .ok (rest.map fun l => ops.map macroOpOf :: l)

/-- Read a kernel descriptor in a view (R321, R333); one that breaks its layout is not valid. That an absent team's word with a
ROLE or BUDGET that is not zero breaks it, and a macro table's address that is no multiple of 4, is the model's choice
(assumption 94). -/
def State.readKd (s : State) (v : View) (va : DWord) : Except RdErr KDesc := do
  if va.toNat % 16 ≠ 0 then .ok KDesc.zero
  else
    let w ← s.vUnits v 4 20 va
    let b := w.getD 2 0
    let ts := (w.drop 4).take 10
    let present := ts.takeWhile fun x => x % 2 ^ 11 != 0
    let n := w.getD 16 0
    let macros := quadWord w 14
    let ok := b % 2 ^ 24 == b && !b.testBit 7 && !b.testBit 15 && !b.testBit 23 && decide (w.getD 3 0 < 2 ^ 13) &&
      (present.all fun x => decide (x < 2 ^ 19)) && ((ts.drop present.length).all fun x => x == 0) &&
      !n.testBit 11 && !n.testBit 15 && ([17, 18, 19].all fun i => w.getD i 0 == 0) && macros.toNat % 4 == 0
    let kd : KDesc :=
      { addr := va, entry := quadWord w 0, regtop := b % 128, sptop := bitsOf b 14 8, cachetop := bitsOf b 22 16,
        scratch := w.getD 3 0 * 256, teams := present.map teamDescOf, macros := [], nodeW := n % 2 ^ 11,
        reclen := bitsOf n 14 12 + 1, timer := n / 2 ^ 16, valid := false }
    if !(ok && kd.layoutOk) then .ok kd
    else if macros = 0 then .ok { kd with valid := true }
    else
      let c ← s.vNat v 4 macros
      if 64 < c then .ok kd
      else
        let m ← s.readMacros v c (macros + 4)
        match m with
        | none => .ok kd
        | some l => .ok { kd with macros := l, valid := true }
where
  quadWord (w : List Nat) (i : Nat) : DWord := BitVec.ofNat 64 (w.getD i 0 + 2 ^ 32 * w.getD (i + 1) 0)

/-- Reading a descriptor uses the versioned copies of its words and of its macro table (R83). -/
def State.useKd (s : State) (v : View) (va : DWord) : State :=
  if s.vspans.isEmpty && s.l1own.isEmpty then s
  else
    let s := s.vUse v va 80
    match s.vNat v 8 (va + 56) with
    | .ok m => if m = 0 then s else
        match s.vNat v 4 (BitVec.ofNat 64 m) with
        | .ok n => s.vUse v (BitVec.ofNat 64 m) (4 + 388 * Nat.min n 64)
        | .error _ => s
    | .error _ => s

/-! ### Cores (R25, R56, R429) -/

/-- Crews that occupy a core: resident ones, and retired ones whose cluster is still resident, since its
crews may address their scratchpads. -/
def State.crewsOn (s : State) (core : Nat) : List (Nat × Crew) := s.crews.filter fun c => c.2.core == core

/-- TOP of a pool boundary register of a core (R54). -/
def State.top (s : State) (core i : Nat) : Nat := ((s.csrGet (0x1000 + i) core).extractLsb' 14 7).toNat

/-- The core's boundaries are a kernel's triple. -/
def State.boundsAre (s : State) (core : Nat) (k : KDesc) : Bool :=
  s.top core 0 == k.regtop && s.top core 1 == k.sptop && s.top core 2 == k.cachetop

/-- A core can take a crew of a kernel that holds some copy tags (R429). -/
def State.canTake (s : State) (core : Nat) (k : KDesc) (tags : Nat) : Bool :=
  let on := s.crewsOn core
  let drained := on.any fun c => (s.grid c.2.grid).clusters.any fun x => x.idx == c.2.cluster && x.phase == .draining
  let vec := (on.map fun c => (s.grid c.2.grid).kd.vectors).sum
  !drained && decide (on.length < 4) && decide (vec + k.vectors ≤ 16) &&
  (on.isEmpty || (s.boundsAre core k && (s.coreSt core).macros == k.macros)) &&
  decide ((on.map fun c => c.2.demand).sum + k.demand ≤ k.regtop * kib16) &&
  decide ((on.map fun c => c.2.size).sum + k.scratch ≤ (k.sptop - k.regtop) * kib16) &&
  !(k.hasMatrix && on.any fun c => c.2.matrix) && decide (s.tagsOn core + tags ≤ 64)

/-- Cores for the crews of a cluster on one hardware cluster, each the lowest-numbered that can take it,
one crew a core (R27, R429). -/
def State.coresFor (s : State) (k : KDesc) : List Nat → List Nat → Option (List Nat)
  | _, [] => some []
  | cores, tags :: rest =>
    match cores.find? fun c => s.canTake c k tags with
    | none => none
    | some c => (s.coresFor k (cores.filter (· != c)) rest).map fun l => c :: l

/-- The cores of hardware cluster h. -/
def coresOfHw (h : Nat) : List Nat := (List.range 96).map fun i => h * 96 + i

/-- Where a cluster may go. -/
inductive Dest where
  | die (d : Bool)
  | either
  | hw (h : Nat)
  deriving DecidableEq, Repr

/-- The hardware clusters of a partition on a die that can take a cluster, with its cores. -/
def State.roomOn (s : State) (mask : BitVec 6) (k : KDesc) (tags : List Nat) (d : Bool) : List (Nat × List Nat) :=
  (List.range 3).filterMap fun i =>
    let h := 3 * d.toNat + i
    if mask.getLsbD h then (s.coresFor k (coresOfHw h) tags).map fun l => (h, l) else none

/-- The choice of R429: the hardware cluster and the cores. -/
def State.findRoom (s : State) (mask : BitVec 6) (k : KDesc) (tags : List Nat) : Dest → Option (Nat × List Nat)
  | .die d => (s.roomOn mask k tags d).head?
  | .either =>
    let a := s.roomOn mask k tags false
    let b := s.roomOn mask k tags true
    if a.length < b.length then b.head? else a.head?
  | .hw h => if mask.getLsbD h then (s.coresFor k (coresOfHw h) tags).map fun l => (h, l) else none

/-! ### Shape of a grid (R11, R30) -/

/-- Crews of a grid, and of one of its clusters. -/
def LaunchRec.crews (r : LaunchRec) : Nat := r.gx * r.gy * r.gz
def LaunchRec.clusterSize (r : LaunchRec) : Nat := r.cx * r.cy * r.cz
def LaunchRec.clusters (r : LaunchRec) : Nat := r.crews / r.clusterSize

/-- The die a cluster index is tied to: none under PLACE 2 (R30). -/
def LaunchRec.dest (r : LaunchRec) (idx : Nat) : Dest :=
  match r.place with
  | 0 => .die false
  | 1 => .die true
  | 2 => .either
  | _ => .die (decide ((r.clusters + 1) / 2 ≤ idx))

/-- The positions of a cluster's crews, in ascending cluster index (R30). -/
def LaunchRec.positions (r : LaunchRec) (idx : Nat) : List (Nat × Nat × Nat) :=
  let nx := r.gx / r.cx
  let ny := r.gy / r.cy
  let bx := idx % nx * r.cx
  let by' := idx / nx % ny * r.cy
  let bz := idx / (nx * ny) * r.cz
  (List.range r.clusterSize).map fun i =>
    (bx + i % r.cx, by' + i / r.cx % r.cy, bz + i / (r.cx * r.cy))

/-! ### Placing a crew (R14, R55, R61, R151, R412) -/

/-- The next team token: 0 and the tokens of live teams, saved ones included, are skipped. -/
def State.freeTok (s : State) : Nat :=
  let held := fun (t : Nat) => (s.team t).live || s.saved.any fun v => v.teams.any fun x => x.1 == t
  let c := (List.range (s.teams.length + s.saved.length * 10 + 2)).map fun i => (s.nextTok.toNat + i) % 2 ^ 32
  (c.find? fun t => t != 0 && !held t).getD s.nextTok.toNat

/-- A team at its first issue (R14). -/
def startTeam (k : KDesc) (crew num : Nat) (d : TeamDesc) : Team :=
  let t := { Team.none with live := true, crew := crew, num := num, width := d.width, role := d.role, budget := d.budget }
  { t with path0 := { Path.none with live := true, pc := k.entry, xm := t.allLanes } }

/-- Write registers in order from a first one. -/
def Team.srun (t : Team) : Nat → List DWord → Team
  | _, [] => t
  | i, x :: xs => (t.sset (BitVec.ofNat 6 i) x).srun (i + 1) xs

/-- Write a record into the registers of a lane. -/
def Team.vrun (t : Team) (lane : Nat) : Nat → List Word → Team
  | _, [] => t
  | i, x :: xs => (t.vset (BitVec.ofNat 8 i) lane x).vrun lane (i + 1) xs

/-- What a cart or a CALL gives its team beside R14 (R41, R335, R380): record i in lane i, with one lane
for each record; the registers of Table 5 of the sampler. -/
def seedTeam (src : GridSource) (t : Team) : Team :=
  match src with
  | .cart recs =>
    let t := recs.zipIdx.foldl (fun t x => t.vrun x.2 0 x.1) t
    { t with path0 := { t.path0 with xm := BitVec.ofNat 1024 (2 ^ recs.length - 1) } }
  | .adjust _ _ regs => t.srun 1 regs
  | _ => t

/-- Number a kernel's teams: vector teams from 0, uniform teams from 8, in layout order (R26). -/
def numberTeams : List TeamDesc → Nat → Nat → List (Nat × TeamDesc)
  | [], _, _ => []
  | d :: ds, v, u => if d.vector then (v, d) :: numberTeams ds (v + 1) u else (u, d) :: numberTeams ds v (u + 1)

/-- Set a core's boundaries to a kernel's triple and load its macro store, writing back and emptying the
L1 before a change (R55, R56, R151). -/
def State.setUpCore (s : State) (core : Nat) (k : KDesc) : State :=
  let s := if s.boundsAre core k then s else
    let s := (s.flushHome core fun _ => true).dropCopies core fun _ => true
    let w := fun (x : Nat) => BitVec.ofNat 64 (x * 2 ^ 14)
    ((s.csrPut 0x1000 core (w k.regtop)).csrPut 0x1001 core (w k.sptop)).csrPut 0x1002 core (w k.cachetop)
  s.modCore core fun c => { c with macros := k.macros }

/-- A crew's teams with the done masks of their paths. -/
def State.doneMasks (s : State) (c : Crew) : List (Nat × Mask × Mask) :=
  c.teams.map fun t => (t, (s.team t).path0.done, (s.team t).path1.done)

/-- Crews of a core are frozen while a crew of a frozen context is on it (R461); the done masks that the scan path shows
are those of the freeze (R463). -/
def State.refreeze (s : State) (core : Nat) : State :=
  let f := (s.crewsOn core).any fun c => c.2.live && (s.ctx (s.grid c.2.grid).ctx).frozen
  (s.crewsOn core).foldl (fun s c => s.modCrew c.1 fun x =>
    { x with frozen := f, shown := if !f then [] else if x.frozen then x.shown else s.doneMasks x }) s

/-- The lowest free crew slot of a core (R432). -/
def State.freeSlot (s : State) (core : Nat) : Nat :=
  ((List.range 4).find? fun i => !(s.crewsOn core).any fun c => c.2.slot == i).getD 0

/-- Start the teams of a crew. -/
def State.startTeams (s : State) (k : KDesc) (src : GridSource) (crew : Nat) : List (Nat × TeamDesc) → State
  | [] => s
  | (num, d) :: rest =>
    let t := s.freeTok
    let s := s.setTeam t (seedTeam src (startTeam k crew num d))
    let s := { s with nextTok := BitVec.ofNat 32 (t + 1) }
    (s.modCrew crew fun c => { c with teams := c.teams ++ [t] }).startTeams k src crew rest

/-- Place a new crew of a grid on a core. Its events come after those of the launching path, and of the grids that its
own depends on (R222): the core drops its older copies, as an acquire at device scope does. -/
def State.placeCrew (s : State) (g idx cidx core : Nat) (pos : Nat × Nat × Nat) : State :=
  let gr := s.grid g
  let s := s.acquireCore core .device
  let k := gr.kd
  let s := if (s.crewsOn core).isEmpty then s.setUpCore core k else s
  let n := s.nextCrew
  let (x, y, z) := pos
  let c : Crew :=
    { Crew.none with
      live := true, grid := g, lin := x + gr.record.gx * (y + gr.record.gy * z), x := x, y := y, z := z,
      cluster := idx, cidx := cidx, core := core, slot := s.freeSlot core, size := k.scratch, macros := k.macros,
      matrix := k.hasMatrix, demand := k.demand, origin := gr.ver }
  let s := { s.setCrew n c with nextCrew := n + 1 }
  (s.startTeams k gr.source n (numberTeams k.teams 0 8)).refreeze core

/-- Place crews on their cores, in order: cluster index, position, core. -/
def State.placeCrews (s : State) (g idx : Nat) : List (Nat × (Nat × Nat × Nat) × Nat) → State
  | [] => s
  | (i, pos, core) :: rest => (s.placeCrew g idx i core pos).placeCrews g idx rest

/-- The crews of a waiting cluster: their cluster indices, but for those retired before a flush. -/
def Grid.waiters (g : Grid) (idx : Nat) : List Nat :=
  let gone := ((g.clusters.find? fun c => c.idx == idx).map fun c => c.gone).getD []
  (List.range g.record.clusterSize).filter fun i => !gone.contains i

/-- Place a cluster that has no saved state: one never placed, or one flushed. -/
def State.placeCluster (s : State) (g idx hw : Nat) (cores : List Nat) : State :=
  let first := s.nextCrew
  let old := (s.grid g).clusters.find? fun c => c.idx == idx
  let gone := (old.map fun c => c.gone).getD []
  let left := (old.map fun c => c.crews).getD []
  let pos := (s.grid g).record.positions idx
  let s := s.placeCrews g idx (((s.grid g).waiters idx).zip cores |>.map fun x => (x.1, pos.getD x.1 (0, 0, 0), x.2))
  let c : ClusterSt :=
    { idx := idx, phase := .resident, die := decide (3 ≤ hw), hw := hw, since := s.tsc, placedAt := s.tsc,
      restoredAt := none, guarded := false, drained := false, saveStart := 0, saveTime := 0, saveOrder := 0,
      restoreStart := 0, crews := left ++ (List.range cores.length).map fun i => first + i, frames := [],
      claim := false, gone := gone, stuck := none }
  s.modGrid g fun x => { x with clusters := x.clusters.filter (fun y => y.idx != idx) ++ [c] }

/-- Place clusters one after another where each finds room; none where one does not. -/
def State.placeAll (s : State) (mask : BitVec 6) (g : Nat) : List Nat → Option State
  | [] => some s
  | idx :: rest =>
    let gr := s.grid g
    match s.findRoom mask gr.kd ((gr.waiters idx).map fun _ => 0) (gr.record.dest idx) with
    | none => none
    | some (h, cores) => (s.placeCluster g idx h cores).placeAll mask g rest

/-- The partition and cluster mask of a grid. -/
def State.partOf (s : State) (g : Nat) : Nat := s.ctxPart (s.grid g).ctx

def State.maskOf (s : State) (p : Nat) : BitVec 6 := if partValid (s.part p) then partMask (s.part p) else 0

/-- The crews of lower priority in a partition, whose clusters a pre-emption could take (R430). -/
def State.lower (s : State) (p prio : Nat) : List Nat :=
  s.crews.filterMap fun c =>
    if s.partOf c.2.grid = p ∧ (s.grid c.2.grid).record.prio < prio then some c.1 else none

/-- Resident 1: the grid would fit were every crew of lower priority in its partition gone (R430). -/
def State.fitsResident (s : State) (g : Nat) : Bool :=
  let gr := s.grid g
  let p := s.partOf g
  let gone := s.lower p gr.record.prio
  let s' := { s with crews := s.crews.filter fun c => !gone.contains c.1 }
  decide (gr.record.crews ≤ 4 * 576) &&
  (s'.placeAll (s.maskOf p) g (List.range gr.record.clusters)).isSome

end Sys2Proof.Machine
end

