-- ==== Sys2Proof/Machine/Grids.lean ====
section
/-! DEFINITION. Grids between launch and completion (R29 to R38, R332, R334, R422, R423, R481): launch
records, entry into the dispatcher with its checks, versions, dependences, completion. -/

namespace Sys2Proof.Machine

/-! ### Launch records (R332) -/

/-- A launch record's 48 words. -/
def recordOf (w : List Nat) : LaunchRec :=
  let q := fun i => BitVec.ofNat 64 (w.getD i 0 + 2 ^ 32 * w.getD (i + 1) 0)
  let f := w.getD 5 0
  let sp := w.getD 6 0
  let ndep := bitsOf f 30 28
  let deps := [w.getD 8 0, w.getD 9 0, w.getD 10 0, w.getD 11 0]
  let spec := f.testBit 31
  let sound := ([2, 3, 4].all fun i => decide (w.getD i 0 < 2 ^ 21)) &&
    decide (sp < 2 ^ 14) && (spec || sp == 0) && decide (ndep ≤ 4) && ((deps.drop ndep).all fun x => x == 0) &&
    ([7, 12, 13, 14, 15].all fun i => w.getD i 0 == 0) && (List.range 8).all fun i => w.getD (19 + 4 * i) 0 == 0
  { kdesc := q 0, gx := w.getD 2 0 % 2 ^ 21, gy := w.getD 3 0 % 2 ^ 21, gz := w.getD 4 0 % 2 ^ 21,
    cx := f % 128, cy := bitsOf f 13 7, cz := bitsOf f 20 14, place := bitsOf f 22 21, prio := bitsOf f 25 23,
    res := f.testBit 26, idem := f.testBit 27, deps := deps.take ndep,
    spec := if spec then some (sp % 256, bitsOf sp 13 8) else none,
    windows := (List.range 8).map fun i => (q (16 + 4 * i), w.getD (18 + 4 * i) 0), sound := sound }

/-- The limits of Table 5 of R29 and R11. -/
def LaunchRec.shapeOk (r : LaunchRec) : Bool :=
  let dim := fun (g c : Nat) => decide (g ≤ 2 ^ 20) && decide (1 ≤ c) && decide (c ≤ 96) && g % c == 0
  r.sound && dim r.gx r.cx && dim r.gy r.cy && dim r.gz r.cz && decide (r.crews ≤ 2 ^ 32) &&
  decide (r.clusterSize ≤ 96)

/-! ### Entry (R35, R422) -/

/-- A grid with its number (R45, R334): assigned also to one that is refused. -/
def State.addGrid (s : State) (g : Grid) : State × Nat :=
  let h := s.nextGrid.toNat
  ({ s.setGrid h { g with live := true, order := s.nextSer, since := s.tsc } with
      nextGrid := s.nextGrid + 1, nextSer := s.nextSer + 1 }, h)

/-- Grids between entry and completion (R422). -/
def State.gridsIn (s : State) : Nat :=
  (s.grids.filter fun g => g.2.live && g.2.phase != .complete && g.2.phase != .held).length

/-- The dispatcher holds as many grids as it can. -/
def State.gridsFull (s : State) : Bool := decide (16384 ≤ s.gridsIn)

/-- A cart may be created: 4,096 are live at most (R42), and each has an entry reserved beside those of the grids, so
that its launch finds room (R422; that the two bounds hold together is assumption 79). -/
def State.cartRoom (s : State) : Bool :=
  decide (s.carts.length < 4096) && decide (s.gridsIn + s.carts.length < 16384 + 4096)

/-- The first cause of Table 6 that holds, but for NOVERSION: 0 for none (R35). -/
def State.refusal (s : State) (h : Nat) : Nat :=
  let g := s.grid h
  if !(s.dom g.ldom).liveVer g.lver then 5
  else if !g.record.shapeOk then 1
  else if !g.kd.valid || !(s.ctx g.ctx).record.valid then 2
  else if g.record.res && !s.fitsResident h then 3
  else 0

/-- A grid ends with a cause: its completion record is written, and it counts as completed (R34, R35,
R416). -/
def State.endGrid (s : State) (h cause : Nat) : State :=
  ((s.modGrid h fun g => { g with phase := .complete, cause := cause }).completionRecord h cause).meetDeps h

/-- Refuse a grid; one whose context is invalid logs an event (R409). -/
def State.refuse (s : State) (h cause : Nat) : State :=
  let g := s.grid h
  let s := if cause = 2 && !(s.ctx g.ctx).record.valid then
      s.logRefused (dispSrc 0) (some g.ctx) ((s.csrGet 0x4020 0).toNat + 64 * g.ctx) 0
    else s
  s.endGrid h cause

/-- A grid has its version and is blocked until its dependences are met (R31, R37). -/
def State.takeIn (s : State) (h d v : Nat) : State :=
  s.modGrid h fun g =>
    { g with phase := .blocked, dom := d, ver := v, since := s.tsc }

/-- Peers of a domain that the home still sends to. -/
def State.livePeers (s : State) (d : Nat) : List Nat :=
  (s.dom d).peers.filter fun p => p != s.rank && !(s.dom d).failed.contains p

/-- Allocate a version at the home for a request (R37, R481): none where the parent is not live or no
number is free. A committed parent counts as 0 (R339). The peers are told under the job key that asks. -/
def State.allocate (s : State) (d parent src req : Nat) (key : BitVec 32) : Option (State × Nat × Bool) :=
  let u := if (s.dom d).past.contains parent then 0 else parent
  if !(s.dom d).liveVer u then none
  else
    match s.freeVersion d with
    | none => none
    | some v =>
      let peers := s.livePeers d
      let s := s.addVersion d v u
      if peers.isEmpty then some (s, v, true)
      else
        let k := (s.dom d).notes + 1
        let s := s.modDom d fun x => { x with allocs := x.allocs ++ [⟨src, req, v, key, peers, s.tsc⟩], notes := k }
        some (s.postAll key peers d (.notice ⟨d, (s.dom d).num, k⟩ ⟨v, u⟩), v, false)

/-- A dependence on a handle is met: it names no launched grid, or one that has completed or been squashed (R31). -/
def State.depMet (s : State) (d : Nat) : Bool := !(s.grid d).live || (s.grid d).phase == .complete

/-- A grid enters the dispatcher: its cause if that is decided, none while it waits for a version. The
long-latency result that waits with it, if any, is named. Its dependences count from now (R334). -/
def State.enter (s : State) (h : Nat) (pend : Option Nat) : State × Option Nat :=
  let s := s.modGrid h fun g => { g with unmet := g.record.deps.filter fun d => !s.depMet d }
  let c := s.refusal h
  let g := s.grid h
  if c ≠ 0 then (s.refuse h c, some c)
  else
    match g.record.spec with
    | none => (s.takeIn h g.ldom g.lver, some 0)
    | some (d, u) =>
      let req := s.nextSer
      let wait := fun (s : State) =>
        ({ s.modGrid h (fun g => { g with phase := .allocating }) with
            allocReqs := s.allocReqs ++ [⟨req, h, pend, d, s.tsc⟩], nextSer := req + 1 }, (none : Option Nat))
      if (s.dom d).cut then (s.refuse h 4, some 4)
      else if (s.dom d).home = s.rank then
        match s.allocate d u s.rank req (s.keyOf g.ctx) with
        | none => (s.refuse h 4, some 4)
        | some (s, v, true) => (s.takeIn h d v, some 0)
        | some (s, _, false) => wait s
      else
        let t := wait s
        (t.1.post (s.keyOf g.ctx) (s.dom d).home d (.alloc req d u), t.2)

/-- The result of a `launch` (R334). -/
def launchValue (h cause : Nat) (held : Bool) : DWord :=
  BitVec.ofNat 64 (h + cause * 2 ^ 32 + held.toNat * 2 ^ 40)

/-- Give a waiting long-latency operation its result. -/
def State.giveResult (s : State) (pend : Option Nat) (f : SReg → DWord) : State :=
  { s with pend := s.pend.map fun p =>
      if some p.serial == pend then
        { p with held := false, writes := p.writes.map fun w => match w with
            | .s d _ => .s d (f d)
            | w => w }
      else p }

/-- The home has answered a request for a version (R481): the grid goes on, or is refused. -/
def State.allocAnswered (s : State) (req : Nat) (ver : Option Nat) : State :=
  match s.allocReqs.find? fun a => a.req == req with
  | none => s
  | some a =>
    let s := { s with allocReqs := s.allocReqs.filter fun x => x.req != req }
    let out : State × Nat := if (s.grid a.grid).phase != .allocating then (s, (s.grid a.grid).cause) else match ver with
      | none => (s.refuse a.grid 4, 4)
      | some v =>
        if (s.dom a.dom).liveVer v then (s.takeIn a.grid a.dom v, 0)
        else if (s.dom a.dom).past.contains v then (s.takeIn a.grid a.dom 0, 0)
        else (s.endGrid a.grid 5, 5)
    out.1.giveResult a.pend fun _ => launchValue a.grid out.2 false

/-! ### Dependences and completion (R31, R32, R34) -/

/-- A blocked grid whose dependences are all met. -/
def State.startable (s : State) (h : Nat) : Bool :=
  let g := s.grid h
  g.live && g.phase == .blocked && g.unmet.isEmpty

/-- A release at device scope by the device itself: every dirty byte goes home, those of the cores' L1s through the
remote-data caches (R32, R229). -/
def State.releaseAll (s : State) : State :=
  let s := (s.copyUnits.filter fun u => decide (u < 576)).foldl (fun s u => s.l1ToRdc u fun _ => true) s
  (s.copyUnits.filter fun u => decide (576 ≤ u)).foldl (fun s u => s.writeBack u fun _ => true) s

/-- GRID_START: a grid whose dependences are met is runnable; one of no crews completes (R31, R34). -/
def execGridStart (h : Nat) (s : State) : Res :=
  if s.startable h && !s.allHeld then
    if (s.grid h).record.crews = 0 then .next (s.releaseAll.endGrid h 0)
    else .next (s.modGrid h fun g => { g with phase := .runnable, since := s.tsc })
  else .next s

/-- Every team of every crew has retired, and everything they issued is complete (R32). -/
def State.gridDone (s : State) (h : Nat) : Bool :=
  let g := s.grid h
  g.live && g.phase == .runnable && decide (g.record.clusters ≤ (g.clusters.filter fun c => c.phase == .retired).length) &&
  !s.liveTeams.any fun t => (s.crew t.2.crew).grid == h

/-- GRID_COMPLETION: the release, then the handle is complete (R32). -/
def execGridCompletion (h : Nat) (s : State) : Res :=
  if s.gridDone h && !s.allHeld then .next (s.releaseAll.endGrid h 0) else .next s

end Sys2Proof.Machine
end

