-- ==== Sys2Proof/Machine/Launch.lean ====
section
/-! DEFINITION. Launches, carts, work queues, count patching and resolves from the device (R40 to R44,
R332 to R340), and the dispatcher's own reading of launch queues and cart timers (R415, R423, R425). -/

namespace Sys2Proof.Machine

/-! ### `launch` (R334) -/

/-- The grid a path's launch record asks for. -/
def State.newGrid (s : State) (r : PathRef) (rec' : LaunchRec) (kd : KDesc) (hold : Bool) : Grid :=
  { Grid.none with
    ctx := s.ctxOf r, kernel := s.kernel r, dom := s.domOf r, ver := s.verOf r, record := rec', kd := kd,
    source := .launch, phase := if hold then .held else .blocked, ldom := s.domOf r, lver := s.verOf r,
    lcrew := s.crewNo r }

/-- `launch`, `launch.hold`. While the dispatcher is full it waits with its flag busy (R422). -/
def execLaunch (d a : SReg) (hold : Bool) (s : State) : Res :=
  issued s fun r =>
    s.withOwnSlot r fun f =>
      (s.clearFlag r f).release r .device fun s =>
        let va := s.sget r a
        let v := s.viewOf r
        s.alignedTo r 64 va <|
          s.readUnits r v 4 48 va fun s w =>
            let rec' := recordOf w
            s.withRead r (s.readKd v rec'.kdesc) fun kd =>
              let s := s.useKd v rec'.kdesc
              if !hold && s.gridsFull then (s.setFlag r f).waitFor r .room
              else
                let ser := s.nextSer
                let s := s.startPend r f [.s d 0] none (!hold)
                let (s, h) := s.addGrid (s.newGrid r rec' kd hold)
                if hold then (s.giveResult (some ser) fun _ => launchValue h 0 true).advance r 1
                else
                  let x := s.enter h (some ser)
                  match x.2 with
                  | none => x.1.advance r 1
                  | some c => (x.1.giveResult (some ser) fun _ => launchValue h c false).advance r 1

/-! ### Carts (R40 to R42, R335, R425) -/

/-- Launch a cart: a runnable grid of one crew (R425). -/
def State.launchCart (s : State) (c : Cart) : State :=
  let s := { s with carts := s.carts.filter fun x => x.id != c.id }
  let g : Grid :=
    { Grid.none with
      ctx := c.ctx, kernel := c.kernel, dom := c.dom, ver := c.ver,
      record := { LaunchRec.zero with kdesc := c.kdesc, gx := 1, gy := 1, gz := 1, prio := c.prio },
      kd := c.kd, source := .cart c.records, phase := .blocked, ldom := c.dom, lver := c.ver }
  let (s, h) := s.addGrid g
  (s.enter h none).1.modGrid h fun g => if g.phase == .blocked then { g with phase := .runnable } else g

/-- The cart a path's records go to: the triple of R40. One whose timer has expired takes no more: it launches, or
waits for its context's thaw (R425, R461). -/
def State.cartFor (s : State) (r : PathRef) (kdesc : DWord) : Option Cart :=
  s.carts.find? fun c => c.kdesc == kdesc && c.dom == s.domOf r && c.ver == s.verOf r && decide (s.tsc < c.due)

/-- Append one record: to the cart there is, or to a new one; a full cart launches. -/
def State.appendCart (s : State) (r : PathRef) (kdesc : DWord) (kd : KDesc) (x : List Word) : State :=
  let s := match s.cartFor r kdesc with
    | some c => { s with carts := s.carts.map fun (y : Cart) => if y.id = c.id then { y with records := y.records ++ [x] } else y }
    | none =>
      let c : Cart :=
        { id := s.nextSer, kdesc := kdesc, dom := s.domOf r, ver := s.verOf r, origin := s.verOf r,
          ctx := s.ctxOf r, kernel := s.kernel r, prio := (s.gridOf r).record.prio, kd := kd,
          due := s.tsc + 1000 * kd.timer, records := [x] }
      { s with carts := s.carts ++ [c], nextSer := s.nextSer + 1 }
  match s.cartFor r kdesc with
  | some c => if c.kd.nodeW ≤ c.records.length then s.launchCart c else s
  | none => s

/-- A descriptor suits a node kernel of a record length (R335). -/
def KDesc.node (k : KDesc) (len : Nat) : Bool :=
  k.valid && k.timer != 0 && k.reclen == len &&
  (match k.teams with
   | [t] => t.vector && t.width == k.nodeW && decide (len ≤ t.budget)
   | _ => false)

/-- Append the records of some lanes in turn. A lane that would create a cart with no room for one stalls the path, the
lanes before it done (R42). -/
def State.spawnLanes (s : State) (r : PathRef) (va : DWord) (kd : KDesc) (vs : List VReg) : List Nat → State
  | [] => s.advance r 1
  | l :: ls =>
    if (s.cartFor r va).isNone && !s.cartRoom then s.waitFor r .spawn
    else
      State.spawnLanes ((s.appendCart r va kd (vs.map fun x => s.vget r x l)).modPath r fun p =>
        { p with done := p.done ||| laneBit l }) r va kd vs ls

/-- `spawn` (R335): len holds LEN − 1. Taken up again after a stall, it appends the records of the lanes not done (R42). -/
def execSpawn (len : BitVec 3) (a : SReg) (b : VReg) (s : State) : Res :=
  issued s fun r =>
    let n := len.toNat + 1
    s.legalIf r (!(s.team r.tok).uniform && decide (b.toNat + n ≤ 256) && s.vOk r (vRun b n)) <|
      s.release r .device fun s =>
        let lanes := (s.memLanes r).filter fun l => !(s.path r).done.getLsbD l
        let va := s.sget r a
        if lanes.isEmpty then s.advance r 1
        else
          s.alignedTo r 16 va <|
            s.withRead r (s.readKd (s.viewOf r) va) fun kd =>
              let s := s.useKd (s.viewOf r) va
              if !kd.node n then s.takeStop r { cause := 18, sub := 4 }
              else s.spawnLanes r va kd (vRun b n) lanes

/-- CART_TIMER_EXPIRY (R40, R41, R425): at the cart's tick, unless its context is frozen (R461). -/
def execCartTimerExpiry (id : Nat) (s : State) : Res :=
  match s.carts.find? fun c => c.id == id with
  | none => .next s
  | some c => if (s.ctx c.ctx).frozen then .next s else .next ((s.passTo c.due).launchCart c)

/-! ### Count patching (R44, R337) -/

/-- One entry of a count table. -/
structure CountEntry where
  count : Nat
  hid   : Nat
  field : Nat
  entry : Nat
  copy  : Bool
  ok    : Bool
  value : Nat

/-- An entry's four words. -/
def countEntryOf (w : List Nat) : CountEntry :=
  let f := w.getD 2 0
  let div := w.getD 3 0
  { count := w.getD 0 0, hid := w.getD 1 0, field := f % 16, entry := bitsOf f 9 4, copy := f.testBit 10,
    ok := f < 2 ^ 11 && decide (f % 16 ≤ 5) && div != 0, value := (w.getD 0 0 + div - 1) / div }

/-- The serial of a held copy of a context with an id. -/
def State.heldCopy (s : State) (c id : Nat) : Option EngCmd :=
  s.engines.find? fun e => e.ctx == c &&
    (match e.phase with | .held i => 0x80000000 + i == id | _ => false)

/-- A count that an entry's field cannot hold, or that breaks its SETF (R325, R337). -/
def ChainEntry.misfit : ChainEntry → Bool
  | .copy _ _ setf len _ _ => setf && len % 4 != 0
  | .strided _ _ _ rows _ _ _ _ _ => decide (65536 < rows)
  | _ => false

/-- Patch a held copy: none where the field does not fit it. A chain that holds a count beyond its field ends in
error. -/
def EngCmd.patch (e : EngCmd) (x : CountEntry) : Option EngCmd :=
  let put := fun (es : List ChainEntry) (y : ChainEntry) =>
    { e with kind := .chain (es.set x.entry y), err := (es.set x.entry y).any ChainEntry.misfit }
  match e.kind with
  | .chain es =>
    match x.field, es[x.entry]? with
    | 3, some (.copy ssp dk f _ src dst) => some (put es (.copy ssp dk f x.value src dst))
    | 4, some (.strided ssp dk f _ rl src dst ss ds) => some (put es (.strided ssp dk f x.value rl src dst ss ds))
    | _, _ => none
  | .indexed d => if x.field = 5 then some { e with kind := .indexed { d with count := x.value } } else none
  | _ => none

/-- Apply one entry: the state, and the object it names where it counts as applied. -/
def State.applyCount (s : State) (c : Nat) (x : CountEntry) : State × Option (Bool × Nat) :=
  if !x.ok then (s, none)
  else if x.copy then
    match s.heldCopy c x.hid with
    | none => (s, none)
    | some e =>
      match e.patch x with
      | none => (s, none)
      | some e' =>
        ({ s with engines := s.engines.map fun y => if y.serial = e.serial then e' else y }, some (true, e.serial))
  else
    let g := s.grid x.hid
    if g.live && g.phase == .held && g.ctx == c && decide (x.field ≤ 2) then
      let set := fun (r : LaunchRec) => match x.field with
        | 0 => { r with gx := x.value }
        | 1 => { r with gy := x.value }
        | _ => { r with gz := x.value }
      (s.modGrid x.hid fun g => { g with record := set g.record }, some (false, x.hid))
    else (s, none)

/-- Apply the entries of a table in order: the state, the objects named in order of first mention, and
the number applied. Entries not applied are logged (event 3). -/
def State.applyCounts (s : State) (v : View) (table : DWord) :
    Nat → List CountEntry → List (Bool × Nat) → Nat → State × List (Bool × Nat) × Nat
  | _, [], objs, n => (s, objs, n)
  | i, x :: xs, objs, n =>
    match s.applyCount v.ctx x with
    | (s, some o) => s.applyCounts v table (i + 1) xs (if objs.contains o then objs else objs ++ [o]) (n + 1)
    | (s, none) =>
      (s.logEvent (clusterSrc v.core) 3 3 (some v.ctx) (leBytes 8 table.toNat ++ leBytes 4 i)).applyCounts v table
        (i + 1) xs objs n

/-- Release a held object: a launch enters the dispatcher, a copy joins its core's queue. -/
def State.releaseHeld (s : State) (o : Bool × Nat) : State :=
  if o.1 then
    match s.engines.find? fun e => e.serial == o.2 with
    | none => s
    | some e => { s with engines := s.engines.filter (fun x => x.serial != o.2) ++ [{ e with phase := .queued }] }
  else
    let s := s.modGrid o.2 fun g => { g with order := s.nextSer }
    (({ s with nextSer := s.nextSer + 1 } : State).enter o.2 none).1

/-- `cntp` (R337). -/
def execCntp (d a b : SReg) (s : State) : Res :=
  issued s fun r =>
    s.withSlot r fun f =>
      s.release r .device fun s =>
        let va := s.sget r a
        let n := (s.sget r b).toNat
        let v := s.viewOf r
        s.alignedTo r 16 va <|
          if n = 0 ∨ 256 < n then s.takeStop r { cause := 18, sub := 3 }
          else
            s.readUnits r v 4 (4 * n) va fun s w =>
              let es := (List.range n).map fun i => countEntryOf ((w.drop (4 * i)).take 4)
              let (s', objs, k) := s.applyCounts v va 0 es [] 0
              let launches := (objs.filter fun o => !o.1).length
              let full := launches ≠ 0 && decide (16384 < s.gridsIn + launches)
              let long := objs.any fun o => o.1 && (s.engines.any fun e => e.serial == o.2 && decide (64 ≤ s.queueLen e.core))
              if full || long then s.waitFor r .room
              else ((objs.foldl State.releaseHeld s').startPend r f [.s d (BitVec.ofNat 64 k)]).advance r 1

/-! ### Work queues (R336, R415) -/

/-- The bytes of a queue's record. -/
def WqEnt.size (w : WqEnt) : Nat := if w.item then (w.recsz + 1) * 16 else 192

def State.wq (s : State) (q : Nat) : WqEnt := Store.get WqEnt.none s.wqs q

/-- PIDX and CIDX. -/
def State.wqP (s : State) (w : WqEnt) : Nat := s.memNat w.idx 4
def State.wqC (s : State) (w : WqEnt) : Nat := s.memNat (w.idx + 4) 4

/-- Records in a queue. -/
def State.wqLen (s : State) (w : WqEnt) : Nat := (s.wqP w + 2 ^ 32 - s.wqC w) % 2 ^ 32

/-- A queue that has been overrun is disabled in the device's cached entry (R415). -/
def State.disableQueue (s : State) (q : Nat) : State :=
  let w := s.wq q
  ({ s with wqs := Store.set WqEnt.none s.wqs q { w with valid := false, lost := true } } : State).logRefused (dispSrc 0) (some w.ctx)
    ((s.csrGet 0x4022 0).toNat + 32 * q) (s.memNat ((s.csrGet 0x4022 0).toNat + 32 * q) 8)

/-- A queue lies in a partition's range (R413). -/
def State.queueIn (s : State) (part q : Nat) : Bool :=
  let p := s.part part
  partValid p && decide (partWqLo p ≤ q) && decide (q ≤ partWqHi p)

/-- The address of record i of a queue. -/
def WqEnt.slot (w : WqEnt) (i : Nat) : Nat := w.base + i % 2 ^ w.logn * w.size

/-- A queue instruction's queue: usable, or one that was overrun, or not one it accepts. -/
def State.withQueue (s : State) (r : PathRef) (q : Nat) (kind : WqEnt → Bool) (no : State → State)
    (k : WqEnt → State) : State :=
  let w := s.wq q
  if !(s.queueIn (s.ctxPart (s.ctxOf r)) q && w.valid && kind w) then no s
  else if 2 ^ w.logn < s.wqLen w then no (s.disableQueue q)
  else k w

/-- `wqpush` (R336). -/
def execWqpush (d a b : SReg) (s : State) : Res :=
  issued s fun r =>
    s.withSlot r fun f =>
      s.release r .device fun s =>
        let q := (s.sget r b).toNat % 2 ^ 13
        let fin := fun (x : Nat) (s : State) => (s.startPend r f [.s d (BitVec.ofNat 64 x)]).advance r 1
        s.withQueue r q (fun w => w.prod == 2) (fin 2) fun w =>
          if s.wqLen w = 2 ^ w.logn then fin 1 s
          else
            s.withUsed r (s.viewOf r) [(s.sget r a, w.size)] (s.vBytes (s.viewOf r) w.size (s.sget r a)) fun s bs =>
              let p := s.wqP w
              fin 0 ((s.homeWrite (w.slot p) bs).homeWrite w.idx (leBytes 4 ((p + 1) % 2 ^ 32)))

/-- `wqpop` (R336). -/
def execWqpop (d a b : SReg) (s : State) : Res :=
  issued s fun r =>
    s.withSlot r fun f =>
      let q := (s.sget r b).toNat % 2 ^ 13
      let fin := fun (x : Nat) (s : State) => (s.startPend r f [.s d (BitVec.ofNat 64 x)]).advance r 1
      s.withQueue r q (fun w => w.item) (fin 2) fun w =>
        let c := s.wqC w
        if s.wqLen w = 0 then fin 0 s
        else if s.poisoned (w.slot c) w.size then
          s.takeStop r { cause := 14, sub := 1, loadpc := (s.path r).pc }
        else
          let s := s.acquireAct r .device
          let va := s.sget r a
          match s.vPut (s.viewOf r) va (s.memBytes (w.slot c) w.size) with
          | .error (.fault cause sub x acc) => s.xerr r (.fault cause sub) x 0 acc
          | .error (.ats port page _ _) => s.xerr r (.ats port page) va 0 1
          | .error .refuse => s.xerr r (.fault 10 0) va 0 1
          | .error .wait => s.waitFor r .room
          | .ok s => fin 1 (s.homeWrite (w.idx + 4) (leBytes 4 ((c + 1) % 2 ^ 32)))

/-! ### Resolves (R338 to R340) -/

/-- The result of a resolve. -/
def resolveValue (status committed squashed : Nat) : DWord :=
  BitVec.ofNat 64 (status + committed * 2 ^ 8 + squashed * 2 ^ 16)

/-- `resolve`. -/
def execResolve (d a b : SReg) (s : State) : Res :=
  issued s fun r =>
    s.withSlot r fun f =>
      s.release r .pod fun s =>
        let dm := (s.sget r a).toNat % 256
        let leaf := (s.sget r b).toNat % 64
        let x := s.dom dm
        let fin := fun (v : DWord) (s : State) => (s.startPend r f [.s d v] (scope := some .pod)).advance r 1
        if x.home ≠ s.rank || (s.domOf r = dm && s.verOf r ≠ 0) then fin (resolveValue 1 0 0) s
        else if !x.liveVer leaf then fin (resolveValue 2 0 0) s
        else
          let com := (s.chain dm leaf).reverse
          let sq := (x.live.map fun y => y.ver).filter fun v => !com.contains v
          let peers := s.livePeers dm
          let s := s.applyResolve dm com sq
          let s := s.modDom dm fun y =>
            { y with num := y.num + 1, notes := 0, accept := acceptNext y.accept com.length sq.length }
          let v := resolveValue 0 com.length sq.length
          if peers.isEmpty then fin v s
          else
            let ser := s.nextSer
            let s := (s.startPend r f [.s d v] none true (scope := some .pod)).advance r 1
            let n := x.num + 1
            let s := s.modDom dm fun y => { y with resolves := y.resolves ++ [⟨n, ser, v, peers, s.tsc⟩] }
            s.postAll (s.keyOf (s.ctxOf r)) peers dm (.resolve ⟨dm, n, x.notes⟩ com sq)

/-! ### Launch queues (R414, R415, R423) -/

/-- A queue's producer has run more than its length ahead (R415). -/
def State.overrun (s : State) (q : Nat) : Bool := (s.wq q).valid && decide (2 ^ (s.wq q).logn < s.wqLen (s.wq q))

/-- Every PIDX write is observed: a queue that it overruns is disabled (R415). -/
def State.watchQueues (s : State) : State :=
  ((s.wqs.map fun x => x.1).filter s.overrun).foldl State.disableQueue s

/-- A launch queue has a record for the dispatcher. -/
def State.queueReady (s : State) (q : Nat) : Bool :=
  let w := s.wq q
  decide (s.boot = 2) && w.valid && !w.item && s.wqP w != s.wqC w && !s.gridsFull

/-- The launch queues of a partition with a record, in the order of R423: round robin from the one after the queue
visited last. -/
def State.dueQueues (s : State) (p : Nat) : List Nat :=
  let l := (s.wqs.map fun x => x.1).filter fun q => s.queueIn p q && s.queueReady q
  let last := Store.get 0 s.lastq p
  (l.filter fun q => decide (last ≤ q)) ++ l.filter fun q => decide (q < last)

/-- The queue has been visited (R423). -/
def State.visited (s : State) (q : Nat) : State :=
  { s with lastq := Store.set 0 s.lastq (s.ctxPart (s.wq q).ctx) (q + 1) }

/-- LAUNCH_QUEUE_RECORD: read one record of the queue whose turn it is, and let its grid enter. A descriptor that
cannot be read breaks its layout; one behind a host page is waited for, while the other queues have their turns. -/
def execLaunchQueueRecord (q : Nat) (s : State) : Res :=
  if (s.dueQueues (s.ctxPart (s.wq q).ctx)).head? ≠ some q then .next s
  else
    let w := s.wq q
    if s.overrun q then .next (s.disableQueue q)
    else
      let s := s.visited q
      let c := s.wqC w
      let rec' := recordOf ((List.range 48).map fun i => s.memNat (w.slot c + 4 * i) 4)
      let v : View := ⟨0, w.ctx, w.priv, 0, 0, some (queueRef q), none⟩
      let go := fun (kd : KDesc) =>
        let s := s.homeWrite (w.idx + 4) (leBytes 4 ((c + 1) % 2 ^ 32))
        let (s, h) := s.addGrid { Grid.none with
          ctx := w.ctx, kernel := w.priv, record := rec', kd := kd, source := .queue q c (w.cring + c % 2 ^ w.logn * 16),
          phase := .blocked }
        (s.enter h none).1
      match s.readKd v rec'.kdesc with
      | .ok kd => .next (go kd)
      | .error (.xlat (.ats port page) _) => .next (s.atsAsk (queueRef q) port w.ctx page)
      | .error _ =>
        let t := go KDesc.zero
        .next { t with hostFails := t.hostFails.filter fun f => f.1 != queueRef q }

end Sys2Proof.Machine
end

