-- ==== Sys2Proof/Machine/Kv.lean ====
section
/-! DEFINITION. The KV cache (R342 to R359): sequence records, block tables, tails and sealed blocks,
the issue of the four KV commands and what the engine does when it reaches one. The block translation
buffer never changes a value read (R345). -/

namespace Sys2Proof.Machine

/-! ### Records and command blocks (R342, R351) -/

/-- Words i and i + 1 as a quad. -/
def quadAt (w : List Nat) (i : Nat) : DWord := BitVec.ofNat 64 (w.getD i 0 + 2 ^ 32 * w.getD (i + 1) 0)

/-- Words that must be zero. -/
def zeroAt (w : List Nat) (l : List Nat) : Bool := l.all fun i => w.getD i 0 == 0

/-- A sequence record's sixteen words (R342, Table 1): none where malformed. -/
def seqOf' (w : List Nat) : Option SeqRec :=
  let nlb := w.getD 2 0
  let h := w.getD 3 0 % 2 ^ 16
  let d := w.getD 3 0 / 2 ^ 16
  let bs := w.getD 6 0
  let ok := (quadAt w 0).toNat % 8 == 0 && decide (1 ≤ nlb) && decide (nlb ≤ 2 ^ 20) && decide (1 ≤ h) &&
    decide (h ≤ 64) && decide (16 ≤ d) && decide (d ≤ 256) && d % 16 == 0 && (quadAt w 4).toNat % 256 == 0 &&
    bs % 256 == 0 && decide (1024 + 32 * h * d ≤ bs) && (quadAt w 8).toNat % 256 == 0 &&
    zeroAt w [7, 10, 11, 12, 13, 14, 15]
  if ok then some ⟨quadAt w 0, nlb, h, d, quadAt w 4, bs, quadAt w 8⟩ else none

/-- `gath` fields of CTL (R356, Table 8). -/
def KvCmd.dsp (c : KvCmd) : Bool := c.ctl.testBit 0
def KvCmd.part (c : KvCmd) : Bool := c.ctl.testBit 1
def KvCmd.es (c : KvCmd) : Nat := if bitsOf c.ctl 3 2 = 0 then 4 else 2
def KvCmd.setf (c : KvCmd) : Bool := c.ctl.testBit 4
def KvCmd.h0 (c : KvCmd) : Nat := bitsOf c.ctl 15 8
def KvCmd.hcnt (c : KvCmd) : Nat := if bitsOf c.ctl 23 16 = 0 then c.seq.h - c.h0 else bitsOf c.ctl 23 16

/-- Fields of the block that a command's column of Table 6 leaves zero, as word numbers. -/
def kvZero : KvOp → List Nat
  | .gath => [8, 9, 10]
  | .kvap => [5, 7, 8, 9, 10]
  | .kvseal => [2, 3, 5, 6, 7, 8, 9, 10]
  | .kvcopy => [2, 3, 6, 7]

/-- The bytes DATA spans: none where no head is read. -/
def KvCmd.dataLen (c : KvCmd) : Nat :=
  match c.op with
  | .gath => if c.hcnt = 0 then 0 else (c.hcnt - 1) * c.hstride + c.n * c.seq.d * c.es
  | .kvap => 8 * c.seq.h * c.seq.d
  | _ => 0

/-- What a command's own entry asks of its block (R351, R354, R356, R357). -/
def KvCmd.ok (c : KvCmd) : Bool :=
  match c.op with
  | .gath =>
    decide (1 ≤ c.n) && decide (c.n ≤ 4096) && decide (bitsOf c.ctl 3 2 < 2) && bitsOf c.ctl 7 5 == 0 &&
    bitsOf c.ctl 31 24 == 0 && (c.dsp || !c.setf) && decide (c.h0 + bitsOf c.ctl 23 16 ≤ c.seq.h) &&
    c.data.toNat % 4 == 0 && c.hstride % 4 == 0 && decide (c.n * c.seq.d * c.es ≤ c.hstride)
  | .kvap => c.data.toNat % 4 == 0 && decide (c.ctl ≤ 1)
  | .kvseal => true
  | .kvcopy => decide (1 ≤ c.n) && decide (c.n ≤ 16) &&
      c.src.any fun x => x.h == c.seq.h && x.d == c.seq.d

/-- A command block's words with its records: none where it breaks Table 6. -/
def kvOf (op : KvOp) (va : DWord) (w : List Nat) (sq : SeqRec) (src : Option SeqRec) (gen : Nat) : Option KvCmd :=
  let obj := quadAt w 12
  let sc := w.getD 14 0
  let c : KvCmd := ⟨op, va, sq, src, quadAt w 2, w.getD 4 0, w.getD 5 0, w.getD 6 0, w.getD 7 0, w.getD 10 0, obj, gen, sc⟩
  let ok := zeroAt w ([11, 15] ++ kvZero op) && obj.toNat % 8 == 0 &&
    (if obj = 0 then sc == 0 else decide (1 ≤ sc) && decide (sc ≤ 6)) && c.ok
  if ok then some c else none

/-- Issue a KV command: its block and its records are read and checked, and join the queue as a snapshot (R321, R350, R351).
That an OBJ which is no multiple of 8 raises DESC, where R322 gives a misaligned structure an alignment fault, is the model's
choice (assumption 88). -/
def State.kvIssue (s : State) (r : PathRef) (op : KvOp) (a : SReg) (tag : BitVec 6) : State :=
  s.engineIssue r tag fun s =>
    let va := s.sget r a
    let v := s.viewOf r
    let bad := s.takeStop r { cause := 18, sub := 3 }
    s.alignedTo r 64 va <|
      s.readUnits r v 4 16 va fun s w =>
        let srcva := quadAt w 8
        let obj := quadAt w 12
        s.alignedTo r 64 (quadAt w 0) <|
          s.alignedTo r 64 (if op == .kvcopy then srcva else 0) <|
            if obj.toNat % 8 ≠ 0 then bad
            else
              s.readUnits r v 4 16 (quadAt w 0) fun s sw =>
                s.withUsed r v (if op == .kvcopy then [(srcva, 64)] else []) (if op == .kvcopy then s.vUnits v 4 16 srcva else .ok [])
                fun s tw =>
                  s.withUsed r v (objRange obj) (if obj = 0 then .ok 0 else s.vNat v 8 obj) fun s o =>
                    match seqOf' sw with
                    | none => bad
                    | some sq =>
                      if op == .kvcopy && (seqOf' tw).isNone then bad
                      else
                        match kvOf op va w sq (seqOf' tw) (if obj = 0 then 0 else objGen o) with
                        | none => bad
                        | some c =>
                          let sp := if c.dsp && (op == .gath || op == .kvap) then
                              (s.spRange (s.crewNo r) (c.data.toNat % 2 ^ 32) c.dataLen 1).map fun _ => ()
                            else .ok ()
                          match sp with
                          | .error e => s.xerr r e c.data 0 0
                          | .ok _ => (s.submit r tag (.kv c)).advance r 1

/-- `gath` (R350, R356). -/
def execGath (a : SReg) (tag : BitVec 6) (s : State) : Res := issued s fun r => s.kvIssue r .gath a tag
/-- `kvap` (R350, R354). -/
def execKvap (a : SReg) (tag : BitVec 6) (s : State) : Res := issued s fun r => s.kvIssue r .kvap a tag
/-- `kvseal` (R350, R355). -/
def execKvseal (a : SReg) (tag : BitVec 6) (s : State) : Res := issued s fun r => s.kvIssue r .kvseal a tag
/-- `kvcopy` (R350, R357). -/
def execKvcopy (a : SReg) (tag : BitVec 6) (s : State) : Res := issued s fun r => s.kvIssue r .kvcopy a tag

/-! ### Accesses of a KV command (R343, R353) -/

/-- Why a KV command cannot go on: an engine's error, or a cause of Table 7. -/
inductive KvErr where
  | eng (e : EngErr)
  | kv (cause : Nat)
  deriving DecidableEq, Repr

/-- The access reaches device memory, or it faults, or it is a TARGET error (R343). -/
def State.kvReach (s : State) (v : View) (acc : Access) (kind : Nat) (va : DWord) : Except KvErr Unit :=
  match s.vReach v acc va with
  | .ok (_, .device) => .ok ()
  | .error (.fault c sub) => if c = 6 ∨ c = 7 then .error (.eng (.fault c sub va kind)) else .error (.kv 8)
  | _ => .error (.kv 8)

/-- Read bytes, flake by flake. -/
def State.kvGetGo (s : State) (v : View) : Nat → DWord → Nat → Except KvErr (List Byte)
  | 0, _, _ => .ok []
  | fuel + 1, va, n =>
    if n = 0 then .ok []
    else do
      let k := min n (toFlake va.toNat)
      s.kvReach v .load 0 va
      let b ← (s.vPiece v k va).mapError fun e => .eng (engRead e)
      let rest ← s.kvGetGo v fuel (va + BitVec.ofNat 64 k) (n - k)
      .ok (b ++ rest)

def State.kvGet (s : State) (v : View) (va : DWord) (n : Nat) : Except KvErr (List Byte) := s.kvGetGo v n va n

/-- Write bytes, flake by flake. -/
def State.kvPutGo (s : State) (v : View) : Nat → DWord → List Byte → Except KvErr State
  | 0, _, _ => .ok s
  | fuel + 1, va, bs =>
    if bs.isEmpty then .ok s
    else do
      let k := min bs.length (toFlake va.toNat)
      s.kvReach v .store 1 va
      let s ← (s.vWrite v va (bs.take k)).mapError .eng
      s.kvPutGo v fuel (va + BitVec.ofNat 64 k) (bs.drop k)

def State.kvPut (s : State) (v : View) (va : DWord) (bs : List Byte) : Except KvErr State := s.kvPutGo v bs.length va bs

/-- Little-endian words of bytes. -/
def wordsLe : List Byte → List Nat
  | a :: b :: c :: d :: rest => leNat [a, b, c, d] :: wordsLe rest
  | _ => []

/-- Words as bytes. -/
def wordBytes (l : List Nat) : List Byte := l.flatMap fun x => leBytes 4 x

/-! ### Entries, blocks and tails (R344 to R347) -/

/-- The address of the table entry of a logical block. -/
def SeqRec.entryAt (q : SeqRec) (b : Nat) : DWord := q.table + BitVec.ofNat 64 (8 * b)

/-- SEALED of an entry. -/
def kvSealed (e : Nat) : Bool := e.testBit 41

/-- RANGE and NOENTRY: the entry of a logical block. -/
def State.kvEntry (s : State) (v : View) (q : SeqRec) (b : Nat) : Except KvErr Nat := do
  if q.nlb ≤ b then .error (.kv 1)
  else
    let e := leNat (← s.kvGet v (q.entryAt b) 8)
    if bitsOf e 63 48 == 0 && bitsOf e 39 32 == 0 && e.testBit 40 then .ok e else .error (.kv 2)


/-- The physical block an entry names. -/
def SeqRec.blockAt (q : SeqRec) (e : Nat) : DWord := q.pool + BitVec.ofNat 64 (e % 2 ^ 32 * q.bstride)

/-- Bytes of one part of a block: 16 tokens of every head. -/
def SeqRec.partLen (q : SeqRec) : Nat := 16 * q.h * q.d

/-- A command uses the versioned copies of a logical block's entry, and of its block or of the tail (R83). -/
def State.kvUse (s : State) (v : View) (q : SeqRec) (b : Nat) : State :=
  match s.kvEntry v q b with
  | .ok en =>
    (s.vUse v (q.entryAt b) 8).vUse v (if kvSealed en then q.blockAt en else q.tail)
      (1024 + (if kvSealed en then 2 else 8) * q.partLen)
  | .error _ => s

/-- A tail's header (R347). -/
structure Tail where
  tblk  : Nat
  tmask : Nat
  nank  : Nat
  nanv  : Nat
  amaxk : List Nat
  amaxv : List Nat

/-- TBLK of an empty tail. -/
def tailEmpty : Nat := 0xFFFFFFFF

def State.kvTail (s : State) (v : View) (q : SeqRec) : Except KvErr Tail := do
  let b ← s.kvGet v q.tail (64 + 8 * q.h)
  let w := wordsLe (b.drop 64)
  .ok ⟨leNat (b.take 4), leNat ((b.drop 4).take 4), leNat ((b.drop 8).take 8), leNat ((b.drop 16).take 8),
    w.take q.h, w.drop q.h⟩

/-- A tail just begun at a logical block (R354). -/
def Tail.start (q : SeqRec) (b : Nat) : Tail := ⟨b, 0, 0, 0, List.replicate q.h 0, List.replicate q.h 0⟩

/-- Write a tail's header: TMASK last (R354). -/
def State.kvPutTail (s : State) (v : View) (q : SeqRec) (t : Tail) : Except KvErr State := do
  let s ← s.kvPut v (q.tail + 64) (wordBytes (t.amaxk ++ t.amaxv))
  let s ← s.kvPut v (q.tail + 8) (leBytes 8 t.nank ++ leBytes 8 t.nanv)
  let s ← s.kvPut v q.tail (leBytes 4 t.tblk)
  s.kvPut v (q.tail + 4) (leBytes 4 t.tmask)

/-- The address of tail elements of a part, head and token. -/
def SeqRec.tailAt (q : SeqRec) (part : Bool) (h o : Nat) : DWord :=
  q.tail + BitVec.ofNat 64 (1024 + 4 * (part.toNat * q.partLen + (16 * h + o) * q.d))

/-- The address of sealed elements in a block. -/
def SeqRec.sealAt (q : SeqRec) (blk : DWord) (part : Bool) (h o : Nat) : DWord :=
  blk + BitVec.ofNat 64 (1024 + part.toNat * q.partLen + (16 * h + o) * q.d)

/-! ### Values (R348, R349) -/

def f32Special (x : Nat) : Bool := x / 2 ^ 23 % 256 == 255
def f32Mag (x : Nat) : Nat := x % 2 ^ 31

/-- Read back a sealed element. -/
def kvRead (q s : Nat) : Nat := (fmtF32.roundV .rn false (mulV (fmtE4M3.unpack q) (fmtF32.unpack s)).1).1

/-- A tail element as read back: a NaN as the canonical one. -/
def kvTailVal (x : Nat) : Nat := if (fmtF32.unpack x).isNan then fmtF32.nan else x

/-- The scale of a head of a part. -/
def kvScale (nan : Bool) (amax : Nat) : Nat :=
  if nan then fmtF32.nan
  else if f32Mag amax = 0 then 0x3F800000
  else Nat.max (fmtF32.div .rn false amax 0x43E00000).1 1

/-- The sealed byte of an element. -/
def kvQuant (nan : Bool) (amax s x : Nat) : Nat :=
  if nan then 0x7F
  else if f32Mag amax = 0 then (cvtFloat fmtE4M3 fmtF32 .rn true x).1
  else
    match fmtF32.unpack x, fmtF32.unpack s with
    | .inf n, .fin .. => fmtE4M3.rn (.inf n)
    | v, y => (fmtE4M3.divV .rn true v y).1

/-- Add elements of one head to a tail's NaN bits and maximum (R354). -/
def kvAbsorb (vals : List Nat) (nan amax : Nat) (h : Nat) : Nat × Nat :=
  vals.foldl (fun a x =>
    if f32Special x then (a.1 ||| 2 ^ h, a.2) else (a.1, Nat.max a.2 (f32Mag x))) (nan, amax)

/-- Add one head's elements of one part. -/
def Tail.absorb (t : Tail) (part : Bool) (h : Nat) (vals : List Nat) : Tail :=
  if part then
    let a := kvAbsorb vals t.nanv (t.amaxv.getD h 0) h
    { t with nanv := a.1, amaxv := t.amaxv.set h a.2 }
  else
    let a := kvAbsorb vals t.nank (t.amaxk.getD h 0) h
    { t with nank := a.1, amaxk := t.amaxk.set h a.2 }

/-! ### The commands (R354 to R357) -/

/-- Read tokens lo to hi − 1 of a logical block for some heads of a part: for each head, the f32 values
in (token, element) order (R356). -/
def State.kvTokens (s : State) (v : View) (q : SeqRec) (b lo hi : Nat) (part : Bool) (heads : List Nat) :
    Except KvErr (List (List Nat)) := do
  let e ← s.kvEntry v q b
  if kvSealed e then
    let blk := q.blockAt e
    heads.mapM fun h => do
      let sc := leNat (← s.kvGet v (blk + BitVec.ofNat 64 (64 + 4 * (part.toNat * q.h + h))) 4)
      let bs ← s.kvGet v (q.sealAt blk part h lo) ((hi - lo) * q.d)
      .ok (bs.map fun x => kvRead x.toNat sc)
  else
    let t ← s.kvTail v q
    if t.tblk = b ∧ ((List.range 16).all fun o => decide (o < lo) || decide (hi ≤ o) || t.tmask.testBit o) then
      heads.mapM fun h => do
        let bs ← s.kvGet v (q.tailAt part h lo) (4 * ((hi - lo) * q.d))
        .ok ((wordsLe bs).map kvTailVal)
    else .error (.kv 3)

/-- Put values of one head's tokens into a tail. -/
def State.kvFill (s : State) (v : View) (q : SeqRec) (o : Nat) :
    List (Bool × Nat × List Nat) → Tail → Except KvErr (State × Tail)
  | [], t => .ok (s, t)
  | (part, h, vals) :: rest, t => do
    let s ← s.kvPut v (q.tailAt part h o) (wordBytes vals)
    s.kvFill v q o rest (t.absorb part h vals)

/-- `kvap`: append one token (R354). -/
def State.kvAppend (s : State) (e : EngCmd) (c : KvCmd) : Except KvErr State := do
  let v := e.view
  let q := c.seq
  let b := c.pos / 16
  let o := c.pos % 16
  let en ← s.kvEntry v q b
  if kvSealed en then .error (.kv 4)
  else
    let t ← s.kvTail v q
    if t.tblk ≠ tailEmpty ∧ t.tblk ≠ b then .error (.kv 5)
    else
      let t := if t.tblk = tailEmpty then Tail.start q b else t
      let n := 8 * q.h * q.d
      let bs ← if c.dsp then (s.engGet e (.sp ((c.data.setWidth 32).setWidth 64)) n).mapError KvErr.eng
        else s.kvGet v c.data n
      let w := wordsLe bs
      let rows := ([false, true] : List Bool).flatMap fun part => (List.range q.h).map fun h =>
        (part, h, (w.drop ((part.toNat * q.h + h) * q.d)).take q.d)
      let st ← s.kvFill v q o rows t
      st.1.kvPutTail v q { st.2 with tmask := st.2.tmask ||| 2 ^ o }

/-- `kvseal`: seal the tail into its block (R355). -/
def State.kvSealTail (s : State) (e : EngCmd) (c : KvCmd) : Except KvErr State := do
  let v := e.view
  let q := c.seq
  let t ← s.kvTail v q
  if t.tblk ≠ c.pos then .error (.kv 7)
  else if t.tmask ≠ 0xFFFF then .error (.kv 6)
  else
    let en ← s.kvEntry v q c.pos
    if kvSealed en then .error (.kv 4)
    else
      let blk := q.blockAt en
      let sc := fun (part : Bool) (h : Nat) =>
        if part then (t.nanv.testBit h, t.amaxv.getD h 0) else (t.nank.testBit h, t.amaxk.getD h 0)
      let hs := ([false, true] : List Bool).flatMap fun part => (List.range q.h).map fun h => (part, h)
      let rows ← hs.mapM fun x => do
        let bs ← s.kvGet v (q.tailAt x.1 x.2 0) (4 * (16 * q.d))
        let m := sc x.1 x.2
        let sv := kvScale m.1 m.2
        .ok (sv, (wordsLe bs).map fun y => BitVec.ofNat 8 (kvQuant m.1 m.2 sv y))
      let s ← s.kvPut v (blk + 64) (wordBytes (rows.map (·.1)))
      let s ← s.kvPut v (blk + 1024) (rows.flatMap (·.2))
      let s ← s.kvPut v (blk + 4) (leBytes 4 16)
      let s ← s.kvPut v (q.entryAt c.pos) (leBytes 8 (en % 2 ^ 41 + 2 ^ 41 + e.ver * 2 ^ 42))
      s.kvPut v q.tail (leBytes 4 tailEmpty ++ leBytes 4 0)

/-- `kvcopy`: start a tail from another sequence's block (R357). The checks of the destination come
after those of the source; the logical block concerned is returned with an error. -/
def State.kvCopyTail (s : State) (e : EngCmd) (c : KvCmd) : Except (KvErr × Nat) State := do
  let v := e.view
  let q := c.seq
  let src := c.src.getD q
  let heads := List.range q.h
  let k ← (s.kvTokens v src c.slb 0 c.n false heads).mapError fun x => (x, c.slb)
  let w ← (s.kvTokens v src c.slb 0 c.n true heads).mapError fun x => (x, c.slb)
  let en ← (s.kvEntry v q c.pos).mapError fun x => (x, c.pos)
  if kvSealed en then .error (.kv 4, c.pos)
  else
    let t ← (s.kvTail v q).mapError fun x => (x, c.pos)
    if t.tblk ≠ tailEmpty then .error (.kv 5, c.pos)
    else
      let rows := (heads.map fun h => (false, h, k.getD h [])) ++ heads.map fun h => (true, h, w.getD h [])
      let st ← (s.kvFill v q 0 rows (Tail.start q c.pos)).mapError fun x => (x, c.pos)
      (st.1.kvPutTail v q { st.2 with tmask := 2 ^ c.n - 1 }).mapError fun x => (x, c.pos)

/-- Write one head's values of `gath` at DATA (R356). -/
def State.gathPut (s : State) (e : EngCmd) (c : KvCmd) (va : DWord) (bs : List Byte) : Except KvErr State :=
  if c.dsp then
    let p : Place := .sp ((va.setWidth 32).setWidth 64)
    (s.engPut e p c.setf bs).mapError .eng
  else s.kvPut e.view va bs

/-- The destination of head number i of a gathered run of tokens beginning at t. -/
def KvCmd.gathAt (c : KvCmd) (i t : Nat) : DWord := c.data + BitVec.ofNat 64 (i * c.hstride + t * c.seq.d * c.es)

/-- All the rows that `gath` writes at DATA. -/
def KvCmd.rows (c : KvCmd) : List (Place × Nat) :=
  (List.range c.hcnt).map fun i =>
    (if c.dsp then .sp (((c.gathAt i 0).setWidth 32).setWidth 64) else .glob (c.gathAt i 0), c.n * c.seq.d * c.es)

/-- The bytes of gathered values in the command's form. -/
def KvCmd.form (c : KvCmd) (vals : List Nat) : List Byte :=
  vals.flatMap fun x => if c.es = 4 then leBytes 4 x else leBytes 2 (cvtFloat fmtBf16 fmtF32 .rn false x).1

/-- A run of a KV command that failed: why, at which logical block, the state and the destinations
written. -/
structure KvFail where
  err   : KvErr
  blk   : Nat
  s     : State
  dests : List (Place × Nat)

/-- `gath`: block after block (R356). -/
def State.gathGo (e : EngCmd) (c : KvCmd) : Nat → Nat → State → List (Place × Nat) → Except KvFail State
  | 0, _, s, _ => .ok s
  | fuel + 1, t, s, ds =>
    if c.n ≤ t then .ok s
    else
      let b := (c.pos + t) / 16
      let lo := (c.pos + t) % 16
      let hi := min 16 (lo + c.n - t)
      let heads := (List.range c.hcnt).map fun i => c.h0 + i
      match s.kvTokens e.view c.seq b lo hi c.part heads with
      | .error x => .error ⟨x, b, s, ds⟩
      | .ok rows =>
        let put := fun (acc : Except KvFail (State × List (Place × Nat))) (x : List Nat × Nat) =>
          match acc with
          | .error f => .error f
          | .ok (s, ds) =>
            let bs := c.form x.1
            let va := c.gathAt x.2 t
            let pl : Place := if c.dsp then .sp ((va.setWidth 32).setWidth 64) else .glob va
            match s.gathPut e c va bs with
            | .error er => .error ⟨er, b, s, ds⟩
            | .ok s => .ok (s, ds ++ [(pl, bs.length)])
        match rows.zipIdx.foldl put (.ok (s.kvUse e.view c.seq b, ds)) with
        | .error f => .error f
        | .ok (s, ds) => State.gathGo e c fuel (t + (hi - lo)) s ds

/-- Run a KV command. -/
def State.kvRun (s : State) (e : EngCmd) (c : KvCmd) : Except KvFail State :=
  let one := fun (x : Except KvErr State) (b : Nat) => x.mapError fun er => (⟨er, b, s, []⟩ : KvFail)
  match c.op with
  | .gath => State.gathGo e c c.n 0 s []
  | .kvap => one (s.kvAppend e c) (c.pos / 16)
  | .kvseal => one (s.kvSealTail e c) c.pos
  | .kvcopy => (s.kvCopyTail e c).mapError fun x => ⟨x.1, x.2, s, []⟩

/-- The opcode that event 15 names. -/
def kvOpcode : KvOp → Nat
  | .gath => 0xC2 | .kvap => 0xC3 | .kvseal => 0xC4 | .kvcopy => 0xC5

/-- Log a KV command's error (R352, event 15). -/
def State.kvLog (s : State) (e : EngCmd) (c : KvCmd) (cause blk : Nat) : State :=
  s.logEvent (clusterSrc e.core) 15 3 (some e.ctx)
    (leBytes 8 c.block.toNat ++ leBytes 1 cause ++ leBytes 1 (kvOpcode c.op) ++ leBytes 2 0 ++ leBytes 4 blk)

/-- Another KV command of the same domain, version and tail is stopped inside its step (R353). -/
def State.kvShut (s : State) (e : EngCmd) (c : KvCmd) : Bool :=
  let tails := fun (x : KvCmd) => x.seq.tail :: (x.src.map fun q => q.tail).toList
  s.engines.any fun f =>
    f.serial != e.serial && f.ctx == e.ctx && f.dom == e.dom && f.ver == e.ver &&
    (match f.phase, f.kind with
     | .stopped _ false, .kv x => (tails x).any fun t => (tails c).contains t
     | _, _ => false)

end Sys2Proof.Machine
end

