-- ==== Sys2Proof/Machine/Sampler.lean ====
section
/-! DEFINITION. The sampler (R362 to R385): the issue of `smpl`, draft trees, the arithmetic of the
stages in its stated order, the run of a slot, CALL with its adjust kernel and watchdog. -/

namespace Sys2Proof.Machine

/-! ### The snapshot (R363 to R368) -/

/-- A stage control block's eight words (R368, Table 5): none where it breaks its limits. -/
def stageOf (w : List Nat) : Option Stage :=
  let w0 := w.getD 0 0
  let w1 := w.getD 1 0
  let up := w0 / 16
  let tail := zeroAt w [2, 3, 4, 5, 6, 7]
  let f := BitVec.ofNat 32 w1
  let one := 0x3F800000
  match w0 % 16 with
  | 1 => if up == 0 && w1 != 0 && decide (w1 < 0x7F800000) && tail then some (.scale f) else none
  | 2 =>
    if decide (up ≤ 1) && w1 % 4 == 0 && (quadAt w 2).toNat % 4 == 0 && w.getD 4 0 % 4 == 0 && zeroAt w [5, 6, 7] then
      some (.mask (up == 1) w1 (quadAt w 2) (w.getD 4 0)) else none
  | 3 => if up == 0 && w1 != 0 && zeroAt w [6, 7] then some (.call w1 (quadAt w 2) (quadAt w 4)) else none
  | 4 => if up == 0 && decide (1 ≤ w1) && decide (w1 ≤ 2 ^ 20) && tail then some (.topk w1) else none
  | 5 => if up == 0 && w1 != 0 && decide (w1 ≤ one) && tail then some (.topp f) else none
  | 6 => if up == 0 && (decide (w1 ≤ one) || w1 == 2 ^ 31) && tail then some (.minp f) else none
  | 7 => if up == 0 && w1 == 0 && tail then some .draw else none
  | 8 => if up == 0 && w1 == 0 && tail then some .verify else none
  | 9 => if up == 0 && w1 == 0 && tail then some .emit else none
  | 10 =>
    let back := bitsOf w0 20 16
    if bitsOf w0 15 5 == 0 && bitsOf w0 31 21 == 0 && back != 0 && decide (1 ≤ w1) && decide (w1 ≤ 64) && tail then
      some (.loop (w0.testBit 4) back w1) else none
  | 11 =>
    let skip := bitsOf w0 20 16
    if bitsOf w0 15 7 == 0 && bitsOf w0 31 21 == 0 && skip != 0 && decide (bitsOf w0 6 4 ≤ 3) && w1 == 0 && tail then
      some (.skipIf (bitsOf w0 6 4) skip) else none
  | _ => none

/-- Read blocks up to EMIT: none when one is malformed, or none of 32 is EMIT. -/
def readStages (rd : DWord → Except RdErr (List Nat)) : Nat → DWord → Except RdErr (Option (List Stage))
  | 0, _ => .ok none
  | fuel + 1, va => do
    let w ← rd va
    match stageOf w with
    | none => .ok none
    | some .emit => .ok (some [.emit])
    | some x =>
      let rest ← readStages rd fuel (((va + 32).setWidth 32).setWidth 64)
      .ok (rest.map fun l => x :: l)

def Stage.isLoop : Stage → Bool
  | .loop .. => true
  | _ => false

/-- Loops inside the chain and not nested; jumps no further than EMIT (R368). -/
def stagesOk (c : List Stage) : Bool :=
  c.zipIdx.all fun x =>
    match x.1 with
    | .loop _ back _ => decide (back ≤ x.2) && ((c.drop (x.2 - back)).take back).all fun y => !y.isLoop
    | .skipIf _ skip => decide (x.2 + 1 + skip ≤ c.length - 1)
    | _ => true

/-- A slot record's sixteen words (R365): none where malformed. -/
def slotOf (addr : DWord) (es : Nat) (w : List Nat) : Option SlotRec :=
  let ok := (quadAt w 6).toNat % es == 0 && (quadAt w 8).toNat % 64 == 0 && (quadAt w 10).toNat % 4 == 0 && zeroAt w [14, 15]
  if ok then
    some ⟨addr, quadAt w 0, quadAt w 2, BitVec.ofNat 32 (w.getD 4 0), BitVec.ofNat 32 (w.getD 5 0), quadAt w 6, quadAt w 8,
      quadAt w 10⟩
  else none

/-- The limits of the job block (R364). -/
def jobOk (w : List Nat) : Bool :=
  let n := w.getD 0 0
  let v := w.getD 1 0
  let obj := quadAt w 8
  let sc := w.getD 10 0
  decide (1 ≤ n) && decide (n ≤ 256) && decide (2 ≤ v) && decide (v ≤ 2 ^ 20) && (quadAt w 4).toNat % 256 == 0 &&
  decide (w.getD 6 0 < 4) && obj.toNat % 8 == 0 && (if obj = 0 then sc == 0 else decide (1 ≤ sc) && decide (sc ≤ 6)) &&
  zeroAt w [11, 12, 13, 14, 15]

/-- A structure lies outside device memory (R363): in a window, a pod-shared region or a host page, whether or not
the host has a translation of it. -/
def State.elsewhere (s : State) (v : View) (va : DWord) : Bool :=
  match s.vReach v .load va with
  | .ok (_, .device) => false
  | .ok _ => true
  | .error (.fault c _) => c == 8 || c == 10
  | .error (.ats ..) => true

/-- Read the slot records: none where one is malformed or not in device memory. An address that does not translate
faults as its reading does (R363). -/
def State.readSlots (s : State) (v : View) (es : Nat) : Nat → DWord → Except RdErr (Option (List SlotRec))
  | 0, _ => .ok (some [])
  | n + 1, va => do
    if s.elsewhere v va then .ok none
    else
      let w ← s.vUnits v 4 16 va
      match slotOf va es w with
      | some x =>
        let rest ← s.readSlots v es n (va + 64)
        .ok (rest.map fun l => x :: l)
      | none => .ok none

/-- `smpl` (R362, R363). -/
def execSmpl (d a : SReg) (tag : BitVec 6) (s : State) : Res :=
  issued s fun r =>
    s.engineIssue r tag fun s =>
      let v := s.viewOf r
      let job := s.sget r d
      let ca := ((s.sget r a).setWidth 32).setWidth 64
      let bad := s.takeStop r { cause := 18, sub := 3 }
      s.alignedTo r 64 job <|
        match s.spRange (s.crewNo r) ca.toNat 32 32 with
        | .error e => s.xerr r e ca 0 0
        | .ok _ =>
          if s.elsewhere v job then bad else
          s.readUnits r v 4 16 job fun s w =>
            s.alignedTo r 64 (quadAt w 2) <|
              s.withRead r (readStages (s.spWords (s.crewNo r)) 32 ca) fun c =>
                match c with
                | none => bad
                | some chain =>
                  if !(jobOk w && stagesOk chain) then bad
                  else
                    let es := if (w.getD 6 0).testBit 0 then 2 else 4
                    let obj := quadAt w 8
                    s.withUsed r v [(quadAt w 2, 64 * w.getD 0 0)] (s.readSlots v es (w.getD 0 0) (quadAt w 2)) fun s sl =>
                      s.withUsed r v (objRange obj) (if obj = 0 then .ok 0 else s.vNat v 8 obj) fun s o =>
                        match sl with
                        | none => bad
                        | some slots =>
                          let cmd : SmplCmd :=
                            { job := job, nslot := w.getD 0 0, vocab := w.getD 1 0, work := quadAt w 4, lfmt := es == 2,
                              trapEmpty := (w.getD 6 0).testBit 1, obj := obj, gen := objGen o, scope := w.getD 10 0,
                              chain := chain, slots := slots, phases := slots.map fun _ => .waiting, trapped := 0 }
                          (s.submit r tag (.smpl cmd)).advance r 1

/-! ### f32 values (R372) -/

def fAdd (x y : Nat) : Nat := rn32Add x y
def fSub (x y : Nat) : Nat := (fmtF32.sub .rn false x y).1
def fMul (x y : Nat) : Nat := (fmtF32.mul .rn false x y).1
def fDiv (x y : Nat) : Nat := (fmtF32.div .rn false x y).1
def fExp2 (x : Nat) : Nat := (fmtF32.exp2 .rn false x).1
def fFinite (x : Nat) : Bool := !f32Special x
def fNegInf : Nat := 0xFF800000

/-- x < y, x ≤ y of values that are no NaN. -/
def fLt (x y : Nat) : Bool := (fmtF32.unpack x).cmp (fmtF32.unpack y) == some .lt
def fLe (x y : Nat) : Bool := fLt x y || (fmtF32.unpack x).cmp (fmtF32.unpack y) == some .eq
/-- Above zero. -/
def fPos (x : Nat) : Bool := fLt 0 x

def fSum (l : List Nat) : Nat := l.foldl fAdd 0

/-- The greatest of some values. -/
def fMax : List Nat → Nat
  | [] => 0
  | [x] => x
  | x :: xs => if fLt x (fMax xs) then fMax xs else x

/-- Insert a token by descending value, ties by lower token. -/
def orderInsert (w : Nat → Nat) (t : Nat) : List Nat → List Nat
  | [] => [t]
  | u :: us => if fLt (w u) (w t) ∨ (!fLt (w t) (w u) ∧ t < u) then t :: u :: us else u :: orderInsert w t us

/-- Tokens in descending order of value. -/
def orderOf (w : List Nat) (l : List Nat) : List Nat := l.foldl (fun acc t => orderInsert (fun u => w.getD u 0) t acc) []

/-- ORDER(x) (R372). -/
def order (w : List Nat) : List Nat := orderOf w ((List.range w.length).filter fun t => fPos (w.getD t 0))

/-- SOFTMAX: none for EMPTY. -/
def softmax (w : List Nat) : Option (List Nat) :=
  let fin := w.filter fFinite
  if fin.isEmpty then none
  else
    let m := fMax fin
    let e := w.map fun x => if x = fNegInf then 0 else fExp2 (fMul (fSub x m) 0x3FB8AA3B)
    let z := fSum e
    some (e.map fun x => fDiv x z)

/-- NORM: the sum, and the vector divided by it when it is above zero. -/
def norm (x : List Nat) : Nat × List Nat :=
  let z := fSum x
  (z, if fPos z then x.map fun y => fDiv y z else x)

/-! ### Draws (R373) -/

/-- One Philox4x32-10 value from a counter and a key. -/
def philox : Nat → Nat × Nat × Nat × Nat → Nat × Nat → Nat
  | 0, (c0, _, _, _), _ => c0
  | n + 1, (c0, c1, c2, c3), (k0, k1) =>
    let h := 0xD2511F53 * c0
    let g := 0xCD9E8D57 * c2
    philox n (g / 2 ^ 32 ^^^ c1 ^^^ k0, g % 2 ^ 32, h / 2 ^ 32 ^^^ c3 ^^^ k1, h % 2 ^ 32)
      ((k0 + 0x9E3779B9) % 2 ^ 32, (k1 + 0xBB67AE85) % 2 ^ 32)

/-- The depth of a node: links to node 0 (R367). -/
def DraftTree.depth (t : DraftTree) : Nat → Nat → Nat
  | 0, _ => 0
  | fuel + 1, j => if j = 0 then 0 else 1 + t.depth fuel (t.nodes.getD j (0, 0, 0)).2.1

/-- The depth of a slot's node. -/
def SlotRun.depth (r : SlotRun) (j : Nat) : Nat :=
  match r.tree with
  | none => 0
  | some t => t.depth 64 j

/-- UNIFORM: u in units of 2^-24, and the draw counter advanced. -/
def SlotRun.uniform (x : SlotRec) (r : SlotRun) : Nat × SlotRun :=
  let n := r.n.toNat
  let c := (n % 2 ^ 32, n / 2 ^ 32, (x.pos.toNat + r.depth r.cur) % 2 ^ 32, x.stream.toNat)
  (philox 10 c (x.seed.toNat % 2 ^ 32, x.seed.toNat / 2 ^ 32) / 2 ^ 8, { r with n := r.n + 1 })

/-- u as a value. -/
def uVal (u : Nat) : FVal := .fin false u (-24)

/-- The first token in order whose running sum exceeds g, or the last. -/
def pickGo (w : List Nat) (g : Nat) : Nat → List Nat → Nat → Nat
  | _, [], last => last
  | c, t :: ts, _ =>
    let c' := fAdd c (w.getD t 0)
    if fLt g c' then t else pickGo w g c' ts t

/-- PICK: none for EMPTY. -/
def pick (x : SlotRec) (r : SlotRun) (w : List Nat) : Option (Nat × SlotRun) :=
  let o := order w
  if o.isEmpty then none
  else
    let m := fSum (o.map fun t => w.getD t 0)
    let (u, r) := r.uniform x
    let g := (fmtF32.roundV .rn false (mulV (uVal u) (fmtF32.unpack m)).1).1
    some (pickGo w g 0 o 0, r)

/-! ### A slot's run (R366 to R371) -/

/-- Why a slot stops before its end: an engine's error, or a status of Table 7. -/
inductive SlotErr where
  | eng (e : EngErr)
  | trap (status : Nat)
  deriving DecidableEq, Repr

/-- An access of a slot: one outside device memory is status TARGET (R366). -/
def slotErr : KvErr → SlotErr
  | .eng e => .eng e
  | .kv _ => .trap 7

def State.slotGet (s : State) (e : EngCmd) (va : DWord) (n : Nat) : Except SlotErr (List Byte) :=
  (s.kvGet e.view va n).mapError slotErr

def State.slotPut (s : State) (e : EngCmd) (va : DWord) (bs : List Byte) : Except SlotErr State :=
  (s.kvPut e.view va bs).mapError slotErr

/-- Halfwords of bytes. -/
def halvesLe : List Byte → List Nat
  | a :: b :: rest => leNat [a, b] :: halvesLe rest
  | _ => []

/-- Load the row of the slot's node (R370). -/
def State.loadRow (s : State) (e : EngCmd) (c : SmplCmd) (x : SlotRec) (r : SlotRun) : Except SlotErr (List Nat) := do
  let va := match r.tree with
    | none => x.logits
    | some t => t.laddr + BitVec.ofNat 64 (r.cur * t.lstride)
  let bs ← s.slotGet e va (c.vocab * (if c.lfmt then 2 else 4))
  let w := if c.lfmt then (halvesLe bs).map fun y => y * 2 ^ 16 else wordsLe bs
  if w.all fFinite then .ok w else .error (.trap 2)

/-- Read and check the draft tree (R367). -/
def State.readTree (s : State) (e : EngCmd) (c : SmplCmd) (x : SlotRec) : Except SlotErr (Option DraftTree) := do
  if x.draft = 0 then .ok none
  else
    let w := wordsLe (← s.slotGet e x.draft 64)
    let n := w.getD 0 0
    if n = 0 ∨ 64 < n ∨ w.getD 1 0 ≠ 0 ∨ !zeroAt w [8, 9, 10, 11, 12, 13, 14, 15] then .error (.trap 5)
    else
      let q := wordsLe (← s.slotGet e (x.draft + 64) (16 * n))
      let node := fun (j : Nat) => (q.getD (4 * j) 0, q.getD (4 * j + 1) 0, q.getD (4 * j + 2) 0)
      let ok := (List.range n).all fun j =>
        let t := node j
        q.getD (4 * j + 3) 0 == 0 &&
        (if j = 0 then t.1 == 0 && t.2.1 == 0 && t.2.2 == 0
         else decide (t.2.1 < j) && decide (t.1 < c.vocab) && decide (1 ≤ t.2.2) && decide (t.2.2 ≤ 63))
      if ok then .ok (some ⟨quadAt w 2, w.getD 4 0, w.getD 5 0, quadAt w 6, (List.range n).map node⟩)
      else .error (.trap 5)

/-- The address of w of a slot; q follows it (R366). -/
def SmplCmd.wAt (c : SmplCmd) (j : Nat) : DWord := c.work + BitVec.ofNat 64 (8 * j * c.vocab)

/-- Write open contents into a slot's working area (R366). -/
def State.openWork (s : State) (e : EngCmd) (c : SmplCmd) (j : Nat) : Except SlotErr State :=
  let base := s.fresh * 2 ^ 32
  let bs := (List.range (8 * c.vocab)).map fun i => Config.openByte (base + i)
  ({ s with fresh := s.fresh + 1 } : State).slotPut e (c.wAt j) bs

/-- The banned value in a phase. -/
def banned (prob : Bool) : Nat := if prob then 0 else fNegInf

/-- Keep the tokens of a list. -/
def keepOnly (w : List Nat) (keep : List Nat) (ban : Nat) : List Nat :=
  w.zipIdx.map fun x => if keep.contains x.2 then x.1 else ban

/-- TOPK (R376). -/
def topk (prob : Bool) (k : Nat) (w : List Nat) : List Nat :=
  let el := (List.range w.length).filter fun t => if prob then fPos (w.getD t 0) else w.getD t 0 != fNegInf
  if el.length < k then w else keepOnly w ((orderOf w el).take k) (banned prob)

/-- The shortest prefix in order whose running sum reaches p (R377). -/
def toppGo (w : List Nat) (p : Nat) : Nat → List Nat → List Nat
  | _, [] => []
  | c, t :: ts =>
    let c' := fAdd c (w.getD t 0)
    if fLe p c' then [t] else t :: toppGo w p c' ts

/-- TOPP of probabilities (R377): tokens of no weight are zero already. -/
def topp (p : Nat) (w : List Nat) : List Nat :=
  let o := order w
  let keep := toppGo w p 0 o
  w.zipIdx.map fun x => if o.contains x.2 && !keep.contains x.2 then 0 else x.1

/-- MINP of probabilities (R378). -/
def minp (p : Nat) (w : List Nat) : List Nat :=
  let h := fMul p (fMax w)
  w.map fun x => if fLe h x then x else 0

/-- w in phase P: SOFTMAX when it holds logits. -/
def SlotRun.probs (r : SlotRun) (w : List Nat) : Except SlotErr (SlotRun × List Nat) :=
  if r.prob then .ok (r, w)
  else match softmax w with
    | none => .error (.trap 1)
    | some w => .ok ({ r with prob := true }, w)

/-- Set one element. -/
def setAt (w : List Nat) (t x : Nat) : List Nat := w.set t x

/-- The residual of w over q (R381): none for EMPTY. -/
def residual (w q : List Nat) (x : Nat) : Option (List Nat) :=
  let z := norm ((w.zip q).map fun y => if fLt y.2 y.1 then fSub y.1 y.2 else 0)
  if fPos z.1 then some z.2
  else
    let z := norm (setAt w x 0)
    if fPos z.1 then some z.2 else none

/-- VERIFY over the children of a node (R381): the child accepted, if any, with w as it then stands. -/
def verifyGo (x : SlotRec) (t : DraftTree) : List Nat → SlotRun → List Nat → List Nat →
    Except SlotErr (Option Nat × SlotRun × List Nat)
  | [], r, w, _ => .ok (none, r, w)
  | j :: js, r, w, q =>
    let tok := (t.nodes.getD j (0, 0, 0)).1
    let (u, r) := r.uniform x
    if ((mulV (uVal u) (fmtF32.unpack (q.getD tok 0))).1).cmp (fmtF32.unpack (w.getD tok 0)) = some .lt then
      .ok (some j, r, w)
    else
      match residual w q tok with
      | none => .error (.trap 1)
      | some w => verifyGo x t js r w (norm (setAt q tok 0)).2

/-- VERIFY (R381). -/
def State.verify (s : State) (e : EngCmd) (c : SmplCmd) (x : SlotRec) (r : SlotRun) (w : List Nat) :
    Except SlotErr (SlotRun × List Nat) := do
  match r.tree with
  | none => .error (.trap 5)
  | some t =>
    let (r, w) ← (if r.prob then
        (if fPos (norm w).1 then .ok (r, (norm w).2) else .error (.trap 1)) else r.probs w)
    let q := wordsLe (← s.slotGet e (t.qaddr + BitVec.ofNat 64 (r.cur * t.qstride)) (4 * c.vocab))
    if q.any fun y => !fFinite y || fLt y 0 then .error (.trap 2)
    else
      let kids := (List.range t.nodes.length).filter fun j => j != 0 && (t.nodes.getD j (0, 0, 0)).2.1 == r.cur
      let (acc, r, w) ← verifyGo x t kids r w (norm q).2
      match acc with
      | some j =>
        let r := { r with e := r.e ++ [(t.nodes.getD j (0, 0, 0)).1], acc := j, cur := j, prob := false }
        let w ← s.loadRow e c x r
        .ok (r, w)
      | none =>
        match pick x r w with
        | none => .error (.trap 1)
        | some (tok, r) => .ok ({ r with e := r.e ++ [tok], done := true }, w)

/-- A stage that neither jumps, nor calls, nor ends the run (R374 to R381). -/
def State.stage (s : State) (e : EngCmd) (c : SmplCmd) (j : Nat) (x : SlotRec) (st : Stage) (r : SlotRun) (w : List Nat) :
    Except SlotErr (SlotRun × List Nat) := do
  match st with
  | .scale f =>
    if r.prob then .error (.trap 6)
    else
      let z := w.map fun y => if fFinite y then fMul y f.toNat else y
      if (w.zip z).any fun y => fFinite y.1 && !fFinite y.2 then .error (.trap 2) else .ok (r, z)
  | .mask pol mstride maddr nstride =>
    let n := (c.vocab + 31) / 32
    let va := maddr + BitVec.ofNat 64 (j * mstride + r.cur * nstride)
    let row := wordsLe (← s.slotGet e va (4 * n))
    .ok (r, w.zipIdx.map fun y => if (row.getD (y.2 / 32) 0).testBit (y.2 % 32) == pol then banned r.prob else y.1)
  | .topk k => .ok (r, topk r.prob k w)
  | .topp p => do
    let (r, w) ← r.probs w
    .ok (r, topp p.toNat w)
  | .minp p => do
    let (r, w) ← r.probs w
    .ok (r, minp p.toNat w)
  | .draw =>
    if r.done then .ok (r, w)
    else do
      let (r, w) ← r.probs w
      match pick x r w with
      | none => .error (.trap 1)
      | some (tok, r) => .ok ({ r with e := r.e ++ [tok], done := true }, w)
  | .verify => if r.done then .ok (r, w) else s.verify e c x r w
  | _ => .ok (r, w)

/-- Where a slot's run comes to a halt. -/
inductive SlotHalt where
  | emit (r : SlotRun)
  | call (r : SlotRun) (w : List Nat) (budget : Nat) (kdesc arg : DWord)
  /-- A trap's status, with the stage (0xFE at the start). -/
  | trap (status stage : Nat)
  | eng (e : EngErr)

/-- IF's condition (R371). -/
def SlotRun.cond (r : SlotRun) (c : Nat) : Bool :=
  match c with
  | 0 => r.done
  | 1 => !r.done
  | 2 => !r.prob
  | _ => r.prob

/-- Execute blocks from the slot's index (R371). -/
def State.runStages (s : State) (e : EngCmd) (c : SmplCmd) (j : Nat) (x : SlotRec) : Nat → SlotRun → List Nat → SlotHalt
  | 0, r, _ => .emit r
  | fuel + 1, r, w =>
    match c.chain[r.idx]? with
    | none | some .emit => .emit r
    | some (.call budget kdesc arg) => .call r w budget kdesc arg
    | some (.loop cond back max) =>
      let n := Store.get 0 r.loops r.idx
      if n < max && (!cond || !r.done) then
        s.runStages e c j x fuel { r with idx := r.idx - back, loops := Store.set 0 r.loops r.idx (n + 1) } w
      else s.runStages e c j x fuel { r with idx := r.idx + 1 } w
    | some (.skipIf cond skip) =>
      s.runStages e c j x fuel { r with idx := r.idx + 1 + (if r.cond cond then skip else 0) } w
    | some st =>
      match s.stage e c j x st r w with
      | .ok (r', w) => s.runStages e c j x fuel { r' with idx := r.idx + 1 } w
      | .error (.trap status) => .trap status r.idx
      | .error (.eng er) => .eng er

/-- Blocks a run can pass: 32 blocks, each passed again at most once per jump. -/
def stageFuel : Nat := 131072

/-! ### The end of a slot (R382, R383) -/

/-- A slot's command and state are replaced. -/
def State.setSlot (s : State) (n : Nat) (c : SmplCmd) (j : Nat) (p : SlotPhase) (trapped : Bool) : State :=
  let ph := c.phases.set j p
  let over' := ph.all fun x => match x with | .ended _ => true | _ => false
  s.modEngine n fun e =>
    { e with kind := .smpl { c with phases := ph, trapped := c.trapped + trapped.toNat },
             phase := if over' then .finished else e.phase }

/-- Bytes 48 to 55 of a slot record. -/
def slotTail (status : Nat) (trap : Bool) (nemit leaf nacc stage : Nat) : List Byte :=
  leBytes 1 status ++ leBytes 1 trap.toNat ++ leBytes 1 nemit ++ leBytes 1 leaf ++ leBytes 1 nacc ++ leBytes 1 stage ++ [0, 0]

/-- End a slot with a trap: only bytes 48 to 55 are written, from the state given (R383). -/
def State.slotTrap (s : State) (e : EngCmd) (c : SmplCmd) (j : Nat) (x : SlotRec) (status stage : Nat) : Except EngErr State :=
  let t := status != 1 || c.trapEmpty
  match s.vPut e.view (x.addr + 48) (slotTail status t 0 0 0 stage) with
  | .error .refuse => .ok (s.setSlot e.serial c j (.ended none) t)
  | .error er => .error er
  | .ok s =>
    let s := if t then
        s.logEvent (clusterSrc e.core) 6 3 (some e.ctx)
          (leBytes 8 c.job.toNat ++ leBytes 4 j ++ leBytes 1 status ++ leBytes 1 stage)
      else s
    .ok (s.setSlot e.serial c j (.ended none) t)

/-- The words of E that no higher slot's OUT has written already (R384). -/
def outWords (c : SmplCmd) (j : Nat) (x : SlotRec) (l : List Nat) : List (DWord × Nat) :=
  let later := (c.phases.zipIdx.filterMap fun p =>
    match p.1 with | .ended (some o) => if j < p.2 then some o else none | _ => none)
  (l.zipIdx.map fun y => (x.out + BitVec.ofNat 64 (4 * y.2), y.1)).filter fun y =>
    !later.any fun o => decide (o.1 ≤ y.1.toNat) && decide (y.1.toNat < o.1 + o.2)

/-- EMIT's writes. -/
def State.emitWords (s : State) (e : EngCmd) : List (DWord × Nat) → Except SlotErr State
  | [] => .ok s
  | (va, x) :: rest => do
    let s ← s.slotPut e va (leBytes 4 x)
    s.emitWords e rest

/-- EMIT (R382): the OUT range is checked and written, then the record. -/
def State.slotEmit (s : State) (e : EngCmd) (c : SmplCmd) (j : Nat) (x : SlotRec) (r : SlotRun) : Except SlotErr State := do
  let s ← s.emitWords e (outWords c j x r.e)
  let leaf := match r.tree with
    | none => 0
    | some t => (t.nodes.getD r.acc (0, 0, 0)).2.2
  let err := fun (er : EngErr) => SlotErr.eng er
  let s ← (s.vPut e.view (x.addr + 8) (leBytes 8 r.n.toNat)).mapError err
  let s ← (s.vPut e.view (x.addr + 48) (slotTail 0 false r.e.length leaf (r.depth r.acc) 0xFF)).mapError err
  .ok (s.setSlot e.serial c j (.ended (some (x.out.toNat, 4 * r.e.length))) false)

/-! ### CALL (R380) -/

/-- Launch the adjust kernel of a slot: its grid and whether it was refused. -/
def State.callGrid (s : State) (e : EngCmd) (c : SmplCmd) (j : Nat) (x : SlotRec) (r : SlotRun) (kd : KDesc) (arg : DWord) :
    State × Nat × Bool :=
  let regs : List DWord :=
    [c.job, BitVec.ofNat 64 j, x.addr, c.wAt j, BitVec.ofNat 64 c.vocab, arg, if r.prob then 1 else 0, BitVec.ofNat 64 r.cur]
  let g : Grid :=
    { Grid.none with
      ctx := e.ctx, kernel := e.kernel, dom := e.dom, ver := e.ver,
      record := { LaunchRec.zero with kdesc := kd.addr, gx := 1, gy := 1, gz := 1, prio := (s.gridOf e.r).record.prio },
      kd := kd, source := .adjust e.serial j regs, phase := .blocked, ldom := e.dom, lver := e.ver }
  let (s, h) := s.addGrid g
  let y := s.enter h none
  (y.1, h, y.2 != some 0)

/-- Begin a CALL: w's half holds the vector exactly when the kernel starts. -/
def State.slotCall (s : State) (e : EngCmd) (c : SmplCmd) (j : Nat) (x : SlotRec) (r : SlotRun) (w : List Nat) (budget : Nat)
    (kdesc arg : DWord) : Except EngErr State :=
  match s.slotPut e (c.wAt j) (wordBytes w) with
  | .error (.eng er) => .error er
  | .error (.trap st) => s.slotTrap e c j x st r.idx
  | .ok s' =>
    match s.readKd e.view kdesc with
    | .error er =>
      match engRead er with
      | .refuse => s.slotTrap e c j x 4 r.idx
      | er => .error er
    | .ok kd =>
      if s.gridsFull then .error .wait else
      let (s', h, no) := (s'.useKd e.view kdesc).callGrid e c j x r kd arg
      if no then s'.slotTrap e c j x 4 r.idx else .ok (s'.setSlot e.serial c j (.calling r h budget 0 none) false)

/-- What comes of a slot's run up to its halt; s is the state in which it ran. -/
def State.slotHalt (s : State) (e : EngCmd) (c : SmplCmd) (j : Nat) (x : SlotRec) : SlotHalt → Except EngErr State
  | .eng er => .error er
  | .trap status stage => s.slotTrap e c j x status stage
  | .call r w budget kdesc arg => s.slotCall e c j x r w budget kdesc arg
  | .emit r =>
    match s.slotEmit e c j x r with
    | .ok s => .ok s
    | .error (.eng er) => .error er
    | .error (.trap status) => s.slotTrap e c j x status r.idx

/-- A part of a slot's run has its effect, or, where an access fails, none: it is made again from the start (R449). -/
def State.slotDone (s : State) (e : EngCmd) : Except EngErr State → State
  | .ok t => t
  | .error er => s.engFault e er

/-! ### Events of a slot -/

/-- Run a slot from its start: the tree, the first row, the working area, then the chain. -/
def State.slotStart (s : State) (e : EngCmd) (c : SmplCmd) (j : Nat) (x : SlotRec) : State :=
  let start : Except SlotErr (State × SlotRun × List Nat) := do
    let t ← s.readTree e c x
    let r : SlotRun := { tree := t, idx := 0, cur := 0, acc := 0, prob := false, done := false, n := x.draw, e := [], loops := [] }
    let w ← s.loadRow e c x r
    let s ← s.openWork e c j
    .ok (s, r, w)
  s.slotDone e <|
    match start with
    | .error (.eng er) => .error er
    | .error (.trap status) => s.slotTrap e c j x status 0xFE
    | .ok (t, r, w) =>
      let t := (t.vUse e.view x.draft (if x.draft = 0 then 0 else 64)).vUse e.view x.logits
        (if x.draft = 0 then c.vocab * (if c.lfmt then 2 else 4) else 0)
      t.slotHalt e c j x (t.runStages e c j x stageFuel r w)

/-- A command that works for a frozen context issues nothing (R461). -/
def State.engFrozen (s : State) (e : EngCmd) : Bool := (s.ctx e.ctx).frozen

/-- Run something for a slot of a running `smpl`. -/
def State.withSlotOf (s : State) (n j : Nat) (k : EngCmd → SmplCmd → SlotRec → SlotPhase → State) : State :=
  match s.engine n with
  | none => s
  | some e =>
    match e.kind with
    | .smpl c =>
      match c.slots[j]?, c.phases[j]? with
      | some x, some p => if e.phase == .running && !s.asking e && !s.engFrozen e then k e c x p else s
      | _, _ => s
    | _ => s

/-- SAMPLER_SLOT_RUN: run a slot that has not begun (R369). -/
def execSamplerSlotRun (n slot : Nat) (s : State) : Res :=
  .next (s.withSlotOf n slot fun e c x p =>
    match p with
    | .waiting => s.slotStart e c slot x
    | _ => s)

/-- The values w may hold when a kernel has completed (R380). -/
def callOk (prob : Bool) (w : List Nat) : Bool :=
  w.all fun y =>
    let v := fmtF32.unpack y
    if prob then fFinite y && !fLt y 0 else !v.isNan && y != 0x7F800000

/-- Scaled cycles counted for a kernel (R380). -/
def State.callCount (s : State) (h used : Nat) (start : Option Nat) : Nat :=
  let d := ((s.grid h).clusters.head?.map fun c => c.die).getD false
  match start with
  | none => used
  | some t => used + ((s.die d).scc + 2 ^ 80 - t) % 2 ^ 80

/-- The watchdog has run out. -/
def State.watchdogDue (s : State) (h budget used : Nat) (start : Option Nat) : Bool :=
  decide (budget * 2 ^ 16 < s.callCount h used start)

/-- A saved team is killed with its kernel: it has ended, and its crew retires when its frame is taken up. -/
def SavedCrew.killTeams (v : SavedCrew) : SavedCrew :=
  let off := fun (t : Team) => { t with killed := true, divided := false, stepMember := false, stepAt := none,
                                        path0 := Path.none, path1 := Path.none }
  { v with teams := v.teams.map fun x => (x.1, off x.2) }

/-- Kill every team of a grid, resident or saved, without drain. -/
def State.killGrid (s : State) (h : Nat) : State :=
  let s := (s.liveTeams.filter fun t => (s.crew t.2.crew).grid == h).foldl (fun s t => s.killTeam t.1) s
  { s.modGrid h (fun g => { g with killed := true }) with
    saved := s.saved.map fun v => if v.crew.grid = h then v.killTeams else v }

/-- The count of a kernel that its watchdog has ended. -/
def overBudget (budget : Nat) : Nat := budget * 2 ^ 16 + 1

/-- ADJUST_KERNEL_COMPLETION: read w back and go on (R380). The working area's contents are open from then on. -/
def execAdjustKernelCompletion (n slot : Nat) (s : State) : Res :=
  .next (s.withSlotOf n slot fun e c x p =>
    match p with
    | .calling r h budget used start =>
      if (s.grid h).phase != .complete then s
      else s.slotDone e <|
        if start.isNone && used == overBudget budget then s.slotTrap e c slot x 3 r.idx
        else if (s.grid h).killed || (s.grid h).cause != 0 then s.slotTrap e c slot x 4 r.idx
        else
          match s.slotGet e (c.wAt slot) (4 * c.vocab) with
          | .error (.eng er) => .error er
          | .error (.trap status) => s.slotTrap e c slot x status r.idx
          | .ok bs =>
            let w := wordsLe bs
            if !callOk r.prob w then s.slotTrap e c slot x 2 r.idx
            else
              match s.openWork e c slot with
              | .error (.eng er) => .error er
              | .error (.trap status) => s.slotTrap e c slot x status r.idx
              | .ok t => t.slotHalt e c slot x (t.runStages e c slot x stageFuel { r with idx := r.idx + 1 } w)
    | _ => s)

/-- WATCHDOG: the adjust kernel has exceeded its budget: its teams are killed, whatever the command waits for, and the
slot traps once they have gone (R380). -/
def execWatchdog (n slot : Nat) (s : State) : Res :=
  match s.engine n with
  | none => .next s
  | some e =>
    match e.kind with
    | .smpl c =>
      match c.phases[slot]? with
      | some (.calling r h budget used start) =>
        if s.watchdogDue h budget used start && start.isSome && (s.grid h).phase != .complete then
          .next ((s.killGrid h).setSlot n c slot (.calling r h budget (overBudget budget) none) false)
        else .next s
      | _ => .next s
    | _ => .next s

end Sys2Proof.Machine
end

