-- ==== Sys2Proof/Machine/EngineRun.lean ====
section
/-! DEFINITION. Engine commands at work (R321 to R324, R327 to R331, R449): their start, their end, and
the messages of a collective. A command that faults has had no effect and runs again when it is
resumed. -/

namespace Sys2Proof.Machine

/-! ### What a run comes to -/

/-- The outcome of a command's run. -/
inductive RunOut where
  /-- It has run: the state, and whether it is finished. -/
  | ran (s : State) (fin : Bool)
  /-- It completes with error status: the state, and the destinations to poison. -/
  | bad (s : State) (dests : List (Place × Nat))
  /-- An access faulted: the destinations written or about to be written. -/
  | held (e : EngErr) (dests : List (Place × Nat))

/-- Steps a chain may take: its loops jump at most 2^32 times each. -/
def chainFuel : Nat := 2 ^ 60

def runOut (s : State) : Except (EngErr × List (Place × Nat)) Run → RunOut
  | .ok x => .ran x.s true
  | .error (.refuse, ds) => .bad s ds
  | .error (e, ds) => .held e ds

/-- Read a member's own elements, where it contributes any. -/
def State.collOwn (s : State) (e : EngCmd) (d : CollDesc) : Except RdErr (List DWord) :=
  if d.op = 2 ∧ d.pos s.rank ≠ d.root then .ok []
  else (s.vUnits e.view d.size d.len d.src).map fun l => l.map fun x => BitVec.ofNat 64 x

/-- Tell the other members of a mismatch (R331). -/
def State.tellFail (s : State) (e : EngCmd) (d : CollDesc) : State :=
  s.postAll (s.keyOf e.ctx) (d.others (d.pos s.rank)) 0 (.collFail d.collid)

/-- Start a collective, or take it up again after a stop: its own node, the nodes it has, and the
messages that came early. -/
def State.collStart (s : State) (e : EngCmd) (d : CollDesc) (have' : List (Nat × Nat × List DWord)) : RunOut :=
  let p := d.pos s.rank
  let ds := [(Place.glob d.dst, d.dstLen p)]
  match s.collOwn e d with
  | .error er => match engRead er with
    | .refuse => .bad s ds
    | er => .held er ds
  | .ok own =>
    let s := s.vUse e.view d.src (own.length * d.size)
    let mine := if (d.op = 2 ∧ p ≠ d.root) ∨ !have'.isEmpty then [] else [(0, p, own)]
    let early := s.collIn.filter fun x => x.1.collid == d.collid
    let s := { s with collIn := s.collIn.filter fun x => x.1.collid != d.collid }
    if early.any fun x => x.1 != d.hdr then .bad (s.tellFail e d) ds
    else
    match s.collStep e d (have' ++ mine ++ early.map fun x => x.2) with
    | .error .refuse => .bad s ds
    | .error er => .held er ds
    | .ok (s, nodes, fin) => .ran (s.modEngine e.serial fun x => { x with kind := .coll d nodes }) fin

/-- A KV command's run, with its arrival: the lines it has written are still its own, and no failure of the arrival
leaves a tail or an entry changed (R352, R353). -/
def State.kvRunOut (s : State) (e : EngCmd) (c : KvCmd) : RunOut :=
  let s := s.kvUse e.view c.seq (if c.op == .kvseal || c.op == .kvcopy then c.pos else c.pos / 16)
  let s := match c.src with | some q => s.kvUse e.view q c.slb | none => s
  match s.kvRun e c with
  | .ok t =>
    if c.obj = 0 then .ran t true
    else
      let ds := if c.op == .gath then c.rows else []
      match t.objArrive e.view (scopeOf c.scope) c.obj c.gen with
      | .ok t => .ran t true
      | .error .refuse => .bad s ds
      | .error er => .held er ds
  | .error ⟨.kv cause, blk, s, ds⟩ => .bad (s.kvLog e c cause blk) ds
  | .error ⟨.eng .refuse, _, s, ds⟩ => .bad s ds
  | .error ⟨.eng er, _, _, ds⟩ => .held er ds

/-- Run a command. -/
def State.engRun (s : State) (e : EngCmd) : RunOut :=
  match e.kind with
  | .chain es => runOut s (runChain e es chainFuel 0 es [] ⟨s, []⟩)
  | .indexed d => runOut s (runIndexed e d d.count 0 ⟨s, []⟩)
  | .coll d nodes => s.collStart e d nodes
  | .kv c => s.kvRunOut e c
  | .smpl c =>
    .ran s (c.phases.all fun x => match x with | .ended _ => true | _ => false)

/-- Abort a stopped command (R449, ACT 2): it completes with error status (R323); of a KV command, what it had
written or was writing is poisoned (R352). -/
def State.engAbort (s : State) (e : EngCmd) : State :=
  match e.phase, e.kind with
  | .stopped _ false, .kv _ =>
    match s.engRun e with
    | .held _ ds | .bad _ ds => s.engError e ds
    | .ran .. => s.engError e []
  | _, _ => s.engError e (s.engPlaces e)

/-- ENGINE_COMMAND_START: a queued command runs its snapshot (R321, R327). The copies of its destination lines are recalled
first: the lines are its own (R232). -/
def execEngineCommandStart (n : Nat) (s : State) : Res :=
  match s.engine n with
  | none => .next s
  | some e =>
    let shut := match e.kind with | .kv c => s.kvShut e c | _ => false
    if e.phase != .queued || s.asking e || s.engFrozen e || shut then .next s
    else if e.err then .next (s.engError e (s.engPlaces e))
    else
      let s := if s.copies.isEmpty then s else (s.destKeys e).foldl (fun s k => s.recallCopies k.1 k.2) s
      match s.engRun e with
      | .ran s fin => .next (s.modEngine n fun x => { x with phase := if fin then .finished else .running })
      | .bad s ds => .next (s.engError e (match e.kind with | .kv _ => ds | _ => s.engPlaces e))
      | .held er ds => .next (match e.kind with | .kv _ => s.engFault e er ds | _ => s.engFault e er)

/-! ### Completion (R323, R324, R328, R331, R384) -/

/-- The object a command arrives at when it completes, with the scope: a KV command's run has made its arrival. -/
def EngKind.object : EngKind → DWord × Nat × Scope
  | .coll d _ => (d.obj, d.gen, scopeOf d.scope)
  | .smpl c => (c.obj, c.gen, scopeOf c.scope)
  | _ => (0, 0, .crew)

/-- The scope at which a command's tag clears (R234): the pod for a collective (R331), the crew for the others
(R328, R353, R384). -/
def EngKind.scope : EngKind → Scope
  | .coll .. => .pod
  | _ => .crew

/-- The arrival at a command's object, where it has one. -/
def State.engArrive (s : State) (e : EngCmd) : Except EngErr State :=
  let o := e.kind.object
  if o.1 = 0 then .ok s else s.objArrive e.view o.2.2 o.1 o.2.1

/-- The command leaves its engine; what waited for its lines and slots goes on (R232, R283). -/
def State.engGone (s : State) (e : EngCmd) : State :=
  let s := { s with engines := s.engines.filter fun x => x.serial != e.serial }
  (s.modCore e.core fun c => { c with racing := c.racing.filter fun x => x.1 != e.serial }).acceptHeld e.ctx

/-- The tag of a command clears, as a release, with its error status where it has one (R234, R323). -/
def State.engTag (s : State) (e : EngCmd) (err : Bool) : State :=
  let s := s.releaseCore e.core e.kind.scope
  if err then s.modCrew e.crew fun c => { c with tagErr := c.tagErr ||| tagMask [e.tag] }
  else
    s.modCrew e.crew fun c =>
      { c with tagScope := Store.set .crew c.tagScope e.tag (Scope.wider (Store.get .crew c.tagScope e.tag) e.kind.scope) }

/-- Engine status ERR (R399). -/
def State.engStatus (s : State) (e : EngCmd) : State := s.csrPut 0x1004 e.core (s.csrGet 0x1004 e.core ||| 4)

/-- The command ends. -/
def State.engEnd (s : State) (e : EngCmd) (err : Bool) : State :=
  let s := if e.clear then s else s.engTag e err
  (if err then s.engStatus e else s).engGone e

/-- The end of a `smpl` in its order: TRAPCNT, the tag, the arrival (R384). -/
def State.smplEnd (s : State) (e : EngCmd) (c : SmplCmd) : State :=
  let last := fun (s : State) (e : EngCmd) =>
    match s.engArrive e with
    | .ok s => s.engEnd e false
    | .error .refuse => s.engEnd e true
    | .error er => s.engFault e er
  if e.clear then last s e
  else
    match s.vPut e.view (c.job + 28) (leBytes 4 c.trapped) with
    | .ok s => last ((s.engTag e false).modEngine e.serial fun x => { x with clear := true }) { e with clear := true }
    | .error .refuse => s.engError e (s.engPlaces e)
    | .error er => s.engFault e er

/-- ENGINE_COMMAND_COMPLETION: every write is performed; the tag clears as a release. -/
def execEngineCommandCompletion (n : Nat) (s : State) : Res :=
  match s.engine n with
  | none => .next s
  | some e =>
    if e.phase != .finished || s.asking e || s.engFrozen e || s.outHeld e.core e.kind.scope then .next s
    else if e.err then .next (s.engEnd e true)
    else
      match e.kind with
      | .smpl c => .next (s.smplEnd e c)
      | _ =>
        match s.engArrive e with
        | .ok s => .next (s.engEnd e false)
        | .error .refuse => .next (s.engError e (s.engPlaces e))
        | .error er => .next (s.engFault e er)

/-! ### Messages of a collective (R479, R480) -/

/-- A node's value from another member; one whose header is not that of the device's own command is a mismatch, which
ends the command in error at every member (R331, R480). -/
def State.collMsg (s : State) (c : CollHdr) (level index : Nat) (vals : List DWord) : State :=
  let hit := s.engines.find? fun e => match e.kind with
    | .coll d _ => d.collid == c.collid && (e.phase == .running || (c != d.hdr && e.phase == .queued))
    | _ => false
  match hit with
  | none => { s with collIn := s.collIn ++ [(c, level, index, vals)] }
  | some e =>
    match e.kind with
    | .coll d nodes =>
      let keep := fun (p : EngPhase) => s.modEngine e.serial fun x => { x with kind := .coll d (nodes ++ [(level, index, vals)]), phase := p }
      if c != d.hdr then (s.tellFail e d).engError e (s.engPlaces e)
      else if s.engFrozen e then keep .queued
      else
        match s.collStep e d (nodes ++ [(level, index, vals)]) with
        | .error .refuse => s.engError e (s.engPlaces e)
        | .error .wait => keep .queued
        | .error er => (keep e.phase).engFault e er
        | .ok (s, nodes, fin) =>
          s.modEngine e.serial fun x =>
            { x with kind := .coll d nodes, phase := if fin then .finished else .running }
    | _ => s

/-- COLLECTIVE_DATA. -/
def execCollectiveData (via : Via) (c : CollHdr) (level index : Nat) (vals : List DWord) (s : State) : Res :=
  .next (s.onMsg via fun s => some (s.collMsg c level index vals))

end Sys2Proof.Machine
end

