-- ==== Sys2Proof/Machine/Frame.lean ====
section
/-! DEFINITION. The save frame (R438) and the scan image (R463): their size, their bytes and CRC-32C.
Bytes whose layout the manual leaves open are Config.openByte. -/

namespace Sys2Proof.Machine

/-! ### Sections -/

/-- Round up to a multiple. -/
def roundUp (n a : Nat) : Nat := (n + a - 1) / a * a

/-- Zero bytes up to a 256-byte boundary. -/
def padSection (l : List Byte) : List Byte := l ++ List.replicate (roundUp l.length 256 - l.length) 0

/-- The bytes of a frame whose layout is open. -/
def openBytes (seed n : Nat) : List Byte := (List.range n).map fun i => Config.openByte (seed + i)

/-- A crew's teams, in TEAM order. -/
def byNum (l : List (Nat × Team)) : List (Nat × Team) :=
  (List.range 10).flatMap fun n => l.filter fun t => t.2.num == n

/-- A mask as bytes. -/
def maskBytes (m : Mask) : List Byte := leBytes 128 m.toNat

/-- A stack entry of a path block: 288 bytes. -/
def stackBytes (seed : Nat) (e : StackEntry) : List Byte :=
  maskBytes e.outer ++ maskBytes e.pend ++ leBytes 8 e.ppc.toNat ++ leBytes 8 e.join.toNat ++ openBytes seed 16

/-- Bytes, with zeros up to a length. -/
def padTo (n : Nat) (l : List Byte) : List Byte := l ++ List.replicate (n - l.length) 0

/-- The first 256 bytes of a path block: what Table 4 names, in its order, in places that the manual leaves open
(assumption 85): PC, clause position, `md`, STATUS, flags, the monitor, the kind of wait. -/
def pathHead (p : Path) : List Byte :=
  let mon := p.monitor.map fun m => m.flake * 32
  padTo 256 (leBytes 8 p.pc.toNat ++ leBytes 8 p.hdrAddr.toNat ++ leBytes 4 p.hdrWord.toNat ++ leBytes 1 p.inClause.toNat ++
    leBytes 1 p.widx ++ leBytes 1 p.ll ++ leBytes 1 p.live.toNat ++ leBytes 4 p.md.toNat ++ leBytes 1 p.status.toNat ++
    leBytes 2 p.flags.toNat ++ leBytes 8 (mon.getD 0) ++ leBytes 1 mon.isSome.toNat ++ leBytes 1 p.wait.ctorIdx)

/-- A path block (Table 4): 9,856 bytes. -/
def pathBytes (seed : Nat) (p : Path) : List Byte :=
  let st := p.stack.flatMap (stackBytes seed)
  pathHead p ++ maskBytes p.xm ++ maskBytes p.domain ++ maskBytes p.done ++ st ++
    List.replicate (9216 - st.length) 0

/-- Grace depth, division state, DJOIN, width, role and budget: 128 bytes, in places that the manual leaves open
(assumption 85). -/
def teamHead (t : Team) : List Byte :=
  padTo 128 (leBytes 4 t.grace ++ leBytes 1 t.divided.toNat ++ leBytes 8 t.djoin.toNat ++ leBytes 4 t.width ++
    leBytes 1 t.role.ctorIdx ++ leBytes 4 t.budget)

/-- A team block (Table 4): 21,504 bytes. -/
def teamBytes (seed : Nat) (t : Team) : List Byte :=
  ((List.range 64).flatMap fun i => leBytes 8 (t.sget (BitVec.ofNat 6 i)).toNat) ++
  ((List.range 8).flatMap fun i => maskBytes (t.pget (BitVec.ofNat 3 i))) ++
  maskBytes t.retired ++ teamHead t ++ pathBytes seed t.path0 ++
  (if t.divided then pathBytes seed t.path1 else List.replicate 9856 0)

/-- Vector registers, lane-major. -/
def vregBytes (t : Team) : List Byte :=
  if t.uniform then []
  else (List.range t.width).flatMap fun l => (List.range t.budget).flatMap fun k =>
    leBytes 4 (t.vget (BitVec.ofNat 8 k) l).toNat

/-- Full/empty bits: bit i of byte j is the bit of word 8j + i. -/
def fullBytes (c : Crew) : List Byte :=
  (List.range (c.size / 32)).map fun j =>
    BitVec.ofNat 8 ((List.range 8).foldl (fun x i => x + (Store.get false c.full (8 * j + i)).toNat * 2 ^ i) 0)

/-- Slots a crew holds. -/
def heldSlots (c : Crew) (a : CoreSt) : List Nat :=
  if c.matrix then (List.range 32).filter fun i => a.claimed.getLsbD i else []

/-- The array section of a matrix-role crew. -/
def arrayBytes (seed : Nat) (a : CoreSt) : List Byte :=
  ((List.range 8192).flatMap fun i => leBytes 4 (Store.get 0 a.acc i).toNat) ++ openBytes seed 1024

/-- A barrier of the header: the arrival mask of some teams by TEAM, and the instance number that the
members have reached. -/
def barBytes (mine members : List Team) (sc : BarScope) (id : BitVec 2) : List Byte :=
  let live := members.filter fun t => t.live
  let inst := (live.map fun t => t.arrivals sc id).foldl Nat.min ((live.head?.map fun t => t.arrivals sc id).getD 0)
  let mask := (mine.filter fun t => t.live && decide (inst < t.arrivals sc id)).foldl (fun m t => m + 2 ^ t.num) 0
  leBytes 8 mask ++ leBytes 8 inst

/-- What a frame or an image is made from. -/
structure FrameIn where
  crew    : Crew
  grid    : Grid
  array   : CoreSt
  teams   : List (Nat × Team)
  /-- The teams of the crew's whole cluster. -/
  cluster : List Team
  tsc     : Nat
  seed    : Nat

/-- Bytes 12 to 1,023 of the header (Table 3). -/
def headerTail (f : FrameIn) : List Byte :=
  let c := f.crew
  let ts := f.teams.map fun t => t.2
  let ids : List (BitVec 2) := [0, 1, 2, 3]
  let bits := f.grid.record.idem.toNat + f.grid.record.res.toNat * 2 + c.matrix.toNat * 4 + f.grid.dom % 256 * 8 +
    f.grid.ver % 64 * 2 ^ 11 + ts.length % 16 * 2 ^ 17
  let l := leBytes 4 (f.grid.ctx % 2 ^ 20) ++ leBytes 4 c.grid ++ leBytes 4 c.x ++ leBytes 4 c.y ++ leBytes 4 c.z ++
    leBytes 8 f.grid.record.kdesc.toNat ++ leBytes 8 c.tags.toNat ++
    leBytes 4 (if c.matrix then f.array.claimed.toNat else 0) ++
    ((List.range 32).map fun i => BitVec.ofNat 8 (Store.get 0 f.array.gens i)) ++
    leBytes 4 bits ++ leBytes 8 c.issues ++ leBytes 8 f.tsc ++
    (ids.flatMap fun i => barBytes ts ts .crew i) ++ (ids.flatMap fun i => barBytes ts f.cluster .clu i)
  l ++ List.replicate (1012 - l.length) 0

/-- The sections after the header. -/
def frameBody (f : FrameIn) : List Byte :=
  let ts := byNum f.teams
  (ts.flatMap fun t => padSection (teamBytes (f.seed + 2 ^ 20 * t.2.num) t.2)) ++
  padSection (ts.flatMap fun t => vregBytes t.2) ++
  padSection (Store.getList 0 f.crew.scratch 0 f.crew.size) ++ padSection (fullBytes f.crew) ++
  ((heldSlots f.crew f.array).flatMap fun i => Store.getList 0 f.array.slots (8192 * i) 8192) ++
  (if f.crew.matrix then arrayBytes f.seed f.array else [])

/-- A whole frame, with its CRC (R438); the scan image has zero for CRC. -/
def frameBytes (f : FrameIn) (crc : Bool) : List Byte :=
  let body := frameBody f
  let rest := headerTail f ++ body
  leBytes 4 1 ++ leBytes 4 (1024 + body.length) ++ leBytes 4 (if crc then (crc32c rest).toNat else 0) ++ rest

/-- The size of a crew's frame (Table 2), without making it. -/
def frameSize (c : Crew) (a : CoreSt) (ts : List Team) : Nat :=
  let vec := (ts.map fun t => if t.uniform then 0 else t.width * t.budget * 4).sum
  1024 + 21504 * ts.length + roundUp vec 256 + roundUp c.size 256 + roundUp (c.size / 32) 256 +
  8192 * (heldSlots c a).length + (if c.matrix then 33792 else 0)

/-! ### Reading a frame (R439) -/

/-- Consecutive little-endian numbers of n bytes. -/
def numsOf (n : Nat) : Nat → List Byte → List Nat
  | 0, _ => []
  | k + 1, l => leNat (l.take n) :: numsOf n k (l.drop n)

/-- A table of the numbers that are not the default, by their places from a first one. -/
def tableOf {β : Type} [DecidableEq β] (dflt : β) (first : Nat) (l : List β) : Store β :=
  l.zipIdx.filterMap fun x => if x.1 = dflt then none else some (first + x.2, x.1)

/-- The masks of a path block. -/
def Path.fromBlock (p : Path) (l : List Byte) : Path :=
  if !p.live then p
  else
    let m := fun (i : Nat) => BitVec.ofNat 1024 (leNat ((l.drop (256 + 128 * i)).take 128))
    { p with xm := m 0, domain := m 1, done := m 2 }

/-- The arrivals of a team at the crew's and cluster's barriers, as the header gives them: the instance number, and one
more where the team's bit of the arrival mask is set (Table 3, R439). -/
def Team.fromBars (t : Team) (hd : List Byte) : Team :=
  if !t.live then t
  else
    let one := fun (t : Team) (x : Nat × BarScope × Nat) =>
      let b := hd.drop (x.1 + 16 * x.2.2)
      let n := leNat ((b.drop 8).take 8) + ((leNat (b.take 8)).testBit t.num).toNat
      { t with barArr := Store.set 0 t.barArr (barKey x.2.1 (BitVec.ofNat 2 x.2.2)) n }
    ((List.range 4).flatMap fun i => [(104, BarScope.crew, i), (168, BarScope.clu, i)]).foldl one t

/-- A team as its block gives it (Table 4): registers, retired mask and the paths' masks. What the manual gives no
place in a block is what the device kept. -/
def Team.fromBlock (t : Team) (l : List Byte) : Team :=
  let t := (numsOf 8 64 l).zipIdx.foldl (fun (t : Team) x => t.sset (BitVec.ofNat 6 x.2) (BitVec.ofNat 64 x.1)) t
  let t := (numsOf 128 8 (l.drop 512)).zipIdx.foldl
    (fun (t : Team) x => t.pset (BitVec.ofNat 3 x.2) (BitVec.ofNat 1024 x.1)) t
  { t with retired := BitVec.ofNat 1024 (leNat ((l.drop 1536).take 128)),
           path0 := t.path0.fromBlock (l.drop 1792), path1 := t.path1.fromBlock (l.drop 11648) }

/-- A vector team's registers from their bytes, lane-major. -/
def Team.fromLanes (t : Team) (l : List Byte) : Team :=
  let ws := (numsOf 4 (t.width * t.budget) l).toArray
  { t with v := (List.range t.budget).flatMap fun k => (List.range t.width).filterMap fun i =>
      let w := BitVec.ofNat 32 (ws.getD (i * t.budget + k) 0)
      if w = 0 then Option.none else some (vkey k i, w) }

/-- Teams and their vector registers, in order. -/
def teamsFrom : List (Nat × Team) → List Byte → List Byte → List (Nat × Team)
  | [], _, _ => []
  | t :: ts, blocks, lanes =>
    let x := t.2.fromBlock blocks
    let n := if x.uniform then 0 else x.width * x.budget * 4
    (t.1, if x.uniform then x else x.fromLanes lanes) :: teamsFrom ts (blocks.drop 21504) (lanes.drop n)

/-- An array as its section and the header give it. Slots that were not claimed have no bytes in the frame: theirs are zero
after it, which is the model's choice (R278, R438; assumption 86). -/
def CoreSt.fromFrame (a : CoreSt) (bs slots acc : List Byte) : CoreSt :=
  let claimed := BitVec.ofNat 32 (leNat ((bs.drop 48).take 4))
  let held := (List.range 32).filter fun i => claimed.getLsbD i
  { a with
    claimed := claimed,
    gens := tableOf 0 0 (numsOf 1 32 (bs.drop 52)),
    slots := held.zipIdx.flatMap fun x => tableOf 0 (8192 * x.1) ((slots.drop (8192 * x.2)).take 8192),
    acc := tableOf 0 0 ((numsOf 4 8192 acc).map (BitVec.ofNat 32)) }

/-- A saved crew as its frame's bytes give it (R438, Tables 2 to 4). -/
def SavedCrew.fromFrame (v : SavedCrew) (bs : List Byte) : SavedCrew :=
  let ts := byNum v.teams
  let lanes := bs.drop (1024 + 21504 * ts.length)
  let vec := (ts.map fun t => if t.2.uniform then 0 else t.2.width * t.2.budget * 4).sum
  let sp := lanes.drop (roundUp vec 256)
  let full := sp.drop (roundUp v.crew.size 256)
  let slots := full.drop (roundUp (v.crew.size / 32) 256)
  let bits := (full.take (v.crew.size / 32)).flatMap fun b => (List.range 8).map fun i => b.getLsbD i
  { v with
    teams := (teamsFrom ts (bs.drop 1024) lanes).map fun t => (t.1, t.2.fromBars bs),
    crew := { v.crew with
      scratch := tableOf 0 0 (sp.take v.crew.size), full := tableOf false 0 bits,
      tags := BitVec.ofNat 64 (leNat ((bs.drop 40).take 8)), issues := leNat ((bs.drop 88).take 8) },
    array := v.array.map fun a =>
      a.fromFrame bs slots (slots.drop (8192 * (heldSlots v.crew a).length)) }

/-! ### Sizes and makers -/

/-- Pages of 4 KiB. -/
def framePages (n : Nat) : Nat := (n + 4095) / 4096

/-! ### Of a resident crew -/

/-- A crew's teams, whatever their life. -/
def State.teamsOfCrew (s : State) (n : Nat) : List (Nat × Team) := s.teams.filter fun t => t.2.crew == n

/-- The state a frame or image of a resident crew shows. -/
def State.frameIn (s : State) (n : Nat) (tsc : Nat) : FrameIn :=
  let c := s.crew n
  { crew := c, grid := s.grid c.grid, array := s.coreSt c.core, teams := byNum (s.teamsOfCrew n),
    cluster := (s.gridTeams c.grid).filterMap fun x => if x.1.cluster = c.cluster then some x.2 else none,
    tsc := tsc, seed := 2 ^ 32 * s.fresh }

/-- A team with the done masks its crew shows. -/
def Crew.showDone (c : Crew) (x : Nat × Team) : Nat × Team :=
  match c.shown.lookup x.1 with
  | Option.none => x
  | some (a, b) => (x.1, { x.2 with path0 := { x.2.path0 with done := a }, path1 := { x.2.path1 with done := b } })

/-- The scan image of a crew, with its done masks as they were at the freeze (R463). -/
def State.scanImage (s : State) (n : Nat) : List Byte :=
  let f := s.frameIn n 0
  frameBytes { f with teams := f.teams.map f.crew.showDone } false

end Sys2Proof.Machine
end

