-- ==== Sys2Proof/Machine/Walk.lean ====
section
/-! DEFINITION. The events of translation: page walks that fill a TLB (R441 to R444), the host's answers
to ATS and page requests, and its invalidations (R445, R446). -/

namespace Sys2Proof.Machine

/-- Entries a TLB holds: a core's, or a cluster's (R444). -/
def tlbSize (unit : Nat) : Nat := if unit < 576 then 64 else 4096

/-- Put a walk's entry into a unit's TLB: the oldest goes where it is full. An older translation of the page stays
until it is evicted or invalidated (R444). -/
def State.tlbFill (s : State) (e : TlbEntry) : State :=
  let l := s.tlb.filter fun x => x != e
  let mine := l.filter fun x => x.unit == e.unit
  let l := if tlbSize e.unit ≤ mine.length then
      match mine with
      | o :: _ => l.filter fun x => x != o
      | [] => l
    else l
  { s with tlb := l ++ [e] }

/-- PAGE_WALK: a walk for a TLB ends with a translation, which the TLB keeps, or with a fault, which the
access that missed takes itself (R443). -/
def execPageWalk (unit ctx : Nat) (va : DWord) (_acc : Access) (_who : Option PathRef) (s : State) : Res :=
  if 582 ≤ unit || !(s.ctx ctx).record.valid then .next s
  else
    match s.walk ctx va.toNat with
    | .error _ => .next s
    | .ok e => .next (s.tlbFill { e with unit := unit })

/-! ### Host translations (R445) -/

/-- Entries of a port's address translation cache. -/
def atcSize : Nat := 8192

/-- Keep a translation, the oldest of the port going where its cache is full. -/
def State.atcFill (s : State) (x : AtcEntry) : State :=
  let l := s.atc.filter fun y => !(y.port == x.port && y.ctx == x.ctx && y.page == x.page)
  let mine := l.filter fun y => y.port == x.port
  let l := if atcSize ≤ mine.length then
      match mine with
      | o :: _ => l.filter fun y => y != o
      | [] => l
    else l
  { s with atc := l ++ [x] }

/-- The commands of a context that wait for a host page. -/
def State.askers (s : State) (port : Bool) (ctx page : Nat) : List EngCmd :=
  s.engines.filter fun e => e.ctx == ctx &&
    (match e.asks with | some (p, g, _, _) => p == port && g == page | none => false)

/-- Engine commands that waited for a page try again. -/
def State.retryEngines (s : State) (port : Bool) (ctx page : Nat) : State :=
  (s.askers port ctx page).foldl (fun s e => s.modEngine e.serial fun x => { x with asks := none }) s

/-- The launch queues whose next descriptor waits for a page. -/
def State.queueAskers (s : State) (port : Bool) (ctx page : Nat) : List Nat :=
  s.wqs.filterMap fun x =>
    let w := x.2
    let kd := BitVec.ofNat 64 (s.memNat (w.slot (s.wqC w)) 8)
    let waits := match s.readKd ⟨0, w.ctx, w.priv, 0, 0, some (queueRef x.1), none⟩ kd with
      | .error (.xlat (.ats p g) _) => p == port && g == page
      | _ => false
    if w.ctx == ctx && s.queueReady x.1 && waits then some x.1 else none

/-- What waits for a host page: paths, engine commands and launch queues. -/
def State.pageWaiters (s : State) (port : Bool) (ctx page : Nat) : List PathRef :=
  (s.allPaths.filter fun r => s.ctxOf r == ctx && (s.path r).wait == .ats port page) ++
  ((s.askers port ctx page).map fun e => engineRef e.serial) ++ (s.queueAskers port ctx page).map queueRef

/-- An access that waits for a host page fails with a host-page fault (cause 8): a path's or a queue's when it is taken
up again, an engine command's with an engine stop. -/
def State.hostFail (s : State) (port : Bool) (page sub : Nat) (who : PathRef) : State :=
  match s.engines.find? fun e => engineRef e.serial == who with
  | none => { s with hostFails := s.hostFails ++ [(who, port, page, sub)] }
  | some e =>
    match e.asks with
    | some (_, _, va, acc) =>
      (s.modEngine e.serial fun x => { x with asks := none }).engineStop { e with asks := none }
        { cause := 8, sub := sub, addr := va, detail := acc + 4 }
    | none => s

/-- Take the oldest group for a page: its response has come, or will not come. -/
def State.takeGroup (s : State) (port : Bool) (ctx page : Nat) : Option (State × PageReq) :=
  (s.prqOut.find? fun q => q.names port ctx page).map fun q => ({ s with prqOut := s.prqOut.erase q }, q)

/-- The instruction whose page request has failed takes the fault, where it waits still. -/
def State.groupFail (s : State) (q : PageReq) (sub : Nat) : State :=
  if (s.pageWaiters q.port q.ctx q.page).contains q.who then s.hostFail q.port q.page sub q.who else s

/-- ATS_TRANSLATION_COMPLETION: the translation is kept and the accesses go on; without one the port
asks for the page; an error fails the access with sub-cause 3. -/
def execAtsTranslationCompletion (port : Bool) (ctx page : Nat) (o : AtsOutcome) (target : Nat) (writable : Bool)
    (s : State) : Res :=
  if !s.atsOut.contains (port, ctx, page) then .next s
  else
    let s := { s with atsOut := s.atsOut.filter fun x => x != (port, ctx, page) }
    match o with
    | .ok => .next ((s.atcFill ⟨port, ctx, page, target, writable⟩).retryEngines port ctx page)
    | .noPermission => .next ((s.pageWaiters port ctx page).foldl (fun s r => s.pageAsk r port ctx page) s)
    | .error => .next ((s.pageWaiters port ctx page).foldl (fun s r => s.hostFail port page 3 r) s)

/-- PAGE_REQUEST_RESPONSE: Success repeats the translation request; Invalid Request and Response Failure
fail the access with sub-cause 1. -/
def execPageRequestResponse (port : Bool) (ctx page : Nat) (o : PriOutcome) (s : State) : Res :=
  match s.takeGroup port ctx page with
  | none => .next s
  | some (s, q) =>
    match o with
    | .success =>
      let s := { s with atc := s.atc.filter fun x => !(x.port == port && x.ctx == ctx && x.page == page) }
      if s.atsOut.contains (port, ctx, page) then .next s
      else .next { s with atsOut := s.atsOut ++ [(port, ctx, page)], out := s.out ++ [.ats port ctx page] }
    | .invalid | .failure => .next (s.groupFail q 1)

/-- ATS_TIMEOUT: no page response within 100 ms (sub-cause 2). -/
def execAtsTimeout (port : Bool) (ctx page : Nat) (s : State) : Res :=
  match s.takeGroup port ctx page with
  | none => .next s
  | some (s, q) => .next (s.groupFail q 2)

/-- Every access of the device to a port's host is delivered: stores on their way, the dirty bytes of the caches and
of the home L2, and what waits for a flush (R446). -/
def State.deliverAll (s : State) (port : Bool) : State :=
  let mine := fun (k : Nat) => isHostKey k && hostPortOf k == port
  let s := s.bindIf fun p l => !s.bindHeld p && l.lanes.any fun e => mine e.2.2.1
  let s := s.drainIf fun f => mine f.key
  let s := (s.copyUnits.filter fun u => decide (u < 576)).foldl (fun s u => s.l1ToRdc u mine) s
  let s := (s.copyUnits.filter fun u => decide (576 ≤ u)).foldl (fun s u => s.writeBack u mine) s
  (s.hostOut (hostKey port 0) (2 ^ 56) false).deliver port

/-- HOST_INVALIDATION_REQUEST: matching entries go, every access that may have used one, its entry evicted since or
not, is delivered, and then the request completes; no TLB entry changes (R446). -/
def execHostInvalidationRequest (port : Bool) (ctx page count : Nat) (s : State) : Res :=
  let hit := fun (x : AtcEntry) => x.port == port && x.ctx == ctx && decide (page ≤ x.page) && decide (x.page < page + count)
  let t := ({ s with atc := s.atc.filter fun x => !hit x } : State).deliverAll port
  let waits := s.pend.any fun p => s.bindHeld p && match p.loads with
    | some l => l.lanes.any fun e => isHostKey e.2.2.1 && hostPortOf e.2.2.1 == port
    | none => false
  if s.allHeld || waits then .next s
  else .next { t with out := t.out ++ [.invalidated port ctx page] }

end Sys2Proof.Machine
end

