-- ==== Sys2Proof/Machine/Preempt.lean ====
section
/-! DEFINITION. Which cluster is placed next, and pre-emption (R421 to R440): effective priority, the
order of R426 with the draft and target choice, victims, drain, save and flush, and restoration. -/

namespace Sys2Proof.Machine

/-! ### Partitions' scheduling entries (R421, R434) -/

def State.sched (s : State) (p : Nat) : Sched := Store.get Sched.zero s.scheds p

/-- Physical address of a partition's scheduling entry. -/
def State.schedBase (s : State) (p : Nat) : Nat := (s.csrGet 0x4022 0).toNat + 262144 + 64 * p

/-- The partition of a grid. -/
def State.schedOf (s : State) (g : Grid) : Sched := s.sched (s.ctxPart g.ctx)

/-- TSC ticks in a µs (R143: the TSC runs at 1 GHz). -/
def us : Nat := 1000

/-- The effective slice of a context's clusters, in µs (R434). -/
def State.effSlice (s : State) (g : Grid) : Nat := Nat.max (s.schedOf g).slice (4 * (s.ctx g.ctx).tc)

/-- Bits 32 to 63 of a scheduling entry's word at 40: flags in bytes 40 to 43 are set. -/
def State.raise (s : State) (p bit : Nat) : State :=
  let a := s.schedBase p + 40
  s.homeWrite a (leBytes 4 (s.memNat a 4 ||| bit))

/-- An effective slice above SLICE is reported: EFFSLICE is the largest since SLICE-RAISED was last clear (R421,
R434). -/
def State.noteSlice (s : State) (g : Grid) : State :=
  let p := s.ctxPart g.ctx
  let e := s.effSlice g
  let a := s.schedBase p + 40
  if (s.sched p).slice = 0 ∨ e ≤ (s.sched p).slice then s
  else if (s.memNat a 4).testBit 0 && decide (e ≤ s.memNat (a + 4) 4) then s
  else (s.raise p 1).homeWrite (a + 4) (leBytes 4 e)

/-- Report the effective slices that are applied in a partition. -/
def State.noteSlices (s : State) (p : Nat) : State :=
  (s.grids.filter fun g => g.2.live && s.ctxPart g.2.ctx == p && g.2.clusters.any fun c => c.phase == .resident).foldl
    (fun s g => s.noteSlice g.2) s

/-! ### Effective priority (R424) -/

/-- The tick at which a context's counts stand: they pause while it is frozen (R461). -/
def State.nowFor (s : State) (c : Nat) : Nat := if (s.ctx c).frozen then (s.ctx c).frozenAt else s.tsc

/-- Effective priority of a cluster of a grid that waits since a tick. -/
def State.eff (s : State) (g : Grid) (since : Nat) : Nat :=
  let age := (s.schedOf g).age
  if age = 0 then g.record.prio else Nat.min 7 (g.record.prio + (s.nowFor g.ctx - since) / (age * us))

/-! ### Waiting clusters (R423, R426, R427) -/

/-- Draft clusters and target clusters of a domain. -/
inductive Kind where
  | draft (d : Nat)
  | target (d : Nat)
  deriving DecidableEq, Repr

/-- The kinds of a grid, one for each domain: a draft grid of the domains that name its queue, and a target grid of the
domain of its speculative version. That a draft grid of a domain is not its target grid too is the model's choice
(assumption 90). -/
def State.kindsOf (s : State) (g : Grid) : List Kind :=
  let drafts : List Nat := match g.source with
    | .queue q _ _ => (((s.schedOf g).draftq.filter fun (x : Nat × Nat) => x.2 == q).map fun x => x.1).eraseDups
    | _ => []
  drafts.map Kind.draft ++ if g.ver = 0 ∨ drafts.contains g.dom then [] else [.target g.dom]

/-- A waiting cluster. -/
structure Cand where
  grid  : Nat
  idx   : Nat
  eff   : Nat
  claim : Bool
  saved : Bool
  order : Nat
  kinds : List Kind
  deriving DecidableEq, Repr

/-- The first die-0 and other clusters of a grid never placed: a PLACE 3 grid has a range on each die. -/
def Grid.fresh (g : Grid) : List Nat :=
  let n := g.record.clusters
  let known := fun i => g.clusters.any fun c => c.idx == i
  let half := (n + 1) / 2
  let first := fun (lo hi : Nat) => (List.range (hi - lo)).find? (fun i => !known (lo + i)) |>.map (lo + ·)
  if g.record.place = 3 then (first 0 half).toList ++ (first half n).toList else (first 0 n).toList

/-- The waiting clusters of one grid; a resident grid's stand as one, the first of them. -/
def State.candsOf (s : State) (h : Nat) (g : Grid) : List Cand :=
  if !g.live || g.phase != .runnable || (s.ctx g.ctx).frozen || !(s.ctx g.ctx).record.valid then []
  else
    let again := g.clusters.filterMap fun c =>
      if c.phase == .saved then
        some (⟨h, c.idx, s.eff g c.since, c.claim, true, c.saveOrder, []⟩ : Cand)
      else if c.phase == .waiting then
        some ⟨h, c.idx, s.eff g c.since, c.claim, false, g.order, s.kindsOf g⟩
      else none
    let new := (Grid.fresh g).map fun i => (⟨h, i, s.eff g g.since, false, false, g.order, s.kindsOf g⟩ : Cand)
    if g.record.res then
      (if g.clusters.all fun c => c.phase == .saved || c.phase == .waiting || c.phase == .retired then
        (again ++ new).take 1 else [])
    else again ++ new

/-- The order of R426: effective priority; saved clusters in order of their saves; then grids in order of entry and
clusters by index. -/
def Cand.before (a b : Cand) : Bool :=
  let k := fun (c : Cand) => [8 - c.eff, (!c.saved).toNat, c.order, c.idx]
  List.lex (k a) (k b)

/-- Insert in order. -/
def candInsert (x : Cand) : List Cand → List Cand
  | [] => [x]
  | y :: ys => if x.before y then x :: y :: ys else y :: candInsert x ys

/-- R428: whether a die's dispatcher tries the target cluster of a domain first. -/
def State.targetFirst (s : State) (die : Bool) (d : Nat) : Bool :=
  let x := s.dom d
  let f := Nat.min 224 (Nat.max 32 (if x.home = s.rank then x.accept else 0x80))
  let cd := if die then x.cd1 else x.cd0
  let ct := if die then x.ct1 else x.ct0
  decide ((ct + 1) * 256 ≤ (ct + cd + 1) * f)

/-- The other kind of a domain. -/
def Kind.other : Kind → Kind
  | .draft d => .target d
  | .target d => .draft d

def Kind.dom : Kind → Nat
  | .draft d | .target d => d

/-- The draft and target exception of R428: the earliest draft cluster and the earliest target cluster of a domain at
one effective priority stand together, in the place of the earlier and in the order of the choice. -/
def State.pairUp (s : State) (die : Bool) : Nat → List (Nat × Nat) → List Cand → List Cand
  | 0, _, l => l
  | _ + 1, _, [] => []
  | fuel + 1, seen, x :: xs =>
    let first := x.kinds.filter fun k => !seen.contains (x.eff, k.dom)
    let seen := first.map (fun k => (x.eff, k.dom)) ++ seen
    let pair := first.findSome? fun k => (xs.find? fun y => y.eff == x.eff && y.kinds.contains k.other).map fun y => (k, y)
    match pair with
    | none => x :: s.pairUp die fuel seen xs
    | some (k, y) =>
      let rest := s.pairUp die fuel seen (xs.filter fun z => z != y)
      let isTarget := match k with | .target _ => true | .draft _ => false
      if s.targetFirst die k.dom == isTarget then x :: y :: rest else y :: x :: rest

/-! ### Placing and restoring (R429 to R431, R439) -/

/-- Where a cluster may go: an adjust kernel runs in its engine's hardware cluster (R380); a saved
cluster of PLACE 2 keeps its die once a team of its grid has executed a die-scope barrier (R439). -/
def State.destOf (s : State) (g : Grid) (idx : Nat) : Dest :=
  match g.source with
  | .adjust cmd _ _ => .hw (((s.engine cmd).map fun e => clusterOfCore e.core).getD 0)
  | _ =>
    match g.clusters.find? fun c => c.idx == idx && c.phase == .saved with
    | some c => if g.record.place = 2 && g.dieBar then .die c.die else g.record.dest idx
    | none => g.record.dest idx

/-- A die's dispatcher places the cluster: the die that its grid or its state ties it to, or either (R422, R439). A
resident grid's clusters are placed together, by a dispatcher that the grid entered. -/
def State.mayPlace (s : State) (die : Bool) (c : Cand) : Bool :=
  let g := s.grid c.grid
  if g.record.res then
    match g.record.place with
    | 0 => !die
    | 1 => die
    | _ => true
  else
    match s.destOf g c.idx with
    | .die d => d == die
    | .hw h => decide (3 ≤ h) == die
    | .either => true

/-- The waiting clusters of a partition in the order of R426. -/
def State.waitingAll (s : State) (p : Nat) : List Cand :=
  (s.grids.flatMap fun g => if s.ctxPart g.2.ctx = p then s.candsOf g.1 g.2 else []).foldl
    (fun acc x => candInsert x acc) []

/-- The waiting clusters of a partition that one die's dispatcher may place, in the order it takes them. -/
def State.waitingOf (s : State) (die : Bool) (p : Nat) : List Cand :=
  let l := (s.waitingAll p).filter (s.mayPlace die)
  s.pairUp die l.length [] l

/-- The kind placed is counted on the die that places it (R427, R428). -/
def State.countKind (s : State) (die : Bool) : Kind → State
  | .draft d => s.modDom d fun x => if die then { x with cd1 := x.cd1 + 1 } else { x with cd0 := x.cd0 + 1 }
  | .target d => s.modDom d fun x => if die then { x with ct1 := x.ct1 + 1 } else { x with ct0 := x.ct0 + 1 }

/-- The frames of a cluster, in ascending cluster index. -/
def State.framesOf (s : State) (h idx : Nat) : List SavedCrew :=
  let l := s.saved.filter fun v => v.crew.grid == h && v.crew.cluster == idx
  (List.range 96).flatMap fun i => l.filter fun v => v.crew.cidx == i

/-- Tags a saved crew holds. -/
def SavedCrew.tagCount (v : SavedCrew) : Nat := ((List.range 64).filter fun t => v.crew.tags.getLsbD t).length

/-- A member of a grid's barriers comes to stand on the other die (R439): what die 1 has told of the instances not complete
was told of other members, and is told again once those it has now have arrived (R310, R495). -/
def State.forgetDie (s : State) (h : Nat) : State :=
  { s with dieMsgs := s.dieMsgs.filter fun m => m.1 != h || s.completes.contains m }

/-- Claim the cores of a saved cluster: its crews stand there, gated, until their state is loaded. The cores' older
copies go, as for a crew placed anew (R222). -/
def State.beginRestore (s : State) (h idx hw : Nat) (l : List (SavedCrew × Nat)) : State :=
  let k := (s.grid h).kd
  let s := if l.any fun x => dieOfCore x.1.crew.core != dieOfCore x.2 then s.forgetDie h else s
  let s := l.foldl (fun s x =>
    let s := s.acquireCore x.2 .device
    let s := if (s.crewsOn x.2).isEmpty then s.setUpCore x.2 k else s
    s.setCrew x.1.num { x.1.crew with core := x.2, slot := s.freeSlot x.2, gated := true }) s
  s.modGrid h fun g =>
    { g with clusters := g.clusters.map fun c =>
        if c.idx = idx then
          { c with phase := .resident, die := decide (3 ≤ hw), hw := hw, restoreStart := s.tsc, restoredAt := none,
                   guarded := true, drained := false, claim := false, stuck := none,
                   crews := c.crews.filter (fun n => !l.any fun x => x.1.num == n) ++ l.map fun x => x.1.num }
        else c }

/-- Place one waiting cluster, saved or not: none where it does not fit. The hardware cluster is told. A cluster that
is not saved is counted for the choice of R428. -/
def State.placeOne (s : State) (h idx : Nat) : Option (State × Nat) :=
  let g := s.grid h
  let mask := s.maskOf (s.partOf h)
  if g.clusters.any fun c => c.idx == idx && c.phase == .saved then
    let fr := s.framesOf h idx
    (s.findRoom mask g.kd (fr.map SavedCrew.tagCount) (s.destOf g idx)).map fun x =>
      (s.beginRestore h idx x.1 (fr.zip x.2), x.1)
  else
    (s.findRoom mask g.kd ((g.waiters idx).map fun _ => 0) (s.destOf g idx)).map fun x =>
      ((s.kindsOf g).foldl (fun s k => s.countKind (decide (3 ≤ x.1)) k) (s.placeCluster h idx x.1 x.2), x.1)

/-- The clusters placed together: all of a resident grid's, or one (R430). -/
def State.unitOf (s : State) (c : Cand) : List Nat :=
  let g := s.grid c.grid
  if g.record.res then
    (List.range g.record.clusters).filter fun i => !g.clusters.any fun x => x.idx == i && x.phase == .retired
  else [c.idx]

/-- Place clusters one after another: none where one does not fit. -/
def State.placeUnit (s : State) (h : Nat) : List Nat → Option State
  | [] => some s
  | i :: is =>
    match s.placeOne h i with
    | none => none
    | some x => x.1.placeUnit h is

/-- Place a candidate on behalf of a die's dispatcher: none where it does not fit, or belongs to the
other die. -/
def State.tryPlace (s : State) (die : Bool) (c : Cand) : Option State :=
  if (s.grid c.grid).record.res then s.placeUnit c.grid (s.unitOf c)
  else
    match s.placeOne c.grid c.idx with
    | none => none
    | some (t, hw) => if decide (3 ≤ hw) == die then some t else none

/-! ### Victims (R433) -/

/-- Resident clusters that are pre-empted together: a grid and its cluster indices. -/
abbrev Unit' := Nat × List Nat

/-- The resident units of a partition. -/
def State.residents (s : State) (p : Nat) : List Unit' :=
  s.grids.flatMap fun x =>
    if s.ctxPart x.2.ctx ≠ p ∨ !x.2.live then []
    else
      let l := (x.2.clusters.filter fun c => c.phase == .resident).map fun c => c.idx
      if x.2.record.res then (if l.isEmpty then [] else [(x.1, l)]) else l.map fun i => (x.1, [i])

/-- The clusters of a unit, and its crews. -/
def State.clustersOf (s : State) (u : Unit') : List ClusterSt :=
  (s.grid u.1).clusters.filter fun c => u.2.contains c.idx
def State.crewsOf (s : State) (u : Unit') : List Nat :=
  ((s.clustersOf u).flatMap fun c => c.crews).filter fun n => (s.crew n).live

/-- The tick from which a unit counts as resident. -/
def State.unitSince (s : State) (u : Unit') : Nat := ((s.clustersOf u).map fun c => c.placedAt).foldl Nat.max 0

/-- Free pages of a partition's save pool. -/
def State.freePages (s : State) (p : Nat) : Nat :=
  let held := (s.saved.map fun v => if v.part = p then v.pages else 0).sum
  let kept := (s.grids.map fun g =>
    if s.ctxPart g.2.ctx = p then (g.2.clusters.map fun c => (c.frames.map fun f => f.2).sum).sum else 0).sum
  (s.sched p).savesize / 4096 - (held + kept)

/-- A unit may be a victim at all: not being restored, not of a frozen context, no held copy or launch
of its crews. -/
def State.eligible (s : State) (u : Unit') : Bool :=
  let g := s.grid u.1
  let crews := s.crewsOf u
  !(s.ctx g.ctx).frozen && (crews.all fun n => !(s.crew n).gated) &&
  !(s.engines.any fun e => crews.contains e.crew && (match e.phase with | .held _ => true | _ => false)) &&
  !(s.grids.any fun x => x.2.live && x.2.phase == .held && crews.contains x.2.lcrew)

/-- The end of a unit's protection after a restoration: from its first issue, 4 × Tc (R433). -/
def State.guardEnd (s : State) (u : Unit') : Nat :=
  ((s.clustersOf u).map fun c =>
    match c.restoredAt with
    | some t => t + 4 * (s.ctx (s.grid u.1).ctx).tc * us
    | none => 0).foldl Nat.max 0

/-- A restored unit that has not issued yet is protected too. -/
def State.unissued (s : State) (u : Unit') : Bool := (s.clustersOf u).any fun c => c.guarded && c.restoredAt.isNone

/-- A unit is a victim for a waiting cluster of some effective priority: for priority, or because its
slice has expired. -/
def State.victim (s : State) (p e : Nat) (u : Unit') : Bool :=
  let g := s.grid u.1
  let free := !s.unissued u && decide (s.guardEnd u ≤ s.tsc)
  s.eligible u &&
  ((decide (g.record.prio < e) && free) ||
   ((s.sched p).slice != 0 && decide (g.record.prio ≤ e) && !s.unissued u &&
    decide (s.unitSince u + s.effSlice g * us ≤ s.tsc)))

/-- Victims in order: the lowest priority first, then those resident longest. -/
def State.victimBefore (s : State) (a b : Unit') : Bool :=
  let k := fun (u : Unit') => [(s.grid u.1).record.prio, s.unitSince u, u.1, u.2.headD 0]
  List.lex (k a) (k b)

def State.victimInsert (s : State) (x : Unit') : List Unit' → List Unit'
  | [] => [x]
  | y :: ys => if s.victimBefore x y then x :: y :: ys else y :: s.victimInsert x ys

/-- The state without some crews. -/
def State.without (s : State) (l : List Nat) : State := { s with crews := s.crews.filter fun c => !l.contains c.1 }

/-- The crews that are on their way out of a partition: drained, saved or flushed. -/
def State.going (s : State) (p : Nat) : List Nat :=
  s.grids.flatMap fun g =>
    if s.ctxPart g.2.ctx = p then
      g.2.clusters.flatMap fun c =>
        if c.phase == .draining || c.phase == .saving || c.phase == .flushing then c.crews else []
    else []

/-! ### Drain, save or flush (R435, R436) -/

/-- A crew's progress: none where its kernel has no expectation. -/
def State.progress (s : State) (n : Nat) : Option Nat :=
  let c := s.crew n
  let die := decide (dieOfCore c.core = 1)
  (s.expect.find? fun x => x.1 == die && x.2.1 == (s.grid c.grid).kd.addr).map fun x =>
    if x.2.2 = 0 then 256 else Nat.min 256 (256 * c.issues / x.2.2)

/-- A kernel's entry has been used: it is the most recent now. -/
def State.touchExpect (s : State) (n : Nat) : State :=
  let c := s.crew n
  let hit := fun (x : Bool × DWord × Nat) => x.1 == decide (dieOfCore c.core = 1) && x.2.1 == (s.grid c.grid).kd.addr
  { s with expect := s.expect.filter (fun x => !hit x) ++ s.expect.filter hit }

/-- A team that a flush would lose: in a grace section, a step member, or one that has executed a `bar` at die or grid
scope, retired since or not. -/
def Team.keepsState (t : Team) : Bool :=
  let far := fun (p : Path) => match p.wait with
    | .bar .die _ _ | .bar .grid _ _ => true
    | _ => false
  t.grace != 0 || t.stepMember || far t.path0 || far t.path1 ||
  t.barArr.any fun x => decide (2 ≤ x.1 / 4)

/-- What a pre-emption does with a unit. -/
inductive Action where
  | drain | save | flush
  deriving DecidableEq, Repr

/-- The table of R436, over all the crews of the unit. -/
def State.action (s : State) (u : Unit') : Action :=
  let crews := s.crewsOf u
  let qs := crews.map s.progress
  let teams := s.teams.filter fun t => crews.contains t.2.crew
  if (qs.all fun q => match q with | some n => decide (224 ≤ n) | none => false) &&
      !((s.clustersOf u).any fun c => c.drained) then .drain
  else if (s.grid u.1).record.idem && (qs.all fun q => match q with | some n => decide (n < 32) | none => false) &&
      !(teams.any fun t => t.2.keepsState) then .flush
  else .save

/-- Waiting clusters of a partition. -/
def State.waitingCount (s : State) (p : Nat) : Nat :=
  (s.grids.map fun g =>
    if g.2.live && g.2.phase == .runnable && s.ctxPart g.2.ctx == p then
      g.2.record.clusters - (g.2.clusters.filter fun c => !(c.phase == .waiting || c.phase == .saved)).length
    else 0).sum

/-- What a decision of the dispatcher rests on beside time: room in the pool, crews in place, clusters waiting. -/
def State.situation (s : State) (p : Nat) : Nat × Nat × Nat := (s.freePages p, s.crews.length, s.waitingCount p)

/-- A unit may be chosen again: no save of it has found no room at this very decision (R437). -/
def State.again (s : State) (p : Nat) (u : Unit') : Bool :=
  s.action u != .save || (s.clustersOf u).all fun c => c.stuck != some (s.situation p)

/-! ### The victims of one cluster (R433) -/

/-- A candidate would fit without some crews. -/
def State.wouldFit (s : State) (c : Cand) (l : List Nat) : Bool :=
  ((s.without l).placeUnit c.grid (s.unitOf c)).isSome

/-- As many victims, in order, as the candidate needs. -/
def State.enough (s : State) (c : Cand) : List Unit' → List Nat → List Unit' → Option (List Unit')
  | [], _, _ => none
  | u :: us, out, chosen =>
    let out := out ++ s.crewsOf u
    if s.wouldFit c out then some (chosen ++ [u]) else s.enough c us out (chosen ++ [u])

/-- The device once the victims already chosen have gone and the clusters they were chosen for, of those that come
before a candidate or of all where it has no claim itself, stand in their room. -/
def State.promised (s : State) (p : Nat) (c : Cand) : State :=
  let l := s.waitingAll p
  let l := if c.claim then l.takeWhile fun x => !(x.grid == c.grid && x.idx == c.idx) else l
  (l.filter fun x => x.claim && !(x.grid == c.grid && x.idx == c.idx)).foldl
    (fun t x => (t.placeUnit x.grid (t.unitOf x)).getD t) (s.without (s.going p))

/-- The victims a candidate needs: none where it fits in the room that those already chosen leave it, or where no
choice makes it fit. -/
def State.victimsFor (s : State) (p : Nat) (c : Cand) : Option (List Unit') :=
  let t := s.promised p c
  if t.wouldFit c [] then none
  else
    let l := ((s.residents p).filter fun u => s.victim p c.eff u && s.again p u).foldl (fun acc u => s.victimInsert u acc) []
    t.enough c l [] []

/-! ### Saves begin -/

/-- Change the clusters of a unit. -/
def State.modUnit (s : State) (u : Unit') (f : ClusterSt → ClusterSt) : State :=
  s.modGrid u.1 fun g => { g with clusters := g.clusters.map fun c => if u.2.contains c.idx then f c else c }

/-- The pool's pages in use: first page and count. -/
def State.poolUsed (s : State) (p : Nat) : List (Nat × Nat) :=
  (s.saved.filterMap fun v => if v.part = p then some (v.frame, v.pages) else none) ++
  s.grids.flatMap fun g => if s.ctxPart g.2.ctx = p then g.2.clusters.flatMap fun c => c.frames else []

/-- The lowest run of n free pages in a pool. -/
def findPages (base size n : Nat) (used : List (Nat × Nat)) : Option Nat :=
  let free := fun (i : Nat) =>
    let a := base + 4096 * i
    !used.any fun u => decide (u.1 < a + 4096 * n) && decide (a < u.1 + 4096 * u.2)
  let starts := 0 :: used.map fun u => (u.1 + 4096 * u.2 - base) / 4096
  let ok := starts.filter fun i => decide (4096 * (i + n) ≤ size) && free i
  match ok with
  | [] => none
  | i :: is => some (base + 4096 * is.foldl Nat.min i)

/-- Pages a crew's frame needs. -/
def State.crewPages (s : State) (n : Nat) : Nat :=
  framePages (frameSize (s.crew n) (s.coreSt (s.crew n).core) ((s.teamsOfCrew n).map fun t => t.2))

/-- Reserve frames for crews, in order. -/
def reserve (base size : Nat) : List Nat → List (Nat × Nat) → Option (List (Nat × Nat))
  | [], _ => some []
  | n :: ns, used =>
    match findPages base size n used with
    | none => none
    | some a => (reserve base size ns ((a, n) :: used)).map fun l => (a, n) :: l

/-- The issue gate of a unit's crews (R437). -/
def State.gate (s : State) (u : Unit') (b : Bool) : State :=
  (s.crewsOf u).foldl (fun s n => s.modCrew n fun c => { c with gated := b }) s

/-- A watchdog stops counting while its kernel is not resident or its context is frozen (R461). -/
def State.pauseWatch (s : State) (f : Nat → Bool) : State :=
  { s with engines := s.engines.map fun e =>
      match e.kind with
      | .smpl c =>
        let phases := c.phases.map fun ph => match ph with
          | .calling run h budget used start =>
            if f h then .calling run h budget (s.callCount h used start) none else ph
          | _ => ph
        { e with kind := .smpl { c with phases := phases } }
      | _ => e }

/-- A watchdog counts from now. -/
def State.startWatch (s : State) (f : Nat → Bool) : State :=
  { s with engines := s.engines.map fun e =>
      match e.kind with
      | .smpl c =>
        let phases := c.phases.map fun ph => match ph with
          | .calling run h budget used none =>
            if f h then
              let d := ((s.grid h).clusters.head?.map fun c => c.die).getD false
              .calling run h budget used (some (s.die d).scc)
            else ph
          | _ => ph
        { e with kind := .smpl { c with phases := phases } }
      | _ => e }

/-- A save begins, or finds no room: SAVEFULL and an event, and the unit stays resident (R437). -/
def State.beginSave (s : State) (u : Unit') : State :=
  let p := s.partOf u.1
  let c := s.sched p
  let crews := s.crewsOf u
  match reserve c.savebase c.savesize (crews.map s.crewPages) (s.poolUsed p) with
  | none =>
    let die := ((s.clustersOf u).head?.map fun x => x.die).getD false
    ((s.raise p 2).modUnit u fun x => { x with phase := .resident, stuck := some (s.situation p) }).logEvent
      (dispSrc die.toNat) 11 2 (some (s.grid u.1).ctx) (leBytes 8 p ++ leBytes 1 1)
  | some fr =>
    let at' := crews.zip fr
    let s := s.gate u true
    s.modUnit u fun x =>
      { x with phase := .saving, saveStart := s.tsc,
               frames := at'.filterMap fun y => if x.crews.contains y.1 then some y.2 else none }

/-- Pre-empt a unit. -/
def State.preempt (s : State) (u : Unit') : State :=
  let a := s.action u
  let s := (s.crewsOf u).foldl (fun s n => s.touchExpect n) s
  match a with
  | .drain => s.modUnit u fun x => { x with phase := .draining, saveStart := s.tsc }
  | .save => s.beginSave u
  | .flush => (s.gate u true).modUnit u fun x => { x with phase := .flushing, saveStart := s.tsc }

/-- Mark the clusters a pre-emption is made for. -/
def State.claimFor (s : State) (c : Cand) : State :=
  let g := s.grid c.grid
  let blank := fun (i : Nat) => ({
    idx := i, phase := .waiting, die := false, hw := 0, since := g.since, placedAt := 0, restoredAt := none,
    guarded := false, drained := false, saveStart := 0, saveTime := 0, saveOrder := 0, restoreStart := 0,
    crews := [], frames := [], claim := true, gone := [], stuck := none } : ClusterSt)
  let new := (s.unitOf c).filter fun i => !g.clusters.any fun x => x.idx == i
  s.modGrid c.grid fun g =>
    { g with clusters := (g.clusters.map fun x => if (s.unitOf c).contains x.idx then { x with claim := true } else x) ++
        new.map blank }

/-! ### The dispatcher's turn -/

/-- Partitions in order. -/
def parts : List Nat := [0, 1, 2, 3, 4, 5]

/-- The first waiting cluster of a partition that fits is placed. -/
def State.placeIn (s : State) (die : Bool) (p : Nat) : Option State := (s.waitingOf die p).findSome? fun c => s.tryPlace die c

/-- The first waiting cluster of a partition that some victims would make room for. -/
def State.preemptIn (s : State) (die : Bool) (p : Nat) : Option (Cand × List Unit') :=
  (s.waitingOf die p).findSome? fun c => (s.victimsFor p c).map fun l => (c, l)

/-- One partition's turn: place, or else pre-empt. -/
def State.dispatchIn (s : State) (die : Bool) (p : Nat) : State :=
  let s := s.noteSlices p
  match s.placeIn die p with
  | some t => t
  | none =>
    match s.preemptIn die p with
    | some (c, l) => l.foldl (fun s u => s.preempt u) (s.claimFor c)
    | none => s

/-- Something waits that a die's dispatcher can place, or for which it can pre-empt. -/
def State.dispatchDue (s : State) (die : Bool) : Bool :=
  parts.any fun p => (s.placeIn die p).isSome || (s.preemptIn die p).isSome

/-- CLUSTER_PLACEMENT: the turn of a die's dispatcher. -/
def execClusterPlacement (die : Bool) (s : State) : Res := .next (parts.foldl (fun s p => s.dispatchIn die p) s)

/-- A new decision: a cluster that a save found no room for may be chosen again (R437). -/
def State.forgive (s : State) (p : Nat) : State :=
  { s with grids := s.grids.map fun (g : Nat × Grid) =>
      if s.ctxPart g.2.ctx = p then
        (g.1, { g.2 with clusters := g.2.clusters.map fun c => { c with stuck := none } })
      else g }

/-- The dispatcher of a cluster's die looks at its partition again. -/
def State.look (s : State) (grid cluster : Nat) : State :=
  let die := (((s.grid grid).clusters.find? fun c => c.idx == cluster).map fun c => c.die).getD false
  (s.forgive (s.partOf grid)).dispatchIn die (s.partOf grid)

/-- When a resident cluster's effective slice ends (R433, R434). -/
def State.sliceAt (s : State) (grid cluster : Nat) : Option Nat :=
  let g := s.grid grid
  (g.clusters.find? fun c => c.idx == cluster && c.phase == .resident).bind fun c =>
    if (s.schedOf g).slice = 0 ∨ (s.ctx g.ctx).frozen ∨ (c.guarded && c.restoredAt.isNone) then none
    else some (c.placedAt + s.effSlice g * us)

/-- When the next AGE interval of a waiting cluster ends (R424). -/
def State.agingAt (s : State) (grid cluster : Nat) : Option Nat :=
  let g := s.grid grid
  let age := (s.schedOf g).age * us
  if age = 0 ∨ (s.ctx g.ctx).frozen ∨ g.phase ≠ .runnable then none
  else
    let since := ((g.clusters.find? fun c => c.idx == cluster).map fun c => c.since).getD g.since
    some (since + ((s.tsc - since) / age + 1) * age)

/-- When 4 × Tc have passed since a restored cluster's first issue (R433). -/
def State.guardAt (s : State) (grid cluster : Nat) : Option Nat :=
  let g := s.grid grid
  ((g.clusters.find? fun c => c.idx == cluster && c.phase == .resident).bind fun c => c.restoredAt).bind fun t =>
    if (s.ctx g.ctx).frozen then none else some (t + 4 * (s.ctx g.ctx).tc * us)

/-- At a tick the dispatcher looks again; without one nothing happens. -/
def State.lookAt (s : State) (grid cluster : Nat) (t : Option Nat) : State :=
  match t with
  | none => s
  | some t => (s.passTo t).look grid cluster

/-- TIME_SLICE_EXPIRY: a resident cluster's effective slice has passed (R433, R434). -/
def execTimeSliceExpiry (grid cluster : Nat) (s : State) : Res :=
  .next (s.lookAt grid cluster (s.sliceAt grid cluster))

/-- PRIORITY_AGING: an AGE interval of a waiting cluster passes (R424). -/
def execPriorityAging (grid cluster : Nat) (s : State) : Res :=
  .next (s.lookAt grid cluster (s.agingAt grid cluster))

/-- RESTORATION_GUARD_EXPIRY: 4 × Tc have passed since a restored cluster's first issue (R433). -/
def execRestorationGuardExpiry (grid cluster : Nat) (s : State) : Res :=
  .next (s.lookAt grid cluster (s.guardAt grid cluster))

/-- The unit a cluster belongs to. -/
def State.unitAt (s : State) (grid cluster : Nat) (ph : ClusterPhase) : Unit' :=
  let g := s.grid grid
  if g.record.res then (grid, (g.clusters.filter fun c => c.phase == ph).map fun c => c.idx) else (grid, [cluster])

/-- DRAIN_EXPIRY: a drained cluster has not retired within one effective slice, and is saved (R436). -/
def execDrainExpiry (grid cluster : Nat) (s : State) : Res :=
  let g := s.grid grid
  match g.clusters.find? fun c => c.idx == cluster && c.phase == .draining with
  | none => .next s
  | some c =>
    if (s.ctx g.ctx).frozen then .next s
    else
      let s := s.passTo (c.saveStart + s.effSlice g * us)
      let u := s.unitAt grid cluster .draining
      .next ((s.modUnit u fun x => { x with drained := true }).beginSave u)

/-! ### The end of a save or flush (R437, R438) -/

/-- A crew's array is executing an instruction: a drain has seen part of the multiply at the head of its queue (R302,
R303). -/
def State.arrayRuns (s : State) (n : Nat) : Bool :=
  (s.crew n).matrix &&
    match (s.coreSt (s.crew n).core).queue.head?.map fun (e : ArrayEntry) => e.op with
    | some (ArrayOp.mul c) => !c.added.isEmpty
    | some (ArrayOp.coop c _) => !c.added.isEmpty
    | _ => false

/-- Nothing of a crew is in progress: steps 2 and 3 of R437. -/
def State.crewQuiet (s : State) (n : Nat) : Bool :=
  let mine := fun (r : PathRef) => (s.team r.tok).crew == n
  !(s.pend.any fun x => mine x.r) && !(s.flight.any fun x => mine x.r) && !(s.reqs.any fun x => mine x.r) &&
  !(s.late.any fun x => mine x.r) && !(s.engines.any fun e => e.crew == n) && !s.arrayRuns n &&
  !(s.semReqs.any fun q => match q.who with | some r => mine r | none => false)

/-- An abandoned wait is taken up again after the restoration; arrivals already made keep theirs, and a
stop and the end of a division stay. -/
def Path.abandon (p : Path) : Path :=
  match p.wait with
  | .bar .. | .step .. | .join | .stopped | .mcoop => p
  | _ => { p with wait := .none }

/-- Write a crew's frame, keep its state, and free its core (R437, step 4). -/
def State.saveCrew (s : State) (n frame pages : Nat) : State :=
  let c := s.crew n
  let teams := (s.teamsOfCrew n).map fun t => (t.1, { t.2 with path0 := t.2.path0.abandon, path1 := t.2.path1.abandon })
  let bytes := frameBytes (s.frameIn n s.tsc) true
  let v : SavedCrew :=
    { num := n, frame := frame, part := s.partOf c.grid, pages := pages, crew := c, teams := teams,
      array := if c.matrix then some (s.coreSt c.core) else none, crc := crc32c (bytes.drop 12) }
  let s := (s.homeWrite frame bytes).freeArray c
  let s := { s with saved := s.saved ++ [v], teams := s.teams.filter fun t => t.2.crew != n }
  (s.setCrew n Crew.none).refreeze c.core

/-- The L1s of a unit's cores and the remote-data caches give up their dirty bytes: every store is
performed at its home. -/
def State.flushCaches (s : State) (l : List Nat) : State :=
  let cores := l.map fun n => (s.crew n).core
  let s := cores.foldl (fun s c => s.flushHome c fun _ => true) s
  (s.writeBack 576 fun _ => true).writeBack 577 fun _ => true

/-- CLUSTER_SAVE_COMPLETION. The scratchpads of crews that have retired stay with their cluster (R60). -/
def execClusterSaveCompletion (grid cluster : Nat) (s : State) : Res :=
  let u : Unit' := (grid, [cluster])
  match (s.grid grid).clusters.find? fun c => c.idx == cluster && c.phase == .saving with
  | none => .next s
  | some c =>
    let crews := s.crewsOf u
    if !(crews.all s.crewQuiet) || (s.ctx (s.grid grid).ctx).frozen || s.allHeld then .next s
    else
      let s := (s.flushCaches crews).pauseWatch fun h => h == grid
      let s := (crews.zip c.frames).foldl (fun s x => s.saveCrew x.1 x.2.1 x.2.2) s
      .next (({ s with nextSer := s.nextSer + 1 } : State).modUnit u fun x =>
        { x with phase := .saved, since := s.tsc, saveOrder := s.nextSer, saveTime := s.tsc - c.saveStart,
                 frames := [] })

/-- CLUSTER_FLUSH_COMPLETION: the state is discarded, and the crews wait again as if never placed. The scratchpads of crews
that have retired stay with their cluster (R60). -/
def execClusterFlushCompletion (grid cluster : Nat) (s : State) : Res :=
  let u : Unit' := (grid, [cluster])
  match (s.grid grid).clusters.find? fun c => c.idx == cluster && c.phase == .flushing with
  | none => .next s
  | some c =>
    let crews := s.crewsOf u
    if !(crews.all s.crewQuiet) || (s.ctx (s.grid grid).ctx).frozen || s.allHeld then .next s
    else
      let live := crews.map fun n => (s.crew n).cidx
      let gone := ((s.grid grid).waiters cluster).filter fun i => !live.contains i
      let s := s.flushCaches crews
      let toks := (s.teams.filter fun t => crews.contains t.2.crew).map fun t => t.1
      let s := crews.foldl (fun s n => s.freeArray (s.crew n)) s
      let ctx := (s.grid grid).ctx
      let s := toks.foldl (fun s t => s.freeSems t ctx) s
      let s := { s with teams := s.teams.filter fun t => !crews.contains t.2.crew }
      let s := crews.foldl (fun s n =>
        let core := (s.crew n).core
        (s.setCrew n Crew.none).refreeze core) s
      .next (s.modUnit u fun x =>
        { x with phase := .waiting, since := s.tsc, crews := x.crews.filter fun n => !crews.contains n, gone := x.gone ++ gone, restoredAt := none,
                 guarded := false, drained := false, stuck := none })

/-! ### Restoration (R439, R440) -/

/-- An armed monitor makes the next `mwait` return reason 3 (R313). -/
def Path.rearm (p : Path) : Path := { p with monitor := p.monitor.map fun m => { m with landed := false, restored := true } }

/-- The cores of a saved cluster's crews, old and new. -/
def moveCore (mv : List (Nat × Nat)) (c : Nat) : Nat := ((mv.find? fun x => x.1 == c).map fun x => x.2).getD c

/-- A queued array operation on its new cores. -/
def ArrayOp.move (mv : List (Nat × Nat)) : ArrayOp → ArrayOp
  | .mul m => .mul { m with coreA := moveCore mv m.coreA, coreB := moveCore mv m.coreB }
  | .coop m cores => .coop { m with coreA := moveCore mv m.coreA, coreB := moveCore mv m.coreB } (cores.map (moveCore mv))
  | op => op

/-- Load the array of a restored crew; its queue stands ahead of new work (R303). -/
def State.loadArray (s : State) (core : Nat) (mv : List (Nat × Nat)) (a : CoreSt) : State :=
  s.modCore core fun c =>
    { a with macros := c.macros, lastV := c.lastV, lastU := c.lastU,
             queue := a.queue.map fun q => { q with op := q.op.move mv, old := q.old.map fun x => (moveCore mv x.1, x.2) } }

/-- The frame in memory passes its CRC. -/
def State.frameOk (s : State) (v : SavedCrew) : Bool :=
  let total := s.memNat (v.frame + 4) 4
  decide (12 ≤ total) && decide (total ≤ 4096 * v.pages) &&
  (crc32c (s.memBytes (v.frame + 12) (total - 12))).toNat == s.memNat (v.frame + 8) 4

/-- Load one crew: its state is read from its frame; one whose frame does not match its CRC is killed. -/
def State.loadCrew (s : State) (mv : List (Nat × Nat)) (v : SavedCrew) : State :=
  let core := (s.crew v.num).core
  let ok := s.frameOk v
  let v := if ok then v.fromFrame (s.memBytes v.frame (4096 * v.pages)) else v
  let s := s.modCrew v.num fun c =>
    { c with scratch := v.crew.scratch, full := v.crew.full, tags := v.crew.tags, issues := v.crew.issues,
             origin := v.crew.origin }
  let s := v.teams.foldl (fun s t =>
    s.setTeam t.1 { t.2 with path0 := t.2.path0.rearm, path1 := t.2.path1.rearm }) s
  let s := match v.array with
    | some a => s.loadArray core mv a
    | none => s
  let s := s.modCrew v.num fun c => { c with gated := false }
  let s := { s with saved := s.saved.filter fun x => x.num != v.num }
  let kill := fun (s : State) (t : Nat × Team) => if !ok || t.2.killed then s.killTeam t.1 else s
  let s := (v.teams.filter fun t => t.2.live).foldl kill s
  let s := if ok then s else
    s.logEvent (dispSrc (dieOfCore core)) 11 2 (some (s.grid v.crew.grid).ctx) (leBytes 8 v.frame ++ leBytes 1 0)
  s.refreeze core

/-- CLUSTER_RESTORATION: the frames are read and freed, and the issue gate opens. -/
def execClusterRestoration (grid cluster : Nat) (s : State) : Res :=
  let fr := s.framesOf grid cluster
  let here := (s.grid grid).clusters.any fun c => c.idx == cluster && c.phase == .resident
  if fr.isEmpty || !here || (s.ctx (s.grid grid).ctx).frozen then .next s
  else
    let mv := fr.map fun v => (v.crew.core, (s.crew v.num).core)
    let s := fr.foldl (fun s v => s.loadCrew mv v) s
    let s := s.startWatch fun h => h == grid && fr.any fun v => (s.crew v.num).issues != 0
    .next (s.barSweep grid)

/-! ### The first issue after a placement or restoration (R433, R434, R380) -/

/-- A crew of a cluster issues: a restored cluster's Tc is measured at its first issue. -/
def State.firstIssue (s : State) (r : PathRef) : State :=
  let c := s.crewOf r
  let g := s.grid c.grid
  match g.clusters.find? fun x => x.idx == c.cluster with
  | none => s
  | some x =>
    if x.guarded && x.restoredAt.isNone then
      let tc := (x.saveTime + (s.tsc - x.restoreStart) + us - 1) / us
      let s := s.modCtx g.ctx fun y => { y with tc := tc }
      (s.modUnit (c.grid, [c.cluster]) fun y => { y with restoredAt := some s.tsc, placedAt := s.tsc }).noteSlice g
    else s

end Sys2Proof.Machine
end

