-- ==== Sys2Proof/Machine/Aging.lean ====
section
/-! DEFINITION. Which paths are ready (R47), and the counters that age a ready path that does not issue
(R432). -/

namespace Sys2Proof.Machine

/-- A path may issue: it is resident and what it waited for has come about (R47). A remote instruction of several runs
goes on behind the closed gate of a save, which waits for it (R437). -/
def State.isReady (s : State) (r : PathRef) : Bool :=
  let t := s.team r.tok
  let p := t.path r.path
  let c := s.crew t.crew
  t.live && p.live && c.live && (!c.gated || s.reqs.any fun q => q.r == r && q.ended) && !c.frozen && !s.stopped (decide (dieOfCore c.core = 1)) &&
  (match p.wait with
   | .none => true
   | .flags m => p.flags &&& m == 0
   | .late => !(s.late.any fun l => l.r.tok == r.tok) && !s.pend.any fun q => q.r.tok == r.tok && s.bindHeld q
   | .release => s.releaseGate r .device != .wait
   | .room => true
   | .fullEmpty ws => ws.any fun w => (s.crew w.1).isFull w.2.1 == w.2.2
   | .spawn => s.cartRoom
   | .tags m all =>
     if all then (clearTags (s.tagBusy t.crew) m).length == ((List.range 64).filter fun i => m.getLsbD i).length
     else !(clearTags (s.tagBusy t.crew) m).isEmpty
   | .ats port page => !s.atsOut.contains (port, s.ctxOf r, page) && !s.pageAsked r port (s.ctxOf r) page
   | .boundary => !s.arrived
   | .join | .bar .. | .mwait .. | .wfi .. | .grwait .. | .step .. | .remote _ | .sem .. | .mcoop
   | .frz | .stopped => false)

/-- The path waits for room: it is taken up again to see. -/
def Path.polls (p : Path) : Bool := p.wait == .room

/-- The path waits where its instruction has not issued yet. -/
def Path.waitsAtIssue (p : Path) : Bool :=
  p.live && (match p.wait with
    | .flags _ | .late | .ats .. | .release | .room | .tags .. | .boundary | .fullEmpty _ | .spawn => true
    | _ => false)

/-- The die of a team. -/
def State.dieOf (s : State) (t : Team) : Bool := decide (dieOfCore (s.crew t.crew).core = 1)

/-- Cycles that a die has run between two states. -/
def Die.ran (a b : Die) : Nat := (b.cyc + 2 ^ 64 - a.cyc % 2 ^ 64) % 2 ^ 64

/-- A path's counter after some cycles in which it was ready and did not issue. -/
def Path.ageBy (p : Path) (ready : Bool) (n : Nat) : Path := if ready then { p with age := p.age + n } else p

/-- The tick at which the counter of a path that stays ready reaches 1,024. -/
def State.agedAt (s : State) (r : PathRef) : Nat :=
  let f := (s.die (s.dieOf (s.team r.tok))).f
  s.tsc + (10 * (1024 - (s.path r).age) + f - 1) / f

/-- PATH_AGED: time passes until the counter of a ready path reaches 1,024. -/
def execPathAged (r : PathRef) (s : State) : Res := if s.isReady r then .next (s.passTo (s.agedAt r)) else .next s

/-! ### The choice of a sequencer, and an issue (R47, R432) -/

/-- The sequencer a path issues through: core × 2, plus 1 for the uniform sequencer (R47). -/
def State.seqOf (s : State) (r : PathRef) : Nat := s.coreOf r * 2 + (s.team r.tok).uniform.toNat

/-- The place of a path in its sequencer's order: crew slot, TEAM, PATH (R432). -/
def State.slotKey (s : State) (r : PathRef) : Nat :=
  (s.crewOf r).slot * 64 + (s.team r.tok).num * 2 + r.path.toNat

/-- Priority of a path's grid (R29). -/
def State.prioOf (s : State) (r : PathRef) : Nat := (s.gridOf r).record.prio

/-- The path with the least key, if any. -/
def leastBy (key : PathRef → Nat) : List PathRef → Option PathRef
  | [] => none
  | r :: rs =>
    match leastBy key rs with
    | none => some r
    | some q => if key r ≤ key q then some r else some q

/-- The choice of one sequencer among its ready paths (R47, R432): aged paths first, the most aged
before the others, then the highest priority, in round-robin order after the last issue. -/
def State.choose (s : State) (seq : Nat) (l : List PathRef) : Option PathRef :=
  let core := s.coreSt (seq / 2)
  let last := match (if seq % 2 = 1 then core.lastU else core.lastV) with
    | some q => q + 1
    | none => 0
  let rr := fun r => (s.slotKey r + 1024 - last % 1024) % 1024
  let aged := l.filter fun r => decide (1024 ≤ (s.path r).age)
  if aged.isEmpty then leastBy (fun r => (8 - s.prioOf r) * 1024 + rr r) l
  else leastBy (fun r => (2 ^ 20 - (s.path r).age) * 1024 + rr r) aged

/-- An adjust kernel's watchdog counts from its first issue (R380). -/
def State.watchFirst (s : State) (r : PathRef) : State :=
  match (s.gridOf r).source with
  | .adjust .. => let g := (s.crewOf r).grid; s.startWatch fun h => h == g
  | _ => s

/-- Record an issue: the path's counter and the round robin of its sequencer (R432), the crew's count of
instructions (R435; the runs of a remote instruction are one), and what a first issue starts (R434, R380). -/
def State.noteIssue (s : State) (r : PathRef) : State :=
  let s := ((s.firstIssue r).watchFirst r).modPath r fun p => { p with age := 0, woke := none }
  let s := if s.reqs.any fun q => q.r == r && q.ended then s
    else s.modCrew (s.crewNo r) fun c => { c with issues := c.issues + 1 }
  s.modCore (s.coreOf r) fun c =>
    if (s.team r.tok).uniform then { c with lastU := some (s.slotKey r) } else { c with lastV := some (s.slotKey r) }

/-! ### Full/empty words (R259) -/

/-- FULL_EMPTY_WAKE: a path that waits at a full/empty instruction finds its words as it needs them. Its sequencer takes
it up, and the lanes whose state now holds are performed (R259, R261). -/
def execFullEmptyWake (r : PathRef) (s : State) : Res :=
  let mine := s.allPaths.filter fun q => s.isReady q && !(s.path q).polls && s.seqOf q == s.seqOf r
  if (s.path r).wait.isFull && s.isReady r && s.choose (s.seqOf r) mine == some r then
    match s.takeUp r with
    | .over s => .next s
    | .run i s =>
      match i with
      | .ldsf d a m => execLdsf d a m (s.noteIssue r)
      | .ldse d a m => execLdse d a m (s.noteIssue r)
      | .stsf d a m => execStsf d a m (s.noteIssue r)
      | _ => .next s
  else .next s

end Sys2Proof.Machine
end

