-- ==== Sys2Proof/Machine/Clocks.lean ====
section
/-! DEFINITION. Frequency steps, the step log and power limits (R487 to R490, R494), and the slewing of the
TSC (R491). -/

namespace Sys2Proof.Machine

/-- Ticks of a relock (R488). -/
def relockTicks : Nat := 2000

/-- Start a frequency step: the clock stops at the next tick. -/
def Die.step (d : Die) (tsc f : Nat) : Die := if f = d.f then d else { d with target := f, relock := some (tsc + 1) }

/-- A write of CLKCTL (R487): refused out of range or during a relock; above FMAX it acts as FMAX and is
logged. -/
def State.clkWrite (s : State) (src : Nat) (ctx : Option Nat) (die : Bool) (f : Nat) : State :=
  let d := s.die die
  if f < 6 ∨ 20 < f ∨ s.stopped die then s.logRefused src ctx 0x3020 f
  else
    let s := if d.fmax < f then s.logRefused src ctx 0x3020 f else s
    s.setDie die (d.step s.tsc (Nat.min f d.fmax))

/-- Write a step-log record (R490, Table 3). -/
def State.logStep (s : State) (die : Bool) (at' old new : Nat) : State :=
  let size := (s.csrGet 0x40A1 0).toNat
  if size = 0 then s
  else
    let d := s.die die
    let i := (s.csrGet 0x40A2 0).toNat
    let bs := leBytes 8 at' ++ leBytes 8 d.cyc ++ leBytes 8 (d.scc / 2 ^ 16) ++ leBytes 2 (d.scc % 2 ^ 16) ++
      leBytes 1 die.toNat ++ leBytes 1 old ++ leBytes 1 new ++ leBytes 3 0
    (s.homeWrite ((s.csrGet 0x40A0 0).toNat + 32 * (i % size)) bs).csrPut 0x40A2 0 (BitVec.ofNat 64 ((i + 1) % 2 ^ 32))

/-- The clock has resumed at its new frequency at tick r, some parts of a tick ago; the firmware's waiting write of FMAX
then starts a further step at the next tick, unless the frequency is low enough already (R487). -/
def Die.restart (d : Die) (r parts : Nat) : Die :=
  let d' := { d with f := d.target, relock := none, fwWrite := false }
  if d.fwWrite && decide (d.fmax < d.target) then
    { d'.runFor (Nat.min tickParts parts) with target := d.fmax, relock := some (r + 1) }
  else d'.runFor parts

/-- POWER_LIMIT_WRITE (R487, R494): a ceiling for a die; the firmware lowers the clock to it, at once or, while RELOCK is
set, when the relock has ended. Before its tick T a step can still be to another frequency, as by any write of CLKCTL. -/
def execPowerLimitWrite (die : Bool) (f : Nat) (s : State) : Res :=
  let s := s.logRefused 589 none 0x3021 f
  if f < 6 ∨ 20 < f then .next s
  else
    let d := { s.die die with fmax := f }
    let waits := { d with fwWrite := d.fwWrite || decide (f < d.target) }
    let d := match d.relock with
      | none => if f < d.f then d.step s.tsc f else d
      | some t => if t ≤ s.tsc ∨ f = d.f then waits else if f < d.target then { d with target := f } else d
    .next (s.setDie die d)

/-- TIME_MESSAGE (R491): rank 0's count reaches the device, which slews its TSC towards it; LOCKED tells
whether it lies within 100 ticks. Rank 0, and a device in strict-standard mode, do not slew. -/
def execTimeMessage (m : Via × Nat) (s : State) : Res :=
  .next (s.onMsg m.1 fun s =>
    if s.rank = 0 ∨ s.strict ∨ m.1.h.src ≠ 0 then some s
    else
      let d : Int := (m.2 : Int) - s.tsc
      some { s with slew := d, locked := decide (d.natAbs ≤ 100) })

end Sys2Proof.Machine
end

