-- ==== Sys2Proof/Machine/Boot.lean ====
section
/-! DEFINITION. Bring-up, recovery, power and attestation (R484 to R486, R493, R494). -/

namespace Sys2Proof.Machine

/-! ### The reset sequence (R484) -/

/-- Host memory keeps its contents through a package reset. -/
def hostPart (m : Store Byte) : Store Byte := m.filter fun x => isHostKey x.1

/-- Step 1: everything at its reset value but what lies outside the reset: the flash, the fuses, the
ceilings, host memory, and the model's own records. -/
def State.cold (s : State) : State :=
  { State.reset with
    flash := s.flash, fuseSvn := s.fuseSvn, die0 := { Die.reset with fmax := s.die0.fmax },
    die1 := { Die.reset with fmax := s.die1.fmax }, mem := hostPart s.mem, rails := s.rails, power := s.power,
    resetn := s.resetn, fresh := s.fresh, out := s.out, agenda := s.agenda }

/-- The image that the ROM reads from the flash: the maker's until a recovery has written another; none where no flash
answers (R494). -/
def State.flashImage (s : State) : List Byte :=
  if !Config.flashAnswers s.fresh then []
  else
    match s.flash with
    | none => Config.makerImage
    | some (n, m) => Store.getList 0 m 0 n

/-- Steps 2 and 3: the signature verifies and the security version is not below the fused minimum. -/
def State.imageOk (s : State) (img : List Byte) : Bool :=
  !img.isEmpty && Config.imageSigned img && decide (s.fuseSvn ≤ Config.imageSvn img)

/-- The measurements of Table 2 of R486. -/
def State.measure (s : State) (img : List Byte) : List (List Byte) :=
  [Config.sha384 Config.romBytes, Config.sha384 img, leBytes 4 (Config.imageSvn img) ++ leBytes 4 s.fuseSvn,
   Config.sha384 Config.fuseBytes]

/-- Step 5: once the firmware's steps of both clocks have ended the device runs. The running firmware may raise the fused
minimum to its own image's version (R485). -/
def State.bootDone (s : State) : State :=
  if s.boot ≠ 1 || s.die0.relock.isSome || s.die1.relock.isSome then s
  else
    let s := s.pass (Config.bootFast s.fresh)
    { s with boot := 2, fuseSvn := if Config.raisesFuse s.fresh then s.runSvn else s.fuseSvn, fresh := s.fresh + 1 }

/-- Steps 1 to 4, or recovery (R485): the measurements are recorded, the links are trained, and the firmware writes CLKCTL
of both dies to 18, each write a step with its relock (R488), which ends in step 5. BOOTSTAT reads 1 until then. -/
def State.boot' (s : State) : State :=
  let s := s.cold
  let img := s.flashImage
  let s := s.pass (Config.bootSlow s.fresh)
  if s.imageOk img then
    let s := { s with meas := s.measure img, runSvn := Config.imageSvn img, boot := 1, hostUp0 := true, hostUp1 := true,
                      fresh := s.fresh + 1 }
    ((s.setDie false (s.die0.step s.tsc (Nat.min 18 s.die0.fmax))).setDie true
      (s.die1.step s.tsc (Nat.min 18 s.die1.fmax))).bootDone
  else { s with boot := 3, hostUp0 := true, hostUp1 := true, fresh := s.fresh + 1 }

/-- The sequence runs where the power is good and RESETN is high. -/
def State.bootIf (s : State) : State := if s.power && s.resetn && s.rails.all id then s.boot' else s.cold

/-- RELOCK_END (R488): at T + 2,000 the clock resumes and the record is written. The firmware's steps at bring-up end
in step 5 (R484). -/
def execRelockEnd (die : Bool) (s : State) : Res :=
  match (s.die die).relock with
  | none => .next s
  | some t =>
    let r := t + relockTicks
    let s := s.passTo r
    let d := s.die die
    .next ((s.logStep die r d.f d.target).setDie die (d.restart r (s.moment - r * tickParts))).payOwed.bootDone

/-- PWRGD_RISE. -/
def execPwrgdRise (s : State) : Res := .next ({ s with power := true } : State).bootIf

/-- RESETN_LOW: the package is held in reset. -/
def execResetnLow (s : State) : Res := .next ({ s with resetn := false } : State).bootIf

/-- RESETN_RELEASE. -/
def execResetnRelease (s : State) : Res := .next ({ s with resetn := true } : State).bootIf

/-! ### Recovery (R485) -/

/-- Bytes of a staging area, and the most of a firmware image (R485, R494). -/
def stagingSize : Nat := 64 * 2 ^ 20

def State.staged (s : State) (port : Bool) : Store Byte := if port then s.staged1 else s.staged0

/-- The image of a staging area: up to its last byte that is not zero. -/
def stagedImage (m : Store Byte) : List Byte :=
  Store.getList 0 m 0 ((m.map fun x => x.1 + 1).foldl Nat.max 0)

/-- RECCTL.GO from a port: outside recovery it does nothing. An image that passes is written to the flash, where one
answers, and the package resets. -/
def State.recover (s : State) (port : Bool) : State :=
  if s.boot ≠ 3 then s
  else
    let m := s.staged port
    let img := stagedImage m
    if s.imageOk img then
      ({ s with flash := if Config.flashAnswers s.fresh then some (img.length, m) else s.flash } : State).bootIf
    else s.logRefused (586 + port.toNat) none 0x40A9 1

/-- GO. -/
def execGo (port : Bool) (s : State) : Res := .next (s.recover port)

/-! ### Power (R493) -/

/-- The order of the rails: HBM, photonic routing die, compute die 0, compute die 1. -/
def railOrder : List Nat := [0, 1, 2, 3]

/-- A rail fails: the management controller removes those that are up in the reverse order and logs the failure. -/
def State.railsDown (s : State) (up : List Nat) (rail : Nat) : State :=
  ({ s with rails := [false, false, false, false], power := false,
            out := s.out ++ up.reverse.map (fun r => OutMsg.rail r false) ++ [.railFailed rail] } : State).cold

/-- INPUT_POWER_APPLIED: the management controller brings the rails up in order, as many as report good, and releases the
reset only once all do. -/
def execInputPowerApplied (good : Nat) (s : State) : Res :=
  let up := railOrder.take good
  let s := { s with out := s.out ++ (railOrder.take (good + 1)).map fun r => OutMsg.rail r true }
  if 4 ≤ good then .next ({ s with rails := [true, true, true, true], power := true } : State).bootIf
  else .next (s.railsDown (up ++ [good]) good)

/-- RAIL_FAIL: all rails are removed and the failure is logged. -/
def execRailFail (rail : Nat) (s : State) : Res := .next (s.railsDown railOrder rail)

/-- RAIL_TELEMETRY_READ. -/
def execRailTelemetryRead (rail : Nat) (s : State) : Res :=
  .next { s with out := s.out ++ [OutMsg.telemetry rail (Config.telemetry rail s.fresh)] }

/-! ### Attestation (R486) -/

/-- An SPDM channel answers: 0 and 1 the host ports, others the sideband. -/
def State.spdmUp (s : State) (chan : Nat) : Bool :=
  s.power && s.resetn && (if chan = 0 then s.hostUp0 else if chan = 1 then s.hostUp1 else true)

/-- Send a response. -/
def State.spdm (s : State) (chan code : Nat) (body : List Byte) : Res :=
  .next (if s.spdmUp chan then { s with out := s.out ++ [OutMsg.spdm chan code body] } else s)

/-- An error response. -/
def State.spdmError (s : State) (chan code : Nat) : Res := s.spdm chan 0x7F (leBytes 1 code)

/-- GET_VERSION: 1.2 and 1.3. -/
def execGetVersion (chan : Nat) (s : State) : Res := s.spdm chan 0x04 (leBytes 1 2 ++ leBytes 2 0x1200 ++ leBytes 2 0x1300)
def execGetCapabilities (chan : Nat) (s : State) : Res := s.spdm chan 0x61 (Config.spdmBody 0x61 chan)
/-- NEGOTIATE_ALGORITHMS: ECDSA P-384 for signing and SHA-384 for hashing, and nothing else. -/
def execNegotiateAlgorithms (chan : Nat) (s : State) : Res := s.spdm chan 0x63 (leBytes 4 0x80 ++ leBytes 4 0x02)

/-- GET_DIGESTS: the digest of the chain in slot 0. -/
def execGetDigests (chan : Nat) (s : State) : Res := s.spdm chan 0x01 (Config.sha384 Config.certificate)

/-- GET_CERTIFICATE: a portion of the chain in slot 0, the one slot there is. -/
def execGetCertificate (chan slot off len : Nat) (s : State) : Res :=
  if slot = 0 then s.spdm chan 0x02 ((Config.certificate.drop off).take len) else s.spdmError chan 0x01

/-- CHALLENGE: a signature that covers the nonce and the measurements. -/
def execChallenge (chan slot : Nat) (nonce : BitVec 256) (s : State) : Res :=
  if slot = 0 then
    let body := Config.sha384 Config.certificate ++ leBytes 32 nonce.toNat ++ s.meas.flatten
    s.spdm chan 0x03 (body ++ Config.sign body)
  else s.spdmError chan 0x01

/-- GET_MEASUREMENTS: the number of them, one of them, or all. -/
def execGetMeasurements (chan index : Nat) (s : State) : Res :=
  if index = 0 then s.spdm chan 0x60 (leBytes 1 s.meas.length)
  else if index = 0xFF then s.spdm chan 0x60 s.meas.flatten
  else
    match s.meas[index - 1]? with
    | some m => s.spdm chan 0x60 m
    | none => s.spdmError chan 0x01

/-- UNSUPPORTED_REQUEST: the error UnsupportedRequest. -/
def execUnsupportedRequest (chan _code : Nat) (s : State) : Res := s.spdmError chan 0x07

end Sys2Proof.Machine
end

