-- ==== Sys2Proof/Machine/VFloat.lean ====
section
/-! DEFINITION. Vector floating instructions (R196 to R200). -/

namespace Sys2Proof.Machine

/-- A binary floating instruction. -/
def floatBinary (d a b : VReg) (f : FFmt → Rnd → Bool → Nat → Nat → Nat × BitVec 7) (s : State) : Res :=
  issued s fun r => s.elementwise r ElemType.isFloat d [a, b] 1 fun t l j =>
    let ty := s.ty r
    f ty.ffmt (s.rnd r) (s.sat r) (elemAt ty (t.eget ty a l) j) (elemAt ty (t.eget ty b l) j)

/-- A unary floating instruction. -/
def floatUnary (d a : VReg) (f : FFmt → Rnd → Bool → Nat → Nat × BitVec 7) (s : State) : Res :=
  issued s fun r => s.elementwise r ElemType.isFloat d [a] 1 fun t l j =>
    let ty := s.ty r
    f ty.ffmt (s.rnd r) (s.sat r) (elemAt ty (t.eget ty a l) j)

def execFadd (d a b : VReg) (s : State) : Res := floatBinary d a b FFmt.add s
def execFsub (d a b : VReg) (s : State) : Res := floatBinary d a b FFmt.sub s
def execFmul (d a b : VReg) (s : State) : Res := floatBinary d a b FFmt.mul s

/-- x × y + z, z the old destination, one rounding (R100). -/
def execFfma (d a b : VReg) (s : State) : Res :=
  issued s fun r => s.elementwise r ElemType.isFloat d [a, b] 1 fun t l j =>
    let ty := s.ty r
    let v := fun x => elemAt ty (t.eget ty x l) j
    ty.ffmt.fma (s.rnd r) (s.sat r) (v a) (v b) (v d)

def execFmin (d a b : VReg) (s : State) : Res := floatBinary d a b (fun f _ _ x y => f.minmax false x y) s
def execFmax (d a b : VReg) (s : State) : Res := floatBinary d a b (fun f _ _ x y => f.minmax true x y) s

/-- A sign operation: exact, a NaN canonical (R93, R94, R196). -/
def signOp (f : FFmt) (neg : Bool) (x : Nat) : Nat × BitVec 7 :=
  match f.unpack x with
  | .nan a => (f.nan, (FVal.nan a).nv)
  | _ =>
    let mag := x % 2 ^ (f.eb + f.fb)
    (f.signed (neg && !x.testBit (f.eb + f.fb)) mag, 0)

def execFabs (d a : VReg) (s : State) : Res := floatUnary d a (fun f _ _ x => signOp f false x) s
def execFneg (d a : VReg) (s : State) : Res := floatUnary d a (fun f _ _ x => signOp f true x) s

/-- `fcmp` (R198): f32 only. -/
def execFcmp (c : Cond) (p : PReg) (a b : VReg) (s : State) : Res :=
  issued s fun r =>
    let t := s.team r.tok
    let lanes := lanesOf t (s.active r)
    let cmp := fun l => fmtF32.compare c (t.vget a l).toNat (t.vget b l).toNat
    s.legalIf r (s.ty r == .f32 && s.vOk r [a, b]) <|
      ((s.writeLanes r p (s.active r) (maskOf lanes fun l => (cmp l).1)).addStatus r
        ((lanes.map fun l => (cmp l).2).foldl (· ||| ·) 0)).advance r 1

def execFrcp (d a : VReg) (s : State) : Res := floatUnary d a FFmt.rcp s
def execFrsq (d a : VReg) (s : State) : Res := floatUnary d a FFmt.rsq s
def execFsqrt (d a : VReg) (s : State) : Res := floatUnary d a FFmt.sqrt s

/-- `fdiv` (R188): long-latency; its results and STATUS are computed from the operands at issue and
the registers are written when its flag clears. -/
def execFdiv (d a b : VReg) (s : State) : Res :=
  issued s fun r =>
    let ty := s.ty r
    let t := s.team r.tok
    s.legalIf r (ty.isFloat && s.vOk r [d, a, b]) <|
      s.withSlot r fun f =>
        let lanes := lanesOf t (s.active r)
        if lanes.isEmpty then s.emptyPend r 1
        else
          let rs := lanes.map fun l =>
            let x := elems ty fun j =>
              ty.ffmt.div (s.rnd r) (s.sat r) (elemAt ty (t.eget ty a l) j) (elemAt ty (t.eget ty b l) j)
            (eWrites ty d l x.1, x.2)
          ((s.startPend r f (rs.flatMap (·.1))).addStatus r ((rs.map (·.2)).foldl (· ||| ·) 0)).advance r 1

def execFexp2 (d a : VReg) (s : State) : Res := floatUnary d a FFmt.exp2 s
def execFlog2 (d a : VReg) (s : State) : Res := floatUnary d a FFmt.log2 s
def execFsin (d a : VReg) (s : State) : Res := floatUnary d a (fun f => f.trigOp false) s
def execFcos (d a : VReg) (s : State) : Res := floatUnary d a (fun f => f.trigOp true) s

/-- `fclass` (R199). -/
def execFclass (d a : VReg) (s : State) : Res :=
  floatUnary d a (fun f _ _ x => (f.classOf x, 0)) s

/-- `fround` (R200). -/
def execFround (d a : VReg) (s : State) : Res := floatUnary d a (fun f r _ x => f.integral r x) s

end Sys2Proof.Machine
end

