-- ==== Sys2Proof/Machine/Convert.lean ====
section
/-! DEFINITION. Conversion instructions (R201 to R207). -/

namespace Sys2Proof

/-- The floating format of a conversion code (R201, Table 3). -/
def Fmt.ffmt : Fmt → Machine.FFmt
  | .f16 => Machine.fmtF16
  | .bf16 => Machine.fmtBf16
  | .e4m3 => Machine.fmtE4M3
  | .e5m2 => Machine.fmtE5M2
  | _ => Machine.fmtF32

/-- The integer type of a conversion code. -/
def Fmt.ifmt : Fmt → Machine.IFmt
  | .i8 => ⟨8, true⟩ | .n8 => ⟨8, false⟩ | .i16 => ⟨16, true⟩ | .n16 => ⟨16, false⟩
  | .i32 => ⟨32, true⟩ | .n32 => ⟨32, false⟩ | .i64 => ⟨64, true⟩ | _ => ⟨64, false⟩

/-- Width in bits. -/
def Fmt.width (f : Fmt) : Nat :=
  if f.isFloat then 1 + f.ffmt.eb + f.ffmt.fb else f.ifmt.w

end Sys2Proof

namespace Sys2Proof.Machine

/-- The source of a conversion: the low bits of a register, or a pair (R201). -/
def Team.cvtSrc (t : Team) (f : Fmt) (a : VReg) (l : Nat) : Nat :=
  (if f.isPair then (t.vget a l).toNat + 2 ^ 32 * (t.vget (a + 1) l).toNat else (t.vget a l).toNat) %
    2 ^ f.width

/-- Registers of an operand of a conversion format. -/
def cvtRegs (f : Fmt) (a : VReg) : List VReg := if f.isPair then [a, a + 1] else [a]

/-- A pair's upper register does not wrap past v255. -/
def cvtTop (f : Fmt) (a : VReg) : Bool := !f.isPair || evenReg a

/-- `cvtf` (R201, R107). -/
def execCvtf (d a : VReg) (dst src : Fmt) (s : State) : Res :=
  issued s fun r =>
    s.legalIf r (s.vOk r (d :: cvtRegs src a)) <|
      (s.mapLanes r fun t l =>
        let x := t.cvtSrc src a l
        let y := if src.isFloat then cvtFloat dst.ffmt src.ffmt (s.rnd r) (s.sat r) x
          else cvtFromInt dst.ffmt src.ifmt (s.rnd r) (s.sat r) x
        ([.v d.toNat l (BitVec.ofNat 32 y.1)], y.2)).advance r 1

/-- An integer result extended to its register or pair (R201). -/
def cvtPlace (f : Fmt) (x : Nat) : Nat :=
  if f.isPair then x else (IFmt.mk 32 false).wrap (f.ifmt.val x)

/-- Integer to integer (R107, Table 9): into a wider type by extension, exact; into a narrower one, or one of the same
width, wrapped or clamped. -/
def cvtInt (dst src : IFmt) (sat : Bool) (x : Nat) : Nat × BitVec 7 :=
  if src.w < dst.w then (dst.wrap (src.val x), 0) else dst.narrow sat (src.val x)

/-- `cvti` (R201, R107): from floating always clamped. -/
def execCvti (d a : VReg) (dst src : Fmt) (s : State) : Res :=
  issued s fun r =>
    s.legalIf r (s.vOk r (cvtRegs dst d ++ cvtRegs src a)) <|
      (s.mapLanes r fun t l =>
        let x := t.cvtSrc src a l
        let y := if src.isFloat then cvtToInt dst.ifmt src.ffmt (s.rnd r) x
          else cvtInt dst.ifmt src.ifmt (s.sat r) x
        let v := cvtPlace dst y.1
        let lo : RegWrite := .v d.toNat l (BitVec.ofNat 32 v)
        (if dst.isPair then [lo, .v (d.toNat + 1) l (BitVec.ofNat 32 (v / 2 ^ 32))] else [lo], y.2)).advance r 1

/-- The FP8 format of `cvtq` and `cvtd` (R203). -/
def fp8 (e5m2 : Bool) : FFmt := if e5m2 then fmtE5M2 else fmtE4M3

/-- The scale of a lane: v[b] as f32, or 1.0 (R203). -/
def Team.cvtScale (t : Team) (b : Option VReg) (l : Nat) : FVal :=
  match b with
  | Option.none => .fin false 1 0
  | some v => fmtF32.unpack (t.vget v l).toNat

/-- One rounding of an exact product into an FP8 or f32 format, with the rules of R107 and R202. -/
def scaleRound (f : FFmt) (r : Rnd) (sat : Bool) (x y : FVal) : Nat × BitVec 7 :=
  let (p, st) := mulV x y
  match p with
  | .nan _ => (f.nan, st)
  | .inf n => if f.inf then (f.infBits n, st)
      else if sat then (f.signed n f.maxFin, st ||| stNX) else (f.nan, st ||| stNV)
  | .fin n m e =>
    let (b, st') := f.round r sat n m e false
    (b, st ||| st')

/-- `cvtq` (R203). -/
def execCvtq (d a : VReg) (b : Option VReg) (e5m2 : Bool) (s : State) : Res :=
  issued s fun r =>
    s.legalIf r (s.vOk r (d :: vRun a 4 ++ b.toList)) <|
      (s.mapLanes r fun t l =>
        let rs := (List.range 4).map fun j =>
          scaleRound (fp8 e5m2) (s.rnd r) (s.sat r) (fmtF32.unpack (t.vget (a + BitVec.ofNat 8 j) l).toNat)
            (t.cvtScale b l)
        ([.v d.toNat l (BitVec.ofNat 32 (packElems 8 (rs.map (·.1))))],
          (rs.map (·.2)).foldl (· ||| ·) 0)).advance r 2

/-- `cvtd` (R203). -/
def execCvtd (d a : VReg) (b : Option VReg) (e5m2 : Bool) (s : State) : Res :=
  issued s fun r =>
    s.legalIf r (s.vOk r (vRun d 4 ++ a :: b.toList)) <|
      (s.mapLanes r fun t l =>
        let rs := (List.range 4).map fun j =>
          scaleRound fmtF32 (s.rnd r) (s.sat r)
            ((fp8 e5m2).unpack ((t.vget a l).toNat / 2 ^ (8 * j) % 256)) (t.cvtScale b l)
        ((List.range 4).map fun j => .v (d.toNat + j) l (BitVec.ofNat 32 (rs.getD j (0, 0)).1),
          (rs.map (·.2)).foldl (· ||| ·) 0)).advance r 2

/-- Pack two values by TYPE (R204); none where the TYPE is illegal. -/
def packTwo (ty : ElemType) (rnd : Rnd) (sat : Bool) (x y : Nat) : Option (Nat × BitVec 7) :=
  let two := fun (p q : Nat × BitVec 7) => some (packElems 16 [p.1, q.1], p.2 ||| q.2)
  let half := fun (x j : Nat) => ty.ifmt.narrow sat ((IFmt.mk 16 ty.signed).val (x / 2 ^ (16 * j)))
  match ty with
  | .bf16x2 | .f16x2 =>
    two (cvtFloat ty.ffmt fmtF32 rnd sat x) (cvtFloat ty.ffmt fmtF32 rnd sat y)
  | .i16x2 | .n16x2 =>
    two (ty.ifmt.narrow sat ((IFmt.mk 32 ty.signed).val x)) (ty.ifmt.narrow sat ((IFmt.mk 32 ty.signed).val y))
  | .i8x4 | .n8x4 =>
    let rs := [half x 0, half x 1, half y 0, half y 1]
    some (packElems 8 (rs.map (·.1)), (rs.map (·.2)).foldl (· ||| ·) 0)
  | _ => none

/-- TYPEs `pk` and `upk` accept. -/
def ElemType.packed : ElemType → Bool
  | .bf16x2 | .f16x2 | .i16x2 | .n16x2 | .i8x4 | .n8x4 => true
  | _ => false

/-- `pk` (R204). -/
def execPk (d a b : VReg) (s : State) : Res :=
  issued s fun r =>
    let ty := s.ty r
    s.legalIf r (ty.packed && s.vOk r [d, a, b]) <|
      (s.mapLanes r fun t l =>
        let y := (packTwo ty (s.rnd r) (s.sat r) (t.vget a l).toNat (t.vget b l).toNat).getD (0, 0)
        ([.v d.toNat l (BitVec.ofNat 32 y.1)], y.2)).advance r 1

/-- Element h of a packed register, expanded (R205). -/
def unpackHalf (ty : ElemType) (h : Nat) (x : Nat) : Nat × BitVec 7 :=
  match ty with
  | .bf16x2 | .f16x2 => cvtFloat fmtF32 ty.ffmt .rn false (x / 2 ^ (16 * h) % 2 ^ 16)
  | .i8x4 | .n8x4 =>
    let e := fun j => (IFmt.mk 16 false).wrap (ty.ifmt.val (x / 2 ^ (8 * (2 * h + j))))
    (packElems 16 [e 0, e 1], 0)
  | _ => ((IFmt.mk 32 false).wrap (ty.ifmt.val (x / 2 ^ (16 * h))), 0)

/-- `upk` (R205). -/
def execUpk (d a : VReg) (h : Bool) (s : State) : Res :=
  issued s fun r =>
    let ty := s.ty r
    s.legalIf r (ty.packed && s.vOk r [d, a]) <|
      (s.mapLanes r fun t l =>
        let y := unpackHalf ty h.toNat (t.vget a l).toNat
        ([.v d.toNat l (BitVec.ofNat 32 y.1)], y.2)).advance r 1

/-- `sp8x` (R206): exact, no STATUS. -/
def execSp8x (d a : VReg) (j : BitVec 2) (s : State) : Res :=
  issued s fun r =>
    let ty := s.ty r
    let ok := ty == .f32 || ((ty == .bf16x2 || ty == .f16x2) && decide (j.toNat < 2))
    s.legalIf r (ok && s.vOk r [d, a]) <|
      (s.mapLanes r fun t l =>
        let b := fun i => (t.vget a l).toNat / 2 ^ (8 * i) % 256
        let y := if ty == .f32 then sp8Bits fmtF32 (b j.toNat)
          else packElems 16 [sp8Bits ty.ffmt (b (2 * j.toNat)), sp8Bits ty.ffmt (b (2 * j.toNat + 1))]
        ([.v d.toNat l (BitVec.ofNat 32 y)], 0)).advance r 1

/-- An INT4 element of a group: RNbf16((q − z) × s) (R98). R98 gives a zero product no sign: that q = z gives −0 where the scale
is negative, as a product of +0 and the scale does, is the model's choice (assumption 91). -/
def int4Elem (q z scale : Nat) : Nat :=
  let k : Int := (q : Int) - z
  fmtBf16.rn (mulV (.fin (decide (k < 0)) k.natAbs 0) (fmtBf16.unpack scale)).1

/-- `i4x` (R207): bf16x2 only, always rn, no STATUS. -/
def execI4x (d a b : VReg) (h : BitVec 2) (s : State) : Res :=
  issued s fun r =>
    s.legalIf r (s.ty r == .bf16x2 && s.vOk r [d, a, b]) <|
      (s.mapLanes r fun t l =>
        let x := (t.vget a l).toNat
        let g := (t.vget b l).toNat
        let e := fun k => int4Elem (x / 2 ^ (4 * k) % 16) (g / 2 ^ 16 % 16) (g % 2 ^ 16)
        ([.v d.toNat l (BitVec.ofNat 32 (packElems 16 [e (2 * h.toNat), e (2 * h.toNat + 1)]))], 0)).advance r 2

end Sys2Proof.Machine
end

