-- ==== Sys2Proof/Machine/Lane.lean ====
section
/-! DEFINITION. Lane instructions (R208 to R210) and predicate instructions (R211, R212). -/

namespace Sys2Proof.Machine

/-- Move an element operand from a source lane, or keep the lane's own (R208). -/
def laneMove (d a : VReg) (words : Nat) (ok : State → PathRef → Bool) (src : Team → Nat → Int)
    (s : State) : Res :=
  issued s fun r =>
    let ty := s.ty r
    s.legalIf r (s.eOk r ty [d, a] && ok s r) <|
      (s.mapLanes r fun t l =>
        (eWrites ty d l (t.eget ty a (laneFrom t.width (src t l) l)), 0)).advance r words

/-- `shfl`: the index register is a single register (R185). -/
def execShfl (d a b : VReg) (s : State) : Res :=
  laneMove d a 1 (fun s r => s.vOk r [b]) (fun t l => ((t.vget b l).toNat : Int)) s

/-- `shflx`. -/
def execShflx (d a : VReg) (n : BitVec 10) (mode : ShflMode) (s : State) : Res :=
  laneMove d a 2 (fun _ _ => true) (fun _ l => shflSource mode n l) s

/-- `bcast`: 0 when the lane is not below TWIDTH; unchanged with no active lanes (R189). -/
def execBcast (d : SReg) (a : VReg) (lane : Option SReg) (s : State) : Res :=
  issued s fun r =>
    let ty := s.ty r
    let t := s.team r.tok
    s.legalIf r (s.eOk r ty [a]) <|
      match lanesOf t (s.active r) with
      | [] => s.advance r 1
      | e :: _ =>
        let m := match lane with
          | none => e
          | some b => (t.sget b).toNat
        let x := if m < t.width then t.eget ty a m else 0
        (s.sset r d (BitVec.ofNat 64 x)).advance r 1

/-- `vote`. -/
def execVote (d : SReg) (p : PReg) (op : VoteOp) (s : State) : Res :=
  issued s fun r =>
    let t := s.team r.tok
    let act := s.active r &&& t.allLanes
    let hit := act &&& t.pget p
    let v : DWord := match op with
      | .any => if hit != 0 then 1 else 0
      | .all => if hit == act then 1 else 0
      | .ballot k => hit.extractLsb' (64 * k.toNat) 64
    if act = 0 then s.advance r 1 else (s.sset r d v).advance r 1

/-- `mcnt`. -/
def execMcnt (d : SReg) (p : PReg) (s : State) : Res :=
  issued s fun r =>
    let t := s.team r.tok
    let act := s.active r &&& t.allLanes
    if act = 0 then s.advance r 1
    else (s.sset r d (BitVec.ofNat 64 (lanesOf t (act &&& t.pget p)).length)).advance r 1

/-- One step of a fold on elements, with its STATUS bits (R209). -/
def foldStep (op : FoldOp) (ty : ElemType) (rnd : Rnd) (sat : Bool) (x y : Nat) : Nat × BitVec 7 :=
  let i := fun (f : Int → Int → Int) => ty.ifmt.narrow sat (f (ty.ifmt.val x) (ty.ifmt.val y))
  match op with
  | .add => if ty.isFloat then ty.ffmt.add rnd sat x y else i (· + ·)
  | .min => if ty.isFloat then ty.ffmt.minmax false x y else i fun a b => if a ≤ b then a else b
  | .max => if ty.isFloat then ty.ffmt.minmax true x y else i fun a b => if a ≤ b then b else a
  | .and => (x &&& y, 0)
  | .or => (x ||| y, 0)
  | .xor => (x ^^^ y, 0)

/-- The running folds of element j over the active lanes, in ascending lane order, each with the
STATUS bits so far (R115). -/
def foldLanes (f : Nat → Nat → Nat × BitVec 7) : List Nat → List (Nat × BitVec 7)
  | [] => []
  | x :: xs => go x 0 xs
where
  go (acc : Nat) (st : BitVec 7) : List Nat → List (Nat × BitVec 7)
    | [] => [(acc, st)]
    | y :: ys => (acc, st) :: (let (a, b) := f acc y; go a (st ||| b) ys)

/-- Whether a fold is legal under a TYPE. -/
def foldOk (op : FoldOp) (ty : ElemType) : Bool :=
  ty.isInt || (match op with | .add | .min | .max => true | _ => false)

/-- The folds of whole operands, lane by lane of the active lanes. -/
def State.folds (s : State) (r : PathRef) (op : FoldOp) (a : VReg) : List (Nat × BitVec 7) :=
  let ty := s.ty r
  let t := s.team r.tok
  let lanes := lanesOf t (s.active r)
  let cols := (List.range ty.count).map fun j =>
    foldLanes (foldStep op ty (s.rnd r) (s.sat r)) (lanes.map fun l => elemAt ty (t.eget ty a l) j)
  (List.range lanes.length).map fun i =>
    let es := cols.map fun c => c.getD i (0, 0)
    (packElems ty.width (es.map (·.1)), (es.map (·.2)).foldl (· ||| ·) 0)

/-- `scan` (R209). -/
def execScan (op : FoldOp) (d a : VReg) (s : State) : Res :=
  issued s fun r =>
    let ty := s.ty r
    let fs := s.folds r op a
    let lanes := lanesOf (s.team r.tok) (s.active r)
    s.legalIf r (foldOk op ty && s.eOk r ty [d, a]) <|
      ((s.regWrites r.tok ((lanes.zip fs).flatMap fun x => eWrites ty d x.1 x.2.1)).addStatus r
        ((fs.map (·.2)).foldl (· ||| ·) 0)).advance r 1

/-- `red` (R209). -/
def execRed (op : FoldOp) (d : SReg) (a : VReg) (s : State) : Res :=
  issued s fun r =>
    let ty := s.ty r
    s.legalIf r (foldOk op ty && s.eOk r ty [a]) <|
      match (s.folds r op a).getLast? with
      | none => s.advance r 1
      | some x => ((s.sset r d (BitVec.ofNat 64 x.1)).addStatus r x.2).advance r 1

/-- `rank`: a single register (R185). -/
def execRank (d : VReg) (p : PReg) (s : State) : Res :=
  issued s fun r =>
    let hit := lanesOf (s.team r.tok) (s.active r &&& s.pget r p)
    s.legalIf r (s.vOk r [d]) <|
      (s.mapLanes r fun _ l =>
        ([.v d.toNat l (BitVec.ofNat 32 (hit.filter fun m => decide (m < l)).length)], 0)).advance r 1

/-- `compact` (R210). -/
def execCompact (d a : VReg) (p : PReg) (s : State) : Res :=
  issued s fun r =>
    let ty := s.ty r
    let t := s.team r.tok
    let act := lanesOf t (s.active r)
    let sel := lanesOf t (s.active r &&& t.pget p)
    s.legalIf r (s.eOk r ty [d, a]) <|
      (s.regWrites r.tok ((act.zip sel).flatMap fun x => eWrites ty d x.1 (t.eget ty a x.2))).advance r 1

/-- A predicate instruction (R211): with ALL every bit below TWIDTH, else the active lanes' bits. -/
def predicate (all : Bool) (d : PReg) (which : Mask) (f : State → PathRef → Mask) (s : State) : Res :=
  issued s fun r =>
    let m := (if all then (s.team r.tok).allLanes else s.active r) &&& which
    (s.writeLanes r d m (f s r)).advance r 1

def execPand (all : Bool) (d a b : PReg) (s : State) : Res :=
  predicate all d (~~~ 0) (fun s r => s.pget r a &&& s.pget r b) s
def execPor (all : Bool) (d a b : PReg) (s : State) : Res :=
  predicate all d (~~~ 0) (fun s r => s.pget r a ||| s.pget r b) s
def execPxor (all : Bool) (d a b : PReg) (s : State) : Res :=
  predicate all d (~~~ 0) (fun s r => s.pget r a ^^^ s.pget r b) s
def execPnot (all : Bool) (d a : PReg) (s : State) : Res :=
  predicate all d (~~~ 0) (fun s r => ~~~ s.pget r a) s
def execPmov (all : Bool) (d a : PReg) (s : State) : Res :=
  predicate all d (~~~ 0) (fun s r => s.pget r a) s
def execPsetClr (all : Bool) (d : PReg) (s : State) : Res := predicate all d (~~~ 0) (fun _ _ => 0) s
def execPsetSet (all : Bool) (d : PReg) (s : State) : Res := predicate all d (~~~ 0) (fun _ _ => ~~~ 0) s

/-- `pset.sc`: lanes 64K to 64K + 63 take the bits of s[a]. -/
def execPsetSc (all : Bool) (d : PReg) (a : SReg) (k : BitVec 4) (s : State) : Res :=
  predicate all d (BitVec.ofNat 1024 ((2 ^ 64 - 1) * 2 ^ (64 * k.toNat)))
    (fun s r => BitVec.ofNat 1024 ((s.sget r a).toNat * 2 ^ (64 * k.toNat))) s

/-- `xmget` (R212). -/
def execXmget (d : PReg) (s : State) : Res :=
  issued s fun r => (s.pset r d (s.path r).xm).advance r 1

end Sys2Proof.Machine
end

