-- ==== Sys2Proof/Machine/Control.lean ====
section
/-! DEFINITION. Control flow (R156 to R172), the execute mask (R213), and the events of paths and
teams: completions, late values, the merge, retirement and aging. -/

namespace Sys2Proof.Machine

/-- The target of a word offset (R124). -/
def State.relTarget {n : Nat} (s : State) (r : PathRef) (off : BitVec n) : DWord :=
  (s.path r).pc + (off.signExtend 64 <<< 2)

/-- `nop` (R157). -/
def execNop (s : State) : Res := issued s fun r => s.advance r 1

/-- `bra` (R158). -/
def execBra (off : BitVec 24) (s : State) : Res := issued s fun r => s.transfer r (s.relTarget r off)

/-- A conditional uniform branch: transfer, or the word after (R158). -/
def State.branchIf (s : State) (r : PathRef) (c : Bool) (off : Word) : State :=
  if c then s.transfer r (s.relTarget r off) else s.advance r 2

def execBsz (a : SReg) (off : Word) (s : State) : Res := issued s fun r => s.branchIf r (s.sget r a == 0) off

def execBsnz (a : SReg) (off : Word) (s : State) : Res := issued s fun r => s.branchIf r (s.sget r a != 0) off

def execBany (p : PReg) (off : Word) (s : State) : Res := issued s fun r => s.branchIf r (s.anyLane r p) off

def execBall (p : PReg) (off : Word) (s : State) : Res := issued s fun r => s.branchIf r (s.everyLane r p) off

/-! ### Divergence -/

/-- Divergence depth (R18). -/
def State.depth (s : State) (r : PathRef) : Nat :=
  (s.path r).stack.length + (s.team r.tok).divided.toNat

/-- Divide the team (R18, R162): path 0 keeps the other lanes and falls through, path 1 takes the
target with copies of `md`, STATUS, flags and the `wfi` bits. An armed monitor stays with path 0, and path 1
holds none: the manual does not say (assumption 70). The record of failed stores goes to both, since the
stores precede both paths (R222, R247). -/
def Team.divide (t : Team) (lanes : Mask) (tgt jn : DWord) (ser : Nat) : Team :=
  let p := t.path0
  let a := Path.advance { p with xm := p.xm &&& ~~~ lanes, domain := p.xm &&& ~~~ lanes } 2
  let b : Path :=
    { p with
      xm := lanes, domain := lanes, pc := tgt, inClause := false, widx := 0, ll := 0, stack := [],
      mac := Option.none, monitor := Option.none, done := 0, wait := Wait.none, age := 0 }
  { t with path0 := a, path1 := b, divided := true, djoin := jn, divSer := ser }

/-- `brp` (R162). -/
def execBrp (neg : Bool) (p : PReg) (toff joff : BitVec 16) (s : State) : Res :=
  issued s fun r =>
    let x := s.path r
    let act := s.active r
    let q := s.pget r p
    let tk := act &&& (if neg then ~~~ q else q)
    let tgt := s.relTarget r toff
    let jn := s.relTarget r joff
    if s.depth r = 0 then
      if tk = 0 then s.advance r 2
      else if tk = act then s.transfer r tgt
      else
        let s := { s with flight := s.flight.map fun (f : Flight) => if f.r = r then { f with both := true } else f }
        s.modTeam r.tok fun t => t.divide tk tgt jn s.nextSer
    else if 32 ≤ x.stack.length then s.takeStop r { cause := 15, sub := 1 }
    else
      let e : StackEntry := ⟨false, x.xm, 0, 0, jn.setWidth 56, false⟩
      let push := fun e xm => s.modPath r fun p => { p with stack := e :: p.stack, xm := xm }
      if tk = 0 then (push e x.xm).advance r 2
      else if tk = act then (push e x.xm).transfer r tgt
      else (push { e with pend := tk, ppc := tgt.setWidth 56 } (x.xm &&& ~~~ tk)).advance r 2

/-- The path would end here: it waits for its flags; poison found stops it; the last path of a team
performs a release first (R170, R247, R248). That this release has crew scope, R247 giving it none, and that an `xmset` which
leaves no lane with an empty stack (R213) ends its path in the same way as `exit`, is the model's choice (assumption 92). -/
def State.finishPath (s : State) (r : PathRef) (k : State → State) : State :=
  let p := s.path r
  let last := !((s.team r.tok).path (!r.path)).live
  if p.flags != 0 then s.waitFor r (.flags 0xFFF)
  else
    match p.poison with
    | n :: ns => (s.modPath r fun p => { p with poison := ns }).takeStop r (poisonStop n)
    | [] =>
      let fin := fun (s : State) => ((k s).endPath r).barAfterEnd r.tok
      if last then s.release r .crew fin else fin s

/-- Set a path's mask; an empty one unwinds, and with an empty stack the path ends (R161). -/
def State.setMask (s : State) (r : PathRef) (p : Path) (retired : Mask) (k : State → State) : State :=
  if p.xm != 0 then (k s).setPath r p
  else
    let q := p.unwind retired
    if q.ended then s.finishPath r k
    else (k s).setPath r { q with done := 0, wait := .none }

/-- `join` (R163). -/
def execJoin (s : State) : Res :=
  issued s fun r =>
    let t := s.team r.tok
    let p := s.path r
    match p.stack with
    | e :: rest =>
      if p.pc ≠ e.join.setWidth 64 then s.takeStop r { cause := 15, sub := 2 }
      else if e.pend != 0 then
        let e' := { e with pend := 0, rsm := e.rsm || e.indirect }
        (s.modPath r fun p => { p with xm := e.pend, stack := e' :: rest }).transfer r (e.ppc.setWidth 64)
      else
        let st := s.transfer r (p.pc + 4)
        let q := { st.path r with xm := e.outer &&& ~~~ t.retired, stack := rest }
        if q.xm != 0 then st.setPath r q else s.setMask r q t.retired id
    | [] =>
      if t.divided then
        if p.pc ≠ t.djoin then s.takeStop r { cause := 15, sub := 2 }
        else if p.flags = 0 then
          match p.poison with
          | n :: ns => (s.modPath r fun p => { p with poison := ns }).takeStop r (poisonStop n)
          | [] => s.waitFor r .join
        else s.waitFor r .join
      else s.transfer r (p.pc + 4)

/-- A computed target: a multiple of 4 with bits [63:56] zero (R156). -/
def targetOk (t : DWord) : Bool := t.extractLsb' 0 2 == 0 && t.extractLsb' 56 8 == 0

/-- `jmpi`, vector form (R166). -/
def execJmpiVector (a : VReg) (b : SReg) (joff : Word) (s : State) : Res :=
  issued s fun r =>
    let t := s.team r.tok
    let p := s.path r
    let act := s.active r
    let h := p.pc - 4
    let tgt := fun l => s.sget r b + (t.vget a l).setWidth 64
    s.legalIf r (s.vOk r [a] && p.widx == 0) <|
      match lanesOf t act with
      | [] => s.advance r 2
      | e :: _ =>
        let go := fun (top : StackEntry) (rest : List StackEntry) =>
          let grp := maskOf (lanesOf t act) fun l => tgt l == tgt e
          s.legalIf r (targetOk (tgt e)) <|
            (s.modPath r fun p =>
              { p with stack := { top with pend := act &&& ~~~ grp } :: rest, xm := grp }).transfer r (tgt e)
        let fresh := fun (_ : Unit) =>
          if 32 ≤ p.stack.length then s.takeStop r { cause := 15, sub := 1 }
          else go ⟨true, p.xm, 0, h.setWidth 56, (s.relTarget r joff).setWidth 56, false⟩ p.stack
        match p.stack with
        | top :: rest =>
          if top.indirect && top.rsm && top.ppc == h.setWidth 56 then go { top with rsm := false } rest else fresh ()
        | [] => fresh ()

/-- `jmpi`, uniform form (R167, R156). -/
def execJmpiUniform (b : SReg) (s : State) : Res :=
  issued s fun r =>
    if s.active r &&& (s.team r.tok).allLanes = 0 then s.advance r 2
    else s.legalIf r (targetOk (s.sget r b)) (s.transfer r (s.sget r b))

/-- `call` (R168). -/
def execCall (d : SReg) (off : Word) (s : State) : Res :=
  issued s fun r => (s.sset r d ((s.path r).pc + 8)).transfer r (s.relTarget r off)

/-- `calli` (R168, R156): it links before it reads its target. A target that is no address is illegal, and
then nothing is written (R142). -/
def execCalli (d a : SReg) (s : State) : Res :=
  issued s fun r =>
    let t := s.sset r d ((s.path r).pc + 4)
    let tgt := t.sget r a
    s.legalIf r (targetOk tgt) (t.transfer r tgt)

/-- `ret` (R168, R156). -/
def execRet (a : SReg) (s : State) : Res :=
  issued s fun r => s.legalIf r (targetOk (s.sget r a)) (s.transfer r (s.sget r a))

/-- `exit` (R170): the active lanes retire. -/
def execExit (s : State) : Res :=
  issued s fun r =>
    let act := s.active r &&& (s.team r.tok).allLanes
    let retired := (s.team r.tok).retired ||| act
    let k := fun (s : State) => s.modTeam r.tok fun t => { t with retired := retired }
    let p := (s.path r).advance 1
    s.setMask r { p with xm := p.xm &&& ~~~ act } retired k

/-- `xmset` (R213). -/
def execXmset (neg : Bool) (p : PReg) (s : State) : Res :=
  issued s fun r =>
    let t := s.team r.tok
    let x := s.path r
    let lim := match x.stack with
      | e :: _ => e.outer &&& ~~~ e.pend
      | [] => if t.divided then x.domain else t.allLanes
    let m := if neg then ~~~ t.pget p else t.pget p
    let q := x.advance 1
    s.setMask r { q with xm := m &&& lim &&& ~~~ t.retired } t.retired id

/-- `macro` (R153, R155): the word's operations follow, one at a step. -/
def execMacroWord (m : BitVec 6) (p0 p1 : BitVec 8) (s : State) : Res :=
  issued s fun r =>
    s.legalIf r (decide (m.toNat < (s.crewOf r).macros.length)) <|
      s.modPath r fun p => { p with mac := some ⟨m.toNat, p0, p1, 0⟩ }

/-- `yield` (R171): the issue itself has put the path last in its round-robin order. -/
def execYield (s : State) : Res := issued s fun r => s.advance r 1

/-- `trap` (R172): the PC goes to the next word, then the path stops; the record names the trapping
word (R450). -/
def execTrap (n : BitVec 8) (s : State) : Res :=
  issued s fun r =>
    let pc := (s.path r).pc
    (s.advance r 1).takeStop r { cause := 21, sub := n.toNat, word := some pc }

/-- An unassigned opcode (R140). -/
def execUnassignedOpcode (_op : Byte) (s : State) : Res := issued s fun r => s.illegal r

/-! ### Events of paths and teams -/

/-- Poison of a completed operation is found: it is noted, and a path already waiting at a `join`
stops there (R248). -/
def State.foundPoison (s : State) (r : PathRef) (n : Option PoisonNote) : State :=
  match n with
  | none => s
  | some n =>
    if (s.path r).wait == .join then s.takeStop r (poisonStop n)
    else s.modPath r fun p => { p with poison := p.poison ++ [n] }

/-- Poison of an operation issued before a division concerns both paths (R129, R222, R248). -/
def State.foundBoth (s : State) (r : PathRef) (both : Bool) (n : Option PoisonNote) : State :=
  let s := s.foundPoison r n
  if both then s.foundPoison ⟨r.tok, !r.path⟩ n else s

/-- What a memory access writes to lanes that have retired is discarded (R170). -/
def Team.discard (t : Team) (memory : Bool) (ws : List RegWrite) : List RegWrite :=
  if memory then ws.filter fun w => match w with | .v _ lane _ => !t.retired.getLsbD lane | .s .. => true else ws

/-- The results of an operation that has bound are written and its flag clears; a wait on the flag then acquires at
the operation's completion scope, which is done here (R307). -/
def State.complete (s : State) (p : Pend) : State :=
  let both := s.inherited p.r.tok p.serial
  let s := { s with pend := s.pend.filter fun q => q.serial != p.serial }
  let s := ((s.regWrites p.r.tok ((s.team p.r.tok).discard p.memory p.writes)).clearFlagBoth p.r p.flag both).foundBoth
    p.r both p.poison
  match p.scope with
  | some sc => s.acquireAct p.r sc
  | none => s

/-- A long-latency operation completes: a load binds, the results are written and the flag clears (R126,
R128). A drain's stores have all been performed at their home before (R126). -/
def execLongLatencyCompletion (n : Nat) (s : State) : Res :=
  match s.pend.find? fun p => p.serial == n && !p.held with
  | none => .next s
  | some p =>
    if s.bindHeld p || s.flight.any fun f => f.tie == some p.flag && f.r == p.r then .next s
    else
      let s := s.bindPend p
      match s.pend.find? fun p => p.serial == n with
      | none => .next s
      | some p => .next (s.complete p)

/-- One result of an operation in progress reaches its register, the flag still busy (R128). -/
def State.landEarly (s : State) (n k : Nat) : State :=
  match s.pend.find? fun p => p.serial == n && !p.held with
  | none => s
  | some p =>
    if s.bindHeld p then s
    else
      let s := s.bindPend p
      match s.pend.find? fun p => p.serial == n && p.poison == none with
      | none => s
      | some p =>
        match p.writes[k]? with
        | none => s
        | some w =>
          ({ s with pend := s.pend.map fun q => if q.serial = n then { q with writes := q.writes.eraseIdx k } else q } :
            State).regWrites p.r.tok ((s.team p.r.tok).discard p.memory [w])

/-- A late value arrives (R63, R304). -/
def execValueArrival (n : Nat) (s : State) : Res :=
  match s.late.find? fun p => p.serial == n with
  | none => .next s
  | some p =>
    let s := { s with late := s.late.filter fun q => q.serial != n }
    .next ((s.regWrites p.r.tok ((s.team p.r.tok).discard p.memory p.writes)).foundPoison p.r p.poison)

/-- A team stands still: its crew is frozen, and it has not been killed (R461). -/
def State.still (s : State) (tok : Nat) : Bool := (s.crew (s.team tok).crew).frozen && !(s.team tok).killed

/-- The two paths of a divided team merge (R20), unless their crew is frozen (R461). -/
def execPathMerge (tok : Nat) (s : State) : Res :=
  if (s.team tok).canMerge && !s.still tok then .next ((s.modTeam tok Team.merge).repath tok) else .next s

/-- A team whose paths have all ended, and whose work has completed, retires (R170), unless its crew is frozen
(R461). -/
def execTeamRetirement (tok : Nat) (s : State) : Res :=
  if (s.team tok).allEnded && s.teamIdle tok && !s.still tok && !s.outHeld (s.crew (s.team tok).crew).core .device then .next (s.retireTeam tok) else .next s

end Sys2Proof.Machine
end

