-- ==== Sys2Proof/Machine/Freeze.lean ====
section
/-! DEFINITION. Freeze and thaw (R461, R462), the scan path (R463) and icebox checkpoints (R464). -/

namespace Sys2Proof.Machine

/-! ### Requests (R405, R461) -/

/-- A freeze or thaw is requested: it takes effect 64 ticks later. A context without a valid record is
ignored, with an event. -/
def State.frzRequest (s : State) (src addr : Nat) (who : Option Nat) (c : Nat) (thaw : Bool) : State :=
  if (s.ctx c).record.valid then { s with frzReqs := s.frzReqs ++ [⟨c, thaw, s.tsc + 64⟩] }
  else s.logRefused src who addr (c + thaw.toNat * 2 ^ 20)

/-- Event 13. -/
def State.logFreeze (s : State) (c : Nat) (thaw : Bool) : State :=
  s.logEvent 582 13 0 (some c) (leBytes 8 s.tsc ++ leBytes 1 thaw.toNat)

/-- The cores that hold a crew of a context. -/
def State.coresOfCtx (s : State) (c : Nat) : List Nat :=
  ((s.crews.filter fun x => x.2.live && (s.grid x.2.grid).ctx == c).map fun x => x.2.core).eraseDups

/-- A path that waits for the freeze of its own context has finished its `frz` (R405). -/
def State.endFrz (s : State) (c : Nat) : State :=
  s.allPaths.foldl (fun s r => if (s.path r).wait == .frz && s.ctxOf r == c then s.advance r 1 else s) s

/-- FREEZE_TAKES_EFFECT (R461). -/
def execFreezeTakesEffect (c : Nat) (s : State) : Res :=
  match s.frzReqs.find? fun q => q.ctx == c && !q.thaw with
  | none => .next s
  | some q =>
    let s := (s.passTo q.due).endFrz c
    let s := { s with frzReqs := s.frzReqs.erase q, frzCtx := c, frzTsc := s.tsc }
    if (s.ctx c).frozen then .next (s.logFreeze c false)
    else
      let cores := s.coresOfCtx c
      let s := s.modCtx c fun x => { x with frozen := true, frozenAt := s.tsc }
      let s := cores.foldl (fun s k => (s.refreeze k).flushHome k fun _ => true) s
      let shared := s.crews.any fun x => x.2.live && cores.contains x.2.core && (s.grid x.2.grid).ctx != c
      let s := s.modCtx c fun x => { x with sharedFreeze := shared }
      .next ((s.pauseWatch fun h => (s.grid h).ctx == c).logFreeze c false)

/-- The beginning of a count that a freeze from one tick to another has paused: one that began in the freeze starts with
the thaw. -/
def pausedFrom (at' now t : Nat) : Nat := t + (now - Nat.max t at')

/-- Counts of a cluster that a freeze has paused. -/
def ClusterSt.shift (f : Nat → Nat) (c : ClusterSt) : ClusterSt :=
  { c with since := f c.since, placedAt := f c.placedAt, restoredAt := c.restoredAt.map f,
           saveStart := f c.saveStart, restoreStart := f c.restoreStart }

/-- The counts of a context go on where they paused at a tick: cart timers, slices, aging and watchdogs. -/
def State.unpause (s : State) (c at' : Nat) : State :=
  let f := pausedFrom at' s.tsc
  let s := { s with
    carts := s.carts.map fun (x : Cart) =>
      if x.ctx = c then { x with due := f (x.due - x.kd.timer * us) + x.kd.timer * us } else x,
    grids := s.grids.map fun (x : Nat × Grid) =>
      if x.2.ctx = c then (x.1, { x.2 with since := f x.2.since, clusters := x.2.clusters.map (ClusterSt.shift f) })
      else x }
  s.startWatch fun h => (s.grid h).ctx == c && s.crews.any fun x => x.2.grid == h && x.2.live && x.2.issues != 0 &&
    !s.saved.any fun v => v.num == x.1

/-- THAW_TAKES_EFFECT (R462): frozen paths resume where they stopped, and held packets are performed. -/
def execThawTakesEffect (c : Nat) (s : State) : Res :=
  match s.frzReqs.find? fun q => q.ctx == c && q.thaw with
  | none => .next s
  | some q =>
    let s := s.passTo q.due
    let s := { s with frzReqs := s.frzReqs.erase q, frzCtx := c, frzTsc := s.tsc }
    if !(s.ctx c).frozen then .next (s.logFreeze c true)
    else
      let at' := (s.ctx c).frozenAt
      let s := s.modCtx c fun x => { x with frozen := false, sharedFreeze := false }
      let s := ((s.crews.filter fun x => x.2.frozen).map fun x => x.2.core).eraseDups.foldl State.refreeze s
      .next (((s.unpause c at').acceptHeld c).logFreeze c true)

/-- FRZSTAT. -/
def State.frzStat (s : State) : Nat :=
  s.frzCtx + (s.ctx s.frzCtx).frozen.toNat * 2 ^ 20 + (s.ctx s.frzCtx).sharedFreeze.toNat * 2 ^ 21 +
    s.frzTsc % 2 ^ 42 * 2 ^ 22

/-! ### The scan path (R463) -/

/-- The frozen crew that SCANSEL selects. -/
def State.scanCrew (s : State) : Option Nat :=
  let sel := (s.csrGet 0x4068 0).toNat
  (s.crews.find? fun x => x.2.live && x.2.frozen && x.2.core == sel / 2 ^ 32 % 2 ^ 10 && x.2.slot == sel / 2 ^ 42 % 4).map
    fun x => x.1

/-- A read of SCANDATA: 8 bytes of the image, and the offset advances. -/
def State.scanRead (s : State) (src : Nat) (who : Option Nat) : State × DWord :=
  let sel := (s.csrGet 0x4068 0).toNat
  let off := sel % 2 ^ 32
  let next := s.csrPut 0x4068 0 (BitVec.ofNat 64 (sel / 2 ^ 32 * 2 ^ 32 + (off + 8) % 2 ^ 32))
  let bad := (next.logRefused src who 0x4069 0, (0 : DWord))
  match s.scanCrew with
  | none => bad
  | some n =>
    let img := s.scanImage n
    if img.length ≤ off then bad else (next, BitVec.ofNat 64 (leNat ((img.drop off).take 8)))

/-- SCANDATA, read by a host. -/
def execScandata (s : State) : Res :=
  let x := s.scanRead 586 none
  .next { x.1 with out := x.1.out ++ [OutMsg.barRead 0 0x4069 x.2] }

/-! ### Checkpoints (R464) -/

/-- A write of ICECTL. -/
def State.iceStart (s : State) (src : Nat) (who : Option Nat) (c : Nat) : State :=
  if !(s.ctx c).frozen || s.iceState == 1 then s.logRefused src who 0x4073 c
  else { s with iceCtx := some c, iceState := 1, iceTsc := s.tsc }

/-- The images of the frozen crews, by die, core and slot. -/
def State.iceImages (s : State) : List Byte :=
  let l := s.crews.filter fun x => x.2.live && x.2.frozen
  (List.range 576).flatMap fun k => (List.range 4).flatMap fun j =>
    (l.filter fun x => x.2.core == k && x.2.slot == j).flatMap fun x => s.scanImage x.1

/-- The header of a checkpoint: what R464 names, in its order, in places that it leaves open (assumption 35): FORMAT, rank,
context, TSC, and the byte counts of the three parts. -/
def iceHeader (rank c tsc img firn mem : Nat) : List Byte :=
  padTo 64 (leBytes 4 1 ++ leBytes 4 rank ++ leBytes 4 c ++ leBytes 4 0 ++ leBytes 8 tsc ++ leBytes 8 img ++ leBytes 8 firn ++
    leBytes 8 mem)

/-- The stream of a checkpoint, with the marks of the poisoned flakes of its memory (R456). The firn entries' format is
private to the device (R477). -/
def State.iceStream (s : State) (c : Nat) : Marked :=
  let img := s.iceImages
  let firn := openBytes (2 ^ 40 + s.fresh) (32 * (s.firn.filter fun e => e.ctx == c).length)
  let base := (s.csrGet 0x4071 0).toNat
  let mem := s.memBytes base (s.csrGet 0x4072 0).toNat
  let before := iceHeader s.rank c s.iceTsc img.length firn.length mem.length ++ img ++ firn
  ⟨before ++ mem, (s.poison.filter fun k => decide (base ≤ k) && decide (k < base + mem.length)).map fun k =>
    before.length + (k - base)⟩

/-- The context's stores that have not reached their homes in the streamed range do so first: what its cores still
hold is recalled (R464). -/
def State.iceRecall (s : State) (c : Nat) : State :=
  s.drainIf fun f => f.ctx == c && !s.flightHeld (fun g => g.serial == f.serial) &&
    meets f.key f.size (s.csrGet 0x4071 0).toNat (s.csrGet 0x4072 0).toNat

/-- ICEBOX_FINISHED: the stream has gone, or failed after a number of bytes that is open. -/
def execIceboxFinished (ok : Bool) (s : State) : Res :=
  match s.iceCtx with
  | none => .next s
  | some c =>
    let s := if ok then s.iceRecall c else s
    let data := s.iceStream c
    let n := if ok then leBytes 8 data.bytes.length else openBytes (2 ^ 41 + s.fresh) 8
    let st := if ok then 2 else 3
    let s := { s with iceCtx := none, iceState := st }
    let s := if ok then { s with out := s.out ++ [OutMsg.checkpoint (s.csrGet 0x4070 0).toNat data] } else s
    .next (s.logEvent 623 14 0 (some c) (n ++ leBytes 1 st))

/-- CHECKPOINT_STREAM: a checkpoint from another device, accepted only from the rank ICEIN names. The flakes that its marked
bytes reach are poisoned (R456). -/
def execCheckpointStream (src : Nat) (data : Marked) (s : State) : Res :=
  let i := (s.csrGet 0x4075 0).toNat
  let base := (s.csrGet 0x4076 0).toNat
  if i.testBit 12 && i % 2 ^ 12 == src && physRangeOk base data.bytes.length then
    .next (data.bad.foldl (fun s o => (s.poisonFlake (base + o)).poisonFlake (base + o + 31)) (s.homeWrite base data.bytes))
  else .next s

end Sys2Proof.Machine
end

