-- ==== Sys2Proof/Machine/Pod.lean ====
section
/-! DEFINITION. The fabric as one device sees it (R467 to R473): packets and links, and the protocols of
speculation domains across the pod (R481, R482). -/

namespace Sys2Proof.Machine

/-! ### Version allocation at the home (R481) -/

/-- Event 7: a peer is missing at a resolve (0) or a withdrawal (1). -/
def State.logPeer (s : State) (d peer kind : Nat) (ctx : Option Nat) : State :=
  s.logEvent 582 7 2 ctx (leBytes 8 (d % 256) ++ leBytes 4 peer ++ leBytes 1 kind)

/-- The home sends a domain nothing further for a peer (R482). -/
def State.failPeer (s : State) (d peer : Nat) : State :=
  s.modDom d fun x => { x with failed := if x.failed.contains peer then x.failed else x.failed ++ [peer] }

/-- Withdraw a version: it is free again, and the peers that the home still sends to are told, in the
domain's sequence of numbers. -/
def State.withdrawVersion (s : State) (d v : Nat) : State :=
  let n := (s.dom d).num + 1
  let pre := (s.dom d).notes
  let peers := s.livePeers d
  let key := (((s.dom d).allocs.find? fun a => a.ver == v).map fun a => a.key).getD 0
  let s := s.modDom d fun x =>
    { x with live := x.live.filter fun y => y.ver != v, num := n, notes := 0, allocs := x.allocs.filter fun a => a.ver != v,
             resolves := if peers.isEmpty then x.resolves else x.resolves ++ [⟨n, 0, 0, peers, s.tsc⟩] }
  s.postAll key peers d (.withdraw ⟨d, n, pre⟩ v)

/-- Answer a request for a version: to a launch of this device, or to a peer. -/
def State.answerAlloc (s : State) (src req d : Nat) (key : BitVec 32) (v : Option Nat) : State :=
  if src = s.rank then s.allocAnswered req v else s.post key src d (.allocAnswer req v)

/-- A peer asks its home for a version. The home sends a peer that has failed nothing further, and answers a request
once. -/
def State.allocMsg (s : State) (src req d parent : Nat) (key : BitVec 32) : State :=
  let x := s.dom d
  if x.home ≠ s.rank ∨ !(s.livePeers d).contains src ∨ x.allocs.any (fun a => a.src == src && a.req == req) then s
  else
    match s.allocate d parent src req key with
    | none => s.answerAlloc src req d key none
    | some (s, v, true) => s.answerAlloc src req d key (some v)
    | some (s, _, false) => s

/-- ALLOC. -/
def execAlloc (via : Via) (req d parent : Nat) (s : State) : Res :=
  .next (s.onMsg via fun s => some (s.allocMsg via.h.src req d parent via.h.jobkey))

/-- A message of the home comes in its order (R482): after the number and the notices before it. -/
def Dom.inTurn (x : Dom) (num notes : Nat) : Bool :=
  match x.applied with
  | none => true
  | some m => num == m && notes == x.notes

/-- The home tells a version and its parent; the peer knows it from now on, and acknowledges it. -/
def State.noticeMsg (s : State) (key : BitVec 32) (n : DomNum) (v : NewVer) : Option State :=
  let x := s.dom n.dom
  if x.home = s.rank then some s
  else if !x.inTurn n.num (n.k - 1) then none
  else
    let s := if x.live.any fun y => y.ver == v.ver then s else s.addVersion n.dom v.ver v.parent
    some ((s.modDom n.dom fun y => { y with applied := some n.num, notes := n.k }).post key x.home n.dom
      (.allocAck n.dom v.ver))

/-- VERSION_NOTICE. -/
def execVersionNotice (via : Via) (n : DomNum) (v : NewVer) (s : State) : Res :=
  .next (s.onMsg via fun s => s.noticeMsg via.h.jobkey n v)

/-- A peer has acknowledged an allocation: after the last, the request is answered. The home keeps a
peer's request for a CANCEL. -/
def State.allocAcked (s : State) (d ver peer : Nat) : State :=
  match (s.dom d).allocs.find? fun a => a.ver == ver && a.waiting.contains peer with
  | none => s
  | some a =>
    let left := a.waiting.filter (· != peer)
    let s := s.modDom d fun x =>
      { x with allocs := x.allocs.filterMap fun b =>
          if b = a then (if left.isEmpty && a.src == s.rank then Option.none else some { a with waiting := left }) else some b }
    if left.isEmpty then s.answerAlloc a.src a.req d a.key (some ver) else s

/-- ALLOC_ACK_TIMEOUT: the version is withdrawn, the launch refused and the peer counts as failed. -/
def execAllocAckTimeout (d ver peer : Nat) (s : State) : Res :=
  match (s.dom d).allocs.find? fun a => a.ver == ver && a.waiting.contains peer with
  | none => .next s
  | some a =>
    let ctx := (s.allocReqs.find? fun q => q.req == a.req && a.src == s.rank).map fun q => (s.grid q.grid).ctx
    .next ((((s.failPeer d peer).withdrawVersion d ver).logPeer d peer 1 ctx).answerAlloc a.src a.req d a.key none)

/-- ALLOC_ANSWER_TIMEOUT: a launch that has had no answer is refused, and the request cancelled. -/
def execAllocAnswerTimeout (req : Nat) (s : State) : Res :=
  match s.allocReqs.find? fun a => a.req == req with
  | none => .next s
  | some a =>
    let home := (s.dom a.dom).home
    if home = s.rank then .next s
    else .next ((s.allocAnswered req none).post (s.keyOf (s.grid a.grid).ctx) home a.dom (.cancel req a.dom))

/-- The version allocated for a peer's request is withdrawn. -/
def State.cancelMsg (s : State) (src req d : Nat) : State :=
  match (s.dom d).allocs.find? fun a => a.src == src && a.req == req with
  | none => s
  | some a => s.withdrawVersion d a.ver

/-- CANCEL. -/
def execCancel (via : Via) (req d : Nat) (s : State) : Res :=
  .next (s.onMsg via fun s => some (s.cancelMsg via.h.src req d))

/-! ### Numbered messages at a peer (R482) -/

/-- A number that a peer has applied already. -/
def Dom.isOld (x : Dom) (n : Nat) : Bool :=
  match x.applied with
  | none => false
  | some m => decide (n ≤ m)

/-- Apply a numbered message in its turn, and acknowledge it to the home. -/
def State.numbered (s : State) (key : BitVec 32) (n : DomNum) (act : State → State) : Option State :=
  let x := s.dom n.dom
  let acks := fun (s : State) => s.post key x.home n.dom (.resolveAck n.dom n.num)
  if x.home = s.rank then some s
  else if x.isOld n.num then some (acks s)
  else if x.inTurn (n.num - 1) n.k then
    some (acks ((act s).modDom n.dom fun y => { y with applied := some n.num, notes := 0 }))
  else none

/-- WITHDRAW: a peer that knows the version forgets it. -/
def execWithdraw (via : Via) (n : DomNum) (ver : Nat) (s : State) : Res :=
  .next (s.onMsg via fun s => s.numbered via.h.jobkey n fun s =>
    s.modDom n.dom fun x => { x with live := x.live.filter fun y => y.ver != ver })

/-- A peer's own event C (R238, R339): what its caches hold of the time before it goes, so that everything the device
does after its acknowledgement comes after C. -/
def State.resolveMsg (s : State) (d : Nat) (committed squashed : List Nat) : State :=
  let s := s.applyResolve d committed squashed
  { s with copies := s.copies.filter fun x => x.2.dirty }

/-- RESOLVE_BROADCAST. -/
def execResolveBroadcast (via : Via) (n : DomNum) (committed squashed : List Nat) (s : State) : Res :=
  .next (s.onMsg via fun s => s.numbered via.h.jobkey n fun s => s.resolveMsg n.dom committed squashed)

/-- A resolve of this device ends for one peer, with or without its acknowledgement; after the last, its
instruction has its result (R340). -/
def State.resolveEnd (s : State) (d n peer : Nat) (acked : Bool) : State :=
  match (s.dom d).resolves.find? fun x => x.num == n && x.waiting.contains peer with
  | none => s
  | some x =>
    let y := { x with waiting := x.waiting.filter (· != peer),
                      result := if acked then x.result else x.result / 256 * 256 + 3 }
    let s := s.modDom d fun z => { z with resolves := z.resolves.filterMap fun w =>
      if w = x then (if y.waiting.isEmpty then Option.none else some y) else some w }
    if y.waiting.isEmpty && y.pend != 0 then s.giveResult (some y.pend) fun _ => y.result else s

/-- The context of the `resolve` that waits, if one does. -/
def State.resolveCtx (s : State) (d n : Nat) : Option Nat :=
  match (s.dom d).resolves.find? fun x => x.num == n with
  | some x => (s.pend.find? fun p => p.serial == x.pend).map fun p => s.ctxOf p.r
  | none => none

/-- RESOLVE_ACK_TIMEOUT: status 3, an event, and the peer counts as failed (R340, R482). -/
def execResolveAckTimeout (d n peer : Nat) (s : State) : Res :=
  match (s.dom d).resolves.find? fun x => x.num == n && x.waiting.contains peer with
  | none => .next s
  | some x =>
    let s := (s.failPeer d peer).logPeer d peer (decide (x.pend = 0)).toNat (s.resolveCtx d n)
    .next (s.resolveEnd d n peer false)

/-! ### Packets and links (R467 to R473) -/

/-- The device's own request has come to it. -/
def State.noteLooped (s : State) (p : Packet) : State :=
  if p.src = s.rank then
    { s with reqs := s.reqs.map fun q => if q.serial = p.serial then { q with looped := true } else q }
  else s

/-- The flakes that a request touches, as its context addresses them. -/
def bodyFlakes : PBody → List Nat
  | .load _ _ ls | .store _ _ ls | .atomic _ _ ls => ls.map fun l => l.va.toNat / 32
  | _ => []

/-- A request of the device to itself comes after an earlier one that touches a common flake and has not arrived:
they are performed in the order of issue (R473). -/
def State.overtakes (s : State) (p : Packet) : Bool :=
  p.src == s.rank && s.reqs.any fun q =>
    !q.looped && !q.ended && q.packet.dst == s.rank && q.packet.jobkey == p.jobkey && decide (q.serial < p.serial) &&
    (bodyFlakes p.body).any fun k => (bodyFlakes q.packet.body).contains k

/-- TRANSACTION_PACKET: a packet arrives at a port that is up; one of the device itself crosses no link. One
whose job key the port's table does not hold is dropped (R471). A packet of another device is one that its reorder
window has let through (R473, assumption 81). -/
def execTransactionPacket (port : Nat) (p : Packet) (s : State) : Res :=
  if s.boot ≠ 2 || !(s.portIsUp port || p.src == s.rank) || p.dst != s.rank || s.overtakes p then .next s
  else
    let msg : (State → State) → Res := fun act => .next (s.onMsg ⟨port, p.toPodHdr⟩ fun s => some (act s))
    match p.body with
    | .allocAnswer req v => msg fun s => s.allocAnswered req v
    | .allocAck d v => msg fun s => s.allocAcked d v p.src
    | .resolveAck d n => msg fun s => s.resolveEnd d n p.src true
    | .queryAnswer n c => msg fun s => s.answerMsg p.src n c
    | .keepAlive _ => msg fun s => s
    | .collFail c => msg fun s => s.endColls fun d => d.collid == c
    | _ =>
      let s := s.noteLooped p
      match s.packetCtx port p.toPodHdr with
      | none => .next (s.dropPacket port p.jobkey)
      | some c =>
        match p.body with
        | .load .. | .store .. | .atomic .. => .next (s.accept c p)
        | .reply _ | .refuse .. => .next (s.remoteReply p.serial p.body)
        | .ack n => .next (s.ackIn p.src n)
        | _ => .next s

/-! ### Sending again (R472) -/

/-- A destination has acknowledged nothing for FTIMEOUT: a member of the boundary has failed (R476), and a domain whose
home does not take the device's acknowledgement goes on without it (R482). -/
def State.gaveUp (s : State) (p : Packet) : State :=
  match p.body with
  | .arrive .. | .decide .. | .keepAlive _ | .query _ | .queryAnswer .. => s.failMember p.dst
  | .collective .. => s.failColl p.dst
  | .allocAck d _ | .resolveAck d _ => s.modDom d fun x => { x with cut := true }
  | _ => s

/-- ACK_RESEND: a packet not acknowledged for FTIMEOUT ÷ 4 is sent again on another spine, and a message given up after
FTIMEOUT. -/
def execAckResend (serial : Nat) (s : State) : Res :=
  match s.reqs.find? fun q => q.serial == serial && !q.ended with
  | some q =>
    if q.packet.dst = s.rank then .next s
    else
      let port := s.spine serial (q.resends + 1) q.port
      .next (({ s with reqs := s.reqs.map fun x =>
        if x.serial = serial then { x with resends := x.resends + 1, port := port } else x } : State).emit port q.packet)
  | none =>
    match s.podOut.find? fun q => q.p.serial == serial with
    | none => .next s
    | some q =>
      if 3 ≤ q.resends then
        .next (({ s with podOut := s.podOut.filter fun x => x.p.serial != serial } : State).gaveUp q.p)
      else
        let port := s.spine serial (q.resends + 1) q.port
        .next (({ s with podOut := s.podOut.map fun x =>
          if x.p.serial = serial then { x with resends := x.resends + 1, port := port } else x } : State).emit port q.p)

/-- LINK_DOWN: a link's retries have failed, and its traffic moves to other ports (R468). -/
def execLinkDown (port : Nat) (s : State) : Res :=
  if s.portIsUp port then
    .next ((({ s with portup := s.portup &&& ~~~ BitVec.ofNat 32 (2 ^ port) } : State).logEvent (590 + port) 12 0 none
      (leBytes 4 0)).movePorts (BitVec.ofNat 32 (2 ^ port)))
  else .next s

/-- LINK_UP: the link of an enabled port is trained (R467). -/
def execLinkUp (port : Nat) (s : State) : Res :=
  if s.boot = 2 && (s.csrGet 0x4083 0).getLsbD port && decide (port < 32) then
    .next ({ s with portup := s.portup ||| BitVec.ofNat 32 (2 ^ port) } : State).sendWaiting
  else .next s

end Sys2Proof.Machine
end

