-- ==== Sys2Proof/Machine/Tables.lean ====
section
/-! DEFINITION. The tables of the system architecture, read at an `sfence` or a DOORBELL write (R404): the
contexts (R407 to R410), the work queues (R414), the domains (R420), the partitions' scheduling entries
(R421) and the membership tables (R471). -/

namespace Sys2Proof.Machine

/-- A power of two. -/
def pow2 (n : Nat) : Bool := n != 0 && n &&& (n - 1) == 0

/-- Known indices of a table together with those that have a listed byte. -/
def known (l : List Nat) (new : List Nat) : List Nat := l ++ new.filter fun i => !l.contains i

/-! ### Contexts (R407 to R410) -/

/-- A context record's 64 bytes: not valid where R408 or R409 turns them away. -/
def State.ctxRecOf (s : State) (e : Nat) : CtxRec :=
  let root := field e 0 8
  let f := field e 12 4
  let fq := field e 16 8
  let n := field e 24 4
  let gr := field e 28 4
  let gb := field e 32 8
  let ok := f.testBit 0 && decide (f < 16) && root % 4096 == 0 && decide (root < 2 ^ 52) && decide (f / 2 < 6) &&
    partValid (s.part (f / 2)) && fq % 64 == 0 && pow2 n && gb % 16 == 0 && (gr == 0 || pow2 gr) &&
    field e 40 24 == 0 && physRangeOk root (2 ^ 20) && physRangeOk fq (64 + 128 * n) && physRangeOk gb (16 * gr)
  { valid := ok, root := root, jobkey := BitVec.ofNat 32 (field e 8 4), part := f / 2, fqbase := fq, fqsize := n,
    grsize := gr, grbase := gb }

/-- A team of the context exists: resident, stopped or saved. -/
def State.hasTeam (s : State) (c : Nat) : Bool :=
  (s.liveTeams.any fun t => (s.grid (s.crew t.2.crew).grid).ctx == c) ||
  s.saved.any fun v => (s.grid v.crew.grid).ctx == c && v.teams.any fun t => t.2.live

/-- The record taken where the context has teams (R410): the whole old one, or the new one with the key,
partition and ring of the old; and whether something was deferred. -/
def CtxRec.kept (old new : CtxRec) : CtxRec × Bool :=
  if !new.valid then (old, true)
  else
    let k := { new with jobkey := old.jobkey, part := old.part, grbase := old.grbase, grsize := old.grsize }
    (k, k != new)

/-- Read one context's record. -/
def State.readCtx (s : State) (c : Nat) : State :=
  let base := (s.csrGet 0x4020 0).toNat + 64 * c
  let inside := decide (c < (s.csrGet 0x4021 0).toNat)
  let bs := if inside then s.memBytes base 64 else List.replicate 64 0
  let new := s.ctxRecOf (leNat bs)
  let old := (s.ctx c).record
  let out := if old.valid && s.hasTeam c then old.kept new else (new, false)
  let s' := s.modCtx c fun x => { x with record := out.1 }
  let s' := if out.2 && s.isNew 0 c bs then s'.logEntry (some c) base else s'
  s'.noteRead 0 c bs

/-- Read the context table. -/
def State.readCtxs (s : State) : State :=
  (known (s.ctxs.map (·.1)) (s.listed (s.csrGet 0x4020 0).toNat 64 (s.csrGet 0x4021 0).toNat)).foldl
    State.readCtx s

/-! ### Work queues (R414) -/

/-- The least power of two that is not less. -/
def ceilPow2 (n : Nat) : Nat := ((List.range 10).map fun i => 2 ^ i).find? (fun p => decide (n ≤ p)) |>.getD n

/-- The partition whose range holds a queue. -/
def State.queuePart (s : State) (q : Nat) : Option Nat := parts.find? fun p => s.queueIn p q

/-- A queue entry's 32 bytes: none where it is invalid. -/
def State.wqOf (s : State) (q e : Nat) : Option WqEnt :=
  let f := field e 8 4
  let w : WqEnt :=
    { valid := true, item := f.testBit 1, priv := f.testBit 2, prod := f / 8 % 4, logn := f / 32 % 16,
      recsz := f / 512 % 16, ctx := field e 12 4, base := field e 0 8, idx := field e 16 8, cring := field e 24 8,
      lost := false }
  let rec' := (s.ctx w.ctx).record
  let ok := decide (f < 2 ^ 13) && decide (w.ctx < 2 ^ 20) && w.prod != 3 && w.logn != 0 &&
    (w.item || w.recsz == 0) && (!w.item || (!w.priv && w.cring == 0)) && w.base % ceilPow2 w.size == 0 &&
    w.idx % 8 == 0 && physRangeOk w.base (2 ^ w.logn * w.size) && physRangeOk w.idx 8 &&
    physRangeOk w.cring (2 ^ w.logn * 16) && rec'.valid && s.queuePart q == some rec'.part
  if ok then some w else none

/-- Read one queue's entry. A queue that was overrun stays disabled until its entry changes (R415). -/
def State.readWq (s : State) (q : Nat) : State :=
  let base := (s.csrGet 0x4022 0).toNat + 32 * q
  let bs := s.memBytes base 32
  let e := leNat bs
  let fresh := s.isNew 1 q bs
  if (s.wq q).lost && !fresh then s
  else
    let put := fun (w : WqEnt) (s : State) => ({ s with wqs := Store.set WqEnt.none s.wqs q w } : State).noteRead 1 q bs
    if !e.testBit 64 then put WqEnt.none s
    else
      match s.wqOf q e with
      | some w => put w s
      | none => put WqEnt.none (if fresh || (s.wq q).valid then s.logEntry (some (field e 12 4 % 2 ^ 20)) base else s)

/-- Read the work-queue table. -/
def State.readWqs (s : State) : State :=
  (known (s.wqs.map (·.1) ++ s.seenOf 1) (s.listed (s.csrGet 0x4022 0).toNat 32 8192)).foldl State.readWq s

/-! ### Domains (R420) -/

/-- A domain entry's fields: home, peers, moraine size and base; none where a field breaks the layout. -/
def domEntry (e : Nat) : Option (Nat × List Nat × Nat × Nat) :=
  let n := field e 2 1
  let ps := (List.range 8).map fun i => field e (4 + 2 * i) 2
  let ms := field e 20 4
  let mb := field e 24 8
  let ok := decide (field e 0 2 < 4096) && decide (n ≤ 8) && field e 3 1 == 0 && (ps.all fun p => decide (p < 4096)) &&
    ((ps.drop n).all fun p => p == 0) && mb % 2 ^ 21 == 0 && physRangeOk mb (ms * 2 ^ 20)
  if ok then some (field e 0 2, ps.take n, ms, mb) else none

/-- Read one domain's entry: taken where the domain has no live version. -/
def State.readDom (s : State) (d : Nat) : State :=
  let base := (s.csrGet 0x4024 0).toNat + 32 * d
  let bs := s.memBytes base 32
  let x := s.dom d
  let fresh := s.isNew 3 d bs
  let s := s.noteRead 3 d bs
  match domEntry (leNat bs) with
  | none => if fresh then s.logEntry none base else s
  | some (h, ps, ms, mb) =>
    if x.home = h ∧ x.peers = ps ∧ x.morsize = ms ∧ x.morbase = mb ∧ !(fresh && x.cut) then s
    else if !x.live.isEmpty then (if fresh then s.logEntry none base else s)
    else
      s.modDom d fun x =>
        { x with home := h, peers := ps, morsize := ms, morbase := mb, failed := [], cut := false,
                 applied := if x.cut then none else x.applied }

/-- Read the domain table. -/
def State.readDoms (s : State) : State :=
  (known (s.doms.map (·.1) ++ s.seenOf 3) (s.listed (s.csrGet 0x4024 0).toNat 32 256)).foldl State.readDom s

/-! ### Scheduling entries (R421) -/

/-- A scheduling entry's fields: none where one is reserved, misaligned or outside its limits. -/
def State.schedEntry (s : State) (p e : Nat) : Option Sched :=
  let slice := field e 0 4
  let sb := field e 8 8
  let ss := field e 16 8
  let dq := (List.range 4).map fun i => field e (24 + 4 * i) 4
  let use := dq.filter fun x => x.testBit 31
  let pt := s.part p
  let ok := (slice == 0 || (decide (10 ≤ slice) && decide (slice ≤ 10 ^ 6))) && field e 6 2 == 0 && sb % 4096 == 0 &&
    ss % 4096 == 0 && (dq.all fun x => x / 2 ^ 21 % 2 ^ 10 == 0) && decide (field e 40 4 < 4) && field e 48 16 == 0 &&
    ((sb == 0 && ss == 0) ||
      (partValid pt && decide (partLo pt * gib ≤ sb) && decide (sb + Nat.max 1 ss ≤ partHi pt * gib))) &&
    use.all fun x => s.queueIn p (x % 2 ^ 13) && (s.wq (x % 2 ^ 13)).valid && !(s.wq (x % 2 ^ 13)).item
  if ok then some ⟨slice, field e 4 2, sb, ss, use.map fun x => (x / 2 ^ 13 % 256, x % 2 ^ 13)⟩ else none

/-- Read one partition's scheduling entry where it has changed (R421); the fields the device writes itself do not count as a
change. -/
def State.readSched (s : State) (p : Nat) : State :=
  let base := s.schedBase p
  let bs := s.memBytes base 40 ++ leBytes 4 (s.memNat (base + 40) 4 / 4) ++ s.memBytes (base + 48) 16
  if !s.isNew 4 p bs then s.noteSlices p
  else
    let s := s.noteRead 4 p bs
    match s.schedEntry p (s.memNat base 64) with
    | some x => ({ s with scheds := Store.set Sched.zero s.scheds p x } : State).noteSlices p
    | none => { s.logEntry none base with scheds := Store.set Sched.zero s.scheds p Sched.zero }

/-! ### Membership (R471) -/

/-- The valid entries of the 32 tables, by 64 × port + slot. -/
def State.readMembership (s : State) : State :=
  let base := (s.csrGet 0x4087 0).toNat
  { s with mship := (s.listed base 8 2048).filterMap fun i =>
      let e := s.memNat (base + 8 * i) 8
      if e.testBit 63 && e / 2 ^ 52 == 2 ^ 11 then some (i, BitVec.ofNat 32 e, e / 2 ^ 32 % 2 ^ 20) else none }

/-! ### The reading -/

/-- No crew of a grid has been placed. -/
def Grid.unplaced (g : Grid) : Bool :=
  g.clusters.all fun c => c.phase == .waiting && c.placedAt == 0 && c.gone.isEmpty

/-- Refuse a grid that no crew of has been placed, its context being invalid now (R410, R35). -/
def State.refuseInvalid (s : State) (h : Nat) : State :=
  let g := s.grid h
  let waits := s.allocReqs.filter fun a => a.grid == h
  if g.live && (g.phase == .blocked || g.phase == .allocating || g.phase == .runnable) && g.unplaced &&
      !(s.ctx g.ctx).record.valid then
    let s := { s.refuse h 2 with allocReqs := s.allocReqs.filter fun a => a.grid != h }
    waits.foldl (fun s a => s.giveResult a.pend fun _ => launchValue h 2 false) s
  else s

/-- Read the tables again. -/
def State.readTables (s : State) : State :=
  let s := s.readCtxs.readWqs.readRegions.readDoms
  let s := (parts.foldl (fun s p => s.readSched p) s).readMembership
  (s.grids.map (·.1)).foldl State.refuseInvalid s

end Sys2Proof.Machine
end

