-- ==== Sys2Proof/Machine/Regs.lean ====
section
/-! DEFINITION. The control space (R399): its registers, what a read returns, and what a write does, with
the rules that refuse a write (R400). -/

namespace Sys2Proof.Machine

/-! ### The register list (R399) -/

/-- The listed addresses: Table 1 of the system chapter and the three other tables of the control space. -/
def csrList : List Nat :=
  [0x1000, 0x1001, 0x1002, 0x1003, 0x1004, 0x2000, 0x3000, 0x3010, 0x3011, 0x3012, 0x3020, 0x3021] ++
  ((List.range 32).map fun i => 0x4000 + i) ++
  [0x4020, 0x4021, 0x4022, 0x4023, 0x4024, 0x4030, 0x4031, 0x4032, 0x4033, 0x4034, 0x4035, 0x4040, 0x4041, 0x4042,
   0x4043, 0x4050, 0x4051, 0x4052, 0x4053, 0x4054, 0x4060, 0x4061, 0x4068, 0x4069, 0x4070, 0x4071, 0x4072, 0x4073,
   0x4074, 0x4075, 0x4076] ++
  [0x4080, 0x4081, 0x4082, 0x4083, 0x4084, 0x4085, 0x4086, 0x4087, 0x4088, 0x4089, 0x4090, 0x4091, 0x4092, 0x40A0,
   0x40A1, 0x40A2, 0x40A8, 0x40A9, 0x40B0]

def csrListed (addr : Nat) : Bool := csrList.contains addr

/-- A semaphore register. -/
def isSem (addr : Nat) : Bool := decide (0x4000 ≤ addr) && decide (addr < 0x4020)

/-- Write-only registers: a read returns zero. -/
def csrWo (addr : Nat) : Bool := [0x3000, 0x4040, 0x4042, 0x4060, 0x4073, 0x40A9].contains addr

/-- The unit a team's own access reaches: its core, cluster or die (R399). -/
def unitOf (addr core : Nat) : Nat :=
  match addr / 2 ^ 12 with
  | 1 => core
  | 2 => clusterOfCore core
  | 3 => dieOfCore core
  | _ => 0

/-- The units of a space. -/
def unitsIn (addr : Nat) : Nat :=
  match addr / 2 ^ 12 with
  | 1 => 576
  | 2 => 6
  | 3 => 2
  | 4 => 1
  | _ => 0

/-! ### Reads -/

/-- The partition that holds a cluster (CLPART), 7 for none. -/
def State.clpart (s : State) (h : Nat) : Nat :=
  (parts.find? fun p => partValid (s.part p) && (partMask (s.part p)).getLsbD h).getD 7

/-- Log entries in use on a die (R477). -/
def State.firnUse (s : State) (die : Bool) : Nat := (s.firn.filter fun e => e.logged && e.die == die).length

/-- The value of a semaphore, ACQ clear (R412, Table 4). -/
def Sem.value (m : Sem) : Nat := if m.held then m.holder.toNat * 2 ^ 32 + 2 ^ 31 + m.owner else 0

def State.sem (s : State) (n : Nat) : Sem := Store.get ⟨false, 0, 0⟩ s.sems n

/-- The value of a register of a unit; SCANDATA and the semaphores are read by their own operations. -/
def State.csrRead (s : State) (addr unit : Nat) : DWord :=
  let d := s.die (decide (unit = 1))
  if csrWo addr || !csrListed addr then 0
  else if isSem addr then BitVec.ofNat 64 (s.sem (addr - 0x4000)).value
  else if addr = 0x2000 then BitVec.ofNat 64 (s.clpart unit)
  else if addr = 0x3012 then BitVec.ofNat 64 (s.firnUse (decide (unit = 1)))
  else if addr = 0x3020 then BitVec.ofNat 64 d.target
  else if addr = 0x3021 then
    BitVec.ofNat 64 (d.fmax * 2 ^ 16 + (s.stopped (decide (unit = 1))).toNat * 2 ^ 8 + d.f)
  else if addr = 0x4061 then BitVec.ofNat 64 s.frzStat
  else if addr = 0x4069 then 0
  else if addr = 0x4074 then BitVec.ofNat 64 s.iceState
  else if addr = 0x4082 then BitVec.ofNat 64 (s.pqd.toNat * 2 ^ 32 + s.busy.isSome.toNat * 2 + s.dqd.toNat)
  else if addr = 0x4084 then s.portup.setWidth 64
  else if addr = 0x4092 then
    if s.stepState = 2 then 2 else BitVec.ofNat 64 ((s.csrGet 0x4090 0).getLsbD 20 || s.stepState == 1).toNat
  else if addr = 0x40A8 then BitVec.ofNat 64 (s.fuseSvn % 2 ^ 16 * 2 ^ 16 + s.boot)
  else if addr = 0x40B0 then BitVec.ofNat 64 s.locked.toNat
  else s.csrGet addr unit

/-! ### Who writes -/

/-- The writer of a register: the source number of R459 and the context an event names. -/
structure Writer where
  src : Nat
  ctx : Option Nat

/-- A refused write: the register keeps its value, and an event is logged (R400). -/
def State.refused (s : State) (w : Writer) (addr val : Nat) : State := s.logRefused w.src w.ctx addr val

/-- Store a value where it keeps a register's rules. -/
def State.putIf (s : State) (w : Writer) (addr unit val : Nat) (ok : Bool) (v : Nat) : State :=
  if ok then s.csrPut addr unit (BitVec.ofNat 64 v) else s.refused w addr val

/-! ### Core registers (R54, R55) -/

/-- A pool boundary: kept while a crew is on the core, above 64, or out of order; the L1 is written back
and emptied before a change. -/
def State.poolWrite (s : State) (w : Writer) (core i val : Nat) : State :=
  let t := val / 2 ^ 14 % 2 ^ 7
  let b := fun (j : Nat) => if j = i then t else s.top core j
  if 64 < t ∨ b 1 < b 0 ∨ b 2 < b 1 ∨ !(s.crewsOn core).isEmpty then s.refused w (0x1000 + i) val
  else ((s.flushHome core fun _ => true).dropCopies core fun _ => true).csrPut (0x1000 + i) core
    (BitVec.ofNat 64 (t * 2 ^ 14))

/-! ### Partitions (R413) -/

/-- A value for PARTn keeps the limits and overlaps no other valid partition. -/
def State.partFits (s : State) (n : Nat) (v : DWord) : Bool :=
  !partValid v ||
  (decide (partLo v < partHi v) && decide (partHi v ≤ 576) && decide (partWqLo v ≤ partWqHi v) && partMask v != 0 &&
   parts.all fun m =>
     let o := s.part m
     m == n || !partValid o ||
     (!(decide (partLo v < partHi o) && decide (partLo o < partHi v)) &&
      !(decide (partWqLo v ≤ partWqHi o) && decide (partWqLo o ≤ partWqHi v)) && partMask v &&& partMask o == 0))

/-- The write takes no cluster with a crew away from the partition. -/
def State.partKeeps (s : State) (n : Nat) (v : DWord) : Bool :=
  let old := s.maskOf n
  let new := if partValid v then partMask v else 0
  s.crews.all fun c => !c.2.live || !(old &&& ~~~ new).getLsbD (clusterOfCore c.2.core)

def State.partWrite (s : State) (w : Writer) (n val : Nat) : State :=
  let v := val % 2 ^ 53
  let x := BitVec.ofNat 64 v
  s.putIf w (0x4030 + n) 0 val (s.partFits n x && s.partKeeps n x) v

/-! ### Photonic routing die and fabric (R466 to R470) -/

/-- D2DCONN. -/
def State.d2dWrite (s : State) (w : Writer) (val : Nat) : State :=
  let n01 := val % 2 ^ 12
  let n10 := val / 2 ^ 16 % 2 ^ 12
  if s.dqd && decide (n01 + n10 ≤ 2048) && decide (64 ≤ n01) && decide (64 ≤ n10) then
    ({ s with busy := some (s.tsc + 10 * us) } : State).csrPut 0x4080 0 (BitVec.ofNat 64 (n01 + n10 * 2 ^ 16))
  else s.refused w 0x4080 val

/-- DQ: operations sent from now on wait to cross; clearing it sends them. -/
def State.setDq (s : State) (b : Bool) : State :=
  if b then (if s.dq then s else { s with dq := true, dqSer := s.nextSer }) else ({ s with dq := false, dqd := false } : State).payOwed

/-- PRDCTL: a port with its PQ bit set takes no new packet, and what it holds goes to others; a cleared bit ends the
port's quiesce, and what waited for a port is sent. -/
def State.prdWrite (s : State) (val : Nat) : State :=
  let old := (s.csrGet 0x4081 0).extractLsb' 32 32
  let new := BitVec.ofNat 32 (val / 2 ^ 32)
  let s := (s.setDq (val.testBit 0)).csrPut 0x4081 0 (BitVec.ofNat 64 (new.toNat * 2 ^ 32 + val % 2))
  (({ s with pqd := s.pqd &&& new } : State).movePorts (new &&& ~~~ old)).sendWaiting

/-- PORTEN: a bit changes only while its port is quiesced. -/
def State.portenWrite (s : State) (w : Writer) (val : Nat) : State :=
  let old := (s.csrGet 0x4083 0).setWidth 32
  let new := BitVec.ofNat 32 val
  let ch := old ^^^ new
  if ch &&& ~~~ s.pqd != 0 then s.refused w 0x4083 val
  else if ch = 0 then s
  else ({ s with busy := some (s.tsc + 10 * us), portup := s.portup &&& new } : State).csrPut 0x4083 0 (new.setWidth 64)

/-- RANK (R483): rank 0 does not slew (R491). -/
def State.rankWrite (s : State) (w : Writer) (val : Nat) : State :=
  let ok := s.csrGet 0x4083 0 == 0 && !(s.csrGet 0x4090 0).getLsbD 20 &&
    s.doms.all fun d => d.2.live.isEmpty || !(d.2.home == s.rank || d.2.peers.contains s.rank)
  let s' := s.putIf w 0x4089 0 val ok (val % 2 ^ 12)
  if ok && val % 2 ^ 12 == 0 then { s' with slew := 0 } else s'

/-- STEPCTL (R474, R476). -/
def State.stepWrite (s : State) (w : Writer) (val : Nat) : State :=
  let old := (s.csrGet 0x4090 0).toNat % 2 ^ 21
  let new := val % 2 ^ 21
  let resume := val.testBit 21
  let reads := resume || (new.testBit 20 && !old.testBit 20)
  let m := s.readMembers
  if (new != old && !s.stepTeams.isEmpty) || (reads && !m.contains s.rank) then s.refused w 0x4090 val
  else
    let s := s.csrPut 0x4090 0 (BitVec.ofNat 64 new)
    let s := if reads then { s with members := m, failures := [] } else s
    if resume then { s with stepState := if s.stepState = 2 then 1 else s.stepState }.stepCheck
    else { s with stepState := if s.stepState = 1 && !new.testBit 20 then 0 else s.stepState }

/-! ### Firn logs (R478) -/

/-- A range in the device memory of one valid partition. -/
def State.inSomePart (s : State) (k n : Nat) : Bool :=
  parts.any fun p => let v := s.part p; partValid v && decide (partLo v * gib ≤ k) && decide (k + n ≤ partHi v * gib)

def State.firnBaseWrite (s : State) (w : Writer) (die val : Nat) : State :=
  let v := val % 2 ^ 52 / 2 ^ 12 * 2 ^ 12
  s.putIf w 0x3010 die val (s.csrGet 0x3011 die == 0 && s.inSomePart v 1) v

def State.firnSizeWrite (s : State) (w : Writer) (die val : Nat) : State :=
  let v := val % 2 ^ 52 / 2 ^ 12 * 2 ^ 12
  let low := decide (v < (s.csrGet 0x3011 die).toNat)
  s.putIf w 0x3011 die val
    ((!low || s.firnUse (decide (die = 1)) == 0) && (v == 0 || s.inSomePart (s.csrGet 0x3010 die).toNat v)) v

/-! ### DOORBELL and HFLUSH (R404, R406, R417) -/

/-- A write of DOORBELL: the tables are read, and `wfi` on the die wakes. -/
def State.doorbell (s : State) (die : Bool) : State :=
  let s := s.readTables.wfiSaved (fun v => decide (dieOfCore v.crew.core = 1) == die) true
  s.allPaths.foldl (fun s r => if decide (dieOfCore (s.coreOf r) = 1) = die then s.wfiEvent r true else s) s

/-- A write of HFLUSHn: the writes the port accepted are delivered, in order, then HFDONEn holds the token (R73,
R417). -/
def State.hflush (s : State) (port : Bool) (token : Nat) : State :=
  (s.deliver port).csrPut (0x4041 + 2 * port.toNat) 0 (BitVec.ofNat 64 (token % 2 ^ 32))

/-! ### Every write -/

/-- Bits hi:lo of a value, in place. -/
def inPlace (val hi lo : Nat) : Nat := val % 2 ^ (hi + 1) / 2 ^ lo * 2 ^ lo

/-- A range wholly in device memory. -/
def inHbm (k n : Nat) : Bool := decide (k + Nat.max 1 n ≤ 576 * gib)

/-- Registers whose rule is a range or a limit: mask the field, check it, store it. -/
def State.plainWrite (s : State) (w : Writer) (addr unit val : Nat) : State :=
  let get := fun (a : Nat) => (s.csrGet a 0).toNat
  let put := fun (ok : Bool) (v : Nat) => s.putIf w addr unit val ok v
  match addr with
  | 0x1003 => put true (val % 2)
  | 0x1004 => s.csrPut addr unit (s.csrGet addr unit &&& ~~~ BitVec.ofNat 64 (val % 8))
  | 0x4020 => let v := inPlace val 51 6; put (physRangeOk v (64 * get 0x4021)) v
  | 0x4021 => let v := val % 2 ^ 21; put (decide (v ≤ 2 ^ 20) && physRangeOk (get 0x4020) (64 * v)) v
  | 0x4022 => put (val % 32 == 0 && physRangeOk val (262144 + 384)) val
  | 0x4023 => put (val % 32 == 0 && physRangeOk val 2048) val
  | 0x4024 => put (val % 32 == 0 && physRangeOk val 8192) val
  | 0x4050 => let v := inPlace val 51 5; put (inHbm v (32 * get 0x4051)) v
  | 0x4051 => let v := val % 2 ^ 21; put ((v == 0 || pow2 v) && inHbm (get 0x4050) (32 * v)) v
  | 0x4053 | 0x4054 | 0x4088 => put true (val % 2 ^ 32)
  | 0x4068 => put (val % 8 == 0) (val % 2 ^ 44)
  | 0x4070 => put true (val % 2 ^ 12)
  | 0x4071 => let v := inPlace val 51 12; put (physRangeOk v (get 0x4072)) v
  | 0x4072 => let v := inPlace val 51 12; put (physRangeOk (get 0x4071) v) v
  | 0x4075 => put true (val % 2 ^ 13)
  | 0x4076 => let v := inPlace val 51 12; put (physRangeOk v 0) v
  | 0x4085 =>
    let s' := put (s.csrGet 0x4083 0 == 0) (val % 2)
    -- no alignment in strict-standard mode (R491)
    if s'.strict then { s' with slew := 0, locked := false } else s'
  | 0x4086 => let v := val % 2 ^ 20; put (decide (1 ≤ v) && decide (v ≤ 10 ^ 6)) v
  | 0x4087 => let v := inPlace val 51 12; put (physRangeOk v 16384) v
  | 0x4091 => let v := inPlace val 51 6; put (physRangeOk v 512) v
  | 0x40A0 => let v := inPlace val 51 5; put (inHbm v (32 * get 0x40A1)) v
  | 0x40A1 => let v := val % 2 ^ 16; put ((v == 0 || pow2 v) && inHbm (get 0x40A0) (32 * v)) v
  | _ => s

/-- A write of a register other than a semaphore. Writes of read-only registers are ignored (R7), those of
unlisted addresses are logged as well (R399). Before the device runs only RECCTL is written, in recovery (R484,
R485): the registers hold their resets at step 5. -/
def State.csrWrite (s : State) (w : Writer) (addr unit val : Nat) : State :=
  if s.boot ≠ 2 && (s.boot ≠ 3 || addr ≠ 0x40A9) then s
  else if !csrListed addr || decide (unitsIn addr ≤ unit) then s.refused w addr val
  else
    match addr with
    | 0x1000 => s.poolWrite w unit 0 val
    | 0x1001 => s.poolWrite w unit 1 val
    | 0x1002 => s.poolWrite w unit 2 val
    | 0x3000 => s.doorbell (decide (unit = 1))
    | 0x3010 => s.firnBaseWrite w unit val
    | 0x3011 => s.firnSizeWrite w unit val
    | 0x3020 => s.clkWrite w.src w.ctx (decide (unit = 1)) (val % 32)
    | 0x4030 => s.partWrite w 0 val
    | 0x4031 => s.partWrite w 1 val
    | 0x4032 => s.partWrite w 2 val
    | 0x4033 => s.partWrite w 3 val
    | 0x4034 => s.partWrite w 4 val
    | 0x4035 => s.partWrite w 5 val
    | 0x4040 => s.hflush false val
    | 0x4042 => s.hflush true val
    | 0x4060 => s.frzRequest w.src addr w.ctx (val % 2 ^ 20) (val.testBit 20)
    | 0x4073 => s.iceStart w.src w.ctx (val % 2 ^ 20)
    | 0x4080 => s.d2dWrite w val
    | 0x4081 => s.prdWrite val
    | 0x4083 => s.portenWrite w val
    | 0x4089 => s.rankWrite w val
    | 0x4090 => s.stepWrite w val
    | 0x40A9 => if val.testBit 0 then s.recover (decide (w.src = 587)) else s
    | _ => s.plainWrite w addr unit val

/-! ### Semaphores (R412) -/

/-- The number of a source, and the token of a holder. -/
def semNum : SemSource → Nat
  | .port0 => 0 | .port1 => 1 | .team _ => 2 | .mgmt => 3
def semToken : SemSource → BitVec 32
  | .team t => t
  | _ => 0

/-- A request joins those of its tick. -/
def State.semAsk (s : State) (src : SemSource) (n : Nat) (write : Bool) (val : DWord) (who : Option PathRef) : State :=
  { s with semReqs := s.semReqs ++ [⟨src, n, write, s.tsc, val, who⟩] }

/-! ### Writes from a host port, the management controller or the sideband -/

/-- The writer and the semaphore source of an access from outside: 0 and 1 the ports. -/
def writerOf (src : Nat) : Writer := ⟨if src = 0 then 586 else if src = 1 then 587 else 589, none⟩
def semSourceOf (src : Nat) : SemSource := if src = 0 then .port0 else if src = 1 then .port1 else .mgmt

/-- CONTROL_REGISTER_WRITE. -/
def execControlRegisterWrite (src : Nat) (addr : BitVec 16) (unit : Nat) (val : DWord) (s : State) : Res :=
  let a := addr.toNat
  if isSem a && unit == 0 && s.boot == 2 then .next (s.semAsk (semSourceOf src) (a - 0x4000) true val none)
  else .next (s.csrWrite (writerOf src) a unit val.toNat)

/-- The writer of an event row that names no source: host port 0. -/
def port0 : Writer := writerOf 0

/-- POOL_BOUNDARY_WRITE. -/
def execPoolBoundaryWrite (core : Nat) (reg : PoolReg) (val : DWord) (s : State) : Res :=
  .next (s.csrWrite port0 (match reg with | .regtop => 0x1000 | .sptop => 0x1001 | .cachetop => 0x1002) core val.toNat)

def execDoorbell (die : Bool) (s : State) : Res := .next (s.csrWrite port0 0x3000 die.toNat 1)
def execHflush (port : Bool) (token : Word) (s : State) : Res :=
  .next (s.csrWrite (writerOf port.toNat) (0x4040 + 2 * port.toNat) 0 token.toNat)
def execPartWrite (n : Nat) (val : DWord) (s : State) : Res :=
  if n < 6 then .next (s.csrWrite port0 (0x4030 + n) 0 val.toNat) else .next s
def execClkctl (die : Bool) (val : DWord) (s : State) : Res := .next (s.csrWrite port0 0x3020 die.toNat val.toNat)
def execD2dconn (val : DWord) (s : State) : Res := .next (s.csrWrite port0 0x4080 0 val.toNat)
def execPorten (val : Word) (s : State) : Res := .next (s.csrWrite port0 0x4083 0 val.toNat)
def execFmode (strict : Bool) (s : State) : Res := .next (s.csrWrite port0 0x4085 0 strict.toNat)
def execRankWrite (rank : BitVec 12) (s : State) : Res := .next (s.csrWrite port0 0x4089 0 rank.toNat)
def execStepctlEn (val : DWord) (s : State) : Res := .next (s.csrWrite port0 0x4090 0 val.toNat)
def execFirnsize (die : Bool) (val : DWord) (s : State) : Res := .next (s.csrWrite port0 0x3011 die.toNat val.toNat)
def execFrzctlFreeze (ctx : Nat) (s : State) : Res := .next (s.csrWrite port0 0x4060 0 (ctx % 2 ^ 20))
def execFrzctlThaw (ctx : Nat) (s : State) : Res := .next (s.csrWrite port0 0x4060 0 (ctx % 2 ^ 20 + 2 ^ 20))
def execIcectl (ctx : Nat) (s : State) : Res := .next (s.csrWrite port0 0x4073 0 (ctx % 2 ^ 20))

/-- PRDCTL with DQ set or cleared, PQ as it is. -/
def State.dqWrite (s : State) (b : Bool) : State :=
  s.csrWrite port0 0x4081 0 ((s.csrGet 0x4081 0).toNat / 2 * 2 + b.toNat)

def execDqSet (s : State) : Res := .next (s.dqWrite true)
def execDqClear (s : State) : Res := .next (s.dqWrite false)

/-- PRDCTL with a new PQ. -/
def execPq (mask : Word) (s : State) : Res :=
  .next (s.csrWrite port0 0x4081 0 ((s.csrGet 0x4081 0).toNat % 2 ^ 32 + mask.toNat * 2 ^ 32))

/-- STEPCTL.RESUME, the other fields as they are. -/
def execResume (s : State) : Res := .next (s.csrWrite port0 0x4090 0 ((s.csrGet 0x4090 0).toNat % 2 ^ 21 + 2 ^ 21))

/-! ### What the routing die reports (R466, R467) -/

/-- DIE_TO_DIE_QUIESCED: the cross-die traffic sent before DQ has completed. -/
def execDieToDieQuiesced (s : State) : Res :=
  let crosses := fun (core : Nat) (home : Bool) (n : Nat) => decide (dieOfCore core = 1) != home && decide (n < s.dqSer)
  if s.dq && (!s.flight.any fun f => crosses f.core f.home f.serial) && !s.pend.any fun p => match p.loads with
      | some l => l.lanes.any fun e => crosses (s.coreOf p.r) e.2.2.2 p.serial
      | none => false then
    .next { s with dqd := true }
  else .next s

/-- A port holds a packet that is not acknowledged. -/
def State.portHolds (s : State) (port : Nat) : Bool :=
  (s.reqs.any fun q => !q.ended && q.port == some port) || s.podOut.any fun x => x.port == some port

/-- PORT_QUIESCED: the port being quiesced holds no unacknowledged packet (R467). -/
def execPortQuiesced (port : Nat) (s : State) : Res :=
  if ((s.csrGet 0x4081 0).extractLsb' 32 32).getLsbD port && !s.portHolds port then
    .next { s with pqd := s.pqd ||| BitVec.ofNat 32 (2 ^ port) }
  else .next s

/-- CIRCUIT_CHANGE_DONE: 10 µs have passed. -/
def execCircuitChangeDone (s : State) : Res :=
  match s.busy with
  | none => .next s
  | some t => .next { s.passTo t with busy := none }

end Sys2Proof.Machine
end

