-- ==== Sys2Proof/Machine/HostPort.lean ====
section
/-! DEFINITION. The host ports (R411, R412, R417, R485): links, accesses through BAR 2, and the semaphore
unit. -/

namespace Sys2Proof.Machine

def State.hostUp (s : State) (port : Bool) : Bool := if port then s.hostUp1 else s.hostUp0

/-! ### Semaphores (R412) -/

def State.setSem (s : State) (n : Nat) (m : Sem) : State := { s with sems := Store.set ⟨false, 0, 0⟩ s.sems n m }

/-- A reply to a read: to the path that waits, or to the outside. -/
def State.semAnswer (s : State) (q : SemReq) (v : Nat) : State :=
  let x := BitVec.ofNat 64 v
  match q.who with
  | some r =>
    match (s.path r).wait with
    | .sem n d => if n = q.n then (s.sset r d x).advance r 2 else s
    | _ => s
  | none => { s with out := s.out ++ [OutMsg.semReply q.src q.n x] }

/-- Serve one request. -/
def State.semServe (s : State) (q : SemReq) : State :=
  let m := s.sem q.n
  let mine : Sem := ⟨true, semNum q.src, semToken q.src⟩
  if q.write then
    if m.held && m.owner == semNum q.src && m.holder == semToken q.src then s.setSem q.n ⟨false, 0, 0⟩
    else s.logRefused 588 (q.who.map s.ctxOf) (0x4000 + q.n) q.val.toNat
  else if m.held then s.semAnswer q m.value
  else (s.setSem q.n mine).semAnswer q (mine.value + 2 ^ 30)

/-- The order within a tick: the source, then the token. -/
def semBefore (a b : SemReq) : Bool :=
  decide (semNum a.src < semNum b.src) || (semNum a.src == semNum b.src && decide ((semToken a.src).toNat ≤ (semToken b.src).toNat))

def semInsert (q : SemReq) : List SemReq → List SemReq
  | [] => [q]
  | x :: xs => if semBefore x q then x :: semInsert q xs else q :: x :: xs

/-- SEMAPHORE_TICK_SERVE: the requests of the earliest tick, at its end. -/
def execSemaphoreTickServe (s : State) : Res :=
  match s.semReqs with
  | [] => .next s
  | q :: _ =>
    let t := (s.semReqs.map fun x => x.tick).foldl Nat.min q.tick
    let now := (s.semReqs.filter fun x => x.tick == t).foldl (fun l x => semInsert x l) []
    let s := { s with semReqs := s.semReqs.filter fun x => x.tick != t }.passTo (t + 1)
    .next (now.foldl State.semServe s)

/-- SEM_READ and SEM_WRITE from a host port, the management controller or a team, of a device that runs (R484). -/
def execSemRead (src : SemSource) (n : Nat) (s : State) : Res :=
  if n < 32 ∧ s.boot = 2 then .next (s.semAsk src n false 0 none) else .next s
def execSemWrite (src : SemSource) (n : Nat) (s : State) : Res :=
  if n < 32 ∧ s.boot = 2 then .next (s.semAsk src n true 0 none) else .next s

/-! ### Links -/

/-- HOST_LINK_DOWN: the semaphores the port holds are freed, with an event. -/
def execHostLinkDown (port : Bool) (s : State) : Res :=
  let s := if port then { s with hostUp1 := false } else { s with hostUp0 := false }
  .next ((List.range 32).foldl (fun s n =>
    let m := s.sem n
    if m.held && m.owner == port.toNat then (s.setSem n ⟨false, 0, 0⟩).logRefused 588 none (0x4000 + n) 0 else s) s)

/-- HOST_LINK_UP. -/
def execHostLinkUp (port : Bool) (s : State) : Res :=
  if s.boot = 2 ∨ s.boot = 3 then .next (if port then { s with hostUp1 := true } else { s with hostUp0 := true }) else .next s

/-! ### BAR 0 (R399, R411) and host writes (R236) -/

/-- A host's read of a byte offset of BAR 0: the register there, of the unit there; an offset that names none reads as
zero (R399). A semaphore is read by its unit (R412), and SCANDATA by the scan path (R463). -/
def State.hostRead (s : State) (port : Bool) (off : Nat) : State :=
  let a := off / 2 ^ 24 * 2 ^ 12 + off / 8 % 2 ^ 11
  let unit := off / 2 ^ 14 % 2 ^ 10
  let reply := fun (s : State) (v : DWord) => { s with out := s.out ++ [OutMsg.barRead port.toNat off v] }
  if !s.hostUp port then s
  else if !csrListed a || decide (unitsIn a ≤ unit) then reply s 0
  else if isSem a then s.semAsk (if port then .port1 else .port0) (a - 0x4000) false 0 none
  else if a = 0x4069 then
    let x := s.scanRead (586 + port.toNat) none
    reply x.1 x.2
  else reply s (s.csrRead a unit)

/-- A host's write of device memory, which its writers see under R236, or of its own memory. -/
def State.hostStore (s : State) (k : Nat) (bs : List Byte) : State :=
  if isHostKey k then { s with mem := Store.setList 0 s.mem k bs }
  else if physRangeOk k bs.length then s.homeWrite k bs
  else s

/-! ### BAR 2 (R411, R417, R485) -/

/-- What an access needs: its offset and size. -/
def hostRange : HostAccess → Nat × Nat
  | .load off n | .store off n _ => (off, n)
  | .atomic off wide _ _ _ => (off, if wide then 8 else 4)

/-- The new value of a host atomic: y replaces a value equal to x under `cas`. -/
def hostAtomic (op : AtomOp) (n old x y : Nat) : Nat :=
  let m := 2 ^ (8 * n)
  if op == .cas then (if old = x % m then y % m else old) else atomNew op (8 * n) old (x % m)

/-- An access to one die's window. -/
def State.windowAccess (s : State) (port die : Bool) (a : HostAccess) : State :=
  let k := windowBase + die.toNat * 2 ^ 20 + (hostRange a).1
  let n := (hostRange a).2
  let reply := fun (s : State) (v : Nat) => { s with out := s.out ++ [OutMsg.windowRead port (BitVec.ofNat 64 v)] }
  match a with
  | .load .. => reply s (s.memNat k n)
  | .store _ _ v => s.homeWrite k (leBytes n v.toNat)
  | .atomic _ _ op x y =>
    let old := s.memNat k n
    reply (s.homeWrite k (leBytes n (hostAtomic op n old x.toNat y.toNat))) old

/-- An access to a port's staging area in recovery. -/
def State.stageAccess (s : State) (port : Bool) (a : HostAccess) : State :=
  let off := (hostRange a).1
  let n := (hostRange a).2
  let m := s.staged port
  let old := leNat (Store.getList 0 m off n)
  let put := fun (v : Nat) =>
    let m' := Store.setList 0 m off (leBytes n v)
    if port then { s with staged1 := m' } else { s with staged0 := m' }
  let reply := fun (s : State) => { s with out := s.out ++ [OutMsg.windowRead port (BitVec.ofNat 64 old)] }
  match a with
  | .load .. => reply s
  | .store _ _ v => put v.toNat
  | .atomic _ _ op x y => reply (put (hostAtomic op n old x.toNat y.toNat))

/-- A key of a die's window. -/
def windowKey (die : Bool) (a : HostAccess) : Nat := windowBase + die.toNat * 2 ^ 20 + (hostRange a).1

/-- An access to a window, which waits for the recall of a line that an engine command owns (R232). -/
def State.windowOrWait (s : State) (port die : Bool) (a : HostAccess) : State :=
  if s.owned (windowKey die a) (hostRange a).2 then
    if s.hostWaits.contains (port, die, a) then s else { s with hostWaits := s.hostWaits ++ [(port, die, a)] }
  else ({ s with hostWaits := s.hostWaits.erase (port, die, a) } : State).windowAccess port die a

/-- HOST_WINDOW_ACCESS: to the window of a die, or in recovery to the port's staging area. -/
def execHostWindowAccess (port die : Bool) (a : HostAccess) (s : State) : Res :=
  let r := hostRange a
  if !s.hostUp port || decide (8 < r.2) then .next s
  else if s.boot = 3 then
    if r.1 + r.2 ≤ stagingSize then .next (s.stageAccess port a) else .next s
  else if s.boot = 2 ∧ r.1 + r.2 ≤ 2 ^ 20 then .next (s.windowOrWait port die a)
  else .next s

end Sys2Proof.Machine
end

