-- ==== Sys2Proof/Machine/Errors.lean ====
section
/-! DEFINITION. Detected errors (R455 to R457), the bound on remote-die copies (R230), and fault records
that waited for room (R450). -/

namespace Sys2Proof.Machine

/-- Event 8: an error that was corrected, or that cost only a copy that can be had again. -/
def State.logCorrected (s : State) (src at' : Nat) : State := s.logEvent src 8 1 none (leBytes 8 at')

/-- CORRECTED_ERROR: nothing that a program can observe changes. -/
def execCorrectedError (source : Nat) (addr : DWord) (s : State) : Res := .next (s.logCorrected source addr.toNat)

/-- The flake of a home is poisoned. -/
def State.homeError (s : State) (pa : Nat) : State :=
  (s.poisonFlake pa).logError (if homeOfPa pa then 585 else 584) none (pa / 32 * 32) false

/-- A unit holds dirty bytes of a flake. -/
def State.dirtyFlake (s : State) (unit pa : Nat) : Bool :=
  (List.range 32).any fun i => (s.copyByte unit (pa / 32 * 32 + i)).dirty

/-- Drop a unit's copy of a flake, to be fetched again. -/
def State.dropFlake (s : State) (unit pa : Nat) : State :=
  (s.dropCopies unit fun j => j / 32 == pa / 32).logCorrected (copySrc unit) (pa / 32 * 32)

/-- An error in an L1. Of a flake of its own die, the core's stores on their way to it are performed, which leaves it
dirty; an error in a dirty one is found as the flake is read (R67, R457), and an error that nothing reads shows nowhere:
the event is the finding. A dirty flake of the other die keeps its error until it is read. -/
def State.l1Error (s : State) (core pa : Nat) : State :=
  let s := s.drainIf fun f => f.core == core && flakeOf f.key == flakeOf pa && decide (dieOfCore core = 1) == f.home &&
    !s.flightHeld fun g => g.serial == f.serial
  match s.l1own.find? fun o => o.core == core && o.meets (pa / 32 * 32) 32 with
  | some o => s.failOwn o
  | none =>
    if s.dirtyFlake core pa then
      (List.range 32).foldl (fun s i =>
        let k := pa / 32 * 32 + i
        let c := s.copyByte core k
        if c.dirty then s.setCopy core k { c with bad := true } else s) s
    else s.dropFlake core pa

/-- An entry of a die's firn buffer is for a flake. -/
def FirnEntry.hits (die : Bool) (pa : Nat) (e : FirnEntry) : Bool := e.die == die && flakeOf e.pa == flakeOf pa

/-- An error in the firn SRAM poisons the contributions it strikes, which the boundary applies as poison (R242). -/
def State.firnError (s : State) (die : Bool) (pa : Nat) : State :=
  if s.firn.any (FirnEntry.hits die pa) then
    ({ s with firn := s.firn.map fun (e : FirnEntry) => if e.hits die pa then { e with poison := true } else e } :
      State).logError (if die then 585 else 584) none (pa / 32 * 32) false
  else s.logCorrected (if die then 585 else 584) (pa / 32 * 32)

/-- UNCORRECTABLE_ERROR (R455, Table 6). -/
def execUncorrectableError (site : ErrSite) (s : State) : Res :=
  let addNew := fun (l : List Nat) (x : Nat) => if l.contains x then l else l ++ [x]
  match site with
  | .hbm pa => .next (s.homeError pa)
  | .l2 pa dirty =>
    .next (if dirty then s.homeError pa else s.logCorrected (if homeOfPa pa then 585 else 584) (pa / 32 * 32))
  | .l1 core pa => .next (s.l1Error core pa)
  | .rdc die pa =>
    .next (if s.dirtyFlake (rdcUnit die) pa then s.failCopy (rdcUnit die) pa else s.dropFlake (rdcUnit die) pa)
  | .scratch n word =>
    let c := s.crew n
    .next ((s.setCrew n { c with spPoison := addNew c.spPoison word }).logError c.core (some (s.grid c.grid).ctx)
      (4 * word) false)
  | .vreg tok lane reg => .next (s.modTeam tok fun t => { t with vErr := addNew t.vErr (vkey reg lane) })
  | .sreg tok reg => .next (s.modTeam tok fun t => { t with sErr := addNew t.sErr reg })
  | .slot core slot unit =>
    .next ((s.modCore core fun c => { c with slotPoison := addNew c.slotPoison (slot * 1024 + unit) }).logError core none
      (slot * 8192 + unit * 8) false)
  | .acc core bank cell =>
    .next ((s.modCore core fun c => { c with accPoison := addNew c.accPoison (bank * 4096 + cell) }).logError core none
      (bank * 4096 + cell) false)
  | .path r =>
    if (s.path r).live then
      .next ((s.takeStop r { cause := 23 }).logError (s.coreOf r) (some (s.ctxOf r)) 0 true)
    else .next s
  | .icache core | .macroStore core => .next (s.logCorrected core 0)
  | .link port => .next (s.logCorrected (590 + port) 0)
  | .firn die pa => .next (s.firnError die pa)
  | .crossing => .next (s.logCorrected 622 0)

/-- REMOTE_COPY_BOUND_EXPIRY (R230): a copy that has been held for 2^20 cycles since its fill, or since the write that
made it dirty, is written back where dirty, and dropped. It is written back through the remote-data cache, so that
no older byte follows it. -/
def execRemoteCopyBoundExpiry (unit flake : Nat) (s : State) : Res :=
  let mine := fun (k : Nat) => k / 32 == flake
  let s := if unit < 576 then s.flushHome unit mine else s.writeBack unit mine
  .next (s.dropCopies unit mine)

/-- A record as it is written now: SAVED tells whether its team is saved (R450). -/
def State.markSaved (s : State) (bs : List Byte) : List Byte :=
  let h := BitVec.ofNat 64 (leNat (bs.take 8))
  let hit := fun (p : Path) => p.stop.any fun x => x.handle == h
  if s.saved.any fun v => v.teams.any fun t => hit t.2.path0 || hit t.2.path1 then
    bs.set 11 (bs.getD 11 0 ||| 4)
  else bs

/-- FAULT_RECORD_DEFERRED_WRITE (R450): room has appeared for the first record that waits. -/
def execFaultRecordDeferredWrite (c : Nat) (s : State) : Res :=
  match (s.ctx c).heldRec with
  | [] => .next s
  | b :: bs =>
    if s.fqRoom c then
      .next ((s.modCtx c fun x => { x with heldRec := bs, fqFull := !bs.isEmpty }).fqWrite c (s.markSaved b))
    else .next s

end Sys2Proof.Machine
end

