-- ==== Sys2Proof/Machine/System.lean ====
section
/-! DEFINITION. The system instructions (R400 to R406) and the timeouts of waits (R313, R406). -/

namespace Sys2Proof.Machine

/-! ### `csrr` and `csrw` (R400) -/

/-- A control register that holds a field of access wc. -/
def csrWc (addr : Nat) : Bool := addr == 0x1004

/-- The writer of a team's own access: its core and its context (R460). -/
def State.writer (s : State) (r : PathRef) : Writer := ⟨s.coreOf r, some (s.ctxOf r)⟩

/-- The semaphore source of a team. -/
def semTeam (r : PathRef) : SemSource := .team (BitVec.ofNat 32 r.tok)

/-- `csrr`. A semaphore is read at the end of the tick; SCANDATA advances its offset. -/
def execCsrr (d : SReg) (addr : BitVec 16) (s : State) : Res :=
  issued s fun r =>
    let a := addr.toNat
    s.legalIf r (csrListed a) <| s.privileged r <|
      if isSem a then (s.semAsk (semTeam r) (a - 0x4000) false 0 (some r)).waitFor r (.sem (a - 0x4000) d)
      else if a = 0x4069 then
        let x := s.scanRead (s.coreOf r) (some (s.ctxOf r))
        (x.1.sset r d x.2).advance r 2
      else (s.sset r d (s.csrRead a (unitOf a (s.coreOf r)))).advance r 2

/-- The value a `csrw` forms. -/
def csrNew (op : CsrOp) (old x : DWord) : DWord :=
  match op with
  | .write => x
  | .set => old ||| x
  | .clear => old &&& ~~~ x

/-- `csrw`: it waits until everything earlier has completed. -/
def execCsrw (op : CsrOp) (addr : BitVec 16) (a : SReg) (s : State) : Res :=
  issued s fun r =>
    let n := addr.toNat
    s.legalIf r (csrListed n && !(csrWc n && op != .write)) <| s.privileged r <|
      if (s.path r).flags != 0 then s.waitFor r (.flags (s.path r).flags)
      else if s.late.any fun l => l.r.tok == r.tok then s.waitFor r .late
      else
        s.release r .device fun s =>
          let unit := unitOf n (s.coreOf r)
          let v := csrNew op (s.csrRead n unit) (s.sget r a)
          if isSem n then (s.semAsk (semTeam r) (n - 0x4000) true v (some r)).advance r 2
          else (s.advance r 2).csrWrite (s.writer r) n unit v.toNat

/-! ### `tret` (R401, R449, R451) -/

/-- What `tret` does to a stop. -/
inductive Act where
  | res
  | val (x : DWord)
  | kill
  deriving DecidableEq, Repr

/-- Stops that only a kill ends (R451, R456). -/
def Stop.killOnly (p : Stop) : Bool :=
  p.cause == 15 || (p.cause == 16 && p.sub == 2) || (p.cause == 19 && p.sub == 1) || p.cause == 20 || p.cause == 23 ||
  (p.cause == 14 && p.sub == 4)

/-- The path that holds a stop. -/
def Path.holds (p : Path) (h : BitVec 64) : Bool := p.live && p.stop.any fun x => x.handle == h

/-- Act on a stopped path that is resident. -/
def State.tretPath (s : State) (q : PathRef) (act : Act) : State :=
  let dead := ((s.path q).stop.map Stop.killOnly).getD false
  match act with
  | .kill => s.killTeam q.tok
  | .res => if dead then s.killTeam q.tok else s.resume q
  | .val x => if dead then s.killTeam q.tok else (s.sset q 1 x).resume q

/-- Act on a stopped path of a saved team: it takes effect on the state that will be restored. -/
def Team.tretSaved (t : Team) (b : Bool) (act : Act) : Team :=
  let dead := ((t.path b).stop.map Stop.killOnly).getD false
  let go := fun (t : Team) => t.setPath b { t.path b with wait := .none, stop := Option.none }
  match act with
  | .kill => { t with killed := true }
  | .res => if dead then { t with killed := true } else go t
  | .val x => if dead then { t with killed := true } else go (t.sset 1 x)

/-- The saved team and path that hold a stop. -/
def State.savedStop (s : State) (h : BitVec 64) : Option (Nat × Nat × Bool) :=
  s.saved.findSome? fun v => v.teams.findSome? fun t =>
    if t.2.killed then none
    else if t.2.path0.holds h then some (v.crew.grid, t.1, false)
    else if t.2.path1.holds h then some (v.crew.grid, t.1, true)
    else none

/-- Change a saved team. -/
def State.modSaved (s : State) (tok : Nat) (f : Team → Team) : State :=
  { s with saved := s.saved.map fun (v : SavedCrew) =>
      { v with teams := v.teams.map fun t => if t.1 = tok then (t.1, f t.2) else t } }

/-- Act on an engine stop: the access is retried, or the command aborted (R449). -/
def State.tretEngine (s : State) (e : EngCmd) (late : Bool) (act : Act) : State :=
  match act with
  | .kill => s.engAbort e
  | _ => s.modEngine e.serial fun x => { x with phase := if late then .finished else .queued }

/-- The command that holds an engine stop. -/
def State.engineStopped (s : State) (h : BitVec 64) : Option (EngCmd × Bool) :=
  s.engines.findSome? fun e => match e.phase with
    | .stopped k late => if k == h then some (e, late) else none
    | _ => none

/-- `tret`: a handle that names no stop, or one of another partition, is ignored and logged. -/
def State.tret (s : State) (r : PathRef) (h : BitVec 64) (act : Act) : State :=
  let mine := fun (c : Nat) => s.ctxPart c == s.ctxPart (s.ctxOf r)
  let no := s.refused (s.writer r) 0 h.toNat
  match s.allPaths.find? fun q => (s.path q).holds h with
  | some q => if mine (s.ctxOf q) then s.tretPath q act else no
  | none =>
    match s.savedStop h with
    | some (g, tok, b) => if mine (s.grid g).ctx then s.modSaved tok fun t => t.tretSaved b act else no
    | none =>
      match s.engineStopped h with
      | some (e, late) => if mine e.ctx then s.tretEngine e late act else no
      | none => no

def execTretRes (a _b : SReg) (s : State) : Res :=
  issued s fun r => s.privileged r ((s.advance r 1).tret r (s.sget r a) .res)
def execTretVal (a b : SReg) (s : State) : Res :=
  issued s fun r => s.privileged r ((s.advance r 1).tret r (s.sget r a) (.val (s.sget r b)))
def execTretKill (a _b : SReg) (s : State) : Res :=
  issued s fun r => s.privileged r ((s.advance r 1).tret r (s.sget r a) .kill)

/-- `ecall` (R402): a stop like `trap`'s, at the word that follows. -/
def execEcall (n : BitVec 8) (s : State) : Res :=
  issued s fun r =>
    let pc := (s.path r).pc
    (s.advance r 1).takeStop r { cause := 22, sub := n.toNat, word := some pc }

/-! ### `tlbi` and `sfence` (R403, R404) -/

/-- Drop the TLB entries that satisfy a test, in every TLB of both dies. -/
def State.tlbDrop (s : State) (f : TlbEntry → Bool) : State := { s with tlb := s.tlb.filter fun e => !f e }

/-- The context number of a register. -/
def ctxNum (x : DWord) : Nat := x.toNat % 2 ^ 20

/-- An access of a context that is on its way, its translation taken: a store or atomic in flight, or a load unbound. -/
def State.onWay (s : State) (part : Nat → Bool) : Bool :=
  (s.flight.any fun f => part f.ctx && s.flightHeld fun g => g == f) ||
    s.pend.any fun p => part (s.ctxOf p.r) && s.bindHeld p

/-- Matching entries go, and what has used an old translation is performed before the instruction completes: no access
uses it after that (R403, R444). Where such an access waits to cross the dies, so does the instruction. -/
def State.tlbi (s : State) (r : PathRef) (ctxs : Nat → Bool) (f : TlbEntry → Bool) : State :=
  let s := s.tlbDrop f
  if s.onWay ctxs then s.waitFor r .room
  else ((s.bindIf fun p _ => ctxs (s.ctxOf p.r)).drainIf fun g => ctxs g.ctx).advance r 1

def execTlbiPage (d a : SReg) (s : State) : Res :=
  issued s fun r =>
    let va := (s.sget r d).toNat
    let c := ctxNum (s.sget r a)
    s.privileged r <| s.tlbi r (fun x => x == c) fun e =>
      e.ctx == c && decide (e.vbase ≤ va) && decide (va < e.vbase + e.size)
def execTlbiCtx (a : SReg) (s : State) : Res :=
  issued s fun r =>
    let c := ctxNum (s.sget r a)
    s.privileged r <| s.tlbi r (fun x => x == c) fun e => e.ctx == c
def execTlbiPart (s : State) : Res :=
  issued s fun r =>
    let mine := fun x => s.ctxPart x == s.ctxPart (s.ctxOf r)
    s.privileged r <| s.tlbi r mine fun e => mine e.ctx

/-- `sfence`: it waits for the path's stores and atomics, and the tables are read. -/
def execSfence (s : State) : Res :=
  issued s fun r =>
    s.privileged r <|
      if (s.flight.any fun f => f.of r) || (s.reqs.any fun q => q.r == r && !q.ended) || s.outHeld (s.coreOf r) .device then
        s.waitFor r .room
      else ((s.releaseAct r .device).readTables).advance r 1

/-! ### `frz` (R405) -/

/-- `frz`: a team that freezes its own context waits for it. -/
def execFrz (a : SReg) (s : State) : Res :=
  issued s fun r =>
    s.privileged r <|
      let c := ctxNum (s.sget r a)
      let w := s.writer r
      let own := c == s.ctxOf r && (s.ctx c).record.valid
      let s := s.frzRequest w.src 0x4060 w.ctx c false
      if own then s.waitFor r .frz else s.advance r 1

def execFrzThaw (a : SReg) (s : State) : Res :=
  issued s fun r =>
    let w := s.writer r
    s.privileged r ((s.frzRequest w.src 0x4060 w.ctx (ctxNum (s.sget r a)) true).advance r 1)

/-! ### `wfi` and timeouts (R406, R313) -/

/-- `wfi`: a pending reason ends it at once. -/
def execWfi (d a : SReg) (s : State) : Res :=
  issued s fun r =>
    s.privileged r <|
      let p := s.path r
      if p.pend0 then (s.modPath r fun p => { p with pend0 := false }).endWait r d 0
      else if p.pend2 then (s.modPath r fun p => { p with pend2 := false }).endWait r d 2
      else s.waitFor r (.wfi (s.deadline (s.sget r a)) d)

/-- A path's crew runs: neither gated nor frozen. -/
def State.running (s : State) (r : PathRef) : Bool := !(s.crewOf r).gated && !(s.crewOf r).frozen

/-- WFI_TIMEOUT: reason 1. -/
def execWfiTimeout (r : PathRef) (s : State) : Res :=
  match (s.path r).wait with
  | .wfi (some t) d => if s.running r then .next ((s.passTo t).endWait r d 1) else .next s
  | _ => .next s

/-- MWAIT_TIMEOUT: reason 1; the monitor is disarmed. -/
def execMwaitTimeout (r : PathRef) (s : State) : Res :=
  match (s.path r).wait with
  | .mwait (some t) d =>
    if s.running r then .next (((s.passTo t).modPath r fun p => { p with monitor := none }).endWait r d 1) else .next s
  | _ => .next s

end Sys2Proof.Machine
end

