-- ==== Sys2Proof/Machine/Dispatch.lean ====
section
/-! DEFINITION. The meaning of each instruction and event: one arm per constructor of Instr, each one
call of its meaning. -/

namespace Sys2Proof.Machine

/-- Execute one instruction, or let one event come about. -/
def exec (i : Instr) (s : State) : Host.Outcome State Fault Refusal :=
  match i with
  | .nop => Sys2Proof.Machine.execNop s
  | .bra off_ => Sys2Proof.Machine.execBra off_ s
  | .bsz a_ off_ => Sys2Proof.Machine.execBsz a_ off_ s
  | .bsnz a_ off_ => Sys2Proof.Machine.execBsnz a_ off_ s
  | .brp neg_ p_ toff_ joff_ => Sys2Proof.Machine.execBrp neg_ p_ toff_ joff_ s
  | .bany p_ off_ => Sys2Proof.Machine.execBany p_ off_ s
  | .ball p_ off_ => Sys2Proof.Machine.execBall p_ off_ s
  | .join => Sys2Proof.Machine.execJoin s
  | .jmpiVector a_ b_ joff_ => Sys2Proof.Machine.execJmpiVector a_ b_ joff_ s
  | .jmpiUniform b_ => Sys2Proof.Machine.execJmpiUniform b_ s
  | .call d_ off_ => Sys2Proof.Machine.execCall d_ off_ s
  | .calli d_ a_ => Sys2Proof.Machine.execCalli d_ a_ s
  | .ret a_ => Sys2Proof.Machine.execRet a_ s
  | .exit => Sys2Proof.Machine.execExit s
  | .macroWord m_ p0_ p1_ => Sys2Proof.Machine.execMacroWord m_ p0_ p1_ s
  | .yield => Sys2Proof.Machine.execYield s
  | .trap n_ => Sys2Proof.Machine.execTrap n_ s
  | .sadd w_ u_ d_ a_ b_ => Sys2Proof.Machine.execSadd w_ u_ d_ a_ b_ s
  | .ssub w_ u_ d_ a_ b_ => Sys2Proof.Machine.execSsub w_ u_ d_ a_ b_ s
  | .smul w_ u_ d_ a_ b_ => Sys2Proof.Machine.execSmul w_ u_ d_ a_ b_ s
  | .smulh w_ u_ d_ a_ b_ => Sys2Proof.Machine.execSmulh w_ u_ d_ a_ b_ s
  | .sdiv w_ u_ d_ a_ b_ => Sys2Proof.Machine.execSdiv w_ u_ d_ a_ b_ s
  | .srem w_ u_ d_ a_ b_ => Sys2Proof.Machine.execSrem w_ u_ d_ a_ b_ s
  | .sand w_ u_ d_ a_ b_ => Sys2Proof.Machine.execSand w_ u_ d_ a_ b_ s
  | .sor w_ u_ d_ a_ b_ => Sys2Proof.Machine.execSor w_ u_ d_ a_ b_ s
  | .sxor w_ u_ d_ a_ b_ => Sys2Proof.Machine.execSxor w_ u_ d_ a_ b_ s
  | .sshl w_ u_ d_ a_ b_ => Sys2Proof.Machine.execSshl w_ u_ d_ a_ b_ s
  | .sshr w_ u_ d_ a_ b_ => Sys2Proof.Machine.execSshr w_ u_ d_ a_ b_ s
  | .ssra w_ u_ d_ a_ b_ => Sys2Proof.Machine.execSsra w_ u_ d_ a_ b_ s
  | .smin w_ u_ d_ a_ b_ => Sys2Proof.Machine.execSmin w_ u_ d_ a_ b_ s
  | .smax w_ u_ d_ a_ b_ => Sys2Proof.Machine.execSmax w_ u_ d_ a_ b_ s
  | .scmp c_ p_ u_ a_ b_ => Sys2Proof.Machine.execScmp c_ p_ u_ a_ b_ s
  | .ssel d_ a_ b_ p_ all_ => Sys2Proof.Machine.execSsel d_ a_ b_ p_ all_ s
  | .smov d_ a_ => Sys2Proof.Machine.execSmov d_ a_ s
  | .sli d_ md_ lit_ => Sys2Proof.Machine.execSli d_ md_ lit_ s
  | .slea d_ a_ b_ k_ => Sys2Proof.Machine.execSlea d_ a_ b_ k_ s
  | .sbfe d_ a_ pos_ len_ sx_ => Sys2Proof.Machine.execSbfe d_ a_ pos_ len_ sx_ s
  | .sbfi d_ a_ pos_ len_ => Sys2Proof.Machine.execSbfi d_ a_ pos_ len_ s
  | .sbit op_ w_ d_ a_ => Sys2Proof.Machine.execSbit op_ w_ d_ a_ s
  | .sr d_ sel_ => Sys2Proof.Machine.execSr d_ sel_ s
  | .sw sel_ a_ => Sys2Proof.Machine.execSw sel_ a_ s
  | .add d_ a_ b_ => Sys2Proof.Machine.execAdd d_ a_ b_ s
  | .sub d_ a_ b_ => Sys2Proof.Machine.execSub d_ a_ b_ s
  | .mul d_ a_ b_ => Sys2Proof.Machine.execMul d_ a_ b_ s
  | .mulh d_ a_ b_ => Sys2Proof.Machine.execMulh d_ a_ b_ s
  | .mad d_ a_ b_ => Sys2Proof.Machine.execMad d_ a_ b_ s
  | .min d_ a_ b_ => Sys2Proof.Machine.execMin d_ a_ b_ s
  | .max d_ a_ b_ => Sys2Proof.Machine.execMax d_ a_ b_ s
  | .abs d_ a_ => Sys2Proof.Machine.execAbs d_ a_ s
  | .neg d_ a_ => Sys2Proof.Machine.execNeg d_ a_ s
  | .and d_ a_ b_ => Sys2Proof.Machine.execAnd d_ a_ b_ s
  | .or d_ a_ b_ => Sys2Proof.Machine.execOr d_ a_ b_ s
  | .xor d_ a_ b_ => Sys2Proof.Machine.execXor d_ a_ b_ s
  | .not d_ a_ => Sys2Proof.Machine.execNot d_ a_ s
  | .shl d_ a_ b_ => Sys2Proof.Machine.execShl d_ a_ b_ s
  | .shr d_ a_ b_ => Sys2Proof.Machine.execShr d_ a_ b_ s
  | .sra d_ a_ b_ => Sys2Proof.Machine.execSra d_ a_ b_ s
  | .rot d_ a_ b_ => Sys2Proof.Machine.execRot d_ a_ b_ s
  | .bfe d_ a_ pos_ len_ => Sys2Proof.Machine.execBfe d_ a_ pos_ len_ s
  | .bfi d_ a_ pos_ len_ => Sys2Proof.Machine.execBfi d_ a_ pos_ len_ s
  | .bcnt op_ d_ a_ => Sys2Proof.Machine.execBcnt op_ d_ a_ s
  | .cmp c_ p_ a_ b_ => Sys2Proof.Machine.execCmp c_ p_ a_ b_ s
  | .sel d_ a_ b_ p_ neg_ => Sys2Proof.Machine.execSel d_ a_ b_ p_ neg_ s
  | .mov d_ a_ => Sys2Proof.Machine.execMov d_ a_ s
  | .movs d_ hi_ a_ => Sys2Proof.Machine.execMovs d_ hi_ a_ s
  | .li d_ lit_ => Sys2Proof.Machine.execLi d_ lit_ s
  | .lid d_ => Sys2Proof.Machine.execLid d_ s
  | .fadd d_ a_ b_ => Sys2Proof.Machine.execFadd d_ a_ b_ s
  | .fsub d_ a_ b_ => Sys2Proof.Machine.execFsub d_ a_ b_ s
  | .fmul d_ a_ b_ => Sys2Proof.Machine.execFmul d_ a_ b_ s
  | .ffma d_ a_ b_ => Sys2Proof.Machine.execFfma d_ a_ b_ s
  | .fmin d_ a_ b_ => Sys2Proof.Machine.execFmin d_ a_ b_ s
  | .fmax d_ a_ b_ => Sys2Proof.Machine.execFmax d_ a_ b_ s
  | .fabs d_ a_ => Sys2Proof.Machine.execFabs d_ a_ s
  | .fneg d_ a_ => Sys2Proof.Machine.execFneg d_ a_ s
  | .fcmp c_ p_ a_ b_ => Sys2Proof.Machine.execFcmp c_ p_ a_ b_ s
  | .frcp d_ a_ => Sys2Proof.Machine.execFrcp d_ a_ s
  | .frsq d_ a_ => Sys2Proof.Machine.execFrsq d_ a_ s
  | .fsqrt d_ a_ => Sys2Proof.Machine.execFsqrt d_ a_ s
  | .fdiv d_ a_ b_ => Sys2Proof.Machine.execFdiv d_ a_ b_ s
  | .fexp2 d_ a_ => Sys2Proof.Machine.execFexp2 d_ a_ s
  | .flog2 d_ a_ => Sys2Proof.Machine.execFlog2 d_ a_ s
  | .fsin d_ a_ => Sys2Proof.Machine.execFsin d_ a_ s
  | .fcos d_ a_ => Sys2Proof.Machine.execFcos d_ a_ s
  | .fclass d_ a_ => Sys2Proof.Machine.execFclass d_ a_ s
  | .fround d_ a_ => Sys2Proof.Machine.execFround d_ a_ s
  | .cvtf d_ a_ dst_ src_ => Sys2Proof.Machine.execCvtf d_ a_ dst_ src_ s
  | .cvti d_ a_ dst_ src_ => Sys2Proof.Machine.execCvti d_ a_ dst_ src_ s
  | .cvtq d_ a_ b_ e5m2_ => Sys2Proof.Machine.execCvtq d_ a_ b_ e5m2_ s
  | .cvtd d_ a_ b_ e5m2_ => Sys2Proof.Machine.execCvtd d_ a_ b_ e5m2_ s
  | .pk d_ a_ b_ => Sys2Proof.Machine.execPk d_ a_ b_ s
  | .upk d_ a_ h_ => Sys2Proof.Machine.execUpk d_ a_ h_ s
  | .sp8x d_ a_ j_ => Sys2Proof.Machine.execSp8x d_ a_ j_ s
  | .i4x d_ a_ b_ h_ => Sys2Proof.Machine.execI4x d_ a_ b_ h_ s
  | .shfl d_ a_ b_ => Sys2Proof.Machine.execShfl d_ a_ b_ s
  | .shflx d_ a_ n_ mode_ => Sys2Proof.Machine.execShflx d_ a_ n_ mode_ s
  | .bcast d_ a_ lane_ => Sys2Proof.Machine.execBcast d_ a_ lane_ s
  | .vote d_ p_ op_ => Sys2Proof.Machine.execVote d_ p_ op_ s
  | .mcnt d_ p_ => Sys2Proof.Machine.execMcnt d_ p_ s
  | .scan op_ d_ a_ => Sys2Proof.Machine.execScan op_ d_ a_ s
  | .red op_ d_ a_ => Sys2Proof.Machine.execRed op_ d_ a_ s
  | .rank d_ p_ => Sys2Proof.Machine.execRank d_ p_ s
  | .compact d_ a_ p_ => Sys2Proof.Machine.execCompact d_ a_ p_ s
  | .pand all_ d_ a_ b_ => Sys2Proof.Machine.execPand all_ d_ a_ b_ s
  | .por all_ d_ a_ b_ => Sys2Proof.Machine.execPor all_ d_ a_ b_ s
  | .pxor all_ d_ a_ b_ => Sys2Proof.Machine.execPxor all_ d_ a_ b_ s
  | .pnot all_ d_ a_ => Sys2Proof.Machine.execPnot all_ d_ a_ s
  | .pmov all_ d_ a_ => Sys2Proof.Machine.execPmov all_ d_ a_ s
  | .psetClr all_ d_ => Sys2Proof.Machine.execPsetClr all_ d_ s
  | .psetSet all_ d_ => Sys2Proof.Machine.execPsetSet all_ d_ s
  | .psetSc all_ d_ a_ k_ => Sys2Proof.Machine.execPsetSc all_ d_ a_ k_ s
  | .xmset neg_ p_ => Sys2Proof.Machine.execXmset neg_ p_ s
  | .xmget d_ => Sys2Proof.Machine.execXmget d_ s
  | .mode m_ => Sys2Proof.Machine.execMode m_ s
  | .modes a_ => Sys2Proof.Machine.execModes a_ s
  | .lds d_ a_ m_ => Sys2Proof.Machine.execLds d_ a_ m_ s
  | .sts d_ a_ m_ => Sys2Proof.Machine.execSts d_ a_ m_ s
  | .ldsf d_ a_ m_ => Sys2Proof.Machine.execLdsf d_ a_ m_ s
  | .ldse d_ a_ m_ => Sys2Proof.Machine.execLdse d_ a_ m_ s
  | .stsf d_ a_ m_ => Sys2Proof.Machine.execStsf d_ a_ m_ s
  | .stsx d_ a_ m_ => Sys2Proof.Machine.execStsx d_ a_ m_ s
  | .feclr a_ m_ => Sys2Proof.Machine.execFeclr a_ m_ s
  | .feset a_ m_ => Sys2Proof.Machine.execFeset a_ m_ s
  | .feq d_ a_ m_ => Sys2Proof.Machine.execFeq d_ a_ m_ s
  | .fullEmptyWake r_ => Sys2Proof.Machine.execFullEmptyWake r_ s
  | .ldg d_ a_ m_ => Sys2Proof.Machine.execLdg d_ a_ m_ s
  | .stg d_ a_ m_ => Sys2Proof.Machine.execStg d_ a_ m_ s
  | .pfg a_ m_ => Sys2Proof.Machine.execPfg a_ m_ s
  | .cwb a_ m_ => Sys2Proof.Machine.execCwb a_ m_ s
  | .cinv a_ m_ => Sys2Proof.Machine.execCinv a_ m_ s
  | .ldp d_ a_ m_ => Sys2Proof.Machine.execLdp d_ a_ m_ s
  | .rld d_ a_ peer_ m_ => Sys2Proof.Machine.execRld d_ a_ peer_ m_ s
  | .rst d_ a_ peer_ m_ => Sys2Proof.Machine.execRst d_ a_ peer_ m_ s
  | .ratm d_ a_ peer_ m_ => Sys2Proof.Machine.execRatm d_ a_ peer_ m_ s
  | .ratmr d_ a_ peer_ m_ => Sys2Proof.Machine.execRatmr d_ a_ peer_ m_ s
  | .atm d_ a_ m_ => Sys2Proof.Machine.execAtm d_ a_ m_ s
  | .atmr d_ a_ m_ => Sys2Proof.Machine.execAtmr d_ a_ m_ s
  | .cas d_ a_ m_ => Sys2Proof.Machine.execCas d_ a_ m_ s
  | .cas128 d_ a_ m_ => Sys2Proof.Machine.execCas128 d_ a_ m_ s
  | .xchg d_ a_ m_ => Sys2Proof.Machine.execXchg d_ a_ m_ s
  | .tclaim d_ => Sys2Proof.Machine.execTclaim d_ s
  | .trel a_ => Sys2Proof.Machine.execTrel a_ s
  | .tld a_ b_ first_ cnt_ off_ => Sys2Proof.Machine.execTld a_ b_ first_ cnt_ off_ s
  | .tfmt a_ b_ => Sys2Proof.Machine.execTfmt a_ b_ s
  | .mma a_ b_ klen_ => Sys2Proof.Machine.execMma a_ b_ klen_ s
  | .mmaz a_ b_ klen_ => Sys2Proof.Machine.execMmaz a_ b_ klen_ s
  | .mclr banks_ => Sys2Proof.Machine.execMclr banks_ s
  | .mdrainRegister d_ a_ fmt_ clr_ => Sys2Proof.Machine.execMdrainRegister d_ a_ fmt_ clr_ s
  | .mdrainMemory a_ fmt_ red_ clr_ wide_ => Sys2Proof.Machine.execMdrainMemory a_ fmt_ red_ clr_ wide_ s
  | .mcoop a_ b_ klen_ z_ mt_ nt_ => Sys2Proof.Machine.execMcoop a_ b_ klen_ z_ mt_ nt_ s
  | .mcoopRendezvous grid_ cluster_ => Sys2Proof.Machine.execMcoopRendezvous grid_ cluster_ s
  | .tzero a_ => Sys2Proof.Machine.execTzero a_ s
  | .ttrans d_ a_ two_ => Sys2Proof.Machine.execTtrans d_ a_ two_ s
  | .arrayQueueExecute core_ => Sys2Proof.Machine.execArrayQueueExecute core_ s
  | .fence ord_ scope_ => Sys2Proof.Machine.execFence ord_ scope_ s
  | .flwait m_ => Sys2Proof.Machine.execFlwait m_ s
  | .twany d_ a_ => Sys2Proof.Machine.execTwany d_ a_ s
  | .twall a_ => Sys2Proof.Machine.execTwall a_ s
  | .tffr d_ => Sys2Proof.Machine.execTffr d_ s
  | .tclr t_ => Sys2Proof.Machine.execTclr t_ s
  | .bar id_ scope_ => Sys2Proof.Machine.execBar id_ scope_ s
  | .dieArrived grid_ id_ inst_ => Sys2Proof.Machine.execDieArrived grid_ id_ inst_ s
  | .complete grid_ id_ inst_ => Sys2Proof.Machine.execComplete grid_ id_ inst_ s
  | .marm d_ base_ m_ => Sys2Proof.Machine.execMarm d_ base_ m_ s
  | .mwait d_ a_ => Sys2Proof.Machine.execMwait d_ a_ s
  | .mwaitTimeout r_ => Sys2Proof.Machine.execMwaitTimeout r_ s
  | .grin => Sys2Proof.Machine.execGrin s
  | .grout => Sys2Proof.Machine.execGrout s
  | .grq d_ => Sys2Proof.Machine.execGrq d_ s
  | .grwait d_ => Sys2Proof.Machine.execGrwait d_ s
  | .grfree d_ a_ => Sys2Proof.Machine.execGrfree d_ a_ s
  | .grpop d_ => Sys2Proof.Machine.execGrpop d_ s
  | .step d_ => Sys2Proof.Machine.execStep d_ s
  | .stepq d_ => Sys2Proof.Machine.execStepq d_ s
  | .ldacq d_ a_ m_ => Sys2Proof.Machine.execLdacq d_ a_ m_ s
  | .strel d_ a_ m_ => Sys2Proof.Machine.execStrel d_ a_ m_ s
  | .cpy d_ a_ sp_ hold_ tag_ => Sys2Proof.Machine.execCpy d_ a_ sp_ hold_ tag_ s
  | .cpyx d_ a_ hold_ tag_ => Sys2Proof.Machine.execCpyx d_ a_ hold_ tag_ s
  | .gath a_ tag_ => Sys2Proof.Machine.execGath a_ tag_ s
  | .kvap a_ tag_ => Sys2Proof.Machine.execKvap a_ tag_ s
  | .kvseal a_ tag_ => Sys2Proof.Machine.execKvseal a_ tag_ s
  | .kvcopy a_ tag_ => Sys2Proof.Machine.execKvcopy a_ tag_ s
  | .smpl d_ a_ tag_ => Sys2Proof.Machine.execSmpl d_ a_ tag_ s
  | .coll a_ tag_ => Sys2Proof.Machine.execColl a_ tag_ s
  | .spawn len_ a_ b_ => Sys2Proof.Machine.execSpawn len_ a_ b_ s
  | .launch d_ a_ hold_ => Sys2Proof.Machine.execLaunch d_ a_ hold_ s
  | .resolve d_ a_ b_ => Sys2Proof.Machine.execResolve d_ a_ b_ s
  | .wqpop d_ a_ b_ => Sys2Proof.Machine.execWqpop d_ a_ b_ s
  | .wqpush d_ a_ b_ => Sys2Proof.Machine.execWqpush d_ a_ b_ s
  | .cntp d_ a_ b_ => Sys2Proof.Machine.execCntp d_ a_ b_ s
  | .csrr d_ addr_ => Sys2Proof.Machine.execCsrr d_ addr_ s
  | .csrw op_ addr_ a_ => Sys2Proof.Machine.execCsrw op_ addr_ a_ s
  | .tretRes a_ b_ => Sys2Proof.Machine.execTretRes a_ b_ s
  | .tretVal a_ b_ => Sys2Proof.Machine.execTretVal a_ b_ s
  | .tretKill a_ b_ => Sys2Proof.Machine.execTretKill a_ b_ s
  | .ecall n_ => Sys2Proof.Machine.execEcall n_ s
  | .tlbiPage d_ a_ => Sys2Proof.Machine.execTlbiPage d_ a_ s
  | .tlbiCtx a_ => Sys2Proof.Machine.execTlbiCtx a_ s
  | .tlbiPart => Sys2Proof.Machine.execTlbiPart s
  | .frz a_ => Sys2Proof.Machine.execFrz a_ s
  | .frzThaw a_ => Sys2Proof.Machine.execFrzThaw a_ s
  | .wfi d_ a_ => Sys2Proof.Machine.execWfi d_ a_ s
  | .wfiTimeout r_ => Sys2Proof.Machine.execWfiTimeout r_ s
  | .sfence => Sys2Proof.Machine.execSfence s
  | .longLatencyCompletion n_ => Sys2Proof.Machine.execLongLatencyCompletion n_ s
  | .pathMerge tok_ => Sys2Proof.Machine.execPathMerge tok_ s
  | .teamRetirement tok_ => Sys2Proof.Machine.execTeamRetirement tok_ s
  | .gridCompletion grid_ => Sys2Proof.Machine.execGridCompletion grid_ s
  | .gridStart grid_ => Sys2Proof.Machine.execGridStart grid_ s
  | .launchQueueRecord q_ => Sys2Proof.Machine.execLaunchQueueRecord q_ s
  | .cartTimerExpiry cart_ => Sys2Proof.Machine.execCartTimerExpiry cart_ s
  | .clusterPlacement die_ => Sys2Proof.Machine.execClusterPlacement die_ s
  | .timeSliceExpiry grid_ cluster_ => Sys2Proof.Machine.execTimeSliceExpiry grid_ cluster_ s
  | .drainExpiry grid_ cluster_ => Sys2Proof.Machine.execDrainExpiry grid_ cluster_ s
  | .clusterSaveCompletion grid_ cluster_ => Sys2Proof.Machine.execClusterSaveCompletion grid_ cluster_ s
  | .clusterFlushCompletion grid_ cluster_ => Sys2Proof.Machine.execClusterFlushCompletion grid_ cluster_ s
  | .clusterRestoration grid_ cluster_ => Sys2Proof.Machine.execClusterRestoration grid_ cluster_ s
  | .pathAged r_ => Sys2Proof.Machine.execPathAged r_ s
  | .remoteCopyBoundExpiry unit_ flake_ => Sys2Proof.Machine.execRemoteCopyBoundExpiry unit_ flake_ s
  | .pageWalk unit_ ctx_ va_ acc_ who_ => Sys2Proof.Machine.execPageWalk unit_ ctx_ va_ acc_ who_ s
  | .engineCommandStart n_ => Sys2Proof.Machine.execEngineCommandStart n_ s
  | .engineCommandCompletion n_ => Sys2Proof.Machine.execEngineCommandCompletion n_ s
  | .samplerSlotRun n_ slot_ => Sys2Proof.Machine.execSamplerSlotRun n_ slot_ s
  | .adjustKernelCompletion n_ slot_ => Sys2Proof.Machine.execAdjustKernelCompletion n_ slot_ s
  | .watchdog n_ slot_ => Sys2Proof.Machine.execWatchdog n_ slot_ s
  | .faultRecordDeferredWrite ctx_ => Sys2Proof.Machine.execFaultRecordDeferredWrite ctx_ s
  | .keepAlive s_ => Sys2Proof.Machine.execKeepAlive s_ s
  | .remoteTimeout serial_ => Sys2Proof.Machine.execRemoteTimeout serial_ s
  | .ackResend serial_ => Sys2Proof.Machine.execAckResend serial_ s
  | .freezeTakesEffect ctx_ => Sys2Proof.Machine.execFreezeTakesEffect ctx_ s
  | .thawTakesEffect ctx_ => Sys2Proof.Machine.execThawTakesEffect ctx_ s
  | .semaphoreTickServe => Sys2Proof.Machine.execSemaphoreTickServe s
  | .relockEnd die_ => Sys2Proof.Machine.execRelockEnd die_ s
  | .homeAcknowledgement n_ => Sys2Proof.Machine.execHomeAcknowledgement n_ s
  | .valueArrival n_ => Sys2Proof.Machine.execValueArrival n_ s
  | .unassignedOpcode op_ => Sys2Proof.Machine.execUnassignedOpcode op_ s
  | .priorityAging grid_ cluster_ => Sys2Proof.Machine.execPriorityAging grid_ cluster_ s
  | .restorationGuardExpiry grid_ cluster_ => Sys2Proof.Machine.execRestorationGuardExpiry grid_ cluster_ s
  | .hostWindowAccess port_ die_ a_ => Sys2Proof.Machine.execHostWindowAccess port_ die_ a_ s
  | .atsTimeout port_ ctx_ page_ => Sys2Proof.Machine.execAtsTimeout port_ ctx_ page_ s
  | .allocAckTimeout dom_ ver_ peer_ => Sys2Proof.Machine.execAllocAckTimeout dom_ ver_ peer_ s
  | .allocAnswerTimeout req_ => Sys2Proof.Machine.execAllocAnswerTimeout req_ s
  | .resolveAckTimeout dom_ num_ peer_ => Sys2Proof.Machine.execResolveAckTimeout dom_ num_ peer_ s
  | .transactionPacket port_ p_ => Sys2Proof.Machine.execTransactionPacket port_ p_ s
  | .atsTranslationCompletion port_ ctx_ page_ o_ target_ writable_ => Sys2Proof.Machine.execAtsTranslationCompletion port_ ctx_ page_ o_ target_ writable_ s
  | .pageRequestResponse port_ ctx_ page_ o_ => Sys2Proof.Machine.execPageRequestResponse port_ ctx_ page_ o_ s
  | .hostInvalidationRequest port_ ctx_ page_ count_ => Sys2Proof.Machine.execHostInvalidationRequest port_ ctx_ page_ count_ s
  | .hostLinkDown port_ => Sys2Proof.Machine.execHostLinkDown port_ s
  | .collectiveData via_ c_ level_ index_ vals_ => Sys2Proof.Machine.execCollectiveData via_ c_ level_ index_ vals_ s
  | .uncorrectableError site_ => Sys2Proof.Machine.execUncorrectableError site_ s
  | .correctedError source_ addr_ => Sys2Proof.Machine.execCorrectedError source_ addr_ s
  | .arrive via_ s_ node_ => Sys2Proof.Machine.execArrive via_ s_ node_ s
  | .boundaryDecision via_ s_ d_ => Sys2Proof.Machine.execBoundaryDecision via_ s_ d_ s
  | .memberFailure rank_ => Sys2Proof.Machine.execMemberFailure rank_ s
  | .failureQuery via_ s_ => Sys2Proof.Machine.execFailureQuery via_ s_ s
  | .alloc via_ req_ dom_ parent_ => Sys2Proof.Machine.execAlloc via_ req_ dom_ parent_ s
  | .versionNotice via_ n_ v_ => Sys2Proof.Machine.execVersionNotice via_ n_ v_ s
  | .withdraw via_ n_ ver_ => Sys2Proof.Machine.execWithdraw via_ n_ ver_ s
  | .cancel via_ req_ dom_ => Sys2Proof.Machine.execCancel via_ req_ dom_ s
  | .resolveBroadcast via_ n_ committed_ squashed_ => Sys2Proof.Machine.execResolveBroadcast via_ n_ committed_ squashed_ s
  | .holdNotice m_ => Sys2Proof.Machine.execHoldNotice m_ s
  | .linkDown port_ => Sys2Proof.Machine.execLinkDown port_ s
  | .linkUp port_ => Sys2Proof.Machine.execLinkUp port_ s
  | .timeMessage m_ => Sys2Proof.Machine.execTimeMessage m_ s
  | .checkpointStream src_ data_ => Sys2Proof.Machine.execCheckpointStream src_ data_ s
  | .iceboxFinished ok_ => Sys2Proof.Machine.execIceboxFinished ok_ s
  | .frzctlFreeze ctx_ => Sys2Proof.Machine.execFrzctlFreeze ctx_ s
  | .frzctlThaw ctx_ => Sys2Proof.Machine.execFrzctlThaw ctx_ s
  | .icectl ctx_ => Sys2Proof.Machine.execIcectl ctx_ s
  | .poolBoundaryWrite core_ reg_ val_ => Sys2Proof.Machine.execPoolBoundaryWrite core_ reg_ val_ s
  | .doorbell die_ => Sys2Proof.Machine.execDoorbell die_ s
  | .semRead src_ n_ => Sys2Proof.Machine.execSemRead src_ n_ s
  | .semWrite src_ n_ => Sys2Proof.Machine.execSemWrite src_ n_ s
  | .hflush port_ token_ => Sys2Proof.Machine.execHflush port_ token_ s
  | .partWrite n_ val_ => Sys2Proof.Machine.execPartWrite n_ val_ s
  | .clkctl die_ val_ => Sys2Proof.Machine.execClkctl die_ val_ s
  | .d2dconn val_ => Sys2Proof.Machine.execD2dconn val_ s
  | .pq mask_ => Sys2Proof.Machine.execPq mask_ s
  | .portQuiesced port_ => Sys2Proof.Machine.execPortQuiesced port_ s
  | .porten val_ => Sys2Proof.Machine.execPorten val_ s
  | .fmode strict_ => Sys2Proof.Machine.execFmode strict_ s
  | .rankWrite rank_ => Sys2Proof.Machine.execRankWrite rank_ s
  | .stepctlEn val_ => Sys2Proof.Machine.execStepctlEn val_ s
  | .firnsize die_ val_ => Sys2Proof.Machine.execFirnsize die_ val_ s
  | .controlRegisterWrite src_ addr_ unit_ val_ => Sys2Proof.Machine.execControlRegisterWrite src_ addr_ unit_ val_ s
  | .go port_ => Sys2Proof.Machine.execGo port_ s
  | .railFail rail_ => Sys2Proof.Machine.execRailFail rail_ s
  | .powerLimitWrite die_ f_ => Sys2Proof.Machine.execPowerLimitWrite die_ f_ s
  | .railTelemetryRead rail_ => Sys2Proof.Machine.execRailTelemetryRead rail_ s
  | .getVersion chan_ => Sys2Proof.Machine.execGetVersion chan_ s
  | .getCapabilities chan_ => Sys2Proof.Machine.execGetCapabilities chan_ s
  | .negotiateAlgorithms chan_ => Sys2Proof.Machine.execNegotiateAlgorithms chan_ s
  | .getDigests chan_ => Sys2Proof.Machine.execGetDigests chan_ s
  | .getCertificate chan_ slot_ off_ len_ => Sys2Proof.Machine.execGetCertificate chan_ slot_ off_ len_ s
  | .challenge chan_ slot_ nonce_ => Sys2Proof.Machine.execChallenge chan_ slot_ nonce_ s
  | .getMeasurements chan_ index_ => Sys2Proof.Machine.execGetMeasurements chan_ index_ s
  | .unsupportedRequest chan_ code_ => Sys2Proof.Machine.execUnsupportedRequest chan_ code_ s
  | .inputPowerApplied railsGood_ => Sys2Proof.Machine.execInputPowerApplied railsGood_ s
  | .hostLinkUp port_ => Sys2Proof.Machine.execHostLinkUp port_ s
  | .scandata => Sys2Proof.Machine.execScandata s
  | .dqSet => Sys2Proof.Machine.execDqSet s
  | .dqClear => Sys2Proof.Machine.execDqClear s
  | .dieToDieQuiesced => Sys2Proof.Machine.execDieToDieQuiesced s
  | .circuitChangeDone => Sys2Proof.Machine.execCircuitChangeDone s
  | .resume => Sys2Proof.Machine.execResume s
  | .pwrgdRise => Sys2Proof.Machine.execPwrgdRise s
  | .resetnLow => Sys2Proof.Machine.execResetnLow s
  | .resetnRelease => Sys2Proof.Machine.execResetnRelease s

end Sys2Proof.Machine
end

