-- ==== Sys2Proof/Machine/Sched.lean ====
section
/-! DEFINITION. Which agent moves next when the agenda names none: what is due inside the device, then
a ready path in the order of R47 and R432. -/

namespace Sys2Proof.Machine

/-- Taking a path up again that waits for room or for a full/empty word would change it. -/
def State.stirs (s : State) (r : PathRef) : Bool :=
  let p := s.path r
  let same := fun (t : State) => decide ({ t.path r with age := p.age } = p)
  if p.polls then
    match s.takeUp r with
    | .over t => !same t
    | .run i t =>
      match exec i t with
      | .next u => !same u
      | _ => true
  else true

/-- Every ready path. -/
def State.readyPaths (s : State) : List PathRef := (s.allPaths.filter s.isReady).filter s.stirs

/-- The counters of the paths that were ready in an earlier state, but for one that issued, advance by the
cycles of their dies since then. One that would only wait for room again is not ready (assumption 64). -/
def State.ageFrom (s before : State) (issued : Option PathRef) : State :=
  let n0 := before.die0.ran s.die0
  let n1 := before.die1.ran s.die1
  if n0 = 0 ∧ n1 = 0 then s
  else
    { s with teams := s.teams.map fun x =>
        let n := if before.dieOf x.2 then n1 else n0
        let ready := fun (b : Bool) => before.isReady ⟨x.1, b⟩ && before.stirs ⟨x.1, b⟩ && issued != some ⟨x.1, b⟩
        (x.1, { x.2 with path0 := x.2.path0.ageBy (ready false) n, path1 := x.2.path1.ageBy (ready true) n }) }

/-- The sequencers that have a ready path, in order. -/
def seqsOf : List Nat → List Nat
  | [] => []
  | x :: xs => if (seqsOf xs).contains x then seqsOf xs else x :: seqsOf xs

/-- The paths of a sequencer that are ready. -/
def State.rivals (s : State) (q : Nat) : List PathRef := s.readyPaths.filter fun r => s.seqOf r == q

/-- The next path to issue on the whole device: the sequencers take turns. -/
def State.pick (s : State) : Option PathRef :=
  let l := s.readyPaths
  let seqs := seqsOf (l.map s.seqOf)
  match seqs[s.fresh % seqs.length]? with
  | none => none
  | some q => s.choose q (s.rivals q)

/-- A path may issue now: its sequencer chooses it (R47, R432). -/
def State.mayIssue (s : State) (r : PathRef) : Bool :=
  s.isReady r && s.choose (s.seqOf r) (s.rivals (s.seqOf r)) == some r

/-- Take up a path that its sequencer chooses; one that it does not choose stays as it is. -/
def State.issue (s : State) (r : PathRef) : Taken := if s.mayIssue r then s.takeUp r else .over s

/-! ### What is due inside the device -/

/-- The port at which a request of the device to itself is checked: the first whose table holds its key
(the manual names none, assumption 21). -/
def State.loopPort (s : State) (p : Packet) : Nat :=
  match s.mship.find? fun e => e.2.1 == p.jobkey with
  | some e => e.1 / 64
  | none => 0

/-- Memory operations, results and register writes on their way, requests of the device to itself, and the
semaphore unit. -/
def State.dueTraffic (s : State) : List (List Instr) :=
  [if s.dq && !s.dqd then [Instr.dieToDieQuiesced] else [], ((s.flight.find? fun f => !s.flightHeld fun g => g.serial == f.serial).map fun f => Instr.homeAcknowledgement f.serial).toList,
   (s.late.head?.map fun l => Instr.valueArrival l.serial).toList,
   (s.pend.filter fun p => !p.held).map fun p => Instr.longLatencyCompletion p.serial,
   ((s.reqs.find? fun q => q.packet.dst == s.rank && !q.looped).map fun q =>
     Instr.transactionPacket (s.loopPort q.packet) q.packet).toList,
   if s.semReqs.isEmpty then [] else [Instr.semaphoreTickServe],
   s.hostWaits.map fun w => Instr.hostWindowAccess w.1 w.2.1 w.2.2]

/-- The bound on remote-die copies (R230): the ticks from now until it is over for a byte, at the frequency of its
die; none where its clock has stopped. -/
def State.copyDue (s : State) (unit : Nat) (c : CopyByte) : Option Nat :=
  let b := decide (dieOfUnit unit = 1)
  let f := (s.die b).f
  let left := 2 ^ 20 - (s.unitCyc unit + 2 ^ 64 - c.since) % 2 ^ 64
  if s.stopped b && left != 0 then none else some (s.tsc + (10 * left + f - 1) / f)

/-- The 100 ms that a host port waits for a page (R445), in ticks. -/
def pageTicks : Nat := 10 ^ 8

/-- What comes about by itself, with the tick at which it is due: grids whose dependences are met, relocks, freezes and thaws, circuit changes,
carts, timeouts, the bound on remote-die copies, watchdogs and slices. -/
def State.deadlines (s : State) : List (Nat × Instr) :=
  let relock := fun (d : Bool) => ((s.die d).relock.map fun t => (t + relockTicks, Instr.relockEnd d)).toList
  let paths := s.allPaths.filterMap fun r => match (s.path r).wait with
    | .mwait (some t) _ => some (t, Instr.mwaitTimeout r)
    | .wfi (some t) _ => some (t, Instr.wfiTimeout r)
    | _ => none
  let ft := (s.csrGet 0x4086 0).toNat * us
  let reqs := (s.reqs.filter fun q => !q.suspended && !q.ended).flatMap fun q =>
    [(q.sent + ft, Instr.remoteTimeout q.serial), (q.sent + (q.resends + 1) * ft / 4, Instr.ackResend q.serial)]
  let atoms := (s.flight.filter fun f => match f.op with | .atomic .. => true | .write _ => false).map fun f =>
    (f.sent + ft, Instr.homeAcknowledgement f.serial)
  let acks := s.doms.flatMap fun x =>
    (x.2.allocs.flatMap fun a => a.waiting.map fun p => (a.sent + ft, Instr.allocAckTimeout x.1 a.ver p)) ++
    x.2.resolves.flatMap fun y => y.waiting.map fun p => (y.sent + ft, Instr.resolveAckTimeout x.1 y.num p)
  let msgs := s.podOut.map fun x => (x.sent + (x.resends + 1) * ft / 4, Instr.ackResend x.p.serial)
  let alive := if s.begun && s.stepGroup && s.position != 0 then
      [(s.aliveAt + Nat.min (100 * us) (ft / 4), Instr.keepAlive s.stepNo)] else []
  let answers := s.allocReqs.map fun a => (a.sent + 2 * ft, Instr.allocAnswerTimeout a.req)
  let pages := s.prqOut.map fun q => (q.sent + pageTicks, Instr.atsTimeout q.port q.ctx q.page)
  let copies := s.copies.filterMap fun x =>
    (s.copyDue (x.1 / 2 ^ 60) x.2).map fun t => (t, Instr.remoteCopyBoundExpiry (x.1 / 2 ^ 60) (x.1 % 2 ^ 60 / 32))
  let dogs := s.engines.flatMap fun e => match e.kind with
    | .smpl c => c.phases.zipIdx.filterMap fun x => match x.1 with
        | .calling _ h budget used start =>
          if s.watchdogDue h budget used start then some (s.tsc, Instr.watchdog e.serial x.2) else none
        | _ => none
    | _ => []
  let drains := s.grids.flatMap fun g => g.2.clusters.filterMap fun c =>
    if g.2.live && c.phase == .draining then some (c.saveStart + s.effSlice g.2 * us, Instr.drainExpiry g.1 c.idx) else none
  (s.grids.filterMap fun g => if s.startable g.1 then some (s.tsc, Instr.gridStart g.1) else none) ++
  relock false ++ relock true ++
  (s.frzReqs.map fun q => (q.due, if q.thaw then Instr.thawTakesEffect q.ctx else Instr.freezeTakesEffect q.ctx)) ++
  (s.busy.map fun t => (t, Instr.circuitChangeDone)).toList ++
  (s.carts.map fun c => (c.due, Instr.cartTimerExpiry c.id)) ++ paths ++ reqs ++ msgs ++ alive ++ atoms ++ acks ++ answers ++ pages ++ copies ++ dogs ++ drains

/-- The ticks still to come at which a dispatcher looks again (R424, R433), and the end of the earliest tick that has
semaphore requests (R412). -/
def State.looks (s : State) : List (Nat × Instr) :=
  let later := fun (t : Option Nat) (i : Instr) => (t.filter fun t => decide (s.tsc < t)).toList.map fun t => (t, i)
  (s.grids.flatMap fun g => if !g.2.live then [] else g.2.clusters.flatMap fun c =>
    later (s.sliceAt g.1 c.idx) (.timeSliceExpiry g.1 c.idx) ++ later (s.agingAt g.1 c.idx) (.priorityAging g.1 c.idx) ++
    later (s.guardAt g.1 c.idx) (.restorationGuardExpiry g.1 c.idx)) ++
  match s.semReqs with
  | [] => []
  | q :: _ => [((s.semReqs.map fun x => x.tick).foldl Nat.min q.tick + 1, .semaphoreTickServe)]

/-- Paths that meet: merges, retirements, rendezvous and the messages of barriers. -/
def State.duePaths (s : State) : List Instr :=
  ((s.liveTeams.filter fun t => t.2.canMerge && !s.still t.1).map fun t => Instr.pathMerge t.1) ++
  ((s.liveTeams.filter fun t => t.2.allEnded && s.teamIdle t.1 && !s.still t.1).map fun t => Instr.teamRetirement t.1) ++
  s.allPaths.flatMap fun r => match (s.path r).wait with
    | .mcoop => [Instr.mcoopRendezvous (s.crewOf r).grid (s.crewOf r).cluster]
    | .bar .grid id n => [Instr.dieArrived (s.crewOf r).grid id n, Instr.complete (s.crewOf r).grid id n]
    | _ => []

/-- What the slots of a sampler command are due for. -/
def State.dueSlots (s : State) (e : EngCmd) : List Instr :=
  match e.kind with
  | .smpl c => c.phases.zipIdx.flatMap fun x => match x.1 with
    | .waiting => [Instr.samplerSlotRun e.serial x.2]
    | .calling _ h _ _ _ => if (s.grid h).phase == .complete then [Instr.adjustKernelCompletion e.serial x.2] else []
    | .ended _ => []
  | _ => []

/-- Engines and arrays at work. -/
def State.dueUnits (s : State) : List Instr :=
  ((s.cores.filter fun c => !c.2.queue.isEmpty).map fun c => Instr.arrayQueueExecute c.1) ++
  s.engines.flatMap fun e => match e.phase with
    | .queued => [Instr.engineCommandStart e.serial]
    | .finished => [Instr.engineCommandCompletion e.serial]
    | .running => s.dueSlots e
    | _ => []

/-- The dispatcher: grids, queues, placement, saves and restorations. -/
def State.dueDispatch (s : State) : List Instr :=
  let grids := s.grids.filter fun g => g.2.live && g.2.phase != .complete
  (grids.map fun g => Instr.gridCompletion g.1) ++
  (parts.flatMap fun p => ((s.dueQueues p).head?.map Instr.launchQueueRecord).toList) ++
  (grids.flatMap fun g => g.2.clusters.flatMap fun c => match c.phase with
    | .saving => [Instr.clusterSaveCompletion g.1 c.idx]
    | .flushing => [Instr.clusterFlushCompletion g.1 c.idx]
    | .resident => [Instr.clusterRestoration g.1 c.idx]
    | _ => []) ++
  (if grids.isEmpty then [] else [Instr.clusterPlacement false, Instr.clusterPlacement true])

/-- Fault records that waited for room. -/
def State.dueRecords (s : State) : List Instr :=
  (s.ctxs.filter fun c => !c.2.heldRec.isEmpty).map fun c => Instr.faultRecordDeferredWrite c.1

/-- An event does something. -/
def State.moves (s : State) (i : Instr) : Bool :=
  match exec i s with
  | .next t => t != s
  | _ => false

/-- Put a deadline in its place: the earlier first. -/
def dueInsert (x : Nat × Instr) : List (Nat × Instr) → List (Nat × Instr)
  | [] => [x]
  | y :: ys => if x.1 < y.1 then x :: y :: ys else y :: dueInsert x ys

/-- What time brings up to a tick: the earliest such event that does something. -/
def State.timedEvent (s : State) (limit : Nat) : Option Instr :=
  ((((s.deadlines ++ s.looks).filter fun x => decide (x.1 ≤ limit)).foldl (fun l x => dueInsert x l) []).map fun x => x.2).find? s.moves

/-- The tick to which a turn carries the device: that of the deadline it names. -/
def State.reaches (s : State) : Turn → Nat
  | .event (.pathAged r) => s.agedAt r
  | .event i => (((s.deadlines ++ s.looks).find? fun x => x.2 == i).map fun x => x.1).getD s.tsc
  | _ => s.tsc

/-- A list begun at another place. -/
def rotate {α : Type} (k : Nat) (l : List α) : List α := l.drop (k % l.length) ++ l.take (k % l.length)

/-- What else is due inside the device, if anything: the first event that does something. The kinds of events
take turns to be first, so that none starves another. -/
def State.dueEvent (s : State) : Option Instr :=
  (rotate (s.fresh / 8) (s.dueTraffic ++ [s.duePaths, s.dueUnits, s.dueRecords, s.dueDispatch])).flatten.find? s.moves

/-- The rest of the device takes one step in eight before the paths; else it moves when no path may issue.
The manual fixes no interleaving (R17, R227). -/
def State.unitsFirst (s : State) : Bool := s.fresh % 8 == 0

/-- Who moves next when nothing is due and the agenda names nobody. -/
def State.turn (s : State) : Option Turn :=
  if s.unitsFirst then
    match s.dueEvent with
    | some i => some (.event i)
    | none => s.pick.map .issue
  else
    match s.pick with
    | some r => some (.issue r)
    | none => s.dueEvent.map .event

end Sys2Proof.Machine
end

