-- ==== Sys2Proof/Machine/Step.lean ====
section
/-! DEFINITION. One step of the device: the next turn of the agenda, or what is due inside the device,
or a ready path's next word; then time passes. -/

namespace Sys2Proof.Machine

/-- After a move from a state: the device arrives at its boundary if it may, and observes its queues, time passes, and the paths that were
ready and did not issue age (R432). -/
def settle (b : State) : Res → Res
  | .next s =>
    let t := ({ s with cur := none } : State).stepCheck.watchQueues
    .next (t.tick.ageFrom b s.cur)
  | .fault r => .fault r
  | .refused r => .refused r

/-- A path did not issue. -/
def idle : Res → Res
  | .next s => .next { s with cur := none }
  | x => x

/-- Execute an instruction that a path took up. Where it waits at its issue, it has not issued yet. -/
def State.runIssue (s : State) (r : PathRef) (i : Instr) : Res :=
  match exec i (s.noteIssue r) with
  | .next t => if (t.path r).waitsAtIssue then idle (exec i s) else .next t
  | x => x

/-- Execute what a path took up. -/
def runTaken (r : PathRef) : Taken → Res
  | .over s => idle (.next s)
  | .run i s => s.runIssue r i

/-- Take a turn. -/
def State.move (s : State) : Turn → Res
  | .event i => settle s (exec i { s with cur := none })
  | .issue r => settle s (runTaken r (s.issue r))
  | .land n k => settle s (.next (s.landEarly n k))
  | .hostRead port off => settle s (.next (s.hostRead port off))
  | .hostStore key bytes => settle s (.next (s.hostStore key bytes))

/-- The turn that the device takes without the agenda, if any. -/
def State.free (s : State) : Res :=
  match s.turn with
  | some t => s.move t
  | none => settle s (.next s)

/-- One step: what time brings before anything else, then the agenda, then what is due or ready. -/
def step (s : State) : Host.Outcome State Fault Refusal :=
  match s.agenda with
  | t :: rest =>
    match s.timedEvent (s.reaches t) with
    | some i => s.move (.event i)
    | none => ({ s with agenda := rest } : State).move t
  | [] =>
    match s.timedEvent s.tsc with
    | some i => s.move (.event i)
    | none => s.free

/-! ### Placing one instruction where a step fetches (notes/assumptions/4.md) -/

/-- The address of the bench's instruction, and its place in a clause with slots A and B (R119, R125). -/
def benchPc : Nat := 0x1000
def benchHeader : Header := ⟨0, true, 0, true, 1, 15⟩

/-- The bench's path, which runs in context 0. -/
def benchRef : PathRef := ⟨1, false⟩

/-- An opcode that only a uniform team of role matrix may execute. -/
def benchUniform (op : Nat) : Bool := [0x93, 0x94, 0x95, 0x96, 0x98].contains op

/-- A `md.TYPE` that the opcode admits: i32, f32 or bf16x2. -/
def benchType (op : Nat) : Nat :=
  if (0x42 ≤ op ∧ op ≤ 0x54) ∨ op = 0x5B then 2 else if op = 0x59 ∨ op = 0x5A ∨ op = 0x5C then 3 else 0

/-- The bench's team: one path in its clause, all lanes active. -/
def benchTeam (op : Nat) : Team :=
  let u := benchUniform op
  let t : Team := { Team.none with
    live := true, crew := 1, num := if u then 8 else 0, width := if u then 1 else 32, budget := if u then 0 else 256,
    role := if u then Role.matrix else Role.work }
  { t with path0 := { Path.none with
      live := true, pc := BitVec.ofNat 64 benchPc, inClause := true, hdrAddr := BitVec.ofNat 64 (benchPc - 4),
      hdrWord := benchHeader.encode, xm := t.allLanes, md := BitVec.ofNat 24 (benchType op * 32) } }

/-- The bench's crew, which holds its core's array, and its grid at kernel level. -/
def benchCrew : Crew :=
  { Crew.none with live := true, grid := 1, size := 16384, matrix := true, teams := [1], demand := 32768 }
def benchGrid : Grid := { Grid.none with live := true, kernel := true, phase := .runnable }

/-- The device with an instruction of the opcode table stored where its next step fetches: a program comes
to run only once system software has placed a crew, so this sets up the crew, its context and the
translation of the page fetched. -/
def State.withFetchWord (s : State) (nbits w : Nat) : State :=
  let ws := tableWords nbits w
  let op := (opOf ws.1).toNat
  { s with
    boot := 2, tlb := [⟨0, 0, 0, 2 ^ 30, 0, false, false, false, 0xF⟩], teams := [(1, benchTeam op)],
    crews := [(1, benchCrew)], grids := [(1, benchGrid)],
    ctxs := [(0, { Ctx.none with record := ⟨true, 0, 0, 0, 0, 1, 0, 0⟩ })], agenda := [.issue benchRef],
    mem := Store.setList 0 s.mem benchPc (bytesOfWord ws.1 ++ bytesOfWord ws.2) }

end Sys2Proof.Machine
end

