-- ==== Sys2Proof/Safety.lean ====
section
/-! DEFINITION. What a safe run is, and the vocabulary of the statements: the path that issues, what an
instruction leaves unchanged (its frame), and the answers the statements speak of. -/

namespace Sys2Proof

open Machine

/-- A step is safe when it answers a next state. -/
def SafeStep (s : State) : Prop := ∃ t, step s = .next t

/-- A run of n steps is safe when no step of it stops the machine. -/
def SafeRun (n : Nat) (s : State) : Prop := ∃ t, core.run n s = .next t

/-- The path r exists and is the one that issues. -/
structure Issuing (s : State) (r : PathRef) : Prop where
  cur  : s.cur = some r
  live : (s.path r).live = true

/-- The lane takes part in the path's next vector instruction (R138). -/
def Active (s : State) (r : PathRef) (l : Nat) : Prop := l ∈ lanesOf (s.team r.tok) (s.active r)

/-- Every byte of memory reads as before. -/
def SameMemory (s t : State) : Prop := ∀ a, t.memByte a = s.memByte a

/-- Nothing but the teams changed: memory, control registers, crews and their scratchpads, cores and their
arrays, traffic, engines, grids, contexts, clocks and all else are as before. -/
def OnlyTeams (s t : State) : Prop := t = { s with teams := t.teams }

/-- Beside its registers and the path r itself, the team of r is as before, and so is every other team. -/
structure TeamFrame (s t : State) (r : PathRef) : Prop where
  others : ∀ k, k ≠ r.tok → t.team k = s.team k
  path   : ∀ b, b ≠ r.path → (t.team r.tok).path b = (s.team r.tok).path b
  fixed  : ((t.team r.tok).live, (t.team r.tok).crew, (t.team r.tok).num, (t.team r.tok).width,
      (t.team r.tok).role, (t.team r.tok).budget) =
    ((s.team r.tok).live, (s.team r.tok).crew, (s.team r.tok).num, (s.team r.tok).width,
      (s.team r.tok).role, (s.team r.tok).budget)
  held   : ((t.team r.tok).retired, (t.team r.tok).grace, (t.team r.tok).divided, (t.team r.tok).djoin,
      (t.team r.tok).barArr, (t.team r.tok).stepMember, (t.team r.tok).stepAt, (t.team r.tok).killed) =
    ((s.team r.tok).retired, (s.team r.tok).grace, (s.team r.tok).divided, (s.team r.tok).djoin,
      (s.team r.tok).barArr, (s.team r.tok).stepMember, (s.team r.tok).stepAt, (s.team r.tok).killed)

/-- Vector registers, uniform registers and lane masks as before. -/
def SameV (s t : State) (r : PathRef) : Prop := ∀ q l, t.vget r q l = s.vget r q l
def SameS (s t : State) (r : PathRef) : Prop := ∀ q, t.sget r q = s.sget r q
def SameP (s t : State) (r : PathRef) : Prop := ∀ q, t.pget r q = s.pget r q

/-- A path that has transferred control: the rest of its clause is abandoned (R123). -/
def Jumped (p : Path) (pc : DWord) : Path :=
  { p with
    pc := pc, inClause := false, widx := 0, ll := 0, mac := none, done := 0, wait := .none, stop := none }

/-- An instruction that writes one uniform register and leaves its path as p: s0 discards the write, and
every other register, flag and byte of memory is as before. -/
def WritesSTo (i : Instr) (s : State) (r : PathRef) (d : SReg) (v : DWord) (p : Path) : Prop :=
  ∃ t, exec i s = .next t ∧ (∀ q, t.sget r q = if q = d ∧ d ≠ 0 then v else s.sget r q) ∧
    t.path r = p ∧ SameV s t r ∧ SameP s t r ∧ TeamFrame s t r ∧ OnlyTeams s t ∧ SameMemory s t

/-- The same, of an instruction of n words, which the path moves past. -/
def WritesS (i : Instr) (s : State) (r : PathRef) (d : SReg) (v : DWord) (n : Nat) : Prop :=
  WritesSTo i s r d v ((s.path r).advance n)

/-- An instruction of n words that writes one lane-mask register whole: bits above the width are dropped. -/
def WritesP (i : Instr) (s : State) (r : PathRef) (d : PReg) (m : Mask) (n : Nat) : Prop :=
  ∃ t, exec i s = .next t ∧ (∀ q, t.pget r q = if q = d then m &&& (s.team r.tok).allLanes else s.pget r q) ∧
    t.path r = (s.path r).advance n ∧ SameV s t r ∧ SameS s t r ∧ TeamFrame s t r ∧ OnlyTeams s t ∧ SameMemory s t

/-- The vector registers an operand of a type names (R185). -/
def eRegs (ty : ElemType) (d : VReg) : List VReg := if ty.pair then [d, d + 1] else [d]

/-- An instruction of n words that writes one vector operand in the active lanes, and may set sticky STATUS
bits: every inactive lane, every other register and every byte of memory is as before. -/
def WritesV (i : Instr) (s : State) (r : PathRef) (ty : ElemType) (d : VReg) (val : Nat → Nat) (st : BitVec 7)
    (n : Nat) : Prop :=
  ∃ t, exec i s = .next t ∧
    (∀ l, Active s r l → (t.team r.tok).eget ty d l = val l % 2 ^ (if ty.pair then 64 else 32)) ∧
    (∀ q l, l < 1024 → ¬ (Active s r l ∧ q ∈ eRegs ty d) → t.vget r q l = s.vget r q l) ∧
    t.path r = { (s.path r).advance n with status := (s.path r).status ||| st } ∧
    SameS s t r ∧ SameP s t r ∧ TeamFrame s t r ∧ OnlyTeams s t ∧ SameMemory s t

/-- An instruction that moves its path and changes nothing else of its team, nor anything beside. -/
def Moves (i : Instr) (s : State) (r : PathRef) (p : Path) : Prop :=
  ∃ t, exec i s = .next t ∧ t.path r = p ∧ SameV s t r ∧ SameS s t r ∧ SameP s t r ∧ TeamFrame s t r ∧
    OnlyTeams s t ∧ SameMemory s t

/-- The same, where the path only moves past the instruction's n words. -/
def MovesOn (i : Instr) (s : State) (r : PathRef) (n : Nat) : Prop := Moves i s r ((s.path r).advance n)

/-- The instruction takes an illegal-instruction fault at itself, and nothing else (R142, R447). -/
def Illegal (i : Instr) (s : State) (r : PathRef) : Prop := exec i s = .next (s.takeStop r { cause := 1 })

/-- The STATUS bits of the active lanes, together. -/
def laneStatus (s : State) (r : PathRef) (f : Nat → BitVec 7) : BitVec 7 :=
  ((lanesOf (s.team r.tok) (s.active r)).map f).foldl (· ||| ·) 0

/-- A release at a scope, where the order carries one, goes on at the state u. -/
def ReleaseGoes (s : State) (r : PathRef) (b : Bool) (sc : Scope) (u : State) : Prop :=
  ∀ k, s.releaseIf r b sc k = k u

/-- An acquire at a scope, where there is one, goes on at the state u; `fence` says that it promotes the loads
before it. -/
def AcquireGoes (s : State) (r : PathRef) (b fence : Bool) (sc : Scope) (u : State) : Prop :=
  ∀ k, s.acquire r b fence sc k = k u

/-- The release and then the acquire of an order at a scope go on at the state u. -/
def OrderGoes (s : State) (r : PathRef) (o : Order) (sc : Scope) (u : State) : Prop :=
  ∀ k, (s.releaseIf r (releases o) sc fun t => t.acquire r (acquires o) false sc k) = k u

/-- Nothing that the path has on its way, and no load of its team that has not bound, touches n bytes at a key,
and no crossing between the dies holds an access to them. -/
structure Untouched (s : State) (r : PathRef) (home : Bool) (k n : Nat) : Prop where
  idle  : ∀ f ∈ s.flight, f.of r = true → f.sync = false ∧ meets f.key f.size k n = false
  bound : ∀ p ∈ s.pend, ∀ l, p.loads = some l → p.r.tok = r.tok → ∀ e ∈ l.lanes, meets e.2.2.1 l.size.bytes k n = false
  cross : s.meetHeld r home k n = false

/-- An access of n bytes at va by a lane, in version 0, that reaches device memory homed on the core's own die at a
key: nothing the path has in flight touches it, no other core holds it dirty, no engine command owns it, and it is
not poisoned. -/
structure PlainAccess (s : State) (r : PathRef) (acc : Access) (n : Nat) (va : DWord) (lane : Nat) (x : Xlat) :
    Prop where
  reach   : s.reach r acc n va lane = .ok (x, .device)
  own     : ∀ o ∈ s.l1own, o.core = s.coreOf r ∨ o.meets x.key n = false
  place   : isHostKey x.key = false
  near    : remoteDie (s.coreOf r) x.home x.key = false
  version : s.verOf r = 0
  free    : s.owned x.key n = false
  sound   : s.poisonedIn (s.domOf r) 0 x.key n = false
  quiet   : Untouched s r x.home x.key n

/-- The miss entries that accesses of n bytes need, pass by pass: one for each flake of a pass (R75). -/
def missesFor (n : Nat) (ea : Nat → DWord) (lanes : List Nat) : Nat :=
  ((passesOf lanes).map fun p => (p.flatMap fun l => flakesOf n (ea l)).eraseDups.length).sum

/-- Those entries are free in the path's core. -/
def MissesFree (s : State) (r : PathRef) (n : Nat) (ea : Nat → DWord) : Prop :=
  missesFor n ea (s.memLanes r) ≤ missEntries - s.missesUsed (s.coreOf r)

end Sys2Proof
end

