-- ==== Sys2Proof/Certificates/Slice0/Obligations.lean ====
section
/-! DEFINITION. The statements for the provers, from the manual's numbered rules: encoding, memory, the
step, and for each family what its instructions answer and leave unchanged. -/

open Sys2Proof Sys2Proof.Machine

/-! ### Encoding (R119 to R142) -/

/-- R119 to R140: decoding the words of any well-formed instruction gives the instruction back, whatever
word follows a one-word instruction. -/
def Obligations.DecodeOfEncode : Prop :=
  ∀ (i : Instr) (w : Word), i.WellFormed →
    (encode i = [w] → ∀ lit, decode w lit = .ok i) ∧ (∀ lit, encode i = [w, lit] → decode w lit = .ok i)

/-- R131, R134, R142: an instruction is read only from the words that encode it, and it is well-formed: no
spare bit is dropped; every word of an unassigned opcode is that opcode's illegal instruction. -/
def Obligations.DecodeSound : Prop :=
  ∀ (w lit : Word) (i : Instr), decode w lit = .ok i →
    i.WellFormed ∧ isHeader w = false ∧
      (if unassigned (opOf w) then i = .unassignedOpcode (opOf w)
       else encode i = if wordsOf w = 2 then [w, lit] else [w])

/-- A few words written out from the encoding tables decode to the instructions they stand for (sanity). -/
def Obligations.DecodeWords : Prop :=
  decodeTableWord 32 0x00000000 = some .nop ∧
  decodeTableWord 32 0x01FFFFFF = some (.bra 0xFFFFFF) ∧
  decodeTableWord 32 0x10C3847F = some (.sadd true true 3 4 (.imm 0x7F)) ∧
  decodeTableWord 32 0x28010203 = some (.add 1 2 3) ∧
  decodeTableWord 32 0x4A120304 = some (.fcmp .lt 2 3 4) ∧
  decodeTableWord 64 0x41000008_79054607 = some (.ldg 5 ⟨6, some 7, false⟩ ⟨.b32, .team, .acq, 0, 0, 8⟩) ∧
  decodeTableWord 32 0x90050000 = some (.tclaim 5) ∧
  decodeTableWord 32 0xC0060000 = none

/-! ### Reset, memory and registers -/

/-- R399, R477, R484, R487: the machine at step 1 of its reset: the TSC and both dies' counters at 0, both dies
at 0.6 GHz below the ceiling of 20, every register of the control space at the reset value of its table, nothing
placed, no step made; memory is in its canonical form and lists no byte. Power, boot state and memory as they
stand are the model's (assumptions 3 and 5). -/
def Obligations.ResetState : Prop :=
  let s := State.reset
  s.tsc = 0 ∧ s.boot = 0 ∧
  (∀ d, (s.die d).f = 6 ∧ (s.die d).cyc = 0 ∧ (s.die d).scc = 0 ∧ (s.die d).fmax = 20 ∧ (s.die d).relock = none) ∧
  (∀ addr unit, s.csrGet addr unit = csrReset addr) ∧ (∀ h, s.csrRead 0x2000 h = 7) ∧ s.csrRead 0x3020 0 = 6 ∧
  s.stepNo = 0 ∧ (∀ d, (s.dom d).accept = 0x80) ∧
  (∀ k, (s.team k).live = false ∧ (s.crew k).live = false ∧ (s.grid k).live = false ∧ (s.ctx k).record.valid = false) ∧
  (∀ n, (s.sem n).held = false) ∧ Memory.wf s.mem = true ∧ s.mem = []

/-- Every step keeps memory in its canonical form: addresses strictly rising, and no byte listed that an
unlisted address reads as. That an unlisted address reads as 0 is the model's choice (assumption 3). -/
def Obligations.StepKeepsMemoryCanonical : Prop :=
  ∀ s t : State, Memory.wf s.mem = true → step s = .next t → Memory.wf t.mem = true

/-- R5: a value stored little-endian in device memory, or in host memory through its home L2, reads back, the byte at the lowest address holding its bits 7 to 0, and
every byte outside the stored ones reads as before. -/
def Obligations.LittleEndianReadAfterWrite : Prop :=
  ∀ (s : State) (k n x : Nat),
    (isHostKey (k + n - 1) = isHostKey k → (s.putBytes k (leBytes n x)).memNat k n = x % 2 ^ (8 * n)) ∧
    (0 < n → (s.putBytes k (leBytes n x)).memByte k = BitVec.ofNat 8 x) ∧
    ∀ a, a < k ∨ k + n ≤ a → (s.putBytes k (leBytes n x)).memByte a = s.memByte a

/-- R12, R13: `s0` reads zero and ignores writes; a lane-mask register reads zero above the width of the team,
and a write there is dropped; a write to a register leaves the others. -/
def Obligations.RegisterFiles : Prop :=
  ∀ (t : Team) (d q : SReg) (v : DWord) (e p : PReg) (m : Mask),
    t.sget 0 = 0 ∧ (t.sset 0 v).sget q = t.sget q ∧
    (d ≠ 0 → (t.sset d v).sget d = v) ∧ (q ≠ d → (t.sset d v).sget q = t.sget q) ∧
    (∀ l, t.width ≤ l → l < 1024 → (t.pget e).getLsbD l = false) ∧
    (∀ l, l < t.width → l < 1024 → ((t.pset e m).pget e).getLsbD l = m.getLsbD l) ∧
    (p ≠ e → (t.pset e m).pget p = t.pget p)

/-! ### The step, stops and returns (R119 to R142, R447 to R453) -/

/-- The state in which a path's word is taken up: its wait is over, and it issues. -/
def takenUp (s : State) (r : PathRef) : State :=
  { s.modPath r fun p => { p with wait := .none } with cur := some r }

/-- A word that a path may fetch at an address, unpoisoned, owned by no command and not held at the die-to-die
connection, and the state after the fetch: the word is as the path sees it, and in a version the copies it read are
the most recently used; a pod-shared word is that of the last boundary (R240). No word comes from an immediate
window (R89). -/
def Fetches (s : State) (r : PathRef) (va : DWord) (w : Word) (u : State) : Prop :=
  ∃ x t, s.translate (s.coreOf r) (s.ctxOf r) (s.kernel r) .fetch va (some r) = .ok x ∧
    s.poisonedAt (s.coreOf r) x.home (s.domOf r) (s.verOf r) x.key 4 = false ∧ s.owned x.key 4 = false ∧
    s.loadHeld (s.coreOf r) x.home s.nextSer = false ∧
    s.target (s.ctxOf r) va.toNat x = some t ∧ t ≠ .imm ∧
    match t with
    | .pod .. => s.arrived = false ∧ wordOfList (s.homeBytes 0 0 x.key 4) = w ∧ u = s
    | _ => wordOfList (s.viewBytes r x.home x.key 4) = w ∧
        u = if s.verOf r = 0 then s else s.useSpans (s.domOf r) (s.verOf r) x.key

/-- Nothing holds an instruction of the team back between its decoding and its execution: no late value, no
load that has not bound, no note of poison, no register in error. -/
def Unheld (s : State) (r : PathRef) : Prop :=
  (∀ l ∈ s.late, l.r.tok ≠ r.tok) ∧ (∀ p ∈ s.pend, p.loads = none) ∧ (s.path r).live = true ∧
  (s.path r).poison = [] ∧ (s.team r.tok).vErr = [] ∧ (s.team r.tok).sErr = []

/-- The turn of a path that its sequencer chooses, with nothing due before it. That an agenda names the mover is the
model's choice (assumption 1). -/
def Turns (s : State) (r : PathRef) (rest : List Turn) : Prop :=
  s.agenda = .issue r :: rest ∧ s.timedEvent s.tsc = none ∧ ({ s with agenda := rest } : State).mayIssue r = true

/-- A step from s runs the instruction i as the path r at u: it is executed with its issue noted, or, where it
only begins to wait at its issue, without; a stop of the instruction is the step's. That the issue of a path that only
begins to wait is not noted is the model's choice (assumption 43). -/
def RunsAs (s s0 : State) (r : PathRef) (i : Instr) (u : State) : Prop :=
  (∀ t, exec i (u.noteIssue r) = .next t → (t.path r).waitsAtIssue = false → step s = settle s0 (.next t)) ∧
  (∀ t, exec i (u.noteIssue r) = .next t → (t.path r).waitsAtIssue = true → step s = settle s0 (idle (exec i u))) ∧
  (∀ e, exec i (u.noteIssue r) = .fault e → step s = .fault e) ∧
  (∀ e, exec i (u.noteIssue r) = .refused e → step s = .refused e)

/-- A step from s ends at u without an issue. -/
def EndsAs (s s0 u : State) : Prop := step s = settle s0 (.next { u with cur := none })

/-- R122, R125, R142, R154: a step of a ready path whose turn it is, inside its clause, runs the instruction that
its word and the literal within the clause decode to; a word that decodes to none, a header, and an instruction
whose literal lies beyond the clause are illegal there. A stored operation of a `macro` word runs as the
instruction that it decodes to with its parameters in place. Who moves is the agenda's, and a path that only begins to
wait is not counted as having issued: both are the model's choice (assumptions 1 and 43). -/
def Rules.StepRunsTheDecodedInstruction : Prop :=
  ∀ (s : State) (r : PathRef) (rest : List Turn), Turns s r rest →
    let s0 : State := { s with agenda := rest }
    let v := takenUp s0 r
    let p := v.path r
    let len := (headerOf p.hdrWord).len.toNat
    p.live = true →
    (∀ w u, p.mac = none → p.inClause = true → p.widx ≤ len → Fetches v r p.pc w u →
      (isHeader w = true → EndsAs s s0 (u.illegal r)) ∧
      (isHeader w = false → wordsOf w = 2 → len < p.widx + 1 → EndsAs s s0 (u.illegal r)) ∧
      (∀ lit u2, isHeader w = false →
        ((wordsOf w ≠ 2 ∧ lit = 0 ∧ u2 = u) ∨ (wordsOf w = 2 ∧ p.widx + 1 ≤ len ∧ Fetches u r (p.pc + 4) lit u2)) →
        (∀ e, decode w lit = .error e → EndsAs s s0 (u2.illegal r)) ∧
        (∀ i, decode w lit = .ok i → Unheld u2 r → RunsAs s s0 r i u2))) ∧
    (∀ m o i, p.mac = some m → ((v.crewOf r).macros.getD m.num [])[m.idx]? = some o → macroLegal o.w0 o.w1 = true →
      decode (substOp m o) o.w1 = .ok i → Unheld v r → RunsAs s s0 r i v)

/-- R121, R122: at a clause's header a path waits while a flag of its WAIT is busy; a word there that is no
header, or a malformed one, is illegal; else the path enters the clause and takes up its first word. -/
def Rules.ClauseEntry : Prop :=
  ∀ (s : State) (r : PathRef) (rest : List Turn) (w : Word) (u : State), Turns s r rest →
    let s0 : State := { s with agenda := rest }
    let v := takenUp s0 r
    let p := v.path r
    p.live = true → p.mac = none →
    (p.inClause = false ∨ (headerOf p.hdrWord).len.toNat < p.widx) → Fetches v r p.pc w u →
    (isHeader w = false ∨ (headerOf w).malformed = true → EndsAs s s0 (u.illegal r)) ∧
    (isHeader w = true → (headerOf w).malformed = false →
      (p.flags &&& (headerOf w).wait ≠ 0 → EndsAs s s0 (u.waitFor r (.flags (headerOf w).wait))) ∧
      (p.flags &&& (headerOf w).wait = 0 → waitNote p.poison (headerOf w).wait = none →
        step s = settle s0 (runTaken r ((u.modPath r fun p =>
          { p with inClause := true, hdrAddr := p.pc, hdrWord := w, widx := 0, ll := 0, pc := p.pc + 4 }).issueClause r))))

/-- R121, R122, R125, R142, R154: a step of a ready path enters a clause at its header, and inside it runs the instruction decoded at its PC. -/
def Obligations.StepsAndClauses : Prop :=
  Rules.StepRunsTheDecodedInstruction ∧ Rules.ClauseEntry

/-- R447, R448, R450, R451: taking a stop. The path keeps its PC, its clause position and its done mask, and is no
longer ready; its stop has the context's next serial in its handle; with room in the fault queue one record is
written there, its handle, cause, sub-cause and PC first among its bytes, and PIDX advances. -/
def Obligations.TakingAStop : Prop :=
  ∀ (s : State) (r : PathRef) (i : StopInfo), Issuing s r → (s.path r).stop = none →
    let c := s.ctxOf r
    let queue := (s.ctx c).record.fqbase
    let h : DWord := BitVec.ofNat 64 (c % 2 ^ 20 + ((s.ctx c).serial + 1) * 2 ^ 24)
    let t := s.takeStop r i
    let p := s.path r
    let q := t.path r
    (q.pc, q.inClause, q.hdrAddr, q.widx, q.ll, q.done, q.xm) =
      (p.pc, p.inClause, p.hdrAddr, p.widx, p.ll, p.done, p.xm) ∧
    q.wait = .stopped ∧ q.stop = some ⟨h, i.cause, i.sub⟩ ∧ t.isReady r = false ∧
    (t.ctx c).serial = (s.ctx c).serial + 1 ∧
    SameV s t r ∧ SameP s t r ∧
    (((s.team r.tok).path (!r.path)).live = false → p.woke = none → SameS s t r) ∧
    (isHostKey (queue + 64 + 128 * (s.ctx c).record.fqsize) = isHostKey queue → (s.ctx c).heldRec = [] → s.fqRoom c = true →
      let base := queue
      let pidx := s.memNat base 4
      let rec' := base + 64 + 128 * (pidx % (s.ctx c).record.fqsize)
      t.memNat base 4 = (pidx + 1) % 2 ^ 32 ∧ t.memNat rec' 8 = h.toNat ∧ t.memNat (rec' + 8) 2 = i.cause % 2 ^ 16 ∧
      t.memNat (rec' + 10) 1 = i.sub % 2 ^ 8 ∧ t.memNat (rec' + 16) 8 = (i.word.getD p.pc).toNat ∧
      ∀ a, (a < base ∨ base + 4 ≤ a) → (a < rec' ∨ rec' + 128 ≤ a) → t.memByte a = s.memByte a)

/-- R142, R172, R402: `trap` and `ecall` complete and then stop their path at the next word, with their code as
sub-cause and their own PC and s1 to s4 in the record, at both privilege levels; an unassigned opcode stops at
itself, and so does an access to a control register that no table lists. -/
def Rules.TrapsAndIllegalWords : Prop :=
  ∀ (s : State) (r : PathRef) (n op : BitVec 8), Issuing s r →
    let stop := fun (cause : Nat) =>
      (s.advance r 1).takeStop r { cause := cause, sub := n.toNat, word := some (s.path r).pc }
    exec (.trap n) s = .next (stop 21) ∧ exec (.ecall n) s = .next (stop 22) ∧
    s.stopRegs r 21 = [s.sget r 1, s.sget r 2, s.sget r 3, s.sget r 4] ∧ s.stopRegs r 22 = s.stopRegs r 21 ∧
    Illegal (.unassignedOpcode op) s r ∧
    ∀ (d a : SReg) (c : CsrOp) (addr : BitVec 16),
      (csrListed addr.toNat = false → Illegal (.csrr d addr) s r ∧ Illegal (.csrw c addr a) s r) ∧
      (csrWc addr.toNat = true → c ≠ .write → Illegal (.csrw c addr a) s r)

/-- R141: at user privilege a privileged instruction raises a privilege fault at itself and does nothing else. -/
def Rules.PrivilegeFaults : Prop :=
  ∀ (s : State) (r : PathRef) (d a b : SReg) (op : CsrOp) (addr : BitVec 16), Issuing s r → s.kernel r = false →
    let faults := fun (i : Instr) => exec i s = .next (s.takeStop r { cause := 3 })
    (csrListed addr.toNat = true → faults (.csrr d addr)) ∧
    (csrListed addr.toNat = true → (csrWc addr.toNat = true → op = .write) → faults (.csrw op addr a)) ∧
    faults (.tretRes a b) ∧ faults (.tretVal a b) ∧ faults (.tretKill a b) ∧ faults (.tlbiPage d a) ∧
    faults (.tlbiCtx a) ∧ faults .tlbiPart ∧ faults (.frz a) ∧ faults (.frzThaw a) ∧ faults (.wfi d a) ∧ faults .sfence

/-- R141, R142, R172, R402: the instructions whose effect is a stop, and the privileged ones at user privilege. -/
def Obligations.TrapsAndPrivilege : Prop :=
  Rules.TrapsAndIllegalWords ∧ Rules.PrivilegeFaults

/-- R401, R449, R451: the return. `tret.res` lets the path that the handle names go on at its PC, `tret.val` after
writing s1, `tret.kill` ends its team, and so do the others where the cause allows no more; a handle that names
nothing is ignored and logged. -/
def Obligations.ReturnsFromStops : Prop :=
  ∀ (s : State) (r q : PathRef) (a b : SReg), Issuing s r → s.kernel r = true →
    let h := s.sget r a
    let u := s.advance r 1
    let res := exec (.tretRes a b) s
    let val := exec (.tretVal a b) s
    let kill := exec (.tretKill a b) s
    ((u.allPaths.find? fun q => (u.path q).holds h) = some q → s.ctxPart (s.ctxOf q) = s.ctxPart (s.ctxOf r) →
      kill = .next (u.killTeam q.tok) ∧
      (((u.path q).stop.map Stop.killOnly) = some true → res = .next (u.killTeam q.tok) ∧ val = .next (u.killTeam q.tok)) ∧
      (((u.path q).stop.map Stop.killOnly) = some false →
        res = .next (u.modPath q fun p => { p with wait := .none, stop := none }) ∧
        val = .next ((u.sset q 1 (s.sget r b)).modPath q fun p => { p with wait := .none, stop := none }))) ∧
    (u.allPaths.find? (fun q => (u.path q).holds h) = none → s.savedStop h = none → s.engineStopped h = none →
      let no := Host.Outcome.next (u.logRefused (s.coreOf r) (some (s.ctxOf r)) 0 h.toNat)
      res = no ∧ val = no ∧ kill = no) ∧
    (∀ e late, u.allPaths.find? (fun q => (u.path q).holds h) = none → s.savedStop h = none →
      s.engineStopped h = some (e, late) → s.ctxPart e.ctx = s.ctxPart (s.ctxOf r) →
      let again := Host.Outcome.next (u.modEngine e.serial fun x =>
        { x with phase := if late then EngPhase.finished else EngPhase.queued })
      res = again ∧ val = again ∧ kill = .next (u.engAbort e))

/-! ### Uniform scalar instructions (R173 to R183) -/

/-- The low n bits of an operand of the arithmetic mould as an integer, signed unless U (R175). -/
def mouldVal (n : Nat) (u : Bool) (x : DWord) : Int :=
  if u then ((x.setWidth n).toNat : Int) else (x.setWidth n).toInt

/-- The write of the arithmetic mould (R175): r mod 2^n, extended under W. -/
def mouldRes (w u : Bool) (r : Int) : DWord :=
  if w then (if u then (BitVec.ofInt 32 r).setWidth 64 else (BitVec.ofInt 32 r).signExtend 64)
  else BitVec.ofInt 64 r

/-- The second operand of the mould (R174). -/
def mouldSrc (s : State) (r : PathRef) (u : Bool) : Src2 → DWord
  | .reg b => s.sget r b
  | .imm k => if u then k.setWidth 64 else k.signExtend 64

/-- R173 to R175: the ten arithmetic instructions of the mould that are not shifts or bitwise. Each writes
the exact result of Table 5, wrapped and extended, and changes nothing else; a write to `s0` is discarded. -/
def Rules.ScalarArithmetic : Prop :=
  ∀ (s : State) (r : PathRef) (w u : Bool) (d a : SReg) (b : Src2), Issuing s r →
    let n := if w then 32 else 64
    let x := mouldVal n u (s.sget r a)
    let y := mouldVal n u (mouldSrc s r u b)
    WritesS (.sadd w u d a b) s r d (mouldRes w u (x + y)) 1 ∧
    WritesS (.ssub w u d a b) s r d (mouldRes w u (x - y)) 1 ∧
    WritesS (.smul w u d a b) s r d (mouldRes w u (x * y)) 1 ∧
    WritesS (.smulh w u d a b) s r d (mouldRes w u ((x * y).fdiv (2 ^ n))) 1 ∧
    WritesS (.sdiv w u d a b) s r d (mouldRes w u (if y = 0 then 2 ^ n - 1 else x.tdiv y)) 1 ∧
    WritesS (.srem w u d a b) s r d (mouldRes w u (if y = 0 then x else x - y * x.tdiv y)) 1 ∧
    WritesS (.smin w u d a b) s r d (mouldRes w u (min x y)) 1 ∧
    WritesS (.smax w u d a b) s r d (mouldRes w u (max x y)) 1

/-- The shift count of the mould (R175). -/
def mouldCount (s : State) (r : PathRef) : Src2 → Nat
  | .reg b => (s.sget r b).toNat
  | .imm k => k.toNat

/-- R175: the bitwise instructions and the shifts of the mould, as operations on n-bit words. -/
def Rules.ScalarBitwise : Prop :=
  ∀ (s : State) (r : PathRef) (w u : Bool) (d a : SReg) (b : Src2), Issuing s r →
    let n := if w then 32 else 64
    let x : BitVec n := (s.sget r a).setWidth n
    let y : BitVec n := (mouldSrc s r u b).setWidth n
    let c := mouldCount s r b
    let res := fun (z : BitVec n) => if u || !w then z.setWidth 64 else z.signExtend 64
    WritesS (.sand w u d a b) s r d (res (x &&& y)) 1 ∧
    WritesS (.sor w u d a b) s r d (res (x ||| y)) 1 ∧
    WritesS (.sxor w u d a b) s r d (res (x ^^^ y)) 1 ∧
    WritesS (.sshl w u d a b) s r d (res (x <<< c)) 1 ∧
    WritesS (.sshr w u d a b) s r d (res (x >>> c)) 1 ∧
    WritesS (.ssra w u d a b) s r d (res (x.sshiftRight c)) 1

/-- R173 to R175: the whole arithmetic mould. -/
def Obligations.ScalarMould : Prop :=
  Rules.ScalarArithmetic ∧ Rules.ScalarBitwise

/-- R176 to R181: comparison into a whole lane mask, selection, moves, address arithmetic, bit fields and bit
operations. -/
def Rules.ScalarRest : Prop :=
  ∀ (s : State) (r : PathRef) (d a b : SReg) (p : PReg), Issuing s r →
    (∀ c u (y : Src2), c.integer = true →
      let o := cmpInt (mouldVal 64 u (s.sget r a)) (mouldVal 64 u (mouldSrc s r u y))
      WritesP (.scmp c p u a y) s r p (if condHolds c (some o) then ~~~ (0 : Mask) else 0) 1) ∧
    (∀ all : Bool,
      let hit := (s.path r).xm &&& s.pget r p
      let c := if all then hit == (s.path r).xm else hit != 0
      WritesS (.ssel d a b p all) s r d (if c then s.sget r a else s.sget r b) 2) ∧
    WritesS (.smov d a) s r d (s.sget r a) 1 ∧
    (∀ lit : Word,
      WritesS (.sli d .zx lit) s r d (lit.setWidth 64) 2 ∧ WritesS (.sli d .sx lit) s r d (lit.signExtend 64) 2 ∧
      WritesS (.sli d .hi lit) s r d (lit ++ (s.sget r d).extractLsb' 0 32) 2) ∧
    (∀ k : BitVec 2, WritesS (.slea d a b k) s r d
      (s.sget r a + s.sget r b * BitVec.ofNat 64 (if k = 0 then 1 else 2 * 2 ^ k.toNat)) 1) ∧
    (∀ (pos : BitVec 6) (len : BitVec 7), 1 ≤ len.toNat → len.toNat ≤ 64 →
      let v := (s.sget r a) >>> pos.toNat
      WritesS (.sbfe d a pos len false) s r d ((v.setWidth len.toNat).setWidth 64) 2 ∧
      WritesS (.sbfe d a pos len true) s r d ((v.setWidth len.toNat).signExtend 64) 2 ∧
      (let m : DWord := (BitVec.ofNat 64 (2 ^ len.toNat - 1)) <<< pos.toNat
       WritesS (.sbfi d a pos len) s r d (((s.sget r d) &&& ~~~ m) ||| (((s.sget r a) <<< pos.toNat) &&& m)) 2)) ∧
    (∀ (op : BitOp) (w : Bool),
      let n := if w then 32 else 64
      WritesS (.sbit op w d a) s r d (BitVec.ofNat 64 (bitOp op n ((s.sget r a).toNat % 2 ^ n))) 1)

/-- R182, R183, R137, R138: reading a special register; clearing STATUS bits; a legal mode value goes to
`md`, and one with a reserved value is illegal and leaves it. -/
def Rules.SpecialRegisters : Prop :=
  ∀ (s : State) (r : PathRef) (d a : SReg) (sel : Special) (m : BitVec 24), Issuing s r →
    let x := s.sget r a
    let p := s.path r
    WritesS (.sr d sel) s r d (BitVec.ofNat 64 (s.special r sel)) 1 ∧
    Moves (.sw .status a) s r { p.advance 1 with status := p.status &&& ~~~ (x.setWidth 7) } ∧
    (x.toNat < 2 ^ 24 → mdLegal (x.setWidth 24) = true →
      Moves (.sw .mode a) s r { p.advance 1 with md := x.setWidth 24 } ∧
      Moves (.modes a) s r { p.advance 1 with md := x.setWidth 24 }) ∧
    (mdLegal m = true → Moves (.mode m) s r { p.advance 1 with md := m }) ∧
    (mdLegal m = false → exec (.mode m) s = .next (s.takeStop r { cause := 1 }))

/-- R176 to R183, R137, R138: the scalar instructions beside the mould, and the special registers. -/
def Obligations.ScalarAndSpecial : Prop :=
  Rules.ScalarRest ∧ Rules.SpecialRegisters

/-! ### Control flow (R156 to R172) -/

/-- R123, R124, R157, R158, R168, R171: the instructions that move a path and change no mask: `nop` and `yield`
go on, the uniform branches go to their target or past their literal, calls leave the return address in
their link register, before `calli` reads its target. A computed target that is no address of a word is illegal (R156). The offset of `bra` is
bits 23 to 0 of its word, the others' is their literal. -/
def Rules.UniformTransfers : Prop :=
  ∀ (s : State) (r : PathRef) (d a : SReg) (p : PReg), Issuing s r →
    let x := s.path r
    let to' := fun (c : Bool) (off : Word) =>
      if c then Jumped x (x.pc + 4 * off.signExtend 64) else x.advance 2
    let hit := x.xm &&& s.pget r p
    let ok := fun (g : DWord) => g.toNat % 4 = 0 ∧ g.toNat < 2 ^ 56
    MovesOn .nop s r 1 ∧ MovesOn .yield s r 1 ∧
    (∀ off : BitVec 24, Moves (.bra off) s r (Jumped x (x.pc + 4 * off.signExtend 64))) ∧
    (∀ off : Word, Moves (.bsz a off) s r (to' (s.sget r a == 0) off) ∧
      Moves (.bsnz a off) s r (to' (s.sget r a != 0) off) ∧
      Moves (.bany p off) s r (to' (hit != 0) off) ∧ Moves (.ball p off) s r (to' (hit == x.xm) off) ∧
      WritesSTo (.call d off) s r d (x.pc + 8) (Jumped x (x.pc + 4 * off.signExtend 64))) ∧
    (ok (s.sget r a) → Moves (.ret a) s r (Jumped x (s.sget r a))) ∧ (¬ ok (s.sget r a) → Illegal (.ret a) s r) ∧
    (let g := if a = d ∧ d ≠ 0 then x.pc + 4 else s.sget r a
     (ok g → WritesSTo (.calli d a) s r d (x.pc + 4) (Jumped x g)) ∧ (¬ ok g → Illegal (.calli d a) s r)) ∧
    (∀ off, encode (.bra off) = [(0x01 : Byte) ++ off]) ∧
    ∀ off : Word, ∀ i ∈ [Instr.bsz a off, .bsnz a off, .bany p off, .ball p off], (encode i)[1]? = some off

/-- R165 to R167: the uniform form of `jmpi` takes the whole path to s[b], and falls through with no active
lanes; the vector form elects the lowest active lane's target, and the lanes that go elsewhere wait in a new
indirect entry, or in the one it resumes; the 33rd entry overflows. A target that is no address, and a vector form
that is not first in its clause, is illegal. -/
def Rules.IndirectJumps : Prop :=
  ∀ (s : State) (r : PathRef) (a : VReg) (b : SReg) (joff : Word), Issuing s r →
    let x := s.path r
    let act := s.active r &&& (s.team r.tok).allLanes
    let ok := fun (g : DWord) => g.toNat % 4 = 0 ∧ g.toNat < 2 ^ 56
    let tgt := fun l => s.sget r b + (s.vget r a l).setWidth 64
    let h := (x.pc - 4).setWidth 56
    let resumes := fun (e : StackEntry) => e.indirect = true ∧ e.rsm = true ∧ e.ppc = h
    (act = 0 → MovesOn (.jmpiUniform b) s r 2) ∧
    (act ≠ 0 → ok (s.sget r b) → Moves (.jmpiUniform b) s r (Jumped x (s.sget r b))) ∧
    (act ≠ 0 → ¬ ok (s.sget r b) → Illegal (.jmpiUniform b) s r) ∧
    (x.widx ≠ 0 ∨ (s.team r.tok).budget ≤ a.toNat → Illegal (.jmpiVector a b joff) s r) ∧
    (x.widx = 0 → a.toNat < (s.team r.tok).budget → act = 0 → MovesOn (.jmpiVector a b joff) s r 2) ∧
    (x.widx = 0 → a.toNat < (s.team r.tok).budget → ∀ e, Active s r e → (∀ l, Active s r l → e ≤ l) →
      ∃ grp : Mask, (∀ l, grp.getLsbD l = true ↔ Active s r l ∧ tgt l = tgt e) ∧
        (∀ top rest, x.stack = top :: rest → resumes top →
          (ok (tgt e) → Moves (.jmpiVector a b joff) s r { Jumped x (tgt e) with
            xm := grp, stack := { top with rsm := false, pend := s.active r &&& ~~~ grp } :: rest }) ∧
          (¬ ok (tgt e) → Illegal (.jmpiVector a b joff) s r)) ∧
        ((∀ top rest, x.stack = top :: rest → ¬ resumes top) →
          (32 ≤ x.stack.length → exec (.jmpiVector a b joff) s = .next (s.takeStop r { cause := 15, sub := 1 })) ∧
          (x.stack.length < 32 →
            (ok (tgt e) → Moves (.jmpiVector a b joff) s r { Jumped x (tgt e) with
              xm := grp
              stack := ⟨true, x.xm, s.active r &&& ~~~ grp, h, (x.pc + 4 * joff.signExtend 64).setWidth 56, false⟩ ::
                x.stack }) ∧
            (¬ ok (tgt e) → Illegal (.jmpiVector a b joff) s r))))

/-- R123, R124, R156 to R158, R165 to R168, R171: the transfers that divide no team. -/
def Obligations.ControlTransfers : Prop :=
  Rules.UniformTransfers ∧ Rules.IndirectJumps

/-- R162: a `brp` at depth 0 falls through when no active lane is taken, transfers when all are, and else
divides the team: path 0 keeps the other lanes and goes on, path 1 takes the target, and the stores in flight
precede both paths (R222). That path 0 keeps the monitor and both paths the record of failed stores is the model's
choice (assumption 70). -/
def Rules.BranchAtDepthZero : Prop :=
  ∀ (s : State) (r : PathRef) (neg : Bool) (p : PReg) (toff joff : BitVec 16), Issuing s r →
    (s.path r).stack = [] → (s.team r.tok).divided = false → r.path = false →
    let x := s.path r
    let i := Instr.brp neg p toff joff
    let taken := s.active r &&& (if neg then ~~~ s.pget r p else s.pget r p)
    let tgt := x.pc + 4 * toff.signExtend 64
    (taken = 0 → MovesOn i s r 2) ∧ (taken ≠ 0 → taken = s.active r → Moves i s r (Jumped x tgt)) ∧
    (taken ≠ 0 → taken ≠ s.active r → ∃ t, exec i s = .next t ∧ SameMemory s t ∧
      t = { s with
        teams := t.teams, flight := s.flight.map fun (f : Flight) => if f.r = r then { f with both := true } else f } ∧
      SameV s t r ∧ SameS s t r ∧ SameP s t r ∧ (∀ k, k ≠ r.tok → t.team k = s.team k) ∧
      (t.team r.tok).divided = true ∧ (t.team r.tok).djoin = x.pc + 4 * joff.signExtend 64 ∧
      t.path r = { x.advance 2 with xm := x.xm &&& ~~~ taken, domain := x.xm &&& ~~~ taken } ∧
      (t.path ⟨r.tok, true⟩).live = true ∧ (t.path ⟨r.tok, true⟩).pc = tgt ∧
      (t.path ⟨r.tok, true⟩).xm = taken ∧ (t.path ⟨r.tok, true⟩).domain = taken ∧
      (t.path ⟨r.tok, true⟩).md = x.md ∧ (t.path ⟨r.tok, true⟩).status = x.status ∧
      (t.path ⟨r.tok, true⟩).flags = x.flags ∧ (t.path ⟨r.tok, true⟩).stack = [] ∧
      (t.path ⟨r.tok, true⟩).failed = x.failed ∧ (t.path ⟨r.tok, true⟩).inClause = false)

/-- R162, R164: a nested `brp` pushes an entry that holds the mask and the join, the lanes taken waiting in it
when some go on; with 32 entries it overflows. -/
def Rules.BranchNested : Prop :=
  ∀ (s : State) (r : PathRef) (neg : Bool) (p : PReg) (toff joff : BitVec 16), Issuing s r →
    0 < (s.path r).stack.length + (s.team r.tok).divided.toNat →
    let x := s.path r
    let i := Instr.brp neg p toff joff
    let taken := s.active r &&& (if neg then ~~~ s.pget r p else s.pget r p)
    let tgt := x.pc + 4 * toff.signExtend 64
    let e : StackEntry := ⟨false, x.xm, 0, 0, (x.pc + 4 * joff.signExtend 64).setWidth 56, false⟩
    (32 ≤ x.stack.length → exec i s = .next (s.takeStop r { cause := 15, sub := 1 })) ∧
    (x.stack.length < 32 → taken = 0 → Moves i s r { x.advance 2 with stack := e :: x.stack }) ∧
    (x.stack.length < 32 → taken ≠ 0 → taken = s.active r →
      Moves i s r { Jumped x tgt with stack := e :: x.stack }) ∧
    (x.stack.length < 32 → taken ≠ 0 → taken ≠ s.active r →
      Moves i s r { x.advance 2 with
        stack := { e with pend := taken, ppc := tgt.setWidth 56 } :: x.stack, xm := x.xm &&& ~~~ taken })

/-- R162, R164: `brp` at depth 0 and inside a division or an open entry. -/
def Obligations.Branches : Prop :=
  Rules.BranchAtDepthZero ∧ Rules.BranchNested

/-- R163, R164, R20: `join` releases the waiting lanes of the open entry, or closes it; at another address it is
a divergence fault; in a divided team the path waits for the merge; else it goes on to the next clause. -/
def Rules.Joins : Prop :=
  ∀ (s : State) (r : PathRef), Issuing s r →
    let x := s.path r
    let t := s.team r.tok
    (∀ e rest, x.stack = e :: rest →
      (x.pc ≠ e.join.setWidth 64 → exec .join s = .next (s.takeStop r { cause := 15, sub := 2 })) ∧
      (x.pc = e.join.setWidth 64 → e.pend ≠ 0 →
        Moves .join s r { Jumped x (e.ppc.setWidth 64) with
          xm := e.pend, stack := { e with pend := 0, rsm := e.rsm || e.indirect } :: rest }) ∧
      (x.pc = e.join.setWidth 64 → e.pend = 0 → e.outer &&& ~~~ t.retired ≠ 0 →
        Moves .join s r { Jumped x (x.pc + 4) with xm := e.outer &&& ~~~ t.retired, stack := rest })) ∧
    (x.stack = [] → t.divided = true → x.pc ≠ t.djoin →
      exec .join s = .next (s.takeStop r { cause := 15, sub := 2 })) ∧
    (x.stack = [] → t.divided = true → x.pc = t.djoin → x.flags ≠ 0 ∨ x.poison = [] →
      Moves .join s r { x with wait := .join }) ∧
    (x.stack = [] → t.divided = false → Moves .join s r (Jumped x (x.pc + 4)))

/-- R161, R170, R213: while lanes remain, `exit` retires the active lanes and goes on, and with none the path
unwinds to the lanes that wait in its open entry; `xmset` narrows or widens the
mask within what the open entry, the division or the team allows, and never to a retired lane; `macro` enters
its operation list (R153). -/
def Rules.MasksOfPaths : Prop :=
  ∀ (s : State) (r : PathRef) (neg : Bool) (p : PReg), Issuing s r →
    let x := s.path r
    let t := s.team r.tok
    let act := s.active r &&& t.allLanes
    let lim := match x.stack with
      | e :: _ => e.outer &&& ~~~ e.pend
      | [] => if t.divided then x.domain else t.allLanes
    let m := (if neg then ~~~ s.pget r p else s.pget r p) &&& lim &&& ~~~ t.retired
    (x.xm &&& ~~~ act ≠ 0 → ∃ u, exec .exit s = .next u ∧ u.path r = { x.advance 1 with xm := x.xm &&& ~~~ act } ∧
      (u.team r.tok).retired = t.retired ||| act ∧ SameV s u r ∧ SameS s u r ∧ SameP s u r ∧ OnlyTeams s u ∧
      SameMemory s u ∧ ∀ k, k ≠ r.tok → u.team k = s.team k) ∧
    (x.xm &&& ~~~ act = 0 → ∀ e rest, x.stack = e :: rest → e.pend ≠ 0 → ∃ u, exec .exit s = .next u ∧
      u.path r = { (x.advance 1) with
        xm := e.pend, pc := e.ppc.setWidth 64, inClause := false, widx := 0, ll := 0, mac := none,
        done := 0, wait := .none, stack := { e with pend := 0, rsm := e.rsm || e.indirect } :: rest } ∧
      (u.team r.tok).retired = t.retired ||| act ∧ SameV s u r ∧ SameS s u r ∧ SameP s u r ∧ OnlyTeams s u ∧
      SameMemory s u ∧ ∀ k, k ≠ r.tok → u.team k = s.team k) ∧
    (m ≠ 0 → Moves (.xmset neg p) s r { x.advance 1 with xm := m }) ∧
    (∀ (k : BitVec 6) (p0 p1 : BitVec 8),
      (k.toNat < (s.crewOf r).macros.length →
        Moves (.macroWord k p0 p1) s r { x with mac := some ⟨k.toNat, p0, p1, 0⟩ }) ∧
      ((s.crewOf r).macros.length ≤ k.toNat → Illegal (.macroWord k p0 p1) s r))

/-- R20, R153, R163, R164, R170, R213: `join`, `exit`, `xmset` and the entry of `macro`. -/
def Obligations.JoinsAndMasks : Prop :=
  Rules.Joins ∧ Rules.MasksOfPaths

/-! ### Vector integer instructions (R190 to R195) -/

/-- Element j of a register operand of lane l, as the integer it stands for. -/
def elemInt (s : State) (r : PathRef) (a : VReg) (l j : Nat) : Int :=
  (s.ty r).ifmt.val (elemAt (s.ty r) ((s.team r.tok).eget (s.ty r) a l) j)

/-- R190, R187: the arithmetic instructions compute every element of every active lane exactly and wrap it,
or saturate it when the mode says so; a multiply-add reads its destination's old elements. -/
def Rules.VectorArithmetic : Prop :=
  ∀ (s : State) (r : PathRef) (d a b : VReg), Issuing s r → (s.ty r).isInt = true →
    let ty := s.ty r
    let x := elemInt s r a
    let y := elemInt s r b
    let all := fun (f : Nat → Nat → Int) (l : Nat) => elems ty fun j => ty.ifmt.narrow (s.sat r) (f l j)
    let does := fun (i : Instr) (f : Nat → Nat → Int) =>
      WritesV i s r ty d (fun l => (all f l).1) (laneStatus s r fun l => (all f l).2) 1
    (s.eOk r ty [d, a, b] = true →
      does (.add d a b) (fun l j => x l j + y l j) ∧ does (.sub d a b) (fun l j => x l j - y l j) ∧
      does (.mul d a b) (fun l j => x l j * y l j) ∧ does (.min d a b) (fun l j => min (x l j) (y l j)) ∧
      does (.max d a b) (fun l j => max (x l j) (y l j)) ∧
      does (.mad d a b) (fun l j => x l j * y l j + elemInt s r d l j) ∧
      WritesV (.mulh d a b) s r ty d
        (fun l => (elems ty fun j => (ty.ifmt.wrap ((x l j * y l j).fdiv (2 ^ ty.width)), 0)).1) 0 1) ∧
    (s.eOk r ty [d, a] = true →
      does (.abs d a) (fun l j => ((x l j).natAbs : Int)) ∧ does (.neg d a) (fun l j => - x l j))

/-- R190: the bitwise instructions over the whole register or pair, in every type; the shifts, whose count may
reach the width and beyond; the rotation. None sets STATUS. -/
def Rules.VectorBitwise : Prop :=
  ∀ (s : State) (r : PathRef) (d a b : VReg), Issuing s r →
    let ty := s.ty r
    let t := s.team r.tok
    let w := ty.width
    let n := if ty.pair then 64 else 32
    let cnt := fun (l j : Nat) => if ty.pair then (t.vget b l).toNat else elemAt ty (t.vget b l).toNat j
    let e := fun (l j : Nat) => elemAt ty (t.eget ty a l) j
    let does := fun (i : Instr) (f : Nat → Nat → Nat) => WritesV i s r ty d (fun l => (elems ty fun j => (f l j, 0)).1) 0 1
    (s.eOk r ty [d, a, b] = true →
      WritesV (.and d a b) s r ty d (fun l => t.eget ty a l &&& t.eget ty b l) 0 1 ∧
      WritesV (.or d a b) s r ty d (fun l => t.eget ty a l ||| t.eget ty b l) 0 1 ∧
      WritesV (.xor d a b) s r ty d (fun l => t.eget ty a l ^^^ t.eget ty b l) 0 1) ∧
    (s.eOk r ty [d, a] = true → WritesV (.not d a) s r ty d (fun l => 2 ^ n - 1 - t.eget ty a l) 0 1) ∧
    (ty.isInt = true → s.eOk r ty [d, a] = true → s.vOk r [b] = true →
      does (.shl d a b) (fun l j => if w ≤ cnt l j then 0 else e l j * 2 ^ cnt l j) ∧
      does (.shr d a b) (fun l j => if w ≤ cnt l j then 0 else e l j / 2 ^ cnt l j) ∧
      does (.sra d a b) (fun l j => ((BitVec.ofNat w (e l j)).sshiftRight (cnt l j)).toNat) ∧
      does (.rot d a b) (fun l j => ((BitVec.ofNat w (e l j)).rotateLeft (cnt l j % w)).toNat))

/-- R187, R190: the vector integer and bitwise instructions. -/
def Obligations.VectorIntegers : Prop :=
  Rules.VectorArithmetic ∧ Rules.VectorBitwise

/-- R191, R192: bit fields and bit counts of 32-bit lanes. -/
def Rules.VectorBitFields : Prop :=
  ∀ (s : State) (r : PathRef) (d a : VReg), Issuing s r → (s.ty r).is32 = true → s.eOk r (s.ty r) [d, a] = true →
    let ty := s.ty r
    let x := fun l => (s.vget r a l)
    (∀ (pos : BitVec 5) (len : BitVec 6), 1 ≤ len.toNat → len.toNat ≤ 32 →
      let f := fun l => ((x l) >>> pos.toNat).setWidth len.toNat
      WritesV (.bfe d a pos len) s r ty d
        (fun l => (if ty = .i32 then (f l).signExtend 32 else (f l).setWidth 32).toNat) 0 2 ∧
      (let m : Word := (BitVec.ofNat 32 (2 ^ len.toNat - 1)) <<< pos.toNat
       WritesV (.bfi d a pos len) s r ty d
        (fun l => ((s.vget r d l &&& ~~~ m) ||| ((x l <<< pos.toNat) &&& m)).toNat) 0 2)) ∧
    (∀ op : BitOp, WritesV (.bcnt op d a) s r ty d (fun l => bitOp op 32 (x l).toNat) 0 1)

/-- R193: a comparison writes, of its lane mask, the bits of the active lanes. -/
def Rules.VectorCompare : Prop :=
  ∀ (s : State) (r : PathRef) (c : Cond) (p : PReg) (a b : VReg), Issuing s r →
    ((s.ty r).is32 || (s.ty r).pair) = true → s.eOk r (s.ty r) [a, b] = true →
    let ty := s.ty r
    let hit := fun l => condHolds c (some (cmpInt (ty.ifmt.val ((s.team r.tok).eget ty a l))
      (ty.ifmt.val ((s.team r.tok).eget ty b l))))
    ∃ m : Mask, (∀ l, l < (s.team r.tok).width → l < 1024 →
        (Active s r l → m.getLsbD l = hit l) ∧ (¬ Active s r l → m.getLsbD l = (s.pget r p).getLsbD l)) ∧
      WritesP (.cmp c p a b) s r p m 1

/-- R194, R195: selection by a lane mask, moves, and literals, in every type. -/
def Rules.VectorMoves : Prop :=
  ∀ (s : State) (r : PathRef) (d a b : VReg) (p : PReg), Issuing s r →
    let ty := s.ty r
    let e := (s.team r.tok).eget ty
    (∀ neg : Bool, s.eOk r ty [d, a, b] = true →
      WritesV (.sel d a b p neg) s r ty d (fun l => if (s.pget r p).getLsbD l != neg then e a l else e b l) 0 2) ∧
    (s.eOk r ty [d, a] = true → WritesV (.mov d a) s r ty d (e a) 0 1) ∧
    (∀ (hi : Bool) (x : SReg), s.eOk r ty [d] = true → ¬ (ty.pair = true ∧ hi = true) →
      WritesV (.movs d hi x) s r ty d
        (fun _ => if hi then ((s.sget r x).extractLsb' 32 32).toNat else (s.sget r x).toNat) 0 1) ∧
    (∀ lit : Word, s.eOk r ty [d] = true →
      WritesV (.li d lit) s r ty d (fun _ => if ty = .i64 then (lit.signExtend 64).toNat else lit.toNat) 0 2) ∧
    (d.toNat < (s.team r.tok).budget → WritesV (.lid d) s r .n32 d (fun l => l) 0 1)

/-- R191 to R195: bit fields, comparison, selection and moves. -/
def Obligations.VectorBitsAndMoves : Prop :=
  Rules.VectorBitFields ∧ Rules.VectorCompare ∧ Rules.VectorMoves

/-! ### Vector floating and conversion instructions (R196 to R207) -/

/-- R196 to R200: the floating instructions compute every element of every active lane in the format of the
type, with the mode's rounding and saturation, and OR the exceptions into STATUS. The precision behind the
transcendental functions is presumed enough (assumption 66). -/
def Obligations.VectorFloat : Prop :=
  ∀ (s : State) (r : PathRef) (d a b : VReg), Issuing s r → (s.ty r).isFloat = true →
    let ty := s.ty r
    let f := ty.ffmt
    let rnd := s.rnd r
    let sat := s.sat r
    let e := fun (x : VReg) (l j : Nat) => elemAt ty ((s.team r.tok).eget ty x l) j
    let does := fun (i : Instr) (g : Nat → Nat → Nat × BitVec 7) =>
      WritesV i s r ty d (fun l => (elems ty (g l)).1) (laneStatus s r fun l => (elems ty (g l)).2) 1
    (s.eOk r ty [d, a, b] = true →
      does (.fadd d a b) (fun l j => f.add rnd sat (e a l j) (e b l j)) ∧
      does (.fsub d a b) (fun l j => f.sub rnd sat (e a l j) (e b l j)) ∧
      does (.fmul d a b) (fun l j => f.mul rnd sat (e a l j) (e b l j)) ∧
      does (.ffma d a b) (fun l j => f.fma rnd sat (e a l j) (e b l j) (e d l j)) ∧
      does (.fmin d a b) (fun l j => f.minmax false (e a l j) (e b l j)) ∧
      does (.fmax d a b) (fun l j => f.minmax true (e a l j) (e b l j))) ∧
    (s.eOk r ty [d, a] = true →
      does (.fabs d a) (fun l j => signOp f false (e a l j)) ∧ does (.fneg d a) (fun l j => signOp f true (e a l j)) ∧
      does (.frcp d a) (fun l j => f.rcp rnd sat (e a l j)) ∧ does (.frsq d a) (fun l j => f.rsq rnd sat (e a l j)) ∧
      does (.fsqrt d a) (fun l j => f.sqrt rnd sat (e a l j)) ∧ does (.fexp2 d a) (fun l j => f.exp2 rnd sat (e a l j)) ∧
      does (.flog2 d a) (fun l j => f.log2 rnd sat (e a l j)) ∧
      does (.fsin d a) (fun l j => f.trigOp false rnd sat (e a l j)) ∧
      does (.fcos d a) (fun l j => f.trigOp true rnd sat (e a l j)) ∧
      does (.fclass d a) (fun l j => (f.classOf (e a l j), 0)) ∧ does (.fround d a) (fun l j => f.integral rnd (e a l j)))

/-- R127, R198, R199: a floating comparison writes the bits of the active lanes; a division is long-latency: it takes
its slot of the clause, makes that flag busy, and its quotients are on their way; with no active lane it only takes
the slot; with the flag of its slot busy it waits, and with no slot left it is a clause stop (R127). -/
def Obligations.FloatCompareAndDivide : Prop :=
  ∀ (s : State) (r : PathRef) (c : Cond) (p : PReg) (d a b : VReg) (f : Nat), Issuing s r →
    let ty := s.ty r
    let t := s.team r.tok
    let cmp := fun l => fmtF32.compare c (s.vget r a l).toNat (s.vget r b l).toNat
    let quo := fun l => elems ty fun j =>
      ty.ffmt.div (s.rnd r) (s.sat r) (elemAt ty (t.eget ty a l) j) (elemAt ty (t.eget ty b l) j)
    let lanes := lanesOf t (s.active r)
    (ty = .f32 → s.vOk r [a, b] = true → ∃ u, exec (.fcmp c p a b) s = .next u ∧
      (∀ l, l < t.width → l < 1024 → (Active s r l → (u.pget r p).getLsbD l = (cmp l).1) ∧
        (¬ Active s r l → (u.pget r p).getLsbD l = (s.pget r p).getLsbD l)) ∧
      (∀ q, q ≠ p → u.pget r q = s.pget r q) ∧
      u.path r = { (s.path r).advance 1 with status := (s.path r).status ||| laneStatus s r fun l => (cmp l).2 } ∧
      SameV s u r ∧ SameS s u r ∧ TeamFrame s u r ∧ OnlyTeams s u ∧ SameMemory s u) ∧
    (ty.isFloat = true → s.vOk r [d, a, b] = true → (s.path r).slot = .ok f → lanes ≠ [] →
      ∃ u, exec (.fdiv d a b) s = .next u ∧
        u.pend = s.pend ++ [⟨s.nextSer, r, f, lanes.flatMap fun l => eWrites ty d l (quo l).1, none, false, none, 0, false, none⟩] ∧
        u.path r = { (s.path r).advance 1 with
          ll := (s.path r).ll + 1, flags := (s.path r).flags ||| BitVec.ofNat 12 (2 ^ f),
          status := (s.path r).status ||| laneStatus s r fun l => (quo l).2 } ∧
        SameV s u r ∧ SameS s u r ∧ SameP s u r ∧ TeamFrame s u r ∧
        u = { s with teams := u.teams, pend := u.pend, nextSer := s.nextSer + 1 } ∧ SameMemory s u) ∧
    (ty.isFloat = true → s.vOk r [d, a, b] = true →
      ((s.path r).slot = .ok f → lanes = [] →
        Moves (.fdiv d a b) s r ({ s.path r with ll := (s.path r).ll + 1 }.advance 1)) ∧
      ((s.path r).slot = .busy f →
        Moves (.fdiv d a b) s r { s.path r with wait := .flags (BitVec.ofNat 12 (2 ^ f)) }) ∧
      ((s.path r).slot = .fault → exec (.fdiv d a b) s = .next (s.takeStop r { cause := 2 })))

/-- The one operand of 32 or 64 bits that a conversion format names, as a type of the same size. -/
def sizeType (f : Fmt) : ElemType := if f.isPair then .n64 else .n32

/-- R201, R202, R204 to R207: conversions between single elements, packing and unpacking of two elements, and
the expansion of 8-bit and 4-bit elements, lane by lane. -/
def Rules.Conversions : Prop :=
  ∀ (s : State) (r : PathRef) (d a b : VReg), Issuing s r →
    let ty := s.ty r
    let t := s.team r.tok
    let rnd := s.rnd r
    let sat := s.sat r
    let x := fun (v : VReg) l => (s.vget r v l).toNat
    let does := fun (i : Instr) (tp : ElemType) (f : Nat → Nat × BitVec 7) (n : Nat) =>
      WritesV i s r tp d (fun l => (f l).1) (laneStatus s r fun l => (f l).2) n
    (∀ dst src : Fmt, dst.isFloat = true → s.vOk r (d :: cvtRegs src a) = true →
      does (.cvtf d a dst src) .n32 (fun l =>
        if src.isFloat then cvtFloat dst.ffmt src.ffmt rnd sat (t.cvtSrc src a l)
        else cvtFromInt dst.ffmt src.ifmt rnd sat (t.cvtSrc src a l)) 1) ∧
    (∀ dst src : Fmt, dst.isFloat = false → evenReg d = true ∨ dst.isPair = false →
      s.vOk r (cvtRegs dst d ++ cvtRegs src a) = true →
      does (.cvti d a dst src) (sizeType dst) (fun l =>
        let y := if src.isFloat then cvtToInt dst.ifmt src.ffmt rnd (t.cvtSrc src a l)
          else if src.ifmt.w < dst.ifmt.w then (dst.ifmt.wrap (src.ifmt.val (t.cvtSrc src a l)), 0)
          else dst.ifmt.narrow sat (src.ifmt.val (t.cvtSrc src a l))
        (cvtPlace dst y.1, y.2)) 1) ∧
    (ty.packed = true → s.vOk r [d, a, b] = true →
      does (.pk d a b) .n32 (fun l => (packTwo ty rnd sat (x a l) (x b l)).getD (0, 0)) 1) ∧
    (∀ h : Bool, ty.packed = true → s.vOk r [d, a] = true →
      does (.upk d a h) .n32 (fun l => unpackHalf ty h.toNat (x a l)) 1) ∧
    (∀ j : BitVec 2, ty = .f32 → s.vOk r [d, a] = true →
      does (.sp8x d a j) .n32 (fun l => (sp8Bits fmtF32 (x a l / 2 ^ (8 * j.toNat) % 256), 0)) 1) ∧
    (∀ j : BitVec 2, ty = .bf16x2 ∨ ty = .f16x2 → j.toNat < 2 → s.vOk r [d, a] = true →
      does (.sp8x d a j) .n32 (fun l =>
        let e := fun k => sp8Bits ty.ffmt (x a l / 2 ^ (8 * k) % 256)
        (packElems 16 [e (2 * j.toNat), e (2 * j.toNat + 1)], 0)) 1) ∧
    (∀ h : BitVec 2, ty = .bf16x2 → s.vOk r [d, a, b] = true →
      does (.i4x d a b h) .n32 (fun l =>
        let e := fun k => int4Elem (x a l / 2 ^ (4 * k) % 16) (x b l / 2 ^ 16 % 16) (x b l % 2 ^ 16)
        (packElems 16 [e (2 * h.toNat), e (2 * h.toNat + 1)], 0)) 2)

/-- R203: `cvtq` rounds four binary32 registers, scaled, to the four bytes of one; `cvtd` widens the four bytes
of one register to four. -/
def Rules.BlockConversions : Prop :=
  ∀ (s : State) (r : PathRef) (d a : VReg) (b : Option VReg) (e5 : Bool), Issuing s r →
    let t := s.team r.tok
    let q := fun (l j : Nat) => scaleRound (fp8 e5) (s.rnd r) (s.sat r)
      (fmtF32.unpack (s.vget r (a + BitVec.ofNat 8 j) l).toNat) (t.cvtScale b l)
    let w := fun (l j : Nat) => scaleRound fmtF32 (s.rnd r) (s.sat r)
      ((fp8 e5).unpack ((s.vget r a l).toNat / 2 ^ (8 * j) % 256)) (t.cvtScale b l)
    (s.vOk r (d :: vRun a 4 ++ b.toList) = true →
      WritesV (.cvtq d a b e5) s r .n32 d (fun l => packElems 8 [(q l 0).1, (q l 1).1, (q l 2).1, (q l 3).1])
        (laneStatus s r fun l => (q l 0).2 ||| (q l 1).2 ||| (q l 2).2 ||| (q l 3).2) 2) ∧
    (d.toNat % 4 = 0 → s.vOk r (vRun d 4 ++ a :: b.toList) = true →
      ∃ u, exec (.cvtd d a b e5) s = .next u ∧
        (∀ l j, Active s r l → j < 4 → u.vget r (d + BitVec.ofNat 8 j) l = BitVec.ofNat 32 (w l j).1) ∧
        (∀ v l, l < 1024 → ¬ (Active s r l ∧ d.toNat ≤ v.toNat ∧ v.toNat < d.toNat + 4) → u.vget r v l = s.vget r v l) ∧
        u.path r = { (s.path r).advance 2 with
          status := (s.path r).status ||| laneStatus s r fun l => (w l 0).2 ||| (w l 1).2 ||| (w l 2).2 ||| (w l 3).2 } ∧
        SameS s u r ∧ SameP s u r ∧ TeamFrame s u r ∧ OnlyTeams s u ∧ SameMemory s u)

/-- R201 to R207: conversions of elements and of blocks. -/
def Obligations.VectorConversions : Prop :=
  Rules.Conversions ∧ Rules.BlockConversions

/-! ### Lane and mask instructions (R208 to R214) -/

/-- R208: a shuffle reads the operand of the lane its index names, active or not, and keeps the lane's own where
that is no lane of the team. `rank` counts the active lanes below that hold the mask. `compact` brings the
operands of the lanes selected to the lowest active lanes. -/
def Obligations.LaneMoves : Prop :=
  ∀ (s : State) (r : PathRef) (d a b : VReg) (p : PReg), Issuing s r →
    let ty := s.ty r
    let t := s.team r.tok
    let e := t.eget ty
    let pick := fun (m : Int) (l : Nat) => e a (if 0 ≤ m ∧ m < t.width then m.toNat else l)
    let act := lanesOf t (s.active r)
    let hit := act.filter fun l => (s.pget r p).getLsbD l
    (s.eOk r ty [d, a] = true → s.vOk r [b] = true →
      WritesV (.shfl d a b) s r ty d (fun l => pick (s.vget r b l).toNat l) 0 1) ∧
    (∀ n : BitVec 10, s.eOk r ty [d, a] = true →
      WritesV (.shflx d a n .xor) s r ty d (fun l => pick ((l ^^^ n.toNat : Nat) : Int) l) 0 2 ∧
      WritesV (.shflx d a n .up) s r ty d (fun l => pick ((l : Int) - n.toNat) l) 0 2 ∧
      WritesV (.shflx d a n .dn) s r ty d (fun l => pick ((l : Int) + n.toNat) l) 0 2) ∧
    (d.toNat < (s.team r.tok).budget →
      WritesV (.rank d p) s r .n32 d (fun l => (hit.filter fun m => m < l).length) 0 1) ∧
    (s.eOk r ty [d, a] = true → ∃ u, exec (.compact d a p) s = .next u ∧
      (∀ i (h : i < hit.length) (h' : i < act.length), (u.team r.tok).eget ty d act[i] = e a hit[i]) ∧
      (∀ q l, l < 1024 → ¬ (l ∈ act.take hit.length ∧ q ∈ eRegs ty d) → u.vget r q l = s.vget r q l) ∧
      u.path r = (s.path r).advance 1 ∧ SameS s u r ∧ SameP s u r ∧ TeamFrame s u r ∧ OnlyTeams s u ∧
      SameMemory s u)

/-- R189, R208: votes, counts and broadcasts write their uniform register; with no active lane they leave it alone. -/
def Rules.LaneToUniform : Prop :=
  ∀ (s : State) (r : PathRef) (d b : SReg) (a : VReg) (p : PReg) (k : BitVec 4), Issuing s r →
    let ty := s.ty r
    let t := s.team r.tok
    let act := s.active r &&& t.allLanes
    let hit := act &&& s.pget r p
    let lanes := lanesOf t (s.active r)
    (act = 0 → MovesOn (.vote d p .any) s r 1 ∧ MovesOn (.vote d p .all) s r 1 ∧ MovesOn (.vote d p (.ballot k)) s r 1 ∧
      MovesOn (.mcnt d p) s r 1) ∧
    (act ≠ 0 →
      WritesS (.vote d p .any) s r d (if hit = 0 then 0 else 1) 1 ∧
      WritesS (.vote d p .all) s r d (if hit = act then 1 else 0) 1 ∧
      WritesS (.vote d p (.ballot k)) s r d (hit.extractLsb' (64 * k.toNat) 64) 1 ∧
      WritesS (.mcnt d p) s r d (BitVec.ofNat 64 (lanes.filter fun l => (s.pget r p).getLsbD l).length) 1) ∧
    (s.eOk r ty [a] = true →
      (lanes = [] → MovesOn (.bcast d a none) s r 1 ∧ MovesOn (.bcast d a (some b)) s r 1) ∧
      ∀ e rest, lanes = e :: rest →
        WritesS (.bcast d a none) s r d (BitVec.ofNat 64 (t.eget ty a e)) 1 ∧
        WritesS (.bcast d a (some b)) s r d
          (BitVec.ofNat 64 (if (s.sget r b).toNat < t.width then t.eget ty a (s.sget r b).toNat else 0)) 1) ∧
    (s.eOk r ty [a] = false → Illegal (.bcast d a none) s r ∧ Illegal (.bcast d a (some b)) s r)

/-- R209, R115: the fold of the elements of some lanes in ascending order, with the STATUS bits of its steps: of one
lane its operand; of more, the fold so far and the next lane's element combined. -/
def foldTo (s : State) (r : PathRef) (op : FoldOp) (a : VReg) (j : Nat) : List Nat → Nat × BitVec 7
  | [] => (0, 0)
  | l :: ls => ls.foldl (fun x m =>
      let y := foldStep op (s.ty r) (s.rnd r) (s.sat r) x.1 (elemAt (s.ty r) ((s.team r.tok).eget (s.ty r) a m) j)
      (y.1, x.2 ||| y.2)) (elemAt (s.ty r) ((s.team r.tok).eget (s.ty r) a l) j, 0)

/-- R189, R209: a scan gives each active lane the folds, element by element, of the active lanes up to itself; a
reduction gives its uniform register the folds over all of them, and leaves it alone with none. An operation that the
type does not have is illegal. -/
def Rules.Scans : Prop :=
  ∀ (s : State) (r : PathRef) (op : FoldOp) (d a : VReg) (x : SReg), Issuing s r →
    let ty := s.ty r
    let lanes := lanesOf (s.team r.tok) (s.active r)
    let upTo := fun l => lanes.filter fun m => decide (m ≤ l)
    let value := fun ls => packElems ty.width ((List.range ty.count).map fun j => (foldTo s r op a j ls).1)
    let status := fun ls => ((List.range ty.count).map fun j => (foldTo s r op a j ls).2).foldl (· ||| ·) 0
    (foldOk op ty = false → Illegal (.scan op d a) s r ∧ Illegal (.red op x a) s r) ∧
    (foldOk op ty = true → s.eOk r ty [d, a] = true →
      WritesV (.scan op d a) s r ty d (fun l => value (upTo l)) (status lanes) 1) ∧
    (foldOk op ty = true → s.eOk r ty [a] = true →
      (lanes = [] → MovesOn (.red op x a) s r 1) ∧
      (lanes ≠ [] → ∃ u, exec (.red op x a) s = .next u ∧
        (∀ q, u.sget r q = if q = x ∧ x ≠ 0 then BitVec.ofNat 64 (value lanes) else s.sget r q) ∧
        u.path r = { (s.path r).advance 1 with status := (s.path r).status ||| status lanes } ∧
        SameV s u r ∧ SameP s u r ∧ TeamFrame s u r ∧ OnlyTeams s u ∧ SameMemory s u))

/-- R189, R208 to R210: votes, counts, broadcasts, reductions and scans. -/
def Obligations.LanesToOne : Prop :=
  Rules.LaneToUniform ∧ Rules.Scans

/-- R211, R212: a mask instruction writes the bits of the active lanes, or with ALL every bit of the team's
lanes; the others keep theirs. `xmget` reads the execute mask. -/
def Obligations.MaskInstructions : Prop :=
  ∀ (s : State) (r : PathRef) (all : Bool) (d a b : PReg) (x : SReg) (k : BitVec 4), Issuing s r →
    let on := if all then (s.team r.tok).allLanes else s.active r
    let pg := s.pget r
    let does := fun (i : Instr) (m bits : Mask) => WritesP i s r d ((pg d &&& ~~~ m) ||| (bits &&& m)) 1
    does (.pand all d a b) on (pg a &&& pg b) ∧ does (.por all d a b) on (pg a ||| pg b) ∧
    does (.pxor all d a b) on (pg a ^^^ pg b) ∧ does (.pnot all d a) on (~~~ pg a) ∧ does (.pmov all d a) on (pg a) ∧
    does (.psetClr all d) on 0 ∧ does (.psetSet all d) on (~~~ 0) ∧
    does (.psetSc all d x k) (on &&& ((BitVec.ofNat 1024 (2 ^ 64 - 1)) <<< (64 * k.toNat)))
      (((s.sget r x).setWidth 1024) <<< (64 * k.toNat)) ∧
    WritesP (.xmget d) s r d (s.path r).xm 1

/-! ### Memory instructions (R251 to R275) -/

/-- The address of a scratchpad access of a lane: the low 32 bits (R58). -/
def spEa (s : State) (r : PathRef) (a : MAddr) (m : MDesc) (l : Nat) : DWord :=
  ((s.ea r a m.off l).setWidth 32).setWidth 64

/-- R258, R251: a short load from the crew's own scratchpad gives every lane the bytes at its address, extended
to its register, and goes on; memory and scratchpads stay. -/
def Rules.ScratchpadLoads : Prop :=
  ∀ (s : State) (r : PathRef) (d : BitVec 8) (a : MAddr) (m : MDesc) (off : Nat → Nat), Issuing s r →
    s.dataOk r d m.size = true → s.addrOk r a = true → (s.path r).done = 0 →
    AcquireGoes s r (acquires m.order && !(s.memLanes r).isEmpty) false (s.spScopeOf r a m) s →
    (∀ l ∈ s.memLanes r, s.spAddr (s.crewNo r) (spEa s r a m l).toNat m.size.bytes = .ok (s.crewNo r, off l) ∧
      (s.crewOf r).spPoisoned (off l) m.size.bytes = false) →
    exec (.lds d a m) s = .next ((s.regWrites r.tok ((s.memLanes r).flatMap fun l =>
      s.loadWrites r d m.size (m.op.getLsbD 0) l ((s.crewOf r).bytes (off l) m.size.bytes))).advance r 2)

/-- R258: a short store of one lane writes the low bytes of its register at its address in the crew's scratchpad,
and no other byte of any scratchpad or of memory. -/
def Rules.ScratchpadStores : Prop :=
  ∀ (s : State) (r : PathRef) (d : BitVec 8) (a : MAddr) (m : MDesc) (l off : Nat), Issuing s r →
    s.dataOk r d m.size = true → s.addrOk r a = true → (s.path r).done = 0 → m.order = .plain →
    s.memLanes r = [l] → (∀ c ∈ s.crews, c.2.spPoison = []) →
    s.spAddr (s.crewNo r) (spEa s r a m l).toNat m.size.bytes = .ok (s.crewNo r, off) →
    ∃ t, exec (.sts d a m) s = .next t ∧ SameMemory s t ∧ t.path r = (s.path r).advance 2 ∧
      SameV s t r ∧ SameS s t r ∧ SameP s t r ∧ TeamFrame s t r ∧
      t = { s with teams := t.teams, crews := t.crews } ∧ (∀ k, k ≠ s.crewNo r → t.crew k = s.crew k) ∧
      (t.crewOf r).bytes off m.size.bytes = s.storeVal r d m.size l ∧
      ∀ b, b < off ∨ off + m.size.bytes ≤ b →
        Store.get 0 (t.crewOf r).scratch b = Store.get 0 (s.crewOf r).scratch b

/-- R251, R258: loads and stores of the scratchpad. -/
def Obligations.Scratchpads : Prop :=
  Rules.ScratchpadLoads ∧ Rules.ScratchpadStores

/-- R259, R260: a full/empty instruction of one lane: stores leave the word full, `feclr` and `feset` set its
bit, loads of a full word empty it unless they peek, and `feq` reads the bit. One that changes the bit, or whose order
releases, performs a release first, and one that acquires then acquires: u is the state they leave. -/
def Rules.FullEmptyCompletes : Prop :=
  ∀ (s u : State) (r : PathRef) (d : BitVec 8) (a : MAddr) (m : MDesc) (l n off f : Nat), Issuing s r →
    s.dataOk r d .b32 = true → s.addrOk r a = true → s.memLanes r = [l] → (s.path r).done = 0 →
    u.memLanes r = [l] → (u.path r).live = true → (u.path r).done = 0 →
    s.spAddr (s.crewNo r) (spEa s r a m l).toNat 4 = .ok (n, off) → (s.crew n).spPoisoned off 4 = false →
    u.spAddr (u.crewNo r) (spEa u r a m l).toNat 4 = .ok (n, off) → (u.crew n).spPoisoned off 4 = false →
    (∀ b, AcquireGoes u r b false (s.spScopeOf r a m) u) →
    let c := u.crew n
    let put := fun (t : State) => ((t.crew n).put off (leBytes 4 (t.storeVal r d .b32 l))).spMend [(off, 4)]
    let goes := fun (c' : Crew) =>
      ReleaseGoes s r (releases m.order || s.bitChanged (s.setCrew n c')) (s.spScopeOf r a m) u
    let ld := fun (c : Crew) (x : Nat) =>
      ((u.setCrew n c).startPend r f (u.loadWrites r d .b32 false l x) none false none 0 true).advance r 2
    (goes ((put s).setFull off true) →
      exec (.stsx d a m) s = .next ((u.setCrew n ((put u).setFull off true)).advance r 2) ∧
      ((s.crew n).isFull off = false → c.isFull off = false →
        exec (.stsf d a m) s = .next ((u.setCrew n ((put u).setFull off true)).advance r 2))) ∧
    (goes ((s.crew n).setFull off false) →
      exec (.feclr a m) s = .next ((u.setCrew n (c.setFull off false)).advance r 2) ∧
      ((s.path r).slot = .ok f → (s.crew n).isFull off = true → c.isFull off = true → m.op.getLsbD 0 = false →
        exec (.ldsf d a m) s = .next (ld (c.setFull off false) (c.bytes off 4)))) ∧
    (goes ((s.crew n).setFull off true) →
      exec (.feset a m) s = .next ((u.setCrew n (c.setFull off true)).advance r 2)) ∧
    (goes (s.crew n) → (s.path r).slot = .ok f →
      ((s.crew n).isFull off = true → c.isFull off = true → m.op.getLsbD 0 = true →
        exec (.ldsf d a m) s = .next (ld c (c.bytes off 4))) ∧
      ((s.crew n).isFull off = false → c.isFull off = false → exec (.ldse d a m) s = .next (ld c (c.bytes off 4))) ∧
      exec (.feq d a m) s = .next (ld c (c.isFull off).toNat))

/-- R259, R261: a full/empty instruction waits at a word that is not as it needs. With one of its words as it needs,
and chosen by its sequencer among the paths that are ready there (R432), the wake takes it up again: its issue is
noted, and it executes to a next state. -/
def Rules.FullEmptyWakes : Prop :=
  ∀ (s t : State) (r : PathRef) (i : Instr) (d : BitVec 8) (a : MAddr) (m : MDesc),
    (s.path r).wait.isFull = true → s.isReady r = true →
    s.choose (s.seqOf r)
      (s.allPaths.filter fun q => s.isReady q && !(s.path q).polls && s.seqOf q == s.seqOf r) = some r →
    s.takeUp r = .run i t → (i = .ldsf d a m ∨ i = .ldse d a m ∨ i = .stsf d a m) →
    ∃ u, exec (.fullEmptyWake r) s = .next u ∧ exec i (t.noteIssue r) = .next u

/-- R259 to R261: the full/empty instructions, and the wake of those that wait. -/
def Obligations.FullEmptyWords : Prop :=
  Rules.FullEmptyCompletes ∧ Rules.FullEmptyWakes

/-- A load of some lanes on its way, unbound. -/
def unboundLoad (s : State) (r : PathRef) (d : BitVec 8) (a : MAddr) (m : MDesc) (x : Nat → Xlat) : LoadSet :=
  ⟨d, m.size, m.op.getLsbD 0, m.hint == 2, (s.path r).pc, 0, s.group r d m.size.vregs,
    (s.memLanes r).map fun l => (l, s.ea r a m.off l, (x l).key, (x l).home)⟩

/-- R262, R306, R127: a global load takes its slot, makes the flag busy, and is on its way to every lane's register;
nothing else changes before the flag clears. One that acquires, and `ldacq`, which is a load and an acquire fence,
read every lane's bytes as memory holds them. That the others read theirs at some moment before their completion is
the model's reading (assumption 10). -/
def Obligations.GlobalLoads : Prop :=
  ∀ (s u : State) (r : PathRef) (d : BitVec 8) (a : MAddr) (m : MDesc) (f : Nat) (x : Nat → Xlat), Issuing s r →
    s.dataOk r d m.size = true → s.addrOk r a = true → (s.path r).slot = .ok f → s.memLanes r ≠ [] →
    u.memLanes r = s.memLanes r → (u.path r).live = true → (u.path r).done = 0 →
    MissesFree u r m.size.bytes (u.ea r a m.off) →
    (∀ l ∈ u.memLanes r, PlainAccess u r .load m.size.bytes (u.ea r a m.off l) l (x l)) →
    let misses := missesFor m.size.bytes (u.ea r a m.off) (u.memLanes r)
    let read := ((u.startPend r f ((u.memLanes r).flatMap fun l =>
      u.loadWrites r d m.size (m.op.getLsbD 0) l (u.memNat (x l).key m.size.bytes)) none false none misses true).advance r 2)
    (acquires m.order = false → u = s → exec (.ldg d a m) s =
      .next ((s.startPend r f [] none false (some (unboundLoad s r d a m x)) misses true).advance r 2)) ∧
    (acquires m.order = true → AcquireGoes s r true false (s.memScope r .load a m) u →
      exec (.ldg d a m) s = .next read) ∧
    (AcquireGoes s r true true (s.memScope r .load a m) u → exec (.ldacq d a m) s = .next read)

/-- R262, R306, R75: a global store sends the low bytes of every lane's register on their way to the home of its
address, in lane order, and goes on; a store to the core's own die leaves memory as it is until its home has
acknowledged it, but for what the core holds dirty, which goes to its homes before a store behind a release fence (R220,
R229). `strel` is a release fence and a store, which the fence makes a release event. -/
def Rules.GlobalStores : Prop :=
  ∀ (s u : State) (r : PathRef) (d : BitVec 8) (a : MAddr) (m : MDesc) (x : Nat → Xlat) (fence : Bool), Issuing s r →
    s.dataOk r d m.size = true → s.addrOk r a = true → s.memLanes r ≠ [] →
    let rel := fence || releases m.order
    ReleaseGoes s r rel m.scope u →
    let v := if fence then u.modPath r (fun p => { p with fenced := widest p.fenced (some m.scope) }) else u
    v.memLanes r = s.memLanes r → (v.path r).live = true → (v.path r).done = 0 →
    MissesFree v r m.size.bytes (v.ea r a m.off) →
    (∀ l ∈ v.memLanes r, v.reach r .store m.size.bytes (v.ea r a m.off l) l = .ok (x l, .device) ∧
      v.owned (x l).key m.size.bytes = false ∧
      Untouched v r (decide (dieOfCore (v.coreOf r) = 1)) (x l).key m.size.bytes) →
    let out := (v.memLanes r).map fun l =>
      (⟨(x l).key, (x l).home, (v.ea r a m.off l).toNat, leBytes m.size.bytes (v.storeVal r d m.size l), l / 32, false⟩ : Out)
    let t := (v.storeAll r (storeLevel rel m.scope) (m.hint == 2) out { sync := rel }).advance r 2
    (fence = false → exec (.stg d a m) s = .next t) ∧ (fence = true → exec (.strel d a m) s = .next t) ∧
    ((∀ o ∈ out, remoteDie (v.coreOf r) o.home o.key = false) →
      ((v.path r).fenced = none ∨ ∀ c ∈ v.copies, c.2.dirty = false) → SameMemory v t)

/-- R224, R75: the bytes of a path's own store in flight are what its loads see; once the home has performed a
committed store, exactly its bytes have changed in memory. -/
def Rules.StoresPerformed : Prop :=
  ∀ (s : State) (r : PathRef) (home : Bool) (k va : Nat) (bs : List Byte),
    (∀ i (h : i < bs.length), (s.send r home k va (.write bs) false).viewByte r home (k + i) = bs[i]) ∧
    (∀ f rest, s.flight = f :: rest → f.op = .write bs → f.ver = 0 → s.crossHeld f = false →
      (∀ g ∈ rest, g.serial ≠ f.serial) → isHostKey (f.key + bs.length) = isHostKey f.key →
      ∃ t, exec (.homeAcknowledgement f.serial) s = .next t ∧ (s.vspans = [] → t.flight = rest ∧ ∀ j,
        t.memByte j = if h : f.key ≤ j ∧ j < f.key + bs.length then bs[j - f.key]'(by omega) else s.memByte j))

/-- R75, R224, R262, R306: global stores, from their issue to their home. When the home performs a store is the
agenda's (assumption 10). -/
def Obligations.GlobalStoresPerformed : Prop :=
  Rules.GlobalStores ∧ Rules.StoresPerformed

/-- R271 to R274: an atomic of one lane reads and writes the word at its home in one step, with nothing between;
the old value is on its way to the register. A comparison that fails writes nothing. That it is performed at its issue is
the model's reading (assumption 10). -/
def Rules.AtomicsReturning : Prop :=
  ∀ (s u : State) (r : PathRef) (d : BitVec 8) (a : MAddr) (m : MDesc) (l f : Nat) (x : Xlat), Issuing s r →
    s.addrOk r a = true → s.memLanes r = [l] → u.memLanes r = [l] → (s.path r).slot = .ok f →
    (u.path r).live = true → (u.path r).done = 0 → OrderGoes s r m.order (s.memScope r .atomic a m) u → u.vspans = [] →
    MissesFree u r m.size.bytes (u.ea r a m.off) →
    PlainAccess u r .atomic m.size.bytes (u.ea r a m.off l) l x →
    let n := m.size.bytes
    let old := u.memNat x.key n
    let put := fun (v : Nat) => u.homeWrite x.key (leBytes n v)
    let h := s.casHalf r m.size
    let ends := fun (t : State) (ws : List RegWrite) =>
      (t.startPend r f ws none false none (missesFor n (u.ea r a m.off) [l]) true).advance r 2
    (s.dataOk r d m.size = true →
      (∀ op, AtomOp.ofCode m.op = some op → exec (.atmr d a m) s =
        .next (ends (put (atomNew op (8 * n) old (s.storeVal r d m.size l))) (s.loadWrites r d m.size false l old))) ∧
      exec (.xchg d a m) s = .next (ends (put (s.storeVal r d m.size l)) (s.loadWrites r d m.size false l old))) ∧
    (s.casOk r d m.size = true →
      let t := ends (if old = s.dataGet r d.toNat h l % 2 ^ (8 * n) then
        put (s.dataGet r (d.toNat + h) h l % 2 ^ (8 * n)) else u) (s.dataSet r d.toNat h l old)
      exec (.cas d a m) s = .next t ∧ exec (.cas128 d a m) s = .next t)

/-- R220, R272: a non-returning atomic of one lane is sent to its home and goes on, or, where it acquires, is
performed there at its issue, which is the model's reading (assumption 10); at its home it changes its word alone, by
the operation of Table 5. -/
def Rules.AtomicsSent : Prop :=
  ∀ (s u : State) (r : PathRef) (d : BitVec 8) (a : MAddr) (m : MDesc) (l : Nat) (x : Xlat) (op : AtomOp),
    (Issuing s r → s.dataOk r d m.size = true → s.addrOk r a = true → s.memLanes r = [l] → u.memLanes r = [l] →
      (u.path r).live = true → (u.path r).done = 0 → OrderGoes s r m.order (s.memScope r .atomic a m) u →
      AtomOp.ofCode m.op = some op → MissesFree u r m.size.bytes (u.ea r a m.off) →
      PlainAccess u r .atomic m.size.bytes (u.ea r a m.off l) l x →
      u.meetHeld r (decide (dieOfCore (u.coreOf r) = 1)) x.key m.size.bytes = false →
      let n := m.size.bytes
      (acquires m.order = false → exec (.atm d a m) s = .next ((u.send r x.home x.key (u.ea r a m.off l).toNat
        (.atomic op n (BitVec.ofNat 64 (u.storeVal r d m.size l))) false { pass := u.nextSer * 32 + l / 32 }).advance r 2)) ∧
      (acquires m.order = true → u.vspans = [] → exec (.atm d a m) s = .next ((u.homeWrite x.key
        (leBytes n (atomNew op (8 * n) (u.memNat x.key n) (u.storeVal r d m.size l)))).advance r 2))) ∧
    (∀ f rest n v, s.flight = f :: rest → f.op = .atomic op n v → f.ver = 0 → s.crossHeld f = false →
      (∀ g ∈ rest, g.serial ≠ f.serial) → isHostKey (f.key + n) = isHostKey f.key →
      s.poisonedIn f.dom 0 f.key n = false → s.vspans = [] →
      ∃ t, exec (.homeAcknowledgement f.serial) s = .next t ∧ t.flight = rest ∧
        t.memNat f.key n = atomNew op (8 * n) (s.memNat f.key n) v.toNat % 2 ^ (8 * n) ∧
        ∀ j, j < f.key ∨ f.key + n ≤ j → t.memByte j = s.memByte j)

/-- R271 to R274: atomics that return a value and atomics that are sent. -/
def Obligations.Atomics : Prop :=
  Rules.AtomicsReturning ∧ Rules.AtomicsSent

/-- R265, R76: a load from a parameter window gives the lane the bytes at its offset, of any alignment; an offset
outside the window gives zero and sets PWV, and the instruction goes on. -/
def Obligations.ParameterLoads : Prop :=
  ∀ (s : State) (r : PathRef) (d : BitVec 8) (a : MAddr) (m : MDesc) (f l : Nat) (xs : List Xlat), Issuing s r →
    s.dataOk r d m.size = true → s.addrOk r a = true → (s.path r).slot = .ok f → (s.path r).done = 0 →
    s.memLanes r = [l] →
    let n := m.size.bytes
    let w := (s.gridOf r).record.windows.getD (a.base.toNat % 8) (0, 0)
    let o := s.ea r { a with base := 0 } m.off l
    let ea := fun l => w.1 + s.ea r { a with base := 0 } m.off l
    let ends := fun (t : State) (x : Nat) =>
      (t.startPend r f (s.loadWrites r d m.size (m.op.getLsbD 0) l x) none false none (missesFor n ea [l]) true).advance r 2
    MissesFree s r n ea →
    (0 ≤ o.toInt → o.toInt.toNat + n ≤ w.2 → w.2 ≠ 0 → s.bytesAt r (w.1 + o) l n = .ok xs →
      s.regions = [] → s.vspans = [] →
      (∀ x ∈ xs, x.host = false ∧ isHostKey x.key = false ∧ remoteDie (s.coreOf r) x.home x.key = false ∧
        s.poisonedIn (s.domOf r) (s.verOf r) x.key 1 = false ∧ s.poisoned x.key 1 = false ∧
        s.owned x.key 1 = false ∧ Untouched s r x.home x.key 1) → (∀ o ∈ s.l1own, o.core = s.coreOf r) →
      exec (.ldp d a m) s = .next (ends s (leNat (xs.map fun x => s.viewByte r x.home x.key)))) ∧
    (¬ (0 ≤ o.toInt ∧ w.2 ≠ 0 ∧ o.toInt.toNat + n ≤ w.2) →
      exec (.ldp d a m) s = .next (ends (s.addStatus r stPWV) 0))

/-- R263, R264, R73, R75: a prefetch and cache maintenance: `pfg`, with miss entries free for it, fills copies and goes on,
whatever its addresses, and changes no value that memory holds; `cwb` and `cinv` of one lane write back its line at their scope, and `cinv` drops
it; at system scope the dirty bytes of a host line go out to the host's port. That nothing else leaves a cache is the
model's choice (assumption 63). -/
def Obligations.CacheMaintenance : Prop :=
  ∀ (s : State) (r : PathRef) (a : MAddr) (m : MDesc), Issuing s r → s.addrOk r a = true →
    ((s.path r).done = 0 → MissesFree s r m.size.bytes (s.ea r a m.off) → (∀ c ∈ s.copies, c.2.dirty = false) →
      ∃ t, exec (.pfg a m) s = .next t ∧ t.path r = (s.path r).advance 2 ∧ SameMemory s t ∧
      SameV s t r ∧ SameS s t r ∧ SameP s t r ∧ TeamFrame s t r ∧
      t = { s with teams := t.teams, copies := t.copies, hostL2 := t.hostL2, owed := t.owed }) ∧
    (∀ l x, s.memLanes r = [l] → (s.path r).done = 0 → (s.ea r a m.off l).toNat < 2 ^ 56 →
      s.translate (s.coreOf r) (s.ctxOf r) (s.kernel r) .cache (s.ea r a m.off l) (some r) l = .ok x →
      let size := if m.op.getLsbD 0 then 256 else 32
      let first := x.key / size * size
      s.owned first size = false →
      (Scope.crossRdc m.scope = true → s.meetHeld r (decide (dieOfCore (s.coreOf r) = 1)) first size = false) →
      let v := if Scope.crossRdc m.scope then s.drain r first size else s
      let line := fun j => decide (first ≤ j) && decide (j < first + size)
      let u := fun (inv : Bool) =>
        let w := v.maintain r inv m.scope line
        if m.scope = .system then w.hostOut first size inv else w
      ((u false).path r).live = true → ((u true).path r).live = true →
      exec (.cwb a m) s = .next ((u false).advance r 2) ∧ exec (.cinv a m) s = .next ((u true).advance r 2) ∧
      (first + size ≤ 2 ^ 60 → ∀ j, line j = true → ((u true).copyByte (s.coreOf r) j).valid = false)) ∧
    (s.copies = [] → s.flight = [] → s.pend = [] → s.hostL2 = [] → (s.path r).done = 0 →
      (Scope.crossRdc m.scope = true → s.crossStop = false) →
      (∀ l ∈ s.memLanes r, (s.ea r a m.off l).toNat < 2 ^ 56 ∧
        let size := if m.op.getLsbD 0 then 256 else 32
        ∃ x, s.translate (s.coreOf r) (s.ctxOf r) (s.kernel r) .cache (s.ea r a m.off l) (some r) l = .ok x ∧
          s.owned (x.key / size * size) size = false) →
      exec (.cwb a m) s = .next (s.advance r 2) ∧ exec (.cinv a m) s = .next (s.advance r 2))

/-- R127, R266 to R268: a remote instruction sends one request for the lanes of its first peer that are not done, with
the team's key, domain and version, and waits for the reply with the flag of its slot busy; with every lane done it
completes, and its flag is clear. -/
def Obligations.RemoteRequests : Prop :=
  ∀ (s : State) (r : PathRef) (d : BitVec 8) (a : MAddr) (peer : VReg) (m : MDesc) (f : Nat),
    Issuing s r → (s.team r.tok).uniform = false → s.vOk r [peer] = true → s.addrOk r a = true →
    s.dataOk r d m.size = true → m.order = .plain → s.memLanes r ≠ [] →
    ((s.path r).slot = .ok f ∨ (s.path r).slot = .busy f ∧ s.pend = []) →
    let left := (s.memLanes r).filter fun l => !(s.path r).done.getLsbD l
    (∀ e rest, left = e :: rest →
      let g := left.filter fun l => s.vget r peer l == s.vget r peer e
      let ea := s.ea r a m.off
      let ok := fun k => s.arrived = false ∧ ∀ l ∈ g, s.remoteFault r k m.size.bytes (ea l) (s.vget r peer e) = none
      let req := fun k dest => (s.setFlag r f).sendRun r (s.vget r peer e) (s.remoteBody r k d m.size ea g)
        (maskOf g fun _ => true) dest none
      (ok (.load false) → exec (.rld d a peer m) s = .next (req (.load false) (some (d, m.op.getLsbD 0)))) ∧
      (ok .store → exec (.rst d a peer m) s = .next (req .store none)) ∧
      (∀ op, AtomOp.ofCode m.op = some op → op ≠ .cas → (∀ f ∈ s.flight, f.of r = true → f.sync = false) →
        (ok (.atomic op false) → exec (.ratm d a peer m) s = .next (req (.atomic op false) none)) ∧
        (ok (.atomic op true) → exec (.ratmr d a peer m) s = .next (req (.atomic op true) (some (d, false)))))) ∧
    (left = [] → ∀ op, AtomOp.ofCode m.op = some op → op ≠ .cas →
      let t := ((s.takeSlot r).endRuns r f).advance r 2
      (t.path r).flags.getLsbD f = false ∧
      exec (.rld d a peer m) s = .next t ∧ exec (.rst d a peer m) s = .next t ∧ exec (.ratm d a peer m) s = .next t ∧
      exec (.ratmr d a peer m) s = .next t)

/-! ### The matrix array and the tile store (R276 to R303) -/

/-- An operation queued at the array of the path's core, behind those there, with the slot bytes that copies not
ordered with it have overwritten; the path goes on (R281, R283). -/
def queuedState (s : State) (r : PathRef) (n : Nat) (op : ArrayOp) (f : CoreSt → CoreSt) : State :=
  ({ s.modCore (s.coreOf r) (fun c => { f c with queue := c.queue ++ [⟨r, s.nextSer, op, s.cores.flatMap fun c => c.2.racing.map fun x => (c.1, x.2)⟩] }) with
    nextSer := s.nextSer + 1 } : State).advance r n

/-- R279 to R281, R286 to R292, R295: the matrix instructions of a crew that holds its core's array check their
handles at issue and queue; a handle that is not live is a tile fault, a full queue makes the path wait. The blocks,
scales and zero points that a multiply has read are used (R83). -/
def Rules.MatrixQueued : Prop :=
  ∀ (s : State) (r : PathRef) (a b d : SReg) (slot slot' : Nat), Issuing s r → s.ownsArray r = true →
    let c := s.coreSt (s.coreOf r)
    let h := c.handle ((s.sget r a).setWidth 32)
    (h = none → exec (.trel a) s = .next (s.takeStop r { cause := 16, sub := 1 }) ∧
      exec (.tzero a) s = .next (s.takeStop r { cause := 16, sub := 1 })) ∧
    (h = some slot → 8 ≤ c.queue.length → exec (.tzero a) s = .next (s.waitFor r .room)) ∧
    (h = some slot → c.queue.length < 8 →
      exec (.trel a) s = .next (queuedState s r 1 (.trel slot) fun c =>
        { c with ending := c.ending ||| BitVec.ofNat 32 (2 ^ slot) }) ∧
      exec (.tzero a) s = .next (queuedState s r 1 (.tzero slot) id) ∧
      (∀ two, c.handle ((s.sget r d).setWidth 32) = some slot' →
        exec (.ttrans d a two) s = .next (queuedState s r 1 (.ttrans slot' slot two) id)) ∧
      (∀ (first cnt : BitVec 7) (off : BitVec 16) crew o, first.toNat + (cnt.toNat + 1) ≤ 64 →
        s.spRange (s.crewNo r) ((s.sget r b + off.signExtend 64).toNat % 2 ^ 32) (128 * (cnt.toNat + 1)) 16 =
          .ok (crew, o) →
        exec (.tld a b first cnt off) s = .next (queuedState s r 2 (.tld slot first.toNat (cnt.toNat + 1) crew o) id))) ∧
    (s.matrixTeam r = true → c.queue.length < 8 →
      (∀ banks : BitVec 2, banks ≠ 0 → exec (.mclr banks) s = .next (queuedState s r 1 (.mclr banks) id)) ∧
      ∀ (k : BitVec 9) (m : MulCmd), 1 ≤ k.toNat → k.toNat ≤ 256 →
        let check := s.mulCheck r (s.lowHalf r a) (s.lowHalf r b) ((s.sget r b).extractLsb' 32 32) true true k.toNat
        (check false = .ok m → exec (.mma a b k) s = .next (queuedState (s.useMul r m) r 2 (.mul m) id)) ∧
        (check true = .ok m → exec (.mmaz a b k) s = .next (queuedState (s.useMul r m) r 2 (.mul m) id)))

/-- R285, R290: `tclaim` claims the first free slot under its next generation, or answers 0x80000000 with every
slot taken; `tfmt` records the two format blocks, whose addresses must be aligned. That an address of 2^56 or more is a
translation fault whatever the alignment is the model's choice (assumption 75). -/
def Rules.TileClaimsAndFormats : Prop :=
  ∀ (s : State) (r : PathRef) (d a b : SReg), Issuing s r → s.ownsArray r = true →
    let core := s.coreOf r
    let free := (List.range 32).find? fun i => s.slotFree core i
    (free = none → WritesS (.tclaim d) s r d 0x80000000 1) ∧
    (∀ i, free = some i → ∃ t, exec (.tclaim d) s = .next t ∧
      let g := ((s.coreSt core).gen i + 1) % 256
      (∀ q, t.sget r q = if q = d ∧ d ≠ 0 then BitVec.ofNat 64 (g * 256 + i) else s.sget r q) ∧
      (t.coreSt core).claimed.getLsbD i = true ∧ (t.coreSt core).gen i = g ∧
      (t.coreSt core).queue = (s.coreSt core).queue ∧ (∀ k, k ≠ core → t.coreSt k = s.coreSt k) ∧
      t.path r = (s.path r).advance 1 ∧ SameMemory s t) ∧
    (s.matrixTeam r = true → (s.sget r a).toNat < 2 ^ 56 → (s.sget r b).toNat < 2 ^ 56 →
      ((s.sget r a).toNat % 32 = 0 → (s.sget r b).toNat % 32 = 0 → exec (.tfmt a b) s =
        .next ((s.modCore core fun c => { c with fa := some (s.sget r a), fb := some (s.sget r b) }).advance r 1)) ∧
      ((s.sget r a).toNat % 32 ≠ 0 → exec (.tfmt a b) s =
        .next (s.takeStop r { cause := 4, addr := s.sget r a })) ∧
      ((s.sget r a).toNat % 32 = 0 → (s.sget r b).toNat % 32 ≠ 0 → exec (.tfmt a b) s =
        .next (s.takeStop r { cause := 4, addr := s.sget r b }))) ∧
    (s.matrixTeam r = true → 2 ^ 56 ≤ (s.sget r a).toNat →
      exec (.tfmt a b) s = .next (s.takeStop r { cause := 6, sub := 2, addr := s.sget r a }))

/-- R279 to R292, R295: what the matrix instructions do at issue. -/
def Obligations.MatrixIssue : Prop :=
  Rules.MatrixQueued ∧ Rules.TileClaimsAndFormats

/-- R281, R283, R286 to R288: the instruction at the head of a core's queue executes and leaves the queue: a load of a
tile brings the rows from the scratchpad, `tzero` leaves its slot zero; no byte of memory changes. Another core changes
only in what its queued instructions may still see of slot bytes that a copy not ordered with them overwrote, and not
at all where there are none. An instruction executes in one step by the model's choice (assumption 13). -/
def Obligations.ArrayExecutes : Prop :=
  ∀ (s : State) (core : Nat) (e : ArrayEntry) (rest : List ArrayEntry), (s.coreSt core).queue = e :: rest →
    (∀ m l, e.op ≠ .coop m l) → s.arrayStill core = false →
    let raced := s.raceOp core e.op
    ∃ t, exec (.arrayQueueExecute core) s = .next t ∧ (t.coreSt core).queue = (raced.coreSt core).queue.drop 1 ∧
      SameMemory s t ∧ (∀ k, k ≠ core → t.coreSt k = raced.coreSt k) ∧
      ((∀ c ∈ s.cores, c.2.racing = [] ∧ ∀ q ∈ c.2.queue, q.old = []) →
        (t.coreSt core).queue = rest ∧ ∀ k, k ≠ core → t.coreSt k = s.coreSt k) ∧
      (∀ slot, e.op = .tzero slot → ∀ i, i < 8192 → Store.get 0 (t.coreSt core).slots (slotKeyOf slot i) = 0) ∧
      (∀ slot first n crew o, e.op = .tld slot first n crew o → (s.crew crew).spPoison = [] → ∀ i, i < 128 * n →
        Store.get 0 (t.coreSt core).slots (slotKeyOf slot (128 * first) + i) =
          Store.get 0 (s.crew crew).scratch (o + i))

/-- R298 to R301: a drain of one lane rounds its accumulator, scaled, and gives it late to the register; to
memory, the lane's row is stored where its address says, and its flag clears once the stores are performed. With CLR
the accumulators drained become zero. A multiply at the head of the queue may have added some of its products (R302). -/
def Obligations.ArrayDrains : Prop :=
  ∀ (s u : State) (r : PathRef) (d : VReg) (a : SReg) (o : OFmt) (clr : Bool) (l v f : Nat), Issuing s r →
    s.drains r = true → s.memLanes r = [l] → (s.path r).done = 0 →
    let core := s.coreOf r
    let clear := fun (t : State) (ks : List Nat) => if clr then t.clearAcc r ks else t
    (d.toNat < (s.team r.tok).budget →
      let m := l % 64
      let n := (s.sget r a).toNat % 128 + l / 64
      let g := s.raceCells core [(m, n)]
      (n ≤ 127 → g.drained r o m n = .ok (v, false) → exec (.mdrainRegister d a o clr) s =
        .next (((clear (g.useScales r [(m, n)]) [accKey (n / 64) m (n % 64)]).startLate r [.v d.toNat l (BitVec.ofNat 32 v)]).advance r 2)) ∧
      (127 < n → exec (.mdrainRegister d a o clr) s = .next ((s.startLate r []).advance r 2))) ∧
    (∀ red wide out, a.toNat % 2 = 0 → (s.path r).slot = .ok f → l < 64 →
      let cols := List.range (if wide then 128 else 64)
      let t := s.modPath r fun p => { p with done := p.done ||| maskOf [l] fun l => decide (64 ≤ l) }
      let row := fun (l : Nat) => s.sget r a + BitVec.ofNat 64 l * s.sget r (a + 1)
      let n := cols.length * ofmtBytes o
      t.memLanes r = [l] → MissesFree t r n row →
      State.drainRow r o red l (row l) cols (t.raceCells core (cols.map fun n => (l, n))) [] = .ok u [] out none →
      (u.path r).live = true →
      exec (.mdrainMemory a o red clr wide) s =
        .next ((((clear (u.useScales r (cols.map fun n => (l, n))) (cols.map fun n => accKey (n / 64) l (n % 64))).storeAll r 0 false
          (out.map fun x => { x with pass := l / 32 }) { tie := some f }).startPend r f [] none false none
            (missesFor n row [l]) true).advance r 2))

/-- R297: a participant waits for its cooperative tile; when each has come, the tile is queued at every
participant's core (here: a tile of one). -/
def Obligations.CooperativeTiles : Prop :=
  ∀ (s : State) (r : PathRef) (a b : SReg) (k : BitVec 9) (z : Bool) (mt : BitVec 3) (nt : BitVec 4),
    (Issuing s r → s.matrixTeam r = true → 1 ≤ k.toNat → k.toNat ≤ 256 → nt.toNat < 12 →
      ((s.crewOf r).cidx < (mt.toNat + 1) * (nt.toNat + 1) →
        Moves (.mcoop a b k z mt nt) s r { s.path r with wait := .mcoop }) ∧
      ((mt.toNat + 1) * (nt.toNat + 1) ≤ (s.crewOf r).cidx →
        exec (.mcoop a b k z mt nt) s = .next (s.takeStop r { cause := 16, sub := 2 }))) ∧
    (∀ grid cluster p m, s.coopWaiting grid cluster = [p] → p.mt = 1 → p.nt = 1 → p.cidx = 0 →
      s.coopCheck [p] p = .ok m → (s.coreSt (s.coreOf p.r)).queue.length < 8 →
      exec (.mcoopRendezvous grid cluster) s =
        .next ((queuedState (s.useMul p.r m) p.r 2 (.coop (coopCmd [(p, m)] p m) [s.coreOf p.r]) id).modCrew
          (s.crewNo p.r) fun c => { c with mcoops := c.mcoops + 1 }))

/-! ### Synchronisation (R304 to R320) -/

/-- R220, R305, R307: a fence releases, acquires, makes the path's later stores release events where it releases, and
goes on; `flwait` goes on when its flags are clear and waits while one is busy. -/
def Rules.FencesAndFlags : Prop :=
  ∀ (s u : State) (r : PathRef) (o : Order) (sc : Scope) (m : BitVec 12), Issuing s r →
    ((∀ k, (s.releaseIf r (releases o) sc fun t => t.acquire r (acquires o) true sc k) = k u) →
      exec (.fence o sc) s = .next ((u.modPath r fun p => { p with fenced := if releases o then widest p.fenced (some sc) else p.fenced }).advance r 1)) ∧
    ((s.path r).flags &&& m = 0 → waitNote (s.path r).poison m = none → MovesOn (.flwait m) s r 1) ∧
    ((s.path r).flags &&& m ≠ 0 → Moves (.flwait m) s r { s.path r with wait := .flags m })

/-- R220, R247, R466: a release at any scope waits while a store or a remote request of the path is on its way, or a load
of it has not bound, or dirty bytes that it writes back cannot cross the dies; with nothing left it performs the release and goes on. -/
def Rules.ReleaseWaitsForStores : Prop :=
  ∀ (s : State) (r : PathRef) (sc : Scope) (k : State → State), (∀ c ∈ s.copies, c.2.bad = false) →
    ((∃ f ∈ s.flight, f.of r = true) ∨ (∃ q ∈ s.reqs, q.r = r ∧ q.ended = false) ∨
      (∃ p ∈ s.pend, p.r = r ∧ (p.held = true ∨ p.loads.isSome = true)) ∨ s.outHeld (s.coreOf r) sc = true →
      s.release r sc k = s.waitFor r .release) ∧
    ((∀ f ∈ s.flight, f.of r = false) → (∀ q ∈ s.reqs, q.r = r → q.ended = true) → s.arrayBusy r = false →
      s.unread r = false → (∀ p ∈ s.pend, s.precedes r p.r p.serial = true → p.held = false ∧ p.loads = none) →
      (s.path r).poison = [] → (s.path r).failed = [] → s.outHeld (s.coreOf r) sc = false →
      s.release r sc k = k ((s.releaseAct r sc).modPath r fun p => { p with failed := [] }))

/-- R220, R247, R305, R307: fences, waits for flags, and what a release waits for. The scope that a wait for
flags acquires at is the model's reading (assumption 42). -/
def Obligations.FencesAndReleases : Prop :=
  Rules.FencesAndFlags ∧ Rules.ReleaseWaitsForStores

/-- R308, R309: waits for copy tags: `twany` answers the clear ones among those named, `twall` goes on once all
are clear; `tffr` takes the lowest tag not held, or answers 64; `tclr` gives back a tag that is not busy. -/
def Obligations.CopyTags : Prop :=
  ∀ (s : State) (r : PathRef) (d a : SReg) (t : BitVec 6), Issuing s r →
    let c := s.crewOf r
    let m := s.sget r a
    let busy := s.tagBusy (s.crewNo r)
    let l := clearTags busy m
    let seen := fun (l : List Nat) =>
      s.modCrew (s.crewNo r) fun c => { c with tagScope := c.tagScope.filter fun x => !l.contains x.1 }
    (m = 0 → exec (.twany d a) s = .next ((s.startLate r [.s d 0]).advance r 1)) ∧
    (m ≠ 0 → l = [] → exec (.twany d a) s = .next (s.waitFor r (.tags m false))) ∧
    (l ≠ [] → c.tagErr &&& tagMask l = 0 → c.tagScope = [] →
      exec (.twany d a) s = .next (((seen l).startLate r [.s d (tagMask l)]).advance r 1)) ∧
    (l ≠ [] → c.tagErr &&& tagMask l ≠ 0 → exec (.twany d a) s = .next ((s.modCrew (s.crewNo r) fun c =>
      { c with tagErr := c.tagErr &&& ~~~ tagMask l }).takeStop r { cause := 14, sub := 3 })) ∧
    (tagMask l ≠ m → exec (.twall a) s = .next (s.waitFor r (.tags m true))) ∧
    (tagMask l = m → c.tagErr &&& m = 0 → c.tagScope = [] → exec (.twall a) s = .next ((seen l).advance r 1)) ∧
    (64 ≤ s.tagsOn c.core → exec (.tffr d) s = .next ((s.startLate r [.s d 64]).advance r 1)) ∧
    (∀ i, s.tagsOn c.core < 64 → (List.range 64).find? (fun t => !c.tags.getLsbD t) = some i →
      exec (.tffr d) s = .next (((s.modCrew (s.crewNo r) fun c => { c with tags := c.tags ||| tagMask [i] }).startLate r
        [.s d (BitVec.ofNat 64 i)]).advance r 1)) ∧
    (c.tags.getLsbD t.toNat = false → MovesOn (.tclr t) s r 1) ∧
    (c.tags.getLsbD t.toNat = true → busy t.toNat = true →
      exec (.tclr t) s = .next (s.waitFor r (.tags (tagMask [t.toNat]) true))) ∧
    (c.tags.getLsbD t.toNat = true → busy t.toNat = false → c.tagErr &&& tagMask [t.toNat] = 0 → c.tagScope = [] →
      exec (.tclr t) s = .next (((seen [t.toNat]).modCrew (s.crewNo r) fun c =>
        { c with tags := c.tags &&& ~~~ tagMask [t.toNat] }).advance r 1))

/-- R310, R311, R495: `bar` releases and arrives at the next instance of its barrier, where it waits unless it was
the last (here: a crew of one team goes on at once); die and grid scope need a resident grid. Arrivals cross between the dies once the die is complete. -/
def Obligations.Barriers : Prop :=
  ∀ (s u : State) (r : PathRef) (id : BitVec 2) (sc : BarScope) (grid inst : Nat),
    (Issuing s r → (sc = .die ∨ sc = .grid) → (s.gridOf r).record.res = false →
      exec (.bar id sc) s = .next (s.takeStop r { cause := 19, sub := 1 })) ∧
    (Issuing s r → (sc = .crew ∨ sc = .clu ∨ (s.gridOf r).record.res = true) →
      ReleaseGoes s r true (barOrder sc) u →
      exec (.bar id sc) s =
        .next ((u.waitFor r (.bar sc id ((u.team r.tok).arrivals sc id))).barArrive r sc id)) ∧
    (Issuing s r → sc = .crew → ReleaseGoes s r true .crew u → u.teams = [(r.tok, u.team r.tok)] → u.saved = [] →
      (u.team r.tok).live = true → (u.path r).live = true → ((u.team r.tok).path (!r.path)).live = false →
      ∃ t, exec (.bar id sc) s = .next t ∧ t.path r = (u.path r).advance 1 ∧
        (t.team r.tok).arrivals sc id = (u.team r.tok).arrivals sc id + 1 ∧ SameMemory u t) ∧
    ((s.grid grid).live = true → (s.grid grid).twoDies = true → s.crossOpen = true →
      (s.dieArrivedAt grid 1 id inst = true → s.dieMsgs.contains (barMsg grid id inst) = false →
        exec (.dieArrived grid id inst) s =
          .next (({ s with dieMsgs := s.dieMsgs ++ [barMsg grid id inst] } : State).barSweep grid)) ∧
      (s.dieArrivedAt grid 0 id inst = true → s.dieMsgs.contains (barMsg grid id inst) = true →
        s.completes.contains (barMsg grid id inst) = false →
        exec (.complete grid id inst) s =
          .next (({ s with completes := s.completes ++ [barMsg grid id inst] } : State).barSweep grid)))

/-- R312, R313: `marm` reads at the home and arms the monitor in one step; `mwait` returns at once after a landing,
without a monitor, or after a restoration, and else waits, to its deadline where it has one. -/
def Rules.Monitors : Prop :=
  ∀ (s u : State) (r : PathRef) (d b : SReg) (m : MDesc) (x : Xlat),
    (Issuing s r → PlainAccess s r .load m.size.bytes (s.sget r b + m.off.signExtend 64) 0 x →
      s.missesUsed (s.coreOf r) < missEntries →
      AcquireGoes s r (acquires m.order) false m.scope u → (u.path r).live = true →
      PlainAccess u r .load m.size.bytes (u.sget r b + m.off.signExtend 64) 0 x →
      exec (.marm d b m) s = .next (((u.modPath r fun p =>
        { p with monitor := some ⟨flakeOf x.key, false, false⟩ }).startLate r
          [.s d (BitVec.ofNat 64 (u.memNat x.key m.size.bytes))]).advance r 2)) ∧
    (Issuing s r →
      let p := s.path r
      let wait := Option.map (fun t => s.tsc + t) (if s.sget r b = 0 then none else some (s.sget r b).toNat)
      (p.monitor = none → WritesS (.mwait d b) s r d 2 1) ∧
      (∀ k, p.monitor = some k →
        (k.restored = true → WritesSTo (.mwait d b) s r d 3 { p.advance 1 with monitor := none }) ∧
        (k.landed = true → k.restored = false → WritesSTo (.mwait d b) s r d 0 { p.advance 1 with monitor := none }) ∧
        (k.landed = false → k.restored = false → Moves (.mwait d b) s r { p with wait := .mwait wait d }))) ∧
    (∀ t, (s.path r).wait = .mwait (some t) d → s.running r = true →
      exec (.mwaitTimeout r) s = .next (((s.passTo t).modPath r fun p => { p with monitor := none }).endWait r d 1))

/-- R313: a write that lands on an armed flake is seen by its monitor, whichever path wrote. -/
def Rules.MonitorSeesWrite : Prop :=
  ∀ (s : State) (r : PathRef) (k : Nat) (bs : List Byte) (m : Monitor),
    (s.team r.tok).live = true → (s.path r).live = true → (s.path r).monitor = some m → bs ≠ [] →
    flakeOf k ≤ m.flake → m.flake ≤ flakeOf (k + bs.length - 1) → (∀ t d, (s.path r).wait ≠ .mwait t d) →
    ((s.homeWrite k bs).path r).monitor = some { m with landed := true }

/-- R312, R313: monitors, and the writes they see. -/
def Obligations.MonitorsAndWrites : Prop :=
  Rules.Monitors ∧ Rules.MonitorSeesWrite

/-- R245, R246, R314 to R318, R407: grace sections nest to 15; the first drops the copies its core holds, and `grout`
releases at device scope and leaves the snapshot with the last; `grwait` and `grfree` make their request once all that
the path did before has been performed; a deferred entry stands in the ring in memory, and `grpop` reads it there. -/
def Obligations.GracePeriods : Prop :=
  ∀ (s u : State) (r : PathRef) (d a : SReg), Issuing s r →
    let t := s.team r.tok
    let c := s.ctxOf r
    let x := s.ctx c
    let g := x.grace
    let ready := s.releaseGate r .device ≠ .wait
    let w := s.releaseAct r .device
    (t.grace = 15 → exec .grin s = .next (s.takeStop r { cause := 20, sub := 1 })) ∧
    (t.grace ≠ 15 → exec .grin s = .next (((if t.grace = 0 then s.acquireAct r .device else s).modTeam r.tok fun t =>
      { t with grace := t.grace + 1 }).advance r 1)) ∧
    (t.grace = 0 → exec .grout s = .next (s.takeStop r { cause := 20, sub := 2 })) ∧
    (t.grace ≠ 0 → ReleaseGoes s r true .device u →
      let v := (u.modTeam r.tok fun t => { t with grace := t.grace - 1 }).advance r 1
      exec .grout s = .next (if (v.team r.tok).grace = 0 then v.graceLeave (v.ctxOf r) r.tok else v)) ∧
    exec (.grq d) s = .next ((s.startLate r
      [.s d (BitVec.ofNat 64 (g.last % 2 ^ 32 + g.active.toNat * 2 ^ 32 + g.pending.toNat * 2 ^ 33))]).advance r 1) ∧
    (¬ ready → exec (.grwait d) s = .next (s.waitFor r .release)) ∧
    (ready → exec (.grwait d) s = .next
      (((w.graceRequest (w.ctxOf r)).1.waitFor r (.grwait (w.graceRequest (w.ctxOf r)).2 d)).graceSettle (w.ctxOf r) 3)) ∧
    (s.verOf r ≠ 0 → exec (.grfree d a) s = .next (s.takeStop r { cause := 12 })) ∧
    (s.verOf r = 0 → x.record.grsize ≤ g.ring.length →
      exec (.grfree d a) s = .next ((s.startLate r [.s d 1]).advance r 1)) ∧
    (s.verOf r = 0 → g.ring.length < x.record.grsize →
      (¬ ready → exec (.grfree d a) s = .next (s.waitFor r .release)) ∧
      (ready → exec (.grfree d a) s = .next ((((((w.graceRequest c).1.modCtx c fun y =>
        { y with grace := { y.grace with ring := y.grace.ring ++ [⟨(w.graceRequest c).2, false⟩] } }).homeWrite
          (x.record.grbase + 16 * ((g.head + g.ring.length) % x.record.grsize))
          (leBytes 8 (w.sget r a).toNat ++ leBytes 8 (w.sget r (a + 1)).toNat)).startLate r [.s d 0]).advance r 1).graceSettle c 3))) ∧
    (∀ e rest, g.ring = e :: rest → e.thawed = true →
      let k := x.record.grbase + 16 * (g.head % x.record.grsize)
      exec (.grpop d) s = .next ((((s.modCtx c fun y =>
        { y with grace := { y.grace with ring := rest, head := (g.head + 1) % x.record.grsize } }).acquireAct r .device).startLate r
          [.s d (BitVec.ofNat 64 (s.memNat k 8)), .s (d + 1) (BitVec.ofNat 64 (s.memNat (k + 8) 8))]).advance r 1)) ∧
    ((g.ring = [] ∨ ∃ e rest, g.ring = e :: rest ∧ e.thawed = false) →
      exec (.grpop d) s = .next ((s.startLate r [.s d 0, .s (d + 1) 0]).advance r 1))

/-- R319, R320, R474: `step` makes the team a member of the superstep and waits for the departure, or, once the device
has arrived, for the boundary after it; in another context than the stepping one it is a fault. `stepq` answers the
last outcome and whether the team has arrived. -/
def Obligations.Supersteps : Prop :=
  ∀ (s u : State) (r : PathRef) (d : SReg), Issuing s r →
    let mine := s.stepGroup = false ∨ s.ctxOf r = s.stepCtx
    let other := (u.team r.tok).path (!r.path)
    (s.stepGroup = true → s.ctxOf r ≠ s.stepCtx →
      exec (.step d) s = .next (s.takeStop r { cause := 19, sub := 2 })) ∧
    (mine → ReleaseGoes s r true .pod u →
      (u.arrived = true → exec (.step d) s = .next ((u.waitFor r (.step (u.stepNo + 1) d)).modTeam r.tok fun t =>
        { t with stepMember := true })) ∧
      (u.arrived = false → other.live = false →
        exec (.step d) s = .next (((u.waitFor r (.step u.stepNo d)).modTeam r.tok fun t =>
          { t with stepMember := true, stepAt := some u.stepNo }).stepCheck)) ∧
      (u.arrived = false → other.live = true → (∀ n q, other.wait ≠ .step n q) →
        exec (.step d) s = .next (((u.waitFor r (.step u.stepNo d)).modTeam r.tok fun t =>
          { t with stepMember := true }).stepCheck))) ∧
    exec (.stepq d) s = .next ((s.startLate r
      [.s d (BitVec.ofNat 64 (s.stepOut + (if (s.team r.tok).stepAt.isSome then 4 else 0)))]).advance r 1)

/-- A message comes at a port whose link is up, for this device, under a job key that the port's table holds, and it is
not one that has been performed (R471, R472). -/
def Arrives (s : State) (v : Via) : Prop :=
  s.boot = 2 ∧ s.portIsUp v.port = true ∧ v.h.dst = s.rank ∧ s.seenSeq.contains (v.h.src, v.h.serial) = false ∧
  (s.strict = true ∨ ∃ c, s.packetCtx v.port v.h = some c)

/-- A message is noted as performed and acknowledged to its sender (R472). -/
def Acked (t : State) (v : Via) : State :=
  ({ t with seenSeq := t.seenSeq ++ [(v.h.src, v.h.serial)] } : State).respond v.h (.ack v.h.serial)

/-- ABORT is known: the device departs with it, once its members have arrived (R476). -/
def Aborted (t : State) : State :=
  if t.arrived || t.stepTeams.isEmpty then ({ t with decision := some false } : State).depart false
  else { t with decision := some false }

/-- R475, R476: ARRIVE is kept once, and forwarded as the tree says, that of the next boundary kept for it; a decision
departs the device, an ABORT once its members have arrived; a query is answered from the decisions the device holds. Each
message is acknowledged. -/
def Rules.BoundaryMessages : Prop :=
  ∀ (s : State) (v : Via) (n : Nat) (node : Nat × Nat) (query : Bool), Arrives s v →
    let kept : State := { s with
      arrivals := if s.arrivals.contains node then s.arrivals else s.arrivals ++ [node]
      aliveAt := if s.begun then s.aliveAt else s.tsc }
    let answer := fun (t : State) (c : Option Bool) => Host.Outcome.next (Acked (t.tell [v.h.src] (.queryAnswer n c)) v)
    (s.stepGroup = false ∨ n ≠ s.stepNo → (s.stepGroup = true → n ≠ s.stepNo + 1) →
      exec (.arrive v n node) s = .next (Acked s v)) ∧
    (s.stepGroup = true → n = s.stepNo + 1 → exec (.arrive v n node) s =
      .next (Acked { s with early := if s.early.contains node then s.early else s.early ++ [node] } v)) ∧
    (s.stepGroup = true → n = s.stepNo → s.failures = [] → exec (.arrive v n node) s =
      .next (Acked (if s.arrived then kept.treeStep else kept.stepCheck true) v)) ∧
    (n ≠ s.stepNo ∨ s.stepGroup = false ∨ (s.queried = true ∧ query = false) →
      ∀ yes, exec (.boundaryDecision v n ⟨yes, query⟩) s = .next (Acked s v)) ∧
    (n = s.stepNo → s.stepGroup = true → s.queried = false ∨ query = true →
      (s.arrived = true → exec (.boundaryDecision v n ⟨true, query⟩) s = .next (Acked (s.depart true) v)) ∧
      exec (.boundaryDecision v n ⟨false, query⟩) s = .next (Acked (Aborted s) v)) ∧
    (n < s.stepNo → exec (.failureQuery v n) s = answer s (some (n + 1 != s.stepNo || s.stepOut != 2))) ∧
    (n = s.stepNo → s.decision ≠ none → exec (.failureQuery v n) s = answer s s.decision) ∧
    (n = s.stepNo → s.decision = none → exec (.failureQuery v n) s = answer { s with queried := true } none) ∧
    (s.stepNo < n → exec (.failureQuery v n) s = .next (Acked s v))

/-- R475, R476: an open boundary is kept alive by a message to the tree parent; a failed member is recorded: position 0
aborts a boundary that has begun, and another member without a decision asks every live member, whose answers it awaits;
one that holds COMPLETE completes it at all, and with none of them left it aborts. -/
def Rules.BoundaryFailures : Prop :=
  ∀ (s : State) (n rank port : Nat) (p : Packet) (c : Option Bool),
    let coll := (if s.failures.contains rank then s else { s with failures := s.failures ++ [rank] }).failColl rank
    let tells := fun (t : State) (yes : Bool) => ({ t with asked := [] } : State).tell t.liveMembers (.decide t.stepNo ⟨yes, true⟩)
    let heard := fun (t : State) (k : Nat) =>
      if t.asked.contains k then
        let rest := t.asked.filter fun x => x != k
        if rest = [] then Aborted (tells t false) else { t with asked := rest }
      else t
    (n = s.stepNo → s.stepGroup = true → s.begun = true → s.position ≠ 0 → exec (.keepAlive n) s =
      .next (({ s with aliveAt := s.tsc } : State).tell [s.treeParent] (.keepAlive n))) ∧
    (n ≠ s.stepNo ∨ s.stepGroup = false ∨ s.begun = false ∨ s.position = 0 → exec (.keepAlive n) s = .next s) ∧
    (s.stepGroup = false ∨ s.members.contains rank = false → exec (.memberFailure rank) s = .next (s.failColl rank)) ∧
    (s.stepGroup = true → s.members.contains rank = true →
      (s.decision ≠ none → exec (.memberFailure rank) s = .next coll) ∧
      (s.decision = none → coll.position = 0 → s.queried = false → exec (.memberFailure rank) s =
        .next (if s.begun then Aborted (coll.tell coll.otherMembers (.decide s.stepNo ⟨false, false⟩)) else coll)) ∧
      (s.decision = none → coll.position ≠ 0 ∨ s.queried = true →
        (s.asked = [] → exec (.memberFailure rank) s =
          .next (if coll.liveMembers = [] then Aborted { coll with queried := true, asked := [] }
            else ({ coll with queried := true, asked := coll.liveMembers } : State).tell coll.liveMembers (.query s.stepNo))) ∧
        (s.asked ≠ [] → exec (.memberFailure rank) s = .next (heard coll rank)))) ∧
    (Arrives s ⟨port, p.toPodHdr⟩ → p.body = .queryAnswer n c →
      let done := fun (t : State) => exec (.transactionPacket port p) s = .next (Acked t ⟨port, p.toPodHdr⟩)
      (n ≠ s.stepNo ∨ s.asked.contains p.src = false → done s) ∧
      (n = s.stepNo → s.asked.contains p.src = true → c = some true →
        done (if s.arrived then (tells s true).depart true else tells s true)) ∧
      (n = s.stepNo → s.asked.contains p.src = true → c ≠ some true → done (heard s p.src)))

/-- R475, R476: once the halves that a device's node computes are in and it has arrived, position 0 decides COMPLETE,
tells the others and departs, and any other hands its ARRIVE up the tree, once. -/
def Rules.ArrivalTree : Prop :=
  ∀ s : State, s.arrived = true → s.decision ≠ some false →
    let n := s.group'.length
    let p := s.position
    let lvl := handUp n p
    s.halvesIn n p lvl = true →
    (p = 0 → s.queried = false → s.treeStep =
      (({ s with decision := some true } : State).tell (if n = 1 then [] else s.otherMembers)
        (.decide s.stepNo ⟨true, false⟩)).depart true) ∧
    (p ≠ 0 → s.handed = false → s.treeStep =
      ({ s with handed := true } : State).tell [s.treeParent] (.arrive s.stepNo lvl (p / 2 ^ lvl))) ∧
    (p ≠ 0 → s.handed = true → s.treeStep = s)

/-- R319, R475, R476: a departure ends the step: the number goes up by one, the arrivals that are known are those of the
next boundary, the outcome tells an abort, and no contribution of the step is left; an abort applies none, so memory
stays. -/
def Rules.Departure : Prop :=
  ∀ (s : State) (complete : Bool), s.regionsNext = none → (∀ c ∈ s.ctxs, c.2.heldPackets = []) →
    let t := s.depart complete
    t.stepNo = s.stepNo + 1 ∧ t.arrived = false ∧ t.arrivals = s.early ∧ t.handed = false ∧ t.decision = none ∧
    (∀ e ∈ t.firn, complete = true ∧ e ∈ s.firn ∧ e.step ≠ s.stepNo) ∧
    (complete = false → t.stepOut = 2 ∧ t.stepState = 2) ∧
    (complete = true → t.stepOut = 0 ∨ t.stepOut = 1) ∧
    ((∀ q ∈ s.copies, q.2.dirty = false) → (complete = false ∨ s.firn = []) → SameMemory s t)

/-- R319, R475, R476: the messages of a boundary, and the departure from it. -/
def Obligations.PodBoundaries : Prop :=
  Rules.BoundaryMessages ∧ Rules.BoundaryFailures ∧ Rules.ArrivalTree ∧ Rules.Departure

/-! ### System instructions (R400 to R406) and the control space (R399) -/

/-- R400, R412: `csrr` and `csrw` at kernel privilege on a listed register: the value read, write-only registers
as zero; a read of a semaphore joins the requests of its tick and waits; the new value that `csrw` forms goes to
the register's own rules once everything earlier has completed. -/
def Obligations.RegisterInstructions : Prop :=
  ∀ (s u : State) (r : PathRef) (d a : SReg) (addr : BitVec 16) (op : CsrOp), Issuing s r → s.kernel r = true →
    let n := addr.toNat
    csrListed n = true →
    let asks := fun (s : State) (w : Bool) (v : DWord) =>
      ({ s with semReqs := s.semReqs ++ [⟨.team (BitVec.ofNat 32 r.tok), n - 0x4000, w, s.tsc, v, some r⟩] } : State)
    let old := u.csrRead n (unitOf n (u.coreOf r))
    let x := u.sget r a
    let new := match op with
      | .write => x
      | .set => old ||| x
      | .clear => old &&& ~~~ x
    (isSem n = false → n ≠ 0x4069 → WritesS (.csrr d addr) s r d (s.csrRead n (unitOf n (s.coreOf r))) 2) ∧
    (csrWo n = true → s.csrRead n (unitOf n (s.coreOf r)) = 0) ∧
    (n = 0x4069 → exec (.csrr d addr) s = .next (((s.scanRead (s.coreOf r) (some (s.ctxOf r))).1.sset r d
      (s.scanRead (s.coreOf r) (some (s.ctxOf r))).2).advance r 2)) ∧
    (isSem n = true → exec (.csrr d addr) s = .next ((asks s false 0).waitFor r (.sem (n - 0x4000) d))) ∧
    ((csrWc n = true → op = .write) → (s.path r).flags = 0 → (∀ l ∈ s.late, l.r.tok ≠ r.tok) →
      ReleaseGoes s r true .device u →
      (isSem n = true → exec (.csrw op addr a) s = .next ((asks u true new).advance r 2)) ∧
      (isSem n = false → exec (.csrw op addr a) s = .next
        ((u.advance r 2).csrWrite ⟨u.coreOf r, some (u.ctxOf r)⟩ n (unitOf n (u.coreOf r)) new.toNat))) ∧
    ((csrWc n = true → op = .write) → (s.path r).flags ≠ 0 →
      exec (.csrw op addr a) s = .next (s.waitFor r (.flags (s.path r).flags)))

/-- R403 to R406, R444: `tlbi` drops the entries it names from every TLB and goes on once every access of the contexts
named that is on its way has been performed, which it waits for where one cannot cross the dies; `sfence` waits for the
path's stores and atomics and then the tables are read; `frz` and its thaw join the requests; `wfi` ends at once on a pending reason, the
lower one first, and else sleeps, to its deadline where it has one. -/
def Obligations.FencesOfTables : Prop :=
  ∀ (s : State) (r : PathRef) (d a : SReg), Issuing s r → s.kernel r = true →
    let c := (s.sget r a).toNat % 2 ^ 20
    let va := (s.sget r d).toNat
    let drops := fun (i : Instr) (ctxs : Nat → Bool) (p : TlbEntry → Prop) [DecidablePred p] =>
      let w : State := { s with tlb := s.tlb.filter fun e => decide (¬ p e) }
      (w.onWay ctxs = true → exec i s = .next (w.waitFor r .room)) ∧
      (w.onWay ctxs = false → exec i s =
        .next (((w.bindIf fun p _ => ctxs (w.ctxOf p.r)).drainIf fun (g : Flight) => ctxs g.ctx).advance r 1))
    let mine := fun (x : Nat) => s.ctxPart x == s.ctxPart (s.ctxOf r)
    let p := s.path r
    let req := fun (thaw : Bool) => ({ s with frzReqs := s.frzReqs ++ [⟨c, thaw, s.tsc + 64⟩] } : State)
    drops (.tlbiPage d a) (fun x => x == c) (fun e => e.ctx = c ∧ e.vbase ≤ va ∧ va < e.vbase + e.size) ∧
    drops (.tlbiCtx a) (fun x => x == c) (fun e => e.ctx = c) ∧
    drops .tlbiPart mine (fun e => mine e.ctx = true) ∧
    ((∀ f ∈ s.flight, f.of r = false) → (∀ q ∈ s.reqs, q.r = r → q.ended = true) →
      s.outHeld (s.coreOf r) .device = false → exec .sfence s = .next (((s.releaseAct r .device).readTables).advance r 1)) ∧
    ((∃ f ∈ s.flight, f.of r = true) ∨ (∃ q ∈ s.reqs, q.r = r ∧ q.ended = false) ∨
        s.outHeld (s.coreOf r) .device = true → exec .sfence s = .next (s.waitFor r .room)) ∧
    ((s.ctx c).record.valid = true →
      (c = s.ctxOf r → exec (.frz a) s = .next ((req false).waitFor r .frz)) ∧
      (c ≠ s.ctxOf r → exec (.frz a) s = .next ((req false).advance r 1)) ∧
      exec (.frzThaw a) s = .next ((req true).advance r 1)) ∧
    ((s.ctx c).record.valid = false → exec (.frz a) s =
      .next ((s.logRefused (s.coreOf r) (some (s.ctxOf r)) 0x4060 c).advance r 1)) ∧
    (p.pend0 = true → WritesSTo (.wfi d a) s r d 0 { p.advance 1 with pend0 := false }) ∧
    (p.pend0 = false → p.pend2 = true → WritesSTo (.wfi d a) s r d 2 { p.advance 1 with pend2 := false }) ∧
    (p.pend0 = false → p.pend2 = false → Moves (.wfi d a) s r { p with
      wait := .wfi (if s.sget r a = 0 then none else some (s.tsc + (s.sget r a).toNat)) d }) ∧
    ∀ q t e, (s.path q).wait = .wfi (some t) e → s.running q = true →
      exec (.wfiTimeout q) s = .next ((s.passTo t).endWait q e 1)

/-- R399, R400, R54, R55, R413: what a write from outside does: one to no listed register, or to a unit that does
not exist, is logged and changes no register; a pool boundary keeps its value while a crew is on the core or out of
order, and else takes it once the L1 has been written back and emptied; a partition keeps its limits; `hflush`
delivers what its port has accepted and then shows its token; the other registers' rows write through the same rules. -/
def Rules.RegisterWrites : Prop :=
  ∀ (s : State) (v : DWord), s.boot = 2 →
    let host := fun (addr unit val : Nat) => Host.Outcome.next (s.csrWrite ⟨586, none⟩ addr unit val)
    let log := fun (addr val : Nat) => Host.Outcome.next (s.logRefused 586 none addr val)
    let x := v.toNat
    (∀ src addr unit, isSem addr.toNat = false →
      exec (.controlRegisterWrite src addr unit v) s =
        .next (s.csrWrite ⟨if src = 0 then 586 else if src = 1 then 587 else 589, none⟩ addr.toNat unit x)) ∧
    (∀ w addr unit val, csrListed addr = false ∨ unitsIn addr ≤ unit →
      s.csrWrite w addr unit val = s.logRefused w.src w.ctx addr val) ∧
    (∀ reg core, core < 576 →
      let i := match reg with
        | PoolReg.regtop => 0
        | .sptop => 1
        | .cachetop => 2
      let new := x / 2 ^ 14 % 2 ^ 7
      let top := fun j => if j = i then new else s.top core j
      let ok := new ≤ 64 ∧ top 0 ≤ top 1 ∧ top 1 ≤ top 2 ∧ s.crewsOn core = []
      (¬ ok → exec (.poolBoundaryWrite core reg v) s = log (0x1000 + i) x) ∧
      (ok → exec (.poolBoundaryWrite core reg v) s =
        .next (((s.flushHome core fun _ => true).dropCopies core fun _ => true).csrPut (0x1000 + i) core
          (BitVec.ofNat 64 (new * 2 ^ 14))))) ∧
    (∀ n, n < 6 →
      let y := BitVec.ofNat 64 (x % 2 ^ 53)
      exec (.partWrite n v) s =
        if s.partFits n y && s.partKeeps n y then .next (s.csrPut (0x4030 + n) 0 y) else log (0x4030 + n) x) ∧
    (∀ die : Bool, exec (.doorbell die) s = .next (s.doorbell die) ∧
      exec (.firnsize die v) s = host 0x3011 die.toNat x) ∧
    (∀ (port : Bool) (tok : Word), exec (.hflush port tok) s =
      .next ((s.deliver port).csrPut (0x4041 + 2 * port.toNat) 0 (BitVec.ofNat 64 tok.toNat))) ∧
    (∀ strict : Bool,
      let t := if s.csrGet 0x4083 0 = 0 then s.csrPut 0x4085 0 (BitVec.ofNat 64 strict.toNat)
        else s.logRefused 586 none 0x4085 strict.toNat
      exec (.fmode strict) s = .next (if t.strict then { t with slew := 0, locked := false } else t)) ∧
    (∀ (boot : Nat) w addr unit val, boot ≠ 2 → (boot = 3 → addr ≠ 0x40A9) →
      ({ s with boot := boot } : State).csrWrite w addr unit val = { s with boot := boot }) ∧
    (∀ rank : BitVec 12, exec (.rankWrite rank) s = host 0x4089 0 rank.toNat) ∧
    exec (.stepctlEn v) s = host 0x4090 0 x ∧
    exec .resume s = host 0x4090 0 ((s.csrGet 0x4090 0).toNat % 2 ^ 21 + 2 ^ 21)

/-- R466, R467: D2DCONN changes only once the die-to-die traffic has drained and within its limits, PORTEN only for
drained ports; each change takes 10 microseconds. DQ and PQ are set and cleared in PRDCTL: what waited to cross
crosses once DQ is clear and no die's clock stands still; the packets that a port which starts to drain still holds go
to other ports, or wait for one; the routing die reports a port as quiesced once it holds no packet that is not
acknowledged. -/
def Rules.CircuitChanges : Prop :=
  ∀ (s : State) (v : DWord) (mask : Word) (port : Nat),
    let log := fun (addr val : Nat) => Host.Outcome.next (s.logRefused 586 none addr val)
    let n01 := v.toNat % 2 ^ 12
    let n10 := v.toNat / 2 ^ 16 % 2 ^ 12
    let old : Word := (s.csrGet 0x4083 0).setWidth 32
    let pq : Word := (s.csrGet 0x4081 0).extractLsb' 32 32
    let busy := some (s.tsc + 10 * us)
    s.boot = 2 →
    (s.dqd = true → n01 + n10 ≤ 2048 → 64 ≤ n01 → 64 ≤ n10 → exec (.d2dconn v) s =
      .next (({ s with busy := busy } : State).csrPut 0x4080 0 (BitVec.ofNat 64 (n01 + n10 * 2 ^ 16)))) ∧
    (s.dqd = false ∨ 2048 < n01 + n10 ∨ n01 < 64 ∨ n10 < 64 → exec (.d2dconn v) s = log 0x4080 v.toNat) ∧
    ((old ^^^ mask) &&& ~~~ s.pqd ≠ 0 → exec (.porten mask) s = log 0x4083 mask.toNat) ∧
    ((old ^^^ mask) &&& ~~~ s.pqd = 0 → old ^^^ mask ≠ 0 → exec (.porten mask) s =
      .next (({ s with busy := busy, portup := s.portup &&& mask } : State).csrPut 0x4083 0 (mask.setWidth 64))) ∧
    (∃ t, exec .dqSet s = .next t ∧ t.dq = true ∧ (s.dq = false → t.dqSer = s.nextSer) ∧ t.dqd = s.dqd ∧ SameMemory s t) ∧
    (∃ t, exec .dqClear s = .next t ∧ t.dq = false ∧ t.dqd = false ∧
      (s.stopped false = false → s.stopped true = false → t.owed = []) ∧ (s.owed = [] → SameMemory s t)) ∧
    (∃ t, exec (.pq mask) s = .next t ∧ (t.csrGet 0x4081 0).extractLsb' 32 32 = mask ∧ t.pqd = s.pqd &&& mask ∧
      t.dq = (s.csrGet 0x4081 0).getLsbD 0 ∧
      (∀ q ∈ t.reqs, q.ended = false → ∀ k, q.port = some k → (mask &&& ~~~ pq).getLsbD k = false) ∧
      (∀ q ∈ t.podOut, ∀ k, q.port = some k → (mask &&& ~~~ pq).getLsbD k = false) ∧
      t.reqs.map (fun q => (q.serial, q.packet)) = s.reqs.map (fun q => (q.serial, q.packet)) ∧
      t.podOut.map (fun q => q.p) = s.podOut.map (fun q => q.p) ∧ (s.owed = [] → SameMemory s t)) ∧
    (pq.getLsbD port = true → s.portHolds port = false → exec (.portQuiesced port) s =
      .next { s with pqd := s.pqd ||| BitVec.ofNat 32 (2 ^ port) }) ∧
    (s.portHolds port = true → exec (.portQuiesced port) s = .next s) ∧
    (s.dq = true → (∀ f ∈ s.flight, decide (dieOfCore f.core = 1) ≠ f.home → s.dqSer ≤ f.serial) →
      (∀ p ∈ s.pend, ∀ l, p.loads = some l → ∀ e ∈ l.lanes, decide (dieOfCore (s.coreOf p.r) = 1) ≠ e.2.2.2 →
        s.dqSer ≤ p.serial) → exec .dieToDieQuiesced s = .next { s with dqd := true }) ∧
    (∀ t, s.busy = some t → exec .circuitChangeDone s = .next { s.passTo t with busy := none })

/-- R399, R400, R55, R413, R466, R467: writes of control registers from outside, and what the routing die
reports. The source that a refused write is logged under, and what read-only registers do, are the model's
(assumptions 33 and 34). -/
def Obligations.ControlRegisters : Prop :=
  Rules.RegisterWrites ∧ Rules.CircuitChanges

/-- R405, R461 to R464: a freeze request takes effect 64 ticks later, and no path of the context is ready then; a
thaw takes effect 64 ticks later, and a crew alone on its core is no longer frozen. The scan path reads a frozen
crew's image 8 bytes at a time, and zero where it selects none; a checkpoint of a frozen context runs to its end,
with an event, and a checkpoint from the rank that ICEIN names, and from no other, is written to memory, poisoned where
its marks say (R456). What a
checkpoint holds, once the context's stores to the range have reached it, is the model's reading (assumption 35). -/
def Obligations.FreezeAndCapture : Prop :=
  ∀ (s : State) (c : Nat),
    let req := fun (thaw : Bool) => ({ s with frzReqs := s.frzReqs ++ [⟨c, thaw, s.tsc + 64⟩] } : State)
    let fin := fun (i : Instr) (thaw : Bool) => ∀ q, (s.frzReqs.find? fun q => q.ctx == c && q.thaw == thaw) = some q →
      (s.ctx c).frozen = thaw →
      ∃ t, exec i s = .next t ∧ t.frzReqs = s.frzReqs.erase q ∧ t.frzCtx = c ∧ s.tsc ≤ t.tsc ∧ q.due ≤ t.tsc ∧
        (t.ctx c).frozen = !thaw ∧
        (thaw = false → ∀ r, s.ctxOf r = c → (s.crewOf r).live = true → t.isReady r = false) ∧
        (thaw = true → (s.ctx c).heldPackets = [] → ∀ n w, s.crews = [(n, w)] → w.live = true →
          (s.grid w.grid).ctx = c → (t.crew n).frozen = false)
    (s.boot = 2 → (s.ctx c).record.valid = true → c < 2 ^ 20 →
      exec (.frzctlFreeze c) s = .next (req false) ∧ exec (.frzctlThaw c) s = .next (req true)) ∧
    fin (.freezeTakesEffect c) false ∧ fin (.thawTakesEffect c) true ∧
    (s.boot = 2 → (s.ctx c).frozen = true → s.iceState ≠ 1 → c < 2 ^ 20 → exec (.icectl c) s =
      .next { s with iceCtx := some c, iceState := 1, iceTsc := s.tsc }) ∧
    (s.boot = 2 → (s.ctx c).frozen = false → c < 2 ^ 20 → exec (.icectl c) s = .next (s.logRefused 586 none 0x4073 c)) ∧
    (s.iceCtx = some c → (let t := s.iceRecall c
      exec (.iceboxFinished true) s = .next (({ t with
        iceCtx := none, iceState := 2
        out := t.out ++ [.checkpoint (t.csrGet 0x4070 0).toNat (t.iceStream c)] } : State).logEvent 623 14 0 (some c)
          (leBytes 8 (t.iceStream c).bytes.length ++ leBytes 1 2))) ∧
      ∃ n, n.length = 8 ∧ exec (.iceboxFinished false) s = .next (({ s with iceCtx := none, iceState := 3 } :
        State).logEvent 623 14 0 (some c) (n ++ leBytes 1 3))) ∧
    (∀ src (data : Marked), src < 2 ^ 12 →
      let base := (s.csrGet 0x4076 0).toNat
      exec (.checkpointStream src data) s =
        .next (if (s.csrGet 0x4075 0).getLsbD 12 = true ∧ (s.csrGet 0x4075 0).toNat % 2 ^ 12 = src ∧
            physRangeOk base data.bytes.length = true then
          data.bad.foldl (fun s o => (s.poisonFlake (base + o)).poisonFlake (base + o + 31)) (s.homeWrite base data.bytes)
        else s)) ∧
    (let sel := (s.csrGet 0x4068 0).toNat
     s.scanCrew = none ∨ (∃ n, s.scanCrew = some n ∧ (s.scanImage n).length ≤ sel % 2 ^ 32) →
      ∃ t, exec .scandata s = .next t ∧ t.out = s.out ++ [.barRead 0 0x4069 0] ∧
        (t.csrGet 0x4068 0).toNat = sel / 2 ^ 32 * 2 ^ 32 + (sel % 2 ^ 32 + 8) % 2 ^ 32) ∧
    (∀ n, s.scanCrew = some n → let sel := (s.csrGet 0x4068 0).toNat
      let off := sel % 2 ^ 32
      off < (s.scanImage n).length → ∃ t, exec .scandata s = .next t ∧
        t.out = s.out ++ [.barRead 0 0x4069 (BitVec.ofNat 64 (leNat (((s.scanImage n).drop off).take 8)))] ∧
        (t.csrGet 0x4068 0).toNat = sel / 2 ^ 32 * 2 ^ 32 + (off + 8) % 2 ^ 32 ∧ SameMemory s t)

/-- R412: requests join those of their tick and are served at its end. A read of a free semaphore acquires it for
the reader and says so, to the path that waits for it where a team reads; a read of a held one changes nothing; of two
reads of one tick the lower source acquires; its holder's write frees it, and no other's does. A port's link going down
frees what it holds. -/
def Obligations.Semaphores : Prop :=
  ∀ (s : State) (src : SemSource) (n : Nat), n < 32 → s.boot = 2 →
    let num := fun (x : SemSource) => (semNum x, semToken x)
    let m := s.sem n
    let after := fun (t : State) => t.sem n
    let one := fun (w : Bool) => s.semReqs = [⟨src, n, w, s.tsc, 0, none⟩]
    let ask := fun (w : Bool) => ({ s with semReqs := s.semReqs ++ [⟨src, n, w, s.tsc, 0, none⟩] } : State)
    let tells := fun (t : State) (v : Nat) => t.out = s.out ++ [.semReply src n (BitVec.ofNat 64 v)]
    exec (.semRead src n) s = .next (ask false) ∧ exec (.semWrite src n) s = .next (ask true) ∧
    (one false → ∃ t, exec .semaphoreTickServe s = .next t ∧ t.semReqs = [] ∧ t.tsc = s.tsc + 1 ∧ SameMemory s t ∧
      (m.held = false → (after t).held = true ∧ ((after t).owner, (after t).holder) = num src ∧
        tells t ((semToken src).toNat * 2 ^ 32 + 3 * 2 ^ 30 + semNum src)) ∧
      (m.held = true → after t = m ∧ tells t (m.holder.toNat * 2 ^ 32 + 2 ^ 31 + m.owner)) ∧
      ∀ k, k ≠ n → t.sem k = s.sem k) ∧
    (one true → ∃ t, exec .semaphoreTickServe s = .next t ∧ t.semReqs = [] ∧
      (m.held = true → (m.owner, m.holder) = num src → (after t).held = false) ∧
      (m.held = false ∨ (m.owner, m.holder) ≠ num src → after t = m) ∧ ∀ k, k ≠ n → t.sem k = s.sem k) ∧
    (∀ other a b, num src ≠ num other → semNum src < semNum other → [a, b].Perm [src, other] → m.held = false →
      s.semReqs = [⟨a, n, false, s.tsc, 0, none⟩, ⟨b, n, false, s.tsc, 0, none⟩] →
      ∃ t, exec .semaphoreTickServe s = .next t ∧ t.semReqs = [] ∧ (after t).held = true ∧
        ((after t).owner, (after t).holder) = num src ∧
        t.out = s.out ++ [.semReply src n (BitVec.ofNat 64 ((semToken src).toNat * 2 ^ 32 + 3 * 2 ^ 30 + semNum src)),
          .semReply other n (BitVec.ofNat 64 ((semToken src).toNat * 2 ^ 32 + 2 ^ 31 + semNum src))]) ∧
    (∀ r d, s.semReqs = [⟨src, n, false, s.tsc, 0, some r⟩] → (s.path r).wait = .sem n d → d ≠ 0 → m.held = false →
      ∃ t, exec .semaphoreTickServe s = .next t ∧ (after t).held = true ∧ (t.path r).wait = .none ∧
        t.sget r d = BitVec.ofNat 64 ((semToken src).toNat * 2 ^ 32 + 3 * 2 ^ 30 + semNum src)) ∧
    ∀ port : Bool, ∃ t, exec (.hostLinkDown port) s = .next t ∧ t.hostUp port = false ∧
      (t.hostUp (!port) = s.hostUp (!port)) ∧
      ∀ k, k < 32 → t.sem k = if (s.sem k).held && (s.sem k).owner == port.toNat then ⟨false, 0, 0⟩ else s.sem k

/-! ### Engine commands (R321 to R331, R350 to R357, R362 to R368) -/

/-- R308, R321, R341: every engine command needs its tag held, or takes an engine fault, and waits while its core's
queue of 64 is full. -/
def Rules.EngineIssueChecks : Prop :=
  ∀ (s u : State) (r : PathRef) (d a : SReg) (tag : BitVec 6) (sp hold : Bool), Issuing s r →
    (hold = true → ∃ f, (s.path r).slot = .ok f) →
    let all := [Instr.cpy d a sp hold tag, .cpyx d a hold tag, .gath a tag, .kvap a tag, .kvseal a tag, .kvcopy a tag,
      .smpl d a tag, .coll a tag]
    ((s.crewOf r).tags.getLsbD tag.toNat = false → ∀ i ∈ all,
      exec i s = .next (s.takeStop r { cause := 18, sub := 1 })) ∧
    ((s.crewOf r).tags.getLsbD tag.toNat = true → ReleaseGoes s r true .crew u → 64 ≤ u.queueLen (u.coreOf r) →
      ∀ i ∈ all, exec i s = .next (u.waitFor r .room))

/-- What an engine command is issued with: its tag is held, everything before it has been performed, leaving u, and
the core's queue has room. -/
structure Submits (s u : State) (r : PathRef) (tag : BitVec 6) : Prop where
  issuing : Issuing s r
  held    : (s.crewOf r).tags.getLsbD tag.toNat = true
  goes    : ReleaseGoes s r true .crew u
  room    : u.queueLen (u.coreOf r) < 64

/-- The engines with one more command of the path. -/
def joined (u : State) (r : PathRef) (tag : BitVec 6) (kind : EngKind) (phase : EngPhase) : State :=
  { u with
    engines := u.engines ++ [{
      serial := u.nextSer, core := u.coreOf r, crew := u.crewNo r, r := r, pc := (u.path r).pc, ctx := u.ctxOf r,
      kernel := u.kernel r, dom := u.domOf r, ver := u.verOf r, tag := tag.toNat, kind := kind, phase := phase,
      err := false, asks := none, hurt := false, clear := false }]
    nextSer := u.nextSer + 1 }

/-- A command is queued, and the path has moved on. -/
def submitted (u : State) (r : PathRef) (tag : BitVec 6) (kind : EngKind) : State :=
  (joined u r tag kind .queued).advance r 1

/-- A copy is held under an index, which is on its way to a register with a flag, and the path has moved on. -/
def heldUnder (u : State) (r : PathRef) (tag : BitVec 6) (kind : EngKind) (d : SReg) (i f : Nat) : State :=
  ((joined u r tag kind (.held i)).startPend r f [.s d (BitVec.ofNat 64 (0x80000000 + i))]).advance r 1

/-- R321, R325, R329, R330: a copy, an indexed copy or a collective reads its structure at issue, checks it, and joins
the queue as that snapshot; a malformed one faults at the command with nothing queued. With `.hold` a copy is inert
under its index, which it gives to its register. -/
def Rules.CopiesSubmitted : Prop :=
  ∀ (s u : State) (r : PathRef) (d a : SReg) (tag : BitVec 6), Submits s u r tag →
    let va := u.sget r a
    let read := fun n (x : DWord) => u.vUnits (u.viewOf r) 4 n x
    let bad := fun (i : Instr) (sub : Nat) => exec i s = .next (u.takeStop r { cause := 18, sub := sub })
    let signals := fun (es : List ChainEntry) => es.filterMap fun e => match e with
      | .signal _ obj _ => some (obj, 8)
      | _ => none
    (∀ sp, let x := if sp then (va.setWidth 32).setWidth 64 else va
      let rd := fun y => if sp then u.spWords (u.crewNo r) y else read 8 y
      (x.toNat % 32 ≠ 0 → exec (.cpy d a sp false tag) s = .next (u.takeStop r { cause := 4, addr := x })) ∧
      (x.toNat % 32 = 0 →
        (State.readChain rd 64 x = .ok none → bad (.cpy d a sp false tag) 2) ∧
        (∀ es gs, State.readChain rd 64 x = .ok (some es) → chainShape es = true →
          (∀ e i, es[i]? = some e → u.entryFault r es i e = none) → u.chainGens (u.viewOf r) es = .ok gs →
          let t := u.usedAll (u.viewOf r) ((if sp then [] else [(x, 32 * es.length)]) ++ signals es)
          exec (.cpy d a sp false tag) s = .next (submitted t r tag (.chain gs)) ∧
          ∀ f i, (s.path r).slot = .ok f → t.freeHeld = some i →
            exec (.cpy d a sp true tag) s = .next (heldUnder t r tag (.chain gs) d i f)))) ∧
    (∀ w, va.toNat % 64 = 0 → read 16 va = .ok w →
      let t := u.vUse (u.viewOf r) va 64
      (cpyxOf w = none → exec (.cpyx d a false tag) s = .next (t.takeStop r { cause := 18, sub := 3 })) ∧
      (∀ x, cpyxOf w = some x → x.idx.toNat < 2 ^ 56 → x.base.toNat < 2 ^ 56 →
        (∀ i, i < x.count → t.placeFault r (x.line i) x.rowlen 3 = none) →
        exec (.cpyx d a false tag) s = .next (submitted t r tag (.indexed x)) ∧
        ∀ f i, (s.path r).slot = .ok f → t.freeHeld = some i →
          exec (.cpyx d a true tag) s = .next (heldUnder t r tag (.indexed x) d i f))) ∧
    (u.verOf r ≠ 0 → exec (.coll a tag) s = .next (u.takeStop r { cause := 12 })) ∧
    (∀ w group c o, u.verOf r = 0 → va.toNat % 64 = 0 → read 16 va = .ok w → 2 ≤ w.getD 8 0 → w.getD 8 0 ≤ 4096 →
      let t := u.vUse (u.viewOf r) va 64
      let t' := t.vUse (u.viewOf r) (quadAt w 6) (4 * w.getD 8 0)
      (quadAt w 6).toNat % 4 = 0 → (quadAt w 10).toNat % 8 = 0 →
      t.vUnits (u.viewOf r) 4 (w.getD 8 0) (quadAt w 6) = .ok group →
      (if quadAt w 10 = 0 then o = 0 else t'.vNat (u.viewOf r) 8 (quadAt w 10) = .ok o) →
      collOf w group t'.rank (objGen o) = some c → exec (.coll a tag) s =
        .next (submitted (t'.usedAll (u.viewOf r) (objRange (quadAt w 10))) r tag (.coll c [])))

/-- R308, R321, R325, R329, R330, R341: what every engine command checks, and copies and collectives. -/
def Obligations.CopiesAndCollectives : Prop :=
  Rules.EngineIssueChecks ∧ Rules.CopiesSubmitted

/-- R321, R350, R351, R362 to R368: a KV command reads its block and records, and `smpl` its job block, chain and
slot records, at issue, and joins the queue as that snapshot; scratchpad data lie in its crew's scratchpad. -/
def Obligations.KvAndSamplerSubmitted : Prop :=
  ∀ (s u : State) (r : PathRef) (d a : SReg) (tag : BitVec 6), Submits s u r tag →
    let v := u.viewOf r
    let read := fun (t : State) n (x : DWord) => t.vUnits v 4 n x
    let gen := fun (t : State) (obj : DWord) (g : Nat) => (obj = 0 ∧ g = 0) ∨ ∃ o, obj ≠ 0 ∧ t.vNat v 8 obj = .ok o ∧ g = objGen o
    (∀ (op : KvOp) w sw tw sq src g c,
      let block := u.vUse v (u.sget r a) 64
      let seq := block.vUse v (quadAt w 0) 64
      let t := if op = .kvcopy then seq.vUse v (quadAt w 8) 64 else seq
      (u.sget r a).toNat % 64 = 0 → read u 16 (u.sget r a) = .ok w →
      (quadAt w 0).toNat % 64 = 0 → (quadAt w 12).toNat % 8 = 0 → read block 16 (quadAt w 0) = .ok sw → seqOf' sw = some sq →
      ((op ≠ .kvcopy ∧ src = seqOf' []) ∨
        (op = .kvcopy ∧ (quadAt w 8).toNat % 64 = 0 ∧ read seq 16 (quadAt w 8) = .ok tw ∧ src = seqOf' tw ∧ src.isSome = true)) →
      gen t (quadAt w 12) g → kvOf op (u.sget r a) w sq src g = some c →
      (c.dsp = true → ∃ p, t.spRange (t.crewNo r) (c.data.toNat % 2 ^ 32) c.dataLen 1 = .ok p) →
      exec (match op with
        | .gath => .gath a tag
        | .kvap => .kvap a tag
        | .kvseal => .kvseal a tag
        | .kvcopy => .kvcopy a tag) s = .next (submitted (t.usedAll v (objRange (quadAt w 12))) r tag (.kv c))) ∧
    (∀ w chain slots g off,
      let job := u.sget r d
      let ca : DWord := ((u.sget r a).setWidth 32).setWidth 64
      let es := if (w.getD 6 0).testBit 0 then 2 else 4
      let t := u.vUse v job 64
      job.toNat % 64 = 0 → u.spRange (u.crewNo r) ca.toNat 32 32 = .ok off → u.elsewhere v job = false →
      read u 16 job = .ok w → (quadAt w 2).toNat % 64 = 0 → readStages (t.spWords (t.crewNo r)) 32 ca = .ok (some chain) →
      jobOk w = true → stagesOk chain = true → t.readSlots v es (w.getD 0 0) (quadAt w 2) = .ok (some slots) →
      let t' := t.vUse v (quadAt w 2) (64 * w.getD 0 0)
      gen t' (quadAt w 8) g → exec (.smpl d a tag) s = .next (submitted (t'.usedAll v (objRange (quadAt w 8))) r tag (.smpl
        { job := job, nslot := w.getD 0 0, vocab := w.getD 1 0, work := quadAt w 4, lfmt := es == 2,
          trapEmpty := (w.getD 6 0).testBit 1, obj := quadAt w 8, gen := g, scope := w.getD 10 0, chain := chain,
          slots := slots, phases := slots.map fun _ => .waiting, trapped := 0 })))

/-- R248, R323, R324, R352, R384, R449: a queued command runs its snapshot; a refused access ends it in error with its
destinations poisoned, a KV command's with those it had written; an access that faults holds a stop, and poison read
again ends it in error. One that finished makes its last writes, clears its tag and leaves, once what its
release writes back can cross the dies; one in error sets ENGSTAT.ERR and its tag's error status. -/
def Rules.EngineRunsAndCompletes : Prop :=
  ∀ (s : State) (n : Nat) (e : EngCmd), s.engine n = some e → e.asks = none → (s.ctx e.ctx).frozen = false →
    let phase := fun (t : State) (p : EngPhase) => t.modEngine n fun x => { x with phase := p }
    let start := exec (.engineCommandStart n) s
    let fin := exec (.engineCommandCompletion n) s
    let out := s.outHeld e.core e.kind.scope = false
    let gone := fun (t : State) => t.engines.filter fun x => x.serial != n
    (e.phase = .queued → e.err = false → (∀ c, e.kind = .kv c → s.kvShut e c = false) → s.copies = [] →
      (∀ t b, s.engRun e = .ran t b → start = .next (phase t (if b then .finished else .running))) ∧
      (∀ t ds, s.engRun e = .bad t ds → start = .next (t.engError e (match e.kind with
        | .kv _ => ds
        | _ => t.engPlaces e))) ∧
      (∀ c sub va acc ds, s.engRun e = .held (.fault c sub va acc) ds →
        (c ≠ 14 ∨ e.hurt = false → ∃ t, start = .next t ∧
          ∀ x ∈ t.engines, x.serial = n → ∃ h late, x.phase = .stopped h late) ∧
        (c = 14 → e.hurt = true → start = .next (s.engError e (match e.kind with
          | .kv _ => ds
          | _ => s.engPlaces e))))) ∧
    (e.phase = .finished → e.err = true → e.clear = false → e.tag < 64 → (s.ctx e.ctx).heldPackets = [] → out →
      ∃ t, fin = .next t ∧ t.engines = gone s ∧ (t.crew e.crew).tagErr.getLsbD e.tag = true ∧
        (t.csrGet 0x1004 e.core).getLsbD 2 = true) ∧
    (e.phase = .finished → e.err = false → e.kind.object.1 = 0 → (s.ctx e.ctx).heldPackets = [] → out →
      ((∀ c, e.kind ≠ .smpl c) → ∃ t, fin = .next t ∧ t.engines = gone s ∧
        ((∀ d l, e.kind ≠ .coll d l) → SameMemory s t) ∧ (t.crew e.crew).tagErr = (s.crew e.crew).tagErr ∧
        ((∀ x ∈ s.engines, x.crew = e.crew → x.tag = e.tag → x.serial = n) → t.tagBusy e.crew e.tag = false)) ∧
      (∀ c u, e.kind = .smpl c → e.clear = false → s.vPut e.view (c.job + 28) (leBytes 4 c.trapped) = .ok u →
        (u.ctx e.ctx).heldPackets = [] → ∃ t, fin = .next t ∧ t.engines = gone u ∧ SameMemory u t)) ∧
    (e.phase = .finished → e.err = false → e.kind.object.1 ≠ 0 → (∀ c, e.kind ≠ .smpl c) → out →
      ∀ u, s.objArrive e.view e.kind.object.2.2 e.kind.object.1 e.kind.object.2.1 = .ok u →
        (u.ctx e.ctx).heldPackets = [] → ∃ t, fin = .next t ∧ t.engines = gone u)

/-- R324: an arrival at an object counts down, sets DONE at the last and SAT at zero, and touches nothing but the
object; where the generation has changed it sets STALE alone. -/
def Rules.Arrivals : Prop :=
  ∀ (s : State) (v : View) (sc : Scope) (obj : DWord) (gen k : Nat), v.ver = 0 → s.vspans = [] → s.copies = [] →
    s.objReach v sc obj = .ok k → isHostKey k = false → isHostKey (k + 7) = false →
    let o := s.memNat k 8
    let logs := (s.csrGet 0x4051 0).toNat ≠ 0
    ∃ t, s.objArrive v sc obj gen = .ok t ∧
      (objGen o ≠ gen → (t.csrGet 0x1004 v.core).getLsbD 0 = true ∧ (¬ logs → SameMemory s t)) ∧
      (objGen o = gen → (o % 2 ^ 24 = 0 → (t.csrGet 0x1004 v.core).getLsbD 1 = true) ∧
        (¬ logs → t.memNat k 8 =
            (if o % 2 ^ 24 = 0 then o ||| 2 ^ 49 else if o % 2 ^ 24 = 1 then (o - 1) ||| 2 ^ 48 else o - 1) % 2 ^ 64 ∧
          ∀ j, j < k ∨ k + 8 ≤ j → t.memByte j = s.memByte j))

/-- R331, R365, R369, R380, R480: a member's message reaches its running collective, or is kept for one that has not
begun, and one whose header is not that of the device's own command ends it in error and tells the others; a slot of a running `smpl` runs, and goes on when its adjust kernel has completed; a
kernel whose budget is spent is killed, and its slot traps once it has gone. What names no command, or one that is not
running, changes nothing. -/
def Rules.CollectivesAndSlots : Prop :=
  ∀ (s : State) (n slot level index : Nat) (v : Via) (hdr : CollHdr) (vals : List DWord),
    let none' := s.engines = [] ∨ ∀ e, s.engine n = some e → e.phase ≠ .running
    let comes := exec (.collectiveData v hdr level index vals) s
    (none' → exec (.samplerSlotRun n slot) s = .next s ∧ exec (.adjustKernelCompletion n slot) s = .next s) ∧
    (s.engines = [] → exec (.watchdog n slot) s = .next s ∧
      (Arrives s v → comes = .next (Acked { s with collIn := s.collIn ++ [(hdr, level, index, vals)] } v))) ∧
    (∀ e d nodes, Arrives s v → s.engines = [e] → e.kind = .coll d nodes → d.collid = hdr.collid → e.phase = .running →
      (hdr = d.hdr → (s.ctx e.ctx).frozen = false →
        (∀ t ns fin, s.collStep e d (nodes ++ [(level, index, vals)]) = .ok (t, ns, fin) →
          comes = .next (Acked (t.modEngine e.serial fun x =>
            { x with kind := .coll d ns, phase := if fin then .finished else .running }) v)) ∧
        (s.collStep e d (nodes ++ [(level, index, vals)]) = .error .refuse →
          comes = .next (Acked (s.engError e (s.engPlaces e)) v))) ∧
      (hdr ≠ d.hdr → comes = .next (Acked ((s.tellFail e d).engError e (s.engPlaces e)) v))) ∧
    ∀ e c x, s.engine n = some e → e.kind = .smpl c → c.slots[slot]? = some x →
      (e.phase = .running → e.asks = none → (s.ctx e.ctx).frozen = false →
        (c.phases[slot]? = some .waiting → exec (.samplerSlotRun n slot) s = .next (s.slotStart e c slot x)) ∧
        ∀ run h b used start, c.phases[slot]? = some (.calling run h b used start) → (s.grid h).phase = .complete →
          (start = none → used = overBudget b → exec (.adjustKernelCompletion n slot) s =
            .next (s.slotDone e (s.slotTrap e c slot x 3 run.idx))) ∧
          (start ≠ none ∨ used ≠ overBudget b →
            ((s.grid h).killed = true ∨ (s.grid h).cause ≠ 0 → exec (.adjustKernelCompletion n slot) s =
              .next (s.slotDone e (s.slotTrap e c slot x 4 run.idx))) ∧
            ∀ bs t, (s.grid h).killed = false → (s.grid h).cause = 0 →
              s.slotGet e (c.wAt slot) (4 * c.vocab) = .ok bs →
              (callOk run.prob (wordsLe bs) = false → exec (.adjustKernelCompletion n slot) s =
                .next (s.slotDone e (s.slotTrap e c slot x 2 run.idx))) ∧
              (callOk run.prob (wordsLe bs) = true → s.openWork e c slot = .ok t →
                exec (.adjustKernelCompletion n slot) s = .next (s.slotDone e (t.slotHalt e c slot x
                  (t.runStages e c slot x stageFuel { run with idx := run.idx + 1 } (wordsLe bs))))))) ∧
      ∀ run h b used start, c.phases[slot]? = some (.calling run h b used (some start)) →
        (s.grid h).phase ≠ .complete → s.watchdogDue h b used (some start) = true → exec (.watchdog n slot) s =
          .next ((s.killGrid h).setSlot n c slot (.calling run h b (overBudget b) none) false)

/-- R248, R323, R324, R331, R352, R365, R369, R380, R384, R449: commands at work and their ends. Commands run in one
step and fault without effect, and an event that names no running command changes nothing, by the model's choice
(assumptions 7, 11, 12 and 54). -/
def Obligations.EnginesAtWork : Prop :=
  Rules.EngineRunsAndCompletes ∧ Rules.Arrivals ∧ Rules.CollectivesAndSlots

/-! ### Launches, work queues, counts and resolves (R332 to R340, R415, R422) -/

/-- R31, R35, R332, R334, R422: `launch` gives its grid the next handle, checks it, and gives the handle with the cause
to its register; its grid has those dependences left that are not met; `.hold` keeps the grid inert. While the
dispatcher is full it waits with its flag busy, and goes on from there. -/
def Rules.Launches : Prop :=
  ∀ (s u : State) (r : PathRef) (d a : SReg) (w : List Nat) (kd : KDesc) (f : Nat), Issuing s r →
    ((s.path r).slot = .ok f ∨
      ((s.path r).slot = .busy f ∧ ∀ p ∈ s.pend, p.flag = f → s.precedes r p.r p.serial = false)) →
    ReleaseGoes (s.clearFlag r f) r true .device u →
    let va := u.sget r a
    let v := u.viewOf r
    let rec' := recordOf w
    let seen := u.vUse v va 192
    let u' := seen.useKd v rec'.kdesc
    let h := u'.nextGrid.toNat
    let result := fun (t : State) (x : Nat) => u'.pend = [] → t.pend =
      [⟨u'.nextSer, r, f, [.s d (BitVec.ofNat 64 x)], none, false, none, 0, false, none⟩]
    va.toNat % 64 = 0 → u.vUnits v 4 48 va = .ok w → seen.readKd v rec'.kdesc = .ok kd →
    (∃ t, exec (.launch d a true) s = .next t ∧ t.grid h = { Grid.none with
        live := true, ctx := u'.ctxOf r, kernel := u'.kernel r, dom := u'.domOf r, ver := u'.verOf r, record := rec',
        kd := kd, source := .launch, phase := .held, ldom := u'.domOf r, lver := u'.verOf r, lcrew := u'.crewNo r,
        order := u'.nextSer + 1, since := u'.tsc } ∧
      t.nextGrid = u'.nextGrid + 1 ∧ (∀ k, k ≠ h → t.grid k = u'.grid k) ∧ SameMemory u' t ∧ result t (h + 2 ^ 40)) ∧
    (u'.gridsFull = true → exec (.launch d a false) s = .next ((u'.setFlag r f).waitFor r .room)) ∧
    (u'.gridsFull = false →
      let cause := if (u'.dom (u'.domOf r)).liveVer (u'.verOf r) = false then 5 else if rec'.shapeOk = false then 1
        else if kd.valid = false ∨ (u'.ctx (u'.ctxOf r)).record.valid = false then 2 else 0
      (cause ≠ 0 → ∃ t, exec (.launch d a false) s = .next t ∧ (t.grid h).phase = .complete ∧ (t.grid h).cause = cause ∧
        t.nextGrid = u'.nextGrid + 1 ∧ result t (h + cause * 2 ^ 32)) ∧
      (cause = 0 → rec'.res = false → rec'.spec = none → ∃ t, exec (.launch d a false) s = .next t ∧
        (t.grid h).phase = .blocked ∧ (t.grid h).record = rec' ∧ (t.grid h).dom = u'.domOf r ∧
        (t.grid h).ver = u'.verOf r ∧ t.nextGrid = u'.nextGrid + 1 ∧ (∀ k, k ≠ h → t.grid k = u'.grid k) ∧
        (∀ k ∈ rec'.deps, k ≠ h → (k ∈ (t.grid h).unmet ↔ (u'.grid k).live = true ∧ (u'.grid k).phase ≠ .complete)) ∧
        (t.path r).pc = ((u'.path r).advance 1).pc ∧ SameMemory u' t ∧ result t h))

/-- R40 to R42, R335, R425: `spawn` appends a record for each active lane that is not done to the cart of its triple, in
lane order; at a lane that would make a cart where none may be made it stalls, the lanes before it done, and so goes on
from there; a cart whose timer expires is a runnable grid of its records. -/
def Rules.Carts : Prop :=
  ∀ (s u : State) (r : PathRef) (a : SReg) (b : VReg) (len : BitVec 3) (kd : KDesc), Issuing s r →
    let va := u.sget r a
    let n := len.toNat + 1
    (ReleaseGoes s r true .device u → (s.team r.tok).uniform = false → b.toNat + n ≤ 256 → s.vOk r (vRun b n) = true →
      let lanes := (u.memLanes r).filter fun l => !(u.path r).done.getLsbD l
      (lanes = [] → exec (.spawn len a b) s = .next (u.advance r 1)) ∧
      (lanes ≠ [] → va.toNat % 16 = 0 → u.readKd (u.viewOf r) va = .ok kd →
        let t := u.useKd (u.viewOf r) va
        (kd.node n = false → exec (.spawn len a b) s = .next (t.takeStop r { cause := 18, sub := 4 })) ∧
        (kd.node n = true → exec (.spawn len a b) s = .next (t.spawnLanes r va kd (vRun b n) lanes)))) ∧
    (let spawns := fun (t : State) (ls : List Nat) => t.spawnLanes r va kd (vRun b n) ls
     (∀ l ls, s.cartFor r va = none → s.cartRoom = false → spawns s (l :: ls) = s.waitFor r .spawn) ∧
     (∀ l ls, s.cartFor r va ≠ none ∨ s.cartRoom = true → spawns s (l :: ls) =
       spawns ((s.appendCart r va kd ((vRun b n).map fun x => s.vget r x l)).modPath r fun p =>
         { p with done := p.done ||| laneBit l }) ls) ∧
     spawns s [] = s.advance r 1) ∧
    ∀ c rest, s.carts = c :: rest → (s.ctx c.ctx).frozen = false → (s.dom c.dom).liveVer c.ver = true →
      c.kd.valid = true → (s.ctx c.ctx).record.valid = true →
      let g := fun (t : State) => t.grid s.nextGrid.toNat
      ∃ t, exec (.cartTimerExpiry c.id) s = .next t ∧ (g t).phase = .runnable ∧ (g t).live = true ∧
        (g t).source = .cart c.records ∧ (g t).record.crews = 1 ∧ (g t).dom = c.dom ∧ (g t).ver = c.ver ∧
        t.carts = s.carts.filter (fun x => x.id != c.id) ∧ s.tsc ≤ t.tsc ∧ c.due ≤ t.tsc ∧ SameMemory s t

/-- R31, R35, R40 to R42, R332, R334, R335, R422, R425: launches and carts. The name of a cart, the checks of records
and the two bounds on carts are the model's readings (assumptions 45, 46 and 79). -/
def Obligations.LaunchesAndCarts : Prop :=
  Rules.Launches ∧ Rules.Carts

/-- R336, R415: `wqpop` takes the oldest item to memory and frees its place, or answers 0 for an empty queue;
`wqpush` adds one, or answers 1 for a full queue; one that is not for the instruction, or that has been overrun and is
disabled, answers 2. -/
def Rules.WorkQueues : Prop :=
  ∀ (s u : State) (r : PathRef) (d a b : SReg) (f : Nat), Issuing s r → (s.path r).slot = .ok f →
    let q := (s.sget r b).toNat % 2 ^ 13
    let w := s.wq q
    let fin := fun (t : State) (x : Nat) => Host.Outcome.next ((t.startPend r f [.s d (BitVec.ofNat 64 x)]).advance r 1)
    let next := fun (i : Nat) => leBytes 4 ((i + 1) % 2 ^ 32)
    let mine := s.queueIn (s.ctxPart (s.ctxOf r)) q && w.valid
    (mine = false ∨ w.item = false → exec (.wqpop d a b) s = fin s 2) ∧
    (mine = true → w.item = true → s.wqLen w = 0 → exec (.wqpop d a b) s = fin s 0) ∧
    (mine = true → w.item = true → 2 ^ w.logn < s.wqLen w → exec (.wqpop d a b) s = fin (s.disableQueue q) 2) ∧
    (∀ t, mine = true → w.item = true → 0 < s.wqLen w → s.wqLen w ≤ 2 ^ w.logn →
      s.poisoned (w.slot (s.wqC w)) w.size = false →
      let u := s.acquireAct r .device
      u.vPut (u.viewOf r) (u.sget r a) (u.memBytes (w.slot (s.wqC w)) w.size) = .ok t →
      exec (.wqpop d a b) s = fin (t.homeWrite (w.idx + 4) (next (s.wqC w))) 1) ∧
    (ReleaseGoes s r true .device u →
      let q := (u.sget r b).toNat % 2 ^ 13
      let w := u.wq q
      let mine := u.queueIn (u.ctxPart (u.ctxOf r)) q && w.valid && w.prod == 2
      (mine = false → exec (.wqpush d a b) s = fin u 2) ∧
      (mine = true → u.wqLen w = 2 ^ w.logn → exec (.wqpush d a b) s = fin u 1) ∧
      (∀ bs, mine = true → u.wqLen w < 2 ^ w.logn → u.vBytes (u.viewOf r) w.size (u.sget r a) = .ok bs →
        let t := u.vUse (u.viewOf r) (u.sget r a) w.size
        exec (.wqpush d a b) s =
          fin ((t.homeWrite (w.slot (t.wqP w)) bs).homeWrite w.idx (next (t.wqP w))) 0))

/-- R337 to R340, R422: `cntp` applies its entries in order and releases what they name, and waits while the dispatcher or
an engine's queue has no room for all of it; `resolve` at the domain's home
commits the chain of its leaf and squashes the other live versions, or answers why not; with peers it sends each the
numbered broadcast, and its result is held until they have answered. -/
def Rules.CountsAndResolves : Prop :=
  ∀ (s u : State) (r : PathRef) (d a b : SReg) (f : Nat), Issuing s r → (s.path r).slot = .ok f →
    let fin := fun (t : State) (x : DWord) => Host.Outcome.next ((t.startPend r f [.s d x]).advance r 1)
    (ReleaseGoes s r true .device u →
      let va := u.sget r a
      let n := (u.sget r b).toNat
      let v := u.viewOf r
      (va.toNat % 16 = 0 → n = 0 ∨ 256 < n → exec (.cntp d a b) s = .next (u.takeStop r { cause := 18, sub := 3 })) ∧
      (∀ w, va.toNat % 16 = 0 → 1 ≤ n → n ≤ 256 → u.vUnits v 4 (4 * n) va = .ok w →
        let u := u.vUse v va (16 * n)
        let x := u.applyCounts v va 0 ((List.range n).map fun i => countEntryOf ((w.drop (4 * i)).take 4)) [] 0
        let launches := (x.2.1.filter fun o => !o.1).length
        let full := launches ≠ 0 ∧ 16384 < u.gridsIn + launches
        let long := ∃ o ∈ x.2.1, o.1 = true ∧ ∃ e ∈ u.engines, e.serial = o.2 ∧ 64 ≤ u.queueLen e.core
        (full ∨ long → exec (.cntp d a b) s = .next (u.waitFor r .room)) ∧
        (¬ full → ¬ long →
          exec (.cntp d a b) s = fin (x.2.1.foldl State.releaseHeld x.1) (BitVec.ofNat 64 x.2.2)))) ∧
    (ReleaseGoes s r true .pod u →
      let dm := (u.sget r a).toNat % 256
      let leaf := (u.sget r b).toNat % 64
      let x := u.dom dm
      let com := (u.chain dm leaf).reverse
      let sq := (x.live.map fun y => y.ver).filter fun v => !com.contains v
      let fin := fun (t : State) (x : DWord) =>
        Host.Outcome.next ((t.startPend r f [.s d x] (scope := some .pod)).advance r 1)
      (x.home ≠ u.rank → exec (.resolve d a b) s = fin u 1) ∧
      (u.domOf r = dm → u.verOf r ≠ 0 → exec (.resolve d a b) s = fin u 1) ∧
      (x.home = u.rank → u.domOf r ≠ dm ∨ u.verOf r = 0 → x.liveVer leaf = false → exec (.resolve d a b) s = fin u 2) ∧
      (x.home = u.rank → u.domOf r ≠ dm ∨ u.verOf r = 0 → x.liveVer leaf = true → u.livePeers dm = [] →
        exec (.resolve d a b) s = fin ((u.applyResolve dm com sq).modDom dm fun y =>
          { y with num := y.num + 1, notes := 0, accept := acceptNext y.accept com.length sq.length })
          (BitVec.ofNat 64 (com.length * 2 ^ 8 + sq.length * 2 ^ 16))) ∧
      (x.home = u.rank → u.domOf r ≠ dm ∨ u.verOf r = 0 → x.liveVer leaf = true → u.livePeers dm ≠ [] →
        ∃ t, exec (.resolve d a b) s = .next t ∧
          (∀ p ∈ u.livePeers dm, ∃ q ∈ t.podOut, q.p.dst = p ∧ q.p.body = .resolve ⟨dm, x.num + 1, x.notes⟩ com sq) ∧
          ∃ q ∈ t.pend, q.r = r ∧ q.flag = f ∧ q.held = true))

/-- R336 to R340, R415: work queues, count patching and resolves. -/
def Obligations.QueuesCountsAndResolves : Prop :=
  Rules.WorkQueues ∧ Rules.CountsAndResolves

/-! ### Completions, the ends of paths, teams and grids, and the dispatcher -/

/-- A team's registers with some results in them; those of a memory access for lanes that have retired are
discarded. -/
def withResults (t : Team) (memory : Bool) (ws : List RegWrite) : Team :=
  ws.foldl (fun x w => match w with
    | .v reg lane y => if memory = true ∧ t.retired.getLsbD lane = true then x else x.vset (BitVec.ofNat 8 reg) lane y
    | .s reg y => x.sset reg y) t

/-- Every register of a path's team is as another team's. -/
def HasRegisters (t : State) (r : PathRef) (x : Team) : Prop :=
  (∀ q l, t.vget r q l = x.vget q l) ∧ (∀ q, t.sget r q = x.sget q) ∧ ∀ q, t.pget r q = x.pget q

/-- The results of an operation in progress: those it has, and for a load that has not bound the bytes of every
lane's address as its home holds them. -/
def resultsOf (s : State) (p : Pend) : List RegWrite :=
  p.writes ++ match p.loads with
    | none => []
    | some l => l.lanes.flatMap fun e => s.loadWrites p.r l.d l.size l.sx e.1 (s.memNat e.2.2.1 l.size.bytes)

/-- A load that has not bound can, in version 0 from device memory of its core's die: nothing its path has in flight
stands before it, no crossing holds it, and no lane's bytes are poisoned. -/
structure CanBind (s : State) (p : Pend) (l : LoadSet) : Prop where
  version : s.verOf p.r = 0
  opened  : s.bindHeld p = false
  alone   : ∀ f ∈ s.flight, f.of p.r = false
  near    : ∀ e ∈ l.lanes, remoteDie (s.coreOf p.r) e.2.2.2 e.2.2.1 = false
  place   : ∀ e ∈ l.lanes, ∀ i, i < l.size.bytes → isHostKey (e.2.2.1 + i) = false
  sound   : ∀ e ∈ l.lanes, s.poisonedIn (s.domOf p.r) 0 e.2.2.1 l.size.bytes = false

/-- R63, R126 to R128, R170, R225, R304, R307: the completion of a long-latency operation, whose stores have been
performed, binds its load, writes its results but for lanes that have retired, and clears its flag, and acquires at its
scope where that is wider than the crew; the arrival of a late value writes it. Neither writes memory. Poison that
one finds is noted in its path. -/
def Rules.Completions : Prop :=
  ∀ (s : State) (n : Nat) (p : Pend) (l : Late),
    ((s.pend.find? fun q => q.serial == n) = some p → p.held = false → (∀ x, p.loads = some x → CanBind s p x) →
      (∀ f ∈ s.flight, f.r = p.r → f.tie ≠ some p.flag) →
      let ends := fun (t : State) => exec (.longLatencyCompletion n) s = .next (match p.scope with
        | none => t
        | some sc => t.acquireAct p.r sc)
      let lands := fun (t : State) => t.pend = s.pend.filter (fun q => q.serial != n) ∧ SameMemory s t ∧
        (t.path p.r).flags = (s.path p.r).flags &&& ~~~ BitVec.ofNat 12 (2 ^ p.flag) ∧
        (t.path p.r).pc = (s.path p.r).pc ∧ HasRegisters t p.r (withResults (s.team p.r.tok) p.memory (resultsOf s p)) ∧
        ∀ k, k ≠ p.r.tok → t.team k = s.team k
      (p.poison = none → ∃ t, ends t ∧ lands t) ∧
      (∀ x, p.poison = some x → (s.path p.r).wait ≠ .join → s.inherited p.r.tok n = false → ∃ t, ends t ∧ lands t ∧
        (t.path p.r).poison = (s.path p.r).poison ++ [x])) ∧
    ((s.late.find? fun q => q.serial == n) = some l → l.poison = none ∨ (s.path l.r).wait ≠ .join →
      ∃ t, exec (.valueArrival n) s = .next t ∧ t.late = s.late.filter (fun q => q.serial != n) ∧ SameMemory s t ∧
        t.path l.r = { s.path l.r with poison := (s.path l.r).poison ++ l.poison.toList } ∧
        HasRegisters t l.r (withResults (s.team l.r.tok) l.memory l.writes) ∧ ∀ k, k ≠ l.r.tok → t.team k = s.team k)

/-- R20, R406: two paths that wait at their join, or have ended, with all their flags clear merge into path 0, with what
was path 1's in progress; not while their crew is frozen (R461). Whose monitor it holds is the model's choice
(assumption 70). -/
def Rules.Merges : Prop :=
  ∀ (s : State) (tok : Nat),
    let t := s.team tok
    let a := t.path0
    let b := t.path1
    let there := fun (p : Path) => (p.live = false ∨ p.wait = .join) ∧ p.flags = 0
    (t.live = true → t.divided = true → there a → there b → (a.live = true ∨ b.live = true) → s.still tok = false →
      ∃ u, exec (.pathMerge tok) s = .next u ∧ (u.team tok).divided = false ∧ (u.team tok).path1 = Path.none ∧
        (u.team tok).path0 = { Path.none with
          live := true, pc := (if a.live then a.pc else b.pc) + 4,
          xm := (if a.live then a.xm else 0) ||| (if b.live then b.xm else 0), md := a.md, status := a.status ||| b.status,
          monitor := a.monitor, pend0 := a.pend0 || b.pend0, pend2 := a.pend2 || b.pend2,
          poison := (u.team tok).path0.poison, failed := (u.team tok).path0.failed, fenced := widest a.fenced b.fenced } ∧
        (∀ x, x ∈ (u.team tok).path0.poison ↔ x ∈ a.poison ∨ x ∈ b.poison) ∧
        (∀ x, x ∈ (u.team tok).path0.failed ↔ x ∈ a.failed ∨ x ∈ b.failed) ∧
        (∀ f ∈ u.flight, f.r.tok = tok → f.r.path = false) ∧ (∀ e ∈ u.engines, e.r.tok = tok → e.r.path = false) ∧
        SameMemory s u ∧ ∀ k, k ≠ tok → u.team k = s.team k) ∧
    (t.divided = false ∨ ¬ there a ∨ ¬ there b ∨ s.still tok = true → exec (.pathMerge tok) s = .next s)

/-- R170, R412: a team whose paths have ended and whose work has completed retires: the semaphores it holds are free, and
no late value of it is left; its crew retires with its last team. Not while the crew is frozen (R461), or what its core
writes back cannot cross the dies (R466). -/
def Rules.Retires : Prop :=
  ∀ (s : State) (tok : Nat),
    let t := s.team tok
    let out := s.outHeld (s.crew t.crew).core .device
    (t.live = true → t.path0.live = false → t.path1.live = false → s.teamIdle tok = true → s.still tok = false →
      out = false →
      ∃ u, exec (.teamRetirement tok) s = .next u ∧ (u.team tok).live = false ∧ (∀ l ∈ u.late, l.r.tok ≠ tok) ∧
        (∀ n, n < 32 → u.sem n = if (s.sem n).held = true ∧ (s.sem n).owner = 2 ∧ (s.sem n).holder.toNat = tok then
          ⟨false, 0, 0⟩ else s.sem n) ∧
        ((∀ k ∈ (s.crew t.crew).teams, k = tok ∨ (s.team k).live = false) → (u.crew t.crew).live = false)) ∧
    (t.path0.live = true ∨ t.path1.live = true ∨ s.teamIdle tok = false ∨ s.still tok = true ∨ out = true →
      exec (.teamRetirement tok) s = .next s)

/-- R31, R32, R34, R416: a grid starts once its dependences are met, and one of no crews completes then; a grid
completes once its clusters have retired, with no team left: it is complete with cause 0, no grid depends on it any
more, and one of a launch queue has its completion record in memory. Both wait while dirty bytes that they release cannot
cross the dies (R466). -/
def Rules.Grids : Prop :=
  ∀ (s : State) (h : Nat),
    let g := s.grid h
    let completes := fun (i : Instr) => ∃ u, exec i s = .next u ∧ (u.grid h).phase = .complete ∧ (u.grid h).cause = 0 ∧
      (∀ k, h ∉ (u.grid k).unmet) ∧ ∀ q c place, g.source = .queue q c place →
        (∀ i, i < 16 → isHostKey (place + i) = isHostKey place) → u.memNat place 4 = h % 2 ^ 32 ∧
          u.memNat (place + 4) 4 = 0 ∧ u.memNat (place + 8) 8 = s.tsc % 2 ^ 64
    (g.live = true → g.phase = .blocked → g.unmet = [] → s.allHeld = false →
      (g.record.crews ≠ 0 → ∃ u, exec (.gridStart h) s = .next u ∧ u.grid h = { g with phase := .runnable, since := s.tsc } ∧
        (∀ k, k ≠ h → u.grid k = s.grid k) ∧ u = { s with grids := u.grids }) ∧
      (g.record.crews = 0 → completes (.gridStart h))) ∧
    (g.phase ≠ .blocked ∨ g.unmet ≠ [] ∨ s.allHeld = true → exec (.gridStart h) s = .next s) ∧
    (g.live = true → g.phase = .runnable → s.allHeld = false →
      g.record.clusters ≤ (g.clusters.filter fun c => c.phase == .retired).length →
      (∀ t ∈ s.liveTeams, (s.crew t.2.crew).grid ≠ h) → completes (.gridCompletion h)) ∧
    (g.phase ≠ .runnable ∨ (∃ t ∈ s.liveTeams, (s.crew t.2.crew).grid = h) ∨ s.allHeld = true → exec (.gridCompletion h) s = .next s)

/-- R20, R31, R32, R34, R63, R126 to R129, R170, R304, R307, R412, R416: results that arrive, and what ends. When a
result arrives is the agenda's (assumption 8), and an event that is not ready changes nothing, which is the model's choice
(assumption 7). -/
def Obligations.CompletionsAndEnds : Prop :=
  Rules.Completions ∧ Rules.Merges ∧ Rules.Retires ∧ Rules.Grids

/-- R415, R423: a record of the launch queue whose turn it is becomes a grid of its context, and its place in the queue
is free; a queue that has been overrun is disabled; a descriptor behind a host page is asked for. Each die's dispatcher
takes its turn over the partitions. -/
def Rules.DispatcherTurns : Prop :=
  ∀ (s : State) (q : Nat) (die : Bool),
    let w := s.wq q
    let v := s.visited q
    let turn := (s.dueQueues (s.ctxPart w.ctx)).head? = some q
    let rec' := recordOf ((List.range 48).map fun i => s.memNat (w.slot (s.wqC w) + 4 * i) 4)
    let kdesc := v.readKd ⟨0, w.ctx, w.priv, 0, 0, some (queueRef q), none⟩ rec'.kdesc
    (¬ turn → exec (.launchQueueRecord q) s = .next s) ∧
    (turn → w.valid = true → 2 ^ w.logn < s.wqLen w → exec (.launchQueueRecord q) s = .next (s.disableQueue q)) ∧
    (turn → s.wqLen w ≤ 2 ^ w.logn → ∀ port page va, kdesc = .error (.xlat (.ats port page) va) →
      exec (.launchQueueRecord q) s = .next (v.atsAsk (queueRef q) port w.ctx page)) ∧
    (∀ kd, turn → s.wqLen w ≤ 2 ^ w.logn → kdesc = .ok kd →
      (s.dom 0).liveVer 0 = true → rec'.shapeOk = true → kd.valid = true → (s.ctx w.ctx).record.valid = true →
      rec'.res = false → rec'.spec = none → (∀ i, i < 4 → isHostKey (w.idx + 4 + i) = isHostKey (w.idx + 4)) →
      ∃ t, exec (.launchQueueRecord q) s = .next t ∧ t.nextGrid = s.nextGrid + 1 ∧
        (t.grid s.nextGrid.toNat).record = rec' ∧ (t.grid s.nextGrid.toNat).ctx = w.ctx ∧
        (t.grid s.nextGrid.toNat).phase = .blocked ∧
        t.memNat (w.idx + 4) 4 = (s.wqC w + 1) % 2 ^ 32 ∧
        ∀ a, a < w.idx + 4 ∨ w.idx + 8 ≤ a → t.memByte a = s.memByte a) ∧
    exec (.clusterPlacement die) s = .next ([0, 1, 2, 3, 4, 5].foldl (fun t p => t.dispatchIn die p) s)

/-- R424, R433 to R439: the timed events of a cluster let its tick come and the dispatcher of its die look again; a
drain that ran out is saved; a save, with its crews in their frames, a flush or a restoration ends once nothing of its
crews is in progress, and none of them while the context is frozen. -/
def Rules.ClusterEvents : Prop :=
  ∀ (s : State) (grid cluster : Nat) (c : ClusterSt) (rest : List ClusterSt),
    let g := s.grid grid
    let at' := fun (t : Nat) => Host.Outcome.next ((s.passTo t).look grid cluster)
    let sl := s.effSlice g * us
    let frozen := (s.ctx g.ctx).frozen
    let events := [Instr.timeSliceExpiry grid cluster, .priorityAging grid cluster, .restorationGuardExpiry grid cluster,
      .drainExpiry grid cluster, .clusterSaveCompletion grid cluster, .clusterFlushCompletion grid cluster,
      .clusterRestoration grid cluster]
    (frozen = true → ∀ i ∈ events, exec i s = .next s) ∧
    (g.clusters = c :: rest → c.idx = cluster → frozen = false →
      (c.phase = .resident →
        ((s.schedOf g).slice ≠ 0 → c.guarded = false ∨ c.restoredAt ≠ none →
          exec (.timeSliceExpiry grid cluster) s = at' (c.placedAt + sl)) ∧
        (∀ t, c.restoredAt = some t →
          exec (.restorationGuardExpiry grid cluster) s = at' (t + 4 * (s.ctx g.ctx).tc * us)) ∧
        ∀ v vs, s.framesOf grid cluster = v :: vs →
          let fr := v :: vs
          let u := fr.foldl (fun t x => t.loadCrew (fr.map fun y => (y.crew.core, (s.crew y.num).core)) x) s
          exec (.clusterRestoration grid cluster) s = .next
            ((u.startWatch fun h => h == grid && fr.any fun v => (u.crew v.num).issues != 0).barSweep grid)) ∧
      (c.phase = .draining →
        let unit := (grid, if g.record.res then (g.clusters.filter fun x => x.phase == .draining).map fun x => x.idx
          else [cluster])
        exec (.drainExpiry grid cluster) s =
          .next (((s.passTo (c.saveStart + sl)).modUnit unit fun x => { x with drained := true }).beginSave unit)) ∧
      ((s.schedOf g).age ≠ 0 → g.phase = .runnable → c.since ≤ s.tsc →
        let age := (s.schedOf g).age * us
        exec (.priorityAging grid cluster) s = at' (c.since + ((s.tsc - c.since) / age + 1) * age)) ∧
      (rest = [] → (s.crewsOf (grid, [cluster])).all s.crewQuiet = true → s.copies = [] →
        (c.phase = .saving → c.frames.length = (s.crewsOf (grid, [cluster])).length →
          ∃ t, exec (.clusterSaveCompletion grid cluster) s = .next t ∧
            (t.grid grid).clusters.map (fun x => (x.idx, x.phase)) = [(cluster, .saved)] ∧
            (∀ n ∈ s.crewsOf (grid, [cluster]), (t.crew n).live = false) ∧
            t.saved.map (fun v => (v.num, v.frame, v.pages)) = s.saved.map (fun v => (v.num, v.frame, v.pages)) ++
              (s.crewsOf (grid, [cluster])).zip c.frames) ∧
        (c.phase = .flushing → ∃ t, exec (.clusterFlushCompletion grid cluster) s = .next t ∧
          (t.grid grid).clusters.map (fun x => (x.idx, x.phase)) = [(cluster, .waiting)] ∧
          ∀ n ∈ c.crews, (t.crew n).live = false)))

/-- R47, R432: a path that stays ready ages by the cycles of its die until its counter reaches 1,024; one that is not
ready, or that would only wait for room again (assumption 64), does not. -/
def Rules.PathsAge : Prop :=
  ∀ (s : State) (r : PathRef),
    (s.isReady r = false → exec (.pathAged r) s = .next s) ∧
    (s.isReady r = true → s.stirs r = true →
      let die := s.die (s.dieOf (s.team r.tok))
      let t := s.passTo (s.tsc + (10 * (1024 - (s.path r).age) + die.f - 1) / die.f)
      exec (.pathAged r) s = .next t ∧
      (s.sub = 0 → die.relock = none → 1 ≤ die.f → die.f ≤ 20 → 1024 ≤ ((t.ageFrom s none).path r).age)) ∧
    ∀ (t : State) (issued : Option PathRef), t.teams = s.teams → s.isReady r = false ∨ s.stirs r = false →
      ((t.ageFrom s issued).path r).age = (s.path r).age

/-- R47, R415, R423, R424, R432 to R439: the dispatcher, its timed events, and the aging of paths. The model's
readings: assumptions 7, 16, 18, 22, 24 and 64. -/
def Obligations.Dispatcher : Prop :=
  Rules.DispatcherTurns ∧ Rules.ClusterEvents ∧ Rules.PathsAge

/-! ### Hosts, translation, errors and the fabric -/

/-- R443, R444: a walk that ends well fills its TLB, and one that ends in a fault changes nothing (the access that
missed takes the fault). -/
def Rules.Walks : Prop :=
  ∀ (s : State) (ctx unit : Nat) (va : DWord) (acc : Access) (who : Option PathRef),
    unit < 582 → (s.ctx ctx).record.valid = true →
      (∀ e, s.walk ctx va.toNat = .ok e → ∃ t, exec (.pageWalk unit ctx va acc who) s = .next t ∧
        { e with unit := unit } ∈ t.tlb ∧ t = { s with tlb := t.tlb }) ∧
      (∀ e, s.walk ctx va.toNat = .error e → exec (.pageWalk unit ctx va acc who) s = .next s)

/-- R445, R446: a completed host translation is kept, and the commands that waited for it go on; where none is there, a
page is asked for by a group of each access that waits. An error, a page request that fails and one that times out fail
the access: a path's or a queue's access faults when it is taken up again, and an engine command holds a stop. An
invalidation drops what it names, delivers what may have used it, and answers; no TLB entry changes. It waits for an
access that cannot cross the dies. -/
def Rules.HostTranslations : Prop :=
  ∀ (s : State) (port : Bool) (ctx page target : Nat) (w : Bool),
    let key := (port, ctx, page)
    let ats := fun o => exec (.atsTranslationCompletion port ctx page o target w) s
    let rsp := fun o => exec (.pageRequestResponse port ctx page o) s
    let done := { s with atsOut := s.atsOut.filter fun x => x != key }
    (s.atsOut.contains key = false → ∀ o, ats o = .next s) ∧
    ((∀ q ∈ s.prqOut, q.names port ctx page = false) →
      (∀ o, rsp o = .next s) ∧ exec (.atsTimeout port ctx page) s = .next s) ∧
    (s.atsOut.contains key = true →
      (∃ t, ats .ok = .next t ∧ ⟨port, ctx, page, target, w⟩ ∈ t.atc ∧ t.atsOut = done.atsOut ∧ SameMemory s t ∧
        ∀ e ∈ t.engines, e.ctx = ctx → ∀ va acc, e.asks ≠ some (port, page, va, acc)) ∧
      (∃ t, ats .noPermission = .next t ∧
        (s.prqOut.length + (done.pageWaiters port ctx page).length ≤ 512 →
          ∀ r ∈ done.pageWaiters port ctx page, t.pageAsked r port ctx page = true)) ∧
      ∃ t, ats .error = .next t ∧
        ∀ r ∈ done.pageWaiters port ctx page, r.tok < 2 ^ 41 → (r, port, page, 3) ∈ t.hostFails) ∧
    (∀ q, (s.prqOut.find? fun q => q.names port ctx page) = some q →
      let back := { s with prqOut := s.prqOut.erase q }
      let fails := fun (o : Host.Outcome State Fault Refusal) (sub : Nat) => ∃ t, o = .next t ∧
        t.prqOut = s.prqOut.erase q ∧
        (q.who ∉ back.pageWaiters port ctx page → t = back) ∧
        (q.who ∈ back.pageWaiters port ctx page → q.who.tok < 2 ^ 41 →
          t = { back with hostFails := s.hostFails ++ [(q.who, port, page, sub)] }) ∧
        (∀ e va acc, s.engines = [e] → q.who = engineRef e.serial → e.ctx = ctx → e.asks = some (port, page, va, acc) →
          t.engines.map (fun x => x.serial) = [e.serial] ∧ ∀ x ∈ t.engines, ∃ h late, x.phase = .stopped h late)
      fails (rsp .invalid) 1 ∧ fails (rsp .failure) 1 ∧ fails (exec (.atsTimeout port ctx page) s) 2 ∧
      ∃ t, rsp .success = .next t ∧ key ∈ t.atsOut ∧ t.prqOut = back.prqOut ∧ SameMemory s t) ∧
    let mine := fun (p : Pend) => ∃ l, p.loads = some l ∧ ∃ e ∈ l.lanes, isHostKey e.2.2.1 = true ∧ hostPortOf e.2.2.1 = port
    (s.allHeld = true ∨ (∃ p ∈ s.pend, s.bindHeld p = true ∧ mine p) →
      ∀ count, exec (.hostInvalidationRequest port ctx page count) s = .next s) ∧
    (s.allHeld = false → (∀ p ∈ s.pend, mine p → s.bindHeld p = false) →
      ∀ count, ∃ t, exec (.hostInvalidationRequest port ctx page count) s = .next t ∧ t.tlb = s.tlb ∧
      t.out.getLast? = some (.invalidated port ctx page) ∧ (∀ x ∈ t.hostWr, hostPortOf x.1 ≠ port) ∧
      ((∀ p ∈ s.pend, p.loads = none) → (∀ f ∈ s.flight, isHostKey f.key = false) → t.flight = s.flight) ∧
      ∀ x, x ∈ t.atc ↔ x ∈ s.atc ∧ ¬ (x.port = port ∧ x.ctx = ctx ∧ page ≤ x.page ∧ x.page < page + count))

/-- R232, R411, R417, R485: a host's access of at most 8 bytes to a die's window, once the device runs: a load answers
the bytes, a store writes them and no others, an atomic does both at once; one to a line that an engine command owns
waits. Links go up and down. -/
def Rules.HostAccesses : Prop :=
  ∀ (s : State) (port die : Bool) (off n : Nat) (v x y : BitVec 64),
    let k := windowBase + die.toNat * 2 ^ 20 + off
    (s.boot = 2 ∨ s.boot = 3 → ∃ t, exec (.hostLinkUp port) s = .next t ∧ t.hostUp port = true ∧ t.hostUp (!port) = s.hostUp (!port) ∧ SameMemory s t) ∧
    (∀ a, s.hostUp port = false → exec (.hostWindowAccess port die a) s = .next s) ∧
    (s.hostUp port = true → s.boot = 2 → off + n ≤ 2 ^ 20 → n ≤ 8 → s.owned k n = false →
      exec (.hostWindowAccess port die (.load off n)) s = .next { s with
        hostWaits := s.hostWaits.erase (port, die, .load off n)
        out := s.out ++ [.windowRead port (BitVec.ofNat 64 (s.memNat k n))] } ∧
      ∃ t, exec (.hostWindowAccess port die (.store off n v)) s = .next t ∧ t.memNat k n = v.toNat % 2 ^ (8 * n) ∧
        ∀ a, a < k ∨ k + n ≤ a → t.memByte a = s.memByte a) ∧
    (s.hostUp port = true → s.boot = 2 → off + n ≤ 2 ^ 20 → n ≤ 8 → s.owned k n = true →
      ∀ a ∈ [HostAccess.load off n, .store off n v], (port, die, a) ∉ s.hostWaits →
        exec (.hostWindowAccess port die a) s = .next { s with hostWaits := s.hostWaits ++ [(port, die, a)] }) ∧
    ∀ (wide : Bool) (op : AtomOp), let z := if wide then 8 else 4
      s.hostUp port = true → s.boot = 2 → off + z ≤ 2 ^ 20 → s.owned k z = false →
        let old := s.memNat k z
        let m := 2 ^ (8 * z)
        let new := if op = .cas then (if old = x.toNat % m then y.toNat % m else old)
          else atomNew op (8 * z) old (x.toNat % m)
        ∃ t, exec (.hostWindowAccess port die (.atomic off wide op x y)) s = .next t ∧ t.memNat k z = new % m ∧
          t.out = s.out ++ [.windowRead port (BitVec.ofNat 64 old)] ∧
          ∀ a, a < k ∨ k + z ≤ a → t.memByte a = s.memByte a

/-- R232, R411, R417, R443 to R446, R485: translation, and what a host does. Only a PAGE_WALK fills a TLB by the model's
reading (assumption 15); that an event which meets nothing changes nothing, and that an invalidation delivers the stores in
flight, is its choice (assumptions 7 and 59). -/
def Obligations.TranslationAndHosts : Prop :=
  Rules.Walks ∧ Rules.HostTranslations ∧ Rules.HostAccesses

/-- R455 to R457, R460: an uncorrectable error poisons what it strikes, or stops its path, or is held by the dirty bytes
it strikes until they are read, each with its event; one that strikes what can be had again, and a corrected one,
change nothing but the log. Errors that lose nothing are logged as corrected by the model's reading (assumption
37). -/
def Rules.ErrorsFound : Prop :=
  ∀ (s : State) (n m : Nat) (a : DWord),
    let hits := fun (site : ErrSite) (t : State) => exec (.uncorrectableError site) s = .next t
    let corrected := fun (t : State) (src at' : Nat) => t.logEvent src 8 1 none (leBytes 8 at')
    let lost := fun (t : State) (src at' : Nat) => t.logEvent src 9 2 none (leBytes 8 at' ++ leBytes 1 0)
    let ctrl := if homeOfPa n then 585 else 584
    let line := fun (k : Nat) => k / 32 * 32
    exec (.correctedError n a) s = .next (corrected s n a.toNat) ∧ hits .crossing (corrected s 622 0) ∧
    (∀ die, let unit := if die then 585 else 584
      ((∃ e ∈ s.firn, e.die = die ∧ flakeOf e.pa = flakeOf n) → hits (.firn die n) (lost ({ s with
        firn := s.firn.map fun e => { e with poison := e.poison || (e.die == die && flakeOf e.pa == flakeOf n) } } : State)
        unit (line n))) ∧
      ((∀ e ∈ s.firn, e.die = die → flakeOf e.pa ≠ flakeOf n) → hits (.firn die n) (corrected s unit (line n)))) ∧
    hits (.hbm n) (lost (s.poisonFlake n) ctrl (line n)) ∧ hits (.l2 n true) (lost (s.poisonFlake n) ctrl (line n)) ∧
    hits (.l2 n false) (corrected s ctrl (line n)) ∧
    hits (.icache n) (corrected s n 0) ∧ hits (.macroStore n) (corrected s n 0) ∧ hits (.link n) (corrected s (590 + n) 0) ∧
    ((s.poisonFlake n).poison.contains (line n) = true) ∧
    (let u := s.drainIf fun (f : Flight) => f.core == n && flakeOf f.key == flakeOf m && decide (dieOfCore n = 1) == f.home &&
        !s.flightHeld fun g => g.serial == f.serial
     let own := u.l1own.find? fun o => o.core == n && o.meets (line m) 32
     (∀ o, own = some o → hits (.l1 n m) (u.failOwn o) ∧ (u.failOwn o).poison.contains (line o.key) = true) ∧
     (own = none → (∃ i, i < 32 ∧ (u.copyByte n (line m + i)).dirty = true) → ∃ t, hits (.l1 n m) t ∧
        t = { u with copies := t.copies } ∧ ∀ i, i < 32 → t.copyByte n (line m + i) = { u.copyByte n (line m + i) with
          bad := (u.copyByte n (line m + i)).bad || (u.copyByte n (line m + i)).dirty }) ∧
     (own = none → (∀ i, i < 32 → (u.copyByte n (line m + i)).dirty = false) →
        hits (.l1 n m) (corrected (u.dropCopies n fun j => j / 32 == m / 32) (copySrc n) (line m)))) ∧
    ((∃ i, i < 32 ∧ (s.copyByte (rdcUnit n) (line m + i)).dirty = true) → m < 2 ^ 60 → ∃ t, hits (.rdc n m) t ∧
      t.poison.contains (line m) = true ∧ ∀ i, i < 32 → (t.copyByte (rdcUnit n) (line m + i)).valid = false) ∧
    ((∀ i, i < 32 → (s.copyByte (rdcUnit n) (line m + i)).dirty = false) →
      hits (.rdc n m) (corrected (s.dropCopies (rdcUnit n) fun j => j / 32 == m / 32) (copySrc (rdcUnit n)) (line m))) ∧
    (∃ t, hits (.scratch n m) t ∧ m ∈ (t.crew n).spPoison ∧ ((s.csrGet 0x4051 0).toNat = 0 → SameMemory s t)) ∧
    (∃ t, hits (.sreg n m) t ∧ m ∈ (t.team n).sErr ∧ OnlyTeams s t) ∧
    (∀ lane, ∃ t, hits (.vreg n lane m) t ∧ vkey m lane ∈ (t.team n).vErr ∧ OnlyTeams s t) ∧
    (∀ u, (∃ t, hits (.slot n m u) t ∧ m * 1024 + u ∈ (t.coreSt n).slotPoison ∧
        ((s.csrGet 0x4051 0).toNat = 0 → t = { s with cores := t.cores })) ∧
      ∃ t, hits (.acc n m u) t ∧ m * 4096 + u ∈ (t.coreSt n).accPoison ∧
        ((s.csrGet 0x4051 0).toNat = 0 → t = { s with cores := t.cores })) ∧
    ∀ r, ((s.path r).live = true → hits (.path r) ((s.takeStop r { cause := 23 }).logEvent (s.coreOf r) 9 2 (some (s.ctxOf r))
        (leBytes 8 0 ++ leBytes 1 1))) ∧ ((s.path r).live = false → hits (.path r) s)

/-- R230, R450: a copy held to its bound goes back home, where it is dirty, and is dropped, while the dies are connected; a fault record that waited
is written once there is room. -/
def Rules.BoundsAndRecords : Prop :=
  ∀ (s : State) (n m : Nat), m < 2 ^ 55 →
    (s.crossStop = false → ∃ t, exec (.remoteCopyBoundExpiry n m) s = .next t ∧
      (∀ i, i < 32 → (t.copyByte n (32 * m + i)).valid = false) ∧
      ∀ i c, i < 32 → s.copies = [(cpKey n (32 * m + i), c)] → c.dirty = true → c.bad = false →
        t.memByte (32 * m + i) = c.val) ∧
    ((s.ctx n).heldRec = [] → exec (.faultRecordDeferredWrite n) s = .next s) ∧
    ∀ b bs, (s.ctx n).heldRec = b :: bs →
      (s.fqRoom n = false → exec (.faultRecordDeferredWrite n) s = .next s) ∧
      (s.fqRoom n = true → exec (.faultRecordDeferredWrite n) s = .next
        ((s.modCtx n fun x => { x with heldRec := bs, fqFull := !bs.isEmpty }).fqWrite n (s.markSaved b)))

/-- R230, R450, R455 to R457, R460: detected errors, the bound on copies, and fault records that waited for room. That an
event on a path that has ended changes nothing is the model's choice (assumption 7). -/
def Obligations.DetectedErrors : Prop :=
  Rules.ErrorsFound ∧ Rules.BoundsAndRecords

/-- R266 to R268, R462, R469 to R472: a packet for another rank, at a port that is down, or before the device runs changes
nothing; one whose key no entry of its port holds is dropped and counted; a reply ends its request and its path goes on,
or stops where a lane of its run had faulted at the source; an acknowledgement ends the sending of its message. A request
that times out stops its path, one that the peer holds does not time out; what is not acknowledged is sent again, a
message at most three times. Links go down, and none of what they held stays with them, and come up. -/
def Rules.FabricPackets : Prop :=
  ∀ (s : State) (port serial : Nat) (p : Packet) (q : Req) (rest : List Req),
    let here := s.boot = 2 ∧ p.dst = s.rank ∧ p.src ≠ s.rank ∧ s.portup.getLsbD port = true
    let alone := s.reqs = q :: rest ∧ ∀ x ∈ rest, x.serial ≠ q.serial
    let comes := exec (.transactionPacket port p) s
    (s.boot ≠ 2 ∨ p.dst ≠ s.rank ∨ (p.src ≠ s.rank ∧ s.portup.getLsbD port = false) → comes = .next s) ∧
    (here → s.packetCtx port p.toPodHdr = none → s.strict = false → comes = .next (s.dropPacket port p.jobkey) ∧
      ((s.dropPacket port p.jobkey).csrGet 0x4088 0).toNat = ((s.csrGet 0x4088 0).toNat + 1) % 2 ^ 32) ∧
    (∀ c, here → s.packetCtx port p.toPodHdr = some c →
      (∀ z acq ls, p.body = .load z acq ls → comes = .next (s.accept c p)) ∧
      (∀ z g ls, p.body = .store z g ls → comes = .next (s.accept c p)) ∧
      (∀ op z ls, p.body = .atomic op z ls → comes = .next (s.accept c p)) ∧
      (∀ k, p.body = .ack k → comes =
        .next { s with podOut := s.podOut.filter fun x => decide (¬ (x.p.serial = k ∧ x.p.dst = p.src)) }) ∧
      (∀ ls, p.body = .reply ls → alone → q.serial = p.serial → q.ended = false →
        (q.after = none → ∃ t, comes = .next t ∧
          t.reqs = { q with ended := true } :: rest ∧ (t.path q.r).wait = .none ∧ SameMemory s t ∧
          (∀ l, (t.path q.r).done.getLsbD l = ((s.path q.r).done.getLsbD l ||
            (decide (l < 1024) && ls.any fun x => x.lane == l)))) ∧
        (q.after ≠ none → ∃ t, comes = .next t ∧ (∀ x ∈ t.reqs, x.serial ≠ p.serial) ∧
          (t.path q.r).wait = .stopped))) ∧
    (∀ k key body v, s.seenSeq.contains (p.src, p.serial) = true → s.answers = [v] → v.serial = p.serial → v.dst = p.src →
      s.strict = false → p.body = .store k key body → s.accept 0 p = s.emit (s.spine p.serial 1 none) v) ∧
    (alone → q.serial = serial → (q.suspended = true ∨ q.ended = true → exec (.remoteTimeout serial) s = .next s)) ∧
    (alone → q.serial = serial → q.ended = false →
      (q.suspended = false → ∃ t, exec (.remoteTimeout serial) s = .next t ∧ (∀ x ∈ t.reqs, x.serial ≠ serial) ∧
        (t.path q.r).wait = .stopped) ∧
      (∀ v, Arrives s v → exec (.holdNotice (v, serial)) s =
        .next (Acked { s with reqs := { q with suspended := true } :: rest } v)) ∧
      (q.packet.dst ≠ s.rank → let way := s.spine serial (q.resends + 1) q.port
        exec (.ackResend serial) s = .next (({ s with
          reqs := { q with resends := q.resends + 1, port := way } :: rest } : State).emit way q.packet)) ∧
      (q.packet.dst = s.rank → exec (.ackResend serial) s = .next s)) ∧
    ((∀ x ∈ s.reqs, x.serial = serial → x.ended = true) → ∀ m more, s.podOut = m :: more → m.p.serial = serial →
      (∀ x ∈ more, x.p.serial ≠ serial) →
      let way := s.spine serial (m.resends + 1) m.port
      (m.resends < 3 → exec (.ackResend serial) s = .next (({ s with
        podOut := { m with resends := m.resends + 1, port := way } :: more } : State).emit way m.p)) ∧
      (3 ≤ m.resends → exec (.ackResend serial) s = .next (({ s with podOut := more } : State).gaveUp m.p))) ∧
    (s.portup.getLsbD port = true → port < 32 → ∃ t, exec (.linkDown port) s = .next t ∧ t.portup.getLsbD port = false ∧
      (∀ x ∈ t.reqs, x.ended = false → x.port ≠ some port) ∧ (∀ x ∈ t.podOut, x.port ≠ some port) ∧
      ∀ k, k ≠ port → t.portup.getLsbD k = s.portup.getLsbD k) ∧
    ((s.csrGet 0x4083 0).getLsbD port = true → port < 32 → s.boot = 2 → ∃ t, exec (.linkUp port) s = .next t ∧
      t.portup.getLsbD port = true ∧ SameMemory s t)

/-- R340, R472, R481, R482: the protocol of a domain, message by message, each acknowledged. The home allocates for a
peer that asks, tells the others and answers when they have acknowledged; a peer takes the home's numbered messages and
notices in their order alone, and answers each; silence withdraws or refuses. -/
def Rules.DomainProtocol : Prop :=
  ∀ (s : State) (via : Via) (port req v parent peer : Nat) (n : DomNum) (p : Packet),
    let d := n.dom
    let x := s.dom d
    let src := via.h.src
    let key := via.h.jobkey
    let acked := fun (t : State) => Host.Outcome.next (Acked t via)
    let tells := fun (com sq : List Nat) => exec (.resolveBroadcast via n com sq) s
    let answers := fun (t : State) => acked (t.post key x.home d (.resolveAck d n.num))
    let applied := fun (t : State) => t.modDom d fun y => { y with applied := some n.num, notes := 0 }
    (Arrives s via → x.home ≠ s.rank →
      exec (.alloc via req d parent) s = acked s ∧
      (x.inTurn n.num (n.k - 1) = false → exec (.versionNotice via n ⟨v, parent⟩) s = .next s) ∧
      (x.inTurn n.num (n.k - 1) = true → exec (.versionNotice via n ⟨v, parent⟩) s =
        acked (((if x.live.any (fun y => y.ver == v) then s else s.addVersion d v parent).modDom d fun y =>
          { y with applied := some n.num, notes := n.k }).post key x.home d (.allocAck d v))) ∧
      (∀ com sq,
        (x.isOld n.num = true → tells com sq = answers s ∧ exec (.withdraw via n v) s = answers s) ∧
        (x.isOld n.num = false → x.inTurn (n.num - 1) n.k = true →
          tells com sq = answers (applied (s.resolveMsg d com sq)) ∧
          exec (.withdraw via n v) s = answers (applied (s.modDom d fun y =>
            { y with live := y.live.filter fun z => decide (z.ver ≠ v) }))) ∧
        (x.isOld n.num = false → x.inTurn (n.num - 1) n.k = false →
          tells com sq = .next s ∧ exec (.withdraw via n v) s = .next s))) ∧
    (∀ m, x.applied = some m → (x.isOld n.num = true ↔ n.num ≤ m) ∧
      (x.inTurn (n.num - 1) n.k = true ↔ n.num - 1 = m ∧ n.k = x.notes)) ∧
    (Arrives s via → x.home = s.rank → src ≠ s.rank →
      exec (.versionNotice via n ⟨v, parent⟩) s = acked s ∧ exec (.withdraw via n v) s = acked s ∧
      (∀ com sq, tells com sq = acked s) ∧
      ((s.livePeers d).contains src = false ∨ (∃ a ∈ x.allocs, a.src = src ∧ a.req = req) →
        exec (.alloc via req d parent) s = acked s) ∧
      ((s.livePeers d).contains src = true → x.allocs = [] →
        (s.allocate d parent src req key = none → exec (.alloc via req d parent) s =
          acked (s.post key src d (.allocAnswer req none))) ∧
        ∀ t w, s.allocate d parent src req key = some (t, w, false) → exec (.alloc via req d parent) s = acked t)) ∧
    (Arrives s via →
      (∀ y, (x.allocs.find? fun a => a.src == src && a.req == req) = some y →
        exec (.cancel via req d) s = acked (s.withdrawVersion d y.ver)) ∧
      ((x.allocs.find? fun a => a.src == src && a.req == req) = none → exec (.cancel via req d) s = acked s)) ∧
    (let here : Via := ⟨port, p.toPodHdr⟩
     let does := fun (t : State) => exec (.transactionPacket port p) s = .next (Acked t here)
     Arrives s here →
      (∀ w, p.body = .allocAnswer req w → does (s.allocAnswered req w)) ∧
      (p.body = .allocAck d v → does (s.allocAcked d v p.src)) ∧
      (p.body = .resolveAck d n.num → does (s.resolveEnd d n.num p.src true))) ∧
    (∀ y, (x.allocs.find? fun a => a.ver == v && a.waiting.contains peer) = some y →
      y.src ≠ s.rank ∨ s.allocReqs = [] → ∃ t,
        exec (.allocAckTimeout d v peer) s = .next t ∧ (t.dom d).failed.contains peer = true) ∧
    (s.allocReqs = [] → exec (.allocAnswerTimeout req) s = .next s) ∧
    (∀ a, s.allocReqs = [a] → a.req = req → (s.dom a.dom).home ≠ s.rank → ∃ t,
      exec (.allocAnswerTimeout req) s = .next t ∧ t.allocReqs = [] ∧
        ∃ q ∈ t.podOut, q.p.dst = (s.dom a.dom).home ∧ q.p.body = .cancel req a.dom) ∧
    (∀ y, (x.resolves.find? fun y => y.num == n.num && y.waiting.contains peer) = some y → ∃ t,
      exec (.resolveAckTimeout d n.num peer) s = .next t ∧ (t.dom d).failed.contains peer = true ∧ (t.dom d).home = x.home) ∧
    ((x.resolves.find? fun y => y.num == n.num && y.waiting.contains peer) = none →
      exec (.resolveAckTimeout d n.num peer) s = .next s)

/-- R266 to R268, R340, R467 to R473, R481, R482: packets, links and the protocol of domains. Timeouts are moves
of the agenda, membership is that of the packet's port, and a failed peer stays failed (assumptions 14, 32 and
58). -/
def Obligations.Fabric : Prop :=
  Rules.FabricPackets ∧ Rules.DomainProtocol

/-! ### Clocks, bring-up and attestation (R484 to R494) -/

/-- R487 to R491, R494: a frequency step stops its die for 2,000 ticks and then runs at the new frequency, never above
the ceiling; a refused write changes no clock. A power limit sets the ceiling, and lowers the clock where it is above,
at once, in a step whose clock has not stopped yet, or by a further step when one in progress has ended. A time message
of rank 0 sets how far the device slews. The
source of a refused write is the model's (assumption 33). -/
def Obligations.ClockSteps : Prop :=
  ∀ (s : State) (die : Bool) (v : DWord) (f tsc0 : Nat) (via : Via), s.boot = 2 → s.sub < tickParts →
    let d := s.die die
    let n := v.toNat % 32
    let other := fun (t : State) => t.die (!die) = s.die (!die)
    (n < 6 ∨ 20 < n ∨ s.stopped die = true → exec (.clkctl die v) s = .next (s.logRefused 586 none 0x3020 n)) ∧
    (6 ≤ n → n ≤ 20 → s.stopped die = false → n.min d.fmax ≠ d.f → ∃ t, exec (.clkctl die v) s = .next t ∧
      t.die die = { d with target := n.min d.fmax, relock := some (s.tsc + 1) } ∧ other t ∧
      (n ≤ d.fmax ∨ (s.csrGet 0x4051 0).toNat = 0 → SameMemory s t)) ∧
    (6 ≤ n → n ≤ d.fmax → n ≤ 20 → s.stopped die = false → n = d.f → ∃ t, exec (.clkctl die v) s = .next t ∧
      t.die die = d ∧ other t ∧ SameMemory s t) ∧
    (∀ t0, d.relock = some t0 → ∃ t, exec (.relockEnd die) s = .next t ∧ (t.die die).f = d.target ∧
      t.tsc = s.tsc.max (t0 + 2000) ∧
      (d.fwWrite = false ∨ d.target ≤ d.fmax → (t.die die).relock = none) ∧
      (d.fwWrite = true → d.fmax < d.target → (t.die die).relock = some (t0 + 2001) ∧ (t.die die).target = d.fmax) ∧
      (t.die (!die)).f = (s.die (!die)).f ∧ (t.die (!die)).relock = (s.die (!die)).relock) ∧
    (f < 6 ∨ 20 < f → exec (.powerLimitWrite die f) s = .next (s.logRefused 589 none 0x3021 f)) ∧
    (6 ≤ f → f ≤ 20 → ∃ t, exec (.powerLimitWrite die f) s = .next t ∧
      (t.die die).fmax = f ∧ other t ∧ ((s.csrGet 0x4051 0).toNat = 0 → SameMemory s t) ∧
      (d.relock = none → f < d.f → (t.die die).target = f ∧ (t.die die).relock = some (s.tsc + 1)) ∧
      (d.relock = none → d.f ≤ f → t.die die = { d with fmax := f }) ∧
      (∀ t0, d.relock = some t0 →
        (t0 ≤ s.tsc ∨ f = d.f → t.die die = { d with fmax := f, fwWrite := d.fwWrite || decide (f < d.target) }) ∧
        (s.tsc < t0 → f ≠ d.f → t.die die = { d with fmax := f, target := d.target.min f }))) ∧
    (Arrives s via → s.rank = 0 ∨ s.strict = true ∨ via.h.src ≠ 0 → exec (.timeMessage (via, tsc0)) s =
      .next (Acked s via)) ∧
    (Arrives s via → s.rank ≠ 0 → s.strict = false → via.h.src = 0 → exec (.timeMessage (via, tsc0)) s = .next (Acked { s with
      slew := (tsc0 : Int) - s.tsc, locked := decide (((tsc0 : Int) - s.tsc).natAbs ≤ 100) } via))

/-- R484, R485, R493, R494: with power or RESETN low the package is at reset, its flash and fuses kept; once both are good
the boot sequence runs, to recovery with an image that does not verify, and else, both clocks stepped to their
frequency, to the running state. In recovery `go` writes a staged image that verifies to the flash, where one answers.
The rails come up in order; a failed rail takes those that are up away in the reverse order. -/
def Rules.BringUp : Prop :=
  ∀ (s : State) (port : Bool) (good rail : Nat),
    let low := fun (t : State) => t.boot = 0 ∧ t.tsc = 0 ∧ t.teams = [] ∧ t.crews = [] ∧ t.grids = [] ∧ t.csr = [] ∧
      t.flash = s.flash ∧ t.fuseSvn = s.fuseSvn
    let ups := s.rails.all id = true
    let turned := fun (l : List Nat) (on : Bool) => l.map fun r => OutMsg.rail r on
    let order := [0, 1, 2, 3]
    (∃ t, exec .resetnLow s = .next t ∧ low t ∧ t.resetn = false) ∧
    (s.resetn = false ∨ s.rails.all id = false → ∃ t, exec .pwrgdRise s = .next t ∧ low t ∧ t.power = true) ∧
    (s.resetn = true → ups → exec .pwrgdRise s = .next ({ s with power := true } : State).boot') ∧
    (s.power = true → ups → exec .resetnRelease s = .next ({ s with resetn := true } : State).boot') ∧
    (s.boot'.boot = if s.imageOk s.flashImage then
      (if Nat.min 18 s.die0.fmax = 6 ∧ Nat.min 18 s.die1.fmax = 6 then 2 else 1) else 3) ∧
    (∀ (die : Bool) t0, s.boot = 1 → (s.die die).relock = some t0 → (s.die die).fwWrite = false →
      (s.die (!die)).relock = none → ∃ t, exec (.relockEnd die) s = .next t ∧ t.boot = 2) ∧
    (∃ t, exec (.railFail rail) s = .next t ∧ low t ∧ t.power = false ∧ t.rails = List.replicate 4 false ∧
      t.out = s.out ++ turned order.reverse false ++ [.railFailed rail]) ∧
    (4 ≤ good → ∃ t, exec (.inputPowerApplied good) s = .next t ∧ t.power = true ∧ t.rails = List.replicate 4 true ∧
      t.out = s.out ++ turned order true) ∧
    (good < 4 → ∃ t, exec (.inputPowerApplied good) s = .next t ∧ low t ∧ t.power = false ∧
      t.rails = List.replicate 4 false ∧
      t.out = s.out ++ turned (order.take (good + 1)) true ++ turned (order.take (good + 1)).reverse false ++
        [.railFailed good]) ∧
    exec (.railTelemetryRead rail) s = .next { s with out := s.out ++ [.telemetry rail (Config.telemetry rail s.fresh)] } ∧
    (s.boot ≠ 3 → exec (.go port) s = .next s) ∧
    (s.boot = 3 →
      let m := if port then s.staged1 else s.staged0
      let img := stagedImage m
      ∃ t, exec (.go port) s = .next t ∧
        if s.imageOk img = true then t.flash = if Config.flashAnswers s.fresh then some (img.length, m) else s.flash
        else t = s.logRefused (586 + port.toNat) none 0x40A9 1)

/-- R486: a channel that is up answers each SPDM request, and one that is down none; only slot 0 holds a chain; an index
beyond the measurements and any other request return an error. Only the record of what was sent changes. The bodies of
the responses, whose layout the manual does not give, and the codes are DMTF's or free values (assumption 47). -/
def Rules.Attestation : Prop :=
  ∀ (s : State) (chan slot off len index code : Nat) (nonce : BitVec 256),
    let up := s.power && s.resetn && (if chan = 0 then s.hostUp0 else if chan = 1 then s.hostUp1 else true)
    let sends := fun (i : Instr) (k : Nat) (body : List Byte) => exec i s =
      .next (if up then { s with out := s.out ++ [.spdm chan k body] } else s)
    let error := fun (i : Instr) (e : Nat) => sends i 0x7F [BitVec.ofNat 8 e]
    sends (.getVersion chan) 0x04 (leBytes 1 2 ++ leBytes 2 0x1200 ++ leBytes 2 0x1300) ∧
    sends (.getCapabilities chan) 0x61 (Config.spdmBody 0x61 chan) ∧
    sends (.negotiateAlgorithms chan) 0x63 (leBytes 4 0x80 ++ leBytes 4 0x02) ∧
    sends (.getDigests chan) 0x01 (Config.sha384 Config.certificate) ∧
    sends (.getCertificate chan 0 off len) 0x02 ((Config.certificate.drop off).take len) ∧
    (slot ≠ 0 → error (.getCertificate chan slot off len) 1 ∧ error (.challenge chan slot nonce) 1) ∧
    (let body := Config.sha384 Config.certificate ++ leBytes 32 nonce.toNat ++ s.meas.flatten
     sends (.challenge chan 0 nonce) 0x03 (body ++ Config.sign body)) ∧
    sends (.getMeasurements chan 0) 0x60 (leBytes 1 s.meas.length) ∧
    (∀ m, 1 ≤ index → index < 0xFF → s.meas[index - 1]? = some m → sends (.getMeasurements chan index) 0x60 m) ∧
    (1 ≤ index → index < 0xFF → s.meas[index - 1]? = none → error (.getMeasurements chan index) 1) ∧
    error (.unsupportedRequest chan code) 7

/-- R484 to R486, R493: bring-up, recovery, power and attestation. What a reset keeps, the image's end, and the
cryptography are the model's (assumptions 36, 40, 47, 48 and 50). -/
def Obligations.BringUpAndAttestation : Prop :=
  Rules.BringUp ∧ Rules.Attestation
end

