-- ==== Sys2Proof/Laws/Store.lean ====
section
/-! SUPPORT. Laws of the sparse tables: what a write changes, whatever the table holds, and that a write
keeps the canonical form. -/

namespace Sys2Proof.Store

variable {β : Type} (dflt : β)

theorem get_erase (m : Store β) (k j : Nat) : get dflt (erase m k) j = if j = k then dflt else get dflt m j := by
  induction m with
  | nil => simp [erase, get]
  | cons e m ih =>
    obtain ⟨i, w⟩ := e
    simp only [erase] at ih
    by_cases h : i = k
    · subst h
      simp only [erase, List.filter_cons, bne_self_eq_false, Bool.false_eq_true, if_false, ih, get]
      by_cases hj : j = i
      · simp [hj]
      · simp [hj, Ne.symm hj]
    · have h' : (i != k) = true := by simpa using h
      simp only [erase, List.filter_cons, h', if_true, get, ih]
      by_cases hj : i = j
      · subst hj; simp [h]
      · simp [hj]

theorem get_put (m : Store β) (k j : Nat) (v : β) : get dflt (put m k v) j = if j = k then v else get dflt m j := by
  induction m with
  | nil => simp only [put, get, eq_comm]
  | cons e m ih =>
    obtain ⟨i, w⟩ := e
    simp only [put]
    split
    · rename_i h
      simp only [get, ih]
      by_cases hj : i = j
      · subst hj; simp [Nat.ne_of_lt h]
      · simp [hj]
    · split
      · rename_i h; subst h
        by_cases hj : i = j
        · simp [get, hj]
        · simp [get, hj, Ne.symm hj]
      · simp only [get, eq_comm]

variable [DecidableEq β]

/-- A read after a write: the value at the key written, and every other key as before. -/
theorem get_set (m : Store β) (k j : Nat) (v : β) :
    get dflt (set dflt m k v) j = if j = k then v else get dflt m j := by
  unfold set
  split
  · rename_i h; rw [get_erase, h]
  · exact get_put dflt m k j v

@[simp] theorem get_set_same (m : Store β) (k : Nat) (v : β) : get dflt (set dflt m k v) k = v := by
  simp [get_set]

theorem get_set_other (m : Store β) {k j : Nat} (v : β) (h : j ≠ k) :
    get dflt (set dflt m k v) j = get dflt m j := by simp [get_set, h]

/-- A read after a write of consecutive keys. -/
theorem get_setList (m : Store β) (k j : Nat) (vs : List β) :
    get dflt (setList dflt m k vs) j =
      if h : k ≤ j ∧ j < k + vs.length then vs[j - k]'(by omega) else get dflt m j := by
  induction vs generalizing m k with
  | nil => simp [setList]
  | cons v vs ih =>
    simp only [setList, ih, List.length_cons]
    by_cases h : j = k
    · subst h; simp
    · by_cases h2 : k ≤ j ∧ j < k + (vs.length + 1)
      · have h3 : k + 1 ≤ j ∧ j < k + 1 + vs.length := by omega
        rw [dif_pos h3, dif_pos h2]
        obtain ⟨n, hn⟩ : ∃ n, j - k = n + 1 := ⟨j - k - 1, by omega⟩
        have hn' : j - (k + 1) = n := by omega
        simp [hn, hn']
      · have h3 : ¬ (k + 1 ≤ j ∧ j < k + 1 + vs.length) := by omega
        rw [dif_neg h3, dif_neg h2, get_set, if_neg h]

theorem get_setList_outside (m : Store β) {k j : Nat} (vs : List β) (h : j < k ∨ k + vs.length ≤ j) :
    get dflt (setList dflt m k vs) j = get dflt m j := by
  rw [get_setList, dif_neg]; omega

/-! ### The canonical form -/

theorem wfFrom_mono {lo lo' : Nat} (h : lo' ≤ lo) (m : Store β) (w : wfFrom dflt lo m = true) :
    wfFrom dflt lo' m = true := by
  cases m with
  | nil => rfl
  | cons e m =>
    simp only [wfFrom, Bool.and_eq_true, decide_eq_true_eq] at w ⊢
    exact ⟨⟨Nat.le_trans h w.1.1, w.1.2⟩, w.2⟩

theorem wfFrom_filter (p : Nat × β → Bool) (lo : Nat) (m : Store β) (w : wfFrom dflt lo m = true) :
    wfFrom dflt lo (m.filter p) = true := by
  induction m generalizing lo with
  | nil => rfl
  | cons e m ih =>
    simp only [wfFrom, Bool.and_eq_true, decide_eq_true_eq] at w
    rw [List.filter_cons]
    split
    · simp only [wfFrom, Bool.and_eq_true, decide_eq_true_eq]
      exact ⟨w.1, ih _ w.2⟩
    · exact wfFrom_mono dflt (by omega) _ (ih _ w.2)

/-- Keeping the entries that pass a test keeps the canonical form. -/
theorem wf_filter (p : Nat × β → Bool) (m : Store β) (w : wf dflt m = true) : wf dflt (m.filter p) = true :=
  wfFrom_filter dflt p 0 m w

theorem wfFrom_put (lo : Nat) (m : Store β) (k : Nat) (v : β) (hv : v ≠ dflt) (hk : lo ≤ k)
    (w : wfFrom dflt lo m = true) : wfFrom dflt lo (put m k v) = true := by
  induction m generalizing lo with
  | nil => simp [put, wfFrom, hv, hk]
  | cons e m ih =>
    obtain ⟨i, x⟩ := e
    simp only [wfFrom, Bool.and_eq_true, decide_eq_true_eq] at w
    simp only [put]
    split
    · simp only [wfFrom, Bool.and_eq_true, decide_eq_true_eq]
      exact ⟨w.1, ih _ (by omega) w.2⟩
    · split
      · rename_i _ h; subst h
        simp only [wfFrom, Bool.and_eq_true, decide_eq_true_eq]
        exact ⟨⟨hk, hv⟩, w.2⟩
      · simp only [wfFrom, Bool.and_eq_true, decide_eq_true_eq]
        exact ⟨⟨hk, hv⟩, ⟨by omega, w.1.2⟩, w.2⟩

/-- A write keeps the canonical form. -/
theorem wf_set (m : Store β) (k : Nat) (v : β) (w : wf dflt m = true) : wf dflt (set dflt m k v) = true := by
  unfold set
  split
  · exact wf_filter dflt _ m w
  · exact wfFrom_put dflt 0 m k v ‹_› (Nat.zero_le _) w

/-- A write of consecutive keys keeps the canonical form. -/
theorem wf_setList (m : Store β) (k : Nat) (vs : List β) (w : wf dflt m = true) :
    wf dflt (setList dflt m k vs) = true := by
  induction vs generalizing m k with
  | nil => exact w
  | cons v vs ih => exact ih _ _ (wf_set dflt m k v w)

/-- Writing the value a key reads as leaves a canonical table alone where the key is unlisted. -/
theorem set_dflt_unlisted (m : Store β) (k : Nat) (h : ∀ e ∈ m, e.1 ≠ k) : set dflt m k dflt = m := by
  simp only [set, if_true, erase]
  exact List.filter_eq_self.mpr fun e he => by simpa using h e he

/-- Two canonical tables that read alike are equal. -/
theorem wfFrom_head (lo : Nat) (m : Store β) (w : wfFrom dflt lo m = true) (j : Nat) (hj : j < lo) :
    get dflt m j = dflt := by
  induction m generalizing lo with
  | nil => rfl
  | cons e m ih =>
    obtain ⟨i, x⟩ := e
    simp only [wfFrom, Bool.and_eq_true, decide_eq_true_eq] at w
    have : i ≠ j := by omega
    simp only [get, if_neg this]
    exact ih _ w.2 (by omega)

theorem wfFrom_ext (lo : Nat) (m m' : Store β) (w : wfFrom dflt lo m = true) (w' : wfFrom dflt lo m' = true)
    (h : ∀ j, get dflt m j = get dflt m' j) : m = m' := by
  induction m generalizing lo m' with
  | nil =>
    cases m' with
    | nil => rfl
    | cons e m' =>
      obtain ⟨i, x⟩ := e
      simp only [wfFrom, Bool.and_eq_true, decide_eq_true_eq] at w'
      have := h i
      simp [get] at this
      exact absurd this.symm w'.1.2
  | cons e m ih =>
    obtain ⟨i, x⟩ := e
    have w0 := w
    simp only [wfFrom, Bool.and_eq_true, decide_eq_true_eq] at w
    cases m' with
    | nil =>
      have := h i
      simp [get] at this
      exact absurd this w.1.2
    | cons e' m' =>
      obtain ⟨i', x'⟩ := e'
      have w0' := w'
      simp only [wfFrom, Bool.and_eq_true, decide_eq_true_eq] at w'
      have hi : i = i' := by
        rcases Nat.lt_trichotomy i i' with hl | he | hl
        · have := h i
          have h2 : get dflt ((i', x') :: m') i = dflt := by
            have : i' ≠ i := by omega
            simp only [get, if_neg this]
            exact wfFrom_head dflt _ m' w'.2 i (by omega)
          rw [h2] at this
          simp [get] at this
          exact absurd this w.1.2
        · exact he
        · have := h i'
          have h2 : get dflt ((i, x) :: m) i' = dflt := by
            have : i ≠ i' := by omega
            simp only [get, if_neg this]
            exact wfFrom_head dflt _ m w.2 i' (by omega)
          rw [h2] at this
          simp [get] at this
          exact absurd this.symm w'.1.2
      subst hi
      have hx : x = x' := by simpa [get] using h i
      subst hx
      have : m = m' := ih (i + 1) m' w.2 w'.2 fun j => by
        by_cases hj : j = i
        · subst hj
          rw [wfFrom_head dflt _ m w.2 j (by omega), wfFrom_head dflt _ m' w'.2 j (by omega)]
        · have := h j
          simpa [get, Ne.symm hj] using this
      rw [this]

/-- Equal contents are equal lists: two canonical tables that read alike at every key are the same. -/
theorem ext_of_wf (m m' : Store β) (w : wf dflt m = true) (w' : wf dflt m' = true)
    (h : ∀ j, get dflt m j = get dflt m' j) : m = m' := wfFrom_ext dflt 0 m m' w w' h

end Sys2Proof.Store
end

