-- ==== Sys2Proof/Laws/State.lean ====
section
/-! SUPPORT. What each primitive update of the state leaves alone, one lemma per field, and what a read of
the record it writes gives. -/

namespace Sys2Proof.Machine

variable (s : State) (k j a u n : Nat) (t : Team) (c : Crew) (x : CoreSt) (g : Grid) (y : Ctx) (z : Dom)
  (b : CopyByte) (bs : List Byte) (v : DWord) (r : PathRef) (p : Path) (ft : Team → Team) (fp : Path → Path)
  (d : SReg) (e : PReg) (m : Mask) (st : BitVec 7) (w : Wait) (rw : RegWrite)

/-! ### setTeam -/

@[simp] theorem State.setTeam_mem : (s.setTeam k t).mem = s.mem := rfl
@[simp] theorem State.setTeam_poison : (s.setTeam k t).poison = s.poison := rfl
@[simp] theorem State.setTeam_vcopy : (s.setTeam k t).vcopy = s.vcopy := rfl
@[simp] theorem State.setTeam_vspans : (s.setTeam k t).vspans = s.vspans := rfl
@[simp] theorem State.setTeam_copies : (s.setTeam k t).copies = s.copies := rfl
@[simp] theorem State.setTeam_l1own : (s.setTeam k t).l1own = s.l1own := rfl
@[simp] theorem State.setTeam_hostL2 : (s.setTeam k t).hostL2 = s.hostL2 := rfl
@[simp] theorem State.setTeam_hostWr : (s.setTeam k t).hostWr = s.hostWr := rfl
@[simp] theorem State.setTeam_hostWaits : (s.setTeam k t).hostWaits = s.hostWaits := rfl
@[simp] theorem State.setTeam_flight : (s.setTeam k t).flight = s.flight := rfl
@[simp] theorem State.setTeam_pend : (s.setTeam k t).pend = s.pend := rfl
@[simp] theorem State.setTeam_late : (s.setTeam k t).late = s.late := rfl
@[simp] theorem State.setTeam_reqs : (s.setTeam k t).reqs = s.reqs := rfl
@[simp] theorem State.setTeam_tlb : (s.setTeam k t).tlb = s.tlb := rfl
@[simp] theorem State.setTeam_atc : (s.setTeam k t).atc = s.atc := rfl
@[simp] theorem State.setTeam_atsOut : (s.setTeam k t).atsOut = s.atsOut := rfl
@[simp] theorem State.setTeam_prqOut : (s.setTeam k t).prqOut = s.prqOut := rfl
@[simp] theorem State.setTeam_hostFails : (s.setTeam k t).hostFails = s.hostFails := rfl
@[simp] theorem State.setTeam_firn : (s.setTeam k t).firn = s.firn := rfl
@[simp] theorem State.setTeam_crews : (s.setTeam k t).crews = s.crews := rfl
@[simp] theorem State.setTeam_cores : (s.setTeam k t).cores = s.cores := rfl
@[simp] theorem State.setTeam_engines : (s.setTeam k t).engines = s.engines := rfl
@[simp] theorem State.setTeam_collIn : (s.setTeam k t).collIn = s.collIn := rfl
@[simp] theorem State.setTeam_grids : (s.setTeam k t).grids = s.grids := rfl
@[simp] theorem State.setTeam_carts : (s.setTeam k t).carts = s.carts := rfl
@[simp] theorem State.setTeam_expect : (s.setTeam k t).expect = s.expect := rfl
@[simp] theorem State.setTeam_saved : (s.setTeam k t).saved = s.saved := rfl
@[simp] theorem State.setTeam_allocReqs : (s.setTeam k t).allocReqs = s.allocReqs := rfl
@[simp] theorem State.setTeam_csr : (s.setTeam k t).csr = s.csr := rfl
@[simp] theorem State.setTeam_ctxs : (s.setTeam k t).ctxs = s.ctxs := rfl
@[simp] theorem State.setTeam_wqs : (s.setTeam k t).wqs = s.wqs := rfl
@[simp] theorem State.setTeam_seen : (s.setTeam k t).seen = s.seen := rfl
@[simp] theorem State.setTeam_lastq : (s.setTeam k t).lastq = s.lastq := rfl
@[simp] theorem State.setTeam_regions : (s.setTeam k t).regions = s.regions := rfl
@[simp] theorem State.setTeam_mship : (s.setTeam k t).mship = s.mship := rfl
@[simp] theorem State.setTeam_regionsNext : (s.setTeam k t).regionsNext = s.regionsNext := rfl
@[simp] theorem State.setTeam_doms : (s.setTeam k t).doms = s.doms := rfl
@[simp] theorem State.setTeam_scheds : (s.setTeam k t).scheds = s.scheds := rfl
@[simp] theorem State.setTeam_sems : (s.setTeam k t).sems = s.sems := rfl
@[simp] theorem State.setTeam_semReqs : (s.setTeam k t).semReqs = s.semReqs := rfl
@[simp] theorem State.setTeam_frzReqs : (s.setTeam k t).frzReqs = s.frzReqs := rfl
@[simp] theorem State.setTeam_frzCtx : (s.setTeam k t).frzCtx = s.frzCtx := rfl
@[simp] theorem State.setTeam_frzTsc : (s.setTeam k t).frzTsc = s.frzTsc := rfl
@[simp] theorem State.setTeam_iceCtx : (s.setTeam k t).iceCtx = s.iceCtx := rfl
@[simp] theorem State.setTeam_iceState : (s.setTeam k t).iceState = s.iceState := rfl
@[simp] theorem State.setTeam_iceTsc : (s.setTeam k t).iceTsc = s.iceTsc := rfl
@[simp] theorem State.setTeam_dieMsgs : (s.setTeam k t).dieMsgs = s.dieMsgs := rfl
@[simp] theorem State.setTeam_completes : (s.setTeam k t).completes = s.completes := rfl
@[simp] theorem State.setTeam_stepNo : (s.setTeam k t).stepNo = s.stepNo := rfl
@[simp] theorem State.setTeam_stepOut : (s.setTeam k t).stepOut = s.stepOut := rfl
@[simp] theorem State.setTeam_stepState : (s.setTeam k t).stepState = s.stepState := rfl
@[simp] theorem State.setTeam_members : (s.setTeam k t).members = s.members := rfl
@[simp] theorem State.setTeam_arrived : (s.setTeam k t).arrived = s.arrived := rfl
@[simp] theorem State.setTeam_arrivals : (s.setTeam k t).arrivals = s.arrivals := rfl
@[simp] theorem State.setTeam_early : (s.setTeam k t).early = s.early := rfl
@[simp] theorem State.setTeam_handed : (s.setTeam k t).handed = s.handed := rfl
@[simp] theorem State.setTeam_aliveAt : (s.setTeam k t).aliveAt = s.aliveAt := rfl
@[simp] theorem State.setTeam_decision : (s.setTeam k t).decision = s.decision := rfl
@[simp] theorem State.setTeam_queried : (s.setTeam k t).queried = s.queried := rfl
@[simp] theorem State.setTeam_asked : (s.setTeam k t).asked = s.asked := rfl
@[simp] theorem State.setTeam_failures : (s.setTeam k t).failures = s.failures := rfl
@[simp] theorem State.setTeam_dq : (s.setTeam k t).dq = s.dq := rfl
@[simp] theorem State.setTeam_dqd : (s.setTeam k t).dqd = s.dqd := rfl
@[simp] theorem State.setTeam_dqSer : (s.setTeam k t).dqSer = s.dqSer := rfl
@[simp] theorem State.setTeam_owed : (s.setTeam k t).owed = s.owed := rfl
@[simp] theorem State.setTeam_busy : (s.setTeam k t).busy = s.busy := rfl
@[simp] theorem State.setTeam_pqd : (s.setTeam k t).pqd = s.pqd := rfl
@[simp] theorem State.setTeam_portup : (s.setTeam k t).portup = s.portup := rfl
@[simp] theorem State.setTeam_drops : (s.setTeam k t).drops = s.drops := rfl
@[simp] theorem State.setTeam_seenSeq : (s.setTeam k t).seenSeq = s.seenSeq := rfl
@[simp] theorem State.setTeam_answers : (s.setTeam k t).answers = s.answers := rfl
@[simp] theorem State.setTeam_podOut : (s.setTeam k t).podOut = s.podOut := rfl
@[simp] theorem State.setTeam_tsc : (s.setTeam k t).tsc = s.tsc := rfl
@[simp] theorem State.setTeam_sub : (s.setTeam k t).sub = s.sub := rfl
@[simp] theorem State.setTeam_locked : (s.setTeam k t).locked = s.locked := rfl
@[simp] theorem State.setTeam_slew : (s.setTeam k t).slew = s.slew := rfl
@[simp] theorem State.setTeam_slewTicks : (s.setTeam k t).slewTicks = s.slewTicks := rfl
@[simp] theorem State.setTeam_die0 : (s.setTeam k t).die0 = s.die0 := rfl
@[simp] theorem State.setTeam_die1 : (s.setTeam k t).die1 = s.die1 := rfl
@[simp] theorem State.setTeam_hostUp0 : (s.setTeam k t).hostUp0 = s.hostUp0 := rfl
@[simp] theorem State.setTeam_hostUp1 : (s.setTeam k t).hostUp1 = s.hostUp1 := rfl
@[simp] theorem State.setTeam_power : (s.setTeam k t).power = s.power := rfl
@[simp] theorem State.setTeam_resetn : (s.setTeam k t).resetn = s.resetn := rfl
@[simp] theorem State.setTeam_boot : (s.setTeam k t).boot = s.boot := rfl
@[simp] theorem State.setTeam_flash : (s.setTeam k t).flash = s.flash := rfl
@[simp] theorem State.setTeam_staged0 : (s.setTeam k t).staged0 = s.staged0 := rfl
@[simp] theorem State.setTeam_staged1 : (s.setTeam k t).staged1 = s.staged1 := rfl
@[simp] theorem State.setTeam_fuseSvn : (s.setTeam k t).fuseSvn = s.fuseSvn := rfl
@[simp] theorem State.setTeam_meas : (s.setTeam k t).meas = s.meas := rfl
@[simp] theorem State.setTeam_rails : (s.setTeam k t).rails = s.rails := rfl
@[simp] theorem State.setTeam_runSvn : (s.setTeam k t).runSvn = s.runSvn := rfl
@[simp] theorem State.setTeam_nextGrid : (s.setTeam k t).nextGrid = s.nextGrid := rfl
@[simp] theorem State.setTeam_nextTok : (s.setTeam k t).nextTok = s.nextTok := rfl
@[simp] theorem State.setTeam_nextCrew : (s.setTeam k t).nextCrew = s.nextCrew := rfl
@[simp] theorem State.setTeam_nextSer : (s.setTeam k t).nextSer = s.nextSer := rfl
@[simp] theorem State.setTeam_fresh : (s.setTeam k t).fresh = s.fresh := rfl
@[simp] theorem State.setTeam_out : (s.setTeam k t).out = s.out := rfl
@[simp] theorem State.setTeam_agenda : (s.setTeam k t).agenda = s.agenda := rfl
@[simp] theorem State.setTeam_cur : (s.setTeam k t).cur = s.cur := rfl

/-! ### setCrew -/

@[simp] theorem State.setCrew_mem : (s.setCrew k c).mem = s.mem := rfl
@[simp] theorem State.setCrew_poison : (s.setCrew k c).poison = s.poison := rfl
@[simp] theorem State.setCrew_vcopy : (s.setCrew k c).vcopy = s.vcopy := rfl
@[simp] theorem State.setCrew_vspans : (s.setCrew k c).vspans = s.vspans := rfl
@[simp] theorem State.setCrew_copies : (s.setCrew k c).copies = s.copies := rfl
@[simp] theorem State.setCrew_l1own : (s.setCrew k c).l1own = s.l1own := rfl
@[simp] theorem State.setCrew_hostL2 : (s.setCrew k c).hostL2 = s.hostL2 := rfl
@[simp] theorem State.setCrew_hostWr : (s.setCrew k c).hostWr = s.hostWr := rfl
@[simp] theorem State.setCrew_hostWaits : (s.setCrew k c).hostWaits = s.hostWaits := rfl
@[simp] theorem State.setCrew_flight : (s.setCrew k c).flight = s.flight := rfl
@[simp] theorem State.setCrew_pend : (s.setCrew k c).pend = s.pend := rfl
@[simp] theorem State.setCrew_late : (s.setCrew k c).late = s.late := rfl
@[simp] theorem State.setCrew_reqs : (s.setCrew k c).reqs = s.reqs := rfl
@[simp] theorem State.setCrew_tlb : (s.setCrew k c).tlb = s.tlb := rfl
@[simp] theorem State.setCrew_atc : (s.setCrew k c).atc = s.atc := rfl
@[simp] theorem State.setCrew_atsOut : (s.setCrew k c).atsOut = s.atsOut := rfl
@[simp] theorem State.setCrew_prqOut : (s.setCrew k c).prqOut = s.prqOut := rfl
@[simp] theorem State.setCrew_hostFails : (s.setCrew k c).hostFails = s.hostFails := rfl
@[simp] theorem State.setCrew_firn : (s.setCrew k c).firn = s.firn := rfl
@[simp] theorem State.setCrew_teams : (s.setCrew k c).teams = s.teams := rfl
@[simp] theorem State.setCrew_cores : (s.setCrew k c).cores = s.cores := rfl
@[simp] theorem State.setCrew_engines : (s.setCrew k c).engines = s.engines := rfl
@[simp] theorem State.setCrew_collIn : (s.setCrew k c).collIn = s.collIn := rfl
@[simp] theorem State.setCrew_grids : (s.setCrew k c).grids = s.grids := rfl
@[simp] theorem State.setCrew_carts : (s.setCrew k c).carts = s.carts := rfl
@[simp] theorem State.setCrew_expect : (s.setCrew k c).expect = s.expect := rfl
@[simp] theorem State.setCrew_saved : (s.setCrew k c).saved = s.saved := rfl
@[simp] theorem State.setCrew_allocReqs : (s.setCrew k c).allocReqs = s.allocReqs := rfl
@[simp] theorem State.setCrew_csr : (s.setCrew k c).csr = s.csr := rfl
@[simp] theorem State.setCrew_ctxs : (s.setCrew k c).ctxs = s.ctxs := rfl
@[simp] theorem State.setCrew_wqs : (s.setCrew k c).wqs = s.wqs := rfl
@[simp] theorem State.setCrew_seen : (s.setCrew k c).seen = s.seen := rfl
@[simp] theorem State.setCrew_lastq : (s.setCrew k c).lastq = s.lastq := rfl
@[simp] theorem State.setCrew_regions : (s.setCrew k c).regions = s.regions := rfl
@[simp] theorem State.setCrew_mship : (s.setCrew k c).mship = s.mship := rfl
@[simp] theorem State.setCrew_regionsNext : (s.setCrew k c).regionsNext = s.regionsNext := rfl
@[simp] theorem State.setCrew_doms : (s.setCrew k c).doms = s.doms := rfl
@[simp] theorem State.setCrew_scheds : (s.setCrew k c).scheds = s.scheds := rfl
@[simp] theorem State.setCrew_sems : (s.setCrew k c).sems = s.sems := rfl
@[simp] theorem State.setCrew_semReqs : (s.setCrew k c).semReqs = s.semReqs := rfl
@[simp] theorem State.setCrew_frzReqs : (s.setCrew k c).frzReqs = s.frzReqs := rfl
@[simp] theorem State.setCrew_frzCtx : (s.setCrew k c).frzCtx = s.frzCtx := rfl
@[simp] theorem State.setCrew_frzTsc : (s.setCrew k c).frzTsc = s.frzTsc := rfl
@[simp] theorem State.setCrew_iceCtx : (s.setCrew k c).iceCtx = s.iceCtx := rfl
@[simp] theorem State.setCrew_iceState : (s.setCrew k c).iceState = s.iceState := rfl
@[simp] theorem State.setCrew_iceTsc : (s.setCrew k c).iceTsc = s.iceTsc := rfl
@[simp] theorem State.setCrew_dieMsgs : (s.setCrew k c).dieMsgs = s.dieMsgs := rfl
@[simp] theorem State.setCrew_completes : (s.setCrew k c).completes = s.completes := rfl
@[simp] theorem State.setCrew_stepNo : (s.setCrew k c).stepNo = s.stepNo := rfl
@[simp] theorem State.setCrew_stepOut : (s.setCrew k c).stepOut = s.stepOut := rfl
@[simp] theorem State.setCrew_stepState : (s.setCrew k c).stepState = s.stepState := rfl
@[simp] theorem State.setCrew_members : (s.setCrew k c).members = s.members := rfl
@[simp] theorem State.setCrew_arrived : (s.setCrew k c).arrived = s.arrived := rfl
@[simp] theorem State.setCrew_arrivals : (s.setCrew k c).arrivals = s.arrivals := rfl
@[simp] theorem State.setCrew_early : (s.setCrew k c).early = s.early := rfl
@[simp] theorem State.setCrew_handed : (s.setCrew k c).handed = s.handed := rfl
@[simp] theorem State.setCrew_aliveAt : (s.setCrew k c).aliveAt = s.aliveAt := rfl
@[simp] theorem State.setCrew_decision : (s.setCrew k c).decision = s.decision := rfl
@[simp] theorem State.setCrew_queried : (s.setCrew k c).queried = s.queried := rfl
@[simp] theorem State.setCrew_asked : (s.setCrew k c).asked = s.asked := rfl
@[simp] theorem State.setCrew_failures : (s.setCrew k c).failures = s.failures := rfl
@[simp] theorem State.setCrew_dq : (s.setCrew k c).dq = s.dq := rfl
@[simp] theorem State.setCrew_dqd : (s.setCrew k c).dqd = s.dqd := rfl
@[simp] theorem State.setCrew_dqSer : (s.setCrew k c).dqSer = s.dqSer := rfl
@[simp] theorem State.setCrew_owed : (s.setCrew k c).owed = s.owed := rfl
@[simp] theorem State.setCrew_busy : (s.setCrew k c).busy = s.busy := rfl
@[simp] theorem State.setCrew_pqd : (s.setCrew k c).pqd = s.pqd := rfl
@[simp] theorem State.setCrew_portup : (s.setCrew k c).portup = s.portup := rfl
@[simp] theorem State.setCrew_drops : (s.setCrew k c).drops = s.drops := rfl
@[simp] theorem State.setCrew_seenSeq : (s.setCrew k c).seenSeq = s.seenSeq := rfl
@[simp] theorem State.setCrew_answers : (s.setCrew k c).answers = s.answers := rfl
@[simp] theorem State.setCrew_podOut : (s.setCrew k c).podOut = s.podOut := rfl
@[simp] theorem State.setCrew_tsc : (s.setCrew k c).tsc = s.tsc := rfl
@[simp] theorem State.setCrew_sub : (s.setCrew k c).sub = s.sub := rfl
@[simp] theorem State.setCrew_locked : (s.setCrew k c).locked = s.locked := rfl
@[simp] theorem State.setCrew_slew : (s.setCrew k c).slew = s.slew := rfl
@[simp] theorem State.setCrew_slewTicks : (s.setCrew k c).slewTicks = s.slewTicks := rfl
@[simp] theorem State.setCrew_die0 : (s.setCrew k c).die0 = s.die0 := rfl
@[simp] theorem State.setCrew_die1 : (s.setCrew k c).die1 = s.die1 := rfl
@[simp] theorem State.setCrew_hostUp0 : (s.setCrew k c).hostUp0 = s.hostUp0 := rfl
@[simp] theorem State.setCrew_hostUp1 : (s.setCrew k c).hostUp1 = s.hostUp1 := rfl
@[simp] theorem State.setCrew_power : (s.setCrew k c).power = s.power := rfl
@[simp] theorem State.setCrew_resetn : (s.setCrew k c).resetn = s.resetn := rfl
@[simp] theorem State.setCrew_boot : (s.setCrew k c).boot = s.boot := rfl
@[simp] theorem State.setCrew_flash : (s.setCrew k c).flash = s.flash := rfl
@[simp] theorem State.setCrew_staged0 : (s.setCrew k c).staged0 = s.staged0 := rfl
@[simp] theorem State.setCrew_staged1 : (s.setCrew k c).staged1 = s.staged1 := rfl
@[simp] theorem State.setCrew_fuseSvn : (s.setCrew k c).fuseSvn = s.fuseSvn := rfl
@[simp] theorem State.setCrew_meas : (s.setCrew k c).meas = s.meas := rfl
@[simp] theorem State.setCrew_rails : (s.setCrew k c).rails = s.rails := rfl
@[simp] theorem State.setCrew_runSvn : (s.setCrew k c).runSvn = s.runSvn := rfl
@[simp] theorem State.setCrew_nextGrid : (s.setCrew k c).nextGrid = s.nextGrid := rfl
@[simp] theorem State.setCrew_nextTok : (s.setCrew k c).nextTok = s.nextTok := rfl
@[simp] theorem State.setCrew_nextCrew : (s.setCrew k c).nextCrew = s.nextCrew := rfl
@[simp] theorem State.setCrew_nextSer : (s.setCrew k c).nextSer = s.nextSer := rfl
@[simp] theorem State.setCrew_fresh : (s.setCrew k c).fresh = s.fresh := rfl
@[simp] theorem State.setCrew_out : (s.setCrew k c).out = s.out := rfl
@[simp] theorem State.setCrew_agenda : (s.setCrew k c).agenda = s.agenda := rfl
@[simp] theorem State.setCrew_cur : (s.setCrew k c).cur = s.cur := rfl

/-! ### setCore -/

@[simp] theorem State.setCore_mem : (s.setCore k x).mem = s.mem := rfl
@[simp] theorem State.setCore_poison : (s.setCore k x).poison = s.poison := rfl
@[simp] theorem State.setCore_vcopy : (s.setCore k x).vcopy = s.vcopy := rfl
@[simp] theorem State.setCore_vspans : (s.setCore k x).vspans = s.vspans := rfl
@[simp] theorem State.setCore_copies : (s.setCore k x).copies = s.copies := rfl
@[simp] theorem State.setCore_l1own : (s.setCore k x).l1own = s.l1own := rfl
@[simp] theorem State.setCore_hostL2 : (s.setCore k x).hostL2 = s.hostL2 := rfl
@[simp] theorem State.setCore_hostWr : (s.setCore k x).hostWr = s.hostWr := rfl
@[simp] theorem State.setCore_hostWaits : (s.setCore k x).hostWaits = s.hostWaits := rfl
@[simp] theorem State.setCore_flight : (s.setCore k x).flight = s.flight := rfl
@[simp] theorem State.setCore_pend : (s.setCore k x).pend = s.pend := rfl
@[simp] theorem State.setCore_late : (s.setCore k x).late = s.late := rfl
@[simp] theorem State.setCore_reqs : (s.setCore k x).reqs = s.reqs := rfl
@[simp] theorem State.setCore_tlb : (s.setCore k x).tlb = s.tlb := rfl
@[simp] theorem State.setCore_atc : (s.setCore k x).atc = s.atc := rfl
@[simp] theorem State.setCore_atsOut : (s.setCore k x).atsOut = s.atsOut := rfl
@[simp] theorem State.setCore_prqOut : (s.setCore k x).prqOut = s.prqOut := rfl
@[simp] theorem State.setCore_hostFails : (s.setCore k x).hostFails = s.hostFails := rfl
@[simp] theorem State.setCore_firn : (s.setCore k x).firn = s.firn := rfl
@[simp] theorem State.setCore_teams : (s.setCore k x).teams = s.teams := rfl
@[simp] theorem State.setCore_crews : (s.setCore k x).crews = s.crews := rfl
@[simp] theorem State.setCore_engines : (s.setCore k x).engines = s.engines := rfl
@[simp] theorem State.setCore_collIn : (s.setCore k x).collIn = s.collIn := rfl
@[simp] theorem State.setCore_grids : (s.setCore k x).grids = s.grids := rfl
@[simp] theorem State.setCore_carts : (s.setCore k x).carts = s.carts := rfl
@[simp] theorem State.setCore_expect : (s.setCore k x).expect = s.expect := rfl
@[simp] theorem State.setCore_saved : (s.setCore k x).saved = s.saved := rfl
@[simp] theorem State.setCore_allocReqs : (s.setCore k x).allocReqs = s.allocReqs := rfl
@[simp] theorem State.setCore_csr : (s.setCore k x).csr = s.csr := rfl
@[simp] theorem State.setCore_ctxs : (s.setCore k x).ctxs = s.ctxs := rfl
@[simp] theorem State.setCore_wqs : (s.setCore k x).wqs = s.wqs := rfl
@[simp] theorem State.setCore_seen : (s.setCore k x).seen = s.seen := rfl
@[simp] theorem State.setCore_lastq : (s.setCore k x).lastq = s.lastq := rfl
@[simp] theorem State.setCore_regions : (s.setCore k x).regions = s.regions := rfl
@[simp] theorem State.setCore_mship : (s.setCore k x).mship = s.mship := rfl
@[simp] theorem State.setCore_regionsNext : (s.setCore k x).regionsNext = s.regionsNext := rfl
@[simp] theorem State.setCore_doms : (s.setCore k x).doms = s.doms := rfl
@[simp] theorem State.setCore_scheds : (s.setCore k x).scheds = s.scheds := rfl
@[simp] theorem State.setCore_sems : (s.setCore k x).sems = s.sems := rfl
@[simp] theorem State.setCore_semReqs : (s.setCore k x).semReqs = s.semReqs := rfl
@[simp] theorem State.setCore_frzReqs : (s.setCore k x).frzReqs = s.frzReqs := rfl
@[simp] theorem State.setCore_frzCtx : (s.setCore k x).frzCtx = s.frzCtx := rfl
@[simp] theorem State.setCore_frzTsc : (s.setCore k x).frzTsc = s.frzTsc := rfl
@[simp] theorem State.setCore_iceCtx : (s.setCore k x).iceCtx = s.iceCtx := rfl
@[simp] theorem State.setCore_iceState : (s.setCore k x).iceState = s.iceState := rfl
@[simp] theorem State.setCore_iceTsc : (s.setCore k x).iceTsc = s.iceTsc := rfl
@[simp] theorem State.setCore_dieMsgs : (s.setCore k x).dieMsgs = s.dieMsgs := rfl
@[simp] theorem State.setCore_completes : (s.setCore k x).completes = s.completes := rfl
@[simp] theorem State.setCore_stepNo : (s.setCore k x).stepNo = s.stepNo := rfl
@[simp] theorem State.setCore_stepOut : (s.setCore k x).stepOut = s.stepOut := rfl
@[simp] theorem State.setCore_stepState : (s.setCore k x).stepState = s.stepState := rfl
@[simp] theorem State.setCore_members : (s.setCore k x).members = s.members := rfl
@[simp] theorem State.setCore_arrived : (s.setCore k x).arrived = s.arrived := rfl
@[simp] theorem State.setCore_arrivals : (s.setCore k x).arrivals = s.arrivals := rfl
@[simp] theorem State.setCore_early : (s.setCore k x).early = s.early := rfl
@[simp] theorem State.setCore_handed : (s.setCore k x).handed = s.handed := rfl
@[simp] theorem State.setCore_aliveAt : (s.setCore k x).aliveAt = s.aliveAt := rfl
@[simp] theorem State.setCore_decision : (s.setCore k x).decision = s.decision := rfl
@[simp] theorem State.setCore_queried : (s.setCore k x).queried = s.queried := rfl
@[simp] theorem State.setCore_asked : (s.setCore k x).asked = s.asked := rfl
@[simp] theorem State.setCore_failures : (s.setCore k x).failures = s.failures := rfl
@[simp] theorem State.setCore_dq : (s.setCore k x).dq = s.dq := rfl
@[simp] theorem State.setCore_dqd : (s.setCore k x).dqd = s.dqd := rfl
@[simp] theorem State.setCore_dqSer : (s.setCore k x).dqSer = s.dqSer := rfl
@[simp] theorem State.setCore_owed : (s.setCore k x).owed = s.owed := rfl
@[simp] theorem State.setCore_busy : (s.setCore k x).busy = s.busy := rfl
@[simp] theorem State.setCore_pqd : (s.setCore k x).pqd = s.pqd := rfl
@[simp] theorem State.setCore_portup : (s.setCore k x).portup = s.portup := rfl
@[simp] theorem State.setCore_drops : (s.setCore k x).drops = s.drops := rfl
@[simp] theorem State.setCore_seenSeq : (s.setCore k x).seenSeq = s.seenSeq := rfl
@[simp] theorem State.setCore_answers : (s.setCore k x).answers = s.answers := rfl
@[simp] theorem State.setCore_podOut : (s.setCore k x).podOut = s.podOut := rfl
@[simp] theorem State.setCore_tsc : (s.setCore k x).tsc = s.tsc := rfl
@[simp] theorem State.setCore_sub : (s.setCore k x).sub = s.sub := rfl
@[simp] theorem State.setCore_locked : (s.setCore k x).locked = s.locked := rfl
@[simp] theorem State.setCore_slew : (s.setCore k x).slew = s.slew := rfl
@[simp] theorem State.setCore_slewTicks : (s.setCore k x).slewTicks = s.slewTicks := rfl
@[simp] theorem State.setCore_die0 : (s.setCore k x).die0 = s.die0 := rfl
@[simp] theorem State.setCore_die1 : (s.setCore k x).die1 = s.die1 := rfl
@[simp] theorem State.setCore_hostUp0 : (s.setCore k x).hostUp0 = s.hostUp0 := rfl
@[simp] theorem State.setCore_hostUp1 : (s.setCore k x).hostUp1 = s.hostUp1 := rfl
@[simp] theorem State.setCore_power : (s.setCore k x).power = s.power := rfl
@[simp] theorem State.setCore_resetn : (s.setCore k x).resetn = s.resetn := rfl
@[simp] theorem State.setCore_boot : (s.setCore k x).boot = s.boot := rfl
@[simp] theorem State.setCore_flash : (s.setCore k x).flash = s.flash := rfl
@[simp] theorem State.setCore_staged0 : (s.setCore k x).staged0 = s.staged0 := rfl
@[simp] theorem State.setCore_staged1 : (s.setCore k x).staged1 = s.staged1 := rfl
@[simp] theorem State.setCore_fuseSvn : (s.setCore k x).fuseSvn = s.fuseSvn := rfl
@[simp] theorem State.setCore_meas : (s.setCore k x).meas = s.meas := rfl
@[simp] theorem State.setCore_rails : (s.setCore k x).rails = s.rails := rfl
@[simp] theorem State.setCore_runSvn : (s.setCore k x).runSvn = s.runSvn := rfl
@[simp] theorem State.setCore_nextGrid : (s.setCore k x).nextGrid = s.nextGrid := rfl
@[simp] theorem State.setCore_nextTok : (s.setCore k x).nextTok = s.nextTok := rfl
@[simp] theorem State.setCore_nextCrew : (s.setCore k x).nextCrew = s.nextCrew := rfl
@[simp] theorem State.setCore_nextSer : (s.setCore k x).nextSer = s.nextSer := rfl
@[simp] theorem State.setCore_fresh : (s.setCore k x).fresh = s.fresh := rfl
@[simp] theorem State.setCore_out : (s.setCore k x).out = s.out := rfl
@[simp] theorem State.setCore_agenda : (s.setCore k x).agenda = s.agenda := rfl
@[simp] theorem State.setCore_cur : (s.setCore k x).cur = s.cur := rfl

/-! ### setGrid -/

@[simp] theorem State.setGrid_mem : (s.setGrid k g).mem = s.mem := rfl
@[simp] theorem State.setGrid_poison : (s.setGrid k g).poison = s.poison := rfl
@[simp] theorem State.setGrid_vcopy : (s.setGrid k g).vcopy = s.vcopy := rfl
@[simp] theorem State.setGrid_vspans : (s.setGrid k g).vspans = s.vspans := rfl
@[simp] theorem State.setGrid_copies : (s.setGrid k g).copies = s.copies := rfl
@[simp] theorem State.setGrid_l1own : (s.setGrid k g).l1own = s.l1own := rfl
@[simp] theorem State.setGrid_hostL2 : (s.setGrid k g).hostL2 = s.hostL2 := rfl
@[simp] theorem State.setGrid_hostWr : (s.setGrid k g).hostWr = s.hostWr := rfl
@[simp] theorem State.setGrid_hostWaits : (s.setGrid k g).hostWaits = s.hostWaits := rfl
@[simp] theorem State.setGrid_flight : (s.setGrid k g).flight = s.flight := rfl
@[simp] theorem State.setGrid_pend : (s.setGrid k g).pend = s.pend := rfl
@[simp] theorem State.setGrid_late : (s.setGrid k g).late = s.late := rfl
@[simp] theorem State.setGrid_reqs : (s.setGrid k g).reqs = s.reqs := rfl
@[simp] theorem State.setGrid_tlb : (s.setGrid k g).tlb = s.tlb := rfl
@[simp] theorem State.setGrid_atc : (s.setGrid k g).atc = s.atc := rfl
@[simp] theorem State.setGrid_atsOut : (s.setGrid k g).atsOut = s.atsOut := rfl
@[simp] theorem State.setGrid_prqOut : (s.setGrid k g).prqOut = s.prqOut := rfl
@[simp] theorem State.setGrid_hostFails : (s.setGrid k g).hostFails = s.hostFails := rfl
@[simp] theorem State.setGrid_firn : (s.setGrid k g).firn = s.firn := rfl
@[simp] theorem State.setGrid_teams : (s.setGrid k g).teams = s.teams := rfl
@[simp] theorem State.setGrid_crews : (s.setGrid k g).crews = s.crews := rfl
@[simp] theorem State.setGrid_cores : (s.setGrid k g).cores = s.cores := rfl
@[simp] theorem State.setGrid_engines : (s.setGrid k g).engines = s.engines := rfl
@[simp] theorem State.setGrid_collIn : (s.setGrid k g).collIn = s.collIn := rfl
@[simp] theorem State.setGrid_carts : (s.setGrid k g).carts = s.carts := rfl
@[simp] theorem State.setGrid_expect : (s.setGrid k g).expect = s.expect := rfl
@[simp] theorem State.setGrid_saved : (s.setGrid k g).saved = s.saved := rfl
@[simp] theorem State.setGrid_allocReqs : (s.setGrid k g).allocReqs = s.allocReqs := rfl
@[simp] theorem State.setGrid_csr : (s.setGrid k g).csr = s.csr := rfl
@[simp] theorem State.setGrid_ctxs : (s.setGrid k g).ctxs = s.ctxs := rfl
@[simp] theorem State.setGrid_wqs : (s.setGrid k g).wqs = s.wqs := rfl
@[simp] theorem State.setGrid_seen : (s.setGrid k g).seen = s.seen := rfl
@[simp] theorem State.setGrid_lastq : (s.setGrid k g).lastq = s.lastq := rfl
@[simp] theorem State.setGrid_regions : (s.setGrid k g).regions = s.regions := rfl
@[simp] theorem State.setGrid_mship : (s.setGrid k g).mship = s.mship := rfl
@[simp] theorem State.setGrid_regionsNext : (s.setGrid k g).regionsNext = s.regionsNext := rfl
@[simp] theorem State.setGrid_doms : (s.setGrid k g).doms = s.doms := rfl
@[simp] theorem State.setGrid_scheds : (s.setGrid k g).scheds = s.scheds := rfl
@[simp] theorem State.setGrid_sems : (s.setGrid k g).sems = s.sems := rfl
@[simp] theorem State.setGrid_semReqs : (s.setGrid k g).semReqs = s.semReqs := rfl
@[simp] theorem State.setGrid_frzReqs : (s.setGrid k g).frzReqs = s.frzReqs := rfl
@[simp] theorem State.setGrid_frzCtx : (s.setGrid k g).frzCtx = s.frzCtx := rfl
@[simp] theorem State.setGrid_frzTsc : (s.setGrid k g).frzTsc = s.frzTsc := rfl
@[simp] theorem State.setGrid_iceCtx : (s.setGrid k g).iceCtx = s.iceCtx := rfl
@[simp] theorem State.setGrid_iceState : (s.setGrid k g).iceState = s.iceState := rfl
@[simp] theorem State.setGrid_iceTsc : (s.setGrid k g).iceTsc = s.iceTsc := rfl
@[simp] theorem State.setGrid_dieMsgs : (s.setGrid k g).dieMsgs = s.dieMsgs := rfl
@[simp] theorem State.setGrid_completes : (s.setGrid k g).completes = s.completes := rfl
@[simp] theorem State.setGrid_stepNo : (s.setGrid k g).stepNo = s.stepNo := rfl
@[simp] theorem State.setGrid_stepOut : (s.setGrid k g).stepOut = s.stepOut := rfl
@[simp] theorem State.setGrid_stepState : (s.setGrid k g).stepState = s.stepState := rfl
@[simp] theorem State.setGrid_members : (s.setGrid k g).members = s.members := rfl
@[simp] theorem State.setGrid_arrived : (s.setGrid k g).arrived = s.arrived := rfl
@[simp] theorem State.setGrid_arrivals : (s.setGrid k g).arrivals = s.arrivals := rfl
@[simp] theorem State.setGrid_early : (s.setGrid k g).early = s.early := rfl
@[simp] theorem State.setGrid_handed : (s.setGrid k g).handed = s.handed := rfl
@[simp] theorem State.setGrid_aliveAt : (s.setGrid k g).aliveAt = s.aliveAt := rfl
@[simp] theorem State.setGrid_decision : (s.setGrid k g).decision = s.decision := rfl
@[simp] theorem State.setGrid_queried : (s.setGrid k g).queried = s.queried := rfl
@[simp] theorem State.setGrid_asked : (s.setGrid k g).asked = s.asked := rfl
@[simp] theorem State.setGrid_failures : (s.setGrid k g).failures = s.failures := rfl
@[simp] theorem State.setGrid_dq : (s.setGrid k g).dq = s.dq := rfl
@[simp] theorem State.setGrid_dqd : (s.setGrid k g).dqd = s.dqd := rfl
@[simp] theorem State.setGrid_dqSer : (s.setGrid k g).dqSer = s.dqSer := rfl
@[simp] theorem State.setGrid_owed : (s.setGrid k g).owed = s.owed := rfl
@[simp] theorem State.setGrid_busy : (s.setGrid k g).busy = s.busy := rfl
@[simp] theorem State.setGrid_pqd : (s.setGrid k g).pqd = s.pqd := rfl
@[simp] theorem State.setGrid_portup : (s.setGrid k g).portup = s.portup := rfl
@[simp] theorem State.setGrid_drops : (s.setGrid k g).drops = s.drops := rfl
@[simp] theorem State.setGrid_seenSeq : (s.setGrid k g).seenSeq = s.seenSeq := rfl
@[simp] theorem State.setGrid_answers : (s.setGrid k g).answers = s.answers := rfl
@[simp] theorem State.setGrid_podOut : (s.setGrid k g).podOut = s.podOut := rfl
@[simp] theorem State.setGrid_tsc : (s.setGrid k g).tsc = s.tsc := rfl
@[simp] theorem State.setGrid_sub : (s.setGrid k g).sub = s.sub := rfl
@[simp] theorem State.setGrid_locked : (s.setGrid k g).locked = s.locked := rfl
@[simp] theorem State.setGrid_slew : (s.setGrid k g).slew = s.slew := rfl
@[simp] theorem State.setGrid_slewTicks : (s.setGrid k g).slewTicks = s.slewTicks := rfl
@[simp] theorem State.setGrid_die0 : (s.setGrid k g).die0 = s.die0 := rfl
@[simp] theorem State.setGrid_die1 : (s.setGrid k g).die1 = s.die1 := rfl
@[simp] theorem State.setGrid_hostUp0 : (s.setGrid k g).hostUp0 = s.hostUp0 := rfl
@[simp] theorem State.setGrid_hostUp1 : (s.setGrid k g).hostUp1 = s.hostUp1 := rfl
@[simp] theorem State.setGrid_power : (s.setGrid k g).power = s.power := rfl
@[simp] theorem State.setGrid_resetn : (s.setGrid k g).resetn = s.resetn := rfl
@[simp] theorem State.setGrid_boot : (s.setGrid k g).boot = s.boot := rfl
@[simp] theorem State.setGrid_flash : (s.setGrid k g).flash = s.flash := rfl
@[simp] theorem State.setGrid_staged0 : (s.setGrid k g).staged0 = s.staged0 := rfl
@[simp] theorem State.setGrid_staged1 : (s.setGrid k g).staged1 = s.staged1 := rfl
@[simp] theorem State.setGrid_fuseSvn : (s.setGrid k g).fuseSvn = s.fuseSvn := rfl
@[simp] theorem State.setGrid_meas : (s.setGrid k g).meas = s.meas := rfl
@[simp] theorem State.setGrid_rails : (s.setGrid k g).rails = s.rails := rfl
@[simp] theorem State.setGrid_runSvn : (s.setGrid k g).runSvn = s.runSvn := rfl
@[simp] theorem State.setGrid_nextGrid : (s.setGrid k g).nextGrid = s.nextGrid := rfl
@[simp] theorem State.setGrid_nextTok : (s.setGrid k g).nextTok = s.nextTok := rfl
@[simp] theorem State.setGrid_nextCrew : (s.setGrid k g).nextCrew = s.nextCrew := rfl
@[simp] theorem State.setGrid_nextSer : (s.setGrid k g).nextSer = s.nextSer := rfl
@[simp] theorem State.setGrid_fresh : (s.setGrid k g).fresh = s.fresh := rfl
@[simp] theorem State.setGrid_out : (s.setGrid k g).out = s.out := rfl
@[simp] theorem State.setGrid_agenda : (s.setGrid k g).agenda = s.agenda := rfl
@[simp] theorem State.setGrid_cur : (s.setGrid k g).cur = s.cur := rfl

/-! ### setCtx -/

@[simp] theorem State.setCtx_mem : (s.setCtx k y).mem = s.mem := rfl
@[simp] theorem State.setCtx_poison : (s.setCtx k y).poison = s.poison := rfl
@[simp] theorem State.setCtx_vcopy : (s.setCtx k y).vcopy = s.vcopy := rfl
@[simp] theorem State.setCtx_vspans : (s.setCtx k y).vspans = s.vspans := rfl
@[simp] theorem State.setCtx_copies : (s.setCtx k y).copies = s.copies := rfl
@[simp] theorem State.setCtx_l1own : (s.setCtx k y).l1own = s.l1own := rfl
@[simp] theorem State.setCtx_hostL2 : (s.setCtx k y).hostL2 = s.hostL2 := rfl
@[simp] theorem State.setCtx_hostWr : (s.setCtx k y).hostWr = s.hostWr := rfl
@[simp] theorem State.setCtx_hostWaits : (s.setCtx k y).hostWaits = s.hostWaits := rfl
@[simp] theorem State.setCtx_flight : (s.setCtx k y).flight = s.flight := rfl
@[simp] theorem State.setCtx_pend : (s.setCtx k y).pend = s.pend := rfl
@[simp] theorem State.setCtx_late : (s.setCtx k y).late = s.late := rfl
@[simp] theorem State.setCtx_reqs : (s.setCtx k y).reqs = s.reqs := rfl
@[simp] theorem State.setCtx_tlb : (s.setCtx k y).tlb = s.tlb := rfl
@[simp] theorem State.setCtx_atc : (s.setCtx k y).atc = s.atc := rfl
@[simp] theorem State.setCtx_atsOut : (s.setCtx k y).atsOut = s.atsOut := rfl
@[simp] theorem State.setCtx_prqOut : (s.setCtx k y).prqOut = s.prqOut := rfl
@[simp] theorem State.setCtx_hostFails : (s.setCtx k y).hostFails = s.hostFails := rfl
@[simp] theorem State.setCtx_firn : (s.setCtx k y).firn = s.firn := rfl
@[simp] theorem State.setCtx_teams : (s.setCtx k y).teams = s.teams := rfl
@[simp] theorem State.setCtx_crews : (s.setCtx k y).crews = s.crews := rfl
@[simp] theorem State.setCtx_cores : (s.setCtx k y).cores = s.cores := rfl
@[simp] theorem State.setCtx_engines : (s.setCtx k y).engines = s.engines := rfl
@[simp] theorem State.setCtx_collIn : (s.setCtx k y).collIn = s.collIn := rfl
@[simp] theorem State.setCtx_grids : (s.setCtx k y).grids = s.grids := rfl
@[simp] theorem State.setCtx_carts : (s.setCtx k y).carts = s.carts := rfl
@[simp] theorem State.setCtx_expect : (s.setCtx k y).expect = s.expect := rfl
@[simp] theorem State.setCtx_saved : (s.setCtx k y).saved = s.saved := rfl
@[simp] theorem State.setCtx_allocReqs : (s.setCtx k y).allocReqs = s.allocReqs := rfl
@[simp] theorem State.setCtx_csr : (s.setCtx k y).csr = s.csr := rfl
@[simp] theorem State.setCtx_wqs : (s.setCtx k y).wqs = s.wqs := rfl
@[simp] theorem State.setCtx_seen : (s.setCtx k y).seen = s.seen := rfl
@[simp] theorem State.setCtx_lastq : (s.setCtx k y).lastq = s.lastq := rfl
@[simp] theorem State.setCtx_regions : (s.setCtx k y).regions = s.regions := rfl
@[simp] theorem State.setCtx_mship : (s.setCtx k y).mship = s.mship := rfl
@[simp] theorem State.setCtx_regionsNext : (s.setCtx k y).regionsNext = s.regionsNext := rfl
@[simp] theorem State.setCtx_doms : (s.setCtx k y).doms = s.doms := rfl
@[simp] theorem State.setCtx_scheds : (s.setCtx k y).scheds = s.scheds := rfl
@[simp] theorem State.setCtx_sems : (s.setCtx k y).sems = s.sems := rfl
@[simp] theorem State.setCtx_semReqs : (s.setCtx k y).semReqs = s.semReqs := rfl
@[simp] theorem State.setCtx_frzReqs : (s.setCtx k y).frzReqs = s.frzReqs := rfl
@[simp] theorem State.setCtx_frzCtx : (s.setCtx k y).frzCtx = s.frzCtx := rfl
@[simp] theorem State.setCtx_frzTsc : (s.setCtx k y).frzTsc = s.frzTsc := rfl
@[simp] theorem State.setCtx_iceCtx : (s.setCtx k y).iceCtx = s.iceCtx := rfl
@[simp] theorem State.setCtx_iceState : (s.setCtx k y).iceState = s.iceState := rfl
@[simp] theorem State.setCtx_iceTsc : (s.setCtx k y).iceTsc = s.iceTsc := rfl
@[simp] theorem State.setCtx_dieMsgs : (s.setCtx k y).dieMsgs = s.dieMsgs := rfl
@[simp] theorem State.setCtx_completes : (s.setCtx k y).completes = s.completes := rfl
@[simp] theorem State.setCtx_stepNo : (s.setCtx k y).stepNo = s.stepNo := rfl
@[simp] theorem State.setCtx_stepOut : (s.setCtx k y).stepOut = s.stepOut := rfl
@[simp] theorem State.setCtx_stepState : (s.setCtx k y).stepState = s.stepState := rfl
@[simp] theorem State.setCtx_members : (s.setCtx k y).members = s.members := rfl
@[simp] theorem State.setCtx_arrived : (s.setCtx k y).arrived = s.arrived := rfl
@[simp] theorem State.setCtx_arrivals : (s.setCtx k y).arrivals = s.arrivals := rfl
@[simp] theorem State.setCtx_early : (s.setCtx k y).early = s.early := rfl
@[simp] theorem State.setCtx_handed : (s.setCtx k y).handed = s.handed := rfl
@[simp] theorem State.setCtx_aliveAt : (s.setCtx k y).aliveAt = s.aliveAt := rfl
@[simp] theorem State.setCtx_decision : (s.setCtx k y).decision = s.decision := rfl
@[simp] theorem State.setCtx_queried : (s.setCtx k y).queried = s.queried := rfl
@[simp] theorem State.setCtx_asked : (s.setCtx k y).asked = s.asked := rfl
@[simp] theorem State.setCtx_failures : (s.setCtx k y).failures = s.failures := rfl
@[simp] theorem State.setCtx_dq : (s.setCtx k y).dq = s.dq := rfl
@[simp] theorem State.setCtx_dqd : (s.setCtx k y).dqd = s.dqd := rfl
@[simp] theorem State.setCtx_dqSer : (s.setCtx k y).dqSer = s.dqSer := rfl
@[simp] theorem State.setCtx_owed : (s.setCtx k y).owed = s.owed := rfl
@[simp] theorem State.setCtx_busy : (s.setCtx k y).busy = s.busy := rfl
@[simp] theorem State.setCtx_pqd : (s.setCtx k y).pqd = s.pqd := rfl
@[simp] theorem State.setCtx_portup : (s.setCtx k y).portup = s.portup := rfl
@[simp] theorem State.setCtx_drops : (s.setCtx k y).drops = s.drops := rfl
@[simp] theorem State.setCtx_seenSeq : (s.setCtx k y).seenSeq = s.seenSeq := rfl
@[simp] theorem State.setCtx_answers : (s.setCtx k y).answers = s.answers := rfl
@[simp] theorem State.setCtx_podOut : (s.setCtx k y).podOut = s.podOut := rfl
@[simp] theorem State.setCtx_tsc : (s.setCtx k y).tsc = s.tsc := rfl
@[simp] theorem State.setCtx_sub : (s.setCtx k y).sub = s.sub := rfl
@[simp] theorem State.setCtx_locked : (s.setCtx k y).locked = s.locked := rfl
@[simp] theorem State.setCtx_slew : (s.setCtx k y).slew = s.slew := rfl
@[simp] theorem State.setCtx_slewTicks : (s.setCtx k y).slewTicks = s.slewTicks := rfl
@[simp] theorem State.setCtx_die0 : (s.setCtx k y).die0 = s.die0 := rfl
@[simp] theorem State.setCtx_die1 : (s.setCtx k y).die1 = s.die1 := rfl
@[simp] theorem State.setCtx_hostUp0 : (s.setCtx k y).hostUp0 = s.hostUp0 := rfl
@[simp] theorem State.setCtx_hostUp1 : (s.setCtx k y).hostUp1 = s.hostUp1 := rfl
@[simp] theorem State.setCtx_power : (s.setCtx k y).power = s.power := rfl
@[simp] theorem State.setCtx_resetn : (s.setCtx k y).resetn = s.resetn := rfl
@[simp] theorem State.setCtx_boot : (s.setCtx k y).boot = s.boot := rfl
@[simp] theorem State.setCtx_flash : (s.setCtx k y).flash = s.flash := rfl
@[simp] theorem State.setCtx_staged0 : (s.setCtx k y).staged0 = s.staged0 := rfl
@[simp] theorem State.setCtx_staged1 : (s.setCtx k y).staged1 = s.staged1 := rfl
@[simp] theorem State.setCtx_fuseSvn : (s.setCtx k y).fuseSvn = s.fuseSvn := rfl
@[simp] theorem State.setCtx_meas : (s.setCtx k y).meas = s.meas := rfl
@[simp] theorem State.setCtx_rails : (s.setCtx k y).rails = s.rails := rfl
@[simp] theorem State.setCtx_runSvn : (s.setCtx k y).runSvn = s.runSvn := rfl
@[simp] theorem State.setCtx_nextGrid : (s.setCtx k y).nextGrid = s.nextGrid := rfl
@[simp] theorem State.setCtx_nextTok : (s.setCtx k y).nextTok = s.nextTok := rfl
@[simp] theorem State.setCtx_nextCrew : (s.setCtx k y).nextCrew = s.nextCrew := rfl
@[simp] theorem State.setCtx_nextSer : (s.setCtx k y).nextSer = s.nextSer := rfl
@[simp] theorem State.setCtx_fresh : (s.setCtx k y).fresh = s.fresh := rfl
@[simp] theorem State.setCtx_out : (s.setCtx k y).out = s.out := rfl
@[simp] theorem State.setCtx_agenda : (s.setCtx k y).agenda = s.agenda := rfl
@[simp] theorem State.setCtx_cur : (s.setCtx k y).cur = s.cur := rfl

/-! ### setDom -/

@[simp] theorem State.setDom_mem : (s.setDom k z).mem = s.mem := rfl
@[simp] theorem State.setDom_poison : (s.setDom k z).poison = s.poison := rfl
@[simp] theorem State.setDom_vcopy : (s.setDom k z).vcopy = s.vcopy := rfl
@[simp] theorem State.setDom_vspans : (s.setDom k z).vspans = s.vspans := rfl
@[simp] theorem State.setDom_copies : (s.setDom k z).copies = s.copies := rfl
@[simp] theorem State.setDom_l1own : (s.setDom k z).l1own = s.l1own := rfl
@[simp] theorem State.setDom_hostL2 : (s.setDom k z).hostL2 = s.hostL2 := rfl
@[simp] theorem State.setDom_hostWr : (s.setDom k z).hostWr = s.hostWr := rfl
@[simp] theorem State.setDom_hostWaits : (s.setDom k z).hostWaits = s.hostWaits := rfl
@[simp] theorem State.setDom_flight : (s.setDom k z).flight = s.flight := rfl
@[simp] theorem State.setDom_pend : (s.setDom k z).pend = s.pend := rfl
@[simp] theorem State.setDom_late : (s.setDom k z).late = s.late := rfl
@[simp] theorem State.setDom_reqs : (s.setDom k z).reqs = s.reqs := rfl
@[simp] theorem State.setDom_tlb : (s.setDom k z).tlb = s.tlb := rfl
@[simp] theorem State.setDom_atc : (s.setDom k z).atc = s.atc := rfl
@[simp] theorem State.setDom_atsOut : (s.setDom k z).atsOut = s.atsOut := rfl
@[simp] theorem State.setDom_prqOut : (s.setDom k z).prqOut = s.prqOut := rfl
@[simp] theorem State.setDom_hostFails : (s.setDom k z).hostFails = s.hostFails := rfl
@[simp] theorem State.setDom_firn : (s.setDom k z).firn = s.firn := rfl
@[simp] theorem State.setDom_teams : (s.setDom k z).teams = s.teams := rfl
@[simp] theorem State.setDom_crews : (s.setDom k z).crews = s.crews := rfl
@[simp] theorem State.setDom_cores : (s.setDom k z).cores = s.cores := rfl
@[simp] theorem State.setDom_engines : (s.setDom k z).engines = s.engines := rfl
@[simp] theorem State.setDom_collIn : (s.setDom k z).collIn = s.collIn := rfl
@[simp] theorem State.setDom_grids : (s.setDom k z).grids = s.grids := rfl
@[simp] theorem State.setDom_carts : (s.setDom k z).carts = s.carts := rfl
@[simp] theorem State.setDom_expect : (s.setDom k z).expect = s.expect := rfl
@[simp] theorem State.setDom_saved : (s.setDom k z).saved = s.saved := rfl
@[simp] theorem State.setDom_allocReqs : (s.setDom k z).allocReqs = s.allocReqs := rfl
@[simp] theorem State.setDom_csr : (s.setDom k z).csr = s.csr := rfl
@[simp] theorem State.setDom_ctxs : (s.setDom k z).ctxs = s.ctxs := rfl
@[simp] theorem State.setDom_wqs : (s.setDom k z).wqs = s.wqs := rfl
@[simp] theorem State.setDom_seen : (s.setDom k z).seen = s.seen := rfl
@[simp] theorem State.setDom_lastq : (s.setDom k z).lastq = s.lastq := rfl
@[simp] theorem State.setDom_regions : (s.setDom k z).regions = s.regions := rfl
@[simp] theorem State.setDom_mship : (s.setDom k z).mship = s.mship := rfl
@[simp] theorem State.setDom_regionsNext : (s.setDom k z).regionsNext = s.regionsNext := rfl
@[simp] theorem State.setDom_scheds : (s.setDom k z).scheds = s.scheds := rfl
@[simp] theorem State.setDom_sems : (s.setDom k z).sems = s.sems := rfl
@[simp] theorem State.setDom_semReqs : (s.setDom k z).semReqs = s.semReqs := rfl
@[simp] theorem State.setDom_frzReqs : (s.setDom k z).frzReqs = s.frzReqs := rfl
@[simp] theorem State.setDom_frzCtx : (s.setDom k z).frzCtx = s.frzCtx := rfl
@[simp] theorem State.setDom_frzTsc : (s.setDom k z).frzTsc = s.frzTsc := rfl
@[simp] theorem State.setDom_iceCtx : (s.setDom k z).iceCtx = s.iceCtx := rfl
@[simp] theorem State.setDom_iceState : (s.setDom k z).iceState = s.iceState := rfl
@[simp] theorem State.setDom_iceTsc : (s.setDom k z).iceTsc = s.iceTsc := rfl
@[simp] theorem State.setDom_dieMsgs : (s.setDom k z).dieMsgs = s.dieMsgs := rfl
@[simp] theorem State.setDom_completes : (s.setDom k z).completes = s.completes := rfl
@[simp] theorem State.setDom_stepNo : (s.setDom k z).stepNo = s.stepNo := rfl
@[simp] theorem State.setDom_stepOut : (s.setDom k z).stepOut = s.stepOut := rfl
@[simp] theorem State.setDom_stepState : (s.setDom k z).stepState = s.stepState := rfl
@[simp] theorem State.setDom_members : (s.setDom k z).members = s.members := rfl
@[simp] theorem State.setDom_arrived : (s.setDom k z).arrived = s.arrived := rfl
@[simp] theorem State.setDom_arrivals : (s.setDom k z).arrivals = s.arrivals := rfl
@[simp] theorem State.setDom_early : (s.setDom k z).early = s.early := rfl
@[simp] theorem State.setDom_handed : (s.setDom k z).handed = s.handed := rfl
@[simp] theorem State.setDom_aliveAt : (s.setDom k z).aliveAt = s.aliveAt := rfl
@[simp] theorem State.setDom_decision : (s.setDom k z).decision = s.decision := rfl
@[simp] theorem State.setDom_queried : (s.setDom k z).queried = s.queried := rfl
@[simp] theorem State.setDom_asked : (s.setDom k z).asked = s.asked := rfl
@[simp] theorem State.setDom_failures : (s.setDom k z).failures = s.failures := rfl
@[simp] theorem State.setDom_dq : (s.setDom k z).dq = s.dq := rfl
@[simp] theorem State.setDom_dqd : (s.setDom k z).dqd = s.dqd := rfl
@[simp] theorem State.setDom_dqSer : (s.setDom k z).dqSer = s.dqSer := rfl
@[simp] theorem State.setDom_owed : (s.setDom k z).owed = s.owed := rfl
@[simp] theorem State.setDom_busy : (s.setDom k z).busy = s.busy := rfl
@[simp] theorem State.setDom_pqd : (s.setDom k z).pqd = s.pqd := rfl
@[simp] theorem State.setDom_portup : (s.setDom k z).portup = s.portup := rfl
@[simp] theorem State.setDom_drops : (s.setDom k z).drops = s.drops := rfl
@[simp] theorem State.setDom_seenSeq : (s.setDom k z).seenSeq = s.seenSeq := rfl
@[simp] theorem State.setDom_answers : (s.setDom k z).answers = s.answers := rfl
@[simp] theorem State.setDom_podOut : (s.setDom k z).podOut = s.podOut := rfl
@[simp] theorem State.setDom_tsc : (s.setDom k z).tsc = s.tsc := rfl
@[simp] theorem State.setDom_sub : (s.setDom k z).sub = s.sub := rfl
@[simp] theorem State.setDom_locked : (s.setDom k z).locked = s.locked := rfl
@[simp] theorem State.setDom_slew : (s.setDom k z).slew = s.slew := rfl
@[simp] theorem State.setDom_slewTicks : (s.setDom k z).slewTicks = s.slewTicks := rfl
@[simp] theorem State.setDom_die0 : (s.setDom k z).die0 = s.die0 := rfl
@[simp] theorem State.setDom_die1 : (s.setDom k z).die1 = s.die1 := rfl
@[simp] theorem State.setDom_hostUp0 : (s.setDom k z).hostUp0 = s.hostUp0 := rfl
@[simp] theorem State.setDom_hostUp1 : (s.setDom k z).hostUp1 = s.hostUp1 := rfl
@[simp] theorem State.setDom_power : (s.setDom k z).power = s.power := rfl
@[simp] theorem State.setDom_resetn : (s.setDom k z).resetn = s.resetn := rfl
@[simp] theorem State.setDom_boot : (s.setDom k z).boot = s.boot := rfl
@[simp] theorem State.setDom_flash : (s.setDom k z).flash = s.flash := rfl
@[simp] theorem State.setDom_staged0 : (s.setDom k z).staged0 = s.staged0 := rfl
@[simp] theorem State.setDom_staged1 : (s.setDom k z).staged1 = s.staged1 := rfl
@[simp] theorem State.setDom_fuseSvn : (s.setDom k z).fuseSvn = s.fuseSvn := rfl
@[simp] theorem State.setDom_meas : (s.setDom k z).meas = s.meas := rfl
@[simp] theorem State.setDom_rails : (s.setDom k z).rails = s.rails := rfl
@[simp] theorem State.setDom_runSvn : (s.setDom k z).runSvn = s.runSvn := rfl
@[simp] theorem State.setDom_nextGrid : (s.setDom k z).nextGrid = s.nextGrid := rfl
@[simp] theorem State.setDom_nextTok : (s.setDom k z).nextTok = s.nextTok := rfl
@[simp] theorem State.setDom_nextCrew : (s.setDom k z).nextCrew = s.nextCrew := rfl
@[simp] theorem State.setDom_nextSer : (s.setDom k z).nextSer = s.nextSer := rfl
@[simp] theorem State.setDom_fresh : (s.setDom k z).fresh = s.fresh := rfl
@[simp] theorem State.setDom_out : (s.setDom k z).out = s.out := rfl
@[simp] theorem State.setDom_agenda : (s.setDom k z).agenda = s.agenda := rfl
@[simp] theorem State.setDom_cur : (s.setDom k z).cur = s.cur := rfl

/-! ### csrPut -/

@[simp] theorem State.csrPut_mem : (s.csrPut a u v).mem = s.mem := rfl
@[simp] theorem State.csrPut_poison : (s.csrPut a u v).poison = s.poison := rfl
@[simp] theorem State.csrPut_vcopy : (s.csrPut a u v).vcopy = s.vcopy := rfl
@[simp] theorem State.csrPut_vspans : (s.csrPut a u v).vspans = s.vspans := rfl
@[simp] theorem State.csrPut_copies : (s.csrPut a u v).copies = s.copies := rfl
@[simp] theorem State.csrPut_l1own : (s.csrPut a u v).l1own = s.l1own := rfl
@[simp] theorem State.csrPut_hostL2 : (s.csrPut a u v).hostL2 = s.hostL2 := rfl
@[simp] theorem State.csrPut_hostWr : (s.csrPut a u v).hostWr = s.hostWr := rfl
@[simp] theorem State.csrPut_hostWaits : (s.csrPut a u v).hostWaits = s.hostWaits := rfl
@[simp] theorem State.csrPut_flight : (s.csrPut a u v).flight = s.flight := rfl
@[simp] theorem State.csrPut_pend : (s.csrPut a u v).pend = s.pend := rfl
@[simp] theorem State.csrPut_late : (s.csrPut a u v).late = s.late := rfl
@[simp] theorem State.csrPut_reqs : (s.csrPut a u v).reqs = s.reqs := rfl
@[simp] theorem State.csrPut_tlb : (s.csrPut a u v).tlb = s.tlb := rfl
@[simp] theorem State.csrPut_atc : (s.csrPut a u v).atc = s.atc := rfl
@[simp] theorem State.csrPut_atsOut : (s.csrPut a u v).atsOut = s.atsOut := rfl
@[simp] theorem State.csrPut_prqOut : (s.csrPut a u v).prqOut = s.prqOut := rfl
@[simp] theorem State.csrPut_hostFails : (s.csrPut a u v).hostFails = s.hostFails := rfl
@[simp] theorem State.csrPut_firn : (s.csrPut a u v).firn = s.firn := rfl
@[simp] theorem State.csrPut_teams : (s.csrPut a u v).teams = s.teams := rfl
@[simp] theorem State.csrPut_crews : (s.csrPut a u v).crews = s.crews := rfl
@[simp] theorem State.csrPut_cores : (s.csrPut a u v).cores = s.cores := rfl
@[simp] theorem State.csrPut_engines : (s.csrPut a u v).engines = s.engines := rfl
@[simp] theorem State.csrPut_collIn : (s.csrPut a u v).collIn = s.collIn := rfl
@[simp] theorem State.csrPut_grids : (s.csrPut a u v).grids = s.grids := rfl
@[simp] theorem State.csrPut_carts : (s.csrPut a u v).carts = s.carts := rfl
@[simp] theorem State.csrPut_expect : (s.csrPut a u v).expect = s.expect := rfl
@[simp] theorem State.csrPut_saved : (s.csrPut a u v).saved = s.saved := rfl
@[simp] theorem State.csrPut_allocReqs : (s.csrPut a u v).allocReqs = s.allocReqs := rfl
@[simp] theorem State.csrPut_ctxs : (s.csrPut a u v).ctxs = s.ctxs := rfl
@[simp] theorem State.csrPut_wqs : (s.csrPut a u v).wqs = s.wqs := rfl
@[simp] theorem State.csrPut_seen : (s.csrPut a u v).seen = s.seen := rfl
@[simp] theorem State.csrPut_lastq : (s.csrPut a u v).lastq = s.lastq := rfl
@[simp] theorem State.csrPut_regions : (s.csrPut a u v).regions = s.regions := rfl
@[simp] theorem State.csrPut_mship : (s.csrPut a u v).mship = s.mship := rfl
@[simp] theorem State.csrPut_regionsNext : (s.csrPut a u v).regionsNext = s.regionsNext := rfl
@[simp] theorem State.csrPut_doms : (s.csrPut a u v).doms = s.doms := rfl
@[simp] theorem State.csrPut_scheds : (s.csrPut a u v).scheds = s.scheds := rfl
@[simp] theorem State.csrPut_sems : (s.csrPut a u v).sems = s.sems := rfl
@[simp] theorem State.csrPut_semReqs : (s.csrPut a u v).semReqs = s.semReqs := rfl
@[simp] theorem State.csrPut_frzReqs : (s.csrPut a u v).frzReqs = s.frzReqs := rfl
@[simp] theorem State.csrPut_frzCtx : (s.csrPut a u v).frzCtx = s.frzCtx := rfl
@[simp] theorem State.csrPut_frzTsc : (s.csrPut a u v).frzTsc = s.frzTsc := rfl
@[simp] theorem State.csrPut_iceCtx : (s.csrPut a u v).iceCtx = s.iceCtx := rfl
@[simp] theorem State.csrPut_iceState : (s.csrPut a u v).iceState = s.iceState := rfl
@[simp] theorem State.csrPut_iceTsc : (s.csrPut a u v).iceTsc = s.iceTsc := rfl
@[simp] theorem State.csrPut_dieMsgs : (s.csrPut a u v).dieMsgs = s.dieMsgs := rfl
@[simp] theorem State.csrPut_completes : (s.csrPut a u v).completes = s.completes := rfl
@[simp] theorem State.csrPut_stepNo : (s.csrPut a u v).stepNo = s.stepNo := rfl
@[simp] theorem State.csrPut_stepOut : (s.csrPut a u v).stepOut = s.stepOut := rfl
@[simp] theorem State.csrPut_stepState : (s.csrPut a u v).stepState = s.stepState := rfl
@[simp] theorem State.csrPut_members : (s.csrPut a u v).members = s.members := rfl
@[simp] theorem State.csrPut_arrived : (s.csrPut a u v).arrived = s.arrived := rfl
@[simp] theorem State.csrPut_arrivals : (s.csrPut a u v).arrivals = s.arrivals := rfl
@[simp] theorem State.csrPut_early : (s.csrPut a u v).early = s.early := rfl
@[simp] theorem State.csrPut_handed : (s.csrPut a u v).handed = s.handed := rfl
@[simp] theorem State.csrPut_aliveAt : (s.csrPut a u v).aliveAt = s.aliveAt := rfl
@[simp] theorem State.csrPut_decision : (s.csrPut a u v).decision = s.decision := rfl
@[simp] theorem State.csrPut_queried : (s.csrPut a u v).queried = s.queried := rfl
@[simp] theorem State.csrPut_asked : (s.csrPut a u v).asked = s.asked := rfl
@[simp] theorem State.csrPut_failures : (s.csrPut a u v).failures = s.failures := rfl
@[simp] theorem State.csrPut_dq : (s.csrPut a u v).dq = s.dq := rfl
@[simp] theorem State.csrPut_dqd : (s.csrPut a u v).dqd = s.dqd := rfl
@[simp] theorem State.csrPut_dqSer : (s.csrPut a u v).dqSer = s.dqSer := rfl
@[simp] theorem State.csrPut_owed : (s.csrPut a u v).owed = s.owed := rfl
@[simp] theorem State.csrPut_busy : (s.csrPut a u v).busy = s.busy := rfl
@[simp] theorem State.csrPut_pqd : (s.csrPut a u v).pqd = s.pqd := rfl
@[simp] theorem State.csrPut_portup : (s.csrPut a u v).portup = s.portup := rfl
@[simp] theorem State.csrPut_drops : (s.csrPut a u v).drops = s.drops := rfl
@[simp] theorem State.csrPut_seenSeq : (s.csrPut a u v).seenSeq = s.seenSeq := rfl
@[simp] theorem State.csrPut_answers : (s.csrPut a u v).answers = s.answers := rfl
@[simp] theorem State.csrPut_podOut : (s.csrPut a u v).podOut = s.podOut := rfl
@[simp] theorem State.csrPut_tsc : (s.csrPut a u v).tsc = s.tsc := rfl
@[simp] theorem State.csrPut_sub : (s.csrPut a u v).sub = s.sub := rfl
@[simp] theorem State.csrPut_locked : (s.csrPut a u v).locked = s.locked := rfl
@[simp] theorem State.csrPut_slew : (s.csrPut a u v).slew = s.slew := rfl
@[simp] theorem State.csrPut_slewTicks : (s.csrPut a u v).slewTicks = s.slewTicks := rfl
@[simp] theorem State.csrPut_die0 : (s.csrPut a u v).die0 = s.die0 := rfl
@[simp] theorem State.csrPut_die1 : (s.csrPut a u v).die1 = s.die1 := rfl
@[simp] theorem State.csrPut_hostUp0 : (s.csrPut a u v).hostUp0 = s.hostUp0 := rfl
@[simp] theorem State.csrPut_hostUp1 : (s.csrPut a u v).hostUp1 = s.hostUp1 := rfl
@[simp] theorem State.csrPut_power : (s.csrPut a u v).power = s.power := rfl
@[simp] theorem State.csrPut_resetn : (s.csrPut a u v).resetn = s.resetn := rfl
@[simp] theorem State.csrPut_boot : (s.csrPut a u v).boot = s.boot := rfl
@[simp] theorem State.csrPut_flash : (s.csrPut a u v).flash = s.flash := rfl
@[simp] theorem State.csrPut_staged0 : (s.csrPut a u v).staged0 = s.staged0 := rfl
@[simp] theorem State.csrPut_staged1 : (s.csrPut a u v).staged1 = s.staged1 := rfl
@[simp] theorem State.csrPut_fuseSvn : (s.csrPut a u v).fuseSvn = s.fuseSvn := rfl
@[simp] theorem State.csrPut_meas : (s.csrPut a u v).meas = s.meas := rfl
@[simp] theorem State.csrPut_rails : (s.csrPut a u v).rails = s.rails := rfl
@[simp] theorem State.csrPut_runSvn : (s.csrPut a u v).runSvn = s.runSvn := rfl
@[simp] theorem State.csrPut_nextGrid : (s.csrPut a u v).nextGrid = s.nextGrid := rfl
@[simp] theorem State.csrPut_nextTok : (s.csrPut a u v).nextTok = s.nextTok := rfl
@[simp] theorem State.csrPut_nextCrew : (s.csrPut a u v).nextCrew = s.nextCrew := rfl
@[simp] theorem State.csrPut_nextSer : (s.csrPut a u v).nextSer = s.nextSer := rfl
@[simp] theorem State.csrPut_fresh : (s.csrPut a u v).fresh = s.fresh := rfl
@[simp] theorem State.csrPut_out : (s.csrPut a u v).out = s.out := rfl
@[simp] theorem State.csrPut_agenda : (s.csrPut a u v).agenda = s.agenda := rfl
@[simp] theorem State.csrPut_cur : (s.csrPut a u v).cur = s.cur := rfl

/-! ### putBytes -/

@[simp] theorem State.putBytes_poison : (s.putBytes k bs).poison = s.poison := rfl
@[simp] theorem State.putBytes_vcopy : (s.putBytes k bs).vcopy = s.vcopy := rfl
@[simp] theorem State.putBytes_vspans : (s.putBytes k bs).vspans = s.vspans := rfl
@[simp] theorem State.putBytes_copies : (s.putBytes k bs).copies = s.copies := rfl
@[simp] theorem State.putBytes_l1own : (s.putBytes k bs).l1own = s.l1own := rfl
@[simp] theorem State.putBytes_hostWr : (s.putBytes k bs).hostWr = s.hostWr := rfl
@[simp] theorem State.putBytes_hostWaits : (s.putBytes k bs).hostWaits = s.hostWaits := rfl
@[simp] theorem State.putBytes_flight : (s.putBytes k bs).flight = s.flight := rfl
@[simp] theorem State.putBytes_pend : (s.putBytes k bs).pend = s.pend := rfl
@[simp] theorem State.putBytes_late : (s.putBytes k bs).late = s.late := rfl
@[simp] theorem State.putBytes_reqs : (s.putBytes k bs).reqs = s.reqs := rfl
@[simp] theorem State.putBytes_tlb : (s.putBytes k bs).tlb = s.tlb := rfl
@[simp] theorem State.putBytes_atc : (s.putBytes k bs).atc = s.atc := rfl
@[simp] theorem State.putBytes_atsOut : (s.putBytes k bs).atsOut = s.atsOut := rfl
@[simp] theorem State.putBytes_prqOut : (s.putBytes k bs).prqOut = s.prqOut := rfl
@[simp] theorem State.putBytes_hostFails : (s.putBytes k bs).hostFails = s.hostFails := rfl
@[simp] theorem State.putBytes_firn : (s.putBytes k bs).firn = s.firn := rfl
@[simp] theorem State.putBytes_teams : (s.putBytes k bs).teams = s.teams := rfl
@[simp] theorem State.putBytes_crews : (s.putBytes k bs).crews = s.crews := rfl
@[simp] theorem State.putBytes_cores : (s.putBytes k bs).cores = s.cores := rfl
@[simp] theorem State.putBytes_engines : (s.putBytes k bs).engines = s.engines := rfl
@[simp] theorem State.putBytes_collIn : (s.putBytes k bs).collIn = s.collIn := rfl
@[simp] theorem State.putBytes_grids : (s.putBytes k bs).grids = s.grids := rfl
@[simp] theorem State.putBytes_carts : (s.putBytes k bs).carts = s.carts := rfl
@[simp] theorem State.putBytes_expect : (s.putBytes k bs).expect = s.expect := rfl
@[simp] theorem State.putBytes_saved : (s.putBytes k bs).saved = s.saved := rfl
@[simp] theorem State.putBytes_allocReqs : (s.putBytes k bs).allocReqs = s.allocReqs := rfl
@[simp] theorem State.putBytes_csr : (s.putBytes k bs).csr = s.csr := rfl
@[simp] theorem State.putBytes_ctxs : (s.putBytes k bs).ctxs = s.ctxs := rfl
@[simp] theorem State.putBytes_wqs : (s.putBytes k bs).wqs = s.wqs := rfl
@[simp] theorem State.putBytes_seen : (s.putBytes k bs).seen = s.seen := rfl
@[simp] theorem State.putBytes_lastq : (s.putBytes k bs).lastq = s.lastq := rfl
@[simp] theorem State.putBytes_regions : (s.putBytes k bs).regions = s.regions := rfl
@[simp] theorem State.putBytes_mship : (s.putBytes k bs).mship = s.mship := rfl
@[simp] theorem State.putBytes_regionsNext : (s.putBytes k bs).regionsNext = s.regionsNext := rfl
@[simp] theorem State.putBytes_doms : (s.putBytes k bs).doms = s.doms := rfl
@[simp] theorem State.putBytes_scheds : (s.putBytes k bs).scheds = s.scheds := rfl
@[simp] theorem State.putBytes_sems : (s.putBytes k bs).sems = s.sems := rfl
@[simp] theorem State.putBytes_semReqs : (s.putBytes k bs).semReqs = s.semReqs := rfl
@[simp] theorem State.putBytes_frzReqs : (s.putBytes k bs).frzReqs = s.frzReqs := rfl
@[simp] theorem State.putBytes_frzCtx : (s.putBytes k bs).frzCtx = s.frzCtx := rfl
@[simp] theorem State.putBytes_frzTsc : (s.putBytes k bs).frzTsc = s.frzTsc := rfl
@[simp] theorem State.putBytes_iceCtx : (s.putBytes k bs).iceCtx = s.iceCtx := rfl
@[simp] theorem State.putBytes_iceState : (s.putBytes k bs).iceState = s.iceState := rfl
@[simp] theorem State.putBytes_iceTsc : (s.putBytes k bs).iceTsc = s.iceTsc := rfl
@[simp] theorem State.putBytes_dieMsgs : (s.putBytes k bs).dieMsgs = s.dieMsgs := rfl
@[simp] theorem State.putBytes_completes : (s.putBytes k bs).completes = s.completes := rfl
@[simp] theorem State.putBytes_stepNo : (s.putBytes k bs).stepNo = s.stepNo := rfl
@[simp] theorem State.putBytes_stepOut : (s.putBytes k bs).stepOut = s.stepOut := rfl
@[simp] theorem State.putBytes_stepState : (s.putBytes k bs).stepState = s.stepState := rfl
@[simp] theorem State.putBytes_members : (s.putBytes k bs).members = s.members := rfl
@[simp] theorem State.putBytes_arrived : (s.putBytes k bs).arrived = s.arrived := rfl
@[simp] theorem State.putBytes_arrivals : (s.putBytes k bs).arrivals = s.arrivals := rfl
@[simp] theorem State.putBytes_early : (s.putBytes k bs).early = s.early := rfl
@[simp] theorem State.putBytes_handed : (s.putBytes k bs).handed = s.handed := rfl
@[simp] theorem State.putBytes_aliveAt : (s.putBytes k bs).aliveAt = s.aliveAt := rfl
@[simp] theorem State.putBytes_decision : (s.putBytes k bs).decision = s.decision := rfl
@[simp] theorem State.putBytes_queried : (s.putBytes k bs).queried = s.queried := rfl
@[simp] theorem State.putBytes_asked : (s.putBytes k bs).asked = s.asked := rfl
@[simp] theorem State.putBytes_failures : (s.putBytes k bs).failures = s.failures := rfl
@[simp] theorem State.putBytes_dq : (s.putBytes k bs).dq = s.dq := rfl
@[simp] theorem State.putBytes_dqd : (s.putBytes k bs).dqd = s.dqd := rfl
@[simp] theorem State.putBytes_dqSer : (s.putBytes k bs).dqSer = s.dqSer := rfl
@[simp] theorem State.putBytes_owed : (s.putBytes k bs).owed = s.owed := rfl
@[simp] theorem State.putBytes_busy : (s.putBytes k bs).busy = s.busy := rfl
@[simp] theorem State.putBytes_pqd : (s.putBytes k bs).pqd = s.pqd := rfl
@[simp] theorem State.putBytes_portup : (s.putBytes k bs).portup = s.portup := rfl
@[simp] theorem State.putBytes_drops : (s.putBytes k bs).drops = s.drops := rfl
@[simp] theorem State.putBytes_seenSeq : (s.putBytes k bs).seenSeq = s.seenSeq := rfl
@[simp] theorem State.putBytes_answers : (s.putBytes k bs).answers = s.answers := rfl
@[simp] theorem State.putBytes_podOut : (s.putBytes k bs).podOut = s.podOut := rfl
@[simp] theorem State.putBytes_tsc : (s.putBytes k bs).tsc = s.tsc := rfl
@[simp] theorem State.putBytes_sub : (s.putBytes k bs).sub = s.sub := rfl
@[simp] theorem State.putBytes_locked : (s.putBytes k bs).locked = s.locked := rfl
@[simp] theorem State.putBytes_slew : (s.putBytes k bs).slew = s.slew := rfl
@[simp] theorem State.putBytes_slewTicks : (s.putBytes k bs).slewTicks = s.slewTicks := rfl
@[simp] theorem State.putBytes_die0 : (s.putBytes k bs).die0 = s.die0 := rfl
@[simp] theorem State.putBytes_die1 : (s.putBytes k bs).die1 = s.die1 := rfl
@[simp] theorem State.putBytes_hostUp0 : (s.putBytes k bs).hostUp0 = s.hostUp0 := rfl
@[simp] theorem State.putBytes_hostUp1 : (s.putBytes k bs).hostUp1 = s.hostUp1 := rfl
@[simp] theorem State.putBytes_power : (s.putBytes k bs).power = s.power := rfl
@[simp] theorem State.putBytes_resetn : (s.putBytes k bs).resetn = s.resetn := rfl
@[simp] theorem State.putBytes_boot : (s.putBytes k bs).boot = s.boot := rfl
@[simp] theorem State.putBytes_flash : (s.putBytes k bs).flash = s.flash := rfl
@[simp] theorem State.putBytes_staged0 : (s.putBytes k bs).staged0 = s.staged0 := rfl
@[simp] theorem State.putBytes_staged1 : (s.putBytes k bs).staged1 = s.staged1 := rfl
@[simp] theorem State.putBytes_fuseSvn : (s.putBytes k bs).fuseSvn = s.fuseSvn := rfl
@[simp] theorem State.putBytes_meas : (s.putBytes k bs).meas = s.meas := rfl
@[simp] theorem State.putBytes_rails : (s.putBytes k bs).rails = s.rails := rfl
@[simp] theorem State.putBytes_runSvn : (s.putBytes k bs).runSvn = s.runSvn := rfl
@[simp] theorem State.putBytes_nextGrid : (s.putBytes k bs).nextGrid = s.nextGrid := rfl
@[simp] theorem State.putBytes_nextTok : (s.putBytes k bs).nextTok = s.nextTok := rfl
@[simp] theorem State.putBytes_nextCrew : (s.putBytes k bs).nextCrew = s.nextCrew := rfl
@[simp] theorem State.putBytes_nextSer : (s.putBytes k bs).nextSer = s.nextSer := rfl
@[simp] theorem State.putBytes_fresh : (s.putBytes k bs).fresh = s.fresh := rfl
@[simp] theorem State.putBytes_out : (s.putBytes k bs).out = s.out := rfl
@[simp] theorem State.putBytes_agenda : (s.putBytes k bs).agenda = s.agenda := rfl
@[simp] theorem State.putBytes_cur : (s.putBytes k bs).cur = s.cur := rfl

/-! ### setCopy -/

@[simp] theorem State.setCopy_mem : (s.setCopy k j b).mem = s.mem := rfl
@[simp] theorem State.setCopy_poison : (s.setCopy k j b).poison = s.poison := rfl
@[simp] theorem State.setCopy_vcopy : (s.setCopy k j b).vcopy = s.vcopy := rfl
@[simp] theorem State.setCopy_vspans : (s.setCopy k j b).vspans = s.vspans := rfl
@[simp] theorem State.setCopy_l1own : (s.setCopy k j b).l1own = s.l1own := rfl
@[simp] theorem State.setCopy_hostL2 : (s.setCopy k j b).hostL2 = s.hostL2 := rfl
@[simp] theorem State.setCopy_hostWr : (s.setCopy k j b).hostWr = s.hostWr := rfl
@[simp] theorem State.setCopy_hostWaits : (s.setCopy k j b).hostWaits = s.hostWaits := rfl
@[simp] theorem State.setCopy_flight : (s.setCopy k j b).flight = s.flight := rfl
@[simp] theorem State.setCopy_pend : (s.setCopy k j b).pend = s.pend := rfl
@[simp] theorem State.setCopy_late : (s.setCopy k j b).late = s.late := rfl
@[simp] theorem State.setCopy_reqs : (s.setCopy k j b).reqs = s.reqs := rfl
@[simp] theorem State.setCopy_tlb : (s.setCopy k j b).tlb = s.tlb := rfl
@[simp] theorem State.setCopy_atc : (s.setCopy k j b).atc = s.atc := rfl
@[simp] theorem State.setCopy_atsOut : (s.setCopy k j b).atsOut = s.atsOut := rfl
@[simp] theorem State.setCopy_prqOut : (s.setCopy k j b).prqOut = s.prqOut := rfl
@[simp] theorem State.setCopy_hostFails : (s.setCopy k j b).hostFails = s.hostFails := rfl
@[simp] theorem State.setCopy_firn : (s.setCopy k j b).firn = s.firn := rfl
@[simp] theorem State.setCopy_teams : (s.setCopy k j b).teams = s.teams := rfl
@[simp] theorem State.setCopy_crews : (s.setCopy k j b).crews = s.crews := rfl
@[simp] theorem State.setCopy_cores : (s.setCopy k j b).cores = s.cores := rfl
@[simp] theorem State.setCopy_engines : (s.setCopy k j b).engines = s.engines := rfl
@[simp] theorem State.setCopy_collIn : (s.setCopy k j b).collIn = s.collIn := rfl
@[simp] theorem State.setCopy_grids : (s.setCopy k j b).grids = s.grids := rfl
@[simp] theorem State.setCopy_carts : (s.setCopy k j b).carts = s.carts := rfl
@[simp] theorem State.setCopy_expect : (s.setCopy k j b).expect = s.expect := rfl
@[simp] theorem State.setCopy_saved : (s.setCopy k j b).saved = s.saved := rfl
@[simp] theorem State.setCopy_allocReqs : (s.setCopy k j b).allocReqs = s.allocReqs := rfl
@[simp] theorem State.setCopy_csr : (s.setCopy k j b).csr = s.csr := rfl
@[simp] theorem State.setCopy_ctxs : (s.setCopy k j b).ctxs = s.ctxs := rfl
@[simp] theorem State.setCopy_wqs : (s.setCopy k j b).wqs = s.wqs := rfl
@[simp] theorem State.setCopy_seen : (s.setCopy k j b).seen = s.seen := rfl
@[simp] theorem State.setCopy_lastq : (s.setCopy k j b).lastq = s.lastq := rfl
@[simp] theorem State.setCopy_regions : (s.setCopy k j b).regions = s.regions := rfl
@[simp] theorem State.setCopy_mship : (s.setCopy k j b).mship = s.mship := rfl
@[simp] theorem State.setCopy_regionsNext : (s.setCopy k j b).regionsNext = s.regionsNext := rfl
@[simp] theorem State.setCopy_doms : (s.setCopy k j b).doms = s.doms := rfl
@[simp] theorem State.setCopy_scheds : (s.setCopy k j b).scheds = s.scheds := rfl
@[simp] theorem State.setCopy_sems : (s.setCopy k j b).sems = s.sems := rfl
@[simp] theorem State.setCopy_semReqs : (s.setCopy k j b).semReqs = s.semReqs := rfl
@[simp] theorem State.setCopy_frzReqs : (s.setCopy k j b).frzReqs = s.frzReqs := rfl
@[simp] theorem State.setCopy_frzCtx : (s.setCopy k j b).frzCtx = s.frzCtx := rfl
@[simp] theorem State.setCopy_frzTsc : (s.setCopy k j b).frzTsc = s.frzTsc := rfl
@[simp] theorem State.setCopy_iceCtx : (s.setCopy k j b).iceCtx = s.iceCtx := rfl
@[simp] theorem State.setCopy_iceState : (s.setCopy k j b).iceState = s.iceState := rfl
@[simp] theorem State.setCopy_iceTsc : (s.setCopy k j b).iceTsc = s.iceTsc := rfl
@[simp] theorem State.setCopy_dieMsgs : (s.setCopy k j b).dieMsgs = s.dieMsgs := rfl
@[simp] theorem State.setCopy_completes : (s.setCopy k j b).completes = s.completes := rfl
@[simp] theorem State.setCopy_stepNo : (s.setCopy k j b).stepNo = s.stepNo := rfl
@[simp] theorem State.setCopy_stepOut : (s.setCopy k j b).stepOut = s.stepOut := rfl
@[simp] theorem State.setCopy_stepState : (s.setCopy k j b).stepState = s.stepState := rfl
@[simp] theorem State.setCopy_members : (s.setCopy k j b).members = s.members := rfl
@[simp] theorem State.setCopy_arrived : (s.setCopy k j b).arrived = s.arrived := rfl
@[simp] theorem State.setCopy_arrivals : (s.setCopy k j b).arrivals = s.arrivals := rfl
@[simp] theorem State.setCopy_early : (s.setCopy k j b).early = s.early := rfl
@[simp] theorem State.setCopy_handed : (s.setCopy k j b).handed = s.handed := rfl
@[simp] theorem State.setCopy_aliveAt : (s.setCopy k j b).aliveAt = s.aliveAt := rfl
@[simp] theorem State.setCopy_decision : (s.setCopy k j b).decision = s.decision := rfl
@[simp] theorem State.setCopy_queried : (s.setCopy k j b).queried = s.queried := rfl
@[simp] theorem State.setCopy_asked : (s.setCopy k j b).asked = s.asked := rfl
@[simp] theorem State.setCopy_failures : (s.setCopy k j b).failures = s.failures := rfl
@[simp] theorem State.setCopy_dq : (s.setCopy k j b).dq = s.dq := rfl
@[simp] theorem State.setCopy_dqd : (s.setCopy k j b).dqd = s.dqd := rfl
@[simp] theorem State.setCopy_dqSer : (s.setCopy k j b).dqSer = s.dqSer := rfl
@[simp] theorem State.setCopy_owed : (s.setCopy k j b).owed = s.owed := rfl
@[simp] theorem State.setCopy_busy : (s.setCopy k j b).busy = s.busy := rfl
@[simp] theorem State.setCopy_pqd : (s.setCopy k j b).pqd = s.pqd := rfl
@[simp] theorem State.setCopy_portup : (s.setCopy k j b).portup = s.portup := rfl
@[simp] theorem State.setCopy_drops : (s.setCopy k j b).drops = s.drops := rfl
@[simp] theorem State.setCopy_seenSeq : (s.setCopy k j b).seenSeq = s.seenSeq := rfl
@[simp] theorem State.setCopy_answers : (s.setCopy k j b).answers = s.answers := rfl
@[simp] theorem State.setCopy_podOut : (s.setCopy k j b).podOut = s.podOut := rfl
@[simp] theorem State.setCopy_tsc : (s.setCopy k j b).tsc = s.tsc := rfl
@[simp] theorem State.setCopy_sub : (s.setCopy k j b).sub = s.sub := rfl
@[simp] theorem State.setCopy_locked : (s.setCopy k j b).locked = s.locked := rfl
@[simp] theorem State.setCopy_slew : (s.setCopy k j b).slew = s.slew := rfl
@[simp] theorem State.setCopy_slewTicks : (s.setCopy k j b).slewTicks = s.slewTicks := rfl
@[simp] theorem State.setCopy_die0 : (s.setCopy k j b).die0 = s.die0 := rfl
@[simp] theorem State.setCopy_die1 : (s.setCopy k j b).die1 = s.die1 := rfl
@[simp] theorem State.setCopy_hostUp0 : (s.setCopy k j b).hostUp0 = s.hostUp0 := rfl
@[simp] theorem State.setCopy_hostUp1 : (s.setCopy k j b).hostUp1 = s.hostUp1 := rfl
@[simp] theorem State.setCopy_power : (s.setCopy k j b).power = s.power := rfl
@[simp] theorem State.setCopy_resetn : (s.setCopy k j b).resetn = s.resetn := rfl
@[simp] theorem State.setCopy_boot : (s.setCopy k j b).boot = s.boot := rfl
@[simp] theorem State.setCopy_flash : (s.setCopy k j b).flash = s.flash := rfl
@[simp] theorem State.setCopy_staged0 : (s.setCopy k j b).staged0 = s.staged0 := rfl
@[simp] theorem State.setCopy_staged1 : (s.setCopy k j b).staged1 = s.staged1 := rfl
@[simp] theorem State.setCopy_fuseSvn : (s.setCopy k j b).fuseSvn = s.fuseSvn := rfl
@[simp] theorem State.setCopy_meas : (s.setCopy k j b).meas = s.meas := rfl
@[simp] theorem State.setCopy_rails : (s.setCopy k j b).rails = s.rails := rfl
@[simp] theorem State.setCopy_runSvn : (s.setCopy k j b).runSvn = s.runSvn := rfl
@[simp] theorem State.setCopy_nextGrid : (s.setCopy k j b).nextGrid = s.nextGrid := rfl
@[simp] theorem State.setCopy_nextTok : (s.setCopy k j b).nextTok = s.nextTok := rfl
@[simp] theorem State.setCopy_nextCrew : (s.setCopy k j b).nextCrew = s.nextCrew := rfl
@[simp] theorem State.setCopy_nextSer : (s.setCopy k j b).nextSer = s.nextSer := rfl
@[simp] theorem State.setCopy_fresh : (s.setCopy k j b).fresh = s.fresh := rfl
@[simp] theorem State.setCopy_out : (s.setCopy k j b).out = s.out := rfl
@[simp] theorem State.setCopy_agenda : (s.setCopy k j b).agenda = s.agenda := rfl
@[simp] theorem State.setCopy_cur : (s.setCopy k j b).cur = s.cur := rfl

/-! ### modTeam -/

@[simp] theorem State.modTeam_mem : (s.modTeam k ft).mem = s.mem := rfl
@[simp] theorem State.modTeam_csr : (s.modTeam k ft).csr = s.csr := rfl
@[simp] theorem State.modTeam_crews : (s.modTeam k ft).crews = s.crews := rfl
@[simp] theorem State.modTeam_cores : (s.modTeam k ft).cores = s.cores := rfl
@[simp] theorem State.modTeam_grids : (s.modTeam k ft).grids = s.grids := rfl
@[simp] theorem State.modTeam_ctxs : (s.modTeam k ft).ctxs = s.ctxs := rfl
@[simp] theorem State.modTeam_doms : (s.modTeam k ft).doms = s.doms := rfl
@[simp] theorem State.modTeam_flight : (s.modTeam k ft).flight = s.flight := rfl
@[simp] theorem State.modTeam_pend : (s.modTeam k ft).pend = s.pend := rfl
@[simp] theorem State.modTeam_late : (s.modTeam k ft).late = s.late := rfl
@[simp] theorem State.modTeam_out : (s.modTeam k ft).out = s.out := rfl
@[simp] theorem State.modTeam_tsc : (s.modTeam k ft).tsc = s.tsc := rfl
@[simp] theorem State.modTeam_cur : (s.modTeam k ft).cur = s.cur := rfl
@[simp] theorem State.modTeam_agenda : (s.modTeam k ft).agenda = s.agenda := rfl
@[simp] theorem State.modTeam_poison : (s.modTeam k ft).poison = s.poison := rfl
@[simp] theorem State.modTeam_copies : (s.modTeam k ft).copies = s.copies := rfl
@[simp] theorem State.modTeam_crew : (s.modTeam k ft).crew j = s.crew j := rfl
@[simp] theorem State.modTeam_grid : (s.modTeam k ft).grid j = s.grid j := rfl
@[simp] theorem State.modTeam_ctx : (s.modTeam k ft).ctx j = s.ctx j := rfl
@[simp] theorem State.modTeam_coreSt : (s.modTeam k ft).coreSt j = s.coreSt j := rfl
@[simp] theorem State.modTeam_memByte : (s.modTeam k ft).memByte j = s.memByte j := rfl
@[simp] theorem State.modTeam_csrGet : (s.modTeam k ft).csrGet a u = s.csrGet a u := rfl
theorem State.modTeam_only : s.modTeam k ft = { s with teams := (s.modTeam k ft).teams } := rfl

/-! ### setPath -/

@[simp] theorem State.setPath_mem : (s.setPath r p).mem = s.mem := rfl
@[simp] theorem State.setPath_csr : (s.setPath r p).csr = s.csr := rfl
@[simp] theorem State.setPath_crews : (s.setPath r p).crews = s.crews := rfl
@[simp] theorem State.setPath_cores : (s.setPath r p).cores = s.cores := rfl
@[simp] theorem State.setPath_grids : (s.setPath r p).grids = s.grids := rfl
@[simp] theorem State.setPath_ctxs : (s.setPath r p).ctxs = s.ctxs := rfl
@[simp] theorem State.setPath_doms : (s.setPath r p).doms = s.doms := rfl
@[simp] theorem State.setPath_flight : (s.setPath r p).flight = s.flight := rfl
@[simp] theorem State.setPath_pend : (s.setPath r p).pend = s.pend := rfl
@[simp] theorem State.setPath_late : (s.setPath r p).late = s.late := rfl
@[simp] theorem State.setPath_out : (s.setPath r p).out = s.out := rfl
@[simp] theorem State.setPath_tsc : (s.setPath r p).tsc = s.tsc := rfl
@[simp] theorem State.setPath_cur : (s.setPath r p).cur = s.cur := rfl
@[simp] theorem State.setPath_agenda : (s.setPath r p).agenda = s.agenda := rfl
@[simp] theorem State.setPath_poison : (s.setPath r p).poison = s.poison := rfl
@[simp] theorem State.setPath_copies : (s.setPath r p).copies = s.copies := rfl
@[simp] theorem State.setPath_crew : (s.setPath r p).crew j = s.crew j := rfl
@[simp] theorem State.setPath_grid : (s.setPath r p).grid j = s.grid j := rfl
@[simp] theorem State.setPath_ctx : (s.setPath r p).ctx j = s.ctx j := rfl
@[simp] theorem State.setPath_coreSt : (s.setPath r p).coreSt j = s.coreSt j := rfl
@[simp] theorem State.setPath_memByte : (s.setPath r p).memByte j = s.memByte j := rfl
@[simp] theorem State.setPath_csrGet : (s.setPath r p).csrGet a u = s.csrGet a u := rfl
theorem State.setPath_only : s.setPath r p = { s with teams := (s.setPath r p).teams } := rfl

/-! ### modPath -/

@[simp] theorem State.modPath_mem : (s.modPath r fp).mem = s.mem := rfl
@[simp] theorem State.modPath_csr : (s.modPath r fp).csr = s.csr := rfl
@[simp] theorem State.modPath_crews : (s.modPath r fp).crews = s.crews := rfl
@[simp] theorem State.modPath_cores : (s.modPath r fp).cores = s.cores := rfl
@[simp] theorem State.modPath_grids : (s.modPath r fp).grids = s.grids := rfl
@[simp] theorem State.modPath_ctxs : (s.modPath r fp).ctxs = s.ctxs := rfl
@[simp] theorem State.modPath_doms : (s.modPath r fp).doms = s.doms := rfl
@[simp] theorem State.modPath_flight : (s.modPath r fp).flight = s.flight := rfl
@[simp] theorem State.modPath_pend : (s.modPath r fp).pend = s.pend := rfl
@[simp] theorem State.modPath_late : (s.modPath r fp).late = s.late := rfl
@[simp] theorem State.modPath_out : (s.modPath r fp).out = s.out := rfl
@[simp] theorem State.modPath_tsc : (s.modPath r fp).tsc = s.tsc := rfl
@[simp] theorem State.modPath_cur : (s.modPath r fp).cur = s.cur := rfl
@[simp] theorem State.modPath_agenda : (s.modPath r fp).agenda = s.agenda := rfl
@[simp] theorem State.modPath_poison : (s.modPath r fp).poison = s.poison := rfl
@[simp] theorem State.modPath_copies : (s.modPath r fp).copies = s.copies := rfl
@[simp] theorem State.modPath_crew : (s.modPath r fp).crew j = s.crew j := rfl
@[simp] theorem State.modPath_grid : (s.modPath r fp).grid j = s.grid j := rfl
@[simp] theorem State.modPath_ctx : (s.modPath r fp).ctx j = s.ctx j := rfl
@[simp] theorem State.modPath_coreSt : (s.modPath r fp).coreSt j = s.coreSt j := rfl
@[simp] theorem State.modPath_memByte : (s.modPath r fp).memByte j = s.memByte j := rfl
@[simp] theorem State.modPath_csrGet : (s.modPath r fp).csrGet a u = s.csrGet a u := rfl
theorem State.modPath_only : s.modPath r fp = { s with teams := (s.modPath r fp).teams } := rfl

/-! ### sset -/

@[simp] theorem State.sset_mem : (s.sset r d v).mem = s.mem := rfl
@[simp] theorem State.sset_csr : (s.sset r d v).csr = s.csr := rfl
@[simp] theorem State.sset_crews : (s.sset r d v).crews = s.crews := rfl
@[simp] theorem State.sset_cores : (s.sset r d v).cores = s.cores := rfl
@[simp] theorem State.sset_grids : (s.sset r d v).grids = s.grids := rfl
@[simp] theorem State.sset_ctxs : (s.sset r d v).ctxs = s.ctxs := rfl
@[simp] theorem State.sset_doms : (s.sset r d v).doms = s.doms := rfl
@[simp] theorem State.sset_flight : (s.sset r d v).flight = s.flight := rfl
@[simp] theorem State.sset_pend : (s.sset r d v).pend = s.pend := rfl
@[simp] theorem State.sset_late : (s.sset r d v).late = s.late := rfl
@[simp] theorem State.sset_out : (s.sset r d v).out = s.out := rfl
@[simp] theorem State.sset_tsc : (s.sset r d v).tsc = s.tsc := rfl
@[simp] theorem State.sset_cur : (s.sset r d v).cur = s.cur := rfl
@[simp] theorem State.sset_agenda : (s.sset r d v).agenda = s.agenda := rfl
@[simp] theorem State.sset_poison : (s.sset r d v).poison = s.poison := rfl
@[simp] theorem State.sset_copies : (s.sset r d v).copies = s.copies := rfl
@[simp] theorem State.sset_crew : (s.sset r d v).crew j = s.crew j := rfl
@[simp] theorem State.sset_grid : (s.sset r d v).grid j = s.grid j := rfl
@[simp] theorem State.sset_ctx : (s.sset r d v).ctx j = s.ctx j := rfl
@[simp] theorem State.sset_coreSt : (s.sset r d v).coreSt j = s.coreSt j := rfl
@[simp] theorem State.sset_memByte : (s.sset r d v).memByte j = s.memByte j := rfl
@[simp] theorem State.sset_csrGet : (s.sset r d v).csrGet a u = s.csrGet a u := rfl
theorem State.sset_only : s.sset r d v = { s with teams := (s.sset r d v).teams } := rfl

/-! ### pset -/

@[simp] theorem State.pset_mem : (s.pset r e m).mem = s.mem := rfl
@[simp] theorem State.pset_csr : (s.pset r e m).csr = s.csr := rfl
@[simp] theorem State.pset_crews : (s.pset r e m).crews = s.crews := rfl
@[simp] theorem State.pset_cores : (s.pset r e m).cores = s.cores := rfl
@[simp] theorem State.pset_grids : (s.pset r e m).grids = s.grids := rfl
@[simp] theorem State.pset_ctxs : (s.pset r e m).ctxs = s.ctxs := rfl
@[simp] theorem State.pset_doms : (s.pset r e m).doms = s.doms := rfl
@[simp] theorem State.pset_flight : (s.pset r e m).flight = s.flight := rfl
@[simp] theorem State.pset_pend : (s.pset r e m).pend = s.pend := rfl
@[simp] theorem State.pset_late : (s.pset r e m).late = s.late := rfl
@[simp] theorem State.pset_out : (s.pset r e m).out = s.out := rfl
@[simp] theorem State.pset_tsc : (s.pset r e m).tsc = s.tsc := rfl
@[simp] theorem State.pset_cur : (s.pset r e m).cur = s.cur := rfl
@[simp] theorem State.pset_agenda : (s.pset r e m).agenda = s.agenda := rfl
@[simp] theorem State.pset_poison : (s.pset r e m).poison = s.poison := rfl
@[simp] theorem State.pset_copies : (s.pset r e m).copies = s.copies := rfl
@[simp] theorem State.pset_crew : (s.pset r e m).crew j = s.crew j := rfl
@[simp] theorem State.pset_grid : (s.pset r e m).grid j = s.grid j := rfl
@[simp] theorem State.pset_ctx : (s.pset r e m).ctx j = s.ctx j := rfl
@[simp] theorem State.pset_coreSt : (s.pset r e m).coreSt j = s.coreSt j := rfl
@[simp] theorem State.pset_memByte : (s.pset r e m).memByte j = s.memByte j := rfl
@[simp] theorem State.pset_csrGet : (s.pset r e m).csrGet a u = s.csrGet a u := rfl
theorem State.pset_only : s.pset r e m = { s with teams := (s.pset r e m).teams } := rfl

/-! ### addStatus -/

@[simp] theorem State.addStatus_mem : (s.addStatus r st).mem = s.mem := rfl
@[simp] theorem State.addStatus_csr : (s.addStatus r st).csr = s.csr := rfl
@[simp] theorem State.addStatus_crews : (s.addStatus r st).crews = s.crews := rfl
@[simp] theorem State.addStatus_cores : (s.addStatus r st).cores = s.cores := rfl
@[simp] theorem State.addStatus_grids : (s.addStatus r st).grids = s.grids := rfl
@[simp] theorem State.addStatus_ctxs : (s.addStatus r st).ctxs = s.ctxs := rfl
@[simp] theorem State.addStatus_doms : (s.addStatus r st).doms = s.doms := rfl
@[simp] theorem State.addStatus_flight : (s.addStatus r st).flight = s.flight := rfl
@[simp] theorem State.addStatus_pend : (s.addStatus r st).pend = s.pend := rfl
@[simp] theorem State.addStatus_late : (s.addStatus r st).late = s.late := rfl
@[simp] theorem State.addStatus_out : (s.addStatus r st).out = s.out := rfl
@[simp] theorem State.addStatus_tsc : (s.addStatus r st).tsc = s.tsc := rfl
@[simp] theorem State.addStatus_cur : (s.addStatus r st).cur = s.cur := rfl
@[simp] theorem State.addStatus_agenda : (s.addStatus r st).agenda = s.agenda := rfl
@[simp] theorem State.addStatus_poison : (s.addStatus r st).poison = s.poison := rfl
@[simp] theorem State.addStatus_copies : (s.addStatus r st).copies = s.copies := rfl
@[simp] theorem State.addStatus_crew : (s.addStatus r st).crew j = s.crew j := rfl
@[simp] theorem State.addStatus_grid : (s.addStatus r st).grid j = s.grid j := rfl
@[simp] theorem State.addStatus_ctx : (s.addStatus r st).ctx j = s.ctx j := rfl
@[simp] theorem State.addStatus_coreSt : (s.addStatus r st).coreSt j = s.coreSt j := rfl
@[simp] theorem State.addStatus_memByte : (s.addStatus r st).memByte j = s.memByte j := rfl
@[simp] theorem State.addStatus_csrGet : (s.addStatus r st).csrGet a u = s.csrGet a u := rfl
theorem State.addStatus_only : s.addStatus r st = { s with teams := (s.addStatus r st).teams } := rfl

/-! ### advance -/

@[simp] theorem State.advance_mem : (s.advance r n).mem = s.mem := rfl
@[simp] theorem State.advance_csr : (s.advance r n).csr = s.csr := rfl
@[simp] theorem State.advance_crews : (s.advance r n).crews = s.crews := rfl
@[simp] theorem State.advance_cores : (s.advance r n).cores = s.cores := rfl
@[simp] theorem State.advance_grids : (s.advance r n).grids = s.grids := rfl
@[simp] theorem State.advance_ctxs : (s.advance r n).ctxs = s.ctxs := rfl
@[simp] theorem State.advance_doms : (s.advance r n).doms = s.doms := rfl
@[simp] theorem State.advance_flight : (s.advance r n).flight = s.flight := rfl
@[simp] theorem State.advance_pend : (s.advance r n).pend = s.pend := rfl
@[simp] theorem State.advance_late : (s.advance r n).late = s.late := rfl
@[simp] theorem State.advance_out : (s.advance r n).out = s.out := rfl
@[simp] theorem State.advance_tsc : (s.advance r n).tsc = s.tsc := rfl
@[simp] theorem State.advance_cur : (s.advance r n).cur = s.cur := rfl
@[simp] theorem State.advance_agenda : (s.advance r n).agenda = s.agenda := rfl
@[simp] theorem State.advance_poison : (s.advance r n).poison = s.poison := rfl
@[simp] theorem State.advance_copies : (s.advance r n).copies = s.copies := rfl
@[simp] theorem State.advance_crew : (s.advance r n).crew j = s.crew j := rfl
@[simp] theorem State.advance_grid : (s.advance r n).grid j = s.grid j := rfl
@[simp] theorem State.advance_ctx : (s.advance r n).ctx j = s.ctx j := rfl
@[simp] theorem State.advance_coreSt : (s.advance r n).coreSt j = s.coreSt j := rfl
@[simp] theorem State.advance_memByte : (s.advance r n).memByte j = s.memByte j := rfl
@[simp] theorem State.advance_csrGet : (s.advance r n).csrGet a u = s.csrGet a u := rfl
theorem State.advance_only : s.advance r n = { s with teams := (s.advance r n).teams } := rfl

/-! ### waitFor -/

@[simp] theorem State.waitFor_mem : (s.waitFor r w).mem = s.mem := rfl
@[simp] theorem State.waitFor_csr : (s.waitFor r w).csr = s.csr := rfl
@[simp] theorem State.waitFor_crews : (s.waitFor r w).crews = s.crews := rfl
@[simp] theorem State.waitFor_cores : (s.waitFor r w).cores = s.cores := rfl
@[simp] theorem State.waitFor_grids : (s.waitFor r w).grids = s.grids := rfl
@[simp] theorem State.waitFor_ctxs : (s.waitFor r w).ctxs = s.ctxs := rfl
@[simp] theorem State.waitFor_doms : (s.waitFor r w).doms = s.doms := rfl
@[simp] theorem State.waitFor_flight : (s.waitFor r w).flight = s.flight := rfl
@[simp] theorem State.waitFor_pend : (s.waitFor r w).pend = s.pend := rfl
@[simp] theorem State.waitFor_late : (s.waitFor r w).late = s.late := rfl
@[simp] theorem State.waitFor_out : (s.waitFor r w).out = s.out := rfl
@[simp] theorem State.waitFor_tsc : (s.waitFor r w).tsc = s.tsc := rfl
@[simp] theorem State.waitFor_cur : (s.waitFor r w).cur = s.cur := rfl
@[simp] theorem State.waitFor_agenda : (s.waitFor r w).agenda = s.agenda := rfl
@[simp] theorem State.waitFor_poison : (s.waitFor r w).poison = s.poison := rfl
@[simp] theorem State.waitFor_copies : (s.waitFor r w).copies = s.copies := rfl
@[simp] theorem State.waitFor_crew : (s.waitFor r w).crew j = s.crew j := rfl
@[simp] theorem State.waitFor_grid : (s.waitFor r w).grid j = s.grid j := rfl
@[simp] theorem State.waitFor_ctx : (s.waitFor r w).ctx j = s.ctx j := rfl
@[simp] theorem State.waitFor_coreSt : (s.waitFor r w).coreSt j = s.coreSt j := rfl
@[simp] theorem State.waitFor_memByte : (s.waitFor r w).memByte j = s.memByte j := rfl
@[simp] theorem State.waitFor_csrGet : (s.waitFor r w).csrGet a u = s.csrGet a u := rfl
theorem State.waitFor_only : s.waitFor r w = { s with teams := (s.waitFor r w).teams } := rfl

/-! ### transfer -/

@[simp] theorem State.transfer_mem : (s.transfer r v).mem = s.mem := rfl
@[simp] theorem State.transfer_csr : (s.transfer r v).csr = s.csr := rfl
@[simp] theorem State.transfer_crews : (s.transfer r v).crews = s.crews := rfl
@[simp] theorem State.transfer_cores : (s.transfer r v).cores = s.cores := rfl
@[simp] theorem State.transfer_grids : (s.transfer r v).grids = s.grids := rfl
@[simp] theorem State.transfer_ctxs : (s.transfer r v).ctxs = s.ctxs := rfl
@[simp] theorem State.transfer_doms : (s.transfer r v).doms = s.doms := rfl
@[simp] theorem State.transfer_flight : (s.transfer r v).flight = s.flight := rfl
@[simp] theorem State.transfer_pend : (s.transfer r v).pend = s.pend := rfl
@[simp] theorem State.transfer_late : (s.transfer r v).late = s.late := rfl
@[simp] theorem State.transfer_out : (s.transfer r v).out = s.out := rfl
@[simp] theorem State.transfer_tsc : (s.transfer r v).tsc = s.tsc := rfl
@[simp] theorem State.transfer_cur : (s.transfer r v).cur = s.cur := rfl
@[simp] theorem State.transfer_agenda : (s.transfer r v).agenda = s.agenda := rfl
@[simp] theorem State.transfer_poison : (s.transfer r v).poison = s.poison := rfl
@[simp] theorem State.transfer_copies : (s.transfer r v).copies = s.copies := rfl
@[simp] theorem State.transfer_crew : (s.transfer r v).crew j = s.crew j := rfl
@[simp] theorem State.transfer_grid : (s.transfer r v).grid j = s.grid j := rfl
@[simp] theorem State.transfer_ctx : (s.transfer r v).ctx j = s.ctx j := rfl
@[simp] theorem State.transfer_coreSt : (s.transfer r v).coreSt j = s.coreSt j := rfl
@[simp] theorem State.transfer_memByte : (s.transfer r v).memByte j = s.memByte j := rfl
@[simp] theorem State.transfer_csrGet : (s.transfer r v).csrGet a u = s.csrGet a u := rfl
theorem State.transfer_only : s.transfer r v = { s with teams := (s.transfer r v).teams } := rfl

/-! ### regWrite -/

@[simp] theorem State.regWrite_mem : (s.regWrite k rw).mem = s.mem := by cases rw <;> rfl
@[simp] theorem State.regWrite_csr : (s.regWrite k rw).csr = s.csr := by cases rw <;> rfl
@[simp] theorem State.regWrite_crews : (s.regWrite k rw).crews = s.crews := by cases rw <;> rfl
@[simp] theorem State.regWrite_cores : (s.regWrite k rw).cores = s.cores := by cases rw <;> rfl
@[simp] theorem State.regWrite_grids : (s.regWrite k rw).grids = s.grids := by cases rw <;> rfl
@[simp] theorem State.regWrite_ctxs : (s.regWrite k rw).ctxs = s.ctxs := by cases rw <;> rfl
@[simp] theorem State.regWrite_doms : (s.regWrite k rw).doms = s.doms := by cases rw <;> rfl
@[simp] theorem State.regWrite_flight : (s.regWrite k rw).flight = s.flight := by cases rw <;> rfl
@[simp] theorem State.regWrite_pend : (s.regWrite k rw).pend = s.pend := by cases rw <;> rfl
@[simp] theorem State.regWrite_late : (s.regWrite k rw).late = s.late := by cases rw <;> rfl
@[simp] theorem State.regWrite_out : (s.regWrite k rw).out = s.out := by cases rw <;> rfl
@[simp] theorem State.regWrite_tsc : (s.regWrite k rw).tsc = s.tsc := by cases rw <;> rfl
@[simp] theorem State.regWrite_cur : (s.regWrite k rw).cur = s.cur := by cases rw <;> rfl
@[simp] theorem State.regWrite_agenda : (s.regWrite k rw).agenda = s.agenda := by cases rw <;> rfl
@[simp] theorem State.regWrite_poison : (s.regWrite k rw).poison = s.poison := by cases rw <;> rfl
@[simp] theorem State.regWrite_copies : (s.regWrite k rw).copies = s.copies := by cases rw <;> rfl
@[simp] theorem State.regWrite_crew : (s.regWrite k rw).crew j = s.crew j := by cases rw <;> rfl
@[simp] theorem State.regWrite_grid : (s.regWrite k rw).grid j = s.grid j := by cases rw <;> rfl
@[simp] theorem State.regWrite_ctx : (s.regWrite k rw).ctx j = s.ctx j := by cases rw <;> rfl
@[simp] theorem State.regWrite_coreSt : (s.regWrite k rw).coreSt j = s.coreSt j := by cases rw <;> rfl
@[simp] theorem State.regWrite_memByte : (s.regWrite k rw).memByte j = s.memByte j := by cases rw <;> rfl
@[simp] theorem State.regWrite_csrGet : (s.regWrite k rw).csrGet a u = s.csrGet a u := by cases rw <;> rfl
theorem State.regWrite_only : s.regWrite k rw = { s with teams := (s.regWrite k rw).teams } := by cases rw <;> rfl

/-! ### Reading what was written -/

theorem State.team_setTeam : (s.setTeam k t).team j = if j = k then t else s.team j :=
  Store.get_set _ _ _ _ _

@[simp] theorem State.team_setTeam_same : (s.setTeam k t).team k = t := by simp [State.team_setTeam]

theorem State.crew_setCrew : (s.setCrew k c).crew j = if j = k then c else s.crew j :=
  Store.get_set _ _ _ _ _

theorem State.coreSt_setCore : (s.setCore k x).coreSt j = if j = k then x else s.coreSt j :=
  Store.get_set _ _ _ _ _

theorem State.grid_setGrid : (s.setGrid k g).grid j = if j = k then g else s.grid j :=
  Store.get_set _ _ _ _ _

theorem State.ctx_setCtx : (s.setCtx k y).ctx j = if j = k then y else s.ctx j :=
  Store.get_set _ _ _ _ _

theorem State.dom_setDom : (s.setDom k z).dom j = if j = k then z else s.dom j :=
  Store.get_set _ _ _ _ _

theorem State.csrGet_csrPut (a' u' : Nat) :
    (s.csrPut a u v).csrGet a' u' = if csrKey a' u' = csrKey a u then
      (if v = csrReset a then csrReset a' else v) else s.csrGet a' u' := by
  simp only [State.csrGet, State.csrPut, Store.get_set]
  split
  · split <;> simp
  · rfl

/-- A register read back is what was written. -/
@[simp] theorem State.csrGet_csrPut_same : (s.csrPut a u v).csrGet a u = v := by
  rw [State.csrGet_csrPut, if_pos rfl]; split <;> simp_all

theorem Team.path_setPath (b b' : Bool) : (t.setPath b p).path b' = if b' = b then p else t.path b' := by
  cases b <;> cases b' <;> rfl

/-- Two paths are the same path. -/
theorem PathRef.eq_iff (q r : PathRef) : q = r ↔ q.tok = r.tok ∧ q.path = r.path := by
  cases q; cases r; simp

theorem State.path_setPath (q : PathRef) : (s.setPath r p).path q = if q = r then p else s.path q := by
  simp only [State.path, State.setPath, State.modTeam, State.team_setTeam, PathRef.eq_iff]
  by_cases h : q.tok = r.tok
  · by_cases h2 : q.path = r.path
    · simp [h, h2, Team.path_setPath]
    · simp [h, h2, Team.path_setPath]
  · simp [h]

theorem State.path_modPath (q : PathRef) :
    (s.modPath r fp).path q = if q = r then fp (s.path r) else s.path q := State.path_setPath ..

@[simp] theorem State.path_modPath_same : (s.modPath r fp).path r = fp (s.path r) := by
  simp [State.path_modPath]

@[simp] theorem Team.setPath_sget (b : Bool) (q : SReg) : (t.setPath b p).sget q = t.sget q := by
  cases b <;> rfl
@[simp] theorem Team.setPath_pget (b : Bool) (q : PReg) : (t.setPath b p).pget q = t.pget q := by
  cases b <;> rfl
@[simp] theorem Team.setPath_vget (b : Bool) (q : VReg) (l : Nat) : (t.setPath b p).vget q l = t.vget q l := by
  cases b <;> rfl
@[simp] theorem Team.setPath_crew (b : Bool) : (t.setPath b p).crew = t.crew := by cases b <;> rfl
@[simp] theorem Team.setPath_width (b : Bool) : (t.setPath b p).width = t.width := by cases b <;> rfl
@[simp] theorem Team.sset_path (b : Bool) : (t.sset d v).path b = t.path b := by
  unfold Team.sset; split <;> rfl
@[simp] theorem Team.sset_crew : (t.sset d v).crew = t.crew := by unfold Team.sset; split <;> rfl
@[simp] theorem Team.sset_width : (t.sset d v).width = t.width := by unfold Team.sset; split <;> rfl
@[simp] theorem Team.sset_pget (q : PReg) : (t.sset d v).pget q = t.pget q := by
  unfold Team.sset; split <;> rfl
@[simp] theorem Team.sset_vget (q : VReg) (l : Nat) : (t.sset d v).vget q l = t.vget q l := by
  unfold Team.sset; split <;> rfl
@[simp] theorem Team.pset_sget (q : SReg) : (t.pset e m).sget q = t.sget q := rfl
@[simp] theorem Team.pset_vget (q : VReg) (l : Nat) : (t.pset e m).vget q l = t.vget q l := rfl
@[simp] theorem Team.pset_path (b : Bool) : (t.pset e m).path b = t.path b := rfl
@[simp] theorem Team.vset_sget (i : VReg) (l : Nat) (q : Word) (d : SReg) : (t.vset i l q).sget d = t.sget d := rfl
@[simp] theorem Team.vset_pget (i : VReg) (l : Nat) (q : Word) (e : PReg) : (t.vset i l q).pget e = t.pget e := rfl
@[simp] theorem Team.vset_path (i : VReg) (l : Nat) (q : Word) (b : Bool) : (t.vset i l q).path b = t.path b := rfl

/-- `s0` reads zero (R12). -/
@[simp] theorem Team.sget_zero : t.sget 0 = 0 := by simp [Team.sget]

/-- A uniform register after a write: `s0` discards it. -/
theorem Team.sget_sset (q : SReg) : (t.sset d v).sget q = if q = d ∧ d ≠ 0 then v else t.sget q := by
  by_cases hd : d = 0
  · simp only [Team.sset, if_pos hd]
    rw [if_neg fun h => h.2 hd]
  · by_cases hq : q = d
    · subst hq
      simp only [Team.sset, Team.sget, if_neg hd, Store.get_set_same]
      rw [if_pos ⟨trivial, hd⟩]
    · have hn : q.toNat ≠ d.toNat := fun h => hq (BitVec.eq_of_toNat_eq h)
      simp only [Team.sset, Team.sget, if_neg hd, Store.get_set_other _ _ _ hn]
      rw [if_neg (c := q = d ∧ d ≠ 0) fun h => hq h.1]

/-- A lane-mask register after a write: bits at and above the width are dropped. -/
theorem Team.pget_pset (q : PReg) : (t.pset e m).pget q = if q = e then m &&& t.allLanes else t.pget q := by
  by_cases hq : q = e
  · subst hq
    simp only [Team.pset, Team.pget, Store.get_set_same, Team.allLanes, if_true]
    rw [BitVec.and_assoc, BitVec.and_self]
  · have hn : q.toNat ≠ e.toNat := fun h => hq (BitVec.eq_of_toNat_eq h)
    simp [Team.pset, Team.pget, Team.allLanes, hq, Store.get_set, hn]

theorem vkey_inj {i i' l l' : Nat} (h : l < 1024) (h' : l' < 1024) : vkey i l = vkey i' l' ↔ i = i' ∧ l = l' := by
  unfold vkey; omega

/-- A vector register of one lane after a write. -/
theorem Team.vget_vset (i i' : VReg) (l l' : Nat) (q : Word) (h : l < 1024) (h' : l' < 1024) :
    (t.vset i l q).vget i' l' = if i' = i ∧ l' = l then q else t.vget i' l' := by
  have hk : (vkey i'.toNat l' = vkey i.toNat l) ↔ (i' = i ∧ l' = l) := by
    rw [vkey_inj h' h]
    constructor
    · rintro ⟨a, b⟩; exact ⟨BitVec.eq_of_toNat_eq a, b⟩
    · rintro ⟨rfl, rfl⟩; exact ⟨rfl, rfl⟩
  simp only [Team.vset, Team.vget, Store.get_set, hk]

theorem State.team_modTeam : (s.modTeam k ft).team j = if j = k then ft (s.team k) else s.team j :=
  State.team_setTeam ..

/-- The other teams after a write to a uniform register. -/
theorem State.team_sset : (s.sset r d v).team j = if j = r.tok then (s.team j).sset d v else s.team j := by
  simp only [State.sset, State.team_modTeam]; split <;> simp_all

@[simp] theorem State.path_sset (q : PathRef) : (s.sset r d v).path q = s.path q := by
  simp only [State.path, State.team_sset]; split <;> simp

theorem State.sget_sset (q : SReg) :
    (s.sset r d v).sget r q = if q = d ∧ d ≠ 0 then v else s.sget r q := by
  simp only [State.sget, State.team_sset, if_true, Team.sget_sset]

theorem State.team_modPath : (s.modPath r fp).team j =
    if j = r.tok then (s.team j).setPath r.path (fp (s.path r)) else s.team j := by
  simp only [State.modPath, State.setPath, State.team_modTeam]; split <;> simp_all

@[simp] theorem State.sget_modPath (q : PathRef) : (s.modPath r fp).sget q d = s.sget q d := by
  simp only [State.sget, State.team_modPath]; split <;> simp
@[simp] theorem State.pget_modPath (q : PathRef) : (s.modPath r fp).pget q e = s.pget q e := by
  simp only [State.pget, State.team_modPath]; split <;> simp
@[simp] theorem State.vget_modPath (q : PathRef) (i : VReg) : (s.modPath r fp).vget q i n = s.vget q i n := by
  simp only [State.vget, State.team_modPath]; split <;> simp

@[simp] theorem State.sget_advance (q : PathRef) : (s.advance r n).sget q d = s.sget q d := State.sget_modPath ..
@[simp] theorem State.pget_advance (q : PathRef) : (s.advance r n).pget q e = s.pget q e := State.pget_modPath ..
@[simp] theorem State.vget_advance (q : PathRef) (i : VReg) : (s.advance r n).vget q i j = s.vget q i j :=
  State.vget_modPath ..

/-- Advancing a path changes that path alone. -/
theorem State.path_advance (q : PathRef) :
    (s.advance r n).path q = if q = r then (s.path r).advance n else s.path q := State.path_modPath ..

/-! ### Memory -/

/-- A byte outside a write of consecutive bytes, of device memory or of host memory. -/
theorem State.memByte_putBytes_outside (h : j < k ∨ k + bs.length ≤ j) :
    (s.putBytes k bs).memByte j = s.memByte j := by
  unfold State.memByte State.putBytes
  by_cases hk : isHostKey k
  · simp only [hk, if_true]
    rw [Store.get_setList_outside _ _ _ (by simpa using h)]
  · simp only [hk, Bool.false_eq_true, if_false, hostByte]
    rw [Store.get_setList_outside _ _ _ h]

/-- A byte after a write of consecutive bytes, all of device memory or all of host memory. -/
theorem State.memByte_putBytes (hw : isHostKey j = true → isHostKey k = true) :
    (s.putBytes k bs).memByte j =
    if h : k ≤ j ∧ j < k + bs.length then bs[j - k]'(by omega) else s.memByte j := by
  split
  · rename_i h
    unfold State.memByte State.putBytes
    by_cases hk : isHostKey k
    · have hj : isHostKey j = true := by
        simp only [isHostKey, decide_eq_true_eq] at hk ⊢; omega
      simp only [hk, hj, if_true]
      rw [Store.get_setList, dif_pos (by simpa using h)]
      simp [CopyByte.written]
    · have hj : isHostKey j = false := by
        cases e : isHostKey j
        · rfl
        · exact absurd (hw e) hk
      simp only [hk, hj, Bool.false_and, Bool.false_eq_true, if_false]
      rw [Store.get_setList, dif_pos h]
  · exact State.memByte_putBytes_outside _ _ _ _ (by omega)

end Sys2Proof.Machine
end

