-- ==== Sys2Proof/Laws/Memory.lean ====
section
/-! SUPPORT. Every operation over memory keeps its canonical form, and the shared operations that write no
memory leave it alone: what an instruction does to memory is read from these, not from the operations. -/

namespace Sys2Proof.Machine

/-- The state's memory is in its canonical form. -/
abbrev State.memOk (s : State) : Prop := Memory.wf s.mem = true

theorem reset_memOk : State.reset.memOk := rfl

/-- A fold keeps what each of its steps keeps. -/
theorem foldl_keeps {α β : Type} (P : α → Prop) (f : α → β → α) (l : List β) (a : α)
    (h : ∀ a b, P a → P (f a b)) (ha : P a) : P (l.foldl f a) := by
  induction l generalizing a with
  | nil => exact ha
  | cons b l ih => exact ih _ (h a b ha)

/-- A fold leaves alone what each of its steps leaves alone. -/
theorem foldl_same {α β γ : Type} (g : α → γ) (f : α → β → α) (l : List β) (a : α)
    (h : ∀ a b, g (f a b) = g a) : g (l.foldl f a) = g a :=
  foldl_keeps (fun x => g x = g a) f l a (fun x b hx => (h x b).trans hx) rfl

variable {s : State}

/-! ### Operations that leave memory alone -/

section
variable (s : State) (r : PathRef) (k n u c : Nat)

@[simp] theorem State.poisonFlake_mem : (s.poisonFlake k).mem = s.mem := by
  unfold State.poisonFlake; dsimp only; split <;> rfl
@[simp] theorem State.poisonFor_mem (d v : Nat) : (s.poisonFor d v k).mem = s.mem := State.poisonFlake_mem ..
@[simp] theorem State.putVersion_mem (d v : Nat) (bs : List Byte) : (s.putVersion d v k bs).mem = s.mem := rfl
@[simp] theorem State.mend_mem : (s.mend k n).mem = s.mem := rfl
@[simp] theorem State.dropCopies_mem (f : Nat → Bool) : (s.dropCopies u f).mem = s.mem := rfl
@[simp] theorem State.fillFlake_mem (src : Nat → Byte × Bool) : (s.fillFlake u k src).mem = s.mem := by
  unfold State.fillFlake
  exact foldl_same State.mem _ _ _ fun s i => by split <;> rfl
@[simp] theorem State.fillLoad_mem (home bypass : Bool) : (s.fillLoad c home k bypass).mem = s.mem := by
  unfold State.fillLoad; dsimp only; split
  · split <;> simp
  · rfl
@[simp] theorem State.recall_mem : (s.recall k n).mem = s.mem := by unfold State.recall; split <;> rfl
@[simp] theorem State.recallBut_mem : (s.recallBut c k n).mem = s.mem := by unfold State.recallBut; split <;> rfl
@[simp] theorem State.noteFailed_mem (both : Bool) (va : Nat) : (s.noteFailed r both k va).mem = s.mem := by
  unfold State.noteFailed; split
  · rfl
  · dsimp only; split <;> simp
@[simp] theorem State.disown_mem (sc : Scope) : (s.disown r sc).mem = s.mem := by unfold State.disown; split <;> rfl
@[simp] theorem State.endWait_mem (d : SReg) : (s.endWait r d n).mem = s.mem := rfl
@[simp] theorem State.wfiSaved_mem (f : SavedCrew → Bool) (two : Bool) : (s.wfiSaved f two).mem = s.mem := rfl
@[simp] theorem State.wfiEvent_mem (two : Bool) : (s.wfiEvent r two).mem = s.mem := by
  unfold State.wfiEvent; dsimp only; split
  · rfl
  · split <;> rfl
  · rfl
@[simp] theorem State.wakePart_mem : (s.wakePart n).mem = s.mem := by
  unfold State.wakePart; dsimp only
  rw [foldl_same State.mem _ _ _ fun s r => by split <;> simp]; rfl
@[simp] theorem State.land_mem : (s.land k n).mem = s.mem := by
  unfold State.land
  refine foldl_same State.mem _ _ _ fun s r => ?_
  split
  · split
    · split <;> rfl
    · rfl
  · rfl
@[simp] theorem State.resume_mem : (s.resume r).mem = s.mem := rfl
@[simp] theorem State.pageAsk_mem (port : Bool) : (s.pageAsk r port c n).mem = s.mem := by
  unfold State.pageAsk; split <;> rfl
@[simp] theorem State.atsAsk_mem (port : Bool) : (s.atsAsk r port c n).mem = s.mem := by
  unfold State.atsAsk; split
  · simp
  · split <;> rfl
@[simp] theorem State.fillHost_mem : (s.fillHost k n).mem = s.mem := rfl
@[simp] theorem State.hostOut_mem (drop : Bool) : (s.hostOut k n drop).mem = s.mem := rfl
@[simp] theorem State.takeSlot_mem : (s.takeSlot r).mem = s.mem := rfl
@[simp] theorem State.setFlag_mem : (s.setFlag r n).mem = s.mem := rfl
@[simp] theorem State.clearFlag_mem : (s.clearFlag r n).mem = s.mem := rfl
@[simp] theorem State.startPend_mem (ws : List RegWrite) (p : Option PoisonNote) (held memory : Bool)
    (loads : Option LoadSet) (sc : Option Scope) : (s.startPend r n ws p held loads k memory sc).mem = s.mem := rfl
@[simp] theorem State.emptyPend_mem : (s.emptyPend r n).mem = s.mem := rfl
@[simp] theorem State.startLate_mem (ws : List RegWrite) (p : Option PoisonNote) (memory : Bool) :
    (s.startLate r ws p memory).mem = s.mem := rfl
@[simp] theorem State.clearFlagBoth_mem (b : Bool) : (s.clearFlagBoth r n b).mem = s.mem := by
  unfold State.clearFlagBoth; dsimp only; split <;> rfl
@[simp] theorem State.regWrites_mem (ws : List RegWrite) : (s.regWrites n ws).mem = s.mem := by
  unfold State.regWrites
  exact foldl_same State.mem _ _ _ fun s w => State.regWrite_mem ..
end

/-! ### Operations that write memory -/

section
variable (k n u c : Nat) (bs : List Byte) (h : s.memOk)
include h

theorem State.putByte_memOk (b : Byte) : (s.putByte k b).memOk := by
  unfold State.putByte State.memOk; dsimp only; split
  · exact h
  · exact Store.wf_set _ _ _ _ h
theorem State.putBytes_memOk : (s.putBytes k bs).memOk := by
  unfold State.putBytes State.memOk; dsimp only; split
  · exact h
  · exact Store.wf_setList _ _ _ _ h
theorem State.deliver_memOk (port : Bool) : (s.deliver port).memOk :=
  foldl_keeps (fun m => Memory.wf m = true) _ _ _ (fun _ _ hm => Store.wf_setList _ _ _ _ hm) h

theorem State.homeWrite_memOk : (s.homeWrite k bs).memOk := by
  unfold State.homeWrite State.memOk; split
  · exact h
  · simpa using State.putBytes_memOk k bs h

theorem State.writeFor_memOk (d v : Nat) : (s.writeFor d v k bs).memOk := by
  unfold State.writeFor; split
  · exact State.homeWrite_memOk k bs h
  · simpa [State.memOk] using h

omit h in
theorem makeRoom_memOk {put : State → Nat → List Byte → State}
    (hp : ∀ (s : State) (k : Nat) (bs : List Byte), s.memOk → (put s k bs).memOk) (at' : Nat → Nat)
    (later : State → Nat → Bool) (j : Nat) :
    ∀ (i : Nat) (s : State), s.memOk → (makeRoom put at' n later j i s).1.memOk := by
  induction j with
  | zero => exact fun _ _ hs => hs
  | succ j ih =>
    intro i s hs
    unfold makeRoom; dsimp only; split
    · exact ih _ _ (hp _ _ _ hs)
    · exact hs

theorem State.logEvent_memOk (cls : Nat) (ctx : Option Nat) : (s.logEvent u n cls ctx bs).memOk := by
  unfold State.logEvent State.memOk; dsimp only; split
  · exact h
  · split
    · exact h
    · simpa using State.putBytes_memOk _ _ (makeRoom_memOk 32 (fun _ _ _ => State.putBytes_memOk _ _) _ _ _ _ s h)

theorem State.logRefused_memOk (ctx : Option Nat) : (s.logRefused u ctx k n).memOk := State.logEvent_memOk _ _ _ h _ _
theorem State.logError_memOk (ctx : Option Nat) (b : Bool) : (s.logError u ctx k b).memOk :=
  State.logEvent_memOk _ _ _ h _ _

theorem State.failCopy_memOk : (s.failCopy u k).memOk := by
  unfold State.failCopy
  refine foldl_keeps State.memOk _ _ _ (fun s o hs => ?_) (State.logError_memOk _ _ ?_ _ _)
  · simpa [State.memOk] using hs
  · simpa [State.memOk] using h

theorem State.writeBack_memOk (f : Nat → Bool) : (s.writeBack u f).memOk := by
  unfold State.writeBack
  split
  · simpa [State.memOk] using h
  refine foldl_keeps State.memOk _ _ _ (fun s o hs => by simpa [State.memOk] using hs) ?_
  refine foldl_keeps State.memOk _ _ _ (fun s o hs => ?_) h
  dsimp only
  split
  · split
    · exact State.failCopy_memOk _ _ hs
    · exact State.homeWrite_memOk _ _ (by simpa [State.memOk] using hs)
  · exact hs

theorem State.fqWrite_memOk : (s.fqWrite c bs).memOk := by
  unfold State.fqWrite; dsimp only
  simpa [State.memOk] using State.homeWrite_memOk _ _ (State.homeWrite_memOk _ _ (makeRoom_memOk 128 (fun _ _ _ => State.homeWrite_memOk _ _) _ _ _ _ s h))

theorem State.fqAdd_memOk : (s.fqAdd c n bs).memOk := by
  unfold State.fqAdd; dsimp only; split
  · exact State.fqWrite_memOk _ _ h
  · split
    · exact h
    · exact State.logEvent_memOk _ _ _ (by simpa [State.memOk, State.modCtx] using h) _ _

theorem State.l1ToRdc_memOk (f : Nat → Bool) : (s.l1ToRdc u f).memOk := by
  unfold State.l1ToRdc
  refine foldl_keeps State.memOk _ _ _ (fun s x hs => ?_) h
  split
  · split
    · exact State.failCopy_memOk _ _ hs
    · simpa [State.memOk] using hs
  · exact hs

theorem State.flushHome_memOk (f : Nat → Bool) : (s.flushHome u f).memOk :=
  State.writeBack_memOk _ (State.l1ToRdc_memOk u h f) f

theorem State.purge_memOk (f : Nat → Bool) : (s.purge u f).memOk := by
  simpa [State.purge, State.memOk] using State.flushHome_memOk u h f

theorem State.releaseCore_memOk (sc : Scope) : (s.releaseCore u sc).memOk := by
  unfold State.releaseCore; split
  · exact State.flushHome_memOk u h _
  · split
    · exact State.l1ToRdc_memOk u h _
    · exact h

theorem State.acquireCore_memOk (sc : Scope) : (s.acquireCore u sc).memOk := by
  unfold State.acquireCore; split
  · exact State.purge_memOk u h _
  · split
    · simpa [State.memOk] using State.l1ToRdc_memOk u h fun _ => true
    · exact h

variable (r : PathRef)

/-- Taking a stop keeps the canonical form: its record is written whole. -/
theorem State.takeStop_memOk (i : StopInfo) : (s.takeStop r i).memOk := by
  unfold State.takeStop; split
  · simpa [State.memOk] using h
  · dsimp only
    exact State.fqAdd_memOk _ _ _ (by simpa [State.memOk, State.modCtx] using h)

theorem State.legalIf_memOk (ok : Bool) (t : State) (ht : t.memOk) : (s.legalIf r ok t).memOk := by
  unfold State.legalIf; split
  · exact ht
  · exact State.takeStop_memOk h r _

theorem State.privileged_memOk (t : State) (ht : t.memOk) : (s.privileged r t).memOk := by
  unfold State.privileged; split
  · exact ht
  · exact State.takeStop_memOk h r _

theorem State.xerr_memOk (e : XErr) (va : DWord) : (s.xerr r e va n c).memOk := by
  unfold State.xerr; split
  · exact State.takeStop_memOk (by simpa [State.memOk] using h) _ _
  · simpa [State.memOk] using h

theorem State.releaseAct_memOk (sc : Scope) : (s.releaseAct r sc).memOk := by
  simpa [State.releaseAct, State.memOk] using State.releaseCore_memOk (s.coreOf r) h sc

theorem State.acquireAct_memOk (sc : Scope) : (s.acquireAct r sc).memOk := State.acquireCore_memOk _ h sc

theorem State.withSlot_memOk (f : Nat → State) (hf : ∀ i, (f i).memOk) : (s.withSlot r f).memOk := by
  unfold State.withSlot; split
  · exact State.takeStop_memOk h r _
  · simpa [State.memOk] using h
  · exact hf _

theorem State.withOwnSlot_memOk (f : Nat → State) (hf : ∀ i, (f i).memOk) : (s.withOwnSlot r f).memOk := by
  unfold State.withOwnSlot; split
  · split
    · exact State.withSlot_memOk h r f hf
    · exact hf _
  · exact State.withSlot_memOk h r f hf

theorem State.releaseCheck_memOk (sc : Scope) : (s.releaseCheck r sc).memOk := by
  unfold State.releaseCheck; split
  · exact h
  · refine foldl_keeps State.memOk _ _ _ (fun s o hs => ?_) h
    split
    · exact State.failCopy_memOk _ _ hs
    · exact hs

/-- A release keeps the canonical form, when what goes on from it does. -/
theorem State.release_memOk (sc : Scope) (f : State → State) (hf : ∀ t : State, t.memOk → (f t).memOk) :
    (s.release r sc f).memOk := by
  have hc := State.releaseCheck_memOk h r sc
  unfold State.release; dsimp only; split
  · simpa [State.memOk] using hc
  · refine State.takeStop_memOk ?_ _ _
    split
    · simpa [State.memOk] using hc
    · exact hc
  · refine hf _ ?_
    have := State.releaseAct_memOk hc r sc
    simpa [State.memOk] using this

theorem State.afterAll_memOk (sc : Scope) (f : State → State) (hf : ∀ t : State, t.memOk → (f t).memOk) :
    (s.afterAll r sc f).memOk := by
  unfold State.afterAll; split
  · simpa [State.memOk] using h
  · exact hf _ (State.releaseAct_memOk h r sc)

theorem State.releaseIf_memOk (b : Bool) (sc : Scope) (f : State → State)
    (hf : ∀ t : State, t.memOk → (f t).memOk) : (s.releaseIf r b sc f).memOk := by
  unfold State.releaseIf; split
  · exact State.release_memOk h r sc f hf
  · exact hf _ h

theorem State.acquireIf_memOk (b : Bool) (sc : Scope) : (s.acquireIf r b sc).memOk := by
  unfold State.acquireIf; split
  · exact State.acquireAct_memOk h r sc
  · exact h
end

/-- An instruction of a path keeps the canonical form when what it does to a live path does. -/
theorem issued_memOk {k : PathRef → State} {t : State} (h : ∀ r, (k r).memOk) (e : issued s k = .next t) :
    t.memOk := by
  unfold issued at e
  split at e
  · cases e
  · split at e
    · cases e; exact h _
    · cases e

end Sys2Proof.Machine
end

