-- ==== Sys2Proof/Laws/Ops.lean ====
section
/-! SUPPORT. Each shared operation's law: when an instruction of a path runs, what a decode condition, a
slot and a privilege check let through, and what register writes leave. -/

namespace Sys2Proof.Machine

variable {s t : State} {r : PathRef}

/-! ### The issuing path -/

/-- An instruction of a live issuing path runs. -/
theorem issued_next (h : Issuing s r) (k : PathRef → State) : issued s k = .next (k r) := by
  simp [issued, h.cur, h.live]

/-- What an instruction that answered came from. -/
theorem issued_cases {k : PathRef → State} (e : issued s k = .next t) : ∃ r, Issuing s r ∧ t = k r := by
  unfold issued at e
  split at e
  · cases e
  · split at e
    · rename_i r hc hl
      cases e
      exact ⟨r, ⟨hc, hl⟩, rfl⟩
    · cases e

@[simp] theorem State.legalIf_true (k : State) : s.legalIf r true k = k := rfl
@[simp] theorem State.legalIf_false (k : State) : s.legalIf r false k = s.takeStop r { cause := 1 } := by
  simp [State.legalIf, State.illegal]

theorem State.privileged_kernel (k : State) (h : s.kernel r = true) : s.privileged r k = k := by
  simp [State.privileged, h]
theorem State.privileged_user (k : State) (h : s.kernel r = false) :
    s.privileged r k = s.takeStop r { cause := 3 } := by simp [State.privileged, h]

theorem State.withSlot_ok {f : Nat} (h : (s.path r).slot = .ok f) (k : Nat → State) : s.withSlot r k = k f := by
  simp [State.withSlot, h]

theorem State.releaseIf_false (sc : Scope) (k : State → State) : s.releaseIf r false sc k = k s := rfl
theorem State.acquireIf_false (sc : Scope) : s.acquireIf r false sc = s := rfl

theorem State.release_go {sc : Scope} (h : (s.releaseCheck r sc).releaseGate r sc = .go) (k : State → State) :
    s.release r sc k =
      k (((s.releaseCheck r sc).releaseAct r sc).modPath r fun p => { p with failed := [] }) := by
  simp [State.release, h]

/-! ### Lists of register writes -/

/-- A register write on its team. -/
def Team.write (t : Team) : RegWrite → Team
  | .v reg lane x => t.vset (BitVec.ofNat 8 reg) lane x
  | .s reg x => t.sset reg x

theorem State.team_regWrite (k j : Nat) (w : RegWrite) :
    (s.regWrite k w).team j = if j = k then (s.team k).write w else s.team j := by
  cases w <;> simp only [State.regWrite, State.team_modTeam, Team.write]

/-- Register writes change their team alone, by the writes in order. -/
theorem State.team_regWrites (k j : Nat) (ws : List RegWrite) :
    (s.regWrites k ws).team j = if j = k then ws.foldl Team.write (s.team k) else s.team j := by
  unfold State.regWrites
  induction ws generalizing s with
  | nil => by_cases h : j = k <;> simp [h]
  | cons w ws ih =>
    simp only [List.foldl_cons, ih, State.team_regWrite]
    split <;> simp_all

theorem State.regWrites_only (k : Nat) (ws : List RegWrite) :
    s.regWrites k ws = { s with teams := (s.regWrites k ws).teams } := by
  unfold State.regWrites
  induction ws generalizing s with
  | nil => rfl
  | cons w ws ih =>
    simp only [List.foldl_cons]
    rw [ih]
    rw [State.regWrite_only]

/-- What a list of register writes leaves alone in its team. -/
theorem Team.write_fixed (t : Team) (w : RegWrite) :
    ((t.write w).path0 = t.path0 ∧ (t.write w).path1 = t.path1 ∧ (t.write w).p = t.p ∧
      (t.write w).width = t.width) ∧ t.write w = { t with
        s := (t.write w).s, v := (t.write w).v, vErr := (t.write w).vErr, sErr := (t.write w).sErr } := by
  cases w with
  | v reg lane x => exact ⟨⟨rfl, rfl, rfl, rfl⟩, rfl⟩
  | s reg x =>
    simp only [Team.write, Team.sset]
    split <;> exact ⟨⟨rfl, rfl, rfl, rfl⟩, rfl⟩

/-- Register writes change registers alone. -/
theorem Team.writes_only (t : Team) (ws : List RegWrite) : ws.foldl Team.write t = { t with
    s := (ws.foldl Team.write t).s, v := (ws.foldl Team.write t).v, vErr := (ws.foldl Team.write t).vErr,
    sErr := (ws.foldl Team.write t).sErr } := by
  induction ws generalizing t with
  | nil => rfl
  | cons w ws ih =>
    simp only [List.foldl_cons]
    rw [ih]
    rw [(Team.write_fixed t w).2]

/-- A write of one vector register leaves uniform registers alone, and the other way round. -/
theorem Team.sget_write_v (t : Team) (reg lane : Nat) (x : Word) (q : SReg) :
    (t.write (.v reg lane x)).sget q = t.sget q := rfl
theorem Team.vget_write_s (t : Team) (reg : SReg) (x : DWord) (q : VReg) (l : Nat) :
    (t.write (.s reg x)).vget q l = t.vget q l := Team.sset_vget ..

/-- The lanes of a mask are below 1,024. -/
theorem lanesOf_lt {t : Team} {m : Mask} {l : Nat} (h : l ∈ lanesOf t m) : l < 1024 := by
  simp only [lanesOf, List.mem_filter] at h
  by_contra hl
  simp [BitVec.getLsbD_of_ge m l (by omega)] at h

theorem mem_lanesOf {t : Team} {m : Mask} {l : Nat} : l ∈ lanesOf t m ↔ l < t.width ∧ m.getLsbD l = true := by
  simp [lanesOf, List.mem_filter]

/-- One vector register written in each of some lanes. -/
theorem Team.vget_writes (t : Team) (d : VReg) (f : Nat → Word) (ls : List Nat) (q : VReg) (l : Nat)
    (hs : ∀ x ∈ ls, x < 1024) (hl : l < 1024) :
    ((ls.map fun x => RegWrite.v d.toNat x (f x)).foldl Team.write t).vget q l =
      if q = d ∧ l ∈ ls then f l else t.vget q l := by
  induction ls generalizing t with
  | nil => simp
  | cons a ls ih =>
    simp only [List.map_cons, List.foldl_cons]
    rw [ih _ fun x hx => hs x (List.mem_cons_of_mem _ hx)]
    have ha : a < 1024 := hs a (List.mem_cons_self ..)
    have hw : (t.write (.v d.toNat a (f a))).vget q l = if q = d ∧ l = a then f a else t.vget q l := by
      simp only [Team.write, BitVec.ofNat_toNat, BitVec.setWidth_eq]
      exact Team.vget_vset t d q a l (f a) ha hl
    rw [hw]
    by_cases hq : q = d
    · by_cases hm : l ∈ ls
      · simp [hq, hm]
      · by_cases hla : l = a
        · simp [hq, hla]
        · simp [hq, hm, hla]
    · simp [hq]

end Sys2Proof.Machine
end

