-- ==== Sys2Proof/Laws/Lanes.lean ====
section
/-! SUPPORT. Going through the lanes of a memory instruction: when every lane is performed and changes no
state, and when there is one lane. -/

namespace Sys2Proof.Machine

variable {s : State} {r : PathRef}

theorem laneBit_getLsbD {l m : Nat} (hm : m < 1024) : (laneBit l).getLsbD m = decide (m = l) := by
  have : (laneBit l).getLsbD m = Nat.testBit (2 ^ l) m := by
    rw [laneBit, BitVec.getLsbD_ofNat, decide_eq_true hm, Bool.true_and]
  rw [this, Nat.testBit_two_pow]
  simp [eq_comm]

/-- The lanes of a memory instruction are distinct and below 1,024. -/
theorem memLanes_nodup : (s.memLanes r).Nodup := by
  unfold State.memLanes; dsimp only
  split
  · simp
  · exact List.Nodup.filter _ List.nodup_range

theorem memLanes_lt {l : Nat} (h : l ∈ s.memLanes r) : l < 1024 := by
  unfold State.memLanes at h; dsimp only at h
  split at h
  · simp only [List.mem_singleton] at h; omega
  · exact lanesOf_lt h

/-- Stores with the pass of their lane (R17). -/
def inPass (l : Nat) (o : List Out) : List Out := o.map fun y => { y with pass := l / 32 }

@[simp] theorem inPass_nil (l : Nat) : inPass l [] = [] := rfl

/-- One lane that is performed. -/
theorem Sweep.lane_ok {n : Nat} {ea : Nat → DWord} {f : State → Nat → DWord → LaneRes} {x : Sweep} {l : Nat}
    {t : State} {ws : List RegWrite} {o : List Out} (hd : x.done.getLsbD l = false)
    (hl : (x.s.path r).live = true) (hw : x.wait = none) (hs : x.shut = [])
    (hf : f x.s l (ea l) = .ok t ws o none) :
    Sweep.lane r n ea f x l =
      { x with s := t, ws := x.ws ++ ws, out := x.out ++ inPass l o, done := x.done ||| laneBit l } := by
  simp [Sweep.lane, hd, hl, hw, hs, hf, inPass]

/-- One load of a lane that binds later. -/
theorem Sweep.lane_load {n : Nat} {ea : Nat → DWord} {f : State → Nat → DWord → LaneRes} {x : Sweep} {l k : Nat}
    {t : State} {va : DWord} {home : Bool} (hd : x.done.getLsbD l = false)
    (hl : (x.s.path r).live = true) (hw : x.wait = none) (hs : x.shut = [])
    (hf : f x.s l (ea l) = .load t va k home) :
    Sweep.lane r n ea f x l =
      { x with s := t, loads := x.loads ++ [(l, va, k, home)], done := x.done ||| laneBit l } := by
  simp [Sweep.lane, hd, hl, hw, hs, hf]

/-- A sweep whose lanes are all performed and change no state: the register writes and the stores, lane after
lane. -/
theorem sweep_clean {n : Nat} {ea : Nat → DWord} {f : State → Nat → DWord → LaneRes}
    {w : Nat → List RegWrite} {o : Nat → List Out} (hl : (s.path r).live = true) (hd : (s.path r).done = 0)
    (hf : ∀ l ∈ s.memLanes r, f s l (ea l) = .ok s (w l) (o l) none) :
    ∃ dn, s.sweep r n ea f =
      { s := s, ws := (s.memLanes r).flatMap w, out := (s.memLanes r).flatMap fun l => inPass l (o l), done := dn } := by
  suffices H : ∀ (ls : List Nat) (x : Sweep), ls.Nodup → (∀ l ∈ ls, l < 1024) →
      (∀ l ∈ ls, f s l (ea l) = .ok s (w l) (o l) none) → (∀ l ∈ ls, x.done.getLsbD l = false) →
      x.s = s → x.wait = none → x.shut = [] →
      ∃ dn, ls.foldl (Sweep.lane r n ea f) x =
        { x with ws := x.ws ++ ls.flatMap w, out := x.out ++ ls.flatMap fun l => inPass l (o l), done := dn } by
    obtain ⟨dn, h⟩ := H (s.memLanes r) { s := s, done := (s.path r).done } memLanes_nodup
      (fun l h => memLanes_lt h) hf (fun l _ => by simp [hd]) rfl rfl rfl
    exact ⟨dn, by simpa [State.sweep] using h⟩
  intro ls
  induction ls with
  | nil => intro x _ _ _ _ _ _ _; exact ⟨x.done, by simp⟩
  | cons a ls ih =>
    intro x hn h1 hok hdn hxs hw hs
    rw [List.nodup_cons] at hn
    have step := Sweep.lane_ok (r := r) (n := n) (hdn a (List.mem_cons_self ..)) (by rw [hxs]; exact hl) hw hs
      (by rw [hxs]; exact hok a (List.mem_cons_self ..))
    simp only [List.foldl_cons, step]
    obtain ⟨dn, h⟩ := ih { x with s := s, ws := x.ws ++ w a, out := x.out ++ inPass a (o a), done := x.done ||| laneBit a }
      hn.2 (fun l hl => h1 l (List.mem_cons_of_mem _ hl)) (fun l hl => hok l (List.mem_cons_of_mem _ hl))
      (fun l hm => by
        have hne : l ≠ a := fun e => hn.1 (e ▸ hm)
        rw [BitVec.getLsbD_or, hdn l (List.mem_cons_of_mem _ hm), laneBit_getLsbD (h1 l (List.mem_cons_of_mem _ hm))]
        simp [hne])
      rfl hw hs
    exact ⟨dn, by rw [h, ← hxs]; simp [List.append_assoc]⟩

/-- A sweep of one lane that is performed. -/
theorem sweep_one {n l : Nat} {ea : Nat → DWord} {f : State → Nat → DWord → LaneRes} {t : State}
    {ws : List RegWrite} {o : List Out} (hl : (s.path r).live = true) (hd : (s.path r).done = 0)
    (h1 : s.memLanes r = [l]) (hf : f s l (ea l) = .ok t ws o none) :
    s.sweep r n ea f = { s := t, ws := ws, out := inPass l o, done := laneBit l } := by
  simp only [State.sweep, h1, List.foldl_cons, List.foldl_nil]
  rw [Sweep.lane_ok (by simp [hd]) hl rfl rfl hf]
  simp [hd]

/-- One lane is one pass (R17). -/
theorem passesOf_one {l : Nat} (h : l < 1024) : passesOf [l] = [[l]] := by
  have e : (List.range 32).map (fun p => [l].filter fun l => l / 32 == p) =
      (List.range 32).map fun p => if p = l / 32 then [l] else [] := by
    refine List.map_congr_left fun p _ => ?_
    by_cases hp : p = l / 32
    · simp [hp]
    · simp [hp, Ne.symm hp]
  have hl : l / 32 < 32 := by omega
  unfold passesOf
  rw [e]
  generalize l / 32 = q at hl
  interval_cases q <;> rfl

/-- Lanes of no pass. -/
@[simp] theorem passesOf_nil : passesOf [] = [] := rfl

/-- A sweep of one lane of a global access, where its miss entries are free (R75). -/
theorem sweepMem_one {n l : Nat} {ea : Nat → DWord} {f : State → Nat → DWord → LaneRes}
    (h1 : s.memLanes r = [l]) (hd : (s.path r).done = 0)
    (hm : (flakesOf n (ea l)).eraseDups.length ≤ missEntries - s.missesUsed (s.coreOf r)) :
    s.sweepMem r n ea f =
      Sweep.lane r n ea f { s := s, done := 0, misses := (flakesOf n (ea l)).eraseDups.length } l := by
  have hlt : l < 1024 := memLanes_lt (s := s) (r := r) (by rw [h1]; exact List.mem_singleton_self l)
  simp [State.sweepMem, h1, passesOf_one hlt, Sweep.pass, hd, hm]

/-- The end of a sweep in which every lane was performed. -/
theorem Sweep.finish_clean {x : Sweep} {detail lvl : Nat} {bypass : Bool}
    {k : State → Mask → List RegWrite → Option (Nat × DWord) → State} (hl : (x.s.path r).live = true)
    {trip : Trip} (he : x.err = none) (hw : x.wait = none) :
    x.finish r detail lvl bypass k trip = k (x.s.storeAll r lvl bypass x.out trip) x.done x.ws x.bad := by
  simp [Sweep.finish, hl, he, hw]

@[simp] theorem storeAll_nil (lvl : Nat) (b : Bool) (trip : Trip) : s.storeAll r lvl b [] trip = s := by
  unfold State.storeAll; split <;> rfl

end Sys2Proof.Machine
end

