-- ==== Sys2Proof/Laws/PerInstr.lean ====
section
/-! SUPPORT. A statement made for every instruction: the shape of its encoding. -/

namespace Sys2Proof.Laws

/-- An event has no words and is not well-formed; the words of any other instruction are as many as its leading
opcode says (R130), and the leading word of a well-formed one is no clause header (R120). -/
def Encoded.Statement (i : Instr) : Prop :=
  (encode i = [] ∧ i.wf = false) ∨
    ∃ w rest, encode i = w :: rest ∧ (i.wf = true → isHeader w = false ∧ wordsOf w = rest.length + 1)

theorem opOf_append (op : Byte) (x : BitVec 24) : opOf ((op ++ x : BitVec (8 + 24)) : Word) = op := by
  apply BitVec.eq_of_getLsbD_eq
  intro i hi
  have h := BitVec.getLsbD_append (x := op) (y := x) (i := 24 + i)
  rw [if_neg (by omega), show 24 + i - 24 = i by omega] at h
  simp only [opOf, BitVec.getLsbD_extractLsb', hi, decide_true, Bool.true_and]
  exact h

theorem opOf_mkWord (op d a b : Byte) : opOf (mkWord op d a b) = op := by
  apply BitVec.eq_of_getLsbD_eq
  intro i hi
  have h1 := BitVec.getLsbD_append (x := op ++ d ++ a) (y := b) (i := 24 + i)
  have h2 := BitVec.getLsbD_append (x := op ++ d) (y := a) (i := 16 + i)
  have h3 := BitVec.getLsbD_append (x := op) (y := d) (i := 8 + i)
  rw [if_neg (by omega), show 24 + i - 8 = 16 + i by omega, h2, if_neg (by omega), show 16 + i - 8 = 8 + i by omega, h3,
    if_neg (by omega), show 8 + i - 8 = i by omega] at h1
  simp only [opOf, mkWord, BitVec.getLsbD_extractLsb', hi, decide_true, Bool.true_and]
  exact h1

theorem isHeader_eq (w : Word) : isHeader w = ((opOf w).extractLsb' 4 4 == 0xF) := by
  have h : w.extractLsb' 28 4 = (opOf w).extractLsb' 4 4 := by
    apply BitVec.eq_of_getLsbD_eq
    intro i hi
    simp [opOf, hi, show 4 + i < 8 by omega, show 24 + (4 + i) = 28 + i by omega]
  rw [isHeader, h]

theorem Encoded.ofWord {i : Instr} {w : Word} {rest : List Word} (v : Word) (h : encode i = w :: rest) (e : opOf w = opOf v)
    (hv : isHeader v = false ∧ wordsOf v = rest.length + 1) : Encoded.Statement i :=
  .inr ⟨w, rest, h, fun _ => by rw [isHeader_eq, wordsOf, e]; rwa [isHeader_eq, wordsOf] at hv⟩

theorem Encoded.ofA {i : Instr} {op d a b : Byte} (h : encode i = encA op d a b)
    (hv : isHeader (mkWord op 0 0 0) = false ∧ wordsOf (mkWord op 0 0 0) = 1) : Encoded.Statement i :=
  Encoded.ofWord _ h (by rw [opOf_mkWord, opOf_mkWord]) hv

theorem Encoded.ofL {i : Instr} {op d a b : Byte} {lit : Word} (h : encode i = encL op d a b lit)
    (hv : isHeader (mkWord op 0 0 0) = false ∧ wordsOf (mkWord op 0 0 0) = 2) : Encoded.Statement i :=
  Encoded.ofWord _ h (by rw [opOf_mkWord, opOf_mkWord]) hv

theorem Encoded.ofEvent {i : Instr} (h : encode i = []) (hw : i.wf = false) : Encoded.Statement i := .inl ⟨h, hw⟩

theorem Encoded.nop : Encoded.Statement .nop := by
  exact Encoded.ofA rfl (by decide)
theorem Encoded.bra : ∀ x0, Encoded.Statement (.bra x0) := fun x =>
  Encoded.ofWord (mkWord 0x01 0 0 0) rfl (by rw [opOf_mkWord]; exact opOf_append 0x01 x) (by decide)
theorem Encoded.bsz : ∀ x0 x1, Encoded.Statement (.bsz x0 x1) := by
  intros; exact Encoded.ofL rfl (by decide)
theorem Encoded.bsnz : ∀ x0 x1, Encoded.Statement (.bsnz x0 x1) := by
  intros; exact Encoded.ofL rfl (by decide)
theorem Encoded.brp : ∀ x0 x1 x2 x3, Encoded.Statement (.brp x0 x1 x2 x3) := by
  intros; exact Encoded.ofL rfl (by decide)
theorem Encoded.bany : ∀ x0 x1, Encoded.Statement (.bany x0 x1) := by
  intros; exact Encoded.ofL rfl (by decide)
theorem Encoded.ball : ∀ x0 x1, Encoded.Statement (.ball x0 x1) := by
  intros; exact Encoded.ofL rfl (by decide)
theorem Encoded.join : Encoded.Statement .join := by
  exact Encoded.ofA rfl (by decide)
theorem Encoded.jmpiVector : ∀ x0 x1 x2, Encoded.Statement (.jmpiVector x0 x1 x2) := by
  intros; exact Encoded.ofL rfl (by decide)
theorem Encoded.jmpiUniform : ∀ x0, Encoded.Statement (.jmpiUniform x0) := by
  intros; exact Encoded.ofL rfl (by decide)
theorem Encoded.call : ∀ x0 x1, Encoded.Statement (.call x0 x1) := by
  intros; exact Encoded.ofL rfl (by decide)
theorem Encoded.calli : ∀ x0 x1, Encoded.Statement (.calli x0 x1) := by
  intros; exact Encoded.ofA rfl (by decide)
theorem Encoded.ret : ∀ x0, Encoded.Statement (.ret x0) := by
  intros; exact Encoded.ofA rfl (by decide)
theorem Encoded.exit : Encoded.Statement .exit := by
  exact Encoded.ofA rfl (by decide)
theorem Encoded.macroWord : ∀ x0 x1 x2, Encoded.Statement (.macroWord x0 x1 x2) := by
  intros; exact Encoded.ofA rfl (by decide)
theorem Encoded.yield : Encoded.Statement .yield := by
  exact Encoded.ofA rfl (by decide)
theorem Encoded.trap : ∀ x0, Encoded.Statement (.trap x0) := by
  intros; exact Encoded.ofA rfl (by decide)
theorem Encoded.sadd : ∀ x0 x1 x2 x3 x4, Encoded.Statement (.sadd x0 x1 x2 x3 x4) := by
  intros; exact Encoded.ofA rfl (by decide)
theorem Encoded.ssub : ∀ x0 x1 x2 x3 x4, Encoded.Statement (.ssub x0 x1 x2 x3 x4) := by
  intros; exact Encoded.ofA rfl (by decide)
theorem Encoded.smul : ∀ x0 x1 x2 x3 x4, Encoded.Statement (.smul x0 x1 x2 x3 x4) := by
  intros; exact Encoded.ofA rfl (by decide)
theorem Encoded.smulh : ∀ x0 x1 x2 x3 x4, Encoded.Statement (.smulh x0 x1 x2 x3 x4) := by
  intros; exact Encoded.ofA rfl (by decide)
theorem Encoded.sdiv : ∀ x0 x1 x2 x3 x4, Encoded.Statement (.sdiv x0 x1 x2 x3 x4) := by
  intros; exact Encoded.ofA rfl (by decide)
theorem Encoded.srem : ∀ x0 x1 x2 x3 x4, Encoded.Statement (.srem x0 x1 x2 x3 x4) := by
  intros; exact Encoded.ofA rfl (by decide)
theorem Encoded.sand : ∀ x0 x1 x2 x3 x4, Encoded.Statement (.sand x0 x1 x2 x3 x4) := by
  intros; exact Encoded.ofA rfl (by decide)
theorem Encoded.sor : ∀ x0 x1 x2 x3 x4, Encoded.Statement (.sor x0 x1 x2 x3 x4) := by
  intros; exact Encoded.ofA rfl (by decide)
theorem Encoded.sxor : ∀ x0 x1 x2 x3 x4, Encoded.Statement (.sxor x0 x1 x2 x3 x4) := by
  intros; exact Encoded.ofA rfl (by decide)
theorem Encoded.sshl : ∀ x0 x1 x2 x3 x4, Encoded.Statement (.sshl x0 x1 x2 x3 x4) := by
  intros; exact Encoded.ofA rfl (by decide)
theorem Encoded.sshr : ∀ x0 x1 x2 x3 x4, Encoded.Statement (.sshr x0 x1 x2 x3 x4) := by
  intros; exact Encoded.ofA rfl (by decide)
theorem Encoded.ssra : ∀ x0 x1 x2 x3 x4, Encoded.Statement (.ssra x0 x1 x2 x3 x4) := by
  intros; exact Encoded.ofA rfl (by decide)
theorem Encoded.smin : ∀ x0 x1 x2 x3 x4, Encoded.Statement (.smin x0 x1 x2 x3 x4) := by
  intros; exact Encoded.ofA rfl (by decide)
theorem Encoded.smax : ∀ x0 x1 x2 x3 x4, Encoded.Statement (.smax x0 x1 x2 x3 x4) := by
  intros; exact Encoded.ofA rfl (by decide)
theorem Encoded.scmp : ∀ x0 x1 x2 x3 x4, Encoded.Statement (.scmp x0 x1 x2 x3 x4) := by
  intros; exact Encoded.ofA rfl (by decide)
theorem Encoded.ssel : ∀ x0 x1 x2 x3 x4, Encoded.Statement (.ssel x0 x1 x2 x3 x4) := by
  intros; exact Encoded.ofL rfl (by decide)
theorem Encoded.smov : ∀ x0 x1, Encoded.Statement (.smov x0 x1) := by
  intros; exact Encoded.ofA rfl (by decide)
theorem Encoded.sli : ∀ x0 x1 x2, Encoded.Statement (.sli x0 x1 x2) := by
  intros; exact Encoded.ofL rfl (by decide)
theorem Encoded.slea : ∀ x0 x1 x2 x3, Encoded.Statement (.slea x0 x1 x2 x3) := by
  intros; exact Encoded.ofA rfl (by decide)
theorem Encoded.sbfe : ∀ x0 x1 x2 x3 x4, Encoded.Statement (.sbfe x0 x1 x2 x3 x4) := by
  intros; exact Encoded.ofL rfl (by decide)
theorem Encoded.sbfi : ∀ x0 x1 x2 x3, Encoded.Statement (.sbfi x0 x1 x2 x3) := by
  intros; exact Encoded.ofL rfl (by decide)
theorem Encoded.sbit : ∀ x0 x1 x2 x3, Encoded.Statement (.sbit x0 x1 x2 x3) := by
  intros; exact Encoded.ofA rfl (by decide)
theorem Encoded.sr : ∀ x0 x1, Encoded.Statement (.sr x0 x1) := by
  intros; exact Encoded.ofA rfl (by decide)
theorem Encoded.sw : ∀ x0 x1, Encoded.Statement (.sw x0 x1) := by
  intros; exact Encoded.ofA rfl (by decide)
theorem Encoded.add : ∀ x0 x1 x2, Encoded.Statement (.add x0 x1 x2) := by
  intros; exact Encoded.ofA rfl (by decide)
theorem Encoded.sub : ∀ x0 x1 x2, Encoded.Statement (.sub x0 x1 x2) := by
  intros; exact Encoded.ofA rfl (by decide)
theorem Encoded.mul : ∀ x0 x1 x2, Encoded.Statement (.mul x0 x1 x2) := by
  intros; exact Encoded.ofA rfl (by decide)
theorem Encoded.mulh : ∀ x0 x1 x2, Encoded.Statement (.mulh x0 x1 x2) := by
  intros; exact Encoded.ofA rfl (by decide)
theorem Encoded.mad : ∀ x0 x1 x2, Encoded.Statement (.mad x0 x1 x2) := by
  intros; exact Encoded.ofA rfl (by decide)
theorem Encoded.min : ∀ x0 x1 x2, Encoded.Statement (.min x0 x1 x2) := by
  intros; exact Encoded.ofA rfl (by decide)
theorem Encoded.max : ∀ x0 x1 x2, Encoded.Statement (.max x0 x1 x2) := by
  intros; exact Encoded.ofA rfl (by decide)
theorem Encoded.abs : ∀ x0 x1, Encoded.Statement (.abs x0 x1) := by
  intros; exact Encoded.ofA rfl (by decide)
theorem Encoded.neg : ∀ x0 x1, Encoded.Statement (.neg x0 x1) := by
  intros; exact Encoded.ofA rfl (by decide)
theorem Encoded.and : ∀ x0 x1 x2, Encoded.Statement (.and x0 x1 x2) := by
  intros; exact Encoded.ofA rfl (by decide)
theorem Encoded.or : ∀ x0 x1 x2, Encoded.Statement (.or x0 x1 x2) := by
  intros; exact Encoded.ofA rfl (by decide)
theorem Encoded.xor : ∀ x0 x1 x2, Encoded.Statement (.xor x0 x1 x2) := by
  intros; exact Encoded.ofA rfl (by decide)
theorem Encoded.not : ∀ x0 x1, Encoded.Statement (.not x0 x1) := by
  intros; exact Encoded.ofA rfl (by decide)
theorem Encoded.shl : ∀ x0 x1 x2, Encoded.Statement (.shl x0 x1 x2) := by
  intros; exact Encoded.ofA rfl (by decide)
theorem Encoded.shr : ∀ x0 x1 x2, Encoded.Statement (.shr x0 x1 x2) := by
  intros; exact Encoded.ofA rfl (by decide)
theorem Encoded.sra : ∀ x0 x1 x2, Encoded.Statement (.sra x0 x1 x2) := by
  intros; exact Encoded.ofA rfl (by decide)
theorem Encoded.rot : ∀ x0 x1 x2, Encoded.Statement (.rot x0 x1 x2) := by
  intros; exact Encoded.ofA rfl (by decide)
theorem Encoded.bfe : ∀ x0 x1 x2 x3, Encoded.Statement (.bfe x0 x1 x2 x3) := by
  intros; exact Encoded.ofL rfl (by decide)
theorem Encoded.bfi : ∀ x0 x1 x2 x3, Encoded.Statement (.bfi x0 x1 x2 x3) := by
  intros; exact Encoded.ofL rfl (by decide)
theorem Encoded.bcnt : ∀ x0 x1 x2, Encoded.Statement (.bcnt x0 x1 x2) := by
  intros; exact Encoded.ofA rfl (by decide)
theorem Encoded.cmp : ∀ x0 x1 x2 x3, Encoded.Statement (.cmp x0 x1 x2 x3) := by
  intros; exact Encoded.ofA rfl (by decide)
theorem Encoded.sel : ∀ x0 x1 x2 x3 x4, Encoded.Statement (.sel x0 x1 x2 x3 x4) := by
  intros; exact Encoded.ofL rfl (by decide)
theorem Encoded.mov : ∀ x0 x1, Encoded.Statement (.mov x0 x1) := by
  intros; exact Encoded.ofA rfl (by decide)
theorem Encoded.movs : ∀ x0 x1 x2, Encoded.Statement (.movs x0 x1 x2) := by
  intros; exact Encoded.ofA rfl (by decide)
theorem Encoded.li : ∀ x0 x1, Encoded.Statement (.li x0 x1) := by
  intros; exact Encoded.ofL rfl (by decide)
theorem Encoded.lid : ∀ x0, Encoded.Statement (.lid x0) := by
  intros; exact Encoded.ofA rfl (by decide)
theorem Encoded.fadd : ∀ x0 x1 x2, Encoded.Statement (.fadd x0 x1 x2) := by
  intros; exact Encoded.ofA rfl (by decide)
theorem Encoded.fsub : ∀ x0 x1 x2, Encoded.Statement (.fsub x0 x1 x2) := by
  intros; exact Encoded.ofA rfl (by decide)
theorem Encoded.fmul : ∀ x0 x1 x2, Encoded.Statement (.fmul x0 x1 x2) := by
  intros; exact Encoded.ofA rfl (by decide)
theorem Encoded.ffma : ∀ x0 x1 x2, Encoded.Statement (.ffma x0 x1 x2) := by
  intros; exact Encoded.ofA rfl (by decide)
theorem Encoded.fmin : ∀ x0 x1 x2, Encoded.Statement (.fmin x0 x1 x2) := by
  intros; exact Encoded.ofA rfl (by decide)
theorem Encoded.fmax : ∀ x0 x1 x2, Encoded.Statement (.fmax x0 x1 x2) := by
  intros; exact Encoded.ofA rfl (by decide)
theorem Encoded.fabs : ∀ x0 x1, Encoded.Statement (.fabs x0 x1) := by
  intros; exact Encoded.ofA rfl (by decide)
theorem Encoded.fneg : ∀ x0 x1, Encoded.Statement (.fneg x0 x1) := by
  intros; exact Encoded.ofA rfl (by decide)
theorem Encoded.fcmp : ∀ x0 x1 x2 x3, Encoded.Statement (.fcmp x0 x1 x2 x3) := by
  intros; exact Encoded.ofA rfl (by decide)
theorem Encoded.frcp : ∀ x0 x1, Encoded.Statement (.frcp x0 x1) := by
  intros; exact Encoded.ofA rfl (by decide)
theorem Encoded.frsq : ∀ x0 x1, Encoded.Statement (.frsq x0 x1) := by
  intros; exact Encoded.ofA rfl (by decide)
theorem Encoded.fsqrt : ∀ x0 x1, Encoded.Statement (.fsqrt x0 x1) := by
  intros; exact Encoded.ofA rfl (by decide)
theorem Encoded.fdiv : ∀ x0 x1 x2, Encoded.Statement (.fdiv x0 x1 x2) := by
  intros; exact Encoded.ofA rfl (by decide)
theorem Encoded.fexp2 : ∀ x0 x1, Encoded.Statement (.fexp2 x0 x1) := by
  intros; exact Encoded.ofA rfl (by decide)
theorem Encoded.flog2 : ∀ x0 x1, Encoded.Statement (.flog2 x0 x1) := by
  intros; exact Encoded.ofA rfl (by decide)
theorem Encoded.fsin : ∀ x0 x1, Encoded.Statement (.fsin x0 x1) := by
  intros; exact Encoded.ofA rfl (by decide)
theorem Encoded.fcos : ∀ x0 x1, Encoded.Statement (.fcos x0 x1) := by
  intros; exact Encoded.ofA rfl (by decide)
theorem Encoded.fclass : ∀ x0 x1, Encoded.Statement (.fclass x0 x1) := by
  intros; exact Encoded.ofA rfl (by decide)
theorem Encoded.fround : ∀ x0 x1, Encoded.Statement (.fround x0 x1) := by
  intros; exact Encoded.ofA rfl (by decide)
theorem Encoded.cvtf : ∀ x0 x1 x2 x3, Encoded.Statement (.cvtf x0 x1 x2 x3) := by
  intros; exact Encoded.ofA rfl (by decide)
theorem Encoded.cvti : ∀ x0 x1 x2 x3, Encoded.Statement (.cvti x0 x1 x2 x3) := by
  intros; exact Encoded.ofA rfl (by decide)
theorem Encoded.cvtq : ∀ x0 x1 x2 x3, Encoded.Statement (.cvtq x0 x1 x2 x3) := by
  intros; exact Encoded.ofL rfl (by decide)
theorem Encoded.cvtd : ∀ x0 x1 x2 x3, Encoded.Statement (.cvtd x0 x1 x2 x3) := by
  intros; exact Encoded.ofL rfl (by decide)
theorem Encoded.pk : ∀ x0 x1 x2, Encoded.Statement (.pk x0 x1 x2) := by
  intros; exact Encoded.ofA rfl (by decide)
theorem Encoded.upk : ∀ x0 x1 x2, Encoded.Statement (.upk x0 x1 x2) := by
  intros; exact Encoded.ofA rfl (by decide)
theorem Encoded.sp8x : ∀ x0 x1 x2, Encoded.Statement (.sp8x x0 x1 x2) := by
  intros; exact Encoded.ofA rfl (by decide)
theorem Encoded.i4x : ∀ x0 x1 x2 x3, Encoded.Statement (.i4x x0 x1 x2 x3) := by
  intros; exact Encoded.ofL rfl (by decide)
theorem Encoded.shfl : ∀ x0 x1 x2, Encoded.Statement (.shfl x0 x1 x2) := by
  intros; exact Encoded.ofA rfl (by decide)
theorem Encoded.shflx : ∀ x0 x1 x2 x3, Encoded.Statement (.shflx x0 x1 x2 x3) := by
  intros; exact Encoded.ofL rfl (by decide)
theorem Encoded.bcast : ∀ x0 x1 x2, Encoded.Statement (.bcast x0 x1 x2) := by
  intros; exact Encoded.ofA rfl (by decide)
theorem Encoded.vote : ∀ x0 x1 x2, Encoded.Statement (.vote x0 x1 x2) := by
  intros; exact Encoded.ofA rfl (by decide)
theorem Encoded.mcnt : ∀ x0 x1, Encoded.Statement (.mcnt x0 x1) := by
  intros; exact Encoded.ofA rfl (by decide)
theorem Encoded.scan : ∀ x0 x1 x2, Encoded.Statement (.scan x0 x1 x2) := by
  intros; exact Encoded.ofA rfl (by decide)
theorem Encoded.red : ∀ x0 x1 x2, Encoded.Statement (.red x0 x1 x2) := by
  intros; exact Encoded.ofA rfl (by decide)
theorem Encoded.rank : ∀ x0 x1, Encoded.Statement (.rank x0 x1) := by
  intros; exact Encoded.ofA rfl (by decide)
theorem Encoded.compact : ∀ x0 x1 x2, Encoded.Statement (.compact x0 x1 x2) := by
  intros; exact Encoded.ofA rfl (by decide)
theorem Encoded.pand : ∀ x0 x1 x2 x3, Encoded.Statement (.pand x0 x1 x2 x3) := by
  intros; exact Encoded.ofA rfl (by decide)
theorem Encoded.por : ∀ x0 x1 x2 x3, Encoded.Statement (.por x0 x1 x2 x3) := by
  intros; exact Encoded.ofA rfl (by decide)
theorem Encoded.pxor : ∀ x0 x1 x2 x3, Encoded.Statement (.pxor x0 x1 x2 x3) := by
  intros; exact Encoded.ofA rfl (by decide)
theorem Encoded.pnot : ∀ x0 x1 x2, Encoded.Statement (.pnot x0 x1 x2) := by
  intros; exact Encoded.ofA rfl (by decide)
theorem Encoded.pmov : ∀ x0 x1 x2, Encoded.Statement (.pmov x0 x1 x2) := by
  intros; exact Encoded.ofA rfl (by decide)
theorem Encoded.psetClr : ∀ x0 x1, Encoded.Statement (.psetClr x0 x1) := by
  intros; exact Encoded.ofA rfl (by decide)
theorem Encoded.psetSet : ∀ x0 x1, Encoded.Statement (.psetSet x0 x1) := by
  intros; exact Encoded.ofA rfl (by decide)
theorem Encoded.psetSc : ∀ x0 x1 x2 x3, Encoded.Statement (.psetSc x0 x1 x2 x3) := by
  intros; exact Encoded.ofA rfl (by decide)
theorem Encoded.xmset : ∀ x0 x1, Encoded.Statement (.xmset x0 x1) := by
  intros; exact Encoded.ofA rfl (by decide)
theorem Encoded.xmget : ∀ x0, Encoded.Statement (.xmget x0) := by
  intros; exact Encoded.ofA rfl (by decide)
theorem Encoded.mode : ∀ x0, Encoded.Statement (.mode x0) := fun x =>
  Encoded.ofWord (mkWord 0x6E 0 0 0) rfl (by rw [opOf_mkWord]; exact opOf_append 0x6E x) (by decide)
theorem Encoded.modes : ∀ x0, Encoded.Statement (.modes x0) := by
  intros; exact Encoded.ofA rfl (by decide)
theorem Encoded.lds : ∀ x0 x1 x2, Encoded.Statement (.lds x0 x1 x2) := by
  intros; exact Encoded.ofL rfl (by decide)
theorem Encoded.sts : ∀ x0 x1 x2, Encoded.Statement (.sts x0 x1 x2) := by
  intros; exact Encoded.ofL rfl (by decide)
theorem Encoded.ldsf : ∀ x0 x1 x2, Encoded.Statement (.ldsf x0 x1 x2) := by
  intros; exact Encoded.ofL rfl (by decide)
theorem Encoded.ldse : ∀ x0 x1 x2, Encoded.Statement (.ldse x0 x1 x2) := by
  intros; exact Encoded.ofL rfl (by decide)
theorem Encoded.stsf : ∀ x0 x1 x2, Encoded.Statement (.stsf x0 x1 x2) := by
  intros; exact Encoded.ofL rfl (by decide)
theorem Encoded.stsx : ∀ x0 x1 x2, Encoded.Statement (.stsx x0 x1 x2) := by
  intros; exact Encoded.ofL rfl (by decide)
theorem Encoded.feclr : ∀ x0 x1, Encoded.Statement (.feclr x0 x1) := by
  intros; exact Encoded.ofL rfl (by decide)
theorem Encoded.feset : ∀ x0 x1, Encoded.Statement (.feset x0 x1) := by
  intros; exact Encoded.ofL rfl (by decide)
theorem Encoded.feq : ∀ x0 x1 x2, Encoded.Statement (.feq x0 x1 x2) := by
  intros; exact Encoded.ofL rfl (by decide)
theorem Encoded.fullEmptyWake : ∀ x0, Encoded.Statement (.fullEmptyWake x0) := by
  intros; exact Encoded.ofEvent rfl rfl
theorem Encoded.ldg : ∀ x0 x1 x2, Encoded.Statement (.ldg x0 x1 x2) := by
  intros; exact Encoded.ofL rfl (by decide)
theorem Encoded.stg : ∀ x0 x1 x2, Encoded.Statement (.stg x0 x1 x2) := by
  intros; exact Encoded.ofL rfl (by decide)
theorem Encoded.pfg : ∀ x0 x1, Encoded.Statement (.pfg x0 x1) := by
  intros; exact Encoded.ofL rfl (by decide)
theorem Encoded.cwb : ∀ x0 x1, Encoded.Statement (.cwb x0 x1) := by
  intros; exact Encoded.ofL rfl (by decide)
theorem Encoded.cinv : ∀ x0 x1, Encoded.Statement (.cinv x0 x1) := by
  intros; exact Encoded.ofL rfl (by decide)
theorem Encoded.ldp : ∀ x0 x1 x2, Encoded.Statement (.ldp x0 x1 x2) := by
  intros; exact Encoded.ofL rfl (by decide)
theorem Encoded.rld : ∀ x0 x1 x2 x3, Encoded.Statement (.rld x0 x1 x2 x3) := by
  intros; exact Encoded.ofL rfl (by decide)
theorem Encoded.rst : ∀ x0 x1 x2 x3, Encoded.Statement (.rst x0 x1 x2 x3) := by
  intros; exact Encoded.ofL rfl (by decide)
theorem Encoded.ratm : ∀ x0 x1 x2 x3, Encoded.Statement (.ratm x0 x1 x2 x3) := by
  intros; exact Encoded.ofL rfl (by decide)
theorem Encoded.ratmr : ∀ x0 x1 x2 x3, Encoded.Statement (.ratmr x0 x1 x2 x3) := by
  intros; exact Encoded.ofL rfl (by decide)
theorem Encoded.atm : ∀ x0 x1 x2, Encoded.Statement (.atm x0 x1 x2) := by
  intros; exact Encoded.ofL rfl (by decide)
theorem Encoded.atmr : ∀ x0 x1 x2, Encoded.Statement (.atmr x0 x1 x2) := by
  intros; exact Encoded.ofL rfl (by decide)
theorem Encoded.cas : ∀ x0 x1 x2, Encoded.Statement (.cas x0 x1 x2) := by
  intros; exact Encoded.ofL rfl (by decide)
theorem Encoded.cas128 : ∀ x0 x1 x2, Encoded.Statement (.cas128 x0 x1 x2) := by
  intros; exact Encoded.ofL rfl (by decide)
theorem Encoded.xchg : ∀ x0 x1 x2, Encoded.Statement (.xchg x0 x1 x2) := by
  intros; exact Encoded.ofL rfl (by decide)
theorem Encoded.tclaim : ∀ x0, Encoded.Statement (.tclaim x0) := by
  intros; exact Encoded.ofA rfl (by decide)
theorem Encoded.trel : ∀ x0, Encoded.Statement (.trel x0) := by
  intros; exact Encoded.ofA rfl (by decide)
theorem Encoded.tld : ∀ x0 x1 x2 x3 x4, Encoded.Statement (.tld x0 x1 x2 x3 x4) := by
  intros; exact Encoded.ofL rfl (by decide)
theorem Encoded.tfmt : ∀ x0 x1, Encoded.Statement (.tfmt x0 x1) := by
  intros; exact Encoded.ofA rfl (by decide)
theorem Encoded.mma : ∀ x0 x1 x2, Encoded.Statement (.mma x0 x1 x2) := by
  intros; exact Encoded.ofL rfl (by decide)
theorem Encoded.mmaz : ∀ x0 x1 x2, Encoded.Statement (.mmaz x0 x1 x2) := by
  intros; exact Encoded.ofL rfl (by decide)
theorem Encoded.mclr : ∀ x0, Encoded.Statement (.mclr x0) := by
  intros; exact Encoded.ofA rfl (by decide)
theorem Encoded.mdrainRegister : ∀ x0 x1 x2 x3, Encoded.Statement (.mdrainRegister x0 x1 x2 x3) := by
  intros; exact Encoded.ofL rfl (by decide)
theorem Encoded.mdrainMemory : ∀ x0 x1 x2 x3 x4, Encoded.Statement (.mdrainMemory x0 x1 x2 x3 x4) := by
  intros; exact Encoded.ofL rfl (by decide)
theorem Encoded.mcoop : ∀ x0 x1 x2 x3 x4 x5, Encoded.Statement (.mcoop x0 x1 x2 x3 x4 x5) := by
  intros; exact Encoded.ofL rfl (by decide)
theorem Encoded.mcoopRendezvous : ∀ x0 x1, Encoded.Statement (.mcoopRendezvous x0 x1) := by
  intros; exact Encoded.ofEvent rfl rfl
theorem Encoded.tzero : ∀ x0, Encoded.Statement (.tzero x0) := by
  intros; exact Encoded.ofA rfl (by decide)
theorem Encoded.ttrans : ∀ x0 x1 x2, Encoded.Statement (.ttrans x0 x1 x2) := by
  intros; exact Encoded.ofA rfl (by decide)
theorem Encoded.arrayQueueExecute : ∀ x0, Encoded.Statement (.arrayQueueExecute x0) := by
  intros; exact Encoded.ofEvent rfl rfl
theorem Encoded.fence : ∀ x0 x1, Encoded.Statement (.fence x0 x1) := by
  intros; exact Encoded.ofA rfl (by decide)
theorem Encoded.flwait : ∀ x0, Encoded.Statement (.flwait x0) := by
  intros; exact Encoded.ofA rfl (by decide)
theorem Encoded.twany : ∀ x0 x1, Encoded.Statement (.twany x0 x1) := by
  intros; exact Encoded.ofA rfl (by decide)
theorem Encoded.twall : ∀ x0, Encoded.Statement (.twall x0) := by
  intros; exact Encoded.ofA rfl (by decide)
theorem Encoded.tffr : ∀ x0, Encoded.Statement (.tffr x0) := by
  intros; exact Encoded.ofA rfl (by decide)
theorem Encoded.tclr : ∀ x0, Encoded.Statement (.tclr x0) := by
  intros; exact Encoded.ofA rfl (by decide)
theorem Encoded.bar : ∀ x0 x1, Encoded.Statement (.bar x0 x1) := by
  intros; exact Encoded.ofA rfl (by decide)
theorem Encoded.dieArrived : ∀ x0 x1 x2, Encoded.Statement (.dieArrived x0 x1 x2) := by
  intros; exact Encoded.ofEvent rfl rfl
theorem Encoded.complete : ∀ x0 x1 x2, Encoded.Statement (.complete x0 x1 x2) := by
  intros; exact Encoded.ofEvent rfl rfl
theorem Encoded.marm : ∀ x0 x1 x2, Encoded.Statement (.marm x0 x1 x2) := by
  intros; exact Encoded.ofL rfl (by decide)
theorem Encoded.mwait : ∀ x0 x1, Encoded.Statement (.mwait x0 x1) := by
  intros; exact Encoded.ofA rfl (by decide)
theorem Encoded.mwaitTimeout : ∀ x0, Encoded.Statement (.mwaitTimeout x0) := by
  intros; exact Encoded.ofEvent rfl rfl
theorem Encoded.grin : Encoded.Statement .grin := by
  exact Encoded.ofA rfl (by decide)
theorem Encoded.grout : Encoded.Statement .grout := by
  exact Encoded.ofA rfl (by decide)
theorem Encoded.grq : ∀ x0, Encoded.Statement (.grq x0) := by
  intros; exact Encoded.ofA rfl (by decide)
theorem Encoded.grwait : ∀ x0, Encoded.Statement (.grwait x0) := by
  intros; exact Encoded.ofA rfl (by decide)
theorem Encoded.grfree : ∀ x0 x1, Encoded.Statement (.grfree x0 x1) := by
  intros; exact Encoded.ofA rfl (by decide)
theorem Encoded.grpop : ∀ x0, Encoded.Statement (.grpop x0) := by
  intros; exact Encoded.ofA rfl (by decide)
theorem Encoded.step : ∀ x0, Encoded.Statement (.step x0) := by
  intros; exact Encoded.ofA rfl (by decide)
theorem Encoded.stepq : ∀ x0, Encoded.Statement (.stepq x0) := by
  intros; exact Encoded.ofA rfl (by decide)
theorem Encoded.ldacq : ∀ x0 x1 x2, Encoded.Statement (.ldacq x0 x1 x2) := by
  intros; exact Encoded.ofL rfl (by decide)
theorem Encoded.strel : ∀ x0 x1 x2, Encoded.Statement (.strel x0 x1 x2) := by
  intros; exact Encoded.ofL rfl (by decide)
theorem Encoded.cpy : ∀ x0 x1 x2 x3 x4, Encoded.Statement (.cpy x0 x1 x2 x3 x4) := by
  intros; exact Encoded.ofA rfl (by decide)
theorem Encoded.cpyx : ∀ x0 x1 x2 x3, Encoded.Statement (.cpyx x0 x1 x2 x3) := by
  intros; exact Encoded.ofA rfl (by decide)
theorem Encoded.gath : ∀ x0 x1, Encoded.Statement (.gath x0 x1) := by
  intros; exact Encoded.ofA rfl (by decide)
theorem Encoded.kvap : ∀ x0 x1, Encoded.Statement (.kvap x0 x1) := by
  intros; exact Encoded.ofA rfl (by decide)
theorem Encoded.kvseal : ∀ x0 x1, Encoded.Statement (.kvseal x0 x1) := by
  intros; exact Encoded.ofA rfl (by decide)
theorem Encoded.kvcopy : ∀ x0 x1, Encoded.Statement (.kvcopy x0 x1) := by
  intros; exact Encoded.ofA rfl (by decide)
theorem Encoded.smpl : ∀ x0 x1 x2, Encoded.Statement (.smpl x0 x1 x2) := by
  intros; exact Encoded.ofA rfl (by decide)
theorem Encoded.coll : ∀ x0 x1, Encoded.Statement (.coll x0 x1) := by
  intros; exact Encoded.ofA rfl (by decide)
theorem Encoded.spawn : ∀ x0 x1 x2, Encoded.Statement (.spawn x0 x1 x2) := by
  intros; exact Encoded.ofA rfl (by decide)
theorem Encoded.launch : ∀ x0 x1 x2, Encoded.Statement (.launch x0 x1 x2) := by
  intros; exact Encoded.ofA rfl (by decide)
theorem Encoded.resolve : ∀ x0 x1 x2, Encoded.Statement (.resolve x0 x1 x2) := by
  intros; exact Encoded.ofA rfl (by decide)
theorem Encoded.wqpop : ∀ x0 x1 x2, Encoded.Statement (.wqpop x0 x1 x2) := by
  intros; exact Encoded.ofA rfl (by decide)
theorem Encoded.wqpush : ∀ x0 x1 x2, Encoded.Statement (.wqpush x0 x1 x2) := by
  intros; exact Encoded.ofA rfl (by decide)
theorem Encoded.cntp : ∀ x0 x1 x2, Encoded.Statement (.cntp x0 x1 x2) := by
  intros; exact Encoded.ofA rfl (by decide)
theorem Encoded.csrr : ∀ x0 x1, Encoded.Statement (.csrr x0 x1) := by
  intros; exact Encoded.ofL rfl (by decide)
theorem Encoded.csrw : ∀ x0 x1 x2, Encoded.Statement (.csrw x0 x1 x2) := by
  intros; exact Encoded.ofL rfl (by decide)
theorem Encoded.tretRes : ∀ x0 x1, Encoded.Statement (.tretRes x0 x1) := by
  intros; exact Encoded.ofA rfl (by decide)
theorem Encoded.tretVal : ∀ x0 x1, Encoded.Statement (.tretVal x0 x1) := by
  intros; exact Encoded.ofA rfl (by decide)
theorem Encoded.tretKill : ∀ x0 x1, Encoded.Statement (.tretKill x0 x1) := by
  intros; exact Encoded.ofA rfl (by decide)
theorem Encoded.ecall : ∀ x0, Encoded.Statement (.ecall x0) := by
  intros; exact Encoded.ofA rfl (by decide)
theorem Encoded.tlbiPage : ∀ x0 x1, Encoded.Statement (.tlbiPage x0 x1) := by
  intros; exact Encoded.ofA rfl (by decide)
theorem Encoded.tlbiCtx : ∀ x0, Encoded.Statement (.tlbiCtx x0) := by
  intros; exact Encoded.ofA rfl (by decide)
theorem Encoded.tlbiPart : Encoded.Statement .tlbiPart := by
  exact Encoded.ofA rfl (by decide)
theorem Encoded.frz : ∀ x0, Encoded.Statement (.frz x0) := by
  intros; exact Encoded.ofA rfl (by decide)
theorem Encoded.frzThaw : ∀ x0, Encoded.Statement (.frzThaw x0) := by
  intros; exact Encoded.ofA rfl (by decide)
theorem Encoded.wfi : ∀ x0 x1, Encoded.Statement (.wfi x0 x1) := by
  intros; exact Encoded.ofA rfl (by decide)
theorem Encoded.wfiTimeout : ∀ x0, Encoded.Statement (.wfiTimeout x0) := by
  intros; exact Encoded.ofEvent rfl rfl
theorem Encoded.sfence : Encoded.Statement .sfence := by
  exact Encoded.ofA rfl (by decide)
theorem Encoded.longLatencyCompletion : ∀ x0, Encoded.Statement (.longLatencyCompletion x0) := by
  intros; exact Encoded.ofEvent rfl rfl
theorem Encoded.pathMerge : ∀ x0, Encoded.Statement (.pathMerge x0) := by
  intros; exact Encoded.ofEvent rfl rfl
theorem Encoded.teamRetirement : ∀ x0, Encoded.Statement (.teamRetirement x0) := by
  intros; exact Encoded.ofEvent rfl rfl
theorem Encoded.gridCompletion : ∀ x0, Encoded.Statement (.gridCompletion x0) := by
  intros; exact Encoded.ofEvent rfl rfl
theorem Encoded.gridStart : ∀ x0, Encoded.Statement (.gridStart x0) := by
  intros; exact Encoded.ofEvent rfl rfl
theorem Encoded.launchQueueRecord : ∀ x0, Encoded.Statement (.launchQueueRecord x0) := by
  intros; exact Encoded.ofEvent rfl rfl
theorem Encoded.cartTimerExpiry : ∀ x0, Encoded.Statement (.cartTimerExpiry x0) := by
  intros; exact Encoded.ofEvent rfl rfl
theorem Encoded.clusterPlacement : ∀ x0, Encoded.Statement (.clusterPlacement x0) := by
  intros; exact Encoded.ofEvent rfl rfl
theorem Encoded.timeSliceExpiry : ∀ x0 x1, Encoded.Statement (.timeSliceExpiry x0 x1) := by
  intros; exact Encoded.ofEvent rfl rfl
theorem Encoded.drainExpiry : ∀ x0 x1, Encoded.Statement (.drainExpiry x0 x1) := by
  intros; exact Encoded.ofEvent rfl rfl
theorem Encoded.clusterSaveCompletion : ∀ x0 x1, Encoded.Statement (.clusterSaveCompletion x0 x1) := by
  intros; exact Encoded.ofEvent rfl rfl
theorem Encoded.clusterFlushCompletion : ∀ x0 x1, Encoded.Statement (.clusterFlushCompletion x0 x1) := by
  intros; exact Encoded.ofEvent rfl rfl
theorem Encoded.clusterRestoration : ∀ x0 x1, Encoded.Statement (.clusterRestoration x0 x1) := by
  intros; exact Encoded.ofEvent rfl rfl
theorem Encoded.pathAged : ∀ x0, Encoded.Statement (.pathAged x0) := by
  intros; exact Encoded.ofEvent rfl rfl
theorem Encoded.remoteCopyBoundExpiry : ∀ x0 x1, Encoded.Statement (.remoteCopyBoundExpiry x0 x1) := by
  intros; exact Encoded.ofEvent rfl rfl
theorem Encoded.pageWalk : ∀ x0 x1 x2 x3 x4, Encoded.Statement (.pageWalk x0 x1 x2 x3 x4) := by
  intros; exact Encoded.ofEvent rfl rfl
theorem Encoded.engineCommandStart : ∀ x0, Encoded.Statement (.engineCommandStart x0) := by
  intros; exact Encoded.ofEvent rfl rfl
theorem Encoded.engineCommandCompletion : ∀ x0, Encoded.Statement (.engineCommandCompletion x0) := by
  intros; exact Encoded.ofEvent rfl rfl
theorem Encoded.samplerSlotRun : ∀ x0 x1, Encoded.Statement (.samplerSlotRun x0 x1) := by
  intros; exact Encoded.ofEvent rfl rfl
theorem Encoded.adjustKernelCompletion : ∀ x0 x1, Encoded.Statement (.adjustKernelCompletion x0 x1) := by
  intros; exact Encoded.ofEvent rfl rfl
theorem Encoded.watchdog : ∀ x0 x1, Encoded.Statement (.watchdog x0 x1) := by
  intros; exact Encoded.ofEvent rfl rfl
theorem Encoded.faultRecordDeferredWrite : ∀ x0, Encoded.Statement (.faultRecordDeferredWrite x0) := by
  intros; exact Encoded.ofEvent rfl rfl
theorem Encoded.keepAlive : ∀ x0, Encoded.Statement (.keepAlive x0) := by
  intros; exact Encoded.ofEvent rfl rfl
theorem Encoded.remoteTimeout : ∀ x0, Encoded.Statement (.remoteTimeout x0) := by
  intros; exact Encoded.ofEvent rfl rfl
theorem Encoded.freezeTakesEffect : ∀ x0, Encoded.Statement (.freezeTakesEffect x0) := by
  intros; exact Encoded.ofEvent rfl rfl
theorem Encoded.thawTakesEffect : ∀ x0, Encoded.Statement (.thawTakesEffect x0) := by
  intros; exact Encoded.ofEvent rfl rfl
theorem Encoded.semaphoreTickServe : Encoded.Statement .semaphoreTickServe := by
  exact Encoded.ofEvent rfl rfl
theorem Encoded.relockEnd : ∀ x0, Encoded.Statement (.relockEnd x0) := by
  intros; exact Encoded.ofEvent rfl rfl
theorem Encoded.homeAcknowledgement : ∀ x0, Encoded.Statement (.homeAcknowledgement x0) := by
  intros; exact Encoded.ofEvent rfl rfl
theorem Encoded.valueArrival : ∀ x0, Encoded.Statement (.valueArrival x0) := by
  intros; exact Encoded.ofEvent rfl rfl
theorem Encoded.unassignedOpcode : ∀ x0, Encoded.Statement (.unassignedOpcode x0) := fun op =>
  .inr ⟨_, [], rfl, fun h => by
    rw [isHeader_eq, wordsOf, opOf_mkWord]
    revert h; revert op; decide⟩
theorem Encoded.priorityAging : ∀ x0 x1, Encoded.Statement (.priorityAging x0 x1) := by
  intros; exact Encoded.ofEvent rfl rfl
theorem Encoded.restorationGuardExpiry : ∀ x0 x1, Encoded.Statement (.restorationGuardExpiry x0 x1) := by
  intros; exact Encoded.ofEvent rfl rfl
theorem Encoded.atsTimeout : ∀ x0 x1 x2, Encoded.Statement (.atsTimeout x0 x1 x2) := by
  intros; exact Encoded.ofEvent rfl rfl
theorem Encoded.allocAckTimeout : ∀ x0 x1 x2, Encoded.Statement (.allocAckTimeout x0 x1 x2) := by
  intros; exact Encoded.ofEvent rfl rfl
theorem Encoded.allocAnswerTimeout : ∀ x0, Encoded.Statement (.allocAnswerTimeout x0) := by
  intros; exact Encoded.ofEvent rfl rfl
theorem Encoded.resolveAckTimeout : ∀ x0 x1 x2, Encoded.Statement (.resolveAckTimeout x0 x1 x2) := by
  intros; exact Encoded.ofEvent rfl rfl
theorem Encoded.transactionPacket : ∀ x0 x1, Encoded.Statement (.transactionPacket x0 x1) := by
  intros; exact Encoded.ofEvent rfl rfl
theorem Encoded.atsTranslationCompletion : ∀ x0 x1 x2 x3 x4 x5, Encoded.Statement (.atsTranslationCompletion x0 x1 x2 x3 x4 x5) := by
  intros; exact Encoded.ofEvent rfl rfl
theorem Encoded.pageRequestResponse : ∀ x0 x1 x2 x3, Encoded.Statement (.pageRequestResponse x0 x1 x2 x3) := by
  intros; exact Encoded.ofEvent rfl rfl
theorem Encoded.hostInvalidationRequest : ∀ x0 x1 x2 x3, Encoded.Statement (.hostInvalidationRequest x0 x1 x2 x3) := by
  intros; exact Encoded.ofEvent rfl rfl
theorem Encoded.hostLinkDown : ∀ x0, Encoded.Statement (.hostLinkDown x0) := by
  intros; exact Encoded.ofEvent rfl rfl
theorem Encoded.collectiveData : ∀ x0 x1 x2 x3 x4, Encoded.Statement (.collectiveData x0 x1 x2 x3 x4) := by
  intros; exact Encoded.ofEvent rfl rfl
theorem Encoded.uncorrectableError : ∀ x0, Encoded.Statement (.uncorrectableError x0) := by
  intros; exact Encoded.ofEvent rfl rfl
theorem Encoded.correctedError : ∀ x0 x1, Encoded.Statement (.correctedError x0 x1) := by
  intros; exact Encoded.ofEvent rfl rfl
theorem Encoded.arrive : ∀ x0 x1 x2, Encoded.Statement (.arrive x0 x1 x2) := by
  intros; exact Encoded.ofEvent rfl rfl
theorem Encoded.boundaryDecision : ∀ x0 x1 x2, Encoded.Statement (.boundaryDecision x0 x1 x2) := by
  intros; exact Encoded.ofEvent rfl rfl
theorem Encoded.memberFailure : ∀ x0, Encoded.Statement (.memberFailure x0) := by
  intros; exact Encoded.ofEvent rfl rfl
theorem Encoded.failureQuery : ∀ x0 x1, Encoded.Statement (.failureQuery x0 x1) := by
  intros; exact Encoded.ofEvent rfl rfl
theorem Encoded.alloc : ∀ x0 x1 x2 x3, Encoded.Statement (.alloc x0 x1 x2 x3) := by
  intros; exact Encoded.ofEvent rfl rfl
theorem Encoded.versionNotice : ∀ x0 x1 x2, Encoded.Statement (.versionNotice x0 x1 x2) := by
  intros; exact Encoded.ofEvent rfl rfl
theorem Encoded.withdraw : ∀ x0 x1 x2, Encoded.Statement (.withdraw x0 x1 x2) := by
  intros; exact Encoded.ofEvent rfl rfl
theorem Encoded.cancel : ∀ x0 x1 x2, Encoded.Statement (.cancel x0 x1 x2) := by
  intros; exact Encoded.ofEvent rfl rfl
theorem Encoded.resolveBroadcast : ∀ x0 x1 x2 x3, Encoded.Statement (.resolveBroadcast x0 x1 x2 x3) := by
  intros; exact Encoded.ofEvent rfl rfl
theorem Encoded.ackResend : ∀ x0, Encoded.Statement (.ackResend x0) := by
  intros; exact Encoded.ofEvent rfl rfl
theorem Encoded.holdNotice : ∀ x0, Encoded.Statement (.holdNotice x0) := by
  intros; exact Encoded.ofEvent rfl rfl
theorem Encoded.linkDown : ∀ x0, Encoded.Statement (.linkDown x0) := by
  intros; exact Encoded.ofEvent rfl rfl
theorem Encoded.linkUp : ∀ x0, Encoded.Statement (.linkUp x0) := by
  intros; exact Encoded.ofEvent rfl rfl
theorem Encoded.timeMessage : ∀ x0, Encoded.Statement (.timeMessage x0) := by
  intros; exact Encoded.ofEvent rfl rfl
theorem Encoded.checkpointStream : ∀ x0 x1, Encoded.Statement (.checkpointStream x0 x1) := by
  intros; exact Encoded.ofEvent rfl rfl
theorem Encoded.iceboxFinished : ∀ x0, Encoded.Statement (.iceboxFinished x0) := by
  intros; exact Encoded.ofEvent rfl rfl
theorem Encoded.frzctlFreeze : ∀ x0, Encoded.Statement (.frzctlFreeze x0) := by
  intros; exact Encoded.ofEvent rfl rfl
theorem Encoded.frzctlThaw : ∀ x0, Encoded.Statement (.frzctlThaw x0) := by
  intros; exact Encoded.ofEvent rfl rfl
theorem Encoded.icectl : ∀ x0, Encoded.Statement (.icectl x0) := by
  intros; exact Encoded.ofEvent rfl rfl
theorem Encoded.poolBoundaryWrite : ∀ x0 x1 x2, Encoded.Statement (.poolBoundaryWrite x0 x1 x2) := by
  intros; exact Encoded.ofEvent rfl rfl
theorem Encoded.doorbell : ∀ x0, Encoded.Statement (.doorbell x0) := by
  intros; exact Encoded.ofEvent rfl rfl
theorem Encoded.semRead : ∀ x0 x1, Encoded.Statement (.semRead x0 x1) := by
  intros; exact Encoded.ofEvent rfl rfl
theorem Encoded.semWrite : ∀ x0 x1, Encoded.Statement (.semWrite x0 x1) := by
  intros; exact Encoded.ofEvent rfl rfl
theorem Encoded.hflush : ∀ x0 x1, Encoded.Statement (.hflush x0 x1) := by
  intros; exact Encoded.ofEvent rfl rfl
theorem Encoded.partWrite : ∀ x0 x1, Encoded.Statement (.partWrite x0 x1) := by
  intros; exact Encoded.ofEvent rfl rfl
theorem Encoded.clkctl : ∀ x0 x1, Encoded.Statement (.clkctl x0 x1) := by
  intros; exact Encoded.ofEvent rfl rfl
theorem Encoded.d2dconn : ∀ x0, Encoded.Statement (.d2dconn x0) := by
  intros; exact Encoded.ofEvent rfl rfl
theorem Encoded.pq : ∀ x0, Encoded.Statement (.pq x0) := by
  intros; exact Encoded.ofEvent rfl rfl
theorem Encoded.portQuiesced : ∀ x0, Encoded.Statement (.portQuiesced x0) := by
  intros; exact Encoded.ofEvent rfl rfl
theorem Encoded.porten : ∀ x0, Encoded.Statement (.porten x0) := by
  intros; exact Encoded.ofEvent rfl rfl
theorem Encoded.fmode : ∀ x0, Encoded.Statement (.fmode x0) := by
  intros; exact Encoded.ofEvent rfl rfl
theorem Encoded.rankWrite : ∀ x0, Encoded.Statement (.rankWrite x0) := by
  intros; exact Encoded.ofEvent rfl rfl
theorem Encoded.stepctlEn : ∀ x0, Encoded.Statement (.stepctlEn x0) := by
  intros; exact Encoded.ofEvent rfl rfl
theorem Encoded.firnsize : ∀ x0 x1, Encoded.Statement (.firnsize x0 x1) := by
  intros; exact Encoded.ofEvent rfl rfl
theorem Encoded.controlRegisterWrite : ∀ x0 x1 x2 x3, Encoded.Statement (.controlRegisterWrite x0 x1 x2 x3) := by
  intros; exact Encoded.ofEvent rfl rfl
theorem Encoded.go : ∀ x0, Encoded.Statement (.go x0) := by
  intros; exact Encoded.ofEvent rfl rfl
theorem Encoded.railFail : ∀ x0, Encoded.Statement (.railFail x0) := by
  intros; exact Encoded.ofEvent rfl rfl
theorem Encoded.powerLimitWrite : ∀ x0 x1, Encoded.Statement (.powerLimitWrite x0 x1) := by
  intros; exact Encoded.ofEvent rfl rfl
theorem Encoded.railTelemetryRead : ∀ x0, Encoded.Statement (.railTelemetryRead x0) := by
  intros; exact Encoded.ofEvent rfl rfl
theorem Encoded.getVersion : ∀ x0, Encoded.Statement (.getVersion x0) := by
  intros; exact Encoded.ofEvent rfl rfl
theorem Encoded.getCapabilities : ∀ x0, Encoded.Statement (.getCapabilities x0) := by
  intros; exact Encoded.ofEvent rfl rfl
theorem Encoded.negotiateAlgorithms : ∀ x0, Encoded.Statement (.negotiateAlgorithms x0) := by
  intros; exact Encoded.ofEvent rfl rfl
theorem Encoded.getDigests : ∀ x0, Encoded.Statement (.getDigests x0) := by
  intros; exact Encoded.ofEvent rfl rfl
theorem Encoded.getCertificate : ∀ x0 x1 x2 x3, Encoded.Statement (.getCertificate x0 x1 x2 x3) := by
  intros; exact Encoded.ofEvent rfl rfl
theorem Encoded.challenge : ∀ x0 x1 x2, Encoded.Statement (.challenge x0 x1 x2) := by
  intros; exact Encoded.ofEvent rfl rfl
theorem Encoded.getMeasurements : ∀ x0 x1, Encoded.Statement (.getMeasurements x0 x1) := by
  intros; exact Encoded.ofEvent rfl rfl
theorem Encoded.unsupportedRequest : ∀ x0 x1, Encoded.Statement (.unsupportedRequest x0 x1) := by
  intros; exact Encoded.ofEvent rfl rfl
theorem Encoded.hostWindowAccess : ∀ x0 x1 x2, Encoded.Statement (.hostWindowAccess x0 x1 x2) := by
  intros; exact Encoded.ofEvent rfl rfl
theorem Encoded.inputPowerApplied : ∀ x0, Encoded.Statement (.inputPowerApplied x0) := by
  intros; exact Encoded.ofEvent rfl rfl
theorem Encoded.hostLinkUp : ∀ x0, Encoded.Statement (.hostLinkUp x0) := by
  intros; exact Encoded.ofEvent rfl rfl
theorem Encoded.scandata : Encoded.Statement .scandata := by
  exact Encoded.ofEvent rfl rfl
theorem Encoded.dqSet : Encoded.Statement .dqSet := by
  exact Encoded.ofEvent rfl rfl
theorem Encoded.dqClear : Encoded.Statement .dqClear := by
  exact Encoded.ofEvent rfl rfl
theorem Encoded.dieToDieQuiesced : Encoded.Statement .dieToDieQuiesced := by
  exact Encoded.ofEvent rfl rfl
theorem Encoded.circuitChangeDone : Encoded.Statement .circuitChangeDone := by
  exact Encoded.ofEvent rfl rfl
theorem Encoded.resume : Encoded.Statement .resume := by
  exact Encoded.ofEvent rfl rfl
theorem Encoded.pwrgdRise : Encoded.Statement .pwrgdRise := by
  exact Encoded.ofEvent rfl rfl
theorem Encoded.resetnLow : Encoded.Statement .resetnLow := by
  exact Encoded.ofEvent rfl rfl
theorem Encoded.resetnRelease : Encoded.Statement .resetnRelease := by
  exact Encoded.ofEvent rfl rfl

end Sys2Proof.Laws
end

