-- ==== Sys2Proof/Machine/AsmText.lean ====
section
/-! DEFINITION. The text of an assembly line (R145 to R147): labels, comments, numbers, registers, memory operands and
their qualifiers. -/

namespace Sys2Proof.Plynas

abbrev Text := List Char

/-! ### Lines (R145) -/

def isBlank (c : Char) : Bool := c == ' ' || c == '\t' || c == '\r'

/-- Text without the blanks around it. -/
def trim (t : Text) : Text := ((t.dropWhile isBlank).reverse.dropWhile isBlank).reverse

def nameStart (c : Char) : Bool := c.isAlpha || c == '_' || c == '.'
def nameChar (c : Char) : Bool := nameStart c || c.isDigit

/-- An identifier. -/
def isName : Text → Bool
  | [] => false
  | c :: cs => nameStart c && cs.all nameChar

/-- A line up to its comment. -/
def uncomment : Text → Text
  | [] => []
  | c :: cs => if c = ';' ∨ (c = '/' ∧ cs.head? = some '/') then [] else c :: uncomment cs

/-- A text cut at each of a character. -/
def cutAt (c : Char) : Text → Text → List Text
  | acc, [] => [acc.reverse]
  | acc, x :: xs => if x = c then acc.reverse :: cutAt c [] xs else cutAt c (x :: acc) xs

/-- The depth of brackets after a character. -/
def depth (d : Nat) (c : Char) : Nat :=
  if c = '(' ∨ c = '[' then d + 1 else if c = ')' ∨ c = ']' then d - 1 else d

/-- A text cut at the commas that stand outside brackets. -/
def cutCommas : Nat → Text → Text → List Text
  | _, acc, [] => [trim acc.reverse]
  | d, acc, x :: xs =>
    if x = ',' ∧ d = 0 then trim acc.reverse :: cutCommas 0 [] xs else cutCommas (depth d x) (x :: acc) xs

/-- The operands of a line. -/
def operandsOf (t : Text) : List Text := if trim t = [] then [] else cutCommas 0 [] t

/-- A line: its label, the first word of what it holds, and the rest. -/
structure Line where
  label : Option Text
  head  : Text
  rest  : Text
  deriving DecidableEq, Repr

def readLine (t : Text) : Line :=
  let t := trim (uncomment t)
  let w := t.takeWhile nameChar
  let x := t.drop w.length
  let labelled := isName w && x.head? == some ':'
  let b := if labelled then trim (x.drop 1) else t
  let h := b.takeWhile fun c => !isBlank c
  ⟨if labelled then some w else none, h, trim (b.drop h.length)⟩

/-! ### Numbers (R146) -/

def digitVal (c : Char) : Nat := c.toNat - '0'.toNat

/-- A decimal number. -/
def decimal (t : Text) : Option Nat :=
  if t ≠ [] ∧ t.all Char.isDigit then some (t.foldl (fun n c => 10 * n + digitVal c) 0) else none

def hexVal (c : Char) : Option Nat :=
  if c.isDigit then some (digitVal c)
  else if 'a'.toNat ≤ c.toNat ∧ c.toNat ≤ 'f'.toNat then some (c.toNat - 'a'.toNat + 10)
  else if 'A'.toNat ≤ c.toNat ∧ c.toNat ≤ 'F'.toNat then some (c.toNat - 'A'.toNat + 10)
  else none

/-- Hexadecimal digits, with underscores between them. -/
def hexDigits : Bool → Nat → Text → Option Nat
  | last, n, [] => if last then some n else none
  | last, n, c :: cs =>
    if c = '_' then (if last then hexDigits false n cs else none)
    else match hexVal c with
      | some k => hexDigits true (16 * n + k) cs
      | none => none

def readNat : Text → Option Nat
  | '0' :: 'x' :: cs => hexDigits false 0 cs
  | t => decimal t

/-- A sign and what follows it. -/
def signed : Text → Bool × Text
  | '-' :: cs => (true, cs)
  | '+' :: cs => (false, cs)
  | t => (false, t)

def readInt (t : Text) : Option Int :=
  let (neg, u) := signed t
  (readNat u).map fun (n : Nat) => if neg then -(n : Int) else (n : Int)

/-- A number with a decimal point as binary32 under rn: its digits, taken as an integer, over a power of ten, to 200
binary places and a sticky bit. -/
def readReal (t : Text) : Option Word :=
  let (neg, u) := signed t
  match cutAt '.' [] u with
  | [a, b] => do
    let _ ← decimal a
    let _ ← decimal b
    let m ← decimal (a ++ b)
    let n := m * 2 ^ 200
    let d := 10 ^ b.length
    some (BitVec.ofNat 32 (Machine.fmtF32.round .rn false neg (n / d) (-200) (n % d != 0)).1)
  | _ => none

/-! ### Operands (R146, R154) -/

/-- The classes of Table 4 that are written by a letter and a number. -/
inductive RegClass where
  | v | s | p | f | w
  deriving DecidableEq, Repr

/-- The highest number of a class. -/
def RegClass.last : RegClass → Nat
  | .v => 255 | .s => 63 | .p => 7 | .f => 11 | .w => 7

def classOf : Char → Option RegClass
  | 'v' => some .v | 's' => some .s | 'p' => some .p | 'f' => some .f | 'w' => some .w
  | _ => none

/-- A value: a number, a symbol, or in a macro body its first or second parameter and an offset. -/
inductive Val where
  | num (n : Int)
  /-- A symbol, or its value subtracted. -/
  | sym (name : Text) (neg : Bool := false)
  | par (second : Bool) (off : Nat)
  deriving DecidableEq, Repr

/-- The qualifiers of Table 11 that are written. -/
structure Quals where
  size  : Option Nat := none
  scope : Option Nat := none
  order : Option Nat := none
  hint  : Option Nat := none
  deriving DecidableEq, Repr

inductive Operand where
  | reg (c : RegClass) (v : Val)
  | notMask (v : Val)
  | imm (v : Val)
  | real (w : Word)
  | name (t : Text)
  /-- Base, index with sign extension, offset, qualifiers. -/
  | mem (c : RegClass) (base : Val) (idx : Option (Val × Bool)) (off : Val) (q : Quals)
  deriving DecidableEq, Repr

/-- A parameter of a macro, with an offset of 0 to 127. -/
def readParam (ps : List Text) (t : Text) : Option Val := do
  let l := (cutAt '+' [] t).map trim
  let i ← ps.findIdx? fun p => some p == l.head?
  match l with
  | [_] => some (.par (i == 1) 0)
  | [_, n] => do
    let k ← decimal n
    if k < 128 then some (.par (i == 1) k) else none
  | _ => none

/-- The text between parentheses. -/
def inside : Text → Option Text
  | '(' :: cs => if cs.getLast? = some ')' then some cs.dropLast else none
  | _ => none

/-- A register, within its class. -/
def readReg (ps : List Text) : Text → Option (RegClass × Val)
  | [] => none
  | x :: cs => do
    let c ← classOf x
    match inside cs with
    | some e => if c = .v ∨ c = .s ∨ c = .p then (readParam ps e).map fun v => (c, v) else none
    | none => do
      let n ← decimal cs
      if n ≤ c.last then some (c, .num n) else none

/-- A name stands for its constant, if it has one. -/
def nameVal (cs : List (Text × Int)) (t : Text) : Val :=
  match cs.lookup t with
  | some n => .num n
  | none => .sym t

/-- What stands after `#`. -/
def readImm (ps : List Text) (cs : List (Text × Int)) (t : Text) : Option Operand :=
  match inside t with
  | some e => (readParam ps e).map .imm
  | none =>
    match readInt t, readReal t with
    | some n, _ => some (.imm (.num n))
    | none, some w => some (.real w)
    | none, none => if isName t then some (.imm (nameVal cs t)) else none

/-- The terms of a sum: whether each is subtracted, and its text. A sign next to `#` is the number's own. -/
def terms : Bool → Nat → Text → Text → List (Bool × Text)
  | neg, _, acc, [] => [(neg, trim acc.reverse)]
  | neg, d, acc, c :: cs =>
    if (c = '+' ∨ c = '-') ∧ d = 0 ∧ acc.head? ≠ some '#' then (neg, trim acc.reverse) :: terms (c == '-') 0 [] cs
    else terms neg (depth d c) (c :: acc) cs

/-- The categories of Table 11: size, scope, order and hint, with their codes of R69 and R134. -/
def qualifiers : List (String × Nat × Nat) :=
  [("8", 0, 0), ("16", 0, 1), ("32", 0, 2), ("64", 0, 3), ("128", 0, 4),
   ("team", 1, 0), ("crew", 1, 1), ("clu", 1, 2), ("die", 1, 3), ("dev", 1, 4), ("sys", 1, 5), ("pod", 1, 6),
   ("acq", 2, 1), ("rel", 2, 2), ("ar", 2, 3), ("strm", 3, 1), ("byp", 3, 2), ("keep", 3, 3)]

/-- One more qualifier, of a category not written yet. -/
def Quals.add (q : Quals) (t : Text) : Option Quals := do
  let x ← qualifiers.find? fun x => x.1.toList == t
  match x.2.1 with
  | 0 => if q.size.isNone then some { q with size := some x.2.2 } else none
  | 1 => if q.scope.isNone then some { q with scope := some x.2.2 } else none
  | 2 => if q.order.isNone then some { q with order := some x.2.2 } else none
  | _ => if q.hint.isNone then some { q with hint := some x.2.2 } else none

/-- Qualifiers in any order, each behind a dot. -/
def readQuals (t : Text) : Option Quals :=
  match cutAt '.' [] t with
  | [] :: l => l.foldlM Quals.add {}
  | _ => none

/-- A vector index, with `.sx` where it is sign-extended. -/
def readIndex (ps : List Text) (t : Text) : Option (Val × Bool) := do
  let (r, sx) ← match cutAt '.' [] t with
    | [r] => some (r, false)
    | [r, x] => if x = "sx".toList then some (r, true) else none
    | _ => none
  match ← readReg ps r with
  | (.v, v) => some (v, sx)
  | _ => none

/-- An offset, subtracted or not. -/
def readOffset (ps : List Text) (cs : List (Text × Int)) (neg : Bool) : Text → Option Val
  | '#' :: t => do
    match ← readImm ps cs t with
    | .imm (.num n) => some (.num (if neg then -n else n))
    | .imm (.sym t n) => some (.sym t (n != neg))
    | .imm v => if neg then none else some v
    | _ => none
  | _ => none

/-- A memory operand with its qualifiers. -/
def readMem (ps : List Text) (cs : List (Text × Int)) (t : Text) : Option Operand := do
  let body := t.takeWhile (· != ']')
  let after := t.drop body.length
  let q ← match after with
    | [']'] => some {}
    | ']' :: u => readQuals u
    | _ => none
  match terms false 0 [] body with
  | (false, b) :: l => do
    let (c, base) ← readReg ps b
    match l with
    | [] => some (.mem c base none (.num 0) q)
    | [(neg, x)] =>
      match readOffset ps cs neg x with
      | some o => some (.mem c base none o q)
      | none => do
        let i ← readIndex ps x
        if neg then none else some (.mem c base (some i) (.num 0) q)
    | [(false, i), (neg, o)] => do
      let i ← readIndex ps i
      let o ← readOffset ps cs neg o
      some (.mem c base (some i) o q)
    | _ => none
  | _ => none

/-- An operand, in a macro body with its parameters, and with the file's constants. -/
def readOperand (ps : List Text) (cs : List (Text × Int)) : Text → Option Operand
  | '#' :: t => readImm ps cs t
  | '[' :: t => readMem ps cs t
  | '~' :: t => do
    match ← readReg ps t with
    | (.p, v) => some (.notMask v)
    | _ => none
  | t =>
    match readReg ps t with
    | some (c, v) => some (.reg c v)
    | none => if isName t then some (.name t) else none

end Sys2Proof.Plynas
end

