-- ==== Sys2Proof/Machine/AsmForms.lean ====
section
/-! DEFINITION. The assembly forms of the instructions, as their entries write them, and the words that they assemble to
(R131, R146 to R154). Bits are numbered through both words: the second word's are bits 32 to 63. -/

namespace Sys2Proof.Plynas

/-! ### Assembled instructions -/

/-- How many registers from the named one an operand takes in: so many; by the size of the access, in a vector or a
uniform register; by LEN; or a pair where the format code at a place is of 64 bits. -/
inductive Cnt where
  | k (n : Nat)
  | bySize (vec uni : Nat)
  | byLen
  | byCode (at' : Nat)
  deriving DecidableEq, Repr

/-- A register that an operand names. -/
structure Touch where
  c   : RegClass
  v   : Val
  cnt : Cnt
  deriving DecidableEq, Repr

/-- A place that a symbol fills: the word offset from the instruction (R124), or its value within bounds; and the kernel
in which it is used. -/
structure Fix where
  at'   : Nat
  width : Nat
  rel   : Bool
  lo    : Int
  hi    : Int
  bias  : Int
  name  : Text
  neg   : Bool := false
  home  : Option Text := none
  deriving DecidableEq, Repr

/-- An instruction as it is assembled: bits so far, fields that hold a parameter, open symbols, and its registers, the
first operand's at the head. -/
structure Asm where
  op    : Nat
  two   : Bool
  long  : Bool
  dest  : Bool
  bits  : Nat
  subs  : List (Nat × Nat)
  fixes : List Fix
  touch : List Touch
  deriving DecidableEq, Repr

def Asm.words (a : Asm) : Nat := if a.two then 2 else 1

/-- A control instruction other than `nop` (R149, R156). -/
def Asm.control (a : Asm) : Bool := decide (0 < a.op) && decide (a.op < 0x10)

/-- A value into a place: within its bounds, less a bias. A parameter takes its whole field (R154). -/
def Asm.put (a : Asm) (at' width : Nat) (lo hi bias : Int) : Val → Option Asm
  | .num n =>
    if lo ≤ n ∧ n ≤ hi then some { a with bits := a.bits + ((n - bias) % 2 ^ width).toNat * 2 ^ at' } else none
  | .sym t neg =>
    some { a with fixes := a.fixes ++
      [{ at' := at', width := width, rel := false, lo := lo, hi := hi, bias := bias, name := t, neg := neg }] }
  | .par second off =>
    if at' % 8 = 0 ∧ at' < 24 ∧ bias = 0 then
      let q := second.toNat * 128 + off
      some { a with bits := a.bits + q * 2 ^ at', subs := a.subs ++ [(at', q)] }
    else none

def Asm.set (a : Asm) (bits : Nat) : Asm := { a with bits := a.bits + bits }
def Asm.names (a : Asm) (c : RegClass) (v : Val) (n : Cnt) : Asm := { a with touch := a.touch ++ [⟨c, v, n⟩] }

/-- The bits that a class of register takes (Table 4). -/
def RegClass.width : RegClass → Nat
  | .v => 8 | .s => 6 | .p => 3 | .f => 4 | .w => 3

/-! ### Operand slots -/

/-- What a form expects of one operand, and where its bits go. -/
inductive Slot where
  | reg (c : RegClass) (at' : Nat) (cnt : Cnt := .k 1)
  /-- The data register of a format M instruction: vector, or uniform in a uniform team. -/
  | data (vec uni : Nat)
  /-- `pA`, or `~pA` with a bit. -/
  | mask (at' neg : Nat)
  | imm (at' width : Nat) (lo hi : Int) (bias : Int := 0)
  /-- The second operand of the arithmetic mould: a register, or an immediate with the bit I. -/
  | second (shift : Bool) (i : Nat)
  /-- The scale of `slea`. -/
  | scale
  /-- A 32-bit literal. -/
  | lit
  | target (at' width : Nat)
  /-- The name of a special register (Table 10), or of a control register. -/
  | special (at' : Nat)
  | csr
  /-- `[sA + vB + #off]` with qualifiers, the index allowed or not. -/
  | mem (index : Bool)
  /-- `[wN + vB + #off]`. -/
  | window
  /-- `[sA + vI + #off]` behind a peer register: vI is the register after it (R253). -/
  | remote
  /-- `[sB + #off]` of `tld`, and `[sA]` of `mdrain`. -/
  | tile
  | address
  deriving DecidableEq, Repr

/-- The special registers of Table 10. -/
def specials : List (String × Nat) :=
  (["TEAM", "PATH", "TWIDTH", "CREWX", "CREWY", "CREWZ", "GRIDX", "GRIDY", "GRIDZ", "CLUSTER", "CORE", "DIE", "GRID",
    "DOMAIN", "VERSION", "STEP", "TSC", "CYC", "SCC", "XMSUM", "STATUS", "MODE", "CTAG", "FLAGS", "DEVICE", "GRACE",
    "ROLE"].zipIdx).map fun x => (x.1, x.2 + 1)

/-- The control registers by name (R399 and the tables of the system chapters). -/
def controls : List (String × Nat) :=
  [("REGTOP", 0x1000), ("SPTOP", 0x1001), ("CACHETOP", 0x1002), ("CORECTL", 0x1003), ("ENGSTAT", 0x1004),
   ("CLPART", 0x2000), ("DOORBELL", 0x3000), ("FIRNBASE", 0x3010), ("FIRNSIZE", 0x3011), ("FIRNUSE", 0x3012),
   ("CLKCTL", 0x3020), ("CLKSTAT", 0x3021)] ++
  ((List.range 32).map fun i => ("SEM" ++ toString i, 0x4000 + i)) ++
  [("CTXBASE", 0x4020), ("CTXSIZE", 0x4021), ("WQBASE", 0x4022), ("RGNBASE", 0x4023), ("DOMBASE", 0x4024),
   ("PART0", 0x4030), ("PART1", 0x4031), ("PART2", 0x4032), ("PART3", 0x4033), ("PART4", 0x4034), ("PART5", 0x4035),
   ("HFLUSH0", 0x4040), ("HFDONE0", 0x4041), ("HFLUSH1", 0x4042), ("HFDONE1", 0x4043)] ++
  [("EVBASE", 0x4050), ("EVSIZE", 0x4051), ("EVPIDX", 0x4052), ("EVCIDX", 0x4053), ("EVLOST", 0x4054),
   ("FRZCTL", 0x4060), ("FRZSTAT", 0x4061), ("SCANSEL", 0x4068), ("SCANDATA", 0x4069), ("ICEDST", 0x4070),
   ("ICESRC", 0x4071), ("ICESIZE", 0x4072), ("ICECTL", 0x4073), ("ICESTAT", 0x4074), ("ICEIN", 0x4075),
   ("ICEINBASE", 0x4076)] ++
  [("D2DCONN", 0x4080), ("PRDCTL", 0x4081), ("PRDSTAT", 0x4082), ("PORTEN", 0x4083), ("PORTUP", 0x4084),
   ("FMODE", 0x4085), ("FTIMEOUT", 0x4086), ("MEMBASE", 0x4087), ("DROPCNT", 0x4088), ("RANK", 0x4089),
   ("STEPCTL", 0x4090), ("STEPGRP", 0x4091), ("STEPSTAT", 0x4092), ("FLOGBASE", 0x40A0), ("FLOGSIZE", 0x40A1),
   ("FLOGPIDX", 0x40A2), ("BOOTSTAT", 0x40A8), ("RECCTL", 0x40A9), ("TSCSTAT", 0x40B0)]

/-- The code of a name. -/
def codeOf (l : List (String × Nat)) (t : Text) : Option Nat := (l.find? fun x => x.1.toList == t).map fun x => x.2

/-- The descriptor of Table 6 but for OFFSET and OP, with the defaults of Table 11. -/
def Quals.bits (q : Quals) : Nat :=
  q.size.getD 2 * 2 ^ 61 + q.scope.getD 0 * 2 ^ 58 + q.order.getD 0 * 2 ^ 56 + q.hint.getD 0 * 2 ^ 50

/-- An index register: bits 14 and 15 say that there is one, and its extension. -/
def Asm.index (a : Asm) (i : Val × Bool) : Asm := (a.set (2 ^ 14 + i.2.toNat * 2 ^ 15)).names .v i.1 (.k 1)

/-- A base register in field a, an offset in the descriptor, and the descriptor's qualifiers. -/
def Asm.based (a : Asm) (c : RegClass) (base off : Val) (q : Quals) : Option Asm := do
  let a ← a.put 8 c.width 0 63 0 base
  let a ← a.put 32 16 (-32768) 32767 0 off
  some ((a.names c base (.k 1)).set q.bits)

/-- One operand into its slot. -/
def Asm.fill (a : Asm) : Slot → Operand → Option Asm
  | .reg c at' n, .reg d v => if c = d then (a.put at' c.width 0 255 0 v).map fun a => a.names c v n else none
  | .data m _, .reg .v v => (a.put 16 8 0 255 0 v).map fun a => a.names .v v (.bySize m 0)
  | .data _ m, .reg .s v => (a.put 16 6 0 63 0 v).map fun a => a.names .s v (.bySize 0 m)
  | .mask at' _, .reg .p v => (a.put at' 3 0 7 0 v).map fun a => a.names .p v (.k 1)
  | .mask at' neg, .notMask v => (a.put at' 3 0 7 0 v).map fun a => (a.names .p v (.k 1)).set (2 ^ neg)
  | .imm at' width lo hi bias, .imm v => a.put at' width lo hi bias v
  | .second _ _, .reg .s v => (a.put 0 6 0 63 0 v).map fun a => a.names .s v (.k 1)
  | .second shift i, .imm v =>
    let wide := shift || a.bits.testBit 15
    (a.put 0 8 (if wide then 0 else -128) (if wide then 255 else 127) 0 v).map fun a => a.set (2 ^ i)
  | .scale, .imm (.num n) =>
    match n with
    | 1 => some a
    | 4 => some (a.set (2 ^ 6))
    | 8 => some (a.set (2 * 2 ^ 6))
    | 16 => some (a.set (3 * 2 ^ 6))
    | _ => none
  | .lit, .imm v => a.put 32 32 (-2 ^ 31) (2 ^ 32 - 1) 0 v
  | .lit, .real w => some (a.set (w.toNat * 2 ^ 32))
  | .target at' width, .name t => some { a with fixes := a.fixes ++ [{ at' := at', width := width, rel := true, lo := 0, hi := 0, bias := 0, name := t }] }
  | .special at', .name t => (codeOf specials t).map fun n => a.set (n * 2 ^ at')
  | .csr, .name t => (codeOf controls t).map fun n => a.set (n * 2 ^ 32)
  | .mem _, .mem .s b none o q => a.based .s b o q
  | .mem true, .mem .s b (some i) o q => do
    let a ← a.based .s b o q
    (a.put 0 8 0 255 0 i.1).map fun a => a.index i
  | .window, .mem .w b none o q => a.based .w b o q
  | .window, .mem .w b (some i) o q => do
    let a ← a.based .w b o q
    (a.put 0 8 0 255 0 i.1).map fun a => a.index i
  | .remote, .mem .s b none o q => a.based .s b o q
  | .remote, .mem .s b (some i) o q => do
    if i.1 = .num ((a.bits % 256 : Nat) + 1) ∧ a.bits % 2 = 0 then (a.based .s b o q).map fun a => a.index i else none
  | .tile, .mem .s b none o q =>
    if q = {} then do
      let a ← a.put 0 6 0 63 0 b
      let a ← a.put 48 16 (-32768) 32767 0 o
      some (a.names .s b (.k 1))
    else none
  | .address, .mem .s b none (.num 0) q =>
    if q = {} then (a.put 8 6 0 63 0 b).map fun a => a.names .s b (.k 2) else none
  | _, _ => none

/-! ### Forms -/

/-- A group of suffixes, one of which must or may be written, with the bits each sets. -/
structure Suf where
  must : Bool
  alts : List (String × Nat)
  deriving DecidableEq, Repr

/-- A form: mnemonic, opcode, words, suffixes in the order written, operands; whether it is long-latency, and whether
its result then goes to its first operand. -/
structure Form where
  name  : String
  op    : Nat
  two   : Bool := false
  sufs  : List Suf := []
  slots : List Slot := []
  long  : Bool := false
  dest  : Bool := false
  bits  : Nat := 0
  deriving DecidableEq, Repr

/-- One suffix of a group that may be left out. -/
def may (s : String) (bits : Nat) : Suf := ⟨false, [(s, bits)]⟩

/-- Suffixes with consecutive codes from a first, at a place. -/
def codes (l : List String) (at' : Nat) (first : Nat := 0) : List (String × Nat) :=
  l.zipIdx.map fun x => (x.1, (x.2 + first) * 2 ^ at')

def must (l : List String) (at' : Nat) (first : Nat := 0) : Suf := ⟨true, codes l at' first⟩

def vd : Slot := .reg .v 16
def va : Slot := .reg .v 8
def vb : Slot := .reg .v 0
def sd : Slot := .reg .s 16
def sa : Slot := .reg .s 8
def sb : Slot := .reg .s 0
def pd : Slot := .reg .p 16
def pa : Slot := .reg .p 8
def pb : Slot := .reg .p 0

/-- Forms of format A with one list of operands. -/
def fmA (names : List (String × Nat)) (slots : List Slot) : List Form :=
  names.map fun x => { name := x.1, op := x.2, slots := slots }

/-- Control instructions (R157 to R172); `macro` has a form of its own (R153). -/
def controlForms : List Form :=
  fmA [("nop", 0x00), ("join", 0x07), ("exit", 0x0C), ("yield", 0x0E)] [] ++
  [{ name := "bra", op := 0x01, slots := [.target 0 24] },
   { name := "bsz", op := 0x02, two := true, slots := [sa, .target 32 32] },
   { name := "bsnz", op := 0x03, two := true, slots := [sa, .target 32 32] },
   { name := "brp", op := 0x04, two := true, slots := [.mask 8 16, .target 48 16, .target 32 16] },
   { name := "bany", op := 0x05, two := true, slots := [pa, .target 32 32] },
   { name := "ball", op := 0x06, two := true, slots := [pa, .target 32 32] },
   { name := "jmpi", op := 0x08, two := true, slots := [va, sb, .target 32 32] },
   { name := "jmpi", op := 0x08, two := true, slots := [sb], bits := 2 ^ 16 },
   { name := "call", op := 0x09, two := true, slots := [sd, .target 32 32] },
   { name := "calli", op := 0x0A, slots := [sd, sa] },
   { name := "ret", op := 0x0B, slots := [sa] },
   { name := "trap", op := 0x0F, slots := [.imm 0 8 0 255] }]

/-- The integer conditions of Table 5, and all of them. -/
def intConds : List String := ["eq", "ne", "lt", "le", "gt", "ge"]
def conds : List String := intConds ++ ["ord", "uno", "ueq", "une", "ult", "ule", "ugt", "uge"]
def bitOps : List String := ["cnt", "clz", "ctz", "rev", "bswap"]

/-- Uniform scalar instructions (R174 to R183). -/
def scalarForms : List Form :=
  ([("sadd", 0x10, false), ("ssub", 0x11, false), ("smul", 0x12, false), ("smulh", 0x13, false), ("sdiv", 0x14, false),
    ("srem", 0x15, false), ("sand", 0x16, false), ("sor", 0x17, false), ("sxor", 0x18, false), ("sshl", 0x19, true),
    ("sshr", 0x1A, true), ("ssra", 0x1B, true), ("smin", 0x1C, false), ("smax", 0x1D, false)].map
      fun (n, op, shift) => { name := n, op := op, sufs := [may "w" (2 ^ 22), may "u" (2 ^ 15)],
                              slots := [sd, sa, .second shift 23] }) ++
  [{ name := "scmp", op := 0x1E, sufs := [must intConds 19, may "u" (2 ^ 15)], slots := [pd, sa, .second false 14] },
   { name := "ssel", op := 0x1F, two := true, sufs := [may "all" (2 ^ 35)], slots := [sd, sa, sb, .reg .p 32] },
   { name := "smov", op := 0x20, slots := [sd, sa] },
   { name := "sli", op := 0x21, two := true, sufs := [⟨false, codes ["sx", "hi"] 8 1⟩], slots := [sd, .lit] },
   { name := "slea", op := 0x22, slots := [sd, sa, sb, .scale] },
   { name := "sbfe", op := 0x23, two := true, sufs := [may "sx" (2 ^ 48)], slots := [sd, sa, .imm 32 6 0 63, .imm 40 7 1 64] },
   { name := "sbfi", op := 0x24, two := true, slots := [sd, sa, .imm 32 6 0 63, .imm 40 7 1 64] },
   { name := "sbit", op := 0x25, sufs := [must bitOps 0, may "w" (2 ^ 22)], slots := [sd, sa] },
   { name := "sr", op := 0x26, slots := [sd, .special 8] },
   { name := "sw", op := 0x27, slots := [.special 16, sa] }]

/-- Vector integer, move and mode instructions (R190 to R195, R214). -/
def vectorForms : List Form :=
  fmA [("add", 0x28), ("sub", 0x29), ("mul", 0x2A), ("mulh", 0x2B), ("mad", 0x2C), ("min", 0x2D), ("max", 0x2E),
       ("and", 0x31), ("or", 0x32), ("xor", 0x33), ("shl", 0x35), ("shr", 0x36), ("sra", 0x37), ("rot", 0x38)] [vd, va, vb] ++
  fmA [("abs", 0x2F), ("neg", 0x30), ("not", 0x34), ("mov", 0x3E)] [vd, va] ++
  [{ name := "bfe", op := 0x39, two := true, slots := [vd, va, .imm 32 5 0 31, .imm 40 6 1 32] },
   { name := "bfi", op := 0x3A, two := true, slots := [vd, va, .imm 32 5 0 31, .imm 40 6 1 32] },
   { name := "bcnt", op := 0x3B, sufs := [must bitOps 0], slots := [vd, va] },
   { name := "cmp", op := 0x3C, sufs := [must intConds 19], slots := [pd, va, vb] },
   { name := "sel", op := 0x3D, two := true, slots := [vd, va, vb, .mask 32 35] },
   { name := "movs", op := 0x3F, sufs := [may "hi" (2 ^ 14)], slots := [vd, sa] },
   { name := "li", op := 0x40, two := true, slots := [vd, .lit] },
   { name := "lid", op := 0x41, slots := [vd] },
   { name := "mode", op := 0x6E, slots := [.imm 0 24 0 0xFFFFFF] },
   { name := "modes", op := 0x6F, slots := [sa] }]

/-- Vector floating instructions (R196 to R200): `fdiv` alone is long-latency. -/
def floatForms : List Form :=
  fmA [("fadd", 0x42), ("fsub", 0x43), ("fmul", 0x44), ("ffma", 0x45), ("fmin", 0x46), ("fmax", 0x47)] [vd, va, vb] ++
  fmA [("fabs", 0x48), ("fneg", 0x49), ("frcp", 0x4B), ("frsq", 0x4C), ("fsqrt", 0x4D), ("fexp2", 0x4F), ("flog2", 0x50),
       ("fsin", 0x51), ("fcos", 0x52), ("fclass", 0x53), ("fround", 0x54)] [vd, va] ++
  [{ name := "fcmp", op := 0x4A, sufs := [must conds 19], slots := [pd, va, vb] },
   { name := "fdiv", op := 0x4E, slots := [vd, va, vb], long := true, dest := true }]

/-- The format codes of the conversions. -/
def fmtNames : List String :=
  ["f32", "f16", "bf16", "e4m3", "e5m2", "i8", "n8", "i16", "n16", "i32", "n32", "i64", "n64"]

/-- Conversions (R201 to R207). -/
def convertForms : List Form :=
  let quad : String → Nat → Nat → Nat → List Form := fun n op d a =>
    [{ name := n, op := op, two := true, sufs := [must ["e4m3", "e5m2"] 32], slots := [.reg .v 16 (.k d), .reg .v 8 (.k a)] },
     { name := n, op := op, two := true, sufs := [must ["e4m3", "e5m2"] 32], bits := 2 ^ 33,
       slots := [.reg .v 16 (.k d), .reg .v 8 (.k a), vb] }]
  [{ name := "cvtf", op := 0x55, sufs := [must (fmtNames.take 5) 4, must fmtNames 0],
     slots := [vd, .reg .v 8 (.byCode 0)] },
   { name := "cvti", op := 0x56, sufs := [must (fmtNames.drop 5) 4 5, must fmtNames 0],
     slots := [.reg .v 16 (.byCode 4), .reg .v 8 (.byCode 0)] }] ++
  quad "cvtq" 0x57 1 4 ++ quad "cvtd" 0x58 4 1 ++
  [{ name := "pk", op := 0x59, slots := [vd, va, vb] },
   { name := "upk", op := 0x5A, slots := [vd, va, .imm 0 8 0 1] },
   { name := "sp8x", op := 0x5B, slots := [vd, va, .imm 0 8 0 3] },
   { name := "i4x", op := 0x5C, two := true, slots := [vd, va, vb, .imm 32 2 0 3] }]

def foldOps : List String := ["add", "min", "max", "and", "or", "xor"]

/-- Lane, predicate and mask instructions (R208 to R213). -/
def laneForms : List Form :=
  let all := may "all" (2 ^ 19)
  [{ name := "shfl", op := 0x5D, slots := [vd, va, vb] },
   { name := "shflx", op := 0x5E, two := true, sufs := [must ["xor", "up", "dn"] 42], slots := [vd, va, .imm 32 10 0 1023] },
   { name := "bcast", op := 0x5F, slots := [sd, va, sb] },
   { name := "bcast", op := 0x5F, sufs := [must ["first"] 6 1], slots := [sd, va] },
   { name := "vote", op := 0x60, sufs := [must ["any", "all"] 6], slots := [sd, pa] },
   { name := "vote", op := 0x60, sufs := [must ["ballot"] 6 2], slots := [sd, pa, .imm 0 4 0 15] },
   { name := "mcnt", op := 0x61, slots := [sd, pa] },
   { name := "scan", op := 0x62, sufs := [must foldOps 0], slots := [vd, va] },
   { name := "red", op := 0x63, sufs := [must foldOps 0], slots := [sd, va] },
   { name := "rank", op := 0x64, slots := [vd, pa] },
   { name := "compact", op := 0x65, slots := [vd, va, pb] }] ++
  ([("pand", 0x66), ("por", 0x67), ("pxor", 0x68)].map
    fun (n, op) => { name := n, op := op, sufs := [all], slots := [pd, pa, pb] }) ++
  ([("pnot", 0x69), ("pmov", 0x6A)].map fun (n, op) => { name := n, op := op, sufs := [all], slots := [pd, pa] }) ++
  [{ name := "pset", op := 0x6B, sufs := [must ["clr", "set"] 6, all], slots := [pd] },
   { name := "pset", op := 0x6B, sufs := [must ["sc"] 6 2, all], slots := [pd, sa, .imm 0 4 0 15] },
   { name := "xmset", op := 0x6C, slots := [.mask 8 11] },
   { name := "xmget", op := 0x6D, slots := [pd] }]

/-- The atomic operations of Table 5. -/
def atomNames : List String :=
  ["add", "and", "or", "xor", "smin", "smax", "umin", "umax", "fadd", "fmin", "fmax", "incw", "decw", "cas", "xchg"]

/-- Memory, remote and atomic instructions (R251 to R275), and the fused accesses and monitors (R306, R312). -/
def memoryForms : List Form :=
  let sx := may "sx" (2 ^ 52)
  let data := Slot.data 1 1
  let load := fun (n : String) (op : Nat) (sufs : List Suf) (l : Bool) =>
    ({ name := n, op := op, two := true, sufs := sufs, slots := [data, .mem true], long := l, dest := l } : Form)
  let bare := fun (n : String) (op : Nat) (sufs : List Suf) =>
    ({ name := n, op := op, two := true, sufs := sufs, slots := [.mem true] } : Form)
  let peer := fun (n : String) (op : Nat) (sufs : List Suf) (d : Bool) =>
    ({ name := n, op := op, two := true, sufs := sufs, slots := [data, vb, .remote], long := true, dest := d } : Form)
  let swap := fun (n : String) (op vec uni : Nat) =>
    ({ name := n, op := op, two := true, slots := [.data vec uni, .mem true], long := true, dest := true } : Form)
  let ops := fun (n : Nat) => must (atomNames.take n) 52
  [load "lds" 0x70 [sx] false, load "sts" 0x71 [] false, load "ldsf" 0x72 [may "peek" (2 ^ 52)] true,
   load "ldse" 0x73 [] true, load "stsf" 0x74 [] false, load "stsx" 0x75 [] false,
   bare "feclr" 0x76 [], bare "feset" 0x77 [], load "feq" 0x78 [] true, load "ldg" 0x79 [sx] true,
   load "stg" 0x7A [] false, bare "pfg" 0x7B [], bare "cwb" 0x7C [may "span" (2 ^ 52)], bare "cinv" 0x7D [may "span" (2 ^ 52)],
   { name := "ldp", op := 0x7E, two := true, sufs := [sx], slots := [data, .window], long := true, dest := true },
   peer "rld" 0x7F [sx] true, peer "rst" 0x80 [] false, peer "ratm" 0x81 [ops 13] false, peer "ratmr" 0x82 [ops 15] true,
   load "atm" 0x83 [ops 13] false, load "atmr" 0x84 [ops 13] true,
   swap "cas" 0x85 2 2, swap "cas128" 0x86 2 4, swap "xchg" 0x87 1 1,
   { name := "marm", op := 0xA7, two := true, slots := [sd, .mem false] },
   load "ldacq" 0xB1 [sx] true, load "strel" 0xB2 [] false]

def outNames : List String := ["f32", "f16", "bf16", "e4m3", "e5m2", "i32"]

/-- Matrix instructions (R285 to R298). -/
def matrixForms : List Form :=
  fmA [("tclaim", 0x90)] [sd] ++ fmA [("trel", 0x91), ("tzero", 0x99)] [sa] ++
  [{ name := "tld", op := 0x92, two := true, slots := [sa, .tile, .imm 32 7 0 63, .imm 40 7 1 64 1] },
   { name := "tfmt", op := 0x93, slots := [sa, sb] },
   { name := "mma", op := 0x94, two := true, slots := [sa, sb, .imm 32 9 1 256] },
   { name := "mmaz", op := 0x95, two := true, slots := [sa, sb, .imm 32 9 1 256] },
   { name := "mclr", op := 0x96, slots := [.imm 0 8 1 3] },
   { name := "mdrain", op := 0x97, two := true, sufs := [must outNames 32, may "clr" (2 ^ 37)], slots := [vd, sa] },
   { name := "mdrain", op := 0x97, two := true, bits := 2 ^ 38, long := true,
     sufs := [must outNames 32, ⟨false, codes ["add", "max"] 35 1⟩, may "clr" (2 ^ 37), may "w" (2 ^ 39)],
     slots := [.address] },
   { name := "mcoop", op := 0x98, two := true, sufs := [may "z" (2 ^ 41)],
     slots := [sa, sb, .imm 32 9 1 256, .imm 48 3 1 8 1, .imm 52 4 1 12 1] },
   { name := "ttrans", op := 0x9A, slots := [sd, sa, .imm 0 8 1 2] }]

/-- Synchronisation instructions (R305 to R320); `flwait` takes a list of flags. -/
def syncForms : List Form :=
  [{ name := "fence", op := 0xA0,
     sufs := [must ["acq", "rel", "ar"] 3 1, must ["team", "crew", "clu", "die", "dev", "sys", "pod"] 0] },
   { name := "twany", op := 0xA2, slots := [sd, sa] },
   { name := "twall", op := 0xA3, slots := [sa] },
   { name := "tclr", op := 0xA5, slots := [.imm 0 6 0 63] },
   { name := "bar", op := 0xA6, sufs := [must ["crew", "clu", "die", "grid"] 0], slots := [.imm 2 2 0 3] },
   { name := "mwait", op := 0xA8, slots := [sd, sa] },
   { name := "grfree", op := 0xAD, slots := [sd, .reg .s 8 (.k 2)] },
   { name := "grpop", op := 0xAE, slots := [.reg .s 16 (.k 2)] }] ++
  fmA [("tffr", 0xA4), ("grq", 0xAB), ("grwait", 0xAC), ("step", 0xAF), ("stepq", 0xB0)] [sd] ++
  fmA [("grin", 0xA9), ("grout", 0xAA)] []

/-- Engine commands (R325 to R338, R350, R362). -/
def engineForms : List Form :=
  let tag := Slot.imm 0 6 0 63
  let held : Suf := ⟨true, [("hold", 2 ^ 6)]⟩
  [{ name := "cpy", op := 0xC0, sufs := [may "sp" (2 ^ 7)], slots := [sa, tag] },
   { name := "cpy", op := 0xC0, sufs := [may "sp" (2 ^ 7), held], slots := [sd, sa, tag], long := true, dest := true },
   { name := "cpyx", op := 0xC1, slots := [sa, tag] },
   { name := "cpyx", op := 0xC1, sufs := [held], slots := [sd, sa, tag], long := true, dest := true }] ++
  fmA [("gath", 0xC2), ("kvap", 0xC3), ("kvseal", 0xC4), ("kvcopy", 0xC5), ("coll", 0xC7)] [sa, tag] ++
  [{ name := "smpl", op := 0xC6, slots := [sd, sa, tag] },
   { name := "spawn", op := 0xC8, slots := [sa, .reg .v 0 .byLen, .imm 16 3 1 8 1] },
   { name := "launch", op := 0xC9, sufs := [may "hold" 1], slots := [sd, sa], long := true, dest := true }] ++
  ([("resolve", 0xCA), ("wqpop", 0xCB), ("wqpush", 0xCC), ("cntp", 0xCD)].map
    fun (n, op) => { name := n, op := op, slots := [sd, sa, sb], long := true, dest := true })

/-- System instructions (R400 to R406). -/
def systemForms : List Form :=
  [{ name := "csrr", op := 0xD0, two := true, slots := [sd, .csr] },
   { name := "csrw", op := 0xD1, two := true, sufs := [⟨false, codes ["set", "clr"] 16 1⟩], slots := [.csr, sa] },
   { name := "tret", op := 0xD2, sufs := [⟨true, [("res", 0), ("kill", 2 ^ 17)]⟩], slots := [sa] },
   { name := "tret", op := 0xD2, sufs := [must ["res", "val", "kill"] 16], slots := [sa, sb] },
   { name := "ecall", op := 0xD3, slots := [.imm 0 8 0 255] },
   { name := "tlbi", op := 0xD4, sufs := [must ["page", "ctx", "part"] 0], slots := [sd, sa] },
   { name := "tlbi", op := 0xD4, sufs := [must ["ctx"] 0 1], slots := [sa] },
   { name := "tlbi", op := 0xD4, sufs := [must ["part"] 0 2] },
   { name := "frz", op := 0xD5, sufs := [may "thaw" 1], slots := [sa] },
   { name := "wfi", op := 0xD6, slots := [sd, sa] },
   { name := "sfence", op := 0xD7 }]

def forms : List Form :=
  controlForms ++ scalarForms ++ vectorForms ++ floatForms ++ convertForms ++ laneForms ++ memoryForms ++ matrixForms ++
    syncForms ++ engineForms ++ systemForms

/-! ### Reading an instruction -/

/-- The bits of the suffixes written, group by group. -/
def sufBits : List Suf → List Text → Option Nat
  | [], [] => some 0
  | [], _ :: _ => none
  | g :: gs, ts =>
    match ts with
    | [] => if g.must then none else sufBits gs []
    | t :: rest =>
      match g.alts.find? fun x => x.1.toList == t with
      | some x => (sufBits gs rest).map fun n => n + x.2
      | none => if g.must then none else sufBits gs ts

/-- A branch target is a label whatever else its name could be read as. -/
def Slot.taken (s : Slot) (t : Text) (o : Operand) : Operand :=
  match s with
  | .target _ _ => if isName t then .name t else o
  | _ => o

/-- Every operand, with its text, into its slot. -/
def Asm.fillAll : List Slot → List (Text × Operand) → Asm → Option Asm
  | [], [], a => some a
  | s :: ss, (t, o) :: os, a => (a.fill s (s.taken t o)).bind (fillAll ss os)
  | _, _, _ => none

/-- The fields that hold parameters hold nothing else. -/
def Asm.clean (a : Asm) : Bool := a.subs.all fun x => a.bits / 2 ^ x.1 % 256 == x.2

/-- Operands that fit their places but not each other: the rows of `tld` (R287), and the registers that a kind of
`tlbi` does not take (R403). -/
def Asm.fits (a : Asm) : Bool :=
  let field := fun (at' n : Nat) => a.bits / 2 ^ at' % n
  if a.op = 0x92 then decide (field 32 128 + field 40 128 < 64)
  else if a.op = 0xD4 then
    (field 0 4 == 0) || ((field 16 64 == 0) && (field 0 4 == 1 || field 8 64 == 0))
  else true

/-- An instruction in a form. -/
def Form.read (f : Form) (sufs : List Text) (ops : List (Text × Operand)) : Option Asm := do
  let n ← sufBits f.sufs sufs
  let a ← Asm.fillAll f.slots ops ⟨f.op, f.two, f.long, f.dest, f.op * 2 ^ 24 + f.bits + n, [], [], []⟩
  if a.clean && a.fits then some a else none

/-- The flags of `flwait`: bit i names flag i (R307). -/
def readFlags (ops : List Operand) : Option Nat :=
  ops.foldlM (fun m o => match o with
    | .reg .f (.num n) => some (m ||| 2 ^ n.toNat)
    | _ => none) 0

/-- An instruction but `macro`: the first form of its mnemonic that it fits. -/
def readInstr (ps : List Text) (cs : List (Text × Int)) (head : Text) (ops : List Text) : Option Asm := do
  let os ← ops.mapM (readOperand ps cs)
  match cutAt '.' [] head with
  | [] => none
  | name :: sufs =>
    if name = "flwait".toList ∧ sufs = [] ∧ os ≠ [] then
      (readFlags os).map fun m => ⟨0xA1, false, false, false, 0xA1 * 2 ^ 24 + m, [], [], []⟩
    else (forms.filter fun f => f.name.toList == name).findSome? fun f => f.read sufs (ops.zip os)

/-! ### Registers -/

/-- A register of the vector or uniform file. -/
abbrev Reg := RegClass × Nat

/-- How many registers a touched one takes in. -/
def Asm.count (a : Asm) : Cnt → Nat
  | .k n => n
  | .bySize vec uni =>
    if vec = 0 then uni
    else match a.bits / 2 ^ 61 with
      | 3 => 2 * vec
      | 4 => 4 * vec
      | _ => vec
  | .byLen => a.bits / 2 ^ 16 % 8 + 1
  | .byCode at' => if 11 ≤ a.bits / 2 ^ at' % 16 then 2 else 1

/-- The registers of a touch; a macro's parameters have the values p0 and p1. -/
def Asm.regsOf (a : Asm) (p0 p1 : Nat) (t : Touch) : List Reg :=
  let first := match t.v with
    | .num n => n.toNat
    | .par y off => ((if y then p1 else p0) + off) % 256
    | .sym .. => 0
  (List.range (a.count t.cnt)).map fun i => (t.c, first + i)

/-- The registers that an instruction reads or writes, as its text names them. -/
def Asm.regs (a : Asm) (p0 p1 : Nat) : List Reg := a.touch.flatMap (a.regsOf p0 p1)

/-- The registers that become pending on its flag: those that it writes. Of the group that `cas` and `cas128` name, they are
the first half, the comparand (R273). -/
def Asm.dests (a : Asm) : List Reg :=
  let l := if a.dest then (a.touch.head?.map (a.regsOf 0 0)).getD [] else []
  if a.op = 0x85 ∨ a.op = 0x86 then l.take (l.length / 2) else l

end Sys2Proof.Plynas
end

