-- ==== Sys2Proof/Machine/Assembler.lean ====
section
/-! DEFINITION. The assembler plynas (R145 to R154, R498, R499): clauses written and clauses formed, directives, kernel
layouts, macros, and the image with its sections. -/

namespace Sys2Proof.Plynas

open Sys2Proof.Machine

/-! ### What is assembled -/

inductive AsmErr where
  /-- An instruction or an operand that no form takes, or a value out of range (R146). -/
  | instruction
  /-- A directive unknown, misplaced, or with operands that Table 12 does not give. -/
  | directive
  /-- A layout that R499 does not allow. -/
  | layout
  /-- A clause of no words or of more than 64, a bad flag, or an instruction outside an explicit clause (R148). -/
  | clause
  /-- A macro body or use against R152 or R153. -/
  | macroUse
  /-- A symbol defined twice, not at all, or too far for its place. -/
  | symbol
  deriving DecidableEq, Repr

inductive Sec where
  | text | rodata | data
  deriving DecidableEq, Repr

/-- Words that are emitted together, with the places that symbols fill. -/
structure Chunk where
  words : Nat
  bits  : Nat
  fixes : List Fix
  deriving DecidableEq, Repr

/-- A region: its chunks, the last first, and its bytes. -/
structure Region where
  chunks : List Chunk
  len    : Nat
  deriving DecidableEq, Repr

def Region.add (g : Region) (c : Chunk) : Region := ⟨c :: g.chunks, g.len + 4 * c.words⟩

/-- A clause in the making: its wait mask, its flags in slot order, the registers that its own flags hold, its words
(the last first), and whether it is closed. -/
structure Clause where
  wait  : Nat
  flags : List Nat := []
  len   : Nat := 0
  long  : Nat := 0
  own   : List (Reg × Nat) := []
  shut  : Bool := false
  body  : List Chunk := []
  deriving DecidableEq, Repr

/-- The header word (R120, Table 1). -/
def Clause.header (c : Clause) : Nat :=
  let sets := match c.flags with
    | [] => 0
    | [a] => 2 ^ 15 + a * 2 ^ 11
    | a :: b :: _ => 2 ^ 15 + a * 2 ^ 11 + 2 ^ 10 + b * 2 ^ 6
  0xF * 2 ^ 28 + c.wait * 2 ^ 16 + sets + (c.len - 1)

/-- A macro: its name, its parameters, its operations. -/
structure Macro where
  name   : Text
  params : List Text
  ops    : List Asm
  deriving DecidableEq, Repr

/-- A team as it is declared. -/
structure TeamLine where
  width : Nat
  role  : Option Role
  regs  : Option Nat
  deriving DecidableEq, Repr

/-- A team is declared in full: its role, and its registers where it is a vector team (R499). -/
def TeamLine.full (t : TeamLine) : Bool := t.role.isSome && (t.width == 1) != t.regs.isSome

def TeamLine.desc (t : TeamLine) : TeamDesc := ⟨t.width, t.role.getD .work, t.regs.getD 0⟩

/-- A kernel in the making. -/
structure Kernel where
  name     : Text
  /-- It holds a `clause` line. -/
  explicit : Bool
  macros   : List Macro
  crew     : Bool := false
  teams    : List TeamLine := []
  scratch  : Option Nat := none
  pool     : Option (Nat × Nat × Nat) := none
  windows  : List (Nat × Nat) := []
  /-- The offset in text of its first clause header. -/
  entry    : Option Nat := none
  /-- An instruction has been met. -/
  begun    : Bool := false
  cl       : Option Clause := none
  /-- Registers pending on flags of closed clauses that no clause has waited for, and those flags (R149). -/
  pend     : List (Reg × Nat) := []
  out      : Nat := 0
  /-- The next flag of the cycle. -/
  flag     : Nat := 0
  /-- The next clause begins at a label or at the first instruction. -/
  atLabel  : Bool := true
  deriving DecidableEq, Repr

/-- The assembler's state. -/
structure St where
  sec    : Sec := .text
  text   : Region := ⟨[], 0⟩
  rodata : Region := ⟨[], 0⟩
  data   : Region := ⟨[], 0⟩
  /-- Labels, with the kernel in which they stand. -/
  labels : List (Text × Option Text × Sec × Nat) := []
  consts : List (Text × Int)
  wanted : List Text := []
  kernel : Option Kernel := none
  done   : List Kernel := []
  /-- Inside a macro definition, whose lines have been read beforehand. -/
  skip   : Bool := false
  /-- The last kernel closed with its last clause not yet gone out, and text as it was before that clause, while nothing has
  followed it in text. -/
  tail   : Option (Region × Kernel) := none
  deriving DecidableEq, Repr

/-- Fail unless a condition holds. -/
def need (e : AsmErr) (b : Bool) : Except AsmErr Unit := if b then .ok () else .error e

def ofOption {α : Type} (e : AsmErr) : Option α → Except AsmErr α
  | some a => .ok a
  | none => .error e

def St.region (s : St) : Sec → Region
  | .text => s.text
  | .rodata => s.rodata
  | .data => s.data

def St.setRegion (s : St) (sec : Sec) (g : Region) : St :=
  match sec with
  | .text => { s with text := g }
  | .rodata => { s with rodata := g }
  | .data => { s with data := g }

def St.emit (s : St) (c : Chunk) : St :=
  { s.setRegion s.sec ((s.region s.sec).add c) with tail := if s.sec = .text then none else s.tail }

/-- Bytes of a kernel's open clause. -/
def Kernel.openLen (k : Kernel) : Nat := (k.cl.map fun c => 4 * (1 + c.len)).getD 0

/-- The offset at which the next word of the section goes. -/
def St.here (s : St) : Nat :=
  (s.region s.sec).len + (if s.sec = .text then (s.kernel.map Kernel.openLen).getD 0 else 0)

/-! ### Clauses (R148, R149) -/

def nopChunk : Chunk := ⟨1, 0, []⟩

def Clause.push (c : Clause) (x : Chunk) : Clause := { c with len := c.len + x.words, body := x :: c.body }

/-- The kernel's clause goes out; what its flags hold is pending from now on. -/
def St.flush (s : St) (k : Kernel) : Except AsmErr (St × Kernel) :=
  match k.cl with
  | none => .ok (s, k)
  | some c => do
    need .clause (c.len != 0)
    let g := c.body.reverse.foldl Region.add (s.text.add ⟨1, c.header, []⟩)
    let out := if k.explicit then k.out else c.flags.foldl (fun m f => m ||| 2 ^ f) k.out
    .ok ({ s with text := g }, { k with cl := none, pend := k.pend ++ c.own, out := out })

/-- A new clause is opened where the last one ends. -/
def St.openClause (s : St) (k : Kernel) (c : Clause) : Except AsmErr (St × Kernel) := do
  let (s, k) ← s.flush k
  .ok (s, { k with cl := some c, entry := k.entry.or (some s.text.len), atLabel := false })

/-- What the clause former has to know of some words: the registers they read or write, whether they are long-latency
and with which destinations, and whether they are a control instruction. -/
structure Info where
  regs    : List Reg := []
  long    : Bool := false
  dests   : List Reg := []
  control : Bool := false

/-- A clause and what is pending when words join it: the clause waits for the flags on which their registers are
pending, and for the flag it assigns where that is pending; a long-latency instruction takes the next flag (R149). -/
def Kernel.join (k : Kernel) (c : Clause) (x : Chunk) (i : Info) : Kernel :=
  let hit := (k.pend.filter fun p => i.regs.contains p.1).map fun p => p.2
  let fs := if i.long && k.out.testBit k.flag then hit ++ [k.flag] else hit
  let c := { c.push x with wait := fs.foldl (fun m f => m ||| 2 ^ f) c.wait, shut := i.control }
  let k := { k with pend := k.pend.filter fun p => !fs.contains p.2,
                    out := fs.foldl (fun m f => if m.testBit f then m - 2 ^ f else m) k.out }
  if i.long then
    { k with
      cl := some { c with flags := c.flags ++ [k.flag], long := c.long + 1, own := c.own ++ i.dests.map fun r => (r, k.flag) }
      flag := (k.flag + 1) % 12 }
  else { k with cl := some c }

/-- Words join the open clause, or begin a new one (R149, step 1). -/
def St.auto (s : St) (k : Kernel) (x : Chunk) (i : Info) : Except AsmErr (St × Kernel) := do
  need .clause (decide (x.words ≤ 64))
  match k.cl with
  | some c =>
    if c.shut || k.atLabel || decide (64 < c.len + x.words) || (i.long && decide (2 ≤ c.long)) ||
        (c.own.any fun p => i.regs.contains p.1) then fresh
    else .ok (s, k.join c x i)
  | none => fresh
where
  fresh : Except AsmErr (St × Kernel) := do
    let first := k.atLabel
    let (s, k) ← s.openClause k { wait := if first then 0xFFF else 0 }
    let k := if first then { k with pend := [], out := 0 } else k
    .ok (s, k.join { wait := if first then 0xFFF else 0 } x i)

/-- The symbols of some words, as a kernel uses them. -/
def usedIn (k : Text) (fs : List Fix) : List Fix := fs.map fun (f : Fix) => { f with home := some k }

/-- Words of a kernel's code. -/
def St.code (s : St) (k : Kernel) (x : Chunk) (i : Info) : Except AsmErr St :=
  let x : Chunk := { x with fixes := usedIn k.name x.fixes }
  if k.explicit then
    match k.cl with
    | none => .error .clause
    | some c => do
      need .clause (!c.shut && decide (c.len + x.words ≤ 64))
      .ok { s with kernel := some { k with cl := some (c.push x) } }
  else do
    let (s, k) ← s.auto k x i
    .ok { s with kernel := some k }

/-- `nop` words into the clause before, and into more clauses where it would pass 64 words (Table 12). -/
def St.pad (s : St) (k : Kernel) : Nat → Nat → Except AsmErr (St × Kernel)
  | 0, _ => .error .clause
  | fuel + 1, n =>
    let c := k.cl.getD { wait := 0, len := 64 }
    let fill := fun (m : Nat) => k.cl.map fun c => (List.replicate m nopChunk).foldl Clause.push c
    if n ≤ 64 - c.len then .ok (s, { k with cl := fill n })
    else if n < 2 then .error .clause
    else do
      let m := min (64 - c.len) (n - 2)
      let (s, k) ← s.openClause { k with cl := fill m } { wait := 0 }
      s.pad k fuel (n - m - 1)

/-- A clause is closed. -/
def Kernel.shut (k : Kernel) : Kernel := { k with cl := k.cl.map fun c => { c with shut := true } }

/-! ### Layout (R150, R499) -/

/-- The layout that must stand before the first instruction. -/
def Kernel.laidOut (k : Kernel) : Bool :=
  k.crew && k.scratch.isSome && k.pool.isSome && !k.teams.isEmpty && decide (k.teams.length ≤ 10) &&
  (k.teams.getLast?.map TeamLine.full).getD false

def roleOf (t : Text) : Option Role :=
  ([("work", Role.work), ("drain", .drain), ("feed", .feed), ("matrix", .matrix)].find? fun x => x.1.toList == t).map
    fun x => x.2

/-- The last declared team, changed. -/
def Kernel.lastTeam (k : Kernel) (f : TeamLine → Option TeamLine) : Option Kernel := do
  let t ← k.teams.getLast?
  let u ← f t
  some { k with teams := k.teams.dropLast ++ [u] }

/-- A layout directive: none where it does not stand as R499 says, or its operands are not those of Table 12. -/
def Kernel.layout (k : Kernel) (num : Text → Option Int) (name : Text) (ops : List Text) : Option Kernel :=
  let is := fun (x : String) => decide (name = x.toList)
  let n := (ops.head?.bind num).getD (-1)
  if is ".crew" then if ops = [] ∧ !k.crew ∧ !k.begun then some { k with crew := true } else none
  else if is ".team" then
    if k.crew ∧ !k.begun ∧ ops.length = 1 ∧ (k.teams.getLast?.map TeamLine.full).getD true ∧ k.teams.length < 10 ∧
        (n = 1 ∨ (32 ≤ n ∧ n ≤ 1024 ∧ n % 32 = 0)) then
      some { k with teams := k.teams ++ [⟨n.toNat, none, none⟩] }
    else none
  else if is ".role" then do
    let r ← (ops.head?.bind roleOf)
    k.lastTeam fun t =>
      let uniform := r == .feed || r == .matrix
      if ops.length = 1 ∧ !k.begun ∧ t.role = none ∧ uniform = (t.width == 1) then some { t with role := some r } else none
  else if is ".regs" then
    k.lastTeam fun t =>
      if ops.length = 1 ∧ !k.begun ∧ t.regs = none ∧ t.width ≠ 1 ∧ 8 ≤ n ∧ n ≤ 256 ∧ n % 8 = 0 then
        some { t with regs := some n.toNat }
      else none
  else if is ".scratch" then
    if k.crew ∧ !k.begun ∧ ops.length = 1 ∧ k.scratch = none ∧ 0 ≤ n ∧ n % 256 = 0 ∧ n < 2 ^ 21 then
      some { k with scratch := some n.toNat }
    else none
  else if is ".pool" then
    match ops.mapM num with
    | some [a, b, c] =>
      if !k.begun ∧ k.pool = none ∧ a % 16 = 0 ∧ b % 16 = 0 ∧ c % 16 = 0 ∧ 0 ≤ a ∧ a ≤ b ∧ b ≤ c ∧ c ≤ 1024 then
        some { k with pool := some (a.toNat, b.toNat, c.toNat) }
      else none
    | _ => none
  else none

/-! ### Macros (R151 to R154) -/

/-- The two words of an instruction. -/
def Asm.word (a : Asm) (i : Nat) : Word := BitVec.ofNat 32 (a.bits / 2 ^ (32 * i))

/-- An operation that a macro body may hold. -/
def Asm.inMacro (a : Asm) : Bool := macroLegal (a.word 0) (a.word 1)

/-- The macros of a kernel, in order, from its lines up to `.end`. -/
def macrosOf (cs : List (Text × Int)) : Option Macro → List Macro → List Line → Except AsmErr (List Macro)
  | none, ms, [] => .ok ms
  | some _, _, [] => .error .macroUse
  | cur, ms, l :: ls =>
    let is := fun (x : String) => decide (l.head = x.toList)
    match cur with
    | none =>
      if is ".end" then .ok ms
      else if is (".ma" ++ "cro") then do
        let name := l.rest.takeWhile fun c => !isBlank c && c != ','
        let rest := trim (l.rest.drop name.length)
        let ps := operandsOf (if rest.head? = some ',' then rest.drop 1 else rest)
        need .macroUse (isName name && ps.all isName && decide (ps.length ≤ 2) && decide (ms.length < 64) &&
          !(ms.any fun m => m.name == name))
        macrosOf cs (some ⟨name, ps, []⟩) ms ls
      else macrosOf cs none ms ls
    | some m =>
      if l.head = [] then macrosOf cs (some m) ms ls
      else if is (".endma" ++ "cro") then do
        need .macroUse (decide (m.ops ≠ []))
        macrosOf cs none (ms ++ [m]) ls
      else do
        let a ← ofOption .macroUse (readInstr m.params cs l.head (operandsOf l.rest))
        need .macroUse (l.label.isNone && a.inMacro && decide (m.ops.length < 32))
        macrosOf cs (some { m with ops := m.ops ++ [a] }) ms ls

/-- An operand of a `macro` word in a field of its bits: a register's number, or an immediate of 0 to 255 (R153), which may
be a label's offset (R498). -/
def macroArg (a : Asm) (at' : Nat) : Operand → Option Asm
  | .reg _ (.num n) => a.put at' 8 0 255 0 (.num n)
  | .imm (.num n) => a.put at' 8 0 255 0 (.num n)
  | .imm (.sym t neg) => a.put at' 8 0 255 0 (.sym t neg)
  | _ => none

/-- A `macro` word: its bits, and the registers of the operations it stands for. -/
def readMacroWord (k : Kernel) (cs : List (Text × Int)) (rest : Text) : Option (Chunk × Info) := do
  let name := rest.takeWhile fun c => !isBlank c && c != ','
  let more := trim (rest.drop name.length)
  let ops := operandsOf (if more.head? = some ',' then more.drop 1 else more)
  let n ← k.macros.findIdx? fun m => m.name == name
  let m ← k.macros[n]?
  if 2 < ops.length then none
  else
    let a ← ops.zipIdx.foldlM (fun (a : Asm) x => (readOperand [] cs x.1).bind (macroArg a (8 - 8 * x.2)))
      ⟨0x0D, false, false, false, 0x0D * 2 ^ 24 + n * 2 ^ 16, [], [], []⟩
    some (⟨1, a.bits, a.fixes⟩, { regs := m.ops.flatMap fun o => o.regs (a.bits / 2 ^ 8 % 256) (a.bits % 256), control := true })

/-! ### Lines -/

/-- The flags between parentheses after a word, and the text behind them. -/
def flagList (word : String) (t : Text) : Option (List Nat × Text) := do
  let u := t.drop word.length
  if t.take word.length ≠ word.toList ∨ u.head? ≠ some '(' then none
  else
    let body := (u.drop 1).takeWhile (· != ')')
    let fs ← (operandsOf body).mapM fun x => match readReg [] x with
      | some (.f, .num n) => some n.toNat
      | _ => none
    if fs = [] ∨ u.drop (body.length + 1) = [] then none else some (fs, trim (u.drop (body.length + 2)))

/-- A `clause` line: `wait(…)` and `set(…)`, both optional (R148). -/
def readClause (t : Text) : Option Clause := do
  let (ws, t) := (flagList "wait" t).getD ([], t)
  let (ss, t) := (flagList "set" t).getD ([], t)
  if t ≠ [] ∨ 2 < ss.length then none else some { wait := ws.foldl (fun m f => m ||| 2 ^ f) 0, flags := ss }

/-- A label (R145, R148, R149): in a kernel's code it names the next clause header, or the first word of a clause that
holds none yet. -/
def St.label (s : St) (t : Text) : Except AsmErr St := do
  let home := s.kernel.map fun k => k.name
  need .symbol (!(s.labels.any fun l => l.1 == t && l.2.1 == home) && (s.consts.lookup t).isNone)
  let s := { s with labels := s.labels ++ [(t, home, s.sec, s.here)] }
  match s.kernel with
  | some k =>
    if s.sec ≠ .text ∨ (k.explicit ∧ (k.cl.any fun c => c.len == 0)) then .ok s
    else .ok { s with kernel := some { k.shut with atLabel := true } }
  | none => .ok s

/-- The words of `.word`. -/
def wordsOf (cs : List (Text × Int)) (ops : List Text) : Option Chunk := do
  let vs ← ops.mapM fun t => match readInt t with
    | some n => some (Val.num n)
    | none => if isName t then some (nameVal cs t) else none
  let a ← vs.zipIdx.foldlM (fun (a : Asm) x => a.put (32 * x.2) 32 (-2 ^ 31) (2 ^ 32 - 1) 0 x.1) ⟨0, false, false, false, 0, [], [], []⟩
  if vs = [] then none else some ⟨vs.length, a.bits, a.fixes⟩

/-- `.align` (Table 12): between clauses in code, also behind a kernel's `.end`; zero bytes in data. A clause has no fewer than
two words with its header, so that one word behind a full clause becomes the next multiple of n. -/
def St.align (s : St) (n : Nat) : Except AsmErr St :=
  let gap := (n - s.here % n) % n / 4
  match s.kernel with
  | some k =>
    if s.sec = .text then do
      if gap = 0 then .ok { s with kernel := some k.shut }
      else
        let gap := if gap = 1 ∧ (k.cl.map fun c => c.len) = some 64 then gap + n / 4 else gap
        let first := k.atLabel
        let (s, k) ← s.pad k (gap + 1) gap
        .ok { s with kernel := some { k.shut with atLabel := first } }
    else .ok (s.emit ⟨gap, 0, []⟩)
  | none =>
    if gap = 0 then .ok s
    else
      match s.sec, s.tail with
      | .text, some (g, k) => do
        let gap := if gap = 1 ∧ (k.cl.map fun c => c.len) = some 64 then gap + n / 4 else gap
        let (s, k) ← ({ s with text := g } : St).pad k (gap + 1) gap
        let before := s.text
        let (s, last) ← s.flush k
        .ok { s with done := s.done.dropLast ++ [last], tail := some (before, k) }
      | _, _ => .ok (s.emit ⟨gap, 0, []⟩)

def powerOfTwo (n : Nat) : Bool := decide (4 ≤ n) && 2 ^ Nat.log2 n == n

/-- The lines of a kernel up to `.end` hold a `clause` line. -/
def holdsClause (ls : List Line) : Bool :=
  (ls.takeWhile fun l => decide (l.head ≠ ".end".toList)).any fun l => l.head == "clause".toList

/-- A kernel is opened (Table 12). -/
def St.openKernel (s : St) (name : Text) (ls : List Line) : Except AsmErr St := do
  need .directive (isName name && s.kernel.isNone && decide (s.sec = .text) && !(s.done.any fun k => k.name == name))
  let ms ← macrosOf s.consts none [] ls
  .ok { s with kernel := some { name := name, explicit := holdsClause ls, macros := ms }, tail := none }

/-- A kernel is closed: it has an entry. -/
def St.closeKernel (s : St) : Except AsmErr St := do
  let k ← ofOption .directive s.kernel
  need .layout k.begun
  let before := s.text
  let (s, last) ← s.flush k
  .ok { s with kernel := none, done := s.done ++ [last], tail := some (before, k) }

/-- A directive, with the lines behind it. One other than `.word` ends a clause that is written (R148), and none of those that
the assembler forms but where it closes the kernel or aligns (R149, R150). -/
def St.directive (s : St) (l : Line) (ls : List Line) : Except AsmErr St := do
  let is := fun (x : String) => decide (l.head = x.toList)
  let ops := operandsOf l.rest
  let num := fun (t : Text) => (readInt t).or (s.consts.lookup t)
  let n := (ops.head?.bind num).getD (-1)
  if is ".word" then
    let c ← ofOption .directive (wordsOf s.consts ops)
    match s.kernel with
    | some k => if s.sec = .text then s.code k c {} else .ok (s.emit c)
    | none => .ok (s.emit c)
  else
    let s := { s with kernel := s.kernel.map fun k => if k.explicit then k.shut else k }
    if is ".kernel" then s.openKernel l.rest ls
    else if is ".end" then do
      need .directive (decide (ops = []))
      s.closeKernel
    else if is (".ma" ++ "cro") then do
      need .directive s.kernel.isSome
      .ok { s with skip := true }
    else if is (".sec" ++ "tion") then
      if l.rest = "text".toList then .ok { s with sec := .text }
      else if l.rest = "rodata".toList then .ok { s with sec := .rodata }
      else if l.rest = "data".toList then .ok { s with sec := .data }
      else .error .directive
    else if is ".global" then do
      need .directive (isName l.rest)
      .ok { s with wanted := s.wanted ++ [l.rest] }
    else if is ".align" then do
      need .directive (decide (ops.length = 1) && decide (0 ≤ n) && powerOfTwo n.toNat)
      s.align n.toNat
    else if is ".const" then .ok s
    else if is ".window" then
      match ops, s.kernel with
      | [w, b], some k => do
        match readReg [] w, num b with
        | some (.w, .num i), some b => do
          need .directive (decide (0 ≤ b))
          .ok { s with kernel := some { k with windows := k.windows ++ [(i.toNat, b.toNat)] } }
        | _, _ => .error .directive
      | _, _ => .error .directive
    else do
      let k ← ofOption .directive s.kernel
      let k ← ofOption .layout (k.layout num l.head ops)
      .ok { s with kernel := some k }

/-- An instruction or a `clause` line: in a kernel's text, after its layout. -/
def St.instr (s : St) (l : Line) : Except AsmErr St := do
  let k ← ofOption .directive s.kernel
  need .directive (decide (s.sec = .text))
  need .layout (k.begun || k.laidOut)
  let k := { k with begun := true }
  if l.head = "clause".toList then do
    let c ← ofOption .clause (readClause l.rest)
    let (s, k) ← s.openClause k c
    .ok { s with kernel := some k }
  else if l.head = ("ma" ++ "cro").toList then do
    let x ← ofOption .macroUse (readMacroWord k s.consts l.rest)
    s.code k x.1 x.2
  else do
    let a ← ofOption .instruction (readInstr [] s.consts l.head (operandsOf l.rest))
    s.code k ⟨a.words, a.bits, a.fixes⟩ { regs := a.regs 0 0, long := a.long, dests := a.dests, control := a.control }

/-- One line. -/
def St.line (s : St) (l : Line) (ls : List Line) : Except AsmErr St := do
  if s.skip then .ok { s with skip := decide (l.head ≠ (".endma" ++ "cro").toList) }
  else
    let s ← match l.label with
      | some t => s.label t
      | none => .ok s
    match l.head with
    | [] => .ok s
    | '.' :: _ => s.directive l ls
    | _ => s.instr l

/-- All lines; an error carries its line's number. -/
def St.lines (s : St) : Nat → List Line → Except (Nat × AsmErr) St
  | _, [] => .ok s
  | n, l :: ls =>
    match s.line l ls with
    | .ok s => s.lines (n + 1) ls
    | .error e => .error (n, e)

/-! ### The image (R498) -/

/-- The constants of a file. -/
def constsOf : List Line → Option (List (Text × Int))
  | [] => some []
  | l :: ls => do
    let cs ← constsOf ls
    if l.head = ".const".toList then
      match operandsOf l.rest with
      | [t, v] => do
        let n ← readInt v
        if isName t ∧ (cs.lookup t).isNone then some ((t, n) :: cs) else none
      | _ => none
    else some cs

def pageUp (n : Nat) : Nat := (n + 4095) / 4096 * 4096

/-- Where a section's region starts in the image. -/
def St.start (s : St) : Sec → Nat
  | .text => 0
  | .rodata => pageUp s.text.len
  | .data => pageUp (pageUp s.text.len + s.rodata.len)

/-- A symbol's value, as a kernel or none uses it: the offset from the image base of a label of the same kernel, or of
the first of that name, or a constant. -/
def St.value (s : St) (home : Option Text) (t : Text) : Option Int :=
  match (s.labels.find? fun l => l.1 == t && l.2.1 == home).or (s.labels.find? fun l => l.1 == t) with
  | some (_, _, sec, n) => some ((s.start sec + n : Nat) : Int)
  | none => s.consts.lookup t

/-- A symbol into its place, for an instruction at an offset (R124). -/
def St.fix (s : St) (at' : Nat) (bits : Nat) (f : Fix) : Option Nat := do
  let v := (if f.neg then -1 else 1) * (← s.value f.home f.name)
  let put := fun (n lo hi : Int) => if lo ≤ n ∧ n ≤ hi then some (bits + (n % 2 ^ f.width).toNat * 2 ^ f.at') else none
  if f.rel then
    let d := v - (at' : Int)
    if d % 4 = 0 then put (d / 4) (-(2 ^ (f.width - 1) : Nat)) ((2 ^ (f.width - 1) : Nat) - 1) else none
  else put (v - f.bias) (f.lo - f.bias) (f.hi - f.bias)

/-- The bytes of a region's chunks from an offset on. -/
def St.bytes (s : St) : Nat → List Chunk → Option (List Byte)
  | _, [] => some []
  | at', c :: cs => do
    let n ← c.fixes.foldlM (s.fix at') c.bits
    let rest ← s.bytes (at' + 4 * c.words) cs
    some (leBytes (4 * c.words) n ++ rest)

/-- A kernel as it is recorded: its entry from the image base, and its layout (R150). -/
structure KernelOut where
  name    : Text
  entry   : Nat
  pool    : Nat × Nat × Nat
  scratch : Nat
  teams   : List TeamDesc
  windows : List (Nat × Nat)
  macros  : List (List MacroOp)
  deriving DecidableEq, Repr

structure Image where
  bytes   : List Byte
  kernels : List KernelOut
  exports : List (Text × Int)
  deriving DecidableEq, Repr

/-- A macro's operation with its symbols: its words and substitution bits of d, a and b (R151). -/
def St.macroOp (s : St) (k : Text) (a : Asm) : Option MacroOp := do
  let n ← (usedIn k a.fixes).foldlM (s.fix 0) a.bits
  let sub := fun (k : Nat) => a.subs.any fun x => x.1 == k
  some ⟨BitVec.ofNat 32 n, if a.two then BitVec.ofNat 32 (n / 2 ^ 32) else 0, sub 16, sub 8, sub 0⟩

def St.kernelOut (s : St) (k : Kernel) : Option KernelOut := do
  let entry ← k.entry
  let pool ← k.pool
  let scratch ← k.scratch
  let ms ← k.macros.mapM fun m => m.ops.mapM (s.macroOp k.name)
  some ⟨k.name, entry, pool, scratch, k.teams.map TeamLine.desc, k.windows, ms⟩

/-- What `.global` exports: a label, a constant, or a kernel's entry. -/
def St.exported (s : St) (t : Text) : Option (Text × Int) :=
  match s.value none t with
  | some v => some (t, v)
  | none => ((s.done.find? fun k => k.name == t).bind fun k => k.entry).map fun (n : Nat) => (t, (n : Int))

/-- The image: text, rodata and data, each at a 4 KiB boundary with zero bytes before it. -/
def St.image (s : St) : Option Image := do
  let text ← s.bytes 0 s.text.chunks.reverse
  let ro ← s.bytes (s.start .rodata) s.rodata.chunks.reverse
  let data ← s.bytes (s.start .data) s.data.chunks.reverse
  let zeros := fun (n : Nat) => List.replicate n (0 : Byte)
  let ks ← s.done.mapM s.kernelOut
  let es ← s.wanted.mapM s.exported
  some ⟨text ++ zeros (s.start .rodata - s.text.len) ++ ro ++ zeros (s.start .data - (s.start .rodata + s.rodata.len)) ++ data,
    ks, es⟩

/-- A file: an image, or the first error and no output (R146). -/
def assemble (src : Text) : Except (Nat × AsmErr) Image :=
  let ls := (cutAt '\n' [] src).map readLine
  match constsOf ls with
  | none => .error (0, .directive)
  | some cs =>
    match ({ consts := cs } : St).lines 1 ls with
    | .error e => .error e
    | .ok s =>
      if s.kernel.isSome then .error (ls.length, .directive)
      else match s.image with
        | some i => .ok i
        | none => .error (ls.length, .symbol)

/-! ### What the loader places (R333, R498) -/

/-- A kernel descriptor, from the image base and the address of its macro table: 80 bytes. -/
def KernelOut.descriptor (k : KernelOut) (base macros : Nat) : List Byte :=
  let role := fun (r : Role) => match r with
    | .work => 0 | .drain => 1 | .feed => 2 | .matrix => 3
  let team := fun (t : TeamDesc) => t.width + role t.role * 2 ^ 11 + t.budget / 8 * 2 ^ 13
  leBytes 8 (base + k.entry) ++ leBytes 4 (k.pool.1 / 16 + k.pool.2.1 / 16 * 2 ^ 8 + k.pool.2.2 / 16 * 2 ^ 16) ++
  leBytes 4 (k.scratch / 256) ++ ((k.teams.map team ++ List.replicate (10 - k.teams.length) 0).flatMap (leBytes 4)) ++
  leBytes 8 macros ++ List.replicate 16 0

/-- A macro table: the count, and 388 bytes for each macro. -/
def KernelOut.macroTable (k : KernelOut) : List Byte :=
  let op := fun (o : MacroOp) =>
    leBytes 4 o.w0.toNat ++ leBytes 4 o.w1.toNat ++ leBytes 4 (o.subd.toNat * 4 + o.suba.toNat * 2 + o.subb.toNat)
  leBytes 4 k.macros.length ++ k.macros.flatMap fun m =>
    leBytes 4 m.length ++ m.flatMap op ++ List.replicate (12 * (32 - m.length)) 0

end Sys2Proof.Plynas
end

