-- ==== Sys2Proof/Tests/Slice0.lean ====
section
/-! SUPPORT. The tests: words written out from the encoding tables, ill-formed terms, the worked examples
of the manual one step at a time, and for each obligation with hypotheses states and operands that meet
them. -/

namespace Sys2Proof.Tests
open Sys2Proof Machine
set_option maxRecDepth 20000
set_option Elab.async false

/-! ### The bench -/

/-- The path of the tests. -/
def r0 : PathRef := benchRef

/-- The bench whose path issues: its team and mode fit the opcode. -/
def bn (op : Nat) : State := { State.reset.withFetchWord 32 (op * 2 ^ 24) with cur := some r0 }

/-- The bench with another path state, another team, another crew, a uniform register. -/
def bp (f : Path → Path) (s : State) : State := s.modPath r0 f
def bt (f : Team → Team) (s : State) : State := s.modTeam r0.tok f
def bc (f : Crew → Crew) (s : State) : State := s.modCrew 1 f
def sr (d : SReg) (v : DWord) (s : State) : State := s.sset r0 d v

/-- The bench at user privilege. -/
def user (s : State) : State := { s with grids := [(1, { benchGrid with kernel := false })] }

/-- The state an outcome answers. -/
def after : Host.Outcome State Fault Refusal → State
  | .next t => t
  | _ => State.reset

def goesOn : Host.Outcome State Fault Refusal → Bool
  | .next _ => true
  | _ => false

theorem iss {s : State} {r : PathRef} (h : s.cur = some r ∧ (s.path r).live = true) : Issuing s r := ⟨h.1, h.2⟩

/-- The word a path fetches, if nothing is wrong. -/
def fetched (s : State) (r : PathRef) (va : DWord) : Option Word :=
  match s.translate (s.coreOf r) (s.ctxOf r) (s.kernel r) .fetch va (some r) with
  | .ok x =>
    if s.poisonedAt (s.coreOf r) x.home (s.domOf r) (s.verOf r) x.key 4 = false ∧ s.owned x.key 4 = false ∧
      s.loadHeld (s.coreOf r) x.home s.nextSer = false ∧ s.target (s.ctxOf r) va.toNat x = some .device ∧ s.verOf r = 0
    then some (wordOfList (s.viewBytes r x.home x.key 4))
    else none
  | _ => none

theorem fetches_of {s : State} {r : PathRef} {va : DWord} {w : Word} (h : fetched s r va = some w) :
    Fetches s r va w s := by
  unfold fetched at h
  split at h
  · next x hx =>
    split at h
    · next hp =>
      exact ⟨x, .device, hx, hp.1, hp.2.1, hp.2.2.1, hp.2.2.2.1, by decide, by simpa using h, by simp [hp.2.2.2.2]⟩
    · exact absurd h (by simp)
  · exact absurd h (by simp)

/-- The state a release leaves, where nothing stands in its way. -/
def rel (s : State) (sc : Scope) : State :=
  ((s.releaseCheck r0 sc).releaseAct r0 sc).modPath r0 fun p => { p with failed := [] }

theorem goes_of {s : State} {sc : Scope} (h : (s.releaseCheck r0 sc).releaseGate r0 sc = .go) :
    ReleaseGoes s r0 true sc (rel s sc) := by
  intro k
  simp only [State.releaseIf, if_true, State.release, h, rel]

theorem goes_plain (s : State) (sc : Scope) : ReleaseGoes s r0 false sc s := fun _ => rfl

/-- The state an acquire leaves, where nothing stands in its way. -/
def acq (s : State) (fence : Bool) (sc : Scope) : State :=
  (if fence then (s.drainSync r0).bindAll r0 else s.drainSync r0).acquireAct r0 sc

/-- Nothing stands in the way of an acquire. -/
def acqFree (s : State) (fence : Bool) : Bool :=
  !(s.syncHeld r0 || (fence && s.pend.any fun p => p.r.tok == r0.tok && s.bindHeld p)) &&
  ((if fence then (s.drainSync r0).bindAll r0 else s.drainSync r0).path r0).live

theorem acq_goes {s : State} {fence : Bool} {sc : Scope} (h : acqFree s fence = true) :
    AcquireGoes s r0 true fence sc (acq s fence sc) := by
  intro k
  simp only [acqFree, Bool.and_eq_true, Bool.not_eq_true'] at h
  simp only [State.acquire, Bool.not_true, Bool.false_eq_true, if_false, h.1, h.2, if_true, acq]

theorem acq_same {s : State} {b fence : Bool} {sc : Scope} (h : acqFree s fence = true ∧ acq s fence sc = s) :
    AcquireGoes s r0 b fence sc s := by
  cases b with
  | false => intro k; rfl
  | true => have g := acq_goes (sc := sc) h.1; rwa [h.2] at g

/-- The state that the release and the acquire of `.ar` leave. -/
def ordered (s : State) (sc : Scope) : State := acq (rel s sc) false sc

theorem order_goes {s : State} {sc : Scope} (h : (s.releaseCheck r0 sc).releaseGate r0 sc = .go)
    (h' : acqFree (rel s sc) false = true) : OrderGoes s r0 .ar sc (ordered s sc) := by
  intro k
  exact (goes_of h _).trans (acq_goes h' k)

/-- An engine command of the bench's crew. -/
def engCmd (serial : Nat) (kind : EngKind) (phase : EngPhase) : EngCmd :=
  { serial := serial, core := 0, crew := 1, r := r0, pc := 0, ctx := 0, kernel := true, dom := 0, ver := 0, tag := 0,
    kind := kind, phase := phase, err := false, hurt := false, clear := false, asks := none }


/-! ### Decoding, and well-formedness -/

/-- Words of the control family. -/
def controlWords : List (Nat × Nat × Instr) := [
  (32, 0x00000000, .nop),
  (32, 0x01FFFFF5, .bra 0xFFFFF5),
  (64, 0xFFFFFFFE02000300, .bsz 3 0xFFFFFFFE),
  (64, 0x0000001003003F00, .bsnz 63 0x10),
  (64, 0x0010000D04000100, .brp false 1 0x10 0xD),
  (64, 0xFFFF800004010700, .brp true 7 0xFFFF 0x8000),
  (64, 0x0000000305000200, .bany 2 3),
  (64, 0x0000000406000500, .ball 5 4),
  (32, 0x07000000, .join),
  (64, 0x0000000608000908, .jmpiVector 9 8 6),
  (64, 0x0000000008010008, .jmpiUniform 8),
  (64, 0x80000001090A0000, .call 10 0x80000001),
  (32, 0x0A0A0B00, .calli 10 11),
  (32, 0x0B000A00, .ret 10),
  (32, 0x0C000000, .exit),
  (32, 0x0D3F1122, .macroWord 63 0x11 0x22),
  (32, 0x0E000000, .yield),
  (32, 0x0F0000FF, .trap 255)]

/-- Words of the scalar family. -/
def scalarWords : List (Nat × Nat × Instr) := [
  (32, 0x10870701, .sadd false false 7 7 (.imm 1)),
  (32, 0x11438405, .ssub true true 3 4 (.reg 5)),
  (32, 0x12030405, .smul false false 3 4 (.reg 5)),
  (32, 0x130A8202, .smulh false true 10 2 (.reg 2)),
  (32, 0x14058203, .sdiv false true 5 2 (.reg 3)),
  (32, 0x15060103, .srem false false 6 1 (.reg 3)),
  (32, 0x168102FF, .sand false false 1 2 (.imm 0xFF)),
  (32, 0x17410203, .sor true false 1 2 (.reg 3)),
  (32, 0x18010203, .sxor false false 1 2 (.reg 3)),
  (32, 0x19070204, .sshl false false 7 2 (.reg 4)),
  (32, 0x1AC9021F, .sshr true false 9 2 (.imm 31)),
  (32, 0x1B080104, .ssra false false 8 1 (.reg 4)),
  (32, 0x1C0B8203, .smin false true 11 2 (.reg 3)),
  (32, 0x1D0B0203, .smax false false 11 2 (.reg 3)),
  (32, 0x1E12C510, .scmp .lt 2 true 5 (.imm 0x10)),
  (32, 0x1E290506, .scmp .ge 1 false 5 (.reg 6)),
  (64, 0x0000000D1F010203, .ssel 1 2 3 5 true),
  (32, 0x20050600, .smov 5 6),
  (64, 0x8000000021050100, .sli 5 .sx 0x80000000),
  (64, 0x0000000121050200, .sli 5 .hi 1),
  (32, 0x220E0484, .slea 14 4 4 2),
  (64, 0x0001403F23010200, .sbfe 1 2 63 64 true),
  (64, 0x0000010524010200, .sbfi 1 2 5 1),
  (32, 0x250C0102, .sbit .ctz false 12 1),
  (32, 0x25410204, .sbit .bswap true 1 2),
  (32, 0x26050100, .sr 5 .team),
  (32, 0x26051B00, .sr 5 .role),
  (32, 0x27150600, .sw .status 6),
  (32, 0x27160600, .sw .mode 6)]

/-- Words of the vectorInt family. -/
def vectorIntWords : List (Nat × Nat × Instr) := [
  (32, 0x280102FF, .add 1 2 255),
  (32, 0x290102FF, .sub 1 2 255),
  (32, 0x2A0102FF, .mul 1 2 255),
  (32, 0x2B0102FF, .mulh 1 2 255),
  (32, 0x2C0102FF, .mad 1 2 255),
  (32, 0x2D0102FF, .min 1 2 255),
  (32, 0x2E0102FF, .max 1 2 255),
  (32, 0x2F010200, .abs 1 2),
  (32, 0x30010200, .neg 1 2),
  (32, 0x31010203, .and 1 2 3),
  (32, 0x32010203, .or 1 2 3),
  (32, 0x33010203, .xor 1 2 3),
  (32, 0x34FF0200, .not 255 2),
  (32, 0x35010203, .shl 1 2 3),
  (32, 0x36010203, .shr 1 2 3),
  (32, 0x37010203, .sra 1 2 3),
  (32, 0x38010203, .rot 1 2 3),
  (64, 0x0000201F39010200, .bfe 1 2 31 32),
  (64, 0x000001033A010200, .bfi 1 2 3 1),
  (32, 0x3B010203, .bcnt .rev 1 2),
  (32, 0x3C1A0304, .cmp .le 2 3 4),
  (64, 0x0000000F3D010203, .sel 1 2 3 7 true),
  (32, 0x3E010200, .mov 1 2),
  (32, 0x3F014200, .movs 1 true 2),
  (64, 0xDEADBEEF40010000, .li 1 0xDEADBEEF),
  (32, 0x41010000, .lid 1)]

/-- Words of the float family. -/
def floatWords : List (Nat × Nat × Instr) := [
  (32, 0x42080405, .fadd 8 4 5),
  (32, 0x43080405, .fsub 8 4 5),
  (32, 0x44080806, .fmul 8 8 6),
  (32, 0x45080405, .ffma 8 4 5),
  (32, 0x46080405, .fmin 8 4 5),
  (32, 0x47080405, .fmax 8 4 5),
  (32, 0x48080400, .fabs 8 4),
  (32, 0x49080400, .fneg 8 4),
  (32, 0x4A6A0304, .fcmp .uge 2 3 4),
  (32, 0x4B080400, .frcp 8 4),
  (32, 0x4C080400, .frsq 8 4),
  (32, 0x4D080400, .fsqrt 8 4),
  (32, 0x4E080405, .fdiv 8 4 5),
  (32, 0x4F080400, .fexp2 8 4),
  (32, 0x50080400, .flog2 8 4),
  (32, 0x51080400, .fsin 8 4),
  (32, 0x52080400, .fcos 8 4),
  (32, 0x53080400, .fclass 8 4),
  (32, 0x54080400, .fround 8 4),
  (32, 0x55080419, .cvtf 8 4 .f16 .i32),
  (32, 0x560804B0, .cvti 8 4 .i64 .f32),
  (64, 0x0000000057090400, .cvtq 9 4 none false),
  (64, 0x0000000357090407, .cvtq 9 4 (some 7) true),
  (64, 0x0000000158080900, .cvtd 8 9 none true),
  (32, 0x59080405, .pk 8 4 5),
  (32, 0x5A080401, .upk 8 4 true),
  (32, 0x5B080403, .sp8x 8 4 3),
  (64, 0x000000025C080405, .i4x 8 4 5 2)]

/-- Words of the lane family. -/
def laneWords : List (Nat × Nat × Instr) := [
  (32, 0x5D010203, .shfl 1 2 3),
  (64, 0x000008105E010200, .shflx 1 2 16 .dn),
  (64, 0x000007FF5E010200, .shflx 1 2 1023 .up),
  (32, 0x5F050103, .bcast 5 1 (some 3)),
  (32, 0x5F050140, .bcast 5 1 none),
  (32, 0x60050200, .vote 5 2 .any),
  (32, 0x60050240, .vote 5 2 .all),
  (32, 0x6005028F, .vote 5 2 (.ballot 15)),
  (32, 0x61050200, .mcnt 5 2),
  (32, 0x62020100, .scan .add 2 1),
  (32, 0x63030102, .red .max 3 1),
  (32, 0x64040200, .rank 4 2),
  (32, 0x65030102, .compact 3 1 2),
  (32, 0x66090203, .pand true 1 2 3),
  (32, 0x67010203, .por false 1 2 3),
  (32, 0x68010203, .pxor false 1 2 3),
  (32, 0x69090200, .pnot true 1 2),
  (32, 0x6A010200, .pmov false 1 2),
  (32, 0x6B090000, .psetClr true 1),
  (32, 0x6B010040, .psetSet false 1),
  (32, 0x6B010583, .psetSc false 1 5 3),
  (32, 0x6C000A00, .xmset true 2),
  (32, 0x6D030000, .xmget 3),
  (32, 0x6E001000, .mode 0x1000),
  (32, 0x6F000500, .modes 5)]

/-- Words of the memory family. -/
def memoryWords : List (Nat × Nat × Instr) := [
  (64, 0x4010000070044407, .lds 4 ⟨4, some 7, false⟩ ⟨.b32, .team, .plain, 1, 0, 0⟩),
  (64, 0x6600FFFF71040600, .sts 4 ⟨6, none, false⟩ ⟨.b64, .crew, .rel, 0, 0, 65535⟩),
  (64, 0x4110000472040600, .ldsf 4 ⟨6, none, false⟩ ⟨.b32, .team, .acq, 1, 0, 4⟩),
  (64, 0x4000000473040600, .ldse 4 ⟨6, none, false⟩ ⟨.b32, .team, .plain, 0, 0, 4⟩),
  (64, 0x4200000474040600, .stsf 4 ⟨6, none, false⟩ ⟨.b32, .team, .rel, 0, 0, 4⟩),
  (64, 0x4000000475040600, .stsx 4 ⟨6, none, false⟩ ⟨.b32, .team, .plain, 0, 0, 4⟩),
  (64, 0x4000000476000600, .feclr ⟨6, none, false⟩ ⟨.b32, .team, .plain, 0, 0, 4⟩),
  (64, 0x4000000477000600, .feset ⟨6, none, false⟩ ⟨.b32, .team, .plain, 0, 0, 4⟩),
  (64, 0x4000000478040600, .feq 4 ⟨6, none, false⟩ ⟨.b32, .team, .plain, 0, 0, 4⟩),
  (64, 0x4000000079044407, .ldg 4 ⟨4, some 7, false⟩ ⟨.b32, .team, .plain, 0, 0, 0⟩),
  (64, 0x5000001079044407, .ldg 4 ⟨4, some 7, false⟩ ⟨.b32, .device, .plain, 0, 0, 16⟩),
  (64, 0x8E0800007A04C407, .stg 4 ⟨4, some 7, true⟩ ⟨.b128, .die, .rel, 0, 2, 0⟩),
  (64, 0x000000007B000600, .pfg ⟨6, none, false⟩ ⟨.b8, .team, .plain, 0, 0, 0⟩),
  (64, 0x080000007C000600, .cwb ⟨6, none, false⟩ ⟨.b8, .cluster, .plain, 0, 0, 0⟩),
  (64, 0x141000007D000600, .cinv ⟨6, none, false⟩ ⟨.b8, .system, .plain, 1, 0, 0⟩),
  (64, 0x201000027E040700, .ldp 4 ⟨7, none, false⟩ ⟨.b16, .team, .plain, 1, 0, 2⟩),
  (64, 0x591000007F094602, .rld 9 ⟨6, some 3, false⟩ 2 ⟨.b32, .pod, .acq, 1, 0, 0⟩),
  (64, 0x5A00000080090602, .rst 9 ⟨6, none, false⟩ 2 ⟨.b32, .pod, .rel, 0, 0, 0⟩),
  (64, 0x5BC0000081094602, .ratm 9 ⟨6, some 3, false⟩ 2 ⟨.b32, .pod, .ar, 12, 0, 0⟩),
  (64, 0x5800000082094602, .ratmr 9 ⟨6, some 3, false⟩ 2 ⟨.b32, .pod, .plain, 0, 0, 0⟩),
  (64, 0x6070000883040600, .atm 4 ⟨6, none, false⟩ ⟨.b64, .team, .plain, 7, 0, 8⟩),
  (64, 0x5180000084040600, .atmr 4 ⟨6, none, false⟩ ⟨.b32, .device, .acq, 8, 0, 0⟩),
  (64, 0x6300000085040600, .cas 4 ⟨6, none, false⟩ ⟨.b64, .team, .ar, 0, 0, 0⟩),
  (64, 0x8000000086040600, .cas128 4 ⟨6, none, false⟩ ⟨.b128, .team, .plain, 0, 0, 0⟩),
  (64, 0x4000000087040600, .xchg 4 ⟨6, none, false⟩ ⟨.b32, .team, .plain, 0, 0, 0⟩)]

/-- Words of the matrix family. -/
def matrixWords : List (Nat × Nat × Instr) := [
  (32, 0x90070000, .tclaim 7),
  (32, 0x91000700, .trel 7),
  (64, 0xFF801F2092000708, .tld 7 8 32 31 0xFF80),
  (32, 0x93000405, .tfmt 4 5),
  (64, 0x0000010094000405, .mma 4 5 256),
  (64, 0x0000000195000405, .mmaz 4 5 1),
  (32, 0x96000003, .mclr 3),
  (64, 0x0000002297090400, .mdrainRegister 9 4 .bf16 true),
  (64, 0x000000E997000400, .mdrainMemory 4 .f16 .add true true),
  (64, 0x00B7028098000405, .mcoop 4 5 128 true 7 11),
  (32, 0x99000700, .tzero 7),
  (32, 0x9A070802, .ttrans 7 8 true),
  (32, 0x9A070801, .ttrans 7 8 false)]

/-- Words of the sync family. -/
def syncWords : List (Nat × Nat × Instr) := [
  (32, 0xA0000011, .fence .rel .crew),
  (32, 0xA000001E, .fence .ar .pod),
  (32, 0xA1000009, .flwait 9),
  (32, 0xA1000800, .flwait 0x800),
  (32, 0xA2040500, .twany 4 5),
  (32, 0xA3000500, .twall 5),
  (32, 0xA4040000, .tffr 4),
  (32, 0xA500003F, .tclr 63),
  (32, 0xA6000005, .bar 1 .clu),
  (32, 0xA600000F, .bar 3 .grid),
  (64, 0x61000008A7040600, .marm 4 6 ⟨.b64, .team, .acq, 0, 0, 8⟩),
  (32, 0xA8040500, .mwait 4 5),
  (32, 0xA9000000, .grin),
  (32, 0xAA000000, .grout),
  (32, 0xAB040000, .grq 4),
  (32, 0xAC040000, .grwait 4),
  (32, 0xAD040600, .grfree 4 6),
  (32, 0xAE040000, .grpop 4),
  (32, 0xAF040000, .step 4),
  (32, 0xB0040000, .stepq 4),
  (64, 0x50000000B1040600, .ldacq 4 ⟨6, none, false⟩ ⟨.b32, .device, .plain, 0, 0, 0⟩),
  (64, 0x50000000B2040600, .strel 4 ⟨6, none, false⟩ ⟨.b32, .device, .plain, 0, 0, 0⟩)]

/-- Words of the engine family. -/
def engineWords : List (Nat × Nat × Instr) := [
  (32, 0xC0000683, .cpy 0 6 true false 3),
  (32, 0xC0090643, .cpy 9 6 false true 3),
  (32, 0xC1090645, .cpyx 9 6 true 5),
  (32, 0xC2000405, .gath 4 5),
  (32, 0xC3000405, .kvap 4 5),
  (32, 0xC4000405, .kvseal 4 5),
  (32, 0xC5000405, .kvcopy 4 5),
  (32, 0xC6040502, .smpl 4 5 2),
  (32, 0xC7000405, .coll 4 5),
  (32, 0xC8070410, .spawn 7 4 16),
  (32, 0xC9090401, .launch 9 4 true),
  (32, 0xCA040506, .resolve 4 5 6),
  (32, 0xCB040506, .wqpop 4 5 6),
  (32, 0xCC040506, .wqpush 4 5 6),
  (32, 0xCD040506, .cntp 4 5 6)]

/-- Words of the system family. -/
def systemWords : List (Nat × Nat × Instr) := [
  (64, 0x00001004D0040000, .csrr 4 0x1004),
  (64, 0x00001003D1000900, .csrw .write 0x1003 9),
  (64, 0x00001003D1010900, .csrw .set 0x1003 9),
  (64, 0x00001003D1020900, .csrw .clear 0x1003 9),
  (32, 0xD2000405, .tretRes 4 5),
  (32, 0xD2010405, .tretVal 4 5),
  (32, 0xD2020400, .tretKill 4 0),
  (32, 0xD3000007, .ecall 7),
  (32, 0xD4050600, .tlbiPage 5 6),
  (32, 0xD4000601, .tlbiCtx 6),
  (32, 0xD4000002, .tlbiPart),
  (32, 0xD5000600, .frz 6),
  (32, 0xD5000601, .frzThaw 6),
  (32, 0xD6040500, .wfi 4 5),
  (32, 0xD7000000, .sfence),
  (32, 0x88000000, .unassignedOpcode 0x88),
  (32, 0xD8000000, .unassignedOpcode 0xD8),
  (32, 0xEF123456, .unassignedOpcode 0xEF)]

def readsAs (l : List (Nat × Nat × Instr)) : Bool := l.all fun x => decodeTableWord x.1 x.2.1 == some x.2.2

theorem test_decode_control : readsAs controlWords = true := by decide +kernel
theorem test_decode_scalar : readsAs scalarWords = true := by decide +kernel
theorem test_decode_vectorInt : readsAs vectorIntWords = true := by decide +kernel
theorem test_decode_float : readsAs floatWords = true := by decide +kernel
theorem test_decode_lane : readsAs laneWords = true := by decide +kernel
theorem test_decode_memory : readsAs memoryWords = true := by decide +kernel
theorem test_decode_matrix : readsAs matrixWords = true := by decide +kernel
theorem test_decode_sync : readsAs syncWords = true := by decide +kernel
theorem test_decode_engine : readsAs engineWords = true := by decide +kernel
theorem test_decode_system : readsAs systemWords = true := by decide +kernel

/-- Words that no instruction has: a spare bit that is not zero, a reserved code, a literal out of its range, an odd
register of a pair, a clause header (R120, R131, R132, R134). -/
def refusedWords : List (Nat × Nat) := [
  (32, 0x00000001), (32, 0x07010000), (64, 0x0000000002004300), (32, 0x1E62C510), (64, 0x0001003F23010200),
  (64, 0x0001413F23010200), (64, 0x0000211F39010200), (32, 0x27000600), (32, 0x56080400), (64, 0x0000000057090500),
  (32, 0x5F050143), (32, 0x600502C0), (32, 0x6B0105C3), (64, 0x5C10000070044407), (64, 0x6110000472040600),
  (64, 0x591000007F094603), (64, 0x6080000883040600), (64, 0x6000000086040600), (64, 0xFF80202092000708),
  (64, 0x0000000094000405), (64, 0x0000010194000405), (32, 0x96000000), (64, 0x000000E997000500),
  (64, 0x00C7028098000405), (32, 0xA0000001), (32, 0xA1000000), (32, 0xAD040700), (32, 0xC0090603),
  (64, 0x00001003D1030900), (32, 0xD2030400), (32, 0xD7000001), (32, 0xF0000000)]

theorem test_decode_refuses : refusedWords.all (fun x => decodeTableWord x.1 x.2 == none) = true := by decide +kernel

/-- A descriptor, and the base v0 or s0 without an index. -/
def md (z : MSize) (sc : Scope) (o : Order) (op : BitVec 4) (hint : BitVec 2) : MDesc := ⟨z, sc, o, op, hint, 0⟩
def b0 : MAddr := ⟨0, none, false⟩

/-- One ill-formed term, or more, for each check of WellFormed. -/
def illFormed : List Instr := [
  .scmp .uno 1 false 2 (.imm 0), .cmp .ord 1 2 3,
  .sbfe 1 2 0 0 false, .sbfe 1 2 0 65 false, .sbfi 1 2 0 0, .sw .team 1, .bfe 1 2 0 33, .bfi 1 2 0 0,
  .cvtf 1 2 .i32 .f32, .cvtf 1 3 .f32 .i64, .cvti 2 4 .f32 .f32, .cvti 3 4 .i64 .f32, .cvtq 1 2 none false,
  .cvtd 2 1 none false,
  .lds 1 b0 (md .b32 .team .rel 0 0), .lds 1 b0 (md .b32 .team .plain 2 0), .lds 1 b0 (md .b32 .team .plain 0 1),
  .sts 1 b0 (md .b32 .team .acq 0 0), .sts 1 b0 (md .b32 .team .plain 1 0),
  .ldsf 1 b0 (md .b64 .team .plain 0 0), .ldse 1 b0 (md .b32 .team .plain 1 0), .feq 1 b0 (md .b16 .team .plain 0 0),
  .stsf 1 b0 (md .b8 .team .plain 0 0), .stsx 1 b0 (md .b32 .team .acq 0 0), .feclr b0 (md .b64 .team .plain 0 0),
  .feset b0 (md .b32 .team .ar 0 0),
  .ldg 1 b0 (md .b32 .team .ar 0 0), .stg 1 b0 (md .b32 .team .plain 1 0), .pfg b0 (md .b32 .crew .plain 0 0),
  .cwb b0 (md .b8 .team .plain 0 0), .cinv b0 (md .b32 .die .plain 0 0),
  .ldp 1 ⟨8, none, false⟩ (md .b32 .team .plain 0 0), .rld 1 b0 2 (md .b32 .device .plain 0 0),
  .rld 1 ⟨0, some 4, false⟩ 3 (md .b32 .pod .plain 0 0), .rst 1 ⟨0, some 4, false⟩ 2 (md .b32 .pod .plain 0 0),
  .ratm 1 b0 2 (md .b32 .pod .plain 13 0), .ratmr 1 b0 2 (md .b32 .pod .plain 15 0),
  .atm 1 b0 (md .b64 .team .plain 8 0), .atmr 1 b0 (md .b32 .team .plain 13 0), .cas 1 b0 (md .b16 .team .plain 0 0),
  .xchg 1 b0 (md .b32 .team .plain 1 0), .cas128 1 b0 (md .b64 .team .plain 0 0),
  .tld 1 2 33 31 0, .mma 1 2 0, .mmaz 1 2 257, .mclr 0, .mdrainMemory 1 .f32 .add false false,
  .mcoop 1 2 0 false 0 0, .mcoop 1 2 1 false 0 12, .fence .plain .crew, .flwait 0,
  .marm 1 2 (md .b16 .team .plain 0 0), .grfree 2 3, .grpop 3, .ldacq 1 b0 (md .b128 .team .plain 0 0),
  .strel 1 b0 (md .b32 .team .rel 0 0), .cpy 1 2 false false 0, .cpyx 1 2 false 0, .unassignedOpcode 0x28,
  .teamRetirement 1]

theorem test_wellFormed_refuses : illFormed.all (fun i => !i.wf) = true := by decide +kernel

/-! ### Witnesses: encoding, memory, the step -/

theorem witness_DecodeOfEncode :
    (Instr.add 1 2 3).WellFormed ∧ encode (.add 1 2 3) = [0x28010203] ∧
    (Instr.li 1 7).WellFormed ∧ encode (.li 1 7) = [0x40010000, 7] := by decide +kernel

theorem witness_DecodeSound :
    (decode 0x28010203 0).toOption = some (.add 1 2 3) ∧ (decode 0x40010000 7).toOption = some (.li 1 7) ∧
    (decode 0x88FFFFFF 0).toOption = some (.unassignedOpcode 0x88) := by decide +kernel

theorem witness_StepKeepsMemoryCanonical :
    Memory.wf (State.reset.withFetchWord 32 0x28010203).mem = true ∧ (State.reset.withFetchWord 32 0x28010203).mem ≠ [] ∧
    goesOn (step (State.reset.withFetchWord 32 0x28010203)) = true := by decide +kernel

theorem witness_LittleEndianReadAfterWrite : 0 < 1 ∧ ((9 < 10 ∨ 10 + 4 ≤ 9) ∧ (14 < 10 ∨ 10 + 4 ≤ 14)) := by decide

theorem witness_RegisterFiles :
    let t := (bn 0x28).team 1
    (1 : SReg) ≠ 0 ∧ (63 : SReg) ≠ 1 ∧ t.width ≤ 32 ∧ t.width ≤ 1023 ∧ 31 < t.width ∧ (7 : PReg) ≠ 0 := by decide +kernel

/-- A bench before its step, holding two words. -/
def two (w x : Nat) : State := State.reset.withFetchWord 64 (x * 2 ^ 32 + w)

/-- What StepRunsTheDecodedInstruction asks of a state before its clauses. -/
def Turned (s : State) : Prop :=
  Turns s r0 [] ∧ ((takenUp { s with agenda := [] } r0).path r0).live = true

theorem turned_of {s : State}
    (h : (s.agenda = [.issue r0] ∧ s.timedEvent s.tsc = none ∧ ({ s with agenda := [] } : State).mayIssue r0 = true) ∧
      ((takenUp { s with agenda := [] } r0).path r0).live = true) : Turned s := h

/-- The state whose path has been taken up. -/
def up (s : State) : State := takenUp { s with agenda := [] } r0

/-- Its path is in its clause, of n words more. -/
def InClause (s : State) : Prop :=
  ((up s).path r0).mac = none ∧ ((up s).path r0).inClause = true ∧
  ((up s).path r0).widx ≤ (headerOf ((up s).path r0).hdrWord).len.toNat

theorem witness_Steps_header : Turned (two 0xF0000000 0) ∧ InClause (two 0xF0000000 0) ∧
    Fetches (up (two 0xF0000000 0)) r0 ((up (two 0xF0000000 0)).path r0).pc 0xF0000000 (up (two 0xF0000000 0)) ∧ isHeader 0xF0000000 = true :=
  ⟨turned_of (by decide +kernel), by unfold InClause; decide +kernel, fetches_of (by decide +kernel), by decide⟩

theorem witness_Steps_beyond :
    let s := bp (fun p => { p with widx := 15 }) (two 0x40010000 7)
    Turned s ∧ InClause s ∧ Fetches (up s) r0 ((up s).path r0).pc 0x40010000 (up s) ∧ wordsOf 0x40010000 = 2 ∧
    (headerOf ((up s).path r0).hdrWord).len.toNat < ((up s).path r0).widx + 1 :=
  ⟨turned_of (by decide +kernel), by unfold InClause; decide +kernel, fetches_of (by decide +kernel), by decide,
    by decide +kernel⟩

theorem witness_Steps_none :
    let s := two 0xC0060000 0
    Turned s ∧ InClause s ∧ Fetches (up s) r0 ((up s).path r0).pc 0xC0060000 (up s) ∧ wordsOf 0xC0060000 ≠ 2 ∧
    decode 0xC0060000 0 = .error .illegal :=
  ⟨turned_of (by decide +kernel), by unfold InClause; decide +kernel, fetches_of (by decide +kernel), by decide,
    by decide +kernel⟩

/-- Nothing holds the team of a bench back. -/
def unheld (s : State) : Prop :=
  (∀ l ∈ s.late, l.r.tok ≠ r0.tok) ∧ (∀ p ∈ s.pend, p.loads = none) ∧ (s.path r0).live = true ∧
  (s.path r0).poison = [] ∧ (s.team r0.tok).vErr = [] ∧ (s.team r0.tok).sErr = []

theorem witness_Steps_runs :
    let s := bp (fun p => { p with widx := 14 }) (two 0x40010000 7)
    Turned s ∧ InClause s ∧ Fetches (up s) r0 ((up s).path r0).pc 0x40010000 (up s) ∧
    Fetches (up s) r0 (((up s).path r0).pc + 4) 7 (up s) ∧
    ((up s).path r0).widx + 1 ≤ (headerOf ((up s).path r0).hdrWord).len.toNat ∧
    decode 0x40010000 7 = .ok (.li 1 7) ∧ Unheld (up s) r0 :=
  ⟨turned_of (by decide +kernel), by unfold InClause; decide +kernel, fetches_of (by decide +kernel),
    fetches_of (by decide +kernel), by decide +kernel, by decide +kernel,
    (by unfold unheld; decide +kernel : unheld (up (bp (fun p => { p with widx := 14 }) (two 0x40010000 7))))⟩

/-- A bench in a `macro` word of one operation, `sadd s1, s1, s0` with d substituted. -/
def inMacro : State :=
  bc (fun c => { c with macros := [[⟨0x10000100, 0, true, false, false⟩]] })
    (bp (fun p => { p with mac := some ⟨0, 9, 0, 0⟩ }) (two 0x0D000900 0))

theorem witness_Steps_macro :
    let v := up inMacro
    Turned inMacro ∧ (v.path r0).mac = some ⟨0, 9, 0, 0⟩ ∧
    ((v.crewOf r0).macros.getD 0 [])[0]? = some ⟨0x10000100, 0, true, false, false⟩ ∧ macroLegal 0x10000100 0 = true ∧
    decode (substOp ⟨0, 9, 0, 0⟩ ⟨0x10000100, 0, true, false, false⟩) 0 = .ok (.sadd false false 9 1 (.reg 0)) ∧
    Unheld v r0 :=
  ⟨turned_of (by decide +kernel), by decide +kernel, by decide +kernel, by decide +kernel, by decide +kernel,
    (by unfold unheld; decide +kernel : unheld (up inMacro))⟩

/-- A bench before a clause, whose f0 may be busy. -/
def before (w : Nat) (f : BitVec 12) : State := bp (fun p => { p with inClause := false, flags := f }) (two w 0)

theorem witness_ClauseEntry :
    let s := before 0xF0010000 1
    let t := before 0xF0010000 2
    let u := before 0xF0010400 0
    let v := before 0 0
    (Turned s ∧ ((up s).path r0).mac = none ∧ ((up s).path r0).inClause = false ∧
      Fetches (up s) r0 ((up s).path r0).pc 0xF0010000 (up s) ∧ isHeader 0xF0010000 = true ∧
      (headerOf 0xF0010000).malformed = false ∧ ((up s).path r0).flags &&& (headerOf 0xF0010000).wait ≠ 0) ∧
    (Turned t ∧ Fetches (up t) r0 ((up t).path r0).pc 0xF0010000 (up t) ∧
      ((up t).path r0).flags &&& (headerOf 0xF0010000).wait = 0 ∧
      waitNote ((up t).path r0).poison (headerOf 0xF0010000).wait = none) ∧
    (Turned u ∧ Fetches (up u) r0 ((up u).path r0).pc 0xF0010400 (up u) ∧ (headerOf 0xF0010400).malformed = true) ∧
    (Turned v ∧ Fetches (up v) r0 ((up v).path r0).pc 0 (up v) ∧ isHeader 0 = false) :=
  by
    refine ⟨⟨turned_of ?_, ?_, ?_, fetches_of ?_, ?_, ?_⟩, ⟨turned_of ?_, fetches_of ?_, ?_⟩,
      ⟨turned_of ?_, fetches_of ?_, ?_⟩, turned_of ?_, fetches_of ?_, ?_⟩ <;> decide +kernel

/-! ### Witnesses: stops and returns -/

theorem witness_TakingAStop :
    let s := bn 0x28
    Issuing s r0 ∧ (s.path r0).stop = none ∧ ((s.team r0.tok).path (!r0.path)).live = false ∧
    (s.path r0).woke = none ∧ isHostKey ((s.ctx 0).record.fqbase + 64 + 128 * (s.ctx 0).record.fqsize) =
      isHostKey (s.ctx 0).record.fqbase ∧ s.ctxOf r0 = 0 ∧
    (s.ctx (s.ctxOf r0)).heldRec = [] ∧ s.fqRoom (s.ctxOf r0) = true :=
  ⟨iss (by decide +kernel), by decide +kernel⟩

theorem witness_TrapsAndPrivilege :
    Issuing (user (bn 0x0F)) r0 ∧ (user (bn 0x0F)).kernel r0 = false ∧ csrListed 0x1004 = true ∧ csrWc 0x1004 = true ∧
    CsrOp.set ≠ .write ∧ csrListed 0x1003 = true ∧ csrWc 0x1003 = false ∧ csrListed 0xFFFF = false :=
  ⟨iss (by decide +kernel), by decide +kernel⟩

/-- Another team of the bench's crew, whose path holds a stop of handle 5; s1 of the bench's team names it. -/
def stopped (cause : Nat) : State :=
  let s := sr 1 5 (bn 0xD2)
  { s with teams := s.teams ++ [(2, { benchTeam 0 with path0 := { (benchTeam 0).path0 with
    wait := .stopped, stop := some ⟨5, cause, 0⟩ } })] }

/-- An engine command that holds a stop of handle 5. -/
def engineStopped : State := { sr 1 5 (bn 0xD2) with engines := [engCmd 1 (.chain []) (.stopped 5 true)] }

theorem witness_ReturnsFromStops :
    let q : PathRef := ⟨2, false⟩
    (Issuing (stopped 21) r0 ∧ (stopped 21).kernel r0 = true ∧
      (((stopped 21).advance r0 1).allPaths.find? fun q =>
        (((stopped 21).advance r0 1).path q).holds ((stopped 21).sget r0 1)) = some q ∧
      (stopped 21).ctxPart ((stopped 21).ctxOf q) = (stopped 21).ctxPart ((stopped 21).ctxOf r0) ∧
      ((((stopped 21).advance r0 1).path q).stop.map Stop.killOnly) = some false) ∧
    (Issuing (stopped 15) r0 ∧ (((stopped 15).advance r0 1).allPaths.find? fun q =>
        (((stopped 15).advance r0 1).path q).holds ((stopped 15).sget r0 1)) = some q ∧
      ((((stopped 15).advance r0 1).path q).stop.map Stop.killOnly) = some true) ∧
    (Issuing (bn 0xD2) r0 ∧ (((bn 0xD2).advance r0 1).allPaths.find? fun q =>
        (((bn 0xD2).advance r0 1).path q).holds 0) = none ∧ (bn 0xD2).savedStop 0 = none ∧
      (bn 0xD2).engineStopped 0 = none) ∧
    (Issuing engineStopped r0 ∧ engineStopped.engineStopped 5 = some (engCmd 1 (.chain []) (.stopped 5 true), true) ∧
      engineStopped.savedStop 5 = none ∧ (engineStopped.advance r0 1).allPaths.find?
        (fun q => ((engineStopped.advance r0 1).path q).holds 5) = none ∧
      engineStopped.ctxPart 0 = engineStopped.ctxPart (engineStopped.ctxOf r0)) :=
  by refine ⟨⟨iss ?_, ?_⟩, ⟨iss ?_, ?_⟩, ⟨iss ?_, ?_⟩, iss ?_, ?_⟩ <;> decide +kernel

/-! ### Witnesses: scalar and control -/

theorem witness_ScalarMould : Issuing (bn 0x10) r0 := iss (by decide +kernel)

theorem witness_ScalarAndSpecial :
    Issuing (sr 2 0xFFFF20 (bn 0x20)) r0 ∧ Cond.integer .ge = true ∧ 1 ≤ (1 : BitVec 7).toNat ∧ (64 : BitVec 7).toNat ≤ 64 ∧
    ((sr 2 0x1020 (bn 0x20)).sget r0 2).toNat < 2 ^ 24 ∧ mdLegal (((sr 2 0x1020 (bn 0x20)).sget r0 2).setWidth 24) = true ∧
    mdLegal 0 = true ∧ mdLegal 0x1F0000 = false :=
  ⟨iss (by decide +kernel), by decide +kernel⟩

/-- The bench with an execute mask, p1 and a stack. -/
def masked (op : Nat) (m p : Mask) (st : List StackEntry) : State :=
  (bp (fun x => { x with xm := m, stack := st }) (bn op)).pset r0 1 p

theorem witness_ControlTransfers :
    let s := sr 1 0x2000 (bn 0x08)
    let x := masked 0x08 0 0 []
    Issuing s r0 ∧ Issuing x r0 ∧ (s.sget r0 1).toNat % 4 = 0 ∧ (s.sget r0 1).toNat < 2 ^ 56 ∧
    ¬ (((sr 1 0x2001 (bn 0x08)).sget r0 1).toNat % 4 = 0) ∧ s.active r0 &&& (s.team r0.tok).allLanes ≠ 0 ∧
    (s.path r0).widx = 0 ∧ (255 : VReg).toNat < (s.team r0.tok).budget ∧ (s.path r0).stack = [] ∧
    0 ∈ lanesOf (s.team r0.tok) (s.active r0) ∧ (∀ l, l ∈ lanesOf (s.team r0.tok) (s.active r0) → 0 ≤ l) ∧
    x.active r0 &&& (x.team r0.tok).allLanes = 0 :=
  ⟨iss (by decide +kernel), iss (by decide +kernel), by decide +kernel⟩

/-- The lanes a `brp p1` takes. -/
def taken (s : State) : Mask := s.active r0 &&& s.pget r0 1

/-- A stack entry that holds lanes 0 to 31 and joins at the bench's address. -/
def entry (pend : Mask) : StackEntry := ⟨false, 0xFFFFFFFF, pend, 0x2000, 0x1000, false⟩

theorem witness_Branches :
    let a := masked 0x04 0xFFFFFFFF 0 []
    let b := masked 0x04 0xFFFFFFFF 0xFFFFFFFF []
    let c := masked 0x04 0xFFFFFFFF 0xFF []
    let n := fun p => masked 0x04 0xFFFFFFFF p [entry 0]
    let full := masked 0x04 0xFFFFFFFF 1 (List.replicate 32 (entry 0))
    (Issuing a r0 ∧ Issuing b r0 ∧ Issuing c r0 ∧ Issuing (n 1) r0 ∧ Issuing full r0) ∧
    ((a.path r0).stack = [] ∧ (a.team r0.tok).divided = false ∧ r0.path = false ∧ taken a = 0 ∧ taken b ≠ 0 ∧
      taken b = b.active r0 ∧ taken c ≠ 0 ∧ taken c ≠ c.active r0) ∧
    0 < ((n 0).path r0).stack.length + ((n 0).team r0.tok).divided.toNat ∧ ((n 0).path r0).stack.length < 32 ∧
    taken (n 0) = 0 ∧ taken (n 0xFFFFFFFF) = (n 0xFFFFFFFF).active r0 ∧ taken (n 1) ≠ (n 1).active r0 ∧
    32 ≤ (full.path r0).stack.length :=
  ⟨⟨iss (by decide +kernel), iss (by decide +kernel), iss (by decide +kernel), iss (by decide +kernel),
    iss (by decide +kernel)⟩, by decide +kernel⟩

/-- The bench's team divided, its path 0 at a join. -/
def divided (join : DWord) : State := bt (fun t => { t with divided := true, djoin := join }) (bn 0x07)

theorem witness_JoinsAndMasks :
    let s := fun e => masked 0x07 0xFF 0xF [e]
    (Issuing (s (entry 0)) r0 ∧ Issuing (divided 0x1000) r0 ∧ Issuing (bn 0x0C) r0) ∧
    (let g := masked 0x0C 0xFF 1 [entry 1]
     (g.path r0).xm &&& ~~~ (g.active r0 &&& (g.team r0.tok).allLanes) = 0 ∧ (g.path r0).stack = [entry 1] ∧
      (entry 1).pend ≠ 0) ∧
    (((s { entry 0 with join := 0x2000 }).path r0).pc ≠ (0x2000 : BitVec 56).setWidth 64 ∧ ((s (entry 1)).path r0).pc = (entry 1).join.setWidth 64 ∧
      (entry 1).pend ≠ 0 ∧ (entry 0).outer &&& ~~~ ((s (entry 0)).team r0.tok).retired ≠ 0) ∧
    ((divided 0x2000).path r0).pc ≠ ((divided 0x2000).team r0.tok).djoin ∧
    ((divided 0x1000).path r0).pc = ((divided 0x1000).team r0.tok).djoin ∧ ((divided 0x1000).path r0).flags = 0 ∧
    ((divided 0x1000).path r0).poison = [] ∧ ((bn 0x07).team r0.tok).divided = false ∧
    (let g := bp (fun x => { x with md := 0x09 }) (masked 0x0C 0xFF 1 [])
     (g.path r0).xm &&& ~~~ (g.active r0 &&& (g.team r0.tok).allLanes) ≠ 0) ∧
    (masked 0x6C 0 1 []).pget r0 1 &&& ((masked 0x6C 0 1 []).team r0.tok).allLanes ≠ 0 ∧
    (0 : BitVec 6).toNat < ((bc (fun c => { c with macros := [[]] }) (bn 0x0D)).crewOf r0).macros.length :=
  ⟨⟨iss (by decide +kernel), iss (by decide +kernel), iss (by decide +kernel)⟩, by decide +kernel⟩

/-! ### Witnesses: vectors -/

/-- The bench in a mode, its v registers 2 and 4 set in lane 0. -/
def vec (md : BitVec 24) (op : Nat) : State :=
  bp (fun p => { p with md := md }) (bt (fun t => (t.vset 2 0 0x3F800000).vset 4 0 0x40000000) (bn op))

/-- TYPE codes of md: i32, f32, bf16x2 and i64 (R137). -/
def tI32 : BitVec 24 := 0x000
def tF32 : BitVec 24 := 0x040
def tBf : BitVec 24 := 0x060
def tI64 : BitVec 24 := 0x120

theorem witness_VectorIntegers :
    (Issuing (vec tI32 0x28) r0 ∧ ((vec tI32 0x28).ty r0).isInt = true ∧
      (vec tI32 0x28).eOk r0 ((vec tI32 0x28).ty r0) [255, 2, 4] = true ∧ (vec tI32 0x28).eOk r0 ((vec tI32 0x28).ty r0) [0, 2] = true ∧
      (vec tI32 0x28).vOk r0 [255] = true) ∧
    ((vec tI64 0x28).ty r0 = .i64 ∧ (vec tI64 0x28).eOk r0 ((vec tI64 0x28).ty r0) [254, 2, 4] = true) ∧
    (vec tF32 0x31).eOk r0 ((vec tF32 0x31).ty r0) [6, 2, 4] = true :=
  ⟨⟨iss (by decide +kernel), by decide +kernel⟩, by decide +kernel⟩

theorem witness_VectorBitsAndMoves :
    Issuing (vec tI32 0x39) r0 ∧ ((vec tI32 0x39).ty r0).is32 = true ∧
    (vec tI32 0x39).eOk r0 ((vec tI32 0x39).ty r0) [1, 2] = true ∧ 1 ≤ (1 : BitVec 6).toNat ∧ (32 : BitVec 6).toNat ≤ 32 ∧
    (((vec tI64 0x3C).ty r0).is32 || ((vec tI64 0x3C).ty r0).pair) = true ∧
    (vec tI64 0x3C).eOk r0 ((vec tI64 0x3C).ty r0) [2, 4] = true ∧
    (vec tI64 0x3D).eOk r0 ((vec tI64 0x3D).ty r0) [254, 2, 4] = true ∧
    ¬ (((vec tI64 0x3F).ty r0).pair = true ∧ false = true) ∧ (255 : VReg).toNat < ((vec tI32 0x41).team r0.tok).budget ∧
    0 < ((vec tI64 0x3C).team r0.tok).width ∧ 0 ∈ lanesOf ((vec tI64 0x3C).team r0.tok) ((vec tI64 0x3C).active r0) ∧
    0 ∉ lanesOf ((bp (fun p => { p with xm := 2 }) (vec tI64 0x3C)).team r0.tok)
      ((bp (fun p => { p with xm := 2 }) (vec tI64 0x3C)).active r0) :=
  ⟨iss (by decide +kernel), by decide +kernel⟩

theorem witness_VectorFloat :
    (Issuing (vec tF32 0x42) r0 ∧ ((vec tF32 0x42).ty r0).isFloat = true ∧
      (vec tF32 0x42).eOk r0 ((vec tF32 0x42).ty r0) [255, 2, 4] = true) ∧
    ((vec tBf 0x42).ty r0).isFloat = true ∧ (vec tBf 0x42).eOk r0 ((vec tBf 0x42).ty r0) [0, 2] = true :=
  ⟨⟨iss (by decide +kernel), by decide +kernel⟩, by decide +kernel⟩

theorem witness_FloatCompareAndDivide :
    let s := vec tF32 0x4E
    Issuing s r0 ∧ s.ty r0 = .f32 ∧ s.vOk r0 [255, 2, 4] = true ∧ (s.path r0).slot = .ok 0 ∧
    lanesOf (s.team r0.tok) (s.active r0) ≠ [] ∧ 31 < (s.team r0.tok).width :=
  ⟨iss (by decide +kernel), by decide +kernel⟩

theorem witness_VectorConversions :
    let s := vec tI32 0x55
    (Issuing s r0 ∧ Issuing (vec tF32 0x5B) r0 ∧ Issuing (vec tBf 0x59) r0) ∧
    (Fmt.isFloat .f16 = true ∧ s.vOk r0 (1 :: cvtRegs .i64 254) = true) ∧
    (Fmt.isFloat .n64 = false ∧ (evenReg (254 : VReg) = true ∨ Fmt.isPair .n64 = false) ∧
      s.vOk r0 (cvtRegs .n64 254 ++ cvtRegs .f32 255) = true ∧ Fmt.isPair .i8 = false) ∧
    (((vec tBf 0x59).ty r0).packed = true ∧ (vec tBf 0x59).vOk r0 [1, 2, 4] = true) ∧
    ((vec tF32 0x5B).ty r0 = .f32 ∧ ((vec tBf 0x5B).ty r0 = .bf16x2 ∨ (vec tBf 0x5B).ty r0 = .f16x2) ∧
      (1 : BitVec 2).toNat < 2) ∧
    (s.vOk r0 (9 :: vRun 252 4 ++ (some (7 : VReg)).toList) = true ∧ (252 : VReg).toNat % 4 = 0 ∧
      s.vOk r0 (vRun 252 4 ++ 9 :: (none : Option VReg).toList) = true) :=
  ⟨⟨iss (by decide +kernel), iss (by decide +kernel), iss (by decide +kernel)⟩, by decide +kernel⟩

theorem witness_LaneMoves :
    let s := vec tI64 0x5D
    Issuing s r0 ∧ s.eOk r0 (s.ty r0) [254, 2] = true ∧ s.vOk r0 [255] = true ∧ (255 : VReg).toNat < (s.team r0.tok).budget :=
  ⟨iss (by decide +kernel), by decide +kernel⟩

theorem witness_LanesToOne :
    let s := vec tF32 0x60
    let z := bp (fun p => { p with xm := 0 }) s
    (Issuing s r0 ∧ Issuing z r0) ∧
    (z.active r0 &&& (z.team r0.tok).allLanes = 0 ∧ z.eOk r0 (z.ty r0) [2] = true) ∧
    (s.active r0 &&& (s.team r0.tok).allLanes ≠ 0 ∧ s.eOk r0 (s.ty r0) [2] = true ∧
      lanesOf (s.team r0.tok) (s.active r0) = 0 :: (List.range 31).map (· + 1)) ∧
    (s.eOk r0 (s.ty r0) [2] = true ∧ (bt (fun t => { t with budget := 2 }) s).eOk r0 (s.ty r0) [2] = false) ∧
    (foldOk .add (s.ty r0) = true ∧ s.eOk r0 (s.ty r0) [1, 2] = true ∧ foldOk .and (s.ty r0) = false ∧
      lanesOf (z.team r0.tok) (z.active r0) = [] ∧ foldTo s r0 .max 2 0 [0, 1] = (0x3F800000, 0)) :=
  ⟨⟨iss (by decide +kernel), iss (by decide +kernel)⟩, by decide +kernel⟩

theorem witness_MaskInstructions : Issuing (bn 0x66) r0 := iss (by decide +kernel)

/-! ### Witnesses: memory -/

/-- The bench with lane 0 alone active and s1 an address. -/
def one (op : Nat) (va : DWord) : State := sr 1 va (bp (fun p => { p with xm := 1 }) (bn op))

/-- [s1], and a descriptor of a size, a scope and an order. -/
def base : MAddr := ⟨1, none, false⟩
def mdesc (z : MSize) (sc : Scope) (o : Order) : MDesc := ⟨z, sc, o, 0, 0, 0⟩

theorem witness_Scratchpads :
    let s := one 0x70 0x40
    let m := mdesc .b32 .crew .acq
    (Issuing s r0 ∧ s.dataOk r0 255 m.size = true ∧ s.addrOk r0 base = true ∧ (s.path r0).done = 0 ∧
      AcquireGoes s r0 (acquires m.order && !(s.memLanes r0).isEmpty) false (s.spScopeOf r0 base m) s ∧
      (∀ l ∈ s.memLanes r0, s.spAddr (s.crewNo r0) (spEa s r0 base m l).toNat m.size.bytes = .ok (s.crewNo r0, 0x40) ∧
        (s.crewOf r0).spPoisoned 0x40 m.size.bytes = false)) ∧
    (let t := one 0x71 16380
     Issuing t r0 ∧ t.memLanes r0 = [0] ∧ (∀ c ∈ t.crews, c.2.spPoison = []) ∧
      t.spAddr (t.crewNo r0) (spEa t r0 base (mdesc .b32 .team .plain) 0).toNat 4 = .ok (t.crewNo r0, 16380)) :=
  ⟨⟨iss (by decide +kernel), by decide +kernel, by decide +kernel, by decide +kernel, acq_same (by decide +kernel),
    by decide +kernel⟩, iss (by decide +kernel), by decide +kernel⟩

/-- A word of the scratchpad at 0x40 full. -/
def fullAt (s : State) : State := bc (fun c => c.setFull 0x40 true) s

/-- The bench's path waiting at a full word for its `ldsf`. -/
def waiting : State :=
  bp (fun p => { p with wait := .fullEmpty [(1, 0x40, true)], xm := 1 }) (fullAt (sr 1 0x40 (State.reset.withFetchWord 64 0x4000000072020100)))

/-- What a path took up to run. -/
def ranBy : Taken → Option Instr
  | .run i _ => some i
  | .over _ => none

theorem witness_FullEmptyWords :
    let s := one 0x74 0x40
    let u := rel s .crew
    let m := mdesc .b32 .crew .rel
    let goes := fun (c : Crew) (u : State) => ReleaseGoes s r0 (s.bitChanged (s.setCrew 1 c)) (s.spScopeOf r0 base m) u
    (Issuing s r0 ∧ s.dataOk r0 255 .b32 = true ∧ s.addrOk r0 base = true ∧ s.memLanes r0 = [0] ∧ u.memLanes r0 = [0] ∧
      (s.path r0).done = 0 ∧ (u.path r0).live = true ∧ (u.path r0).done = 0 ∧
      s.spAddr (s.crewNo r0) (spEa s r0 base m 0).toNat 4 = .ok (1, 0x40) ∧ (s.crew 1).spPoisoned 0x40 4 = false ∧
      u.spAddr (u.crewNo r0) (spEa u r0 base m 0).toNat 4 = .ok (1, 0x40) ∧ (u.crew 1).spPoisoned 0x40 4 = false ∧
      (∀ b, AcquireGoes u r0 b false (s.spScopeOf r0 base m) u) ∧ (∀ b, AcquireGoes s r0 b false (s.spScopeOf r0 base m) s) ∧
      (s.crew 1).isFull 0x40 = false ∧ (u.crew 1).isFull 0x40 = false) ∧
    (goes ((s.crew 1).setFull 0x40 true) u ∧ goes (s.crew 1) s ∧ goes ((s.crew 1).setFull 0x40 false) s) ∧
    ((one 0x72 0x40).path r0).slot = .ok 0 ∧ ((fullAt s).crew 1).isFull 0x40 = true ∧ (0 : BitVec 4).getLsbD 0 = false ∧
    (1 : BitVec 4).getLsbD 0 = true ∧
    (waiting.path r0).wait.isFull = true ∧ waiting.isReady r0 = true ∧
    waiting.choose (waiting.seqOf r0) (waiting.allPaths.filter fun q =>
      waiting.isReady q && !(waiting.path q).polls && waiting.seqOf q == waiting.seqOf r0) = some r0 ∧
    ranBy (waiting.takeUp r0) = some (.ldsf 2 base (mdesc .b32 .team .plain)) :=
  ⟨by refine ⟨iss ?_, ?_, ?_, ?_, ?_, ?_, ?_, ?_, ?_, ?_, ?_, ?_, fun _ => acq_same ?_, fun _ => acq_same ?_, ?_⟩ <;>
      decide +kernel,
    ⟨by
      have h : (one 0x74 0x40).bitChanged ((one 0x74 0x40).setCrew 1 (((one 0x74 0x40).crew 1).setFull 0x40 true)) = true := by
        decide +kernel
      simp only [h]; exact goes_of (by decide +kernel), by
      have h : (one 0x74 0x40).bitChanged ((one 0x74 0x40).setCrew 1 ((one 0x74 0x40).crew 1)) = false := by decide +kernel
      simp only [h]; exact goes_plain _ _, by
      have h : (one 0x74 0x40).bitChanged ((one 0x74 0x40).setCrew 1 (((one 0x74 0x40).crew 1).setFull 0x40 false)) = false := by
        decide +kernel
      simp only [h]; exact goes_plain _ _⟩, by decide +kernel⟩

theorem misses_of {s : State} {n : Nat} {ea : Nat → DWord}
    (h : missesFor n ea (s.memLanes r0) ≤ missEntries - s.missesUsed (s.coreOf r0)) : MissesFree s r0 n ea := h

/-- Where the bench's address 0x2000 leads. -/
def at2000 : Xlat := ⟨0x2000, false, false⟩

theorem plain_access {s : State} {acc : Access} {n : Nat} {va : DWord} {x : Xlat}
    (h : (s.reach r0 acc n va 0 = .ok (x, .device) ∧ s.l1own = []) ∧ isHostKey x.key = false ∧
      remoteDie (s.coreOf r0) x.home x.key = false ∧ s.verOf r0 = 0 ∧ s.owned x.key n = false ∧
      s.poisonedIn (s.domOf r0) 0 x.key n = false ∧ s.flight = [] ∧ s.pend = [] ∧ s.meetHeld r0 x.home x.key n = false) :
    PlainAccess s r0 acc n va 0 x :=
  { reach := h.1.1, own := by simp [h.1.2], place := h.2.1, near := h.2.2.1, version := h.2.2.2.1, free := h.2.2.2.2.1,
    sound := h.2.2.2.2.2.1, quiet := ⟨by simp [h.2.2.2.2.2.2.1], by simp [h.2.2.2.2.2.2.2.1], h.2.2.2.2.2.2.2.2⟩ }

theorem plain_lanes {s : State} {acc : Access} {n : Nat} {ea : Nat → DWord} (h0 : ∀ l ∈ s.memLanes r0, l = 0)
    (h : PlainAccess s r0 acc n (ea 0) 0 at2000) : ∀ l ∈ s.memLanes r0, PlainAccess s r0 acc n (ea l) l at2000 :=
  fun l hl => by rw [h0 l hl]; exact h

theorem witness_GlobalLoads :
    let s := one 0x79 0x2000
    let m := mdesc .b32 .device .acq
    let u := acq s false .device
    let v := acq s true .device
    Issuing s r0 ∧ s.dataOk r0 255 m.size = true ∧ s.addrOk r0 base = true ∧ (s.path r0).slot = .ok 0 ∧
    s.memLanes r0 ≠ [] ∧ (s.path r0).done = 0 ∧ MissesFree s r0 m.size.bytes (s.ea r0 base m.off) ∧
    (∀ l ∈ s.memLanes r0, PlainAccess s r0 .load m.size.bytes (s.ea r0 base m.off l) l at2000) ∧
    acquires .plain = false ∧ acquires m.order = true ∧ s.memScope r0 .load base m = .device ∧
    (AcquireGoes s r0 true false .device u ∧ u.memLanes r0 = s.memLanes r0 ∧ (u.path r0).live = true ∧
      (u.path r0).done = 0 ∧ MissesFree u r0 m.size.bytes (u.ea r0 base m.off) ∧
      ∀ l ∈ u.memLanes r0, PlainAccess u r0 .load m.size.bytes (u.ea r0 base m.off l) l at2000) ∧
    (AcquireGoes s r0 true true .device v ∧ v.memLanes r0 = s.memLanes r0 ∧ (v.path r0).live = true ∧
      (v.path r0).done = 0 ∧ MissesFree v r0 m.size.bytes (v.ea r0 base m.off) ∧
      ∀ l ∈ v.memLanes r0, PlainAccess v r0 .load m.size.bytes (v.ea r0 base m.off l) l at2000) :=
  ⟨iss (by decide +kernel), by decide +kernel, by decide +kernel, by decide +kernel, by decide +kernel, by decide +kernel,
    misses_of (by decide +kernel), plain_lanes (by decide +kernel) (plain_access (by decide +kernel)),
    by decide, by decide, by decide +kernel,
    ⟨acq_goes (by decide +kernel), by decide +kernel, by decide +kernel, by decide +kernel,
      misses_of (by decide +kernel), plain_lanes (by decide +kernel) (plain_access (by decide +kernel))⟩,
    ⟨acq_goes (by decide +kernel), by decide +kernel, by decide +kernel, by decide +kernel,
      misses_of (by decide +kernel), plain_lanes (by decide +kernel) (plain_access (by decide +kernel))⟩⟩

/-- A plain store in flight to die 0. -/
def fl (op : HomeOp) : Flight :=
  { serial := 7, r := r0, ctx := 0, dom := 0, ver := 0, core := 0, key := 0x2000, op := op, poison := false,
    home := false, va := 0x2000, both := false, sync := false, pass := 0, tie := none, rel := false,
    sent := 0 }

/-- The bench with traffic in flight. -/
def flying (op : HomeOp) : State := { bn 0 with flight := [fl op] }

theorem untouched_of {s : State} {home : Bool} {k n : Nat}
    (h : s.flight = [] ∧ s.pend = [] ∧ s.meetHeld r0 home k n = false) : Untouched s r0 home k n :=
  ⟨by simp [h.1], by simp [h.2.1], h.2.2⟩

/-- The bench behind a release fence. -/
def fenced (s : State) : State := s.modPath r0 fun p => { p with fenced := widest p.fenced (some .device) }

theorem witness_GlobalStoresPerformed :
    let s := one 0x7A 0x2000
    let u := rel s .device
    let v := fenced u
    let m := mdesc .b32 .device .rel
    (Issuing s r0 ∧ s.dataOk r0 255 m.size = true ∧ s.addrOk r0 base = true ∧ s.memLanes r0 ≠ [] ∧
      ReleaseGoes s r0 (false || releases m.order) m.scope u ∧ ReleaseGoes s r0 (true || releases .plain) m.scope u) ∧
    (u.memLanes r0 = s.memLanes r0 ∧ (u.path r0).live = true ∧ (u.path r0).done = 0 ∧
      MissesFree u r0 m.size.bytes (u.ea r0 base m.off) ∧ u.memLanes r0 = [0] ∧
      u.reach r0 .store m.size.bytes (u.ea r0 base m.off 0) = .ok (at2000, .device) ∧
      u.owned at2000.key m.size.bytes = false ∧
      Untouched u r0 (decide (dieOfCore (u.coreOf r0) = 1)) at2000.key m.size.bytes) ∧
    (v.memLanes r0 = s.memLanes r0 ∧ (v.path r0).live = true ∧ (v.path r0).done = 0 ∧
      MissesFree v r0 m.size.bytes (v.ea r0 base m.off) ∧ v.memLanes r0 = [0] ∧
      v.reach r0 .store m.size.bytes (v.ea r0 base m.off 0) = .ok (at2000, .device) ∧
      v.owned at2000.key m.size.bytes = false ∧
      Untouched v r0 (decide (dieOfCore (v.coreOf r0) = 1)) at2000.key m.size.bytes ∧
      remoteDie (v.coreOf r0) at2000.home at2000.key = false) ∧
    (let t := flying (.write [1, 2, 3, 4])
     t.flight = [fl (.write [1, 2, 3, 4])] ∧ (fl (.write [1, 2, 3, 4])).ver = 0 ∧
      t.crossHeld (fl (.write [1, 2, 3, 4])) = false ∧ isHostKey (0x2000 + 4) = isHostKey 0x2000 ∧ t.vspans = []) :=
  ⟨⟨iss (by decide +kernel), by decide +kernel, by decide +kernel, by decide +kernel, goes_of (by decide +kernel),
      goes_of (by decide +kernel)⟩,
    ⟨by decide +kernel, by decide +kernel, by decide +kernel, misses_of (by decide +kernel), by decide +kernel,
      by decide +kernel, by decide +kernel, untouched_of (by decide +kernel)⟩,
    ⟨by decide +kernel, by decide +kernel, by decide +kernel, misses_of (by decide +kernel), by decide +kernel,
      by decide +kernel, by decide +kernel, untouched_of (by decide +kernel), by decide +kernel⟩, by decide +kernel⟩

theorem witness_Atomics :
    let s := one 0x84 0x2000
    let m := mdesc .b32 .device .ar
    let u := ordered s .device
    (Issuing s r0 ∧ s.addrOk r0 base = true ∧ s.memLanes r0 = [0] ∧ u.memLanes r0 = [0] ∧ (s.path r0).slot = .ok 0 ∧
      (u.path r0).live = true ∧ (u.path r0).done = 0 ∧ s.memScope r0 .atomic base m = .device ∧
      OrderGoes s r0 m.order .device u ∧ u.vspans = [] ∧ MissesFree u r0 m.size.bytes (u.ea r0 base m.off) ∧
      PlainAccess u r0 .atomic m.size.bytes (u.ea r0 base m.off 0) 0 at2000 ∧ s.dataOk r0 255 m.size = true ∧
      s.casOk r0 254 m.size = true ∧ AtomOp.ofCode 12 = some .decw ∧ acquires m.order = true ∧
      u.meetHeld r0 (decide (dieOfCore (u.coreOf r0) = 1)) 0x2000 4 = false) ∧
    (acquires .plain = false ∧ OrderGoes s r0 .plain .device s ∧
      PlainAccess s r0 .atomic m.size.bytes (s.ea r0 base m.off 0) 0 at2000 ∧
      MissesFree s r0 m.size.bytes (s.ea r0 base m.off) ∧
      s.meetHeld r0 (decide (dieOfCore (s.coreOf r0) = 1)) 0x2000 4 = false) ∧
    (let t := flying (.atomic .add 4 1)
     t.flight = [fl (.atomic .add 4 1)] ∧ t.crossHeld (fl (.atomic .add 4 1)) = false ∧
      t.poisonedIn 0 0 0x2000 4 = false ∧ isHostKey (0x2000 + 4) = isHostKey 0x2000 ∧ t.vspans = []) :=
  ⟨by refine ⟨iss ?_, ?_, ?_, ?_, ?_, ?_, ?_, ?_, order_goes ?_ ?_, ?_, misses_of ?_, plain_access ?_, ?_⟩ <;>
      decide +kernel,
    ⟨by decide, fun _ => rfl, plain_access (by decide +kernel), misses_of (by decide +kernel), by decide +kernel⟩,
    by decide +kernel⟩

/-- The bench with one parameter window of 16 bytes. -/
def windowed : State :=
  { bp (fun p => { p with xm := 1 }) (bn 0x7E) with
    grids := [(1, { benchGrid with record := { LaunchRec.zero with windows := [(0x2000, 16)] } })] }

def isOk {ε α : Type} : Except ε α → Bool
  | .ok _ => true
  | .error _ => false

theorem ok_of {ε α : Type} {x : Except ε α} (h : isOk x = true) : ∃ a, x = .ok a := by
  cases x with
  | ok a => exact ⟨a, rfl⟩
  | error e => exact absurd h (by simp [isOk])

/-- The bytes that an access reads one by one: each in device memory, on the core's own die, and quiet. -/
def quietBytes (s : State) : Except XErr (List Xlat) → Bool
  | .ok xs => xs.all fun x => !x.host && !isHostKey x.key && !remoteDie (s.coreOf r0) x.home x.key &&
      !s.poisonedIn (s.domOf r0) (s.verOf r0) x.key 1 && !s.poisoned x.key 1 && !s.owned x.key 1 &&
      !s.meetHeld r0 x.home x.key 1
  | .error _ => false

theorem quiet_bytes {s : State} {e : Except XErr (List Xlat)} (h : quietBytes s e = true)
    (h' : s.flight = [] ∧ s.pend = []) :
    ∃ xs, e = .ok xs ∧ ∀ x ∈ xs, x.host = false ∧ isHostKey x.key = false ∧ remoteDie (s.coreOf r0) x.home x.key = false ∧
      s.poisonedIn (s.domOf r0) (s.verOf r0) x.key 1 = false ∧ s.poisoned x.key 1 = false ∧
      s.owned x.key 1 = false ∧ Untouched s r0 x.home x.key 1 := by
  cases e with
  | error _ => exact absurd h (by simp [quietBytes])
  | ok xs =>
    refine ⟨xs, rfl, fun x hx => ?_⟩
    simp only [quietBytes, List.all_eq_true, Bool.and_eq_true, Bool.not_eq_true'] at h
    obtain ⟨⟨⟨⟨⟨⟨a, b⟩, c⟩, d⟩, e⟩, g⟩, f⟩ := h x hx
    exact ⟨a, b, c, d, e, g, untouched_of ⟨h'.1, h'.2, f⟩⟩

theorem witness_ParameterLoads :
    let s := windowed
    let a : MAddr := ⟨0, none, false⟩
    let o := s.ea r0 { a with base := 0 } 12 0
    let o' := s.ea r0 { a with base := 0 } 13 0
    let low := s.ea r0 { a with base := 0 } 0xFFFF 0
    Issuing s r0 ∧ (∃ xs, s.bytesAt r0 (0x2000 + o) 0 4 = .ok xs ∧
      ∀ x ∈ xs, x.host = false ∧ isHostKey x.key = false ∧ remoteDie (s.coreOf r0) x.home x.key = false ∧
        s.poisonedIn (s.domOf r0) (s.verOf r0) x.key 1 = false ∧ s.poisoned x.key 1 = false ∧
        s.owned x.key 1 = false ∧ Untouched s r0 x.home x.key 1) ∧
    MissesFree s r0 4 (fun l => 0x2000 + s.ea r0 { a with base := 0 } 12 l) ∧
    s.dataOk r0 255 .b32 = true ∧ s.addrOk r0 a = true ∧ (s.path r0).slot = .ok 0 ∧ (s.path r0).done = 0 ∧
    s.memLanes r0 = [0] ∧ (s.gridOf r0).record.windows.getD (a.base.toNat % 8) (0, 0) = (0x2000, 16) ∧
    0 ≤ o.toInt ∧ o.toInt.toNat + 4 ≤ 16 ∧ s.regions = [] ∧ s.l1own = [] ∧
    s.vspans = [] ∧ ¬ (o'.toInt.toNat + 4 ≤ 16) ∧ ¬ (0 ≤ low.toInt) :=
  ⟨iss (by decide +kernel), quiet_bytes (by decide +kernel) (by decide +kernel), misses_of (by decide +kernel),
    by decide +kernel⟩

theorem witness_CacheMaintenance :
    let s := one 0x7C 0x2000
    let m := mdesc .b8 .die .plain
    let y := mdesc .b8 .system .plain
    (Issuing s r0 ∧ s.addrOk r0 base = true ∧ (s.path r0).done = 0 ∧ s.memLanes r0 = [0] ∧
      (missesFor m.size.bytes (s.ea r0 base m.off) (s.memLanes r0) ≤ missEntries - s.missesUsed (s.coreOf r0) ∧
        s.crossStop = false) ∧ (s.ea r0 base m.off 0).toNat < 2 ^ 56 ∧
      (∃ x, s.translate (s.coreOf r0) (s.ctxOf r0) (s.kernel r0) .cache (s.ea r0 base m.off 0) (some r0) = .ok x) ∧
      s.owned 0x2000 32 = false) ∧
    (Scope.crossRdc m.scope = false ∧ Scope.crossRdc y.scope = true ∧
      s.meetHeld r0 (decide (dieOfCore (s.coreOf r0) = 1)) 0x2000 32 = false ∧
      (∀ inv : Bool, ((s.maintain r0 inv m.scope fun j => decide (0x2000 ≤ j) && decide (j < 0x2020)).path r0).live = true ∧
        ((((s.drain r0 0x2000 32).maintain r0 inv y.scope fun j => decide (0x2000 ≤ j) && decide (j < 0x2020)).hostOut
          0x2000 32 inv).path r0).live = true)) ∧
    (s.copies = [] ∧ s.flight = [] ∧ s.pend = [] ∧ s.hostL2 = [] ∧
      s.loadHeld (s.coreOf r0) (decide (dieOfCore (s.coreOf r0) = 1)) s.nextSer = false) :=
  ⟨⟨iss (by decide +kernel), by decide +kernel, by decide +kernel, by decide +kernel, by decide +kernel, by decide +kernel,
    ok_of (by decide +kernel), by decide +kernel⟩, by decide +kernel, by decide +kernel⟩

theorem witness_RemoteRequests :
    let s := bt (fun t => t.vset 2 0 5) (one 0x7F 0x2000)
    let d := bp (fun p => { p with done := 1 }) s
    (Issuing s r0 ∧ Issuing d r0) ∧
    (s.team r0.tok).uniform = false ∧ s.vOk r0 [2] = true ∧ s.addrOk r0 base = true ∧ s.dataOk r0 9 .b32 = true ∧
    ((s.path r0).slot = .ok 0 ∧ (bp (fun p => { p with flags := 1 }) s |>.path r0).slot = .busy 0 ∧ s.pend = []) ∧
    s.memLanes r0 = [0] ∧ (s.path r0).done = 0 ∧ s.arrived = false ∧
    s.remoteFault r0 (.load false) 4 0x2000 5 = none ∧ s.remoteFault r0 .store 4 0x2000 5 = none ∧
    s.remoteFault r0 (.atomic .add true) 4 0x2000 5 = none ∧ AtomOp.ofCode 0 = some .add ∧ AtomOp.add ≠ .cas ∧
    (∀ l ∈ d.memLanes r0, (d.path r0).done.getLsbD l = true) :=
  ⟨⟨iss (by decide +kernel), iss (by decide +kernel)⟩, by decide +kernel⟩

/-! ### Witnesses: the matrix array -/

/-- The bench's core with slot 3 claimed under generation 1, and its format blocks at 0x2000: bf16 with no scales. -/
def arr (c : CoreSt) (op : Nat) : State :=
  sr 4 0x2000 (sr 3 0x103 (sr 2 0x103 { bn op with cores := [(0, { c with
    claimed := 8, gens := [(3, 1)], fa := some 0x2000, fb := some 0x2000 })] }))

/-- Seven and eight instructions waiting. -/
def queue (n : Nat) : List ArrayEntry := List.replicate n ⟨r0, 1, .mclr 1, []⟩

/-- Every slot claimed. -/
def taken32 (op : Nat) : State := { bn op with cores := [(0, { CoreSt.init with claimed := 0xFFFFFFFF })] }

theorem witness_MatrixIssue :
    let s := fun n op => arr { CoreSt.init with queue := queue n } op
    (Issuing (s 7 0x91) r0 ∧ Issuing (s 8 0x99) r0 ∧ Issuing (s 7 0x94) r0) ∧
    ((s 7 0x91).ownsArray r0 = true ∧ ((s 7 0x91).coreSt ((s 7 0x91).coreOf r0)).handle (((s 7 0x91).sget r0 2).setWidth 32) = some 3 ∧
      ((s 7 0x91).coreSt ((s 7 0x91).coreOf r0)).handle (((s 7 0x91).sget r0 0).setWidth 32) = none ∧
      ((s 7 0x91).coreSt ((s 7 0x91).coreOf r0)).queue.length < 8 ∧ 8 ≤ ((s 8 0x99).coreSt ((s 8 0x99).coreOf r0)).queue.length) ∧
    ((32 : BitVec 7).toNat + ((31 : BitVec 7).toNat + 1) ≤ 64 ∧
      (s 7 0x92).spRange ((s 7 0x92).crewNo r0) 0x400 (128 * 32) 16 = .ok (1, 0x400)) ∧
    ((s 7 0x94).matrixTeam r0 = true ∧ (3 : BitVec 2) ≠ 0 ∧ 1 ≤ (1 : BitVec 9).toNat ∧ (256 : BitVec 9).toNat ≤ 256) ∧
    (∃ m, (s 7 0x94).mulCheck r0 ((s 7 0x94).lowHalf r0 2) ((s 7 0x94).lowHalf r0 3)
      (((s 7 0x94).sget r0 3).extractLsb' 32 32) true true 1 false = .ok m) ∧
    (∃ m, (s 7 0x94).mulCheck r0 ((s 7 0x94).lowHalf r0 2) ((s 7 0x94).lowHalf r0 3)
      (((s 7 0x94).sget r0 3).extractLsb' 32 32) true true 64 true = .ok m) ∧
    ((List.range 32).find? (fun i => (s 0 0x90).slotFree 0 i) = some 0 ∧
      (List.range 32).find? (fun i => (taken32 0x90).slotFree 0 i) = none) ∧
    ((s 7 0x93).matrixTeam r0 = true ∧ 2 ^ 56 ≤ ((sr 4 0xFF00000000000000 (s 7 0x93)).sget r0 4).toNat ∧
      ((s 7 0x93).sget r0 4).toNat < 2 ^ 56 ∧ ((s 7 0x93).sget r0 4).toNat % 32 = 0 ∧ ((s 7 0x93).sget r0 3).toNat % 32 ≠ 0) :=
  ⟨⟨iss (by decide +kernel), iss (by decide +kernel), iss (by decide +kernel)⟩, by decide +kernel, by decide +kernel,
    by decide +kernel, ok_of (by decide +kernel), ok_of (by decide +kernel), by decide +kernel, by decide +kernel⟩

theorem witness_ArrayExecutes :
    let s := arr { CoreSt.init with queue := [⟨r0, 1, .tld 3 62 2 1 0x40, []⟩] } 0x92
    let t := arr { CoreSt.init with queue := [⟨r0, 1, .tzero 31, []⟩] } 0x99
    (s.arrayStill 0 = false ∧ t.arrayStill 0 = false) ∧
    ((s.coreSt 0).queue = [⟨r0, 1, .tld 3 62 2 1 0x40, []⟩] ∧ (s.crew 1).spPoison = [] ∧ 255 < 128 * 2) ∧
    (t.coreSt 0).queue = [⟨r0, 1, .tzero 31, []⟩] ∧ 8191 < 8192 := by decide +kernel

/-- The bench's path with lane l alone, before a drain of the accumulators at s8 by s9 bytes. -/
def draining (l : Nat) : State :=
  bp (fun p => { p with xm := BitVec.ofNat 1024 (2 ^ l) }) (bt (fun t => { t with width := 64 }) (sr 8 0x2000 (sr 9 256 (bn 0x97))))

/-- A row that drained to its end, its path living. -/
def drainsRow : LaneRes → Bool
  | .ok t [] _ none => (t.path r0).live
  | _ => false

theorem drained_of {x : LaneRes} (h : drainsRow x = true) : ∃ u out, x = .ok u [] out none ∧ (u.path r0).live = true := by
  unfold drainsRow at h
  split at h
  · exact ⟨_, _, rfl, h⟩
  · exact absurd h (by simp)

theorem witness_ArrayDrains :
    let s := draining 63
    let cols := List.range 128
    let t := s.modPath r0 fun p => { p with done := p.done ||| maskOf [63] fun l => decide (64 ≤ l) }
    (Issuing s r0 ∧ s.drains r0 = true ∧ s.memLanes r0 = [63] ∧ (s.path r0).done = 0 ∧
      (254 : VReg).toNat < (s.team r0.tok).budget ∧
      ((s.sget r0 0).toNat % 128 + 63 / 64 ≤ 127 ∧
        (s.raceCells (s.coreOf r0) [(63, 0)]).drained r0 .f32 63 0 = .ok (0, false)) ∧
      127 < ((bp (fun p => { p with xm := 2 ^ 64 }) (sr 8 127 s)).sget r0 8).toNat % 128 + 64 / 64 ∧
      (8 : SReg).toNat % 2 = 0 ∧ (s.path r0).slot = .ok 0 ∧ 63 < 64 ∧ t.memLanes r0 = [63]) ∧
    MissesFree t r0 256 (fun l => s.sget r0 8 + BitVec.ofNat 64 l * s.sget r0 (8 + 1)) ∧
    ∃ u out, State.drainRow r0 .bf16 .store 63 (s.sget r0 8 + BitVec.ofNat 64 63 * s.sget r0 (8 + 1)) cols
      (t.raceCells (s.coreOf r0) (cols.map fun n => (63, n))) [] = .ok u [] out none ∧ (u.path r0).live = true :=
  ⟨⟨iss (by decide +kernel), by decide +kernel⟩, misses_of (by decide +kernel), drained_of (by decide +kernel)⟩

theorem witness_CooperativeTiles :
    let s := bn 0x98
    (Issuing s r0 ∧ s.matrixTeam r0 = true ∧ 1 ≤ (1 : BitVec 9).toNat ∧ (256 : BitVec 9).toNat ≤ 256 ∧ (11 : BitVec 4).toNat < 12 ∧
      (s.crewOf r0).cidx < ((7 : BitVec 3).toNat + 1) * ((11 : BitVec 4).toNat + 1)) ∧
    (Issuing (bc (fun c => { c with cidx := 1 }) s) r0 ∧
      ((0 : BitVec 3).toNat + 1) * ((0 : BitVec 4).toNat + 1) ≤ ((bc (fun c => { c with cidx := 1 }) s).crewOf r0).cidx) :=
  ⟨⟨iss (by decide +kernel), by decide +kernel⟩, iss (by decide +kernel), by decide +kernel⟩

/-- The bench's path waiting at `mcoop s2, s3, #1` of a tile of one. -/
def cooping : State :=
  bp (fun p => { p with wait := .mcoop }) (arr CoreSt.init 0 |> fun s =>
    { State.reset.withFetchWord 64 0x0000000198000203 with
      cores := s.cores, teams := (sr 3 0x103 (sr 2 0x103 (State.reset.withFetchWord 64 0x0000000198000203))).teams })

theorem witness_CooperativeTiles_rendezvous :
    let p : Coop := ⟨r0, 0, 2, 3, 1, false, 1, 1⟩
    (cooping.coopWaiting 1 0 = [p] ∧ p.mt = 1 ∧ p.nt = 1 ∧ p.cidx = 0 ∧
      (cooping.coreSt (cooping.coreOf p.r)).queue.length < 8) ∧ ∃ m, cooping.coopCheck [p] p = .ok m :=
  ⟨by decide +kernel, ok_of (by decide +kernel)⟩

/-! ### Witnesses: synchronisation -/

theorem witness_FencesAndReleases :
    let s := bp (fun p => { p with flags := 2 }) (bn 0xA0)
    (Issuing s r0 ∧ (∀ k, (s.releaseIf r0 (releases .ar) .pod fun t => t.acquire r0 (acquires .ar) true .pod k) =
      k (acq (rel s .pod) true .pod)) ∧
      ∀ k, (s.releaseIf r0 (releases .rel) .die fun t => t.acquire r0 (acquires .rel) true .die k) = k (rel s .die)) ∧
    (∀ c ∈ s.copies, c.2.bad = false) ∧
    ((s.path r0).flags &&& 1 = 0 ∧ waitNote (s.path r0).poison 1 = none ∧ (s.path r0).flags &&& 2 ≠ 0) ∧
    (∃ f ∈ (flying (.write [1])).flight, f.of r0 = true) ∧
    ((∀ f ∈ s.flight, f.of r0 = false) ∧ (∀ q ∈ s.reqs, q.r = r0 → q.ended = true) ∧ s.arrayBusy r0 = false ∧
      s.unread r0 = false ∧ (∀ p ∈ s.pend, s.precedes r0 p.r p.serial = true → p.held = false ∧ p.loads = none) ∧
      (s.path r0).poison = [] ∧ (s.path r0).failed = [] ∧ s.outHeld (s.coreOf r0) .pod = false) :=
  ⟨⟨iss (by decide +kernel), fun k => (goes_of (by decide +kernel) _).trans (acq_goes (by decide +kernel) k),
    fun k => goes_of (by decide +kernel) k⟩, by decide +kernel, by decide +kernel, by decide +kernel, by decide +kernel⟩

/-- The bench's crew with some tags held, one of which, 3, is busy. -/
def tagged (held : BitVec 64) (err : BitVec 64) (op : Nat) : State :=
  { bc (fun c => { c with tags := held, tagErr := err }) (bn op) with
    engines := [{ engCmd 1 (.chain []) .queued with tag := 3 }] }

theorem witness_CopyTags :
    let s := fun m => sr 2 m (tagged 0xF 0 0xA2)
    let full := tagged 0xFFFFFFFFFFFFFFFF 0 0xA4
    (Issuing (s 0) r0 ∧ Issuing full r0) ∧
    ((s 0).sget r0 2 = 0 ∧ (s 8).sget r0 2 ≠ 0 ∧ clearTags ((s 8).tagBusy 1) 8 = [] ∧
      clearTags ((s 9).tagBusy 1) 9 = [0] ∧ ((s 9).crewOf r0).tagErr &&& tagMask [0] = 0 ∧ ((s 9).crewOf r0).tagScope = [] ∧
      tagMask [0] ≠ 9 ∧ tagMask (clearTags ((s 1).tagBusy 1) 1) = 1) ∧
    (64 ≤ full.tagsOn (full.crewOf r0).core ∧ (s 0).tagsOn ((s 0).crewOf r0).core < 64 ∧
      (List.range 64).find? (fun t => !((s 0).crewOf r0).tags.getLsbD t) = some 4) ∧
    (((s 0).crewOf r0).tags.getLsbD 63 = false ∧ ((s 0).crewOf r0).tags.getLsbD 0 = true ∧ (s 0).tagBusy 1 0 = false) :=
  ⟨⟨iss (by decide +kernel), iss (by decide +kernel)⟩, by decide +kernel⟩

/-- A cluster of a grid in a phase, its place on a die. -/
def clu (ph : ClusterPhase) (die : Bool) : ClusterSt :=
  { idx := 0, phase := ph, die := die, hw := 0, since := 0, placedAt := 0, restoredAt := none, guarded := false,
    drained := false, saveStart := 0, saveTime := 0, saveOrder := 0, restoreStart := 0, crews := [1], frames := [],
    claim := false, gone := [], stuck := none }

/-- The bench's grid resident, or over both dies. -/
def gridOf (g : Grid) (s : State) : State := { s with grids := [(1, g)] }
def resident : Grid := { benchGrid with record := { LaunchRec.zero with res := true } }
def overDies : Grid := { resident with clusters := [clu .resident false, { clu .resident true with idx := 1, crews := [] }] }

theorem witness_Barriers :
    let s := bn 0xA6
    let u := rel s .crew
    let v := gridOf resident (bn 0xA6)
    (Issuing s r0 ∧ (s.gridOf r0).record.res = false ∧ Issuing v r0 ∧ (v.gridOf r0).record.res = true ∧
      ReleaseGoes v r0 true (barOrder .grid) (rel v .device)) ∧
    (ReleaseGoes s r0 true .crew u ∧ u.teams = [(r0.tok, u.team r0.tok)] ∧ u.saved = [] ∧ (u.team r0.tok).live = true ∧
      (u.path r0).live = true ∧ ((u.team r0.tok).path (!r0.path)).live = false) ∧
    (let d := gridOf overDies (bn 0xA6)
     let t := bc (fun c => { c with core := 288 }) (bt (fun t => { t with barArr := [(barKey .grid 3, 1)] }) d)
     let w := { d with dieMsgs := [barMsg 1 3 0], teams := (bt (fun t => { t with barArr := [(barKey .grid 3, 1)] }) d).teams }
     (d.grid 1).live = true ∧ (d.grid 1).twoDies = true ∧ d.crossOpen = true ∧ t.dieArrivedAt 1 1 3 0 = true ∧
      t.dieMsgs.contains (barMsg 1 3 0) = false ∧ w.dieArrivedAt 1 0 3 0 = true ∧ w.dieMsgs.contains (barMsg 1 3 0) = true ∧
      w.completes.contains (barMsg 1 3 0) = false) :=
  ⟨⟨iss (by decide +kernel), by decide +kernel, iss (by decide +kernel), by decide +kernel, goes_of (by decide +kernel)⟩,
    ⟨goes_of (by decide +kernel), by decide +kernel⟩, by decide +kernel⟩

/-- The bench with its monitor armed on the flake of 0x2000. -/
def armed (landed restored : Bool) : State :=
  bp (fun p => { p with monitor := some ⟨flakeOf 0x2000, landed, restored⟩ }) (bn 0xA8)

theorem witness_MonitorsAndWrites :
    let s := one 0xA7 0x2000
    let m := mdesc .b64 .device .acq
    let u := acq s false .device
    (Issuing s r0 ∧ PlainAccess s r0 .load m.size.bytes (s.sget r0 1 + m.off.signExtend 64) 0 at2000 ∧
      s.missesUsed (s.coreOf r0) < missEntries ∧
      AcquireGoes s r0 (acquires m.order) false m.scope u ∧ (u.path r0).live = true ∧
      PlainAccess u r0 .load m.size.bytes (u.sget r0 1 + m.off.signExtend 64) 0 at2000) ∧
    (Issuing (bn 0xA8) r0 ∧ ((bn 0xA8).path r0).monitor = none ∧ Issuing (armed false true) r0 ∧
      ((armed true false).path r0).monitor = some ⟨flakeOf 0x2000, true, false⟩ ∧
      ((armed false true).path r0).monitor = some ⟨flakeOf 0x2000, false, true⟩ ∧
      ((armed false false).path r0).monitor = some ⟨flakeOf 0x2000, false, false⟩) ∧
    (let w := bp (fun p => { p with wait := .mwait (some 9) 4 }) (armed false false)
     (w.path r0).wait = .mwait (some 9) 4 ∧ w.running r0 = true) ∧
    (((armed false false).team r0.tok).live = true ∧ ((armed false false).path r0).live = true ∧
      [(1 : Byte)] ≠ [] ∧ flakeOf 0x1FFF ≤ flakeOf 0x2000 ∧ flakeOf 0x2000 ≤ flakeOf (0x1FFF + [(1 : Byte), 2].length - 1) ∧
      ∀ t d, ((armed false false).path r0).wait ≠ .mwait t d) :=
  ⟨⟨iss (by decide +kernel), plain_access (by decide +kernel), by decide +kernel, acq_goes (by decide +kernel), by decide +kernel,
      plain_access (by decide +kernel)⟩,
    ⟨iss (by decide +kernel), by decide +kernel, iss (by decide +kernel), by decide +kernel⟩, by decide +kernel,
    by decide +kernel, by decide +kernel, by decide +kernel, by decide +kernel, by decide +kernel, fun t d h => by
      have e : ((armed false false).path r0).wait = .none := by decide +kernel
      simp [e] at h⟩

/-- The bench's team at a grace depth, its context with a deferred ring. -/
def graced (n size : Nat) (ring : List RingEntry) : State :=
  let s := bt (fun t => { t with grace := n }) (bn 0xA9)
  s.modCtx 0 fun c => { c with
    record := { c.record with grsize := size }, grace := { c.grace with ring := ring } }

/-- A deferred entry. -/
def ringEntry (thawed : Bool) : RingEntry := ⟨1, thawed⟩

theorem witness_GracePeriods :
    let s := graced 2 1 []
    (Issuing s r0 ∧ ReleaseGoes s r0 true .device (rel s .device) ∧ ¬ (s.releaseGate r0 .device = .wait) ∧
      (flying (.write [1])).releaseGate r0 .device = .wait) ∧
    ((s.team r0.tok).grace ≠ 15 ∧ 1 < (s.team r0.tok).grace ∧ ((graced 15 1 []).team r0.tok).grace = 15 ∧
      ((graced 0 1 []).team r0.tok).grace = 0 ∧ s.verOf r0 = 0 ∧
      (s.ctx (s.ctxOf r0)).grace.ring.length < (s.ctx (s.ctxOf r0)).record.grsize ∧
      ((graced 0 1 [ringEntry true]).ctx 0).record.grsize ≤ ((graced 0 1 [ringEntry true]).ctx 0).grace.ring.length ∧
      ((graced 0 1 [ringEntry true]).ctx 0).grace.ring = [ringEntry true] ∧
      ((graced 0 1 [ringEntry false]).ctx 0).grace.ring = [ringEntry false] ∧ (s.ctx 0).grace.ring = []) ∧
    (bn 0xAD |> gridOf { benchGrid with ver := 1, dom := 1 }).verOf r0 ≠ 0 :=
  ⟨⟨iss (by decide +kernel), goes_of (by decide +kernel), by decide +kernel⟩, by decide +kernel⟩

/-- The bench with control registers set. -/
def regs (l : List (Nat × Nat)) (s : State) : State := l.foldl (fun s x => s.csrPut x.1 0 (BitVec.ofNat 64 x.2)) s

/-- A message of rank 5 for this device, and the port it came through. -/
def hdr5 : PodHdr := ⟨7, 5, 0, 0x77, 2, 0, 0, false, 0, 0, 0, true⟩
def from5 : Via := ⟨3, hdr5⟩

/-- Port 3 up, and its table with the job key of those messages. -/
def linked (s : State) : State := { regs [(0x4083, 8)] s with portup := 8, mship := [(3 * 64, 0x77, 0)] }

theorem some_of {α : Type} {x : Option α} (h : x.isSome = true) : ∃ a, x = some a := Option.isSome_iff_exists.mp h

theorem arrives_of {s : State} {v : Via}
    (h : (s.boot = 2 ∧ s.portIsUp v.port = true ∧ v.h.dst = s.rank ∧ s.seenSeq.contains (v.h.src, v.h.serial) = false) ∧
      (s.packetCtx v.port v.h).isSome = true) : Arrives s v :=
  ⟨h.1.1, h.1.2.1, h.1.2.2.1, h.1.2.2.2, .inr (some_of h.2)⟩

/-- STEPCTL enabled for context c. -/
def stepping (c : Nat) (s : State) : State := regs [(0x4090, 2 ^ 20 + c)] s

/-- The bench's team divided, its path 1 at their join. -/
def joining : State :=
  bt (fun t => { t with divided := true, path0 := { t.path0 with wait := .join }, path1 := { t.path0 with wait := .join } }) (bn 0)

theorem witness_Supersteps :
    let s := bn 0xAF
    let a := { s with arrived := true }
    let o := bp (fun p => { p with wait := .none }) joining
    (Issuing s r0 ∧ Issuing a r0 ∧ (stepping 5 s).stepGroup = true ∧ (stepping 5 s).ctxOf r0 ≠ (stepping 5 s).stepCtx ∧
      s.stepGroup = false ∧ (stepping 0 s).ctxOf r0 = (stepping 0 s).stepCtx) ∧
    ReleaseGoes a r0 true .pod (rel a .pod) ∧ (rel a .pod).arrived = true ∧
    ReleaseGoes s r0 true .pod (rel s .pod) ∧ (rel s .pod).arrived = false ∧
    (((rel s .pod).team r0.tok).path (!r0.path)).live = false ∧
    (Issuing o r0 ∧ ReleaseGoes o r0 true .pod (rel o .pod) ∧ (rel o .pod).arrived = false ∧
      (((rel o .pod).team r0.tok).path (!r0.path)).live = true ∧
      ∀ n q, (((rel o .pod).team r0.tok).path (!r0.path)).wait ≠ .step n q) :=
  ⟨⟨iss (by decide +kernel), iss (by decide +kernel), by decide +kernel⟩, goes_of (by decide +kernel), by decide +kernel,
    goes_of (by decide +kernel), by decide +kernel, by decide +kernel, iss (by decide +kernel), goes_of (by decide +kernel),
    by decide +kernel, by decide +kernel, fun n q h => by
      have e : (((rel (bp (fun p => { p with wait := .none }) joining) .pod).team r0.tok).path (!r0.path)).wait = .join := by
        decide +kernel
      simp [e] at h⟩

/-- A contribution of a team to a pod-shared line. -/
def firnAt (step : Nat) : FirnEntry := ⟨step, false, false, 0, 0x2000, 0x2000, 4, 7, 0, 0, false⟩

theorem witness_PodBoundaries :
    let s := { stepping 0 (linked (bn 0)) with members := [0, 7], stepState := 2, stepNo := 5 }
    Arrives s from5 ∧
    let a := { s with arrived := true, arrivals := [(0, 1)] }
    let seven := fun (s : State) => ({ regs [(0x4089, 7)] s with stepNo := 5 } : State)
    (4 ≠ s.stepNo ∧ State.reset.stepGroup = false ∧ s.stepGroup = true ∧ s.failures = [] ∧ s.arrived = false ∧
      s.queried = false ∧ ({ s with queried := true } : State).queried = true ∧ a.begun = true ∧ s.begun = false) ∧
    (s.members.contains 8 = false ∧ s.members.contains 7 = true ∧ s.decision = none ∧
      ({ s with decision := some true } : State).decision ≠ none ∧
      (({ s with failures := [7] } : State).failColl 7).position = 0 ∧
      (({ regs [(0x4089, 7)] s with failures := [0] } : State).failColl 0).position ≠ 0) ∧
    (s.position = 0 ∧ (seven a).position ≠ 0 ∧ (seven a).begun = true ∧ s.handed = false ∧ s.asked = [] ∧
      (let q := { s with asked := [5, 7] }
       q.asked ≠ [] ∧ q.asked.contains hdr5.src = true ∧ s.asked.contains hdr5.src = false)) ∧
    4 < s.stepNo ∧
    (a.arrived = true ∧ a.decision ≠ some false ∧ a.queried = false ∧ a.position = 0 ∧
      a.halvesIn a.group'.length 0 (handUp a.group'.length 0) = true ∧
      (let b := { regs [(0x4089, 7)] a with arrivals := [] }
       b.position = 1 ∧ b.arrived = true ∧ b.queried = false ∧ b.decision ≠ some false ∧
        b.halvesIn b.group'.length 1 (handUp b.group'.length 1) = true)) ∧
    (s.regionsNext = none ∧ (∀ c ∈ s.ctxs, c.2.heldPackets = []) ∧ (∀ q ∈ s.copies, q.2.dirty = false) ∧ s.firn = [] ∧
      ({ s with firn := [firnAt 6] } : State).firn ≠ []) ∧ (seven s).stepNo = 5 :=
  ⟨arrives_of (by decide +kernel), by decide +kernel⟩

/-! ### Witnesses: registers, freezing, semaphores -/

theorem witness_RegisterInstructions :
    let s := bn 0xD0
    let u := rel s .device
    (Issuing s r0 ∧ s.kernel r0 = true ∧ csrListed 0x1003 = true ∧ isSem 0x1003 = false ∧ 0x1003 ≠ 0x4069 ∧
      csrListed 0x4060 = true ∧ csrWo 0x4060 = true ∧ csrListed 0x4069 = true ∧ csrListed 0x4000 = true ∧ isSem 0x4000 = true ∧
      csrListed 0x401F = true ∧ isSem 0x401F = true ∧ isSem 0x4020 = false) ∧
    ((csrWc 0x1004 = true → CsrOp.write = .write) ∧ (csrWc 0x1003 = true → CsrOp.set = .write) ∧ (s.path r0).flags = 0 ∧
      (∀ l ∈ s.late, l.r.tok ≠ r0.tok) ∧ ReleaseGoes s r0 true .device u) ∧
    Issuing (bp (fun p => { p with flags := 0x800 }) s) r0 ∧ ((bp (fun p => { p with flags := 0x800 }) s).path r0).flags ≠ 0 :=
  ⟨⟨iss (by decide +kernel), by decide +kernel⟩,
    ⟨by decide +kernel, by decide +kernel, by decide +kernel, by decide +kernel, goes_of (by decide +kernel)⟩,
    iss (by decide +kernel), by decide +kernel⟩

theorem witness_FencesOfTables :
    let s := bn 0xD7
    let f := flying (.write [1])
    (Issuing s r0 ∧ s.kernel r0 = true ∧ (∀ f ∈ s.flight, f.of r0 = false) ∧ (∀ q ∈ s.reqs, q.r = r0 → q.ended = true) ∧
      s.outHeld (s.coreOf r0) .device = false ∧ s.onWay (fun _ => true) = false) ∧
    (Issuing f r0 ∧ (∃ x ∈ f.flight, x.of r0 = true) ∧ ({ f with
      dq := true, dqSer := 0, flight := [{ fl (.write [1]) with home := true }] } : State).onWay (fun _ => true) = true) ∧
    ((s.ctx ((s.sget r0 1).toNat % 2 ^ 20)).record.valid = true ∧ (s.sget r0 1).toNat % 2 ^ 20 = s.ctxOf r0 ∧
      ((sr 1 5 s).ctx (((sr 1 5 s).sget r0 1).toNat % 2 ^ 20)).record.valid = false ∧
      (((sr 1 5 s).setCtx 5 (s.ctx 0)).ctx (((sr 1 5 s).sget r0 1).toNat % 2 ^ 20)).record.valid = true ∧
      5 ≠ s.ctxOf r0) ∧
    (((bp (fun p => { p with pend0 := true }) s).path r0).pend0 = true ∧
      ((bp (fun p => { p with pend2 := true }) s).path r0).pend0 = false ∧
      ((bp (fun p => { p with pend2 := true }) s).path r0).pend2 = true ∧ (s.path r0).pend0 = false ∧ (s.path r0).pend2 = false) ∧
    (let w := bp (fun p => { p with wait := .wfi (some 9) 4 }) s
     (w.path r0).wait = .wfi (some 9) 4 ∧ w.running r0 = true) :=
  ⟨⟨iss (by decide +kernel), by decide +kernel⟩, ⟨iss (by decide +kernel), by decide +kernel⟩, by decide +kernel⟩

theorem witness_ControlRegisters :
    let s : State := { State.reset with boot := 2 }
    let b := bn 0
    s.boot = 2 ∧ (s.stopped false = false ∧ s.stopped true = false ∧ s.owed = []) ∧
    (s.portHolds 3 = false ∧ ({ s with reqs := [⟨7, r0, ⟨hdr5, .reply []⟩, 1, none, false, 0, false, 0, none, false, some 3⟩] } :
      State).portHolds 3 = true) ∧
    (isSem 0x3FFF = false ∧ isSem 0x4020 = false ∧ (csrListed 0xFFFF = false ∨ unitsIn 0xFFFF ≤ 0) ∧
      (csrListed 0x1000 = false ∨ unitsIn 0x1000 ≤ 576) ∧ 575 < 576 ∧ 5 < 6) ∧
    (8 ≤ 64 ∧ 8 ≤ s.top 575 1 ∧ s.top 575 1 ≤ s.top 575 2 ∧ s.crewsOn 575 = [] ∧ b.crewsOn 0 ≠ []) ∧
    (let q := { s with dqd := true }
     q.dqd = true ∧ 64 + 1984 ≤ 2048 ∧ 64 ≤ 64 ∧ 64 ≤ 1984 ∧ s.dqd = false ∧ 2048 < 1024 + 1025 ∧ 63 < 64) ∧
    (((s.csrGet 0x4083 0).setWidth 32 ^^^ (1 : Word)) &&& ~~~ s.pqd ≠ 0 ∧
      (let q := { s with pqd := 1 }
       ((q.csrGet 0x4083 0).setWidth 32 ^^^ (1 : Word)) &&& ~~~ q.pqd = 0 ∧ (q.csrGet 0x4083 0).setWidth 32 ^^^ (1 : Word) ≠ 0) ∧
      s.dq = false ∧ (((s.csrPut 0x4081 0 0x8000000000000000).csrGet 0x4081 0).extractLsb' 32 32).getLsbD 31 = true) ∧
    (let q := { flying (.write [1]) with
       dq := true, dqSer := 7
       pend := [⟨7, r0, 1, [], none, false, some ⟨9, .b32, false, false, 0x1004, 0, [9], [(0, 0x2000, 0x2000, true)]⟩, 0, false, none⟩] }
     q.dq = true ∧ (∀ f ∈ q.flight, decide (dieOfCore f.core = 1) ≠ f.home → q.dqSer ≤ f.serial) ∧
      ∀ p ∈ q.pend, q.dqSer ≤ p.serial) ∧
    ((1 : Word) &&& ~~~ ((s.csrGet 0x4081 0).extractLsb' 32 32) ≠ 0 ∧ (0 : Word) &&& ~~~ ((s.csrGet 0x4081 0).extractLsb' 32 32) = 0) ∧
    ({ s with busy := some 9 } : State).busy = some 9 := by
  decide +kernel

/-- The bench's context frozen, with its crew, whose team has no vector registers. -/
def frozen : State :=
  (bt (fun t => { t with width := 1, budget := 0 }) (bc (fun c => { c with frozen := true, size := 0, matrix := false })
    (bn 0))).modCtx 0 fun c => { c with frozen := true }

theorem frame_nonempty (f : FrameIn) (b : Bool) : 0 < (frameBytes f b).length := by
  simp [frameBytes, leBytes]

theorem witness_FreezeAndCapture :
    let s := bn 0
    let q : FrzReq := ⟨0, false, 9⟩
    let h : FrzReq := ⟨0, true, 9⟩
    ((s.ctx 0).record.valid = true ∧ 0 < 2 ^ 20 ∧ s.boot = 2 ∧ frozen.boot = 2 ∧
      (({ s with frzReqs := [q] } : State).frzReqs.find? fun q => q.ctx == 0 && q.thaw == false) = some q ∧
      (s.ctx 0).frozen = false ∧ s.ctxOf r0 = 0 ∧ (s.crewOf r0).live = true ∧
      (({ frozen with frzReqs := [h] } : State).frzReqs.find? fun q => q.ctx == 0 && q.thaw == true) = some h ∧
      (frozen.ctx 0).frozen = true ∧ frozen.iceState ≠ 1 ∧ (frozen.ctx 0).heldPackets = [] ∧
      (frozen.crews.map fun c => (c.1, c.2.live, (frozen.grid c.2.grid).ctx)) = [(1, true, 0)]) ∧
    (({ frozen with iceCtx := some 0 } : State).iceCtx = some 0 ∧ (frozen.csrGet 0x4051 0).toNat = 0) ∧
    ((regs [(0x4075, 4095 + 2 ^ 12), (0x4076, 0x2000)] s).csrGet 0x4075 0).toNat = 4095 + 2 ^ 12 ∧ 4095 < 2 ^ 12 ∧
    physRangeOk ((regs [(0x4075, 4095 + 2 ^ 12), (0x4076, 0x2000)] s).csrGet 0x4076 0).toNat 3 = true ∧
    State.reset.scanCrew = none ∧
    frozen.scanCrew = some 1 ∧ (frozen.csrGet 0x4068 0).toNat % 2 ^ 32 = 0 ∧ 0 < (frozen.scanImage 1).length :=
  by refine ⟨?_, ?_, ?_, ?_, ?_, ?_, ?_, ?_, frame_nonempty _ _⟩ <;> decide +kernel

theorem witness_Semaphores :
    let s : State := { State.reset with boot := 2 }
    let one := fun (w : Bool) => ({ s with semReqs := [⟨.port0, 31, w, s.tsc, 0, none⟩] } : State)
    31 < 32 ∧ s.boot = 2 ∧ (one false).semReqs = [⟨.port0, 31, false, (one false).tsc, 0, none⟩] ∧
    (one true).semReqs = [⟨.port0, 31, true, (one true).tsc, 0, none⟩] ∧ ((one false).sem 31).held = false ∧
    (({ one true with sems := [(31, ⟨true, 0, 0⟩)] } : State).sem 31 = ⟨true, 0, 0⟩ ∧
      (semNum (.port0), semToken (.port0)) = (0, 0) ∧ (1, (0 : BitVec 32)) ≠ (semNum (.port0), semToken (.port0))) ∧
    30 ≠ 31 ∧
    ((semNum .port0, semToken .port0) ≠ (semNum .port1, semToken .port1) ∧ semNum .port0 < semNum .port1 ∧
      [SemSource.port1, .port0].Perm [.port0, .port1]) ∧
    (let b := bp (fun p => { p with wait := .sem 31 4 }) (bn 0)
     let t := { b with semReqs := [⟨.team 1, 31, false, b.tsc, 0, some r0⟩] }
     (t.path r0).wait = .sem 31 4 ∧ (4 : SReg) ≠ 0 ∧ (t.sem 31).held = false) := by
  decide +kernel

/-! ### Witnesses: engines -/

/-- Words stored in memory, and in the scratchpad, from an address on. -/
def words (va : Nat) (l : List Nat) (s : State) : State :=
  { s with mem := Store.setList 0 s.mem va (l.flatMap (leBytes 4)) }
def spWords (off : Nat) (l : List Nat) (s : State) : State := bc (fun c => c.put off (l.flatMap (leBytes 4))) s

/-- The bench with a tag held, s1 the address of a structure. -/
def issue (op : Nat) : State := sr 1 0x2000 (bc (fun c => { c with tags := 4 }) (bn op))

theorem submits_of {s : State} {tag : BitVec 6} (h : s.cur = some r0 ∧ (s.path r0).live = true)
    (g : (s.releaseCheck r0 .crew).releaseGate r0 .crew = .go)
    (k : (s.crewOf r0).tags.getLsbD tag.toNat = true ∧ (rel s .crew).queueLen ((rel s .crew).coreOf r0) < 64) :
    Submits s (rel s .crew) r0 tag := ⟨iss h, k.1, goes_of g, k.2⟩

/-- A queue of 64 commands, of another crew of the core. -/
def crowded : State :=
  { issue 0xC0 with engines := List.replicate 64 { engCmd 1 (.chain []) .queued with crew := 2, r := ⟨9, false⟩ } }

/-- A chain of one copy of 8 bytes: its words. -/
def chainWords : List Nat := [1, 8, 0x3000, 0, 0x4000, 0, 0, 0, 0, 0, 0, 0, 0, 0, 0, 0]

/-- What a read gave, and what a chain or a list of stages was read as. -/
def wordsOr : Except RdErr (List Nat) → List Nat
  | .ok l => l
  | .error _ => []
def isChain (x : Except RdErr (Option (List ChainEntry))) (es : List ChainEntry) : Bool :=
  match x with
  | .ok (some l) => l == es
  | _ => false
def noChain : Except RdErr (Option (List ChainEntry)) → Bool
  | .ok none => true
  | _ => false
def stagesAre (x : Except RdErr (Option (List Stage))) (es : List Stage) : Bool :=
  match x with
  | .ok (some l) => l == es
  | _ => false
def slotsAre : Except RdErr (Option (List SlotRec)) → Bool
  | .ok (some _) => true
  | _ => false

theorem witness_CopiesAndCollectives :
    (((bn 0xC0).path r0).slot = .ok 0 ∧ Issuing (bn 0xC0) r0 ∧ ((bn 0xC0).crewOf r0).tags.getLsbD (63 : BitVec 6).toNat = false ∧ Issuing crowded r0 ∧
      (crowded.crewOf r0).tags.getLsbD (2 : BitVec 6).toNat = true ∧
      ReleaseGoes crowded r0 true .crew (rel crowded .crew) ∧
      64 ≤ (rel crowded .crew).queueLen ((rel crowded .crew).coreOf r0)) ∧
    (let s := words 0x2000 chainWords (issue 0xC0)
     let u := rel s .crew
     let es : List ChainEntry := [.copy false 0 false 8 0x3000 0x4000]
     Submits s u r0 2 ∧ (u.sget r0 1).toNat % 32 = 0 ∧ isChain (State.readChain (u.vUnits (u.viewOf r0) 4 8) 64 (u.sget r0 1)) es ∧
      chainShape es = true ∧ (∀ e ∈ es, u.entryFault r0 es 0 e = none) ∧ isOk (u.chainGens (u.viewOf r0) es) = true ∧
      (s.path r0).slot = .ok 0 ∧ u.freeHeld = some 0) ∧
    (let s := words 0x2000 [1, 0, 0, 0] (issue 0xC0)
     let u := rel (words 0x2000 [9] s) .crew
     noChain (State.readChain (u.vUnits (u.viewOf r0) 4 8) 64 (u.sget r0 1)) = true ∧ ((u.sget r0 1) + 1).toNat % 32 ≠ 0) ∧
    (let s := words 0x2000 [0, 2, 0x3000, 0, 0x4000, 0, 8, 0, 0x5000, 0, 8] (issue 0xC1)
     let u := rel s .crew
     Submits s u r0 2 ∧ cpyxOf (wordsOr (u.vUnits (u.viewOf r0) 4 16 (u.sget r0 1))) =
       some ⟨false, false, 0, false, 1, 2, 0x3000, 0x4000, 8, 0x5000, 8⟩ ∧ (u.sget r0 1).toNat % 64 = 0 ∧
      u.vUse (u.viewOf r0) (u.sget r0 1) 64 = u ∧ (s.path r0).slot = .ok 0 ∧ u.freeHeld = some 0 ∧
      u.placeFault r0 (.glob 0x5008) 8 3 = none ∧
      cpyxOf (List.replicate 16 3) = none) ∧
    (let s := words 0x3000 [0, 5] (words 0x2000 [0, 4, 0x4000, 0, 0x5000, 0, 0x3000, 0, 2, 0, 0, 0, 0, 1] (issue 0xC7))
     let u := rel s .crew
     let w := wordsOr (u.vUnits (u.viewOf r0) 4 16 (u.sget r0 1))
     Submits s u r0 2 ∧ u.verOf r0 = 0 ∧ (u.sget r0 1).toNat % 64 = 0 ∧ u.vUse (u.viewOf r0) (u.sget r0 1) 64 = u ∧
      u.vUse (u.viewOf r0) (quadAt w 6) (4 * w.getD 8 0) = u ∧ 2 ≤ w.getD 8 0 ∧ w.getD 8 0 ≤ 4096 ∧ (quadAt w 6).toNat % 4 = 0 ∧ quadAt w 10 = 0 ∧
      (collOf w (wordsOr (u.vUnits (u.viewOf r0) 4 (w.getD 8 0) (quadAt w 6))) u.rank 0).isSome = true) ∧
    (let s := gridOf { benchGrid with dom := 1, ver := 1 } (issue 0xC7)
     Submits s (rel s .crew) r0 2 ∧ (rel s .crew).verOf r0 ≠ 0) :=
  ⟨⟨by decide +kernel, iss (by decide +kernel), by decide +kernel, iss (by decide +kernel), by decide +kernel,
      goes_of (by decide +kernel), by decide +kernel⟩,
    ⟨submits_of (by decide +kernel) (by decide +kernel) (by decide +kernel), by decide +kernel⟩, by decide +kernel,
    ⟨submits_of (by decide +kernel) (by decide +kernel) (by decide +kernel), by decide +kernel⟩,
    ⟨submits_of (by decide +kernel) (by decide +kernel) (by decide +kernel), by decide +kernel⟩,
    submits_of (by decide +kernel) (by decide +kernel) (by decide +kernel), by decide +kernel⟩

/-- A sequence record of one block, one head of 16 elements. -/
def seqWords : List Nat := [0x6000, 0, 1, 1 + 16 * 2 ^ 16, 0x7000, 0, 1536, 0, 0x8000, 0, 0, 0, 0, 0, 0, 0]

/-- A KV command's block and its records. -/
def kvBench (w : List Nat) : State := words 0x3000 seqWords (words 0x2000 w (issue 0xC2))

theorem witness_KvAndSamplerSubmitted :
    (∀ x ∈ [(KvOp.gath, [0x3000, 0, 0x4000, 0, 0, 1, 0, 64, 0, 0, 0, 0, 0, 0, 0, 0]),
        (.kvap, [0x3000, 0, 0x4000, 0, 0, 0, 0, 0, 0, 0, 0, 0, 0, 0, 0, 0]),
        (.kvseal, [0x3000, 0, 0, 0, 0, 0, 0, 0, 0, 0, 0, 0, 0, 0, 0, 0]),
        (.kvcopy, [0x3000, 0, 0, 0, 0, 1, 0, 0, 0x3000, 0, 0, 0, 0, 0, 0, 0])],
      let u := rel (kvBench x.2) .crew
      let w := wordsOr (u.vUnits (u.viewOf r0) 4 16 (u.sget r0 1))
      let sq := seqOf' (wordsOr (u.vUnits (u.viewOf r0) 4 16 (quadAt w 0)))
      let src := if x.1 = .kvcopy then seqOf' (wordsOr (u.vUnits (u.viewOf r0) 4 16 (quadAt w 8))) else seqOf' []
      w = x.2 ∧ u.vUse (u.viewOf r0) (u.sget r0 1) 64 = u ∧ u.vUse (u.viewOf r0) (quadAt w 0) 64 = u ∧
        (u.sget r0 1).toNat % 64 = 0 ∧ (quadAt w 0).toNat % 64 = 0 ∧ (quadAt w 12).toNat % 8 = 0 ∧
        (x.1 = .kvcopy → src.isSome = true) ∧
        (sq.bind fun q => kvOf x.1 (u.sget r0 1) w q src 0).map KvCmd.dsp = some false) ∧
    Submits (kvBench []) (rel (kvBench []) .crew) r0 2 ∧
    (let s := spWords 0x40 [4, 1, 0, 0, 0, 0, 0, 0, 9] (words 0x3000 (List.replicate 16 0) (words 0x2000
        [1, 2, 0x3000, 0, 0x4000, 0, 0, 0, 0, 0, 0, 0, 0, 0, 0, 0] (sr 2 0x40 (issue 0xC6))))
     let u := rel s .crew
     let w := wordsOr (u.vUnits (u.viewOf r0) 4 16 (u.sget r0 1))
     Submits s u r0 2 ∧ (u.sget r0 1).toNat % 64 = 0 ∧ isOk (u.spRange (u.crewNo r0) (u.sget r0 2).toNat 32 32) = true ∧
      (quadAt w 2).toNat % 64 = 0 ∧ jobOk w = true ∧ u.elsewhere (u.viewOf r0) (u.sget r0 1) = false ∧
      u.vUse (u.viewOf r0) (u.sget r0 1) 64 = u ∧
      stagesAre (readStages (u.spWords (u.crewNo r0)) 32 0x40) [.topk 1, .emit] = true ∧ stagesOk [.topk 1, .emit] = true ∧
      slotsAre (u.readSlots (u.viewOf r0) 4 1 (quadAt w 2)) = true ∧ quadAt w 8 = 0) :=
  ⟨by decide +kernel, submits_of (by decide +kernel) (by decide +kernel) (by decide +kernel),
    submits_of (by decide +kernel) (by decide +kernel) (by decide +kernel), by decide +kernel⟩


/-! ### Witnesses: engine commands at work -/

/-- A state with engine commands, and what a run of a command comes to. -/
def withEng (es : List EngCmd) (s : State) : State := { s with engines := es }
def isRan : RunOut → Bool
  | .ran _ _ => true
  | _ => false
def isFault : RunOut → Bool
  | .held (.fault ..) _ => true
  | _ => false
def natIs (x : Except RdErr Nat) (n : Nat) : Bool :=
  match x with
  | .ok m => m == n
  | .error _ => false

/-- A copy from an address that the bench does not map. -/
def badCopy : EngKind := .chain [.copy false 0 false 8 0x10000000000 0x4000]

/-- A collective of two members, running; a `smpl` of one slot in a phase. -/
def collCmd : CollDesc := ⟨0, 0, 0, 1, 0x4000, 0x5000, [0, 5], 0, 0, 0, 1, 9⟩
def slotZero : SlotRec := ⟨0x3000, 0, 0, 0, 0, 0x4000, 0, 0x5000⟩
def runZero : SlotRun := ⟨none, 0, 0, 0, false, false, 0, [], []⟩
def smplIn (p : SlotPhase) : EngKind :=
  .smpl ⟨0x2000, 1, 1, 0x6000, false, false, 0, 0, 1, [.call 0 0x7000 0, .emit], [slotZero], [p], 0⟩
def sampling (p : SlotPhase) (g : Grid) : State :=
  { withEng [engCmd 1 (smplIn p) .running] (bn 0) with grids := [(1, benchGrid), (2, g)] }

theorem ran_of {x : RunOut} (h : isRan x = true) : ∃ t b, x = .ran t b := by
  cases x with
  | ran t b => exact ⟨t, b, rfl⟩
  | _ => exact absurd h (by simp [isRan])

theorem fault_of {x : RunOut} (h : isFault x = true) : ∃ c sub va acc ds, x = .held (.fault c sub va acc) ds := by
  unfold isFault at h
  split at h
  · exact ⟨_, _, _, _, _, rfl⟩
  · exact absurd h (by simp)

/-- A `smpl` of one slot in a phase, as a command. -/
def smplOf (p : SlotPhase) : SmplCmd :=
  ⟨0x2000, 1, 1, 0x6000, false, false, 0, 0, 1, [.call 0 0x7000 0, .emit], [slotZero], [p], 0⟩

def isBad : RunOut → Bool
  | .bad _ _ => true
  | _ => false
theorem bad_of {x : RunOut} (h : isBad x = true) : ∃ t ds, x = .bad t ds := by
  cases x with
  | bad t ds => exact ⟨t, ds, rfl⟩
  | _ => exact absurd h (by simp [isBad])

/-- A copy of 8 bytes; of a version, and the bench's pages in a host window, where a version may not write. -/
def plainCopy : EngKind := .chain [.copy false 0 false 8 0x3000 0x4000]
def versionCopy : EngCmd := { engCmd 1 plainCopy .queued with ver := 1 }
def refusing : State :=
  { withEng [versionCopy] (bn 0) with
    tlb := [⟨0, 0, 0, 2 ^ 20, windowBase, false, false, false, 0xF⟩], doms := [(0, { Dom.init with live := [⟨1, 0, 1⟩] })] }

/-- A copy of poisoned memory. -/
def poisonedCopy : State := { withEng [engCmd 1 plainCopy .queued] (bn 0) with poison := [0x3000] }

/-- What a run that holds would stop with. -/
def heldCause : RunOut → Nat
  | .held (.fault c ..) _ => c
  | _ => 0

theorem witness_EnginesAtWork :
    (let s := withEng [engCmd 1 (.chain []) .queued] (bn 0)
     let e := engCmd 1 (.chain []) .queued
     s.engine 1 = some e ∧ e.asks = none ∧ (s.ctx e.ctx).frozen = false ∧ e.err = false ∧ e.hurt = false) ∧
    (∃ t b, (withEng [engCmd 1 (.chain []) .queued] (bn 0)).engRun (engCmd 1 (.chain []) .queued) = .ran t b) ∧
    (∃ c sub va acc ds, (withEng [engCmd 1 badCopy .queued] (bn 0)).engRun (engCmd 1 badCopy .queued) =
      .held (.fault c sub va acc) ds) ∧
    (∃ t ds, refusing.engRun versionCopy = .bad t ds) ∧
    heldCause (poisonedCopy.engRun (engCmd 1 plainCopy .queued)) = 14 ∧
    (let e := { engCmd 1 (.chain []) .finished with err := true }
     (withEng [e] (bn 0)).engine 1 = some e ∧ e.kind.object.1 = 0 ∧ e.clear = false ∧ e.tag < 64 ∧
      ((withEng [e] (bn 0)).ctx e.ctx).heldPackets = [] ∧ ∀ x ∈ [e], x.crew = e.crew → x.tag = e.tag → x.serial = 1) ∧
    (let s := words 0x2000 [1, 0] (bn 0)
     let v := s.viewOf r0
     v.ver = 0 ∧ s.vspans = [] ∧ s.copies = [] ∧ isOk (s.objReach v .die 0x2000) = true ∧ isHostKey 0x2000 = false ∧
      isHostKey (0x2000 + 7) = false ∧ objGen (s.memNat 0x2000 8) = 0 ∧ objGen (s.memNat 0x2000 8) ≠ 3 ∧
      (s.csrGet 0x4051 0).toNat = 0) ∧
    (let d := { engCmd 1 (.coll collCmd []) .running with asks := none }
     let s := withEng [d] (bn 0)
     collCmd.collid = 9 ∧ d.phase = .running ∧ isOk (s.collStep d collCmd ([] ++ [(0, 1, [5])])) = true) ∧
    (let s := sampling .waiting benchGrid
     (s.engine 1).isSome = true ∧ s.engine 2 = none ∧ (s.ctx 0).frozen = false ∧ (smplOf .waiting).slots[0]? = some slotZero ∧
      (smplOf .waiting).phases[0]? = some .waiting) ∧
    (let p := SlotPhase.calling runZero 2 0 (overBudget 0) none
     let q := SlotPhase.calling runZero 2 0 1 (some 0)
     let s := sampling p { benchGrid with phase := .complete, killed := true }
     (s.grid 2).phase = .complete ∧ (s.grid 2).killed = true ∧ (smplOf p).phases[0]? = some p ∧
      ((sampling q benchGrid).grid 2).phase ≠ .complete ∧ (sampling q benchGrid).watchdogDue 2 0 1 (some 0) = true) ∧
    (let p := SlotPhase.calling runZero 2 0 1 (some 0)
     let s := sampling p { benchGrid with phase := .complete }
     let e := engCmd 1 (smplIn p) .running
     (s.grid 2).killed = false ∧ (s.grid 2).cause = 0 ∧ isOk (s.slotGet e ((smplOf p).wAt 0) (4 * (smplOf p).vocab)) = true ∧
      callOk false [0] = true ∧ isOk (s.openWork e (smplOf p) 0) = true) :=
  ⟨by decide +kernel, ran_of (by decide +kernel), fault_of (by decide +kernel), bad_of (by decide +kernel), by decide +kernel⟩

/-! ### Witnesses: launches, carts, queues -/

/-- A kernel descriptor of one team of 32 lanes with 64 registers, as a node kernel of records of
two words where a timer is set; a launch record of one crew of it. -/
def kdWords (node : Bool) : List Nat :=
  [0x1000, 0, 4 + 8 * 2 ^ 8 + 8 * 2 ^ 16, 0, 32 + 8 * 2 ^ 13, 0, 0, 0, 0, 0, 0, 0, 0, 0, 0, 0,
    if node then 32 + 1 * 2 ^ 12 + 7 * 2 ^ 16 else 0, 0, 0, 0]
def recWords : List Nat := [0x3000, 0, 1, 1, 1, 1 + 2 ^ 7 + 2 ^ 14] ++ List.replicate 42 0
def launching (op : Nat) (node : Bool) : State := words 0x3000 (kdWords node) (words 0x2000 recWords (sr 1 0x2000 (bn op)))

def kdIs (x : Except RdErr KDesc) (p : KDesc → Bool) : Bool :=
  match x with
  | .ok k => p k
  | .error _ => false

/-- The descriptor of the node kernel. -/
def nodeKd : KDesc :=
  match (launching 0xC8 true).readKd ((launching 0xC8 true).viewOf r0) 0x3000 with
  | .ok k => k
  | .error _ => KDesc.zero

/-- A state that holds as many grids as the dispatcher can. -/
def allGrids (s : State) : State := { s with grids := List.replicate 16384 (1, benchGrid) }

theorem full_of {s : State} {n : Nat} (h : s.grids = List.replicate n (1, benchGrid)) (hn : 16384 ≤ n) :
    s.gridsFull = true := by
  have e : (benchGrid.live && benchGrid.phase != .complete && benchGrid.phase != .held) = true := by decide
  simp only [State.gridsFull, State.gridsIn, h, List.filter_replicate, e, if_true, List.length_replicate, hn, decide_true]

theorem witness_LaunchesAndCarts_full :
    let s := allGrids (launching 0xC8 false)
    let u := rel (s.clearFlag r0 0) .device
    Issuing s r0 ∧ (s.path r0).slot = .ok 0 ∧ ReleaseGoes (s.clearFlag r0 0) r0 true .device u ∧
    (u.vUse (u.viewOf r0) (u.sget r0 1) 192).gridsFull = true :=
  ⟨iss (by decide +kernel), by decide +kernel, goes_of (by decide +kernel), full_of (n := 16384) rfl (Nat.le_refl _)⟩

theorem witness_LaunchesAndCarts :
    let s := launching 0xC8 false
    let u := rel s .device
    let va := u.sget r0 1
    let v := u.viewOf r0
    let held := s.setFlag r0 0
    (Issuing s r0 ∧ ReleaseGoes (s.clearFlag r0 0) r0 true .device u ∧ Issuing held r0) ∧
    ((held.path r0).slot = .busy 0 ∧ (∀ p ∈ held.pend, p.flag = 0 → held.precedes r0 p.r p.serial = false) ∧
      u.vUse v va 192 = u) ∧
    ((s.path r0).slot = .ok 0 ∧ va.toNat % 64 = 0 ∧ wordsOr (u.vUnits v 4 48 va) = recWords ∧
      kdIs (u.readKd v (recordOf recWords).kdesc) KDesc.valid = true ∧ u.pend = [] ∧ u.gridsFull = false ∧
      (u.dom (u.domOf r0)).liveVer (u.verOf r0) = true ∧ (recordOf recWords).shapeOk = true ∧
      (u.ctx (u.ctxOf r0)).record.valid = true ∧ (recordOf recWords).res = false ∧ (recordOf recWords).spec = none) ∧
    (let s := launching 0xCC true
     let s := sr 1 0x3000 s
     let u := rel s .device
     (s.team r0.tok).uniform = false ∧ (254 : VReg).toNat + ((1 : BitVec 3).toNat + 1) ≤ 256 ∧ s.vOk r0 (vRun 254 2) = true ∧
      ((u.memLanes r0).filter fun l => !(u.path r0).done.getLsbD l) ≠ [] ∧ (u.sget r0 1).toNat % 16 = 0 ∧ u.cartRoom = true ∧
      u.cartFor r0 0x3000 = none ∧ kdIs (u.readKd (u.viewOf r0) 0x3000) (fun k => k.node 2) = true ∧
      kdIs (u.readKd (u.viewOf r0) 0x3000) (fun k => !k.node 3) = true) ∧
    (let t := (bn 0).appendCart r0 0x3000 nodeKd [1, 2]
     (t.carts.map fun c => (c.ctx, c.records, (t.dom c.dom).liveVer c.ver, c.kd.valid)) = [(0, [[1, 2]], true, true)] ∧
      (t.ctx 0).frozen = false ∧ (t.ctx 0).record.valid = true) :=
  ⟨⟨iss (by decide +kernel), goes_of (by decide +kernel), iss (by decide +kernel)⟩, by decide +kernel, by decide +kernel,
    by decide +kernel, by decide +kernel⟩

/-- The bench's partition with every queue, and queue 3 of its context with its indices. -/
def queueOf (item : Bool) (prod p c : Nat) (s : State) : State :=
  { sr 2 3 (words 0x5000 [p, c] (regs [(0x4030, 2 ^ 52 + 576 * 2 ^ 42 + 8191 * 2 ^ 19 + 63)] s)) with
    wqs := [(3, ⟨true, item, false, prod, 2, 0, 0, 0x6000, 0x5000, 0, false⟩)] }

/-- The bench with a domain at this device that has version 1 live. -/
def withDom (home : Nat) (s : State) : State := { s with doms := [(1, { Dom.init with home := home, live := [⟨1, 0, 1⟩] })] }

theorem witness_QueuesCountsAndResolves :
    let q := fun item prod p c => queueOf item prod p c (issue 0xCA)
    let mine := fun (s : State) => s.queueIn (s.ctxPart (s.ctxOf r0)) 3 && (s.wq 3).valid
    (Issuing (q true 2 1 0) r0 ∧ Issuing (issue 0xCA) r0) ∧
    (((q true 2 1 0).path r0).slot = .ok 0 ∧ ((q true 2 1 0).sget r0 2).toNat % 2 ^ 13 = 3 ∧ mine (issue 0xCA) = false ∧
      mine (q true 2 1 0) = true ∧ 2 ^ ((q true 2 9 0).wq 3).logn < (q true 2 9 0).wqLen ((q true 2 9 0).wq 3) ∧ ((q true 2 1 0).wq 3).item = true ∧ ((q false 2 1 0).wq 3).item = false ∧
      (q true 2 7 7).wqLen ((q true 2 7 7).wq 3) = 0) ∧
    (let s := q true 2 0 (2 ^ 32 - 1)
     let w := s.wq 3
     let s := s.acquireAct r0 .device
     s.wqLen w = 1 ∧ 1 ≤ 2 ^ w.logn ∧ s.poisoned (w.slot (s.wqC w)) w.size = false ∧
      isOk (s.vPut (s.viewOf r0) (s.sget r0 1) (s.memBytes (w.slot (s.wqC w)) w.size)) = true) ∧
    ReleaseGoes (q true 2 4 0) r0 true .device (rel (q true 2 4 0) .device) ∧
    ReleaseGoes (q true 2 1 0) r0 true .device (rel (q true 2 1 0) .device) ∧
    (let u := rel (q true 2 4 0) .device
     let v := rel (q true 2 1 0) .device
     ((u.wq 3).prod == 2) = true ∧ u.wqLen (u.wq 3) = 2 ^ (u.wq 3).logn ∧ v.wqLen (v.wq 3) < 2 ^ (v.wq 3).logn ∧
      isOk (v.vBytes (v.viewOf r0) (v.wq 3).size (v.sget r0 1)) = true ∧ mine (rel (issue 0xCA) .device) = false) ∧
    (let s := words 0x2000 [4, 7, 0, 1] (sr 2 1 (issue 0xC9))
     let u := rel s .device
     Issuing s r0 ∧ ReleaseGoes s r0 true .device u) ∧
    (let s := words 0x2000 [4, 7, 0, 1] (sr 2 1 (issue 0xC9))
     let u := rel s .device
     u.vUse (u.viewOf r0) (u.sget r0 1) 16 = u ∧ (u.sget r0 1).toNat % 16 = 0 ∧ (u.sget r0 2).toNat = 1 ∧ wordsOr (u.vUnits (u.viewOf r0) 4 4 0x2000) = [4, 7, 0, 1] ∧
      ¬ 16384 < u.gridsIn + 1 ∧ (∀ e ∈ u.engines, u.queueLen e.core < 64) ∧ ((sr 2 257 s).sget r0 2).toNat = 257) ∧
    (let s := fun h => withDom h (sr 2 1 (sr 1 1 (bn 0xCD)))
     Issuing (s 0) r0 ∧ ReleaseGoes (s 0) r0 true .pod (rel (s 0) .pod) ∧ ReleaseGoes (s 9) r0 true .pod (rel (s 9) .pod)) ∧
    (let u := fun h => rel (withDom h (sr 2 1 (sr 1 1 (bn 0xCD)))) .pod
     let g := gridOf { benchGrid with dom := 1, ver := 1 } (u 0)
     ((u 9).dom 1).home ≠ (u 9).rank ∧ (g.domOf r0 = 1 ∧ g.verOf r0 ≠ 0) ∧ ((u 0).dom 1).home = (u 0).rank ∧
      (u 0).domOf r0 ≠ 1 ∧ ((u 0).dom 1).liveVer 1 = true ∧ ((u 0).dom 1).liveVer 2 = false ∧ (u 0).livePeers 1 = [] ∧
      ({ u 0 with doms := [(1, { (u 0).dom 1 with peers := [5] })] } : State).livePeers 1 ≠ []) :=
  ⟨⟨iss (by decide +kernel), iss (by decide +kernel)⟩, by decide +kernel, by decide +kernel, goes_of (by decide +kernel),
    goes_of (by decide +kernel), by decide +kernel, ⟨iss (by decide +kernel), goes_of (by decide +kernel)⟩,
    by decide +kernel, ⟨iss (by decide +kernel), goes_of (by decide +kernel), goes_of (by decide +kernel)⟩,
    by decide +kernel⟩

/-! ### Witnesses: completions, ends, the dispatcher -/

/-- The bench with an operation in progress under flag 1, and a late value. -/
def pendOne (loads : Option LoadSet) (note : Option PoisonNote) : Pend := ⟨7, r0, 1, [.s 3 9], note, false, loads, 0, false, none⟩
def pending (loads : Option LoadSet) (note : Option PoisonNote) : State :=
  { bp (fun p => { p with flags := 2 }) (bn 0) with
    pend := [pendOne loads note], late := [⟨8, r0, [.s 4 5], note, false⟩] }

/-- A load of lane 0 from 0x2000 that has not bound. -/
def unbound : LoadSet := ⟨9, .b32, false, false, 0x1004, 0, [9], [(0, 0x2000, 0x2000, false)]⟩
def aNote : PoisonNote := ⟨some 1, 0x1004, 0, [9], 0, 0x2000, 0⟩

/-- The bench's team, its paths ended. -/
def ended : State := bp (fun p => { p with live := false }) (bn 0)

theorem witness_CompletionsAndEnds :
    (let s := pending (some unbound) none
     let t := pending none (some aNote)
     (s.pend.find? fun q => q.serial == 7) = some (pendOne (some unbound) none) ∧ CanBind s (pendOne (some unbound) none) unbound ∧
      (∀ f ∈ s.flight, f.r = r0 → f.tie ≠ some 1) ∧ (t.pend.find? fun q => q.serial == 7) = some (pendOne none (some aNote)) ∧
      (t.path r0).wait ≠ .join ∧ t.inherited r0.tok 7 = false ∧
      (t.late.find? fun q => q.serial == 8) = some ⟨8, r0, [.s 4 5], some aNote, false⟩) ∧
    ((joining.team 1).live = true ∧ (joining.team 1).divided = true ∧
      (∀ p ∈ [(joining.team 1).path0, (joining.team 1).path1], p.wait = .join ∧ p.flags = 0 ∧ p.live = true) ∧
      ((bn 0).team 1).divided = false ∧ joining.still 1 = false ∧
      (bc (fun c => { c with frozen := true }) joining).still 1 = true) ∧ ended.still 1 = false ∧
    ((ended.team 1).live = true ∧ (ended.team 1).path0.live = false ∧ (ended.team 1).path1.live = false ∧
      ended.teamIdle 1 = true ∧ ended.outHeld (ended.crew (ended.team 1).crew).core .device = false ∧ ((bn 0).team 1).path0.live = true ∧ (∀ k ∈ (ended.crew (ended.team 1).crew).teams, k = 1 ∨ (ended.team k).live = false)) ∧
    (let g := { benchGrid with phase := .blocked, record := { LaunchRec.zero with gx := 1, gy := 1, gz := 1 } }
     let s := gridOf g (bn 0)
     let z := gridOf { g with record := LaunchRec.zero } (bn 0)
     (s.grid 1).live = true ∧ (s.grid 1).phase = .blocked ∧ (s.grid 1).unmet = [] ∧ s.allHeld = false ∧ z.allHeld = false ∧ (s.grid 1).record.crews ≠ 0 ∧
      (z.grid 1).record.crews = 0 ∧ ((gridOf { g with unmet := [5] } (bn 0)).grid 1).unmet ≠ []) ∧
    (let e := gridOf { benchGrid with clusters := [] , source := .queue 3 0 0x9000 } { bn 0 with teams := [], crews := [] }
     (e.grid 1).live = true ∧ (e.grid 1).phase = .runnable ∧ e.allHeld = false ∧
      (e.grid 1).record.clusters ≤ ((e.grid 1).clusters.filter fun c => c.phase == .retired).length ∧
      (∀ t ∈ e.liveTeams, (e.crew t.2.crew).grid ≠ 1) ∧ (e.grid 1).source = .queue 3 0 0x9000 ∧
      (∀ i, i < 16 → isHostKey (0x9000 + i) = isHostKey 0x9000)) ∧
    ((bn 0).liveTeams.map fun t => ((bn 0).crew t.2.crew).grid) = [1] :=
  ⟨⟨by decide +kernel, ⟨by decide +kernel, by decide +kernel, by decide +kernel, by decide +kernel, by decide +kernel,
      by decide +kernel⟩, by decide +kernel⟩, by decide +kernel, by decide +kernel, by decide +kernel, by decide +kernel,
    by decide +kernel⟩

/-- Queue 3 as a launch queue of the bench's context with a record of one crew. -/
def launchQ (p c : Nat) : State :=
  words 0x6000 recWords (words 0x3000 (kdWords false) (queueOf false 0 p c (bn 0)))

/-- The bench's grid with one cluster, its scheduling entry with a slice and aging, a frame of its crew. -/
def clustered (c : ClusterSt) : State :=
  { gridOf { benchGrid with clusters := [c] } (bn 0) with scheds := [(0, ⟨1000, 500, 0, 0, []⟩)] }
def savedOne : SavedCrew := ⟨1, 0x100000, 0, 16, benchCrew, [(1, benchTeam 0)], none, 0⟩

theorem witness_Dispatcher :
    (((bn 0).dueQueues ((bn 0).ctxPart ((bn 0).wq 3).ctx)).head? ≠ some 3 ∧
      ((launchQ 9 0).dueQueues ((launchQ 9 0).ctxPart ((launchQ 9 0).wq 3).ctx)).head? = some 3 ∧ ((launchQ 9 0).wq 3).valid = true ∧ 2 ^ ((launchQ 9 0).wq 3).logn < (launchQ 9 0).wqLen ((launchQ 9 0).wq 3)) ∧
    (let s := launchQ 1 0
     let w := s.wq 3
     (s.dueQueues (s.ctxPart w.ctx)).head? = some 3 ∧ s.wqLen w ≤ 2 ^ w.logn ∧
      (∀ i, i < 4 → isHostKey (w.idx + 4 + i) = isHostKey (w.idx + 4)) ∧ s.visited 3 = { s with lastq := [(0, 4)] } ∧
      ((List.range 48).map fun i => s.memNat (w.slot (s.wqC w) + 4 * i) 4) = recWords ∧
      kdIs ((s.visited 3).readKd ⟨0, w.ctx, w.priv, 0, 0, some (queueRef 3), none⟩ (recordOf recWords).kdesc) KDesc.valid = true ∧
      (s.dom 0).liveVer 0 = true ∧ (s.ctx w.ctx).record.valid = true) ∧
    (let f := (clustered (clu .resident false)).modCtx 0 fun c => { c with frozen := true }
     (f.ctx (f.grid 1).ctx).frozen = true) ∧
    (let c := { clu .resident false with restoredAt := some 5 }
     let s := clustered c
     (s.grid 1).clusters = [c] ∧ c.idx = 0 ∧ (s.ctx (s.grid 1).ctx).frozen = false ∧ c.phase = .resident ∧
      (s.schedOf (s.grid 1)).slice ≠ 0 ∧ c.guarded = false ∧ (s.schedOf (s.grid 1)).age ≠ 0 ∧ (s.grid 1).phase = .runnable ∧
      c.since ≤ s.tsc ∧ ({ s with saved := [savedOne] } : State).framesOf 1 0 = [savedOne]) ∧
    ((clu .draining false).phase = .draining ∧ ((clustered (clu .draining false)).grid 1).record.res = false) ∧
    ((clu .saving false).phase = .saving ∧ (clu .flushing false).phase = .flushing ∧
      ((clustered (clu .saving false)).crewsOf (1, [0])).all (clustered (clu .saving false)).crewQuiet = true ∧
      (clustered (clu .saving false)).crewsOf (1, [0]) ≠ [] ∧ (clustered (clu .saving false)).copies = [] ∧
      ({ clu .saving false with frames := [(0x100000, 16)] } : ClusterSt).frames.length =
        ((clustered (clu .saving false)).crewsOf (1, [0])).length) ∧
    ((bp (fun p => { p with wait := .stopped }) (bn 0)).isReady r0 = false ∧ (bn 0).isReady r0 = true ∧
      (bn 0).stirs r0 = true ∧ (bn 0).sub = 0 ∧
      ((bn 0).die ((bn 0).dieOf ((bn 0).team r0.tok))).relock = none ∧ 1 ≤ ((bn 0).die false).f ∧ ((bn 0).die false).f ≤ 20) := by
  decide +kernel


/-! ### Witnesses: hosts, translation, errors, the fabric -/

/-- The bench's context with page tables that map the first GiB. -/
def tabled : State :=
  words 0x8000 [0x3F, 0] (words 0 [0x8001, 0] (regs [(0x4030, 2 ^ 52 + 576 * 2 ^ 42 + 63)] (bn 0)))

/-- The bench with a host page asked of port 0. -/
def asking : State :=
  { withEng [{ engCmd 1 (.chain []) .queued with asks := some (false, 7, 0x7000, 0) }] (bn 0) with
    atsOut := [(false, 0, 7)], prqOut := [⟨engineRef 1, false, 0, 7, 0⟩] }

theorem witness_TranslationAndHosts :
    (5 < 582 ∧ (tabled.ctx 0).record.valid = true ∧ tabled.walk 0 0x2000 = .ok ⟨0, 0, 0, 2 ^ 30, 0, false, false, false, 0xF⟩ ∧
      tabled.walk 0 0x40000000 = .error (.fault 6 1)) ∧
    ((bn 0).atsOut.contains (false, 0, 7) = false ∧ (∀ q ∈ (bn 0).prqOut, q.names false 0 7 = false) ∧
      asking.atsOut.contains (false, 0, 7) = true ∧
      (asking.prqOut.find? fun q => q.names false 0 7) = some ⟨engineRef 1, false, 0, 7, 0⟩ ∧
      engineRef 1 ∈ ({ asking with prqOut := [] } : State).pageWaiters false 0 7 ∧
      r0 ∈ (bp (fun p => { p with wait := .ats false 7 }) (bn 0)).pageWaiters false 0 7 ∧ r0.tok < 2 ^ 41 ∧
      (bn 0).allHeld = false ∧ (bn 0).pend = [] ∧
      asking.prqOut.length + (asking.pageWaiters false 0 7).length ≤ 512 ∧ ∀ f ∈ asking.flight, isHostKey f.key = false) ∧
    (let h := { bn 0 with hostUp1 := true }
     (bn 0).hostUp false = false ∧ h.hostUp true = true ∧ h.boot = 2 ∧ 0xFFFF8 + 8 ≤ 2 ^ 20 ∧ 8 ≤ 8 ∧
      h.owned (windowBase + 2 ^ 20 + 0xFFFF8) 8 = false ∧ (false, true, HostAccess.load 0xFFFF8 8) ∉ h.hostWaits ∧
      ({ refusing with hostUp1 := true } : State).owned windowBase 8 = false) := by
  decide +kernel

theorem witness_DetectedErrors :
    ((bn 0).csrGet 0x4051 0).toNat = 0 ∧ ((bn 0).path r0).live = true ∧ 3 < 2 ^ 55 ∧ (bn 0).crossStop = false ∧
    (let own := fun (s : State) =>
       (s.drainIf fun (f : Flight) => f.core == 0 && flakeOf f.key == flakeOf 0x2000 && decide (dieOfCore 0 = 1) == f.home &&
         !s.flightHeld fun g => g.serial == f.serial).l1own.find? fun o => o.core == 0 && o.meets 0x2000 32
     (own (flying (.write [1]))).isSome = true ∧ own (bn 0) = none) ∧
    (∃ e ∈ ({ bn 0 with firn := [firnAt 6] } : State).firn, e.die = false ∧ flakeOf e.pa = flakeOf 0x201F) ∧
    (∀ e ∈ (bn 0).firn, e.die = false → flakeOf e.pa ≠ flakeOf 0x201F) ∧
    (let c : CopyByte := { CopyByte.none with valid := true, dirty := true, val := 9 }
     let s := fun unit => ({ bn 0 with copies := [(cpKey unit 0x2003, c)] } : State)
     ((s 0).copyByte 0 (0x2000 / 32 * 32 + 3)).dirty = true ∧ ((s (rdcUnit 0)).copyByte (rdcUnit 0) (0x2000 / 32 * 32 + 3)).dirty = true ∧
      (s 0).copies = [(cpKey 0 (32 * 0x100 + 3), c)] ∧ c.bad = false) ∧
    (∀ i, i < 32 → ((bn 0).copyByte 0 (0x2000 / 32 * 32 + i)).dirty = false) ∧ ¬ ((⟨9, false⟩ : PathRef) = r0) ∧
    ((bn 0).path ⟨9, false⟩).live = false ∧ ((bn 0).ctx 0).heldRec = [] ∧
    (let f := fun (p : Nat) => words 0x9000 [p, 0] ((bn 0).modCtx 0 fun c =>
       { c with record := { c.record with fqbase := 0x9000, fqsize := 2 }, heldRec := [List.replicate 128 1] })
     ((f 2).ctx 0).heldRec = [List.replicate 128 1] ∧ (f 2).fqRoom 0 = false ∧ (f 1).fqRoom 0 = true) := by
  decide +kernel

/-- A packet for this device from rank 5, and a request that waits for its reply. -/
def packet (body : PBody) : Packet := ⟨hdr5, body⟩
def asked (sus : Bool) : Req := ⟨7, r0, packet (.reply []), 1, none, sus, 0, false, 0, none, false, none⟩

/-- The bench with port 3 up, a member of the key, a request out. -/
def wired (sus : Bool) : State := { linked (bp (fun p => { p with wait := .remote 7 }) (bn 0)) with reqs := [asked sus] }

theorem witness_Fabric_arrives :
    Arrives (linked (bn 0)) from5 ∧ Arrives (linked (withDom 9 (bn 0))) from5 ∧ Arrives (linked (withDom 0 (bn 0))) from5 ∧
    Arrives (linked (regs [(0x4089, 4)] (bn 0))) ⟨3, { hdr5 with src := 0, dst := 4 }⟩ ∧
    Arrives (linked (withEng [engCmd 1 (.coll collCmd []) .running] (bn 0))) from5 :=
  ⟨arrives_of (by decide +kernel), arrives_of (by decide +kernel), arrives_of (by decide +kernel), arrives_of (by decide +kernel), arrives_of (by decide +kernel)⟩

theorem witness_Fabric :
    (let p := packet (.reply [])
     let s := wired false
     { p with dst := 9 }.dst ≠ s.rank ∧ s.boot = 2 ∧ p.dst = s.rank ∧ p.src ≠ s.rank ∧ s.portup.getLsbD 3 = true ∧
      s.packetCtx 3 p.toPodHdr = some 0 ∧ s.packetCtx 3 { hdr5 with jobkey := 1 } = none ∧
      s.packetCtx 2 p.toPodHdr = none ∧ s.strict = false ∧
      ({ s with seenSeq := [(5, 7)] } : State).seenSeq.contains (p.src, p.serial) = true ∧
      (let m : PodSent := ⟨p, none, 0, 3⟩
       ({ s with reqs := [], podOut := [m] } : State).podOut = [m] ∧ m.p.serial = 7 ∧ 3 ≤ m.resends) ∧
      s.reqs = [asked false] ∧ (asked false).serial = p.serial ∧ (asked true).suspended = true ∧
      (asked false).ended = false ∧ (asked false).after = none ∧
      ({ asked false with after := some (4, 0, 1, 0x2001) } : Req).after ≠ none ∧ ({ asked false with ended := true } : Req).ended = true ∧
      (wired true).reqs = [asked true] ∧ (s.csrGet 0x4083 0).getLsbD 3 = true ∧ (s.csrGet 0x4051 0).toNat = 0) ∧
    (let s := withDom 9 (bn 0)
     (s.dom 1).home ≠ s.rank ∧ ((s.dom 1).live.any fun y => y.ver == 1) = true ∧ (s.dom 1).applied = some 0 ∧
      (s.dom 1).inTurn 0 0 = true ∧ (s.dom 1).inTurn 1 0 = false ∧ (s.dom 1).isOld 0 = true ∧ (s.dom 1).isOld 1 = false) ∧
    (let m := fun (d : Dom) => ({ bn 0 with doms := [(1, d)] } : State)
     let home : Dom := { Dom.init with peers := [5], live := [⟨1, 0, 1⟩] }
     let d := m home
     let a := m { home with allocs := [⟨5, 3, 2, 0x77, [5], 0⟩] }
     let r := m { home with resolves := [⟨4, 0, 0, [5], 0⟩] }
     (d.dom 1).home = d.rank ∧ (d.livePeers 1).contains 5 = true ∧ (d.dom 1).allocs = [] ∧ 5 ≠ d.rank ∧
      d.allocate 1 9 5 3 0x77 = none ∧ ((d.allocate 1 1 5 3 0x77).map fun x => (x.2.1, x.2.2)) = some (2, false) ∧
      ((a.dom 1).allocs.find? fun y => y.src == 5 && y.req == 3) = some ⟨5, 3, 2, 0x77, [5], 0⟩ ∧
      ((a.dom 1).allocs.find? fun y => y.ver == 2 && y.waiting.contains 5) = some ⟨5, 3, 2, 0x77, [5], 0⟩ ∧ 5 ≠ a.rank ∧
      a.allocReqs = [] ∧ ((r.dom 1).resolves.find? fun y => y.num == 4 && y.waiting.contains 5) = some ⟨4, 0, 0, [5], 0⟩ ∧
      ((d.dom 1).resolves.find? fun y => y.num == 4 && y.waiting.contains 5) = none) ∧
    (let s := { withDom 9 (bn 0) with allocReqs := [⟨3, 1, none, 1, 0⟩] }
     s.allocReqs = [⟨3, 1, none, 1, 0⟩] ∧ (s.dom 1).home ≠ s.rank) := by
  decide +kernel

/-! ### Witnesses: clocks and bring-up -/

theorem witness_ClockSteps :
    let s := bn 0
    let l := { s with die1 := { s.die1 with target := 8, relock := some 0 }, tsc := 2000 }
    (5 < 6 ∧ 20 < 21 ∧ l.stopped true = true ∧ 7 ≤ (s.die true).fmax ∧ s.stopped true = false ∧ 7 ≠ (s.die true).f ∧
      20 ≤ (s.die true).fmax) ∧
    ((l.die true).relock = some 0 ∧ (l.die true).fwWrite = false ∧
      (let m := { s with die1 := { s.die1 with target := 8, fmax := 7, fwWrite := true, relock := some 0 } }
       (m.die true).relock = some 0 ∧ (m.die true).fwWrite = true ∧ (m.die true).fmax < (m.die true).target) ∧
      (({ s with die1 := { s.die1 with f := 8, fmax := 8 } } : State).die true).fmax.min 9 = (({ s with die1 := { s.die1 with f := 8, fmax := 8 } } : State).die true).f) ∧
    ((s.csrGet 0x4051 0).toNat = 0 ∧ (s.die true).relock = none ∧ (s.die true).f ≤ 6 ∧
      6 < (({ s with die1 := { s.die1 with f := 9 } } : State).die true).f) ∧
    (s.boot = 2 ∧ s.sub < tickParts ∧ l.boot = 2 ∧ l.sub < tickParts) ∧
    (s.rank = 0 ∧ (regs [(0x4089, 4)] s).rank ≠ 0 ∧ (regs [(0x4089, 4)] s).strict = false) := by
  decide +kernel

theorem witness_BringUpAndAttestation :
    let s := bn 0
    (({ s with resetn := false } : State).resetn = false ∧ s.resetn = true ∧ s.rails.all id = true ∧
      ({ s with rails := [false, true, true, true] } : State).rails.all id = false ∧ s.power = true ∧ s.boot ≠ 3 ∧
      ({ s with boot := 3 } : State).boot = 3) ∧
    (let b : State := { s with boot := 1, die0 := { s.die0 with relock := some 1 } }
     b.boot = 1 ∧ (b.die false).relock = some 1 ∧ (b.die false).fwWrite = false ∧ (b.die true).relock = none ∧ 4 ≤ 4 ∧ 0 < 4) ∧
    ((1 : Nat) ≠ 0 ∧ 1 ≤ 4 ∧ 4 < 0xFF ∧ ({ s with meas := [[1], [2], [3], [4]] } : State).meas[4 - 1]? = some [4] ∧
      ({ s with meas := [[1], [2], [3], [4]] } : State).meas[5 - 1]? = none ∧ 254 < 0xFF) := by
  decide +kernel


/-! ### Steps: the worked examples of the manual, one instruction each -/

/-- The state after the instruction of a word, executed by the bench's path. -/
def did (nbits w : Nat) (s : State) : State :=
  match decodeTableWord nbits w with
  | some i => after (exec i { s with cur := some r0 })
  | none => State.reset

/-- The bench with s1 to s4 of the scalar boundary cases. -/
def scalars : State := sr 1 (2 ^ 63) (sr 2 (BitVec.allOnes 64) (sr 3 0 (sr 4 70 (bn 0x10))))

/-- Table 8 of the scalar chapter: the word, the destination and the result. -/
def scalarCases : List (Nat × SReg × DWord) := [
  (0x14050102, 5, 0x8000000000000000), (0x15060102, 6, 0), (0x14058203, 5, 0xFFFFFFFFFFFFFFFF),
  (0x15060103, 6, 0x8000000000000000), (0x19070204, 7, 0), (0x1B080104, 8, 0xFFFFFFFFFFFFFFFF), (0x1AC9021F, 9, 1),
  (0x130A8202, 10, 0xFFFFFFFFFFFFFFFE), (0x130A0202, 10, 0), (0x1C0B8203, 11, 0), (0x250C0102, 12, 63),
  (0x220E0484, 14, 0x276)]

theorem test_scalar_boundary_cases : scalarCases.all (fun x => (did 32 x.1 scalars).sget r0 x.2.1 == x.2.2) = true := by
  decide +kernel

/-- Table 5 of the vector chapter: quantising four values to E4M3. -/
def quantising : State :=
  bp (fun p => { p with md := 0x1000 }) (bt (fun t => (((t.vset 4 0 0x3F800000).vset 5 0 0x3DCCCCCD).vset 6 0 0x43FA0000).vset 7 0
    0xFF800000) (bn 0x57))

theorem test_mode_word : ((did 32 0x6E001000 (bn 0x6E)).path r0).md = 0x1000 := by decide +kernel
theorem test_cvtq_example :
    let t := did 64 0x57090400 quantising
    t.vget r0 9 0 = 0xFE7E1D38 ∧ (t.path r0).status = 0x14 := by decide +kernel
theorem test_cvtq_without_saturation :
    let t := did 64 0x57090400 (bp (fun p => { p with md := 0 }) quantising)
    t.vget r0 9 0 = 0x7F7F1D38 ∧ (t.path r0).status.getLsbD 0 = true := by decide +kernel

/-- The lanes of Table 7 of the vector chapter. -/
def orders : State :=
  let vs : List Word := [0x4B800000, 0x3F800000, 0x3F800000, 0xCB800000, 0x3F000000, 0x40400000]
  bp (fun p => { p with md := 0x40, xm := 0x3F }) (bt (fun t => (vs.zipIdx.foldl (fun t x => t.vset 1 x.2 x.1) t).pset 2 0x2A) (bn 0x62))

theorem test_scan_order : ((List.range 6).map ((did 32 0x62020100 orders).vget r0 2)) =
    [0x4B800000, 0x4B800000, 0x4B800000, 0, 0x3F000000, 0x40600000] := by decide +kernel
theorem test_red_order : (did 32 0x63030100 orders).sget r0 3 = 0x40600000 ∧ ((did 32 0x63030100 orders).path r0).status = 0x10 := by
  decide +kernel
theorem test_rank_counts : ((List.range 6).map ((did 32 0x64040200 orders).vget r0 4)) = [0, 0, 1, 1, 2, 2] := by decide +kernel
theorem test_compact_packs : ((List.range 6).map ((did 32 0x65030102 orders).vget r0 3)) =
    [0x3F800000, 0xCB800000, 0x40400000, 0, 0, 0] := by decide +kernel
theorem test_mcnt_counts : (did 32 0x61050200 orders).sget r0 5 = 3 := by decide +kernel

/-- Kernel nest of the scalar chapter, its words at 0x1000: a team of 64 lanes, and paths where a step finds them. -/
def nest : State :=
  bt (fun t => (({ t with width := 64 } : Team).pset 1 0xFFFFFFFF00000000).pset 2 0xFF) (bp (fun p =>
    { p with pc := 0x1004, xm := 0xFFFFFFFFFFFFFFFF }) (bn 0x04))
def nest1 : State := did 64 0x0010000D04000100 nest
def nest2 : State := did 64 0x0005000804000200 (bp (fun p => { p with pc := 0x1010 }) nest1)

theorem test_brp_divides :
    let t := nest1.team 1
    t.divided = true ∧ t.djoin = 0x1038 ∧ (t.path0.pc, t.path0.xm) = (0x100C, 0xFFFFFFFF) ∧
    (t.path1.pc, t.path1.xm) = (0x1044, 0xFFFFFFFF00000000) := by decide +kernel
theorem test_brp_pushes :
    let p := (nest2.team 1).path0
    (p.pc, p.xm) = (0x1018, 0xFFFFFF00) ∧
    p.stack = [⟨false, 0xFFFFFFFF, 0xFF, 0x1024, 0x1030, false⟩] := by decide +kernel
theorem test_exit_unwinds :
    let t := (did 32 0x0C000000 (bp (fun p => { p with pc := 0x101C }) nest2)).team 1
    t.retired = 0xFFFFFF00 ∧ (t.path0.pc, t.path0.xm, t.path0.stack.length) = (0x1024, 0xFF, 1) ∧ t.path0.live = true := by
  decide +kernel
theorem test_join_pops :
    let s := bp (fun p => { p with pc := 0x1030, xm := 0xFF, stack := [⟨false, 0xFFFFFFFF, 0, 0x1024, 0x1030, false⟩] })
      (bt (fun t => { t with retired := 0xFFFFFF00 }) nest2)
    let p := ((did 32 0x07000000 s).team 1).path0
    (p.pc, p.xm, p.stack) = (0x1034, 0xFF, []) := by decide +kernel

/-- Table 14 of the encoding chapter: the first header of kernel add3. -/
theorem test_header_fields : headerOf 0xFFFF8443 = ⟨0xFFF, true, 0, true, 1, 3⟩ ∧ headerOf 0xF0039002 = ⟨3, true, 2, false, 0, 2⟩ := by
  decide

/-- Table 12 of the number formats: five products into one accumulator; the INT4 example of R106. -/
theorem test_products_in_order :
    let v := fun (l : List Nat) => l.map fmtBf16.unpack
    accumulate 0 (v [0x4580, 0x3F80, 0x3F80, 0xC580, 0x3F81]) (v [0x4580, 0x3F80, 0x3F80, 0x4580, 0x3F81]) = 0x3F820200 := by
  decide +kernel
theorem test_int4_element :
    let f : FmtBlock := ⟨7, 0, 1, 1, 0, 0, 0, 0, 0⟩
    let c := CoreSt.init.slotPut 0 0 [11]
    c.elem 0 f 0 0 0 [(0, 0x3DCD)] [(0, 8)] = fmtBf16.unpack 0x3E9A := by decide +kernel

/-- The worked example of the matrix chapter: SP8 rows after the prologue, and the drained elements. -/
theorem test_sp8_elements :
    let f : FmtBlock := ⟨4, 0, 1, 2, 0, 2, 0, 0, 0⟩
    let c := CoreSt.init.slotPut 5 0 [0x13, 0x8A, 0x0F]
    let a := [fmtBf16.unpack 0x3FC0, fmtBf16.unpack 0xC040, fmtBf16.unpack 0x3F40]
    accumulate 0 a ((List.range 3).map fun k => c.elem 5 f 0 0 k [(0, 2)] []) = 0x41AE0000 := by decide +kernel
theorem test_drain_rounds_once :
    let c := { CoreSt.init with
      acc := [(accKey 0 0 0, 0x41AE0000), (accKey 1 0 0, 0x3F400000)], scaleA0 := some ⟨0x2000, 0⟩, scaleA1 := some ⟨0x2000, 0⟩ }
    let s := words 0x2000 [0x3DCCCCCD] { bn 0x97 with cores := [(0, c)] }
    s.drained r0 .bf16 0 0 = .ok (0x400B, false) ∧ s.drained r0 .bf16 0 64 = .ok (0x3D9A, false) ∧
    s.drained r0 .f32 0 0 = .ok (0x400B3333, false) := by decide +kernel

/-- The worked example of the remote instructions, at the sender: the runs in order of their first lanes, one at a
time; and at device 5, whose words are read and added to in lane order. -/
def sender : State :=
  let lanes : List (Word × Word) := [(5, 0x40), (9, 0x40), (5, 0x44), (2, 0x40), (9, 0x48), (5, 0x40), (2, 0x10000), (9, 0x4C)]
  sr 6 0x4000000000 (bp (fun p => { p with xm := 0xFF })
    (bt (fun t => lanes.zipIdx.foldl (fun t x => (t.vset 2 x.2 x.1.1).vset 3 x.2 x.1.2) t) (bn 0x82)))
def sentTo (q : Req) : Option (Nat × List Nat) :=
  match q.packet.body with
  | .atomic _ _ ls => some (q.packet.dst, ls.map RLane.lane)
  | _ => none
theorem test_remote_runs : (did 64 0x5800000082094602 sender).reqs.filterMap sentTo = [(5, [0, 2, 5])] := by decide +kernel

/-- The worked example of the system chapter: both ports read a free semaphore in one tick. -/
theorem test_semaphore_lower_port_first :
    (after (exec .semaphoreTickServe (after (exec (.semRead .port1 3) (after (exec (.semRead .port0 3) (bn 0))))))).out =
      [.semReply .port0 3 0xC0000000, .semReply .port1 3 0x80000000] := by decide +kernel

/-- The worked example of the clock chapter: a step to 0.7 GHz, and ten ticks after it. -/
theorem test_clock_step :
    let d : Die := { Die.reset with f := 18, target := 7, relock := some 5000, cyc := 1000000, scc := 1000000 * 2 ^ 16 }
    let e := ((after (exec (.relockEnd true) { bn 0 with die1 := d, tsc := 7000 })).die true).runFor (10 * tickParts)
    e.cyc = 1000007 ∧ e.scc / 2 ^ 16 = 1000017 ∧ e.scc % 2 ^ 16 = 0xFFFF := by decide +kernel

/-- The worked example of collectives, at rank 3: its own value and what reaches it. -/
theorem test_allreduce_tree :
    let d : CollDesc := ⟨0, 0, 0, 1, 0x4000, 0x5000, [3, 8, 9, 20, 21], 0, 0, 0, 1, 9⟩
    let e := engCmd 1 (.coll d [(0, 0, [0x4B800000]), (0, 1, [0x3F800000]), (1, 1, [0xCB7FFFFF])]) .running
    let s := withEng [e] (regs [(0x4089, 3)] (bn 0))
    (s.collMsg d.hdr 2 1 [0x3F800000]).memNat 0x5000 4 = 0x40000000 := by decide +kernel

/-- The device runs the bench's instruction as its first step. -/
theorem test_first_step : goesOn (step (State.reset.withFetchWord 32 0x28010203)) = true := by decide +kernel

/-! ### The assembler -/

/-- A kernel of one team of 256, around some lines. -/
def kernelText (lines : String) : Plynas.Text :=
  (".kernel k\n.crew\n.team 256\n.role work\n.regs 16\n.scratch 0\n.pool 64, 64, 1024\n" ++ lines ++ "\n.end\n").toList

/-- The first words of the image of some text. -/
def firstWords (n : Nat) (t : Plynas.Text) : List Nat :=
  match Plynas.assemble t with
  | .ok i => (List.range n).map fun k => ((i.bytes.drop (4 * k)).take 4).foldr (fun b x => x * 256 + b.toNat) 0
  | .error _ => []

/-- The worked example of 04 (Table 14). -/
theorem test_plynas_add3 : firstWords 12 (kernelText
    "top:\n ldg v4, [s4 + v7].32\n ldg v5, [s5 + v7].32\n ldg v6, [s6 + v7].32\n fadd v8, v4, v5\n fmul v8, v8, v6\n exit") =
    [0xFFFF8443, 0x79044407, 0x40000000, 0x79054507, 0x40000000, 0xF0039002, 0x79064607, 0x40000000, 0x42080405,
     0xF0040001, 0x44080806, 0x0C000000] := by decide +kernel

/-- The clause line that 04 gives after Table 14. -/
theorem test_plynas_clause : firstWords 3 (kernelText
    " clause wait(f0) set(f1)\n ldg v4, [s4 + v7 + #16].32.dev\n exit") = [0xF0018802, 0x79044407, 0x50000010] := by
  decide +kernel

end Sys2Proof.Tests
end

section
/-! SUPPORT. The instructions whose effect is a stop (R142, R172, R402), and the privileged instructions of a
team at user privilege (R141). -/

namespace Sys2Proof.Machine

variable {s : State} {r : PathRef} {ok : Bool}

/-! ### The two checks of an issuing path -/

/-- R142: a path whose instruction fails a decode condition takes the illegal-instruction stop, whatever the
instruction would have done. -/
theorem issued_legalIf_false (h : Issuing s r) (hok : ok = false) (k : PathRef → State) :
    issued s (fun q => s.legalIf q ok (k q)) = .next (s.takeStop r { cause := 1 }) := by
  rw [issued_next h, hok, State.legalIf_false]

/-- R141: a path at user privilege takes the privilege stop, whatever the privileged instruction would have done. -/
theorem issued_privileged_user (h : Issuing s r) (hu : s.kernel r = false) (k : PathRef → State) :
    issued s (fun q => s.privileged q (k q)) = .next (s.takeStop r { cause := 3 }) := by
  rw [issued_next h, State.privileged_user _ hu]

/-- R141, R142: the decode condition is checked before the privilege, so that the privilege stop is that of an
instruction that meets it. -/
theorem issued_legalIf_privileged_user (h : Issuing s r) (hu : s.kernel r = false) (hok : ok = true)
    (k : PathRef → State) :
    issued s (fun q => s.legalIf q ok (s.privileged q (k q))) = .next (s.takeStop r { cause := 3 }) := by
  rw [issued_next h, hok, State.legalIf_true, State.privileged_user _ hu]

/-! ### `trap`, `ecall` and unassigned opcodes -/

theorem exec_trap (h : Issuing s r) (n : BitVec 8) : exec (.trap n) s =
    .next ((s.advance r 1).takeStop r { cause := 21, sub := n.toNat, word := some (s.path r).pc }) :=
  issued_next h _

theorem exec_ecall (h : Issuing s r) (n : BitVec 8) : exec (.ecall n) s =
    .next ((s.advance r 1).takeStop r { cause := 22, sub := n.toNat, word := some (s.path r).pc }) :=
  issued_next h _

theorem illegal_unassignedOpcode (h : Issuing s r) (op : Byte) : Illegal (.unassignedOpcode op) s r :=
  issued_next h _

/-! ### The decode condition of `csrr` and `csrw` -/

/-- The decode condition of `csrw`: a listed register, and only a plain write to one with a field of access wc. -/
def csrwLegal (op : CsrOp) (n : Nat) : Bool := csrListed n && !(csrWc n && op != .write)

theorem csrwLegal_of_unlisted {n : Nat} (hl : csrListed n = false) (op : CsrOp) : csrwLegal op n = false := by
  simp [csrwLegal, hl]

theorem csrwLegal_of_wc {op : CsrOp} {n : Nat} (hw : csrWc n = true) (hop : op ≠ .write) : csrwLegal op n = false := by
  simp [csrwLegal, hw, hop]

theorem csrwLegal_of_listed {op : CsrOp} {n : Nat} (hl : csrListed n = true) (hw : csrWc n = true → op = .write) :
    csrwLegal op n = true := by
  cases hc : csrWc n with
  | false => simp [csrwLegal, hl, hc]
  | true => simp [csrwLegal, hl, hw hc]

theorem illegal_csrr (h : Issuing s r) (d : SReg) {addr : BitVec 16} (hl : csrListed addr.toNat = false) :
    Illegal (.csrr d addr) s r :=
  issued_legalIf_false h hl _

theorem illegal_csrw (h : Issuing s r) {op : CsrOp} {addr : BitVec 16} (a : SReg)
    (hl : csrwLegal op addr.toNat = false) : Illegal (.csrw op addr a) s r :=
  issued_legalIf_false h hl _

/-! ### The two parts of the statement -/

theorem trapsAndIllegalWords : Rules.TrapsAndIllegalWords := by
  intro s r n op h
  refine ⟨exec_trap h n, exec_ecall h n, rfl, rfl, illegal_unassignedOpcode h op, fun d a c addr => ⟨fun hl => ?_, ?_⟩⟩
  · exact ⟨illegal_csrr h d hl, illegal_csrw h a (csrwLegal_of_unlisted hl c)⟩
  · exact fun hw hc => illegal_csrw h a (csrwLegal_of_wc hw hc)

/-- R141: each instruction of the list begins with the privilege check, the two on control registers after their
decode condition. -/
theorem privilegeFaults : Rules.PrivilegeFaults := by
  intro s r d a b op addr h hu
  have user := issued_privileged_user h hu
  refine ⟨fun hl => ?csrr, fun hl hw => ?csrw, ?tretRes, ?tretVal, ?tretKill, ?tlbiPage, ?tlbiCtx, ?tlbiPart, ?frz,
    ?frzThaw, ?wfi, ?sfence⟩
  case csrr => exact issued_legalIf_privileged_user h hu hl _
  case csrw => exact issued_legalIf_privileged_user h hu (csrwLegal_of_listed hl hw) _
  all_goals exact user _

/-- Settles O10: the traps and the illegal words, and the privileged instructions at user privilege. -/
theorem trapsAndPrivilege : Obligations.TrapsAndPrivilege := ⟨trapsAndIllegalWords, privilegeFaults⟩

end Sys2Proof.Machine
end

section
/-! SUPPORT. What an instruction leaves unchanged that moves its path and writes at most one uniform register: the
frame of each update, and from it the frame of the instruction. -/

namespace Sys2Proof

open Machine

variable {s t u : State} {r : PathRef}

/-! ### Changes to one path and to the uniform registers of its team -/

theorem OnlyTeams.sameMemory (h : OnlyTeams s t) : SameMemory s t := by
  have e : t = { s with teams := t.teams } := h
  intro a
  rw [e]
  rfl

theorem OnlyTeams.trans (h : OnlyTeams s t) (h' : OnlyTeams t u) : OnlyTeams s u := by
  have e : t = { s with teams := t.teams } := h
  have e' : u = { t with teams := u.teams } := h'
  rw [e] at e'
  exact e'

theorem TeamFrame.trans (h : TeamFrame s t r) (h' : TeamFrame t u r) : TeamFrame s u r where
  others k hk := (h'.others k hk).trans (h.others k hk)
  path b hb := (h'.path b hb).trans (h.path b hb)
  fixed := h'.fixed.trans h.fixed
  held := h'.held.trans h.held

/-- t differs from s at most in the path r and in the uniform registers of its team. -/
structure LocalTo (s t : State) (r : PathRef) : Prop where
  vectors : SameV s t r
  masks   : SameP s t r
  team    : TeamFrame s t r
  only    : OnlyTeams s t

theorem LocalTo.trans (h : LocalTo s t r) (h' : LocalTo t u r) : LocalTo s u r where
  vectors q l := (h'.vectors q l).trans (h.vectors q l)
  masks q := (h'.masks q).trans (h.masks q)
  team := h.team.trans h'.team
  only := h.only.trans h'.only

end Sys2Proof

namespace Sys2Proof.Machine

variable {s t : State} {r : PathRef} {i : Instr}

theorem localTo_modPath (s : State) (r : PathRef) (f : Path → Path) : LocalTo s (s.modPath r f) r where
  vectors q l := State.vget_modPath s l r f r q
  masks q := State.pget_modPath s r f q r
  team := {
    others := fun k hk => by rw [State.team_modPath, if_neg hk]
    path := fun b hb => by rw [State.team_modPath, if_pos rfl, Team.path_setPath, if_neg hb]
    fixed := by rw [State.team_modPath, if_pos rfl]; cases r.path <;> rfl
    held := by rw [State.team_modPath, if_pos rfl]; cases r.path <;> rfl }
  only := State.modPath_only ..

/-- A write to a uniform register changes the uniform registers of its team, and its note of registers in error. -/
theorem Team.sset_only (t : Team) (d : SReg) (v : DWord) :
    t.sset d v = { t with s := (t.sset d v).s, sErr := (t.sset d v).sErr } := by
  unfold Team.sset
  split <;> rfl

theorem localTo_sset (s : State) (r : PathRef) (d : SReg) (v : DWord) : LocalTo s (s.sset r d v) r where
  vectors q l := by simp only [State.vget, State.team_sset, if_true, Team.sset_vget]
  masks q := by simp only [State.pget, State.team_sset, if_true, Team.sset_pget]
  team := {
    others := fun k hk => by rw [State.team_sset, if_neg hk]
    path := fun b _ => by rw [State.team_sset, if_pos rfl, Team.sset_path]
    fixed := by rw [State.team_sset, if_pos rfl, Team.sset_only]
    held := by rw [State.team_sset, if_pos rfl, Team.sset_only] }
  only := State.sset_only ..

/-! ### Instructions that move their path -/

theorem moves_of_localTo {p : Path} (e : exec i s = .next t) (hl : LocalTo s t r) (hs : SameS s t r)
    (hp : t.path r = p) : Moves i s r p :=
  ⟨t, e, hp, hl.vectors, hs, hl.masks, hl.team, hl.only, hl.only.sameMemory⟩

theorem moves_modPath {f : Path → Path} (e : exec i s = .next (s.modPath r f)) : Moves i s r (f (s.path r)) :=
  moves_of_localTo e (localTo_modPath s r f) (fun q => State.sget_modPath s r f q r) (State.path_modPath_same s r f)

theorem movesOn_advance {n : Nat} (e : exec i s = .next (s.advance r n)) : MovesOn i s r n := moves_modPath e

theorem moves_transfer {g : DWord} (e : exec i s = .next (s.transfer r g)) : Moves i s r (Jumped (s.path r) g) :=
  moves_modPath e

/-- A path that is changed and then transfers control. -/
theorem moves_modPath_transfer {f : Path → Path} {g : DWord}
    (e : exec i s = .next ((s.modPath r f).transfer r g)) : Moves i s r (Jumped (f (s.path r)) g) := by
  have hl := (localTo_modPath s r f).trans (localTo_modPath (s.modPath r f) r fun p => Jumped p g)
  refine moves_of_localTo e hl (fun q => ?_) ?_
  · exact (State.sget_modPath _ r _ q r).trans (State.sget_modPath s r f q r)
  · exact (State.path_modPath_same _ r fun p => Jumped p g).trans (by rw [State.path_modPath_same])

/-! ### Instructions that write a uniform register -/

theorem writesSTo_modPath {d : SReg} {v : DWord} {f : Path → Path}
    (e : exec i s = .next ((s.sset r d v).modPath r f)) : WritesSTo i s r d v (f (s.path r)) := by
  have hl := (localTo_sset s r d v).trans (localTo_modPath (s.sset r d v) r f)
  refine ⟨_, e, fun q => ?_, ?_, hl.vectors, hl.masks, hl.team, hl.only, hl.only.sameMemory⟩
  · rw [State.sget_modPath, State.sget_sset]
  · rw [State.path_modPath_same, State.path_sset]

theorem writesS_advance {d : SReg} {v : DWord} {n : Nat} (e : exec i s = .next ((s.sset r d v).advance r n)) :
    WritesS i s r d v n :=
  writesSTo_modPath e

theorem writesSTo_transfer {d : SReg} {v g : DWord} (e : exec i s = .next ((s.sset r d v).transfer r g)) :
    WritesSTo i s r d v (Jumped (s.path r) g) :=
  writesSTo_modPath e

end Sys2Proof.Machine
end

section
/-! SUPPORT. The scalar arithmetic mould (R173 to R175): the exact result over the integers, wrapped to n bits, and the
bitwise instructions and shifts as operations on n-bit words. -/

namespace Sys2Proof.Machine

variable {s : State} {r : PathRef} {w u : Bool} {d a : SReg} {b : Src2} {i : Instr}

/-! ### Operands -/

theorem IFmt.val_signed (n x : Nat) : IFmt.val ⟨n, true⟩ x = (BitVec.ofNat n x).toInt := by
  rw [IFmt.val, BitVec.toInt_eq_msb_cond, BitVec.toNat_ofNat, BitVec.msb_eq_decide, BitVec.toNat_ofNat]
  push_cast
  rfl

theorem IFmt.val_unsigned (n x : Nat) : IFmt.val ⟨n, false⟩ x = ((BitVec.ofNat n x).toNat : Int) := by
  simp [IFmt.val]

/-- R175: an operand of the mould as the model and as the statements read it. -/
theorem scalarVal_eq_mouldVal (n : Nat) (u : Bool) (x : DWord) : scalarVal n u x = mouldVal n u x := by
  have hx : BitVec.ofNat n x.toNat = x.setWidth n := BitVec.ofNat_toNat n x
  cases u with
  | false => exact (IFmt.val_signed n _).trans (by rw [hx]; rfl)
  | true => exact (IFmt.val_unsigned n _).trans (by rw [hx]; rfl)

theorem ofInt_toNat {n : Nat} (x : BitVec n) : BitVec.ofInt n x.toNat = x := by
  rw [BitVec.ofInt_natCast, BitVec.ofNat_toNat, BitVec.setWidth_eq]

/-- R175: signed or not, an operand stands for its n bits. -/
theorem ofInt_mouldVal (n : Nat) (u : Bool) (x : DWord) : BitVec.ofInt n (mouldVal n u x) = x.setWidth n := by
  cases u with
  | false => exact BitVec.ofInt_toInt
  | true => exact ofInt_toNat _

theorem State.src2_eq_mouldSrc (s : State) (r : PathRef) (u : Bool) (b : Src2) : s.src2 r u b = mouldSrc s r u b := by
  cases b <;> rfl

theorem State.shiftCount_eq_mouldCount (s : State) (r : PathRef) (b : Src2) : s.shiftCount r b = mouldCount s r b := by
  cases b <;> rfl

/-! ### Results -/

/-- R175: an n-bit word as the mould writes it. -/
def mouldWord (w u : Bool) (z : BitVec (if w then 32 else 64)) : DWord :=
  if u || !w then z.setWidth 64 else z.signExtend 64

theorem mouldRes_eq_mouldWord (w u : Bool) (q : Int) : mouldRes w u q = mouldWord w u (BitVec.ofInt _ q) := by
  cases w <;> cases u <;> simp [mouldRes, mouldWord]

/-! ### The two shapes of instructions -/

theorem writesS_scalarArith (h : Issuing s r) {f : Nat → Int → Int → Int} (e : exec i s = scalarArith w u d a b f s) :
    let n := if w then 32 else 64
    WritesS i s r d (mouldRes w u (f n (mouldVal n u (s.sget r a)) (mouldVal n u (mouldSrc s r u b)))) 1 := by
  refine writesS_advance (e.trans ?_)
  rw [scalarArith, issued_next h]
  simp only [scalarVal_eq_mouldVal, State.src2_eq_mouldSrc]
  rfl

theorem writesS_scalarShift (h : Issuing s r) {f : Nat → DWord → Nat → Int} (e : exec i s = scalarShift w u d a b f s) :
    WritesS i s r d (mouldRes w u (f (if w then 32 else 64) (s.sget r a) (mouldCount s r b))) 1 := by
  refine writesS_advance (e.trans ?_)
  rw [scalarShift, issued_next h, State.shiftCount_eq_mouldCount]
  rfl

/-- R175: each instruction is the mould around its row of Table 5. -/
theorem scalarArithmetic : Rules.ScalarArithmetic := by
  intro s r w u d a b h
  refine ⟨?sadd, ?ssub, ?smul, ?smulh, ?sdiv, ?srem, ?smin, ?smax⟩
  case smin =>
    rw [min_def]
    exact writesS_scalarArith h (f := fun _ x y => if x ≤ y then x else y) rfl
  case smax =>
    rw [max_def]
    exact writesS_scalarArith h (f := fun _ x y => if x ≤ y then y else x) rfl
  case sadd => exact writesS_scalarArith h (f := fun _ x y => x + y) rfl
  case ssub => exact writesS_scalarArith h (f := fun _ x y => x - y) rfl
  case smul => exact writesS_scalarArith h (f := fun _ x y => x * y) rfl
  case smulh => exact writesS_scalarArith h (f := fun n x y => (x * y).fdiv (2 ^ n)) rfl
  case sdiv => exact writesS_scalarArith h (f := fun n x y => if y = 0 then 2 ^ n - 1 else x.tdiv y) rfl
  case srem => exact writesS_scalarArith h (f := fun _ x y => if y = 0 then x else x - y * x.tdiv y) rfl

/-! ### Bitwise instructions and shifts -/

theorem wrap_mouldVal (n : Nat) (u : Bool) (x : DWord) :
    IFmt.wrap ⟨n, false⟩ (mouldVal n u x) = (x.setWidth n).toNat := by
  rw [← ofInt_mouldVal n u x, BitVec.toNat_ofInt, IFmt.wrap]
  push_cast
  rfl

/-- A bitwise instruction is the operation of words that f is on their values. -/
theorem writesS_scalarBits (h : Issuing s r) {f : Nat → Nat → Nat}
    {g : ∀ {n : Nat}, BitVec n → BitVec n → BitVec n}
    (hg : ∀ {n : Nat} (x y : BitVec n), (g x y).toNat = f x.toNat y.toNat) (e : exec i s = scalarBits w u d a b f s) :
    WritesS i s r d (mouldWord w u (g ((s.sget r a).setWidth _) ((mouldSrc s r u b).setWidth _))) 1 := by
  have hr := writesS_scalarArith h e
  simp only [wrap_mouldVal, ← hg, mouldRes_eq_mouldWord, ofInt_toNat] at hr
  exact hr

/-- A shift is the operation of words that the exact result wraps to. -/
theorem writesS_scalarShift_word (h : Issuing s r) {f : Nat → DWord → Nat → Int}
    {g : ∀ {n : Nat}, BitVec n → Nat → BitVec n}
    (hg : ∀ (n : Nat) (x : DWord) (c : Nat), BitVec.ofInt n (f n x c) = g (x.setWidth n) c)
    (e : exec i s = scalarShift w u d a b f s) :
    WritesS i s r d (mouldWord w u (g ((s.sget r a).setWidth _) (mouldCount s r b))) 1 := by
  have hr := writesS_scalarShift h e
  rw [mouldRes_eq_mouldWord, hg] at hr
  exact hr

/-- R175: x × 2^c, which is 0 when c ≥ n. -/
theorem ofInt_shiftLeft (n : Nat) (x : DWord) (c : Nat) :
    BitVec.ofInt n (if n ≤ c then 0 else scalarVal n true x * 2 ^ c) = x.setWidth n <<< c := by
  rw [scalarVal_eq_mouldVal]
  split
  next hc => rw [BitVec.shiftLeft_eq_zero hc]; rfl
  next =>
    have value : mouldVal n true x * 2 ^ c = ((x.setWidth n).toNat <<< c : Nat) := by
      rw [Nat.shiftLeft_eq]; push_cast; rfl
    rw [value, BitVec.ofInt_natCast, ← BitVec.toNat_inj, BitVec.toNat_ofNat, BitVec.toNat_shiftLeft]

/-- R175: x unsigned over 2^c, which is 0 when c ≥ n. -/
theorem ofInt_shiftRight (n : Nat) (x : DWord) (c : Nat) :
    BitVec.ofInt n (if n ≤ c then 0 else (scalarVal n true x).fdiv (2 ^ c)) = x.setWidth n >>> c := by
  rw [scalarVal_eq_mouldVal]
  split
  next hc => rw [BitVec.ushiftRight_eq_zero hc]; rfl
  next =>
    have value : (mouldVal n true x).fdiv (2 ^ c) = ((x.setWidth n >>> c).toNat : Int) := by
      rw [Int.fdiv_eq_ediv_of_nonneg _ (by positivity), BitVec.toNat_ushiftRight, Nat.shiftRight_eq_div_pow]
      push_cast
      rfl
    rw [value, ofInt_toNat]

/-- A signed word shifted past its width is its sign. -/
theorem toInt_shiftRight_of_le {n c : Nat} (x : BitVec n) (hc : n ≤ c) :
    x.toInt >>> c = if x.toInt < 0 then -1 else 0 := by
  have hp : (2 : Int) ^ n ≤ 2 ^ c := pow_le_pow_right₀ (by decide) hc
  have low := BitVec.le_two_mul_toInt (x := x)
  have high := BitVec.two_mul_toInt_lt (x := x)
  rw [Int.shiftRight_eq_div_pow]
  push_cast
  split
  next hx => exact Int.ediv_eq_neg_one_of_neg_of_le hx (by omega)
  next hx => exact Int.ediv_eq_zero_of_lt (by omega) (by omega)

/-- R175: x signed over 2^c, which is its sign when c ≥ n. -/
theorem ofInt_sshiftRight (n : Nat) (x : DWord) (c : Nat) :
    BitVec.ofInt n (if n ≤ c then (if scalarVal n false x < 0 then -1 else 0) else (scalarVal n false x).fdiv (2 ^ c)) =
      (x.setWidth n).sshiftRight c := by
  have value : scalarVal n false x = (x.setWidth n).toInt := scalarVal_eq_mouldVal n false x
  rw [value, BitVec.sshiftRight]
  congr 1
  split
  next hc => rw [toInt_shiftRight_of_le _ hc]
  next =>
    rw [Int.fdiv_eq_ediv_of_nonneg _ (by positivity), Int.shiftRight_eq_div_pow]
    push_cast
    rfl

theorem scalarBitwise : Rules.ScalarBitwise := by
  intro s r w u d a b h
  refine ⟨?sand, ?sor, ?sxor, ?sshl, ?sshr, ?ssra⟩
  case sand => exact writesS_scalarBits h (f := (· &&& ·)) (g := (· &&& ·)) BitVec.toNat_and rfl
  case sor => exact writesS_scalarBits h (f := (· ||| ·)) (g := (· ||| ·)) BitVec.toNat_or rfl
  case sxor => exact writesS_scalarBits h (f := (· ^^^ ·)) (g := (· ^^^ ·)) BitVec.toNat_xor rfl
  case sshl => exact writesS_scalarShift_word h (g := fun x c => x <<< c) ofInt_shiftLeft rfl
  case sshr => exact writesS_scalarShift_word h (g := fun x c => x >>> c) ofInt_shiftRight rfl
  case ssra => exact writesS_scalarShift_word h (g := BitVec.sshiftRight) ofInt_sshiftRight rfl

/-- Settles O12: the exact results of the mould, and its operations on words. -/
theorem scalarMould : Obligations.ScalarMould := ⟨scalarArithmetic, scalarBitwise⟩

end Sys2Proof.Machine
end

section
/-! SUPPORT. The transfers that divide no team: the uniform branches, calls and returns, and the two forms of `jmpi`
(R123, R124, R156 to R158, R165 to R168, R171). -/

namespace Sys2Proof.Machine

variable {s : State} {r : PathRef} {i : Instr}

/-! ### Targets -/

/-- R124: the offset of a branch counts words. -/
theorem State.relTarget_eq {n : Nat} (s : State) (r : PathRef) (off : BitVec n) :
    s.relTarget r off = (s.path r).pc + 4 * off.signExtend 64 := by
  rw [State.relTarget, BitVec.shiftLeft_eq_mul_twoPow, BitVec.mul_comm]
  rfl

theorem targetOk_iff (g : DWord) : targetOk g = true ↔ g.toNat % 4 = 0 ∧ g.toNat < 2 ^ 56 := by
  have low : g.extractLsb' 0 2 = 0 ↔ g.toNat % 4 = 0 := by
    rw [← BitVec.toNat_inj]; simp
  have high : g.extractLsb' 56 8 = 0 ↔ g.toNat < 2 ^ 56 := by
    rw [← BitVec.toNat_inj]; simp [Nat.shiftRight_eq_div_pow]; omega
  rw [targetOk, Bool.and_eq_true, beq_iff_eq, beq_iff_eq, low, high]

/-- R156: what a transfer to a computed target does where the target is an address of a word, and where it is not. -/
theorem moves_or_illegal_of_targetOk {P : Prop} {g : DWord} {t : State}
    (e : exec i s = .next (s.legalIf r (targetOk g) t)) (hm : exec i s = .next t → P) :
    (g.toNat % 4 = 0 ∧ g.toNat < 2 ^ 56 → P) ∧ (¬ (g.toNat % 4 = 0 ∧ g.toNat < 2 ^ 56) → Illegal i s r) := by
  rw [← targetOk_iff]
  cases hg : targetOk g with
  | true => exact ⟨fun _ => hm (by rw [e, hg, State.legalIf_true]), fun hn => absurd rfl hn⟩
  | false => exact ⟨fun hf => absurd hf (by decide), fun _ => by rw [Illegal, e, hg, State.legalIf_false]⟩

/-! ### Uniform branches, calls and returns -/

theorem moves_branchIf {c : Bool} {off : Word} (e : exec i s = .next (s.branchIf r c off)) :
    Moves i s r (if c then Jumped (s.path r) ((s.path r).pc + 4 * off.signExtend 64) else (s.path r).advance 2) := by
  rw [State.branchIf, State.relTarget_eq] at e
  cases c with
  | true => exact moves_transfer e
  | false => exact movesOn_advance e

theorem moves_bra (h : Issuing s r) (off : BitVec 24) :
    Moves (.bra off) s r (Jumped (s.path r) ((s.path r).pc + 4 * off.signExtend 64)) := by
  rw [← State.relTarget_eq]
  exact moves_transfer (issued_next h _)

theorem writesSTo_call (h : Issuing s r) (d : SReg) (off : Word) :
    WritesSTo (.call d off) s r d ((s.path r).pc + 8) (Jumped (s.path r) ((s.path r).pc + 4 * off.signExtend 64)) := by
  rw [← State.relTarget_eq]
  exact writesSTo_transfer (issued_next h _)

theorem uniformTransfers : Rules.UniformTransfers := by
  intro s r d a p h
  have ret := moves_or_illegal_of_targetOk (i := .ret a) (g := s.sget r a) (issued_next h _) moves_transfer
  have calli := moves_or_illegal_of_targetOk (i := .calli d a) (issued_next h _) writesSTo_transfer
  rw [State.sget_sset] at calli
  refine ⟨movesOn_advance (issued_next h _), movesOn_advance (issued_next h _), moves_bra h, fun off => ?branches,
    ret.1, ret.2, calli, fun _ => rfl, ?words⟩
  case branches =>
    exact ⟨moves_branchIf (issued_next h _), moves_branchIf (issued_next h _), moves_branchIf (issued_next h _),
      moves_branchIf (issued_next h _), writesSTo_call h d off⟩
  case words =>
    intro off i hi
    simp only [List.mem_cons, List.not_mem_nil, or_false] at hi
    rcases hi with rfl | rfl | rfl | rfl <;> rfl

/-! ### Masks and their lanes -/

theorem Team.getLsbD_allLanes (t : Team) (l : Nat) : t.allLanes.getLsbD l = (decide (l < 1024) && decide (l < t.width)) := by
  rw [Team.allLanes, BitVec.getLsbD_ofNat, Nat.testBit_two_pow_sub_one]

theorem lanesOf_eq_nil_iff {t : Team} {m : Mask} : lanesOf t m = [] ↔ m &&& t.allLanes = 0 := by
  have bits : m &&& t.allLanes = 0 ↔ ∀ l, l < 1024 → ¬ (l < t.width ∧ m.getLsbD l = true) := by
    constructor
    · rintro h l hl ⟨hw, hm⟩
      have both : (m &&& t.allLanes).getLsbD l = true := by
        rw [BitVec.getLsbD_and, Team.getLsbD_allLanes, hm, decide_eq_true hl, decide_eq_true hw]; rfl
      simp [h] at both
    · refine fun h => BitVec.eq_of_getLsbD_eq fun l hl => ?_
      have := h l hl
      simp only [BitVec.getLsbD_and, Team.getLsbD_allLanes, hl]
      grind
  rw [bits, List.eq_nil_iff_forall_not_mem]
  exact ⟨fun h l _ hm => h l (mem_lanesOf.2 hm), fun h l hm => h l (lanesOf_lt hm) (mem_lanesOf.1 hm)⟩

/-- The lanes of a mask ascend, so that the lowest comes first. -/
theorem lanesOf_eq_cons {t : Team} {m : Mask} {e : Nat} (he : e ∈ lanesOf t m) (hmin : ∀ l ∈ lanesOf t m, e ≤ l) :
    ∃ ls, lanesOf t m = e :: ls := by
  have hs : (lanesOf t m).Pairwise (· < ·) := List.pairwise_lt_range.filter _
  cases hl : lanesOf t m with
  | nil => simp [hl] at he
  | cons x ls =>
    rw [hl] at he hmin hs
    have hx : e ≤ x := hmin x (List.mem_cons_self ..)
    rcases List.mem_cons.1 he with rfl | hm
    · exact ⟨ls, rfl⟩
    · exact absurd (List.rel_of_pairwise_cons hs hm) (by omega)

theorem getLsbD_foldl_laneBit (f : Nat → Bool) (l : Nat) (ls : List Nat) (m : Mask) (hls : ∀ x ∈ ls, x < 1024) :
    (ls.foldl (fun m l => if f l then m ||| laneBit l else m) m).getLsbD l = true ↔
      m.getLsbD l = true ∨ (l ∈ ls ∧ f l = true) := by
  induction ls generalizing m with
  | nil => simp
  | cons x ls ih =>
    have hx : (laneBit x).getLsbD l = decide (l = x) := by
      by_cases hl : l < 1024
      · exact laneBit_getLsbD hl
      · have := hls x (List.mem_cons_self ..)
        rw [BitVec.getLsbD_of_ge _ _ (by omega), eq_comm, decide_eq_false_iff_not]
        omega
    rw [List.foldl_cons, ih _ fun y hy => hls y (List.mem_cons_of_mem _ hy)]
    by_cases hf : f x = true
    · simp only [hf, if_true, BitVec.getLsbD_or, hx, Bool.or_eq_true, decide_eq_true_eq, List.mem_cons]
      grind
    · simp only [hf, List.mem_cons]
      grind

/-- The lanes of a mask in which a test holds. -/
theorem getLsbD_maskOf_lanesOf {t : Team} {m : Mask} (f : Nat → Bool) (l : Nat) :
    (maskOf (lanesOf t m) f).getLsbD l = true ↔ l ∈ lanesOf t m ∧ f l = true := by
  rw [maskOf, getLsbD_foldl_laneBit f l _ _ fun _ => lanesOf_lt]
  simp

/-! ### Indirect jumps -/

/-- R166: the target of lane l in the vector form. -/
def State.jmpiTarget (s : State) (r : PathRef) (a : VReg) (b : SReg) (l : Nat) : DWord :=
  s.sget r b + (s.vget r a l).setWidth 64

/-- R166: the active lanes that go where lane e goes. -/
def State.jmpiGroup (s : State) (r : PathRef) (a : VReg) (b : SReg) (e : Nat) : Mask :=
  Machine.maskOf (lanesOf (s.team r.tok) (s.active r)) fun l => s.jmpiTarget r a b l == s.jmpiTarget r a b e

/-- R166: lane e's target is taken with its group, and the other active lanes wait in an entry. -/
def State.jmpiGo (s : State) (r : PathRef) (a : VReg) (b : SReg) (e : Nat) (top : StackEntry) (rest : List StackEntry) :
    State :=
  s.legalIf r (targetOk (s.jmpiTarget r a b e)) <|
    (s.modPath r fun p =>
      { p with
        stack := { top with pend := s.active r &&& ~~~ s.jmpiGroup r a b e } :: rest
        xm := s.jmpiGroup r a b e }).transfer r (s.jmpiTarget r a b e)

/-- R166: the indirect entry that a vector `jmpi` opens. -/
def State.jmpiEntry (s : State) (r : PathRef) (joff : Word) : StackEntry :=
  ⟨true, (s.path r).xm, 0, ((s.path r).pc - 4).setWidth 56, (s.relTarget r joff).setWidth 56, false⟩

/-- R164, R166: lane e's target is elected in a new entry, where there is room. -/
def State.jmpiFresh (s : State) (r : PathRef) (a : VReg) (b : SReg) (joff : Word) (e : Nat) : State :=
  if 32 ≤ (s.path r).stack.length then s.takeStop r { cause := 15, sub := 1 }
  else s.jmpiGo r a b e (s.jmpiEntry r joff) (s.path r).stack

/-- R166: the entry is one that the path's `jmpi` takes up again. -/
def State.jmpiResumes (s : State) (r : PathRef) (top : StackEntry) : Bool :=
  top.indirect && top.rsm && top.ppc == ((s.path r).pc - 4).setWidth 56

theorem State.jmpiResumes_iff {top : StackEntry} : s.jmpiResumes r top = true ↔
    top.indirect = true ∧ top.rsm = true ∧ top.ppc = ((s.path r).pc - 4).setWidth 56 := by
  rw [State.jmpiResumes, Bool.and_eq_true, Bool.and_eq_true, beq_iff_eq, and_assoc]

/-- R166: the election is made in the entry that is taken up again, or in a new one. -/
def State.jmpiElect (s : State) (r : PathRef) (a : VReg) (b : SReg) (joff : Word) (e : Nat) : State :=
  match (s.path r).stack with
  | top :: rest =>
    if s.jmpiResumes r top then s.jmpiGo r a b e { top with rsm := false } rest else s.jmpiFresh r a b joff e
  | [] => s.jmpiFresh r a b joff e

variable {a : VReg} {b : SReg} {joff : Word} {e : Nat}

theorem State.jmpiElect_resumes {top : StackEntry} {rest : List StackEntry} (hs : (s.path r).stack = top :: rest)
    (ht : s.jmpiResumes r top = true) :
    s.jmpiElect r a b joff e = s.jmpiGo r a b e { top with rsm := false } rest := by
  simp only [State.jmpiElect, hs, ht, if_true]

theorem State.jmpiElect_fresh (hf : ∀ top rest, (s.path r).stack = top :: rest → s.jmpiResumes r top = false) :
    s.jmpiElect r a b joff e = s.jmpiFresh r a b joff e := by
  unfold State.jmpiElect
  split
  next top rest hs => rw [hf top rest hs, if_neg Bool.false_ne_true]
  next => rfl

theorem State.getLsbD_jmpiGroup (l : Nat) : (s.jmpiGroup r a b e).getLsbD l = true ↔
    Active s r l ∧ s.jmpiTarget r a b l = s.jmpiTarget r a b e := by
  rw [State.jmpiGroup, getLsbD_maskOf_lanesOf, beq_iff_eq]
  rfl

/-- R166: the vector form is legal first in its clause, with its register within the budget. -/
theorem jmpiVector_legal (hw : (s.path r).widx = 0) (ha : a.toNat < (s.team r.tok).budget) :
    (s.vOk r [a] && (s.path r).widx == 0) = true := by
  simp [State.vOk, hw, ha]

theorem jmpiVector_not_legal (hn : (s.path r).widx ≠ 0 ∨ (s.team r.tok).budget ≤ a.toNat) :
    (s.vOk r [a] && (s.path r).widx == 0) = false := by
  rcases hn with hw | ha
  · simp [hw]
  · simp [State.vOk, ha]

theorem illegal_jmpiVector (h : Issuing s r) (hn : (s.path r).widx ≠ 0 ∨ (s.team r.tok).budget ≤ a.toNat) :
    Illegal (.jmpiVector a b joff) s r := by
  show execJmpiVector a b joff s = _
  rw [execJmpiVector, issued_next h]
  simp only [jmpiVector_not_legal hn, State.legalIf_false]

theorem exec_jmpiVector_none (h : Issuing s r) (hw : (s.path r).widx = 0) (ha : a.toNat < (s.team r.tok).budget)
    (hn : lanesOf (s.team r.tok) (s.active r) = []) : exec (.jmpiVector a b joff) s = .next (s.advance r 2) := by
  show execJmpiVector a b joff s = _
  rw [execJmpiVector, issued_next h]
  simp only [jmpiVector_legal hw ha, State.legalIf_true, hn]

theorem exec_jmpiVector_some (h : Issuing s r) (hw : (s.path r).widx = 0) (ha : a.toNat < (s.team r.tok).budget)
    {ls : List Nat} (hl : lanesOf (s.team r.tok) (s.active r) = e :: ls) :
    exec (.jmpiVector a b joff) s = .next (s.jmpiElect r a b joff e) := by
  show execJmpiVector a b joff s = _
  rw [execJmpiVector, issued_next h]
  simp only [jmpiVector_legal hw ha, State.legalIf_true, hl]
  unfold State.jmpiElect State.jmpiFresh State.jmpiGo State.jmpiGroup
  rw [hl]
  rfl

/-- R166, R156: the election of lane e moves the path, or is illegal where its target is no address of a word. -/
theorem moves_or_illegal_jmpiGo {top : StackEntry} {rest : List StackEntry}
    (he : exec i s = .next (s.jmpiGo r a b e top rest)) :
    let g := s.jmpiTarget r a b e
    let grp := s.jmpiGroup r a b e
    (g.toNat % 4 = 0 ∧ g.toNat < 2 ^ 56 → Moves i s r { Jumped (s.path r) g with
      xm := grp, stack := { top with pend := s.active r &&& ~~~ grp } :: rest }) ∧
    (¬ (g.toNat % 4 = 0 ∧ g.toNat < 2 ^ 56) → Illegal i s r) :=
  moves_or_illegal_of_targetOk he moves_modPath_transfer

theorem exec_jmpiUniform_none (h : Issuing s r) (hn : s.active r &&& (s.team r.tok).allLanes = 0) :
    exec (.jmpiUniform b) s = .next (s.advance r 2) := by
  show execJmpiUniform b s = _
  rw [execJmpiUniform, issued_next h, if_pos hn]

/-- R167, R156: with an active lane the whole path goes. -/
theorem exec_jmpiUniform_some (h : Issuing s r) (hn : s.active r &&& (s.team r.tok).allLanes ≠ 0) :
    exec (.jmpiUniform b) s = .next (s.legalIf r (targetOk (s.sget r b)) (s.transfer r (s.sget r b))) := by
  show execJmpiUniform b s = _
  rw [execJmpiUniform, issued_next h, if_neg hn]

theorem indirectJumps : Rules.IndirectJumps := by
  intro s r a b joff h
  have uniform := fun hn => moves_or_illegal_of_targetOk (exec_jmpiUniform_some (b := b) h hn) moves_transfer
  refine ⟨fun hn => movesOn_advance (exec_jmpiUniform_none h hn), fun hn => (uniform hn).1, fun hn => (uniform hn).2,
    illegal_jmpiVector h, fun hw ha hn => movesOn_advance (exec_jmpiVector_none h hw ha (lanesOf_eq_nil_iff.2 hn)),
    fun hw ha e he hmin => ⟨s.jmpiGroup r a b e, fun l => State.getLsbD_jmpiGroup l, ?resumed, ?opened⟩⟩
  all_goals
    obtain ⟨ls, hl⟩ := lanesOf_eq_cons he hmin
    have elect := exec_jmpiVector_some (b := b) (joff := joff) h hw ha hl
  case resumed =>
    intro top rest hs ht
    rw [State.jmpiElect_resumes hs (State.jmpiResumes_iff.2 ht)] at elect
    exact moves_or_illegal_jmpiGo elect
  case opened =>
    intro hf
    rw [State.jmpiElect_fresh fun top rest hs =>
      Bool.eq_false_iff.2 fun ht => hf top rest hs (State.jmpiResumes_iff.1 ht), State.jmpiFresh] at elect
    constructor
    · intro hfull
      rwa [if_pos hfull] at elect
    · intro hroom
      rw [if_neg (Nat.not_le.2 hroom)] at elect
      rw [← State.relTarget_eq]
      exact moves_or_illegal_jmpiGo elect

/-- Settles O14: the transfers that divide no team. -/
theorem controlTransfers : Obligations.ControlTransfers := ⟨uniformTransfers, indirectJumps⟩

end Sys2Proof.Machine
end

section
/-! SUPPORT. Decoding and encoding are inverse (R119 to R142): each field of a word reads back what the encoding put
there, each opcode is read by one of the four parsers, and so each well-formed instruction is read from its words. -/

namespace Sys2Proof

open BitVec

variable {op d a b : Byte} {lit : Word} {i : Instr}

/-! ### The bytes of a word -/

theorem dOf_mkWord : dOf (mkWord op d a b) = d := by
  rw [dOf, mkWord, extractLsb'_append_eq_of_le (by decide), extractLsb'_append_eq_of_le (by decide)]
  exact extractLsb'_append_eq_right

theorem aOf_mkWord : aOf (mkWord op d a b) = a := by
  rw [aOf, mkWord, extractLsb'_append_eq_of_le (by decide)]
  exact extractLsb'_append_eq_right

theorem bOf_mkWord : bOf (mkWord op d a b) = b := extractLsb'_append_eq_right

/-- Three bytes that are cut out of the 24 bits after an opcode are those bits. -/
theorem fields_append (m : BitVec 24) :
    dOf ((op ++ m : BitVec (8 + 24)) : Word) ++ aOf ((op ++ m : BitVec (8 + 24)) : Word) ++
      bOf ((op ++ m : BitVec (8 + 24)) : Word) = m := by
  rw [dOf, aOf, bOf, extractLsb'_append_eq_of_add_le (by decide), extractLsb'_append_eq_of_add_le (by decide),
    extractLsb'_append_eq_of_add_le (by decide)]
  rw [extractLsb'_append_extractLsb'_eq_extractLsb' (by decide), extractLsb'_append_extractLsb'_eq_extractLsb' (by decide)]
  exact extractLsb'_eq_self

/-! ### Fields of a byte -/

@[simp] theorem bit_b1 (x : Bool) : bit (b1 x) 0 = x := by cases x <;> rfl
@[simp] theorem bit_one : bit (1#8) 0 = true := rfl
@[simp] theorem bit_ttrans (two : Bool) : bit (if two = true then 2#8 else 1#8) 1 = two := by cases two <;> rfl
@[simp] theorem bit_zero (n k : Nat) : bit (0#n) k = false := getLsbD_zero

@[simp] theorem sreg_ofS (r : SReg) : sreg (ofS r) = r := extractLsb'_append_eq_right
@[simp] theorem preg_ofP (p : PReg) : preg (ofP p) = p := extractLsb'_append_eq_right

@[simp] theorem sreg_selectors (x y : BitVec 1) (r : SReg) : sreg (x ++ y ++ r) = r := extractLsb'_append_eq_right
@[simp] theorem bit6_selectors (x y : BitVec 1) (r : SReg) : bit (x ++ y ++ r : Byte) 6 = bit y 0 := by
  rw [bit, getLsbD_append, if_neg (by decide), getLsbD_append, if_pos (by decide)]; rfl
@[simp] theorem bit7_selectors (x y : BitVec 1) (r : SReg) : bit (x ++ y ++ r : Byte) 7 = bit x 0 := by
  rw [bit, getLsbD_append, if_neg (by decide), getLsbD_append, if_neg (by decide)]; rfl

@[simp] theorem sreg_selector2 (k : BitVec 2) (r : SReg) : sreg (k ++ r) = r := extractLsb'_append_eq_right
@[simp] theorem extract_selector2 (k : BitVec 2) (r : SReg) : (k ++ r : Byte).extractLsb' 6 2 = k :=
  extractLsb'_append_eq_left

@[simp] theorem preg_condD (c : Cond) (p : PReg) : preg (condD c p) = p := extractLsb'_append_eq_right
@[simp] theorem preg_allD (all : Bool) (p : PReg) : preg (allD all p) = p := extractLsb'_append_eq_right
@[simp] theorem bit3_allD (all : Bool) (p : PReg) : bit (allD all p) 3 = all := by
  rw [allD, bit, getLsbD_append, if_neg (by decide), getLsbD_append, if_pos (by decide)]
  exact bit_b1 all
@[simp] theorem bit0_flag (x : Bool) : bit ((0#7 ++ b1 x : BitVec (7 + 1)) : Byte) 0 = x := by
  rw [bit, getLsbD_append, if_pos (by decide)]
  exact bit_b1 x

/-- The two bits 10 over the low nibble, which `ballot` and `pset.sc` set. -/
@[simp] theorem kind_ballot (k : BitVec 4) : ((8#4 ++ k : BitVec (4 + 4)) : Byte).toNat >>> 6 % 4 = 2 := by
  revert k
  decide

@[simp] theorem high_nibbles (x y : BitVec 4) : ((x ++ y : BitVec (4 + 4)) : Byte).extractLsb' 4 4 = x :=
  extractLsb'_append_eq_left
@[simp] theorem low_nibbles (x y : BitVec 4) : ((x ++ y : BitVec (4 + 4)) : Byte).extractLsb' 0 4 = y :=
  extractLsb'_append_eq_right
@[simp] theorem low2_byte (k : BitVec 2) : ((0#6 ++ k : BitVec (6 + 2)) : Byte).extractLsb' 0 2 = k :=
  extractLsb'_append_eq_right

@[simp] theorem scope_fence (o : BitVec 2) (c : BitVec 3) :
    ((0#3 ++ o ++ c : BitVec (3 + 2 + 3)) : Byte).extractLsb' 0 3 = c := extractLsb'_append_eq_right
@[simp] theorem order_fence (o : BitVec 2) (c : BitVec 3) :
    ((0#3 ++ o ++ c : BitVec (3 + 2 + 3)) : Byte).extractLsb' 3 2 = o := by
  rw [extractLsb'_append_eq_of_le (by decide)]
  exact extractLsb'_append_eq_right
@[simp] theorem scope_bar (x c : BitVec 2) : ((0#4 ++ x ++ c : BitVec (4 + 2 + 2)) : Byte).extractLsb' 0 2 = c :=
  extractLsb'_append_eq_right
@[simp] theorem id_bar (x c : BitVec 2) : ((0#4 ++ x ++ c : BitVec (4 + 2 + 2)) : Byte).extractLsb' 2 2 = x := by
  rw [extractLsb'_append_eq_of_le (by decide)]
  exact extractLsb'_append_eq_right
@[simp] theorem flags_flwait (m : BitVec 12) :
    m.extractLsb' 8 4 ++ m.extractLsb' 0 8 = m := by
  rw [extractLsb'_append_extractLsb'_eq_extractLsb' (by decide)]
  exact extractLsb'_eq_self

/-! ### Codes -/

@[simp] theorem Cond.ofCode_condD (c : Cond) (p : PReg) : Cond.ofCode ((condD c p).extractLsb' 3 5) = some c := by
  rw [condD, extractLsb'_append_eq_left]
  cases c <;> rfl
@[simp] theorem BitOp.ofCode_code (o : BitOp) : BitOp.ofCode o.code = some o := by cases o <;> rfl
@[simp] theorem SliMode.ofCode_code (m : SliMode) : SliMode.ofCode m.code = some m := by cases m <;> rfl
@[simp] theorem Special.ofCode_code (x : Special) : Special.ofCode x.code = some x := by cases x <;> rfl
@[simp] theorem Fmt.ofCode_code (f : Fmt) : Fmt.ofCode f.code = some f := by cases f <;> rfl
@[simp] theorem ShflMode.ofCode_code (m : ShflMode) : ShflMode.ofCode m.code = some m := by cases m <;> rfl
@[simp] theorem FoldOp.ofCode_code (o : FoldOp) : FoldOp.ofCode o.code = some o := by cases o <;> rfl
@[simp] theorem MSize.ofCode_code (z : MSize) : MSize.ofCode z.code = some z := by cases z <;> rfl
@[simp] theorem Scope.ofCode_code (c : Scope) : Scope.ofCode c.code = some c := by cases c <;> rfl
@[simp] theorem Order.ofCode_code (o : Order) : Order.ofCode o.code = o := by cases o <;> rfl
@[simp] theorem OFmt.ofCode_code (f : OFmt) : OFmt.ofCode f.code = some f := by cases f <;> rfl
@[simp] theorem RedOp.ofCode_code (o : RedOp) : RedOp.ofCode o.code = some o := by cases o <;> rfl
@[simp] theorem RedOp.ofCode_zero : RedOp.ofCode 0#2 = some .store := rfl
@[simp] theorem BarScope.ofCode_code (c : BarScope) : BarScope.ofCode c.code = c := by cases c <;> rfl
@[simp] theorem CsrOp.ofCode_code (o : CsrOp) : CsrOp.ofCode o.code = some o := by cases o <;> rfl

/-! ### Literals -/

@[simp] theorem brp_offsets (x y : BitVec 16) :
    ((x ++ y : BitVec (16 + 16)) : Word).extractLsb' 16 16 = x ∧ ((x ++ y : BitVec (16 + 16)) : Word).extractLsb' 0 16 = y :=
  ⟨extractLsb'_append_eq_left, extractLsb'_append_eq_right⟩
@[simp] theorem select_mask (x : Bool) (p : PReg) : ((0#28 ++ b1 x ++ p : BitVec (28 + 1 + 3)) : Word).extractLsb' 0 3 = p :=
  extractLsb'_append_eq_right
@[simp] theorem select_bit (x : Bool) (p : PReg) : bit ((0#28 ++ b1 x ++ p : BitVec (28 + 1 + 3)) : Word) 3 = x := by
  rw [bit, getLsbD_append, if_neg (by decide), getLsbD_append, if_pos (by decide)]
  exact bit_b1 x

@[simp] theorem sbfe_fields (x : Bool) (len : BitVec 7) (pos : BitVec 6) :
    let w : Word := (0#15 ++ b1 x ++ 0#1 ++ len ++ 0#2 ++ pos : BitVec (15 + 1 + 1 + 7 + 2 + 6))
    w.extractLsb' 0 6 = pos ∧ w.extractLsb' 8 7 = len ∧ bit w 16 = x := by
  refine ⟨extractLsb'_append_eq_right, ?_, ?_⟩
  · rw [extractLsb'_append_eq_of_le (by decide), extractLsb'_append_eq_of_le (by decide)]
    exact extractLsb'_append_eq_right
  · rw [bit, getLsbD_append, if_neg (by decide), getLsbD_append, if_neg (by decide), getLsbD_append, if_neg (by decide),
      getLsbD_append, if_neg (by decide), getLsbD_append, if_pos (by decide)]
    exact bit_b1 x
@[simp] theorem sbfi_fields (len : BitVec 7) (pos : BitVec 6) :
    let w : Word := (0#17 ++ len ++ 0#2 ++ pos : BitVec (17 + 7 + 2 + 6))
    w.extractLsb' 0 6 = pos ∧ w.extractLsb' 8 7 = len := by
  refine ⟨extractLsb'_append_eq_right, ?_⟩
  rw [extractLsb'_append_eq_of_le (by decide), extractLsb'_append_eq_of_le (by decide)]
  exact extractLsb'_append_eq_right
@[simp] theorem bfe_fields (len : BitVec 6) (pos : BitVec 5) :
    let w : Word := (0#18 ++ len ++ 0#3 ++ pos : BitVec (18 + 6 + 3 + 5))
    w.extractLsb' 0 5 = pos ∧ w.extractLsb' 8 6 = len := by
  refine ⟨extractLsb'_append_eq_right, ?_⟩
  rw [extractLsb'_append_eq_of_le (by decide), extractLsb'_append_eq_of_le (by decide)]
  exact extractLsb'_append_eq_right
@[simp] theorem cvtq_bits (x y : Bool) :
    let w : Word := (0#30 ++ b1 x ++ b1 y : BitVec (30 + 1 + 1))
    bit w 1 = x ∧ bit w 0 = y := by
  constructor
  · rw [bit, getLsbD_append, if_neg (by decide), getLsbD_append, if_pos (by decide)]
    exact bit_b1 x
  · rw [bit, getLsbD_append, if_pos (by decide)]
    exact bit_b1 y
@[simp] theorem i4x_half (h : BitVec 2) : ((0#30 ++ h : BitVec (30 + 2)) : Word).extractLsb' 0 2 = h :=
  extractLsb'_append_eq_right
@[simp] theorem shflx_fields (c : BitVec 2) (n : BitVec 10) :
    let w : Word := (0#20 ++ c ++ n : BitVec (20 + 2 + 10))
    w.extractLsb' 10 2 = c ∧ w.extractLsb' 0 10 = n := by
  refine ⟨?_, extractLsb'_append_eq_right⟩
  rw [extractLsb'_append_eq_of_le (by decide)]
  exact extractLsb'_append_eq_right
@[simp] theorem tld_fields (off : BitVec 16) (cnt first : BitVec 7) :
    let w : Word := (off ++ 0#1 ++ cnt ++ 0#1 ++ first : BitVec (16 + 1 + 7 + 1 + 7))
    w.extractLsb' 0 7 = first ∧ w.extractLsb' 8 7 = cnt ∧ w.extractLsb' 16 16 = off := by
  refine ⟨extractLsb'_append_eq_right, ?_, ?_⟩
  · rw [extractLsb'_append_eq_of_le (by decide), extractLsb'_append_eq_of_le (by decide)]
    exact extractLsb'_append_eq_right
  · rw [extractLsb'_append_eq_of_le (by decide), extractLsb'_append_eq_of_le (by decide),
      extractLsb'_append_eq_of_le (by decide), extractLsb'_append_eq_of_le (by decide)]
    exact extractLsb'_eq_self
@[simp] theorem mma_klen (k : BitVec 9) : ((0#23 ++ k : BitVec (23 + 9)) : Word).extractLsb' 0 9 = k :=
  extractLsb'_append_eq_right
@[simp] theorem drain_fields (x : BitVec 24) (wide mem clr : BitVec 1) (red : BitVec 2) (fmt : BitVec 3) :
    let w : Word := (x ++ wide ++ mem ++ clr ++ red ++ fmt : BitVec (24 + 1 + 1 + 1 + 2 + 3))
    w.extractLsb' 0 3 = fmt ∧ w.extractLsb' 3 2 = red ∧ bit w 5 = bit clr 0 ∧ bit w 6 = bit mem 0 ∧ bit w 7 = bit wide 0 := by
  refine ⟨extractLsb'_append_eq_right, ?_, ?_, ?_, ?_⟩
  · rw [extractLsb'_append_eq_of_le (by decide)]
    exact extractLsb'_append_eq_right
  · rw [bit, getLsbD_append, if_neg (by decide), getLsbD_append, if_neg (by decide), getLsbD_append, if_pos (by decide)]
    rfl
  · rw [bit, getLsbD_append, if_neg (by decide), getLsbD_append, if_neg (by decide), getLsbD_append, if_neg (by decide),
      getLsbD_append, if_pos (by decide)]
    rfl
  · rw [bit, getLsbD_append, if_neg (by decide), getLsbD_append, if_neg (by decide), getLsbD_append, if_neg (by decide),
      getLsbD_append, if_neg (by decide), getLsbD_append, if_pos (by decide)]
    rfl
@[simp] theorem drainRegister_fields (clr : Bool) (fmt : BitVec 3) :
    let w : Word := (0#26 ++ b1 clr ++ 0#2 ++ fmt : BitVec (26 + 1 + 2 + 3))
    w.extractLsb' 0 3 = fmt ∧ w.extractLsb' 3 2 = 0 ∧ bit w 5 = clr ∧ bit w 6 = false := by
  refine ⟨extractLsb'_append_eq_right, ?_, ?_, ?_⟩
  · rw [extractLsb'_append_eq_of_le (by decide)]
    exact extractLsb'_append_eq_right
  · rw [bit, getLsbD_append, if_neg (by decide), getLsbD_append, if_neg (by decide), getLsbD_append, if_pos (by decide)]
    exact bit_b1 clr
  · rw [bit, getLsbD_append, if_neg (by decide), getLsbD_append, if_neg (by decide), getLsbD_append, if_neg (by decide)]
    exact getLsbD_zero
@[simp] theorem mcoop_fields (nt : BitVec 4) (mt : BitVec 3) (z : Bool) (k : BitVec 9) :
    let w : Word := (0#8 ++ nt ++ 0#1 ++ mt ++ 0#6 ++ b1 z ++ k : BitVec (8 + 4 + 1 + 3 + 6 + 1 + 9))
    w.extractLsb' 0 9 = k ∧ bit w 9 = z ∧ w.extractLsb' 16 3 = mt ∧ w.extractLsb' 20 4 = nt := by
  refine ⟨extractLsb'_append_eq_right, ?_, ?_, ?_⟩
  · rw [bit, getLsbD_append, if_neg (by decide), getLsbD_append, if_pos (by decide)]
    exact bit_b1 z
  · rw [extractLsb'_append_eq_of_le (by decide), extractLsb'_append_eq_of_le (by decide),
      extractLsb'_append_eq_of_le (by decide)]
    exact extractLsb'_append_eq_right
  · rw [extractLsb'_append_eq_of_le (by decide), extractLsb'_append_eq_of_le (by decide),
      extractLsb'_append_eq_of_le (by decide), extractLsb'_append_eq_of_le (by decide), extractLsb'_append_eq_of_le (by decide)]
    exact extractLsb'_append_eq_right
@[simp] theorem csr_address (x : BitVec 16) : ((0#16 ++ x : BitVec (16 + 16)) : Word).extractLsb' 0 16 = x :=
  extractLsb'_append_eq_right

/-! ### Descriptors and addresses -/

@[simp] theorem mdescOf_encode (m : MDesc) : mdescOf m.encode = some m := by
  have size : m.encode.extractLsb' 29 3 = m.size.code := by
    rw [MDesc.encode, extractLsb'_append_eq_of_le (by decide), extractLsb'_append_eq_of_le (by decide),
      extractLsb'_append_eq_of_le (by decide), extractLsb'_append_eq_of_le (by decide), extractLsb'_append_eq_of_le (by decide)]
    exact extractLsb'_append_eq_left
  have scope : m.encode.extractLsb' 26 3 = m.scope.code := by
    rw [MDesc.encode, extractLsb'_append_eq_of_le (by decide), extractLsb'_append_eq_of_le (by decide),
      extractLsb'_append_eq_of_le (by decide), extractLsb'_append_eq_of_le (by decide), extractLsb'_append_eq_of_le (by decide)]
    exact extractLsb'_append_eq_right
  have order : m.encode.extractLsb' 24 2 = m.order.code := by
    rw [MDesc.encode, extractLsb'_append_eq_of_le (by decide), extractLsb'_append_eq_of_le (by decide),
      extractLsb'_append_eq_of_le (by decide), extractLsb'_append_eq_of_le (by decide)]
    exact extractLsb'_append_eq_right
  have oper : m.encode.extractLsb' 20 4 = m.op := by
    rw [MDesc.encode, extractLsb'_append_eq_of_le (by decide), extractLsb'_append_eq_of_le (by decide),
      extractLsb'_append_eq_of_le (by decide)]
    exact extractLsb'_append_eq_right
  have hint : m.encode.extractLsb' 18 2 = m.hint := by
    rw [MDesc.encode, extractLsb'_append_eq_of_le (by decide), extractLsb'_append_eq_of_le (by decide)]
    exact extractLsb'_append_eq_right
  have off : m.encode.extractLsb' 0 16 = m.off := extractLsb'_append_eq_right
  simp [mdescOf, size, scope, order, oper, hint, off]

@[simp] theorem sreg_encodeA (x : MAddr) : sreg x.encodeA = x.base := sreg_selectors ..

@[simp] theorem maddrOf_encode (x : MAddr) : maddrOf x.encodeA x.encodeB = x := by
  obtain ⟨base, idx, sx⟩ := x
  cases idx <;> simp [maddrOf, MAddr.encodeA, MAddr.encodeB]

/-- The index register of a remote instruction is that after the peer, and its address reads back (R253). -/
theorem raddrOf_encode (x : MAddr) {peer : VReg} (h : remoteOk x peer = true) : raddrOf x.encodeA peer = x := by
  obtain ⟨base, idx, sx⟩ := x
  cases idx with
  | none => simp [raddrOf, MAddr.encodeA]
  | some j =>
    simp only [remoteOk, Bool.and_eq_true, beq_iff_eq] at h
    simp [raddrOf, MAddr.encodeA, h.2]

theorem remoteOk_of_and {x y : Bool} (h : (x && y) = true) : y = true := (Bool.and_eq_true_iff.1 h).2

@[simp] theorem src2Of_encode_arithD (w : Bool) (r : SReg) (x : Src2) : src2Of (bit (arithD w r x) 7) x.encode = x := by
  cases x <;> simp [src2Of, arithD, Src2.encode]
@[simp] theorem sreg_arithD (w : Bool) (r : SReg) (x : Src2) : sreg (arithD w r x) = r := sreg_selectors ..
@[simp] theorem bit6_arithD (w : Bool) (r : SReg) (x : Src2) : bit (arithD w r x) 6 = w := by simp [arithD]
@[simp] theorem sreg_arithA (u : Bool) (r : SReg) : sreg (arithA u r) = r := sreg_selectors ..
@[simp] theorem bit7_arithA (u : Bool) (r : SReg) : bit (arithA u r) 7 = u := by simp [arithA]

/-! ### The parsers -/

theorem parse_mkWord : parse (mkWord op d a b) lit =
    match parseA op d a b lit with
    | some i => some i
    | none =>
      match parseB op d a b lit with
      | some i => some i
      | none =>
        match parseM op d a b lit with
        | some i => some i
        | none => parseC op d a b lit := by
  simp only [parse, Laws.opOf_mkWord, dOf_mkWord, aOf_mkWord, bOf_mkWord] <;> rfl

theorem parse_of_parseA (h : parseA op d a b lit = some i) : parse (mkWord op d a b) lit = some i := by
  rw [parse_mkWord, h]

theorem parse_of_parseB (h : parseB op d a b lit = some i) (hA : parseA op d a b lit = none := by rfl) :
    parse (mkWord op d a b) lit = some i := by
  rw [parse_mkWord, hA, h]

theorem parse_of_parseM (h : parseM op d a b lit = some i) (hA : parseA op d a b lit = none := by rfl)
    (hB : parseB op d a b lit = none := by rfl) : parse (mkWord op d a b) lit = some i := by
  rw [parse_mkWord, hA, hB, h]

/-- The opcodes of format M. -/
def formatM (op : Byte) : Bool :=
  (decide (0x70 ≤ op.toNat) && decide (op.toNat ≤ 0x87)) || op.toNat == 0xA7 || op.toNat == 0xB1 || op.toNat == 0xB2

/-- No other opcode is of format M. -/
theorem parseM_eq_none (h : formatM op = false) : parseM op d a b lit = none := by
  rw [Option.eq_none_iff_forall_ne_some]
  intro i hi
  rw [parseM] at hi
  split at hi
  · cases hi
  · split at hi <;> simp_all [formatM]

theorem parse_of_parseC (h : parseC op d a b lit = some i) (hA : parseA op d a b lit = none := by rfl)
    (hB : parseB op d a b lit = none := by rfl)
    (hM : parseM op d a b lit = none := by exact parseM_eq_none rfl) : parse (mkWord op d a b) lit = some i := by
  rw [parse_mkWord, hA, hB, hM, h]

/-! ### Reading an instruction back -/

/-- The words of the instruction, where it is well-formed, decode to it, whatever follows a single word. -/
def DecodesBack (i : Instr) : Prop :=
  ∀ w, i.WellFormed → (encode i = [w] → ∀ lit, decode w lit = .ok i) ∧ (∀ lit, encode i = [w, lit] → decode w lit = .ok i)

/-- A word of an assigned opcode, no header, that parses to the well-formed instruction it encodes decodes to it. -/
theorem decode_of_parse {w : Word} (hh : isHeader w = false) (hu : unassigned (opOf w) = false)
    (hp : parse w lit = some i) (hw : i.WellFormed) (he : encode i = wordsAt w lit) : decode w lit = .ok i := by
  have checked : (i.wf && encode i == wordsAt w lit) = true := by rw [hw, he, Bool.true_and, beq_self_eq_true]
  rw [decode, if_neg (by simp [hh]), if_neg (by simp [hu]), hp]
  simp only [checked, if_true]

/-- An opcode that is assigned and leads an instruction of n words (R120, R130, R140). -/
def leads (n : Nat) (op : Byte) : Bool :=
  !isHeader (mkWord op 0 0 0) && !unassigned op && wordsOf (mkWord op 0 0 0) == n

theorem leads_word {n : Nat} (h : leads n op = true) {w : Word} (hw : opOf w = op) :
    isHeader w = false ∧ unassigned (opOf w) = false ∧ wordsOf w = n := by
  simp only [leads, Bool.and_eq_true, Bool.not_eq_true', beq_iff_eq] at h
  obtain ⟨⟨header, assigned⟩, words⟩ := h
  have same : opOf w = opOf (mkWord op 0 0 0) := hw.trans (Laws.opOf_mkWord ..).symm
  rw [Laws.isHeader_eq, wordsOf, same, ← Laws.isHeader_eq, ← wordsOf]
  exact ⟨header, by rw [Laws.opOf_mkWord]; exact assigned, words⟩

theorem DecodesBack.ofOne {w : Word} (he : encode i = [w]) (hl : leads 1 (opOf w) = true)
    (hp : i.WellFormed → ∀ lit, parse w lit = some i) : DecodesBack i := by
  obtain ⟨header, assigned, words⟩ := leads_word hl rfl
  intro w' hw
  rw [he]
  refine ⟨fun e lit => ?_, fun lit e => by simp at e⟩
  obtain rfl : w = w' := by simpa using e
  exact decode_of_parse header assigned (hp hw lit) hw (by rw [he, wordsAt, words]; rfl)

theorem DecodesBack.ofWord (he : encode i = encA op d a b) (hp : i.WellFormed → ∀ lit, parse (mkWord op d a b) lit = some i)
    (hl : leads 1 op = true := by decide) : DecodesBack i :=
  .ofOne he (by rwa [Laws.opOf_mkWord]) hp

theorem DecodesBack.ofWords (he : encode i = encL op d a b lit)
    (hp : i.WellFormed → parse (mkWord op d a b) lit = some i) (hl : leads 2 op = true := by decide) : DecodesBack i := by
  obtain ⟨header, assigned, words⟩ := leads_word hl (Laws.opOf_mkWord op d a b)
  intro w' hw
  rw [he]
  refine ⟨fun e => by simp [encL] at e, fun lit' e => ?_⟩
  obtain ⟨rfl, rfl⟩ : mkWord op d a b = w' ∧ lit = lit' := by simpa [encL] using e
  exact decode_of_parse header assigned (hp hw) hw (by rw [he, wordsAt, words]; rfl)

theorem DecodesBack.ofEvent (he : encode i = []) : DecodesBack i :=
  fun _ _ => by simp [he]


theorem DecodesBack.bra (off : BitVec 24) : DecodesBack (.bra off) := by
  refine .ofOne rfl (by rw [Laws.opOf_append]; decide) fun _ lit => ?_
  let w : Word := (0x01 : Byte) ++ off
  have parsed : parse w lit = some (.bra (dOf w ++ aOf w ++ bOf w)) := by rw [parse, Laws.opOf_append]; rfl
  rw [parsed, fields_append]

theorem DecodesBack.mode (m : BitVec 24) : DecodesBack (.mode m) := by
  refine .ofOne rfl (by rw [Laws.opOf_append]; decide) fun _ lit => ?_
  let w : Word := (0x6E : Byte) ++ m
  have parsed : parse w lit = some (.mode (dOf w ++ aOf w ++ bOf w)) := by rw [parse, Laws.opOf_append]; rfl
  rw [parsed, fields_append]

/-- An unassigned opcode is no header (R120, R140). -/
theorem unassigned_not_header : ∀ op : Byte, unassigned op = true → (op.extractLsb' 4 4 == 0xF) = false := by
  decide

theorem DecodesBack.unassignedOpcode (op : Byte) : DecodesBack (.unassignedOpcode op) := by
  intro w hw
  have he : encode (.unassignedOpcode op) = [mkWord op 0 0 0] := rfl
  rw [he]
  refine ⟨fun e lit => ?_, fun lit e => by simp at e⟩
  obtain rfl : mkWord op 0 0 0 = w := by simpa using e
  rw [decode, Laws.isHeader_eq, Laws.opOf_mkWord, unassigned_not_header op hw, if_neg Bool.false_ne_true,
    if_pos (show unassigned op = true from hw)]

/-- Each instruction by the parser of its opcode; an event has no words. -/
theorem decodesBack (i : Instr) : DecodesBack i := by
  cases i
  case bra off => exact .bra off
  case mode m => exact .mode m
  case unassignedOpcode op => exact .unassignedOpcode op
  case nop => exact .ofWord rfl fun _ _ => parse_of_parseA (congrArg some (by simp))
  case bsz a off => exact .ofWords rfl fun _ => parse_of_parseA (congrArg some (by simp))
  case bsnz a off => exact .ofWords rfl fun _ => parse_of_parseA (congrArg some (by simp))
  case brp neg p toff joff => exact .ofWords rfl fun _ => parse_of_parseA (congrArg some (by simp))
  case bany p off => exact .ofWords rfl fun _ => parse_of_parseA (congrArg some (by simp))
  case ball p off => exact .ofWords rfl fun _ => parse_of_parseA (congrArg some (by simp))
  case join => exact .ofWord rfl fun _ _ => parse_of_parseA (congrArg some (by simp))
  case jmpiVector a b joff => exact .ofWords rfl fun _ => parse_of_parseA (by simp [parseA])
  case jmpiUniform b => exact .ofWords rfl fun _ => parse_of_parseA (by simp [parseA])
  case call d off => exact .ofWords rfl fun _ => parse_of_parseA (congrArg some (by simp))
  case calli d a => exact .ofWord rfl fun _ _ => parse_of_parseA (congrArg some (by simp))
  case ret a => exact .ofWord rfl fun _ _ => parse_of_parseA (congrArg some (by simp))
  case exit => exact .ofWord rfl fun _ _ => parse_of_parseA (congrArg some (by simp))
  case macroWord m p0 p1 => exact .ofWord rfl fun _ _ => parse_of_parseA (congrArg some (by simp))
  case yield => exact .ofWord rfl fun _ _ => parse_of_parseA (congrArg some (by simp))
  case trap n => exact .ofWord rfl fun _ _ => parse_of_parseA (congrArg some (by simp))
  case sadd w u d a b => exact .ofWord rfl fun _ _ => parse_of_parseA (congrArg some (by simp))
  case ssub w u d a b => exact .ofWord rfl fun _ _ => parse_of_parseA (congrArg some (by simp))
  case smul w u d a b => exact .ofWord rfl fun _ _ => parse_of_parseA (congrArg some (by simp))
  case smulh w u d a b => exact .ofWord rfl fun _ _ => parse_of_parseA (congrArg some (by simp))
  case sdiv w u d a b => exact .ofWord rfl fun _ _ => parse_of_parseA (congrArg some (by simp))
  case srem w u d a b => exact .ofWord rfl fun _ _ => parse_of_parseA (congrArg some (by simp))
  case sand w u d a b => exact .ofWord rfl fun _ _ => parse_of_parseA (congrArg some (by simp))
  case sor w u d a b => exact .ofWord rfl fun _ _ => parse_of_parseA (congrArg some (by simp))
  case sxor w u d a b => exact .ofWord rfl fun _ _ => parse_of_parseA (congrArg some (by simp))
  case sshl w u d a b => exact .ofWord rfl fun _ _ => parse_of_parseA (congrArg some (by simp))
  case sshr w u d a b => exact .ofWord rfl fun _ _ => parse_of_parseA (congrArg some (by simp))
  case ssra w u d a b => exact .ofWord rfl fun _ _ => parse_of_parseA (congrArg some (by simp))
  case smin w u d a b => exact .ofWord rfl fun _ _ => parse_of_parseA (congrArg some (by simp))
  case smax w u d a b => exact .ofWord rfl fun _ _ => parse_of_parseA (congrArg some (by simp))
  case scmp c p u a b => exact .ofWord rfl fun _ _ => parse_of_parseA (by cases b <;> simp [parseA, src2Of, Src2.encode])
  case ssel d a b p all => exact .ofWords rfl fun _ => parse_of_parseA (congrArg some (by simp))
  case smov d a => exact .ofWord rfl fun _ _ => parse_of_parseA (congrArg some (by simp))
  case sli d md lit => exact .ofWords rfl fun _ => parse_of_parseA (by simp [parseA])
  case slea d a b k => exact .ofWord rfl fun _ _ => parse_of_parseA (congrArg some (by simp))
  case sbfe d a pos len sx => exact .ofWords rfl fun _ => parse_of_parseA (congrArg some (by simp))
  case sbfi d a pos len => exact .ofWords rfl fun _ => parse_of_parseA (congrArg some (by simp))
  case sbit op w d a => exact .ofWord rfl fun _ _ => parse_of_parseA (by simp [parseA])
  case sr d sel => exact .ofWord rfl fun _ _ => parse_of_parseA (by simp [parseA])
  case sw sel a => exact .ofWord rfl fun _ _ => parse_of_parseA (by simp [parseA])
  case add d a b => exact .ofWord rfl fun _ _ => parse_of_parseA (congrArg some (by simp))
  case sub d a b => exact .ofWord rfl fun _ _ => parse_of_parseA (congrArg some (by simp))
  case mul d a b => exact .ofWord rfl fun _ _ => parse_of_parseA (congrArg some (by simp))
  case mulh d a b => exact .ofWord rfl fun _ _ => parse_of_parseA (congrArg some (by simp))
  case mad d a b => exact .ofWord rfl fun _ _ => parse_of_parseA (congrArg some (by simp))
  case min d a b => exact .ofWord rfl fun _ _ => parse_of_parseA (congrArg some (by simp))
  case max d a b => exact .ofWord rfl fun _ _ => parse_of_parseA (congrArg some (by simp))
  case abs d a => exact .ofWord rfl fun _ _ => parse_of_parseA (congrArg some (by simp))
  case neg d a => exact .ofWord rfl fun _ _ => parse_of_parseA (congrArg some (by simp))
  case and d a b => exact .ofWord rfl fun _ _ => parse_of_parseA (congrArg some (by simp))
  case or d a b => exact .ofWord rfl fun _ _ => parse_of_parseA (congrArg some (by simp))
  case xor d a b => exact .ofWord rfl fun _ _ => parse_of_parseA (congrArg some (by simp))
  case not d a => exact .ofWord rfl fun _ _ => parse_of_parseA (congrArg some (by simp))
  case shl d a b => exact .ofWord rfl fun _ _ => parse_of_parseA (congrArg some (by simp))
  case shr d a b => exact .ofWord rfl fun _ _ => parse_of_parseA (congrArg some (by simp))
  case sra d a b => exact .ofWord rfl fun _ _ => parse_of_parseA (congrArg some (by simp))
  case rot d a b => exact .ofWord rfl fun _ _ => parse_of_parseA (congrArg some (by simp))
  case bfe d a pos len => exact .ofWords rfl fun _ => parse_of_parseA (congrArg some (by simp))
  case bfi d a pos len => exact .ofWords rfl fun _ => parse_of_parseA (congrArg some (by simp))
  case bcnt op d a => exact .ofWord rfl fun _ _ => parse_of_parseA (by simp [parseA])
  case cmp c p a b => exact .ofWord rfl fun _ _ => parse_of_parseA (by simp [parseA])
  case sel d a b p neg => exact .ofWords rfl fun _ => parse_of_parseA (congrArg some (by simp))
  case mov d a => exact .ofWord rfl fun _ _ => parse_of_parseA (congrArg some (by simp))
  case movs d hi a => exact .ofWord rfl fun _ _ => parse_of_parseA (congrArg some (by simp))
  case li d lit => exact .ofWords rfl fun _ => parse_of_parseB (congrArg some (by simp))
  case lid d => exact .ofWord rfl fun _ _ => parse_of_parseB (congrArg some (by simp))
  case fadd d a b => exact .ofWord rfl fun _ _ => parse_of_parseB (congrArg some (by simp))
  case fsub d a b => exact .ofWord rfl fun _ _ => parse_of_parseB (congrArg some (by simp))
  case fmul d a b => exact .ofWord rfl fun _ _ => parse_of_parseB (congrArg some (by simp))
  case ffma d a b => exact .ofWord rfl fun _ _ => parse_of_parseB (congrArg some (by simp))
  case fmin d a b => exact .ofWord rfl fun _ _ => parse_of_parseB (congrArg some (by simp))
  case fmax d a b => exact .ofWord rfl fun _ _ => parse_of_parseB (congrArg some (by simp))
  case fabs d a => exact .ofWord rfl fun _ _ => parse_of_parseB (congrArg some (by simp))
  case fneg d a => exact .ofWord rfl fun _ _ => parse_of_parseB (congrArg some (by simp))
  case fcmp c p a b => exact .ofWord rfl fun _ _ => parse_of_parseB (by simp [parseB])
  case frcp d a => exact .ofWord rfl fun _ _ => parse_of_parseB (congrArg some (by simp))
  case frsq d a => exact .ofWord rfl fun _ _ => parse_of_parseB (congrArg some (by simp))
  case fsqrt d a => exact .ofWord rfl fun _ _ => parse_of_parseB (congrArg some (by simp))
  case fdiv d a b => exact .ofWord rfl fun _ _ => parse_of_parseB (congrArg some (by simp))
  case fexp2 d a => exact .ofWord rfl fun _ _ => parse_of_parseB (congrArg some (by simp))
  case flog2 d a => exact .ofWord rfl fun _ _ => parse_of_parseB (congrArg some (by simp))
  case fsin d a => exact .ofWord rfl fun _ _ => parse_of_parseB (congrArg some (by simp))
  case fcos d a => exact .ofWord rfl fun _ _ => parse_of_parseB (congrArg some (by simp))
  case fclass d a => exact .ofWord rfl fun _ _ => parse_of_parseB (congrArg some (by simp))
  case fround d a => exact .ofWord rfl fun _ _ => parse_of_parseB (congrArg some (by simp))
  case cvtf d a dst src => exact .ofWord rfl fun _ _ => parse_of_parseB (by simp [parseB])
  case cvti d a dst src => exact .ofWord rfl fun _ _ => parse_of_parseB (by simp [parseB])
  case cvtq d a b f => exact .ofWords rfl fun _ => parse_of_parseB (congrArg some (by cases b <;> simp))
  case cvtd d a b f => exact .ofWords rfl fun _ => parse_of_parseB (congrArg some (by cases b <;> simp))
  case pk d a b => exact .ofWord rfl fun _ _ => parse_of_parseB (congrArg some (by simp))
  case upk d a h => exact .ofWord rfl fun _ _ => parse_of_parseB (congrArg some (by simp))
  case sp8x d a j => exact .ofWord rfl fun _ _ => parse_of_parseB (congrArg some (by simp))
  case i4x d a b h => exact .ofWords rfl fun _ => parse_of_parseB (congrArg some (by simp))
  case shfl d a b => exact .ofWord rfl fun _ _ => parse_of_parseB (congrArg some (by simp))
  case shflx d a n m => exact .ofWords rfl fun _ => parse_of_parseB (by simp [parseB])
  case bcast d a lane => exact .ofWord rfl fun _ _ => parse_of_parseB (by cases lane <;> simp [parseB])
  case vote d p op => exact .ofWord rfl fun _ _ => parse_of_parseB (by cases op <;> simp [parseB])
  case mcnt d p => exact .ofWord rfl fun _ _ => parse_of_parseB (congrArg some (by simp))
  case scan op d a => exact .ofWord rfl fun _ _ => parse_of_parseB (by simp [parseB])
  case red op d a => exact .ofWord rfl fun _ _ => parse_of_parseB (by simp [parseB])
  case rank d p => exact .ofWord rfl fun _ _ => parse_of_parseB (congrArg some (by simp))
  case compact d a p => exact .ofWord rfl fun _ _ => parse_of_parseB (congrArg some (by simp))
  case pand all d a b => exact .ofWord rfl fun _ _ => parse_of_parseB (congrArg some (by simp))
  case por all d a b => exact .ofWord rfl fun _ _ => parse_of_parseB (congrArg some (by simp))
  case pxor all d a b => exact .ofWord rfl fun _ _ => parse_of_parseB (congrArg some (by simp))
  case pnot all d a => exact .ofWord rfl fun _ _ => parse_of_parseB (congrArg some (by simp))
  case pmov all d a => exact .ofWord rfl fun _ _ => parse_of_parseB (congrArg some (by simp))
  case psetClr all d => exact .ofWord rfl fun _ _ => parse_of_parseB (by simp [parseB])
  case psetSet all d => exact .ofWord rfl fun _ _ => parse_of_parseB (by simp [parseB])
  case psetSc all d a k => exact .ofWord rfl fun _ _ => parse_of_parseB (by simp [parseB])
  case xmset neg p => exact .ofWord rfl fun _ _ => parse_of_parseB (congrArg some (by rw [← allD, bit3_allD, preg_allD]))
  case xmget d => exact .ofWord rfl fun _ _ => parse_of_parseB (congrArg some (by simp))
  case modes a => exact .ofWord rfl fun _ _ => parse_of_parseB (congrArg some (by simp))
  case lds d a m => exact .ofWords rfl fun _ => parse_of_parseM (by simp [parseM])
  case sts d a m => exact .ofWords rfl fun _ => parse_of_parseM (by simp [parseM])
  case ldsf d a m => exact .ofWords rfl fun _ => parse_of_parseM (by simp [parseM])
  case ldse d a m => exact .ofWords rfl fun _ => parse_of_parseM (by simp [parseM])
  case stsf d a m => exact .ofWords rfl fun _ => parse_of_parseM (by simp [parseM])
  case stsx d a m => exact .ofWords rfl fun _ => parse_of_parseM (by simp [parseM])
  case feclr a m => exact .ofWords rfl fun _ => parse_of_parseM (by simp [parseM])
  case feset a m => exact .ofWords rfl fun _ => parse_of_parseM (by simp [parseM])
  case feq d a m => exact .ofWords rfl fun _ => parse_of_parseM (by simp [parseM])
  case ldg d a m => exact .ofWords rfl fun _ => parse_of_parseM (by simp [parseM])
  case stg d a m => exact .ofWords rfl fun _ => parse_of_parseM (by simp [parseM])
  case pfg a m => exact .ofWords rfl fun _ => parse_of_parseM (by simp [parseM])
  case cwb a m => exact .ofWords rfl fun _ => parse_of_parseM (by simp [parseM])
  case cinv a m => exact .ofWords rfl fun _ => parse_of_parseM (by simp [parseM])
  case ldp d a m => exact .ofWords rfl fun _ => parse_of_parseM (by simp [parseM])
  case rld d a p m => exact .ofWords rfl fun h => parse_of_parseM (by simp [parseM, raddrOf_encode a (remoteOk_of_and h)])
  case rst d a p m => exact .ofWords rfl fun h => parse_of_parseM (by simp [parseM, raddrOf_encode a (remoteOk_of_and h)])
  case ratm d a p m => exact .ofWords rfl fun h => parse_of_parseM (by simp [parseM, raddrOf_encode a (remoteOk_of_and h)])
  case ratmr d a p m => exact .ofWords rfl fun h => parse_of_parseM (by simp [parseM, raddrOf_encode a (remoteOk_of_and h)])
  case atm d a m => exact .ofWords rfl fun _ => parse_of_parseM (by simp [parseM])
  case atmr d a m => exact .ofWords rfl fun _ => parse_of_parseM (by simp [parseM])
  case cas d a m => exact .ofWords rfl fun _ => parse_of_parseM (by simp [parseM])
  case cas128 d a m => exact .ofWords rfl fun _ => parse_of_parseM (by simp [parseM])
  case xchg d a m => exact .ofWords rfl fun _ => parse_of_parseM (by simp [parseM])
  case tclaim d => exact .ofWord rfl fun _ _ => parse_of_parseC (congrArg some (by simp))
  case trel a => exact .ofWord rfl fun _ _ => parse_of_parseC (congrArg some (by simp))
  case tld a b first cnt off => exact .ofWords rfl fun _ => parse_of_parseC (congrArg some (by simp))
  case tfmt a b => exact .ofWord rfl fun _ _ => parse_of_parseC (congrArg some (by simp))
  case mma a b k => exact .ofWords rfl fun _ => parse_of_parseC (congrArg some (by simp))
  case mmaz a b k => exact .ofWords rfl fun _ => parse_of_parseC (congrArg some (by simp))
  case mclr k => exact .ofWord rfl fun _ _ => parse_of_parseC (congrArg some (by simp))
  case mdrainRegister d a fmt clr => exact .ofWords rfl fun _ => parse_of_parseC (by simp [parseC])
  case mdrainMemory a fmt red clr wide => exact .ofWords rfl fun _ => parse_of_parseC (by simp [parseC])
  case mcoop a b k z mt nt => exact .ofWords rfl fun _ => parse_of_parseC (congrArg some (by simp))
  case tzero a => exact .ofWord rfl fun _ _ => parse_of_parseC (congrArg some (by simp))
  case ttrans d a two => exact .ofWord rfl fun _ _ => parse_of_parseC (congrArg some (by simp))
  case fence o sc => exact .ofWord rfl fun _ _ => parse_of_parseC (by simp [parseC])
  case flwait m => exact .ofWord rfl fun _ _ => parse_of_parseC (congrArg some (by simp))
  case twany d a => exact .ofWord rfl fun _ _ => parse_of_parseC (congrArg some (by simp))
  case twall a => exact .ofWord rfl fun _ _ => parse_of_parseC (congrArg some (by simp))
  case tffr d => exact .ofWord rfl fun _ _ => parse_of_parseC (congrArg some (by simp))
  case tclr t => exact .ofWord rfl fun _ _ => parse_of_parseC (congrArg some (by simp))
  case bar id sc => exact .ofWord rfl fun _ _ => parse_of_parseC (congrArg some (by simp))
  case marm d base m => exact .ofWords rfl fun _ => parse_of_parseM (by simp [parseM])
  case mwait d a => exact .ofWord rfl fun _ _ => parse_of_parseC (congrArg some (by simp))
  case grin => exact .ofWord rfl fun _ _ => parse_of_parseC (congrArg some (by simp))
  case grout => exact .ofWord rfl fun _ _ => parse_of_parseC (congrArg some (by simp))
  case grq d => exact .ofWord rfl fun _ _ => parse_of_parseC (congrArg some (by simp))
  case grwait d => exact .ofWord rfl fun _ _ => parse_of_parseC (congrArg some (by simp))
  case grfree d a => exact .ofWord rfl fun _ _ => parse_of_parseC (congrArg some (by simp))
  case grpop d => exact .ofWord rfl fun _ _ => parse_of_parseC (congrArg some (by simp))
  case step d => exact .ofWord rfl fun _ _ => parse_of_parseC (congrArg some (by simp))
  case stepq d => exact .ofWord rfl fun _ _ => parse_of_parseC (congrArg some (by simp))
  case ldacq d a m => exact .ofWords rfl fun _ => parse_of_parseM (by simp [parseM])
  case strel d a m => exact .ofWords rfl fun _ => parse_of_parseM (by simp [parseM])
  case cpy d a sp hold t => exact .ofWord rfl fun _ _ => parse_of_parseC (congrArg some (by simp))
  case cpyx d a hold t => exact .ofWord rfl fun _ _ => parse_of_parseC (congrArg some (by simp))
  case gath a t => exact .ofWord rfl fun _ _ => parse_of_parseC (congrArg some (by simp))
  case kvap a t => exact .ofWord rfl fun _ _ => parse_of_parseC (congrArg some (by simp))
  case kvseal a t => exact .ofWord rfl fun _ _ => parse_of_parseC (congrArg some (by simp))
  case kvcopy a t => exact .ofWord rfl fun _ _ => parse_of_parseC (congrArg some (by simp))
  case smpl d a t => exact .ofWord rfl fun _ _ => parse_of_parseC (congrArg some (by simp))
  case coll a t => exact .ofWord rfl fun _ _ => parse_of_parseC (congrArg some (by simp))
  case spawn len a b => exact .ofWord rfl fun _ _ => parse_of_parseC (congrArg some (by simp))
  case launch d a hold => exact .ofWord rfl fun _ _ => parse_of_parseC (congrArg some (by simp))
  case resolve d a b => exact .ofWord rfl fun _ _ => parse_of_parseC (congrArg some (by simp))
  case wqpop d a b => exact .ofWord rfl fun _ _ => parse_of_parseC (congrArg some (by simp))
  case wqpush d a b => exact .ofWord rfl fun _ _ => parse_of_parseC (congrArg some (by simp))
  case cntp d a b => exact .ofWord rfl fun _ _ => parse_of_parseC (congrArg some (by simp))
  case csrr d addr => exact .ofWords rfl fun _ => parse_of_parseC (congrArg some (by simp))
  case csrw op addr a => exact .ofWords rfl fun _ => parse_of_parseC (by simp [parseC])
  case tretRes a b => exact .ofWord rfl fun _ _ => parse_of_parseC (by simp [parseC])
  case tretVal a b => exact .ofWord rfl fun _ _ => parse_of_parseC (by simp [parseC])
  case tretKill a b => exact .ofWord rfl fun _ _ => parse_of_parseC (by simp [parseC])
  case ecall n => exact .ofWord rfl fun _ _ => parse_of_parseC (congrArg some (by simp))
  case tlbiPage d a => exact .ofWord rfl fun _ _ => parse_of_parseC (by simp [parseC])
  case tlbiCtx a => exact .ofWord rfl fun _ _ => parse_of_parseC (by simp [parseC])
  case tlbiPart => exact .ofWord rfl fun _ _ => parse_of_parseC (by simp [parseC])
  case frz a => exact .ofWord rfl fun _ _ => parse_of_parseC (by simp [parseC])
  case frzThaw a => exact .ofWord rfl fun _ _ => parse_of_parseC (by simp [parseC])
  case wfi d a => exact .ofWord rfl fun _ _ => parse_of_parseC (congrArg some (by simp))
  case sfence => exact .ofWord rfl fun _ _ => parse_of_parseC (congrArg some (by simp))
  all_goals exact .ofEvent rfl

/-- Settles O1: each field reads back from the words of its instruction. -/
theorem decodeOfEncode : Obligations.DecodeOfEncode := fun i w hw => decodesBack i w hw

/-- Settles O2: the decoder answers only what it has found well-formed and encoded by these words. -/
theorem decodeSound : Obligations.DecodeSound := by
  intro w lit i h
  cases hh : isHeader w with
  | true => rw [decode, if_pos hh] at h; cases h
  | false =>
    rw [decode, hh, if_neg Bool.false_ne_true] at h
    split at h
    next hu =>
      cases h
      exact ⟨hu, rfl, by rw [if_pos hu]⟩
    next hu =>
      split at h
      next => cases h
      next j _ =>
        split at h
        next checked =>
          cases h
          rw [Bool.and_eq_true, beq_iff_eq] at checked
          exact ⟨checked.1, rfl, by rw [if_neg hu]; exact checked.2⟩
        next => cases h

/-- Settles O3: each word of the table is decoded. -/
theorem decodeWords : Obligations.DecodeWords := by
  unfold Obligations.DecodeWords
  decide

end Sys2Proof
end

section
/-! SUPPORT. Little-endian values in memory (R5): the bytes of a value, and what a write of them leaves to read. -/

namespace Sys2Proof.Machine

variable {s : State} {k n x : Nat} {bs : List Byte}

@[simp] theorem leBytes_length (n x : Nat) : (leBytes n x).length = n := by
  induction n generalizing x with
  | zero => rfl
  | succ n ih => rw [leBytes, List.length_cons, ih]

/-- The low bytes of a value stand for the value modulo their number of bits. -/
theorem leNat_leBytes (n x : Nat) : leNat (leBytes n x) = x % 2 ^ (8 * n) := by
  induction n generalizing x with
  | zero => rw [Nat.mul_zero, pow_zero, Nat.mod_one]; rfl
  | succ n ih =>
    have split : x % 2 ^ (8 * (n + 1)) = x % 256 + 256 * (x / 256 % 2 ^ (8 * n)) := by
      rw [Nat.mul_succ, Nat.pow_add, Nat.mul_comm (2 ^ (8 * n)), Nat.mod_mul]
    rw [leBytes, leNat, ih, BitVec.toNat_ofNat, split]

@[simp] theorem memBytes_length (s : State) (k n : Nat) : (s.memBytes k n).length = n := by
  rw [State.memBytes, List.length_map, List.length_range]

/-- A range lies in device memory or in host memory as its last key does, where its first does. -/
theorem isHostKey_of_mem_range {j : Nat} (h : isHostKey (k + n - 1) = isHostKey k) (hj : k ≤ j) (hn : j < k + n) :
    isHostKey j = isHostKey k := by
  have low : isHostKey k = true → isHostKey j = true := by simp only [isHostKey, decide_eq_true_eq]; omega
  have high : isHostKey j = true → isHostKey (k + n - 1) = true := by simp only [isHostKey, decide_eq_true_eq]; omega
  rw [h] at high
  exact Bool.eq_iff_iff.2 ⟨high, low⟩

/-- Bytes written read back, where all of them lie in device memory or all in host memory. -/
theorem memBytes_putBytes_same (h : isHostKey (k + bs.length - 1) = isHostKey k) :
    (s.putBytes k bs).memBytes k bs.length = bs := by
  refine List.ext_getElem (memBytes_length ..) fun i hi _ => ?_
  rw [memBytes_length] at hi
  have host := isHostKey_of_mem_range h (j := k + i) (by omega) (by omega)
  have read := State.memByte_putBytes s k (k + i) bs fun e => host ▸ e
  rw [dif_pos ⟨Nat.le_add_right k i, by omega⟩] at read
  simpa [State.memBytes] using read

theorem memNat_putBytes_same (h : isHostKey (k + n - 1) = isHostKey k) :
    (s.putBytes k (leBytes n x)).memNat k n = x % 2 ^ (8 * n) := by
  have read := memBytes_putBytes_same (s := s) (k := k) (bs := leBytes n x) (by rwa [leBytes_length])
  rw [leBytes_length] at read
  rw [State.memNat, read, leNat_leBytes]

/-- Settles O6: the bytes read back are those written, and no other byte is touched. -/
theorem littleEndianReadAfterWrite : Obligations.LittleEndianReadAfterWrite := by
  intro s k n x
  refine ⟨memNat_putBytes_same, fun hn => ?_, fun a ha => ?_⟩
  · obtain ⟨m, rfl⟩ := Nat.exists_eq_succ_of_ne_zero hn.ne'
    have read := State.memByte_putBytes s k k (leBytes (m + 1) x) id
    rw [dif_pos ⟨le_rfl, by rw [leBytes_length]; omega⟩] at read
    simpa [leBytes] using read
  · exact State.memByte_putBytes_outside s k a _ (by rwa [leBytes_length])

end Sys2Proof.Machine
end

section
/-! SUPPORT. The register files of a team (R12, R13). -/

namespace Sys2Proof.Machine

/-- Settles O7: `s0` and the masks' width, and a write beside the others. -/
theorem registerFiles : Obligations.RegisterFiles := by
  intro t d q v e p m
  refine ⟨Team.sget_zero t, ?zero, fun hd => ?same, fun hq => ?other, fun l hw hl => ?above, fun l hw hl => ?below,
    fun hp => ?mask⟩
  case zero => rw [Team.sget_sset, if_neg fun h => h.2 rfl]
  case same => rw [Team.sget_sset, if_pos ⟨rfl, hd⟩]
  case other => rw [Team.sget_sset, if_neg fun h => hq h.1]
  case above =>
    rw [Team.pget, BitVec.getLsbD_and, Team.getLsbD_allLanes, decide_eq_false (p := l < t.width) (by omega), Bool.and_false,
      Bool.and_false]
  case below =>
    rw [Team.pget_pset, if_pos rfl, BitVec.getLsbD_and, Team.getLsbD_allLanes, decide_eq_true hl,
      decide_eq_true hw, Bool.and_true, Bool.and_true]
  case mask => rw [Team.pget_pset, if_neg hp]

/-- Settles O4: the fields of the reset state, and the reset value of every register of the control space. -/
theorem resetState : Obligations.ResetState := by
  refine ⟨rfl, rfl, fun d => ?_, fun _ _ => rfl, fun h => ?_, ?_, rfl, fun _ => rfl, fun _ => ⟨rfl, rfl, rfl, rfl⟩, fun _ => rfl,
    rfl, rfl⟩
  · cases d <;> exact ⟨rfl, rfl, rfl, rfl, rfl⟩
  · have none : State.reset.clpart h = 7 := rfl
    show BitVec.ofNat 64 (State.reset.clpart h) = 7
    rw [none]
    rfl
  · rfl

end Sys2Proof.Machine
end

section
/-! SUPPORT. The scalar instructions beside the mould (R176 to R181) and the special registers (R182, R183, R137). -/

namespace Sys2Proof

open Machine

variable {s t u : State} {r : PathRef}

/-- t differs from s at most in the path r and in the registers of its team. -/
structure TeamLocal (s t : State) (r : PathRef) : Prop where
  team : TeamFrame s t r
  only : OnlyTeams s t

theorem TeamLocal.trans (h : TeamLocal s t r) (h' : TeamLocal t u r) : TeamLocal s u r where
  team := h.team.trans h'.team
  only := h.only.trans h'.only

theorem LocalTo.toTeamLocal (h : LocalTo s t r) : TeamLocal s t r := ⟨h.team, h.only⟩

end Sys2Proof

namespace Sys2Proof.Machine

variable {s t : State} {r : PathRef} {i : Instr}

/-! ### Writes to a lane-mask register -/

theorem teamLocal_pset (s : State) (r : PathRef) (e : PReg) (m : Mask) : TeamLocal s (s.pset r e m) r where
  team := {
    others := fun k hk => by rw [State.pset, State.team_modTeam, if_neg hk]
    path := fun b _ => by rw [State.pset, State.team_modTeam, if_pos rfl]; rfl
    fixed := by rw [State.pset, State.team_modTeam, if_pos rfl]; rfl
    held := by rw [State.pset, State.team_modTeam, if_pos rfl]; rfl }
  only := State.pset_only ..

theorem State.sget_pset (s : State) (r : PathRef) (e : PReg) (m : Mask) (q : SReg) : (s.pset r e m).sget r q = s.sget r q := by
  rw [State.sget, State.pset, State.team_modTeam, if_pos rfl]; rfl

theorem State.vget_pset (s : State) (r : PathRef) (e : PReg) (m : Mask) (q : VReg) (l : Nat) :
    (s.pset r e m).vget r q l = s.vget r q l := by
  rw [State.vget, State.pset, State.team_modTeam, if_pos rfl]; rfl

theorem State.pget_pset (s : State) (r : PathRef) (e : PReg) (m : Mask) (q : PReg) :
    (s.pset r e m).pget r q = if q = e then m &&& (s.team r.tok).allLanes else s.pget r q := by
  rw [State.pget, State.pset, State.team_modTeam, if_pos rfl, Team.pget_pset]; rfl

theorem State.path_pset (s : State) (r : PathRef) (e : PReg) (m : Mask) : (s.pset r e m).path r = s.path r := by
  rw [State.path, State.pset, State.team_modTeam, if_pos rfl]; rfl

/-- An instruction that writes one lane-mask register and goes on. -/
theorem writesP_advance {d : PReg} {m : Mask} {n : Nat} (e : exec i s = .next ((s.pset r d m).advance r n)) :
    WritesP i s r d m n := by
  have hl := (teamLocal_pset s r d m).trans (localTo_modPath (s.pset r d m) r fun p => p.advance n).toTeamLocal
  refine ⟨_, e, fun q => ?_, ?_, fun q l => ?_, fun q => ?_, hl.team, hl.only, hl.only.sameMemory⟩
  · rw [State.pget_advance, State.pget_pset]
  · rw [State.path_advance, if_pos rfl, State.path_pset]
  · rw [State.vget_advance, State.vget_pset]
  · rw [State.sget_advance, State.sget_pset]

/-! ### Bit fields (R180, R191) -/

theorem ofNat_div_two_pow {n : Nat} (x : BitVec n) (k : Nat) {w : Nat} :
    BitVec.ofNat w (x.toNat / 2 ^ k) = (x >>> k).setWidth w := by
  rw [← Nat.shiftRight_eq_div_pow, ← BitVec.toNat_ushiftRight, BitVec.ofNat_toNat]

/-- A field cut out of a word, as an n-bit word. -/
theorem ofNat_field {n : Nat} (x : BitVec n) (pos len : Nat) :
    BitVec.ofNat len (x.toNat / 2 ^ pos % 2 ^ len) = (x >>> pos).setWidth len := by
  rw [← ofNat_div_two_pow]
  exact BitVec.eq_of_toNat_eq (by simp)

theorem ofInt_fieldVal_signed {n : Nat} (x : BitVec n) (pos len w : Nat) :
    BitVec.ofInt w ((IFmt.mk len true).val (x.toNat / 2 ^ pos % 2 ^ len)) = ((x >>> pos).setWidth len).signExtend w := by
  rw [IFmt.val_signed, ofNat_field]
  rfl

theorem ofInt_fieldVal_unsigned {n : Nat} (x : BitVec n) (pos len w : Nat) :
    BitVec.ofInt w ((IFmt.mk len false).val (x.toNat / 2 ^ pos % 2 ^ len)) = ((x >>> pos).setWidth len).setWidth w := by
  rw [IFmt.val_unsigned, ofNat_field, BitVec.ofInt_natCast, BitVec.ofNat_toNat]

/-- The mask of len bits at pos, as bit fields use it. -/
theorem ofNat_fieldMask (n pos len : Nat) :
    BitVec.ofNat n ((2 ^ len - 1) * 2 ^ pos % 2 ^ n) = BitVec.ofNat n (2 ^ len - 1) <<< pos := by
  refine BitVec.eq_of_toNat_eq ?_
  rw [BitVec.toNat_ofNat, Nat.mod_mod, BitVec.toNat_shiftLeft, BitVec.toNat_ofNat, Nat.shiftLeft_eq, Nat.mod_mul_mod]

/-- The bits that a mask below 2^n leaves. -/
theorem ofNat_compl (n m : Nat) (hm : m < 2 ^ n) : BitVec.ofNat n (2 ^ n - 1 - m) = ~~~ BitVec.ofNat n m := by
  refine BitVec.eq_of_toNat_eq ?_
  rw [BitVec.toNat_not, BitVec.toNat_ofNat, BitVec.toNat_ofNat, Nat.mod_eq_of_lt hm, Nat.mod_eq_of_lt (by omega)]

theorem ofNat_insertBits {n : Nat} (pos len : Nat) (x y : BitVec n) :
    let m := BitVec.ofNat n (2 ^ len - 1) <<< pos
    BitVec.ofNat n (insertBits n pos len y.toNat x.toNat) = (y &&& ~~~ m) ||| ((x <<< pos) &&& m) := by
  have shifted : BitVec.ofNat n (x.toNat * 2 ^ pos) = x <<< pos := by
    refine BitVec.eq_of_toNat_eq ?_
    rw [BitVec.toNat_shiftLeft, BitVec.toNat_ofNat, Nat.shiftLeft_eq]
  dsimp only
  rw [insertBits, BitVec.ofNat_or, BitVec.ofNat_and, BitVec.ofNat_and, ofNat_compl n _ (Nat.mod_lt _ (Nat.two_pow_pos n)),
    ofNat_fieldMask, shifted, BitVec.ofNat_toNat, BitVec.setWidth_eq]

/-- R179: the scale of `slea`. -/
theorem shiftLeft_leaShift (x : DWord) (k : BitVec 2) :
    x <<< leaShift k = x * BitVec.ofNat 64 (if k = 0 then 1 else 2 * 2 ^ k.toNat) := by
  refine BitVec.eq_of_toNat_eq ?_
  rw [BitVec.toNat_shiftLeft, BitVec.toNat_mul, BitVec.toNat_ofNat, Nat.shiftLeft_eq, leaShift, Nat.mul_mod_mod]
  split
  next => rfl
  next => rw [Nat.pow_succ']

/-! ### The instructions -/

/-- R176: a comparison, by the integers its operands stand for. -/
theorem exec_scmp (h : Issuing s r) (c : Cond) (p : PReg) (u : Bool) (a : SReg) (y : Src2) :
    exec (.scmp c p u a y) s = .next ((s.pset r p (if condHolds c (some (cmpInt (mouldVal 64 u (s.sget r a))
      (mouldVal 64 u (mouldSrc s r u y)))) then ~~~ (0 : Mask) else 0)).advance r 1) := by
  refine (issued_next h _).trans ?_
  simp only [scalarVal_eq_mouldVal, State.src2_eq_mouldSrc]

theorem scalarRest : Rules.ScalarRest := by
  intro s r d a b p h
  refine ⟨fun c u y _ => writesP_advance (exec_scmp h c p u a y), fun all => writesS_advance (issued_next h _),
    writesS_advance (issued_next h _), fun lit => ⟨writesS_advance (issued_next h _), writesS_advance (issued_next h _),
      writesS_advance (issued_next h _)⟩, fun k => ?slea, fun pos len _ _ => ⟨?bfeU, ?bfeS, ?bfi⟩,
    fun op w => writesS_advance (issued_next h _)⟩
  case slea =>
    rw [← shiftLeft_leaShift]
    exact writesS_advance (issued_next h _)
  case bfeU =>
    rw [← ofInt_fieldVal_unsigned]
    exact writesS_advance (issued_next h _)
  case bfeS =>
    rw [← ofInt_fieldVal_signed]
    exact writesS_advance (issued_next h _)
  case bfi =>
    dsimp only
    rw [← ofNat_insertBits]
    exact writesS_advance (issued_next h _)

/-! ### Special registers and the mode (R137, R182, R183) -/

theorem moves_modPath_advance {f : Path → Path} {n : Nat} (e : exec i s = .next ((s.modPath r f).advance r n)) :
    Moves i s r ((f (s.path r)).advance n) := by
  have hl := (localTo_modPath s r f).trans (localTo_modPath (s.modPath r f) r fun p => p.advance n)
  refine moves_of_localTo e hl (fun q => ?_) ?_
  · rw [State.sget_advance, State.sget_modPath]
  · rw [State.path_advance, if_pos rfl, State.path_modPath_same]

theorem Path.advance_status (p : Path) (n : Nat) (x : BitVec 7) :
    { p with status := x }.advance n = { p.advance n with status := x } := by
  obtain ⟨⟩ := p
  unfold Path.advance
  split <;> simp_all

theorem Path.advance_md (p : Path) (n : Nat) (x : BitVec 24) :
    { p with md := x }.advance n = { p.advance n with md := x } := by
  obtain ⟨⟩ := p
  unfold Path.advance
  split <;> simp_all

theorem State.writeMd_legal {x : DWord} (hx : x.toNat < 2 ^ 24) (hl : mdLegal (x.setWidth 24) = true) :
    s.writeMd r x = (s.modPath r fun p => { p with md := x.setWidth 24 }).advance r 1 := by
  have high : x.extractLsb' 24 40 = 0 := by
    refine BitVec.eq_of_toNat_eq ?_
    rw [BitVec.extractLsb'_toNat, Nat.shiftRight_eq_div_pow, Nat.div_eq_of_lt hx]
    rfl
  rw [State.writeMd, ← BitVec.setWidth_eq_extractLsb' (by decide), hl, high]
  rfl

theorem moves_writeMd {x : DWord} (e : exec i s = .next (s.writeMd r x)) (hx : x.toNat < 2 ^ 24)
    (hl : mdLegal (x.setWidth 24) = true) : Moves i s r { (s.path r).advance 1 with md := x.setWidth 24 } := by
  rw [State.writeMd_legal hx hl] at e
  rw [← Path.advance_md]
  exact moves_modPath_advance e

theorem exec_sw_status (h : Issuing s r) (a : SReg) : exec (.sw .status a) s =
    .next ((s.modPath r fun p => { p with status := p.status &&& ~~~ ((s.sget r a).extractLsb' 0 7) }).advance r 1) :=
  (issued_next h _).trans (by rw [if_pos rfl])

theorem exec_sw_mode (h : Issuing s r) (a : SReg) : exec (.sw .mode a) s = .next (s.writeMd r (s.sget r a)) :=
  (issued_next h _).trans (by rw [if_neg (by decide), if_pos rfl])

theorem specialRegisters : Rules.SpecialRegisters := by
  intro s r d a sel m h
  have low : (m.setWidth 64).setWidth 24 = m := by simp
  refine ⟨writesS_advance (issued_next h _), ?status, fun hx hl => ⟨moves_writeMd (exec_sw_mode h a) hx hl,
    moves_writeMd (issued_next h _) hx hl⟩, fun hl => ?mode, fun hl => ?reserved⟩
  case status =>
    rw [← Path.advance_status, BitVec.setWidth_eq_extractLsb' (by decide)]
    exact moves_modPath_advance (exec_sw_status h a)
  case mode =>
    have moved := moves_writeMd (i := .mode m) (issued_next h _)
      (by rw [BitVec.toNat_setWidth_of_le (by decide)]; exact m.isLt) (by rwa [low])
    rwa [low] at moved
  case reserved =>
    refine (issued_next h _).trans ?_
    rw [State.writeMd, ← BitVec.setWidth_eq_extractLsb' (by decide), low, hl, Bool.and_false, State.legalIf_false]

/-- Settles O13: each instruction by its value, and the special registers. -/
theorem scalarAndSpecial : Obligations.ScalarAndSpecial := ⟨scalarRest, specialRegisters⟩

end Sys2Proof.Machine
end

section
/-! SUPPORT. What an instruction of the vector unit writes (R13, R17, R185 to R187): register writes of some lanes, all of
one operand, and the STATUS bits of the active lanes. -/

namespace Sys2Proof.Machine

variable {s t : State} {r : PathRef} {i : Instr} {ty : ElemType} {d : VReg} {n : Nat}

/-! ### Lists of writes to vector registers -/

/-- The write is one of the vector register q in lane l. -/
def RegWrite.hits (w : RegWrite) (q : VReg) (l : Nat) : Prop :=
  match w with
  | .v reg lane _ => BitVec.ofNat 8 reg = q ∧ lane = l
  | .s .. => False

/-- The write gives a vector register of a lane below 1,024 the value that F has there. -/
def RegWrite.gives (F : VReg → Nat → Word) (w : RegWrite) : Prop :=
  match w with
  | .v reg lane x => lane < 1024 ∧ x = F (BitVec.ofNat 8 reg) lane
  | .s .. => False

theorem Team.vget_write_v {F : VReg → Nat → Word} {w : RegWrite} (hw : w.gives F) (tm : Team) (q : VReg) {l : Nat}
    (hl : l < 1024) : (w.hits q l → (tm.write w).vget q l = F q l) ∧ (¬ w.hits q l → (tm.write w).vget q l = tm.vget q l) := by
  cases w with
  | v reg lane x =>
    obtain ⟨hlane, rfl⟩ := hw
    have read := Team.vget_vset tm (BitVec.ofNat 8 reg) q lane l (F (BitVec.ofNat 8 reg) lane) hlane hl
    refine ⟨?_, fun miss => read.trans (if_neg fun ⟨hq, hl⟩ => miss ⟨hq.symm, hl.symm⟩)⟩
    rintro ⟨rfl, rfl⟩
    exact read.trans (if_pos ⟨rfl, rfl⟩)
  | s reg x => exact hw.elim

/-- A register read after writes that all give the values of F: F's where one of them hits it, else as before. -/
theorem Team.vget_foldl_write {F : VReg → Nat → Word} (q : VReg) {l : Nat} (hl : l < 1024) (ws : List RegWrite) (tm : Team)
    (hF : ∀ w ∈ ws, w.gives F) :
    ((∃ w ∈ ws, w.hits q l) → (ws.foldl Team.write tm).vget q l = F q l) ∧
    ((∀ w ∈ ws, ¬ w.hits q l) → (ws.foldl Team.write tm).vget q l = tm.vget q l) := by
  induction ws generalizing tm with
  | nil => simp
  | cons w ws ih =>
    obtain ⟨hit, miss⟩ := ih (tm.write w) fun v hv => hF v (List.mem_cons_of_mem _ hv)
    obtain ⟨hit', miss'⟩ := Team.vget_write_v (hF w (List.mem_cons_self ..)) tm q hl
    rw [List.foldl_cons]
    constructor
    · rintro ⟨v, hv, hq⟩
      by_cases later : ∃ v ∈ ws, v.hits q l
      · exact hit later
      · rw [miss fun v hv hq => later ⟨v, hv, hq⟩]
        rcases List.mem_cons.1 hv with rfl | hv
        · exact hit' hq
        · exact absurd ⟨v, hv, hq⟩ later
    · intro none
      rw [miss fun v hv => none v (List.mem_cons_of_mem _ hv), miss' (none w (List.mem_cons_self ..))]

theorem Team.sget_foldl_write {F : VReg → Nat → Word} (q : SReg) (ws : List RegWrite) (tm : Team)
    (hF : ∀ w ∈ ws, w.gives F) : (ws.foldl Team.write tm).sget q = tm.sget q := by
  induction ws generalizing tm with
  | nil => rfl
  | cons w ws ih =>
    rw [List.foldl_cons, ih _ fun v hv => hF v (List.mem_cons_of_mem _ hv)]
    cases w with
    | v reg lane x => rfl
    | s reg x => exact (hF _ (List.mem_cons_self ..)).elim

/-! ### The state after them -/

theorem teamLocal_regWrites (s : State) (r : PathRef) (ws : List RegWrite) : TeamLocal s (s.regWrites r.tok ws) r where
  team := {
    others := fun k hk => by rw [State.team_regWrites, if_neg hk]
    path := fun b _ => by rw [State.team_regWrites, if_pos rfl, Team.writes_only]; rfl
    fixed := by rw [State.team_regWrites, if_pos rfl, Team.writes_only]
    held := by rw [State.team_regWrites, if_pos rfl, Team.writes_only] }
  only := State.regWrites_only ..

theorem State.path_regWrites (s : State) (r : PathRef) (ws : List RegWrite) : (s.regWrites r.tok ws).path r = s.path r := by
  rw [State.path, State.team_regWrites, if_pos rfl, Team.writes_only]; rfl

theorem State.pget_regWrites (s : State) (r : PathRef) (ws : List RegWrite) (q : PReg) :
    (s.regWrites r.tok ws).pget r q = s.pget r q := by
  rw [State.pget, State.team_regWrites, if_pos rfl, Team.writes_only]; rfl

theorem State.team_regWrites_same (s : State) (r : PathRef) (ws : List RegWrite) :
    (s.regWrites r.tok ws).team r.tok = ws.foldl Team.write (s.team r.tok) := by
  rw [State.team_regWrites, if_pos rfl]

/-- Setting STATUS bits and going on. -/
theorem State.path_addStatus_advance (s : State) (r : PathRef) (st : BitVec 7) (n : Nat) :
    ((s.addStatus r st).advance r n).path r =
      { (s.path r).advance n with status := (s.path r).status ||| st } := by
  rw [State.path_advance, if_pos rfl, State.addStatus, State.path_modPath_same, Path.advance_status]

theorem localTo_addStatus_advance (s : State) (r : PathRef) (st : BitVec 7) (n : Nat) :
    LocalTo s ((s.addStatus r st).advance r n) r :=
  (localTo_modPath s r _).trans (localTo_modPath _ r _)

theorem State.sget_addStatus_advance (s : State) (r : PathRef) (st : BitVec 7) (n : Nat) (q : SReg) :
    ((s.addStatus r st).advance r n).sget r q = s.sget r q := by
  rw [State.sget_advance, State.addStatus, State.sget_modPath]

/-- What register writes of vector registers leave of a state in which the path is then p: each register hit has the
value of F, and nothing else beside the path's own record changes. -/
structure VWritten (s u : State) (r : PathRef) (F : VReg → Nat → Word) (ws : List RegWrite) (p : Path) : Prop where
  hit     : ∀ q l, l < 1024 → (∃ w ∈ ws, w.hits q l) → u.vget r q l = F q l
  miss    : ∀ q l, l < 1024 → (∀ w ∈ ws, ¬ w.hits q l) → u.vget r q l = s.vget r q l
  path    : u.path r = p
  uniform : SameS s u r
  masks   : SameP s u r
  frame   : TeamLocal s u r

theorem vWritten_of_localTo {u : State} {F : VReg → Nat → Word} {ws : List RegWrite} {p : Path} (hF : ∀ w ∈ ws, w.gives F)
    (tail : LocalTo (s.regWrites r.tok ws) u r) (hs : SameS (s.regWrites r.tok ws) u r) (hp : u.path r = p) :
    VWritten s u r F ws p := by
  have read : ∀ q l, (s.regWrites r.tok ws).vget r q l = (ws.foldl Team.write (s.team r.tok)).vget q l := fun q l => by
    rw [State.vget, State.team_regWrites_same]
  refine ⟨fun q l hl hq => ?_, fun q l hl hq => ?_, hp, fun q => ?_, fun q => ?_,
    (teamLocal_regWrites s r ws).trans tail.toTeamLocal⟩
  · rw [tail.vectors, read]
    exact (Team.vget_foldl_write q hl ws _ hF).1 hq
  · rw [tail.vectors, read]
    exact (Team.vget_foldl_write q hl ws _ hF).2 hq
  · rw [hs, State.sget, State.team_regWrites_same, Team.sget_foldl_write q ws _ hF]; rfl
  · rw [tail.masks, State.pget_regWrites]

theorem vWritten_addStatus {F : VReg → Nat → Word} {ws : List RegWrite} (hF : ∀ w ∈ ws, w.gives F) (st : BitVec 7) (n : Nat) :
    VWritten s (((s.regWrites r.tok ws).addStatus r st).advance r n) r F ws
      { (s.path r).advance n with status := (s.path r).status ||| st } :=
  vWritten_of_localTo hF (localTo_addStatus_advance _ r st n) (State.sget_addStatus_advance _ r st n)
    (by rw [State.path_addStatus_advance, State.path_regWrites])

theorem vWritten_advance {F : VReg → Nat → Word} {ws : List RegWrite} (hF : ∀ w ∈ ws, w.gives F) (n : Nat) :
    VWritten s ((s.regWrites r.tok ws).advance r n) r F ws ((s.path r).advance n) :=
  vWritten_of_localTo hF (localTo_modPath _ r _) (fun q => State.sget_advance ..)
    (by rw [State.path_advance, if_pos rfl, State.path_regWrites])

/-! ### Operands of a type -/

/-- The word that the operand of value x writes to the register q of its one or two. -/
def operandWord (d : VReg) (x : Nat) (q : VReg) : Word := BitVec.ofNat 32 (if q = d then x else x / 2 ^ 32)

theorem ofNat_succ_toNat (d : VReg) : BitVec.ofNat 8 (d.toNat + 1) = d + 1 :=
  BitVec.eq_of_toNat_eq (by simp)

theorem succ_ne_self (d : VReg) : d + 1 ≠ d := by
  revert d; decide

/-- The writes of one operand in a lane: one register or two (R185). -/
theorem mem_eWrites {l x : Nat} {w : RegWrite} : w ∈ eWrites ty d l x ↔
    w = .v d.toNat l (BitVec.ofNat 32 x) ∨ (ty.pair = true ∧ w = .v (d.toNat + 1) l (BitVec.ofNat 32 (x / 2 ^ 32))) := by
  cases hp : ty.pair <;> simp [eWrites, hp]

theorem eWrites_gives {l x : Nat} {F : VReg → Nat → Word} (hl : l < 1024) (hF : ∀ q, F q l = operandWord d x q) :
    ∀ w ∈ eWrites ty d l x, w.gives F := by
  intro w hw
  rcases mem_eWrites.1 hw with rfl | ⟨_, rfl⟩
  · exact ⟨hl, by rw [BitVec.ofNat_toNat, BitVec.setWidth_eq, hF, operandWord, if_pos rfl]⟩
  · exact ⟨hl, by rw [ofNat_succ_toNat, hF, operandWord, if_neg (succ_ne_self d)]⟩

/-- They hit the operand's registers in their lane, and those alone. -/
theorem eWrites_hits {l x : Nat} (q : VReg) (m : Nat) :
    (∃ w ∈ eWrites ty d l x, w.hits q m) ↔ m = l ∧ q ∈ eRegs ty d := by
  cases hp : ty.pair <;>
    simp [eWrites, eRegs, hp, RegWrite.hits, BitVec.ofNat_toNat, ofNat_succ_toNat, eq_comm, and_comm, and_or_left]

/-- Writes of an operand in each of some lanes. -/
def laneWrites (ty : ElemType) (d : VReg) (val : Nat → Nat) (ls : List Nat) : List RegWrite :=
  ls.flatMap fun l => eWrites ty d l (val l)

theorem laneWrites_gives {ls : List Nat} (val : Nat → Nat) (hl : ∀ l ∈ ls, l < 1024) :
    ∀ w ∈ laneWrites ty d val ls, w.gives fun q l => operandWord d (val l) q := by
  intro w hw
  obtain ⟨l, hm, hw⟩ := List.mem_flatMap.1 hw
  exact eWrites_gives (F := fun q l => operandWord d (val l) q) (hl l hm) (fun _ => rfl) w hw

theorem laneWrites_hits {ls : List Nat} {val : Nat → Nat} (q : VReg) (m : Nat) :
    (∃ w ∈ laneWrites ty d val ls, w.hits q m) ↔ m ∈ ls ∧ q ∈ eRegs ty d := by
  constructor
  · rintro ⟨w, hw, hq⟩
    obtain ⟨l, hl, hw⟩ := List.mem_flatMap.1 hw
    obtain ⟨rfl, hq⟩ := (eWrites_hits q m).1 ⟨w, hw, hq⟩
    exact ⟨hl, hq⟩
  · rintro ⟨hm, hq⟩
    obtain ⟨w, hw, hq⟩ := (eWrites_hits (ty := ty) (x := val m) q m).2 ⟨rfl, hq⟩
    exact ⟨w, List.mem_flatMap.2 ⟨m, hm, hw⟩, hq⟩

theorem mem_eRegs_self (ty : ElemType) (d : VReg) : d ∈ eRegs ty d := by cases hp : ty.pair <;> simp [eRegs, hp]

/-- An operand whose registers hold the words of a value reads as its low bits. -/
theorem Team.eget_of_words {tm : Team} {x l : Nat} (h : ∀ q ∈ eRegs ty d, tm.vget q l = operandWord d x q) :
    tm.eget ty d l = x % 2 ^ (if ty.pair then 64 else 32) := by
  have low : (tm.vget d l).toNat = x % 2 ^ 32 := by
    rw [h d (mem_eRegs_self ty d), operandWord, if_pos rfl, BitVec.toNat_ofNat]
  cases hp : ty.pair with
  | false => simp only [Team.eget, hp, Bool.false_eq_true, if_false, low]
  | true =>
    have high : (tm.vget (d + 1) l).toNat = x / 2 ^ 32 % 2 ^ 32 := by
      rw [h (d + 1) (by simp [eRegs, hp]), operandWord, if_neg (succ_ne_self d), BitVec.toNat_ofNat]
    simp only [Team.eget, hp, if_true, low, high]
    omega

theorem VWritten.eget_laneWrites {u : State} {ls : List Nat} {val : Nat → Nat} {p : Path} {l : Nat}
    (h : VWritten s u r (fun q l => operandWord d (val l) q) (laneWrites ty d val ls) p) (hl : l < 1024) (hm : l ∈ ls) :
    (u.team r.tok).eget ty d l = val l % 2 ^ (if ty.pair then 64 else 32) :=
  Team.eget_of_words fun q hq => h.hit q l hl ((laneWrites_hits q l).2 ⟨hm, hq⟩)

/-! ### Instructions that write an operand in every active lane -/

/-- An instruction that writes its operand in each active lane, sets STATUS bits and goes on. -/
theorem writesV_laneWrites {val : Nat → Nat} {st : BitVec 7} (e : exec i s = .next (((s.regWrites r.tok
      (laneWrites ty d val (lanesOf (s.team r.tok) (s.active r)))).addStatus r st).advance r n)) :
    WritesV i s r ty d val st n := by
  have gives := laneWrites_gives (ty := ty) (d := d) (ls := lanesOf (s.team r.tok) (s.active r)) val fun l => lanesOf_lt
  have written := vWritten_addStatus (s := s) (r := r) gives st n
  refine ⟨_, e, fun l hl => written.eget_laneWrites (lanesOf_lt hl) hl, fun q l hl hq => ?_, written.path, written.uniform,
    written.masks, written.frame.team, written.frame.only, written.frame.only.sameMemory⟩
  exact written.miss q l hl fun w hw hit => hq ((laneWrites_hits q l).1 ⟨w, hw, hit⟩)

/-- R17, R186, R187: an instruction that does the work of every active lane from the team's state before it. -/
theorem writesV_mapLanes {f : Team → Nat → List RegWrite × BitVec 7} {val : Nat → Nat} {st : Nat → BitVec 7}
    (e : exec i s = .next ((s.mapLanes r f).advance r n))
    (hf : ∀ l, f (s.team r.tok) l = (eWrites ty d l (val l), st l)) :
    WritesV i s r ty d val (laneStatus s r st) n := by
  have same : f (s.team r.tok) = fun l => (eWrites ty d l (val l), st l) := funext hf
  refine writesV_laneWrites (e.trans ?_)
  simp only [State.mapLanes, same, List.flatMap_map, List.map_map, laneStatus, laneWrites]
  rfl

theorem foldl_or_zero (ls : List Nat) : (ls.map fun _ => (0 : BitVec 7)).foldl (· ||| ·) 0 = 0 := by
  induction ls with
  | nil => rfl
  | cons l ls ih => rw [List.map_cons, List.foldl_cons]; exact ih

theorem laneStatus_zero (s : State) (r : PathRef) : (laneStatus s r fun _ => 0) = 0 := foldl_or_zero _

/-- The same, of an instruction that sets no STATUS bit. -/
theorem writesV_mapLanes_quiet {f : Team → Nat → List RegWrite × BitVec 7} {val : Nat → Nat}
    (e : exec i s = .next ((s.mapLanes r f).advance r n)) (hf : ∀ l, f (s.team r.tok) l = (eWrites ty d l (val l), 0)) :
    WritesV i s r ty d val 0 n :=
  laneStatus_zero s r ▸ writesV_mapLanes (st := fun _ => 0) e hf

/-- Only the low bits of an operand's value matter. -/
theorem writesV_congr {val val' : Nat → Nat} {st : BitVec 7} (h : WritesV i s r ty d val st n)
    (hv : ∀ l, val l % 2 ^ (if ty.pair then 64 else 32) = val' l % 2 ^ (if ty.pair then 64 else 32)) :
    WritesV i s r ty d val' st n := by
  obtain ⟨t, e, reads, rest⟩ := h
  exact ⟨t, e, fun l hl => (reads l hl).trans (hv l), rest⟩

/-- R187: an instruction over the elements of its operands, in a type and with registers that it accepts. -/
theorem writesV_elementwise {ok : ElemType → Bool} {srcs : List VReg}
    {f : Team → Nat → Nat → Nat × BitVec 7} (e : exec i s = .next (s.elementwise r ok d srcs n f))
    (hok : ok (s.ty r) = true) (hr : s.eOk r (s.ty r) (d :: srcs) = true) :
    WritesV i s r (s.ty r) d (fun l => (elems (s.ty r) (f (s.team r.tok) l)).1)
      (laneStatus s r fun l => (elems (s.ty r) (f (s.team r.tok) l)).2) n := by
  refine writesV_mapLanes (f := fun t l => (eWrites (s.ty r) d l (elems (s.ty r) fun j => f t l j).1,
    (elems (s.ty r) fun j => f t l j).2)) (e.trans ?_) fun l => rfl
  rw [State.elementwise]
  simp only [hok, hr, Bool.and_self, State.legalIf_true]

end Sys2Proof.Machine
end

section
/-! SUPPORT. The vector integer and bitwise instructions (R187, R190). -/

namespace Sys2Proof.Machine

variable {s : State} {r : PathRef} {i : Instr} {ty : ElemType} {d a b : VReg} {n : Nat}

/-! ### Elements put together -/

theorem packElems_congr {w : Nat} {f g : Nat → Nat} (js : List Nat) (h : ∀ j, f j % 2 ^ w = g j % 2 ^ w) :
    packElems w (js.map f) = packElems w (js.map g) := by
  induction js with
  | nil => rfl
  | cons j js ih => rw [List.map_cons, List.map_cons, packElems, packElems, h, ih]

/-- Elements are put together by their low bits. -/
theorem elems_fst_congr {f g : Nat → Nat × BitVec 7} (h : ∀ j, (f j).1 % 2 ^ ty.width = (g j).1 % 2 ^ ty.width) :
    (elems ty f).1 = (elems ty g).1 := by
  simp only [elems, List.map_map]
  exact packElems_congr _ h

/-- Elements that set no STATUS bit. -/
theorem elems_quiet (f : Nat → Nat) : (elems ty fun j => (f j, 0)).2 = 0 := by
  simp only [elems, List.map_map]
  exact foldl_or_zero _

/-! ### Arithmetic -/

/-- An instruction that meets its decode condition and then does the work of every active lane. -/
theorem writesV_legal {ok : Bool} {f : Team → Nat → List RegWrite × BitVec 7} {val : Nat → Nat} {st : Nat → BitVec 7}
    (e : exec i s = .next (s.legalIf r ok ((s.mapLanes r f).advance r n))) (hok : ok = true)
    (hf : ∀ l, f (s.team r.tok) l = (eWrites ty d l (val l), st l)) :
    WritesV i s r ty d val (laneStatus s r st) n :=
  writesV_mapLanes (e.trans (by rw [hok, State.legalIf_true])) hf

theorem writesV_legal_quiet {ok : Bool} {f : Team → Nat → List RegWrite × BitVec 7} {val : Nat → Nat}
    (e : exec i s = .next (s.legalIf r ok ((s.mapLanes r f).advance r n))) (hok : ok = true)
    (hf : ∀ l, f (s.team r.tok) l = (eWrites ty d l (val l), 0)) : WritesV i s r ty d val 0 n :=
  writesV_mapLanes_quiet (e.trans (by rw [hok, State.legalIf_true])) hf

/-- The exact result of integer elements, wrapped or saturated, in each active lane. -/
theorem writesV_ints {srcs : List VReg} (f : Nat → Nat → Int) {k : Team → Nat → Nat → Nat × BitVec 7}
    (e : exec i s = .next (s.elementwise r ElemType.isInt d srcs n k)) (hi : (s.ty r).isInt = true)
    (hr : s.eOk r (s.ty r) (d :: srcs) = true)
    (hk : ∀ l j, k (s.team r.tok) l j = (s.ty r).ifmt.narrow (s.sat r) (f l j)) :
    WritesV i s r (s.ty r) d (fun l => (elems (s.ty r) fun j => (s.ty r).ifmt.narrow (s.sat r) (f l j)).1)
      (laneStatus s r fun l => (elems (s.ty r) fun j => (s.ty r).ifmt.narrow (s.sat r) (f l j)).2) n := by
  have hv := writesV_elementwise e hi hr
  have same : ∀ l, k (s.team r.tok) l = fun j => (s.ty r).ifmt.narrow (s.sat r) (f l j) := fun l => funext (hk l)
  simp only [same] at hv
  exact hv

theorem vectorArithmetic : Rules.VectorArithmetic := by
  intro s r d a b h hi
  let x := elemInt s r a
  let y := elemInt s r b
  refine ⟨fun hr => ⟨?add, ?sub, ?mul, ?min, ?max, ?mad, ?mulh⟩, fun hr => ⟨?abs, ?neg⟩⟩
  case add => exact writesV_ints (fun l j => x l j + y l j) (issued_next h _) hi hr fun _ _ => rfl
  case sub => exact writesV_ints (fun l j => x l j - y l j) (issued_next h _) hi hr fun _ _ => rfl
  case mul => exact writesV_ints (fun l j => x l j * y l j) (issued_next h _) hi hr fun _ _ => rfl
  case min => exact writesV_ints (fun l j => min (x l j) (y l j)) (issued_next h _) hi hr fun _ _ => by rw [min_def]; rfl
  case max => exact writesV_ints (fun l j => max (x l j) (y l j)) (issued_next h _) hi hr fun _ _ => by rw [max_def]; rfl
  case mad =>
    exact writesV_ints (fun l j => x l j * y l j + elemInt s r d l j) (issued_next h _) hi hr fun _ _ => rfl
  case mulh =>
    have hv := writesV_elementwise (i := .mulh d a b) (issued_next h _) hi hr
    simp only [elems_quiet, laneStatus_zero] at hv
    exact hv
  case abs => exact writesV_ints (fun l j => ((x l j).natAbs : Int)) (issued_next h _) hi hr fun _ _ => rfl
  case neg => exact writesV_ints (fun l j => - x l j) (issued_next h _) hi hr fun _ _ => rfl

/-! ### Bitwise instructions, shifts and rotation -/

theorem Team.eget_lt (tm : Team) (ty : ElemType) (a : VReg) (l : Nat) :
    tm.eget ty a l < 2 ^ (if ty.pair then 64 else 32) := by
  have low := (tm.vget a l).isLt
  have high := (tm.vget (a + 1) l).isLt
  cases hp : ty.pair <;> simp only [Team.eget, hp, if_true, Bool.false_eq_true, if_false] <;> omega

theorem elemAt_lt (ty : ElemType) (x j : Nat) : elemAt ty x j < 2 ^ ty.width := Nat.mod_lt _ (Nat.two_pow_pos _)

theorem wrap_natCast (w : Nat) (sx : Bool) (x : Nat) : IFmt.wrap ⟨w, sx⟩ (x : Int) = x % 2 ^ w := by
  rw [IFmt.wrap, ← Nat.cast_ofNat, ← Nat.cast_pow, ← Int.natCast_mod, Int.toNat_natCast]

theorem wrap_eq_toNat_ofInt (w : Nat) (sx : Bool) (q : Int) : IFmt.wrap ⟨w, sx⟩ q = (BitVec.ofInt w q).toNat := by
  rw [BitVec.toNat_ofInt, IFmt.wrap]
  push_cast
  rfl

/-- R190: an arithmetic shift by a count that may reach the width and beyond. -/
theorem wrap_sra (w : Nat) (sx : Bool) (x c : Nat) :
    IFmt.wrap ⟨w, sx⟩ (if w ≤ c then (if (IFmt.mk w true).val x < 0 then -1 else 0) else ((IFmt.mk w true).val x).fdiv (2 ^ c)) =
      ((BitVec.ofNat w x).sshiftRight c).toNat := by
  rw [wrap_eq_toNat_ofInt, IFmt.val_signed, BitVec.sshiftRight]
  congr 2
  split
  next hc => rw [toInt_shiftRight_of_le _ hc]
  next =>
    rw [Int.fdiv_eq_ediv_of_nonneg _ (by positivity), Int.shiftRight_eq_div_pow]
    push_cast
    rfl

/-- R190: a rotation is the sum of the two parts it moves. -/
theorem rotate_toNat {w x : Nat} (hx : x < 2 ^ w) (c : Nat) :
    (x * 2 ^ (c % w) + x / 2 ^ (w - c % w)) % 2 ^ w = ((BitVec.ofNat w x).rotateLeft (c % w)).toNat := by
  rcases Nat.eq_zero_or_pos w with rfl | hw
  · rw [pow_zero, Nat.mod_one, BitVec.toNat_of_zero_length rfl]
  have hk : c % w < w := Nat.mod_lt _ hw
  generalize c % w = k at hk
  have cut : 2 ^ w = 2 ^ (w - k) * 2 ^ k := by rw [← Nat.pow_add]; congr 1; omega
  have low : x / 2 ^ (w - k) < 2 ^ k := Nat.div_lt_of_lt_mul (by rwa [← cut])
  have high : x * 2 ^ k % 2 ^ w = 2 ^ k * (x % 2 ^ (w - k)) := by rw [cut, Nat.mul_mod_mul_right, Nat.mul_comm]
  have fits : 2 ^ k * (x % 2 ^ (w - k)) + x / 2 ^ (w - k) < 2 ^ w := by
    have := Nat.mod_lt x (Nat.two_pow_pos (w - k))
    calc 2 ^ k * (x % 2 ^ (w - k)) + x / 2 ^ (w - k) < 2 ^ k * (x % 2 ^ (w - k)) + 2 ^ k := by omega
      _ = 2 ^ k * (x % 2 ^ (w - k) + 1) := by rw [Nat.mul_add, Nat.mul_one]
      _ ≤ 2 ^ k * 2 ^ (w - k) := Nat.mul_le_mul_left _ (by omega)
      _ = 2 ^ w := by rw [cut, Nat.mul_comm]
  rw [BitVec.toNat_rotateLeft, BitVec.toNat_ofNat, Nat.mod_eq_of_lt hx, Nat.mod_eq_of_lt hk, Nat.shiftLeft_eq,
    Nat.shiftRight_eq_div_pow, high, ← Nat.two_pow_add_eq_or_of_lt low, Nat.add_mod, high,
    Nat.mod_eq_of_lt (lt_of_le_of_lt (Nat.div_le_self ..) hx), Nat.mod_eq_of_lt fits]

/-- A shift or rotation of each element by its count, by a function that agrees with the model's below the width. -/
theorem writesV_shift (h : Issuing s r) {f : Nat → Nat → Nat → Int} {g : Nat → Nat → Nat}
    (hi : (s.ty r).isInt = true) (hr : s.eOk r (s.ty r) [d, a] = true) (hb : s.vOk r [b] = true)
    (hg : ∀ x c, x < 2 ^ (s.ty r).width → IFmt.wrap (s.ty r).ifmt (f (s.ty r).width x c) % 2 ^ (s.ty r).width =
      g x c % 2 ^ (s.ty r).width) (e : exec i s = vecShift d a b f s) :
    WritesV i s r (s.ty r) d (fun l => (elems (s.ty r) fun j =>
      (g (elemAt (s.ty r) ((s.team r.tok).eget (s.ty r) a l) j)
        (if (s.ty r).pair then ((s.team r.tok).vget b l).toNat else elemAt (s.ty r) ((s.team r.tok).vget b l).toNat j), 0)).1) 0 1 := by
  rw [vecShift, issued_next h] at e
  refine writesV_legal_quiet e (by rw [hi, hr, hb]; rfl) fun l => ?_
  exact congrArg (fun x => (eWrites (s.ty r) d l x, (0 : BitVec 7)))
    (elems_fst_congr fun j => hg _ _ (elemAt_lt ..))

/-- R190: a shift left, which is 0 where the count reaches the width. -/
theorem wrap_shl (w : Nat) (sx : Bool) (x c : Nat) :
    IFmt.wrap ⟨w, sx⟩ (if w ≤ c then 0 else ((x * 2 ^ c : Nat) : Int)) = (if w ≤ c then 0 else x * 2 ^ c) % 2 ^ w := by
  rw [← wrap_natCast w sx]
  split <;> rfl

theorem wrap_shr (w : Nat) (sx : Bool) (x c : Nat) :
    IFmt.wrap ⟨w, sx⟩ (if w ≤ c then 0 else ((x / 2 ^ c : Nat) : Int)) = (if w ≤ c then 0 else x / 2 ^ c) % 2 ^ w := by
  rw [← wrap_natCast w sx]
  split <;> rfl

theorem vectorBitwise : Rules.VectorBitwise := by
  intro s r d a b h
  refine ⟨fun hr => ⟨?and, ?or, ?xor⟩, fun hr => ?not, fun hi hr hb => ⟨?shl, ?shr, ?sra, ?rot⟩⟩
  case and => exact writesV_legal_quiet (issued_next h _) hr fun _ => rfl
  case or => exact writesV_legal_quiet (issued_next h _) hr fun _ => rfl
  case xor => exact writesV_legal_quiet (issued_next h _) hr fun _ => rfl
  case not =>
    have hv : WritesV (.not d a) s r (s.ty r) d (fun l => 2 ^ 64 - 1 - (s.team r.tok).eget (s.ty r) a l) 0 1 :=
      writesV_legal_quiet (issued_next h _) hr fun _ => rfl
    refine writesV_congr hv fun l => ?_
    have := Team.eget_lt (s.team r.tok) (s.ty r) a l
    cases hp : (s.ty r).pair <;> simp only [hp, if_true, Bool.false_eq_true, if_false] at this ⊢ <;> omega
  all_goals dsimp only
  case shl =>
    refine writesV_shift (i := .shl d a b) (f := fun w x c => if w ≤ c then 0 else ((x * 2 ^ c : Nat) : Int))
      (g := fun x c => if (s.ty r).width ≤ c then 0 else x * 2 ^ c) h hi hr hb (fun x c hx => ?_) rfl
    rw [ElemType.ifmt, wrap_shl, Nat.mod_mod]
  case shr =>
    refine writesV_shift (i := .shr d a b) (f := fun w x c => if w ≤ c then 0 else ((x / 2 ^ c : Nat) : Int))
      (g := fun x c => if (s.ty r).width ≤ c then 0 else x / 2 ^ c) h hi hr hb (fun x c hx => ?_) rfl
    rw [ElemType.ifmt, wrap_shr, Nat.mod_mod]
  case sra =>
    refine writesV_shift (i := .sra d a b) (f := fun w x c => if w ≤ c then (if (IFmt.mk w true).val x < 0 then -1 else 0) else ((IFmt.mk w true).val x).fdiv (2 ^ c))
      (g := fun x c => ((BitVec.ofNat (s.ty r).width x).sshiftRight c).toNat) h hi hr hb (fun x c hx => ?_) rfl
    rw [ElemType.ifmt, wrap_sra]
  case rot =>
    refine writesV_shift (i := .rot d a b) (f := fun w x c => ((x * 2 ^ (c % w) + x / 2 ^ (w - c % w) : Nat) : Int))
      (g := fun x c => ((BitVec.ofNat (s.ty r).width x).rotateLeft (c % (s.ty r).width)).toNat) h hi hr hb (fun x c hx => ?_) rfl
    rw [ElemType.ifmt, wrap_natCast, rotate_toNat hx, Nat.mod_eq_of_lt (BitVec.isLt _)]

/-- Settles O17: the exact arithmetic, and the operations on words. -/
theorem vectorIntegers : Obligations.VectorIntegers := ⟨vectorArithmetic, vectorBitwise⟩

end Sys2Proof.Machine
end

section
/-! SUPPORT. Bit fields and bit counts of 32-bit lanes, comparison into a lane mask, selection, moves and literals (R191 to
R195). -/

namespace Sys2Proof.Machine

variable {s : State} {r : PathRef} {i : Instr} {ty : ElemType} {d a b : VReg} {p : PReg} {n : Nat}

/-! ### Types of one 32-bit element -/

theorem elems_one (hc : ty.count = 1) (x : Nat) : elems ty (fun _ => (x, 0)) = (x % 2 ^ ty.width, 0) := by
  simp [elems, hc, packElems]

theorem is32_facts (h : ty.is32 = true) : ty.count = 1 ∧ ty.width = 32 ∧ ty.pair = false := by
  revert h
  cases ty <;> decide

/-- An instruction that gives each active lane one 32-bit value. -/
theorem writesV_is32 {srcs : List VReg} (f : Nat → Nat) {k : Team → Nat → Nat → Nat × BitVec 7}
    (e : exec i s = .next (s.elementwise r ElemType.is32 d srcs n k)) (h32 : (s.ty r).is32 = true)
    (hr : s.eOk r (s.ty r) (d :: srcs) = true) (hk : ∀ l, k (s.team r.tok) l = fun _ => (f l, 0)) :
    WritesV i s r (s.ty r) d f 0 n := by
  obtain ⟨hc, hw, hp⟩ := is32_facts h32
  have hv := writesV_elementwise e h32 hr
  simp only [hk, elems_one hc, laneStatus_zero] at hv
  exact writesV_congr hv fun l => by rw [hp, hw]; exact Nat.mod_mod ..

theorem ofInt_toInt_toNat {n : Nat} (x : BitVec n) : IFmt.wrap ⟨32, false⟩ x.toInt = (x.signExtend 32).toNat := by
  rw [wrap_eq_toNat_ofInt]; rfl

theorem vectorBitFields : Rules.VectorBitFields := by
  intro s r d a h h32 hr
  refine ⟨fun pos len _ _ => ⟨?bfe, ?bfi⟩, fun op => ?bcnt⟩
  case bfe =>
    refine writesV_is32 _ (issued_next h _) h32 hr fun l => funext fun _ => congrArg (·, (0 : BitVec 7)) ?_
    change IFmt.wrap ⟨32, false⟩ (IFmt.val ⟨len.toNat, s.ty r == .i32⟩ ((s.vget r a l).toNat / 2 ^ pos.toNat % 2 ^ len.toNat)) = _
    rw [wrap_eq_toNat_ofInt]
    congr 1
    by_cases hi : s.ty r = .i32
    · rw [hi, if_pos rfl]
      exact ofInt_fieldVal_signed ..
    · rw [if_neg hi, beq_eq_false_iff_ne.2 hi]
      exact ofInt_fieldVal_unsigned ..
  case bfi =>
    obtain ⟨hc, hw, hp⟩ := is32_facts h32
    dsimp only
    have hv := writesV_is32 (i := .bfi d a pos len) (fun l => insertBits 32 pos.toNat len.toNat (s.vget r d l).toNat (s.vget r a l).toNat)
      (issued_next h _) h32 hr fun l => rfl
    refine writesV_congr hv fun l => ?_
    rw [← ofNat_insertBits, hp, BitVec.toNat_ofNat]
    exact (Nat.mod_mod ..).symm
  case bcnt => exact writesV_is32 _ (issued_next h _) h32 hr fun l => rfl

/-! ### Comparison into a lane mask -/

theorem active_iff {l : Nat} : Active s r l ↔ l < (s.team r.tok).width ∧ (s.active r).getLsbD l = true := mem_lanesOf

/-- Writing the active lanes' bits of a mask: theirs, and the others as they were. -/
theorem getLsbD_writeLanes (old : Mask) (f : Nat → Bool) {l : Nat} (hw : l < (s.team r.tok).width) (hl : l < 1024) :
    let m := (old &&& ~~~ s.active r) ||| (maskOf (lanesOf (s.team r.tok) (s.active r)) f &&& s.active r)
    (Active s r l → m.getLsbD l = f l) ∧ (¬ Active s r l → m.getLsbD l = old.getLsbD l) := by
  have bits := getLsbD_maskOf_lanesOf (t := s.team r.tok) (m := s.active r) f l
  rw [mem_lanesOf] at bits
  simp only [active_iff, BitVec.getLsbD_or, BitVec.getLsbD_and, BitVec.getLsbD_not, hl, decide_true, Bool.true_and]
  constructor
  · rintro ⟨_, on⟩
    rw [on, Bool.not_true, Bool.and_false, Bool.false_or, Bool.and_true, Bool.eq_iff_iff, bits]
    exact ⟨fun x => x.2, fun x => ⟨⟨hw, on⟩, x⟩⟩
  · intro off
    have off : (s.active r).getLsbD l = false := Bool.eq_false_iff.2 fun on => off ⟨hw, on⟩
    rw [off, Bool.not_false, Bool.and_true, Bool.and_false, Bool.or_false]

theorem vectorCompare : Rules.VectorCompare := by
  intro s r c p a b h hty hr
  refine ⟨_, fun l hw hl => getLsbD_writeLanes (s.pget r p) _ hw hl, writesP_advance ((issued_next h _).trans ?_)⟩
  dsimp only
  rw [hty, hr, Bool.and_self, State.legalIf_true, State.writeLanes]

/-! ### Selection, moves and literals -/

theorem vectorMoves : Rules.VectorMoves := by
  intro s r d a b p h
  refine ⟨fun neg hr => ?sel, fun hr => ?mov, fun hi x hr hx => ?movs, fun lit hr => ?li, fun hd => ?lid⟩
  case sel =>
    refine writesV_legal_quiet (issued_next h _) hr fun l => congrArg (fun x => (eWrites (s.ty r) d l x, (0 : BitVec 7))) ?_
    exact apply_ite ((s.team r.tok).eget (s.ty r) · l) _ a b
  case mov => exact writesV_legal_quiet (issued_next h _) hr fun _ => rfl
  case movs =>
    have ok : (s.eOk r (s.ty r) [d] && !((s.ty r).pair && hi)) = true := by
      rw [hr, Bool.true_and, Bool.not_eq_true', Bool.eq_false_iff]
      exact fun both => hx (by simpa using both)
    refine writesV_legal_quiet (issued_next h _) ok fun l => congrArg (fun x => (eWrites (s.ty r) d l x, (0 : BitVec 7))) ?_
    have high : ((s.sget r x).extractLsb' 32 32).toNat = (s.sget r x).toNat / 2 ^ 32 := by
      rw [BitVec.extractLsb'_toNat, Nat.shiftRight_eq_div_pow, Nat.mod_eq_of_lt (by omega)]
    rw [high]
  case li =>
    refine writesV_legal_quiet (issued_next h _) hr fun l => congrArg (fun x => (eWrites (s.ty r) d l x, (0 : BitVec 7))) ?_
    by_cases hi : s.ty r = .i64 <;> simp [hi]
  case lid => exact writesV_legal_quiet (ty := .n32) (issued_next h _) (by simpa [State.vOk] using hd) fun _ => rfl

/-- Settles O18: bit fields, comparison, and the moves. -/
theorem vectorBitsAndMoves : Obligations.VectorBitsAndMoves := ⟨vectorBitFields, vectorCompare, vectorMoves⟩

end Sys2Proof.Machine
end

section
/-! SUPPORT. The vector floating instructions (R196 to R200). -/

namespace Sys2Proof.Machine

variable {s : State} {r : PathRef} {i : Instr} {d : VReg} {n : Nat}

/-- An instruction over floating elements that computes g of each active lane. -/
theorem writesV_floats {srcs : List VReg} (g : Nat → Nat → Nat × BitVec 7) {k : Team → Nat → Nat → Nat × BitVec 7}
    (e : exec i s = .next (s.elementwise r ElemType.isFloat d srcs n k)) (hf : (s.ty r).isFloat = true)
    (hr : s.eOk r (s.ty r) (d :: srcs) = true) (hk : ∀ l, k (s.team r.tok) l = g l) :
    WritesV i s r (s.ty r) d (fun l => (elems (s.ty r) (g l)).1) (laneStatus s r fun l => (elems (s.ty r) (g l)).2) n := by
  simpa only [hk] using writesV_elementwise e hf hr

/-- Settles O19: each instruction over the elements of its operands. -/
theorem vectorFloat : Obligations.VectorFloat := by
  intro s r d a b h hf
  refine ⟨fun hr => ⟨?add, ?sub, ?mul, ?fma, ?min, ?max⟩, fun hr => ⟨?abs, ?neg, ?rcp, ?rsq, ?sqrt, ?exp2, ?log2, ?sin, ?cos,
    ?fclass, ?round⟩⟩
  all_goals dsimp only
  all_goals exact writesV_floats _ (issued_next h _) hf hr fun _ => rfl

/-! ### Comparison and division (R127, R198, R199) -/

theorem getLsbD_and_allLanes (m : Mask) (t : Team) {l : Nat} (hw : l < t.width) (hl : l < 1024) :
    (m &&& t.allLanes).getLsbD l = m.getLsbD l := by
  rw [BitVec.getLsbD_and, Team.getLsbD_allLanes, decide_eq_true hl, decide_eq_true hw, Bool.and_true, Bool.and_true]

/-- A path's slot taken, its flag busy, STATUS bits set, and gone on by n words. -/
def State.slotTaken (s : State) (r : PathRef) (f : Nat) (st : BitVec 7) (n : Nat) : State :=
  (((s.takeSlot r).setFlag r f).addStatus r st).advance r n

theorem startPend_addStatus_advance (f : Nat) (ws : List RegWrite) (st : BitVec 7) (n : Nat) :
    ((s.startPend r f ws).addStatus r st).advance r n = { s.slotTaken r f st n with
      pend := s.pend ++ [⟨s.nextSer, r, f, ws, none, false, none, 0, false, none⟩], nextSer := s.nextSer + 1 } := rfl

theorem localTo_slotTaken (s : State) (r : PathRef) (f : Nat) (st : BitVec 7) (n : Nat) :
    LocalTo s (s.slotTaken r f st n) r :=
  ((localTo_modPath s r _).trans (localTo_modPath _ r _)).trans (localTo_addStatus_advance _ r st n)

theorem sameS_slotTaken (s : State) (r : PathRef) (f : Nat) (st : BitVec 7) (n : Nat) : SameS s (s.slotTaken r f st n) r := by
  intro q
  rw [State.slotTaken, State.sget_addStatus_advance, State.setFlag, State.sget_modPath, State.takeSlot, State.sget_modPath]

theorem path_slotTaken (s : State) (r : PathRef) (f : Nat) (st : BitVec 7) (n : Nat) :
    (s.slotTaken r f st n).path r = { (s.path r).advance n with
      ll := (s.path r).ll + 1, flags := (s.path r).flags ||| BitVec.ofNat 12 (2 ^ f), status := (s.path r).status ||| st } := by
  rw [State.slotTaken, State.path_addStatus_advance, State.setFlag, State.path_modPath_same, State.takeSlot,
    State.path_modPath_same]
  cases hm : (s.path r).mac <;> simp only [Path.advance, hm]

/-- What the start of a long-latency operation leaves as before, where its path alone has changed. -/
theorem localTo_startsPending {x : State} (h : LocalTo s x r) (hs : SameS s x r) (p : Pend) :
    let u := { x with pend := s.pend ++ [p], nextSer := s.nextSer + 1 }
    SameV s u r ∧ SameS s u r ∧ SameP s u r ∧ TeamFrame s u r ∧
      u = { s with teams := u.teams, pend := u.pend, nextSer := s.nextSer + 1 } ∧ SameMemory s u := by
  obtain ⟨vectors, masks, team, only⟩ := h
  refine ⟨vectors, hs, masks, ⟨team.others, team.path, team.fixed, team.held⟩, ?_, only.sameMemory⟩
  rw [OnlyTeams] at only
  rw [only]

theorem exec_fdiv (h : Issuing s r) (d a b : VReg) (hf : (s.ty r).isFloat = true) (hr : s.vOk r [d, a, b] = true) :
    exec (.fdiv d a b) s = .next (s.withSlot r fun f =>
      let lanes := lanesOf (s.team r.tok) (s.active r)
      let rs := lanes.map fun l =>
        let x := elems (s.ty r) fun j => (s.ty r).ffmt.div (s.rnd r) (s.sat r)
          (elemAt (s.ty r) ((s.team r.tok).eget (s.ty r) a l) j) (elemAt (s.ty r) ((s.team r.tok).eget (s.ty r) b l) j)
        (eWrites (s.ty r) d l x.1, x.2)
      if lanes.isEmpty then s.emptyPend r 1
      else ((s.startPend r f (rs.flatMap (·.1))).addStatus r ((rs.map (·.2)).foldl (· ||| ·) 0)).advance r 1) := by
  refine (issued_next h _).trans ?_
  dsimp only
  rw [hf, hr, Bool.and_self, State.legalIf_true]

theorem exec_fdiv_runs (h : Issuing s r) (d a b : VReg) {f : Nat} (hf : (s.ty r).isFloat = true)
    (hr : s.vOk r [d, a, b] = true) (hs : (s.path r).slot = .ok f) (hl : lanesOf (s.team r.tok) (s.active r) ≠ []) :
    let quo := fun l => elems (s.ty r) fun j =>
      (s.ty r).ffmt.div (s.rnd r) (s.sat r) (elemAt (s.ty r) ((s.team r.tok).eget (s.ty r) a l) j)
        (elemAt (s.ty r) ((s.team r.tok).eget (s.ty r) b l) j)
    exec (.fdiv d a b) s = .next { s.slotTaken r f (laneStatus s r fun l => (quo l).2) 1 with
      pend := s.pend ++ [⟨s.nextSer, r, f, (lanesOf (s.team r.tok) (s.active r)).flatMap fun l => eWrites (s.ty r) d l (quo l).1,
        none, false, none, 0, false, none⟩]
      nextSer := s.nextSer + 1 } := by
  refine (exec_fdiv h d a b hf hr).trans ?_
  rw [State.withSlot_ok hs]
  dsimp only
  rw [List.isEmpty_eq_false_iff.2 hl, if_neg Bool.false_ne_true, startPend_addStatus_advance, List.flatMap_map, List.map_map]
  rfl

/-- The bits of the active lanes that a floating comparison writes. -/
def fcmpMask (s : State) (r : PathRef) (c : Cond) (p : PReg) (a b : VReg) : Mask :=
  (s.pget r p &&& ~~~ s.active r) ||| ((maskOf (lanesOf (s.team r.tok) (s.active r)) fun l =>
    (fmtF32.compare c (s.vget r a l).toNat (s.vget r b l).toNat).1) &&& s.active r)

theorem exec_fcmp (h : Issuing s r) (c : Cond) (p : PReg) (a b : VReg) (hty : s.ty r = .f32) (hr : s.vOk r [a, b] = true) :
    exec (.fcmp c p a b) s = .next (((s.pset r p (fcmpMask s r c p a b)).addStatus r (laneStatus s r fun l =>
      (fmtF32.compare c (s.vget r a l).toNat (s.vget r b l).toNat).2)).advance r 1) := by
  refine (issued_next h _).trans ?_
  dsimp only
  rw [hty, hr]
  exact congrArg _ (State.legalIf_true ..)

/-- Settles O20: the comparison of the active lanes, and the four ways of a division. -/
theorem floatCompareAndDivide : Obligations.FloatCompareAndDivide := by
  intro s r c p d a b f h
  refine ⟨fun hty hr => ?fcmp, fun hf hr hs hl => ?runs, fun hf hr => ⟨fun hs hl => ?empty, fun hs => ?busy, fun hs => ?full⟩⟩
  case fcmp =>
    refine ⟨_, exec_fcmp h c p a b hty hr, ?_⟩
    have frame := fun m st => (teamLocal_pset s r p m).trans (localTo_addStatus_advance (s.pset r p m) r st 1).toTeamLocal
    refine ⟨fun l hw hl => ?_, fun q hq => ?_, ?_, fun q l => ?_, fun q => ?_, (frame _ _).team, (frame _ _).only,
      (frame _ _).only.sameMemory⟩
    · rw [(localTo_addStatus_advance _ r _ 1).masks, State.pget_pset, if_pos rfl, getLsbD_and_allLanes _ _ hw hl]
      exact getLsbD_writeLanes (s.pget r p) _ hw hl
    · rw [(localTo_addStatus_advance _ r _ 1).masks, State.pget_pset, if_neg hq]
    · rw [State.path_addStatus_advance, State.path_pset]
    · rw [(localTo_addStatus_advance _ r _ 1).vectors, State.vget_pset]
    · rw [State.sget_addStatus_advance, State.sget_pset]
  case runs =>
    exact ⟨_, exec_fdiv_runs h d a b hf hr hs hl, rfl, path_slotTaken s r f _ 1,
      localTo_startsPending (localTo_slotTaken s r f _ 1) (sameS_slotTaken s r f _ 1) _⟩
  all_goals have run := exec_fdiv h d a b hf hr
  case empty =>
    rw [State.withSlot_ok hs, hl] at run
    exact moves_modPath_advance run
  case busy =>
    rw [State.withSlot, hs] at run
    exact moves_modPath run
  case full =>
    rw [State.withSlot, hs] at run
    exact run

end Sys2Proof.Machine
end

section
/-! SUPPORT. Conversions of elements and of blocks of four (R201 to R207). -/

namespace Sys2Proof.Machine

variable {s : State} {r : PathRef} {i : Instr} {d : VReg} {n : Nat}

theorem sizeType_pair (f : Fmt) : (sizeType f).pair = f.isPair := by cases f <;> rfl

theorem conversions : Rules.Conversions := by
  intro s r d a b h
  refine ⟨fun dst src hf hr => ?cvtf, fun dst src hf _ hr => ?cvti, fun hp hr => ?pk, fun up hp hr => ?upk, fun j ht hr => ?sp8,
    fun j ht hj hr => ?sp8two, fun up ht hr => ?i4x⟩
  all_goals dsimp only
  case cvtf => exact writesV_legal (ty := .n32) (issued_next h _) hr fun _ => rfl
  case cvti =>
    refine writesV_legal (issued_next h _) hr fun l => ?_
    rw [eWrites, sizeType_pair]
    rfl
  case pk => exact writesV_legal (ty := .n32) (issued_next h _) (Bool.and_eq_true_iff.2 ⟨hp, hr⟩) fun _ => rfl
  case upk => exact writesV_legal (ty := .n32) (issued_next h _) (Bool.and_eq_true_iff.2 ⟨hp, hr⟩) fun _ => rfl
  case sp8 => exact writesV_legal (ty := .n32) (issued_next h _) (by rw [ht, hr]; rfl) fun l => by rw [ht]; rfl
  case sp8two =>
    have hne : (s.ty r == .f32) = false := by rcases ht with ht | ht <;> rw [ht] <;> rfl
    refine writesV_legal (ty := .n32) (issued_next h _) ?_ fun l => by simp only [hne]; rfl
    rw [hr, decide_eq_true hj]
    rcases ht with ht | ht <;> rw [ht] <;> rfl
  case i4x => exact writesV_legal (ty := .n32) (issued_next h _) (by rw [ht, hr]; rfl) fun _ => rfl

/-! ### Blocks of four registers -/

/-- The registers that `cvtd` writes in a lane, and their values. -/
def blockWrites (d : VReg) (val : Nat → Nat → Nat) (l : Nat) : List RegWrite :=
  (List.range 4).map fun j => .v (d.toNat + j) l (BitVec.ofNat 32 (val l j))

theorem ofNat_add_toNat {j : Nat} (hd : d.toNat % 4 = 0) (hj : j < 4) : (BitVec.ofNat 8 (d.toNat + j)).toNat = d.toNat + j := by
  rw [BitVec.toNat_ofNat]
  have := d.isLt
  omega

theorem mem_blockWrites {val : Nat → Nat → Nat} {l : Nat} {w : RegWrite} :
    w ∈ blockWrites d val l ↔ ∃ j < 4, w = .v (d.toNat + j) l (BitVec.ofNat 32 (val l j)) := by
  simp only [blockWrites, List.mem_map, List.mem_range, eq_comm]

theorem blockWrites_gives {val : Nat → Nat → Nat} {ls : List Nat} (hd : d.toNat % 4 = 0) (hl : ∀ l ∈ ls, l < 1024) :
    ∀ w ∈ ls.flatMap (blockWrites d val), w.gives fun q l => BitVec.ofNat 32 (val l (q.toNat - d.toNat)) := by
  intro w hw
  obtain ⟨l, hm, hw⟩ := List.mem_flatMap.1 hw
  obtain ⟨j, hj, rfl⟩ := mem_blockWrites.1 hw
  refine ⟨hl l hm, ?_⟩
  dsimp only
  rw [ofNat_add_toNat hd hj, Nat.add_sub_cancel_left]

theorem blockWrites_hits {val : Nat → Nat → Nat} {ls : List Nat} (hd : d.toNat % 4 = 0) (q : VReg) (l : Nat) :
    (∃ w ∈ ls.flatMap (blockWrites d val), w.hits q l) ↔ l ∈ ls ∧ d.toNat ≤ q.toNat ∧ q.toNat < d.toNat + 4 := by
  constructor
  · rintro ⟨w, hw, hq⟩
    obtain ⟨m, hm, hw⟩ := List.mem_flatMap.1 hw
    obtain ⟨j, hj, rfl⟩ := mem_blockWrites.1 hw
    obtain ⟨rfl, rfl⟩ := hq
    rw [ofNat_add_toNat hd hj]
    exact ⟨hm, by omega, by omega⟩
  · rintro ⟨hm, hlow, hhigh⟩
    refine ⟨_, List.mem_flatMap.2 ⟨l, hm, mem_blockWrites.2 ⟨q.toNat - d.toNat, by omega, rfl⟩⟩, ?_, rfl⟩
    rw [Nat.add_sub_cancel' hlow, BitVec.ofNat_toNat, BitVec.setWidth_eq]

theorem mapLanes_eq {f : Team → Nat → List RegWrite × BitVec 7} {ws : Nat → List RegWrite} {st : Nat → BitVec 7}
    (hf : ∀ l, f (s.team r.tok) l = (ws l, st l)) :
    s.mapLanes r f = (s.regWrites r.tok ((lanesOf (s.team r.tok) (s.active r)).flatMap ws)).addStatus r (laneStatus s r st) := by
  have same : f (s.team r.tok) = fun l => (ws l, st l) := funext hf
  simp only [State.mapLanes, same, List.flatMap_map, List.map_map, laneStatus]
  rfl

theorem or_four (f : Nat → Nat × BitVec 7) :
    (((List.range 4).map f).map (·.2)).foldl (· ||| ·) 0 = (f 0).2 ||| (f 1).2 ||| (f 2).2 ||| (f 3).2 := by
  have zero : (0 : BitVec 7) ||| (f 0).2 = (f 0).2 := BitVec.zero_or
  exact congrArg (· ||| (f 1).2 ||| (f 2).2 ||| (f 3).2) zero

/-- Element j of the bytes that `cvtd` widens in a lane, scaled (R203). -/
def widened (s : State) (r : PathRef) (a : VReg) (b : Option VReg) (e5 : Bool) (l j : Nat) : Nat × BitVec 7 :=
  scaleRound fmtF32 (s.rnd r) (s.sat r) ((fp8 e5).unpack ((s.vget r a l).toNat / 2 ^ (8 * j) % 256))
    ((s.team r.tok).cvtScale b l)

theorem exec_cvtd (h : Issuing s r) (d a : VReg) (b : Option VReg) (e5 : Bool)
    (hr : s.vOk r (vRun d 4 ++ a :: b.toList) = true) :
    let w := widened s r a b e5
    exec (.cvtd d a b e5) s = .next (((s.regWrites r.tok
      ((lanesOf (s.team r.tok) (s.active r)).flatMap (blockWrites d fun l j => (w l j).1))).addStatus r
        (laneStatus s r fun l => (w l 0).2 ||| (w l 1).2 ||| (w l 2).2 ||| (w l 3).2)).advance r 2) := by
  refine (issued_next h _).trans ?_
  rw [hr, State.legalIf_true]
  exact congrArg (fun u : State => Host.Outcome.next (u.advance r 2)) (mapLanes_eq fun l => Prod.ext rfl (or_four (widened s r a b e5 l)))

theorem blockConversions : Rules.BlockConversions := by
  intro s r d a b e5 h
  refine ⟨fun hr => ?cvtq, fun hd hr => ?cvtd⟩
  case cvtq =>
    exact writesV_legal (ty := .n32) (issued_next h _) hr fun l => Prod.ext rfl (or_four fun j =>
      scaleRound (fp8 e5) (s.rnd r) (s.sat r) (fmtF32.unpack (s.vget r (a + BitVec.ofNat 8 j) l).toNat)
        ((s.team r.tok).cvtScale b l))
  case cvtd =>
    dsimp only
    have hits := blockWrites_hits (ls := lanesOf (s.team r.tok) (s.active r)) (val := fun l j => (widened s r a b e5 l j).1) hd
    obtain ⟨hit, miss, path, uniform, masks, frame⟩ := vWritten_addStatus (s := s) (r := r)
      (blockWrites_gives (val := fun l j => (widened s r a b e5 l j).1) hd fun l => lanesOf_lt)
      (laneStatus s r fun l => (widened s r a b e5 l 0).2 ||| (widened s r a b e5 l 1).2 ||| (widened s r a b e5 l 2).2 |||
        (widened s r a b e5 l 3).2) 2
    refine ⟨_, exec_cvtd h d a b e5 hr, fun l j hl hj => ?_, fun v l hl hv => ?_, path, uniform, masks, frame.team, frame.only,
      frame.only.sameMemory⟩
    · have at_j : (d + BitVec.ofNat 8 j).toNat = d.toNat + j := by
        rw [← ofNat_add_toNat hd hj, BitVec.ofNat_add, BitVec.ofNat_toNat, BitVec.setWidth_eq]
      exact (hit _ l (lanesOf_lt hl) ((hits _ l).2 ⟨hl, by omega, by omega⟩)).trans
        (congrArg (fun k => BitVec.ofNat 32 (widened s r a b e5 l k).1) (by omega))
    · exact miss v l hl fun w hw hq => hv ((hits v l).1 ⟨w, hw, hq⟩)

/-- Settles O21: conversions of elements, and of blocks. -/
theorem vectorConversions : Obligations.VectorConversions := ⟨conversions, blockConversions⟩

end Sys2Proof.Machine
end

section
/-! SUPPORT. Shuffles, rank and compact (R208, R210), and the mask instructions (R211, R212). -/

namespace Sys2Proof.Machine

variable {s : State} {r : PathRef} {i : Instr} {ty : ElemType} {d a : VReg} {p : PReg} {n : Nat}

/-! ### Lane moves -/

/-- R208: an instruction that moves an operand from a source lane. -/
theorem writesV_laneMove {words : Nat} {ok : State → PathRef → Bool} {src : Team → Nat → Int} {val : Nat → Nat} (h : Issuing s r)
    (e : exec i s = laneMove d a words ok src s) (hr : s.eOk r (s.ty r) [d, a] = true) (hok : ok s r = true)
    (hv : ∀ l, val l = (s.team r.tok).eget (s.ty r) a (laneFrom (s.team r.tok).width (src (s.team r.tok) l) l)) :
    WritesV i s r (s.ty r) d val 0 words :=
  writesV_legal_quiet (e.trans (issued_next h _)) (Bool.and_eq_true_iff.2 ⟨hr, hok⟩) fun l => by rw [hv]

theorem exec_shfl (d a b : VReg) (s : State) :
    exec (.shfl d a b) s = laneMove d a 1 (fun s r => s.vOk r [b]) (fun t l => ((t.vget b l).toNat : Int)) s := rfl

theorem exec_shflx (d a : VReg) (n : BitVec 10) (mode : ShflMode) (s : State) :
    exec (.shflx d a n mode) s = laneMove d a 2 (fun _ _ => true) (fun _ l => shflSource mode n l) s := rfl

theorem lanesOf_and (t : Team) (m n : Mask) : lanesOf t (m &&& n) = (lanesOf t m).filter fun l => n.getLsbD l := by
  rw [lanesOf, lanesOf, List.filter_filter]
  exact List.filter_congr fun l _ => by rw [BitVec.getLsbD_and, Bool.and_comm]

theorem lanesOf_nodup (t : Team) (m : Mask) : (lanesOf t m).Nodup := List.nodup_range.filter _

/-- Two lists of lanes, paired: each lane of the first that has one takes its partner. -/
theorem zip_eq_map_take {xs : List Nat} (ys : List Nat) (hx : xs.Nodup) :
    xs.zip ys = (xs.take ys.length).map fun l => (l, ys.getD (xs.idxOf l) 0) := by
  refine List.ext_getElem (by simp [Nat.min_comm]) fun i h₁ h₂ => ?_
  rw [List.length_zip] at h₁
  have hy : i < ys.length := by omega
  simp [List.getElem_zip, List.Nodup.idxOf_getElem hx, hy]

theorem exec_compact (h : Issuing s r) (hr : s.eOk r (s.ty r) [d, a] = true) :
    let act := lanesOf (s.team r.tok) (s.active r)
    let hit := act.filter fun l => (s.pget r p).getLsbD l
    exec (.compact d a p) s = .next ((s.regWrites r.tok (laneWrites (s.ty r) d
      (fun l => (s.team r.tok).eget (s.ty r) a (hit.getD (act.idxOf l) 0)) (act.take hit.length))).advance r 1) := by
  refine (issued_next h _).trans ?_
  dsimp only
  rw [hr, State.legalIf_true, lanesOf_and, zip_eq_map_take _ (lanesOf_nodup ..), List.flatMap_map]
  rfl

/-- Settles O22: shuffles, `rank` and `compact`. -/
theorem laneMoves : Obligations.LaneMoves := by
  intro s r d a b p h
  dsimp only
  refine ⟨fun hr hb => ?shfl, fun m hr => ⟨?xor, ?up, ?dn⟩, fun hd => ?rank, fun hr => ?compact⟩
  case shfl => exact writesV_laneMove h (exec_shfl d a b s) hr hb fun l => congrArg (fun k => (s.team r.tok).eget (s.ty r) a k) rfl
  case xor => exact writesV_laneMove h (exec_shflx d a m .xor s) hr rfl fun _ => rfl
  case up => exact writesV_laneMove h (exec_shflx d a m .up s) hr rfl fun _ => rfl
  case dn => exact writesV_laneMove h (exec_shflx d a m .dn s) hr rfl fun _ => rfl
  case rank =>
    refine writesV_legal_quiet (ty := .n32) (issued_next h _) (by simpa [State.vOk] using hd) fun l => ?_
    rw [lanesOf_and]
    rfl
  case compact =>
    have below : ∀ l ∈ (lanesOf (s.team r.tok) (s.active r)).take
        ((lanesOf (s.team r.tok) (s.active r)).filter fun l => (s.pget r p).getLsbD l).length, l < 1024 :=
      fun l hl => lanesOf_lt (List.mem_of_mem_take hl)
    have written := vWritten_advance (s := s) (r := r) (laneWrites_gives (ty := s.ty r) (d := d) (fun l => (s.team r.tok).eget (s.ty r) a
      (((lanesOf (s.team r.tok) (s.active r)).filter fun l => (s.pget r p).getLsbD l).getD
        ((lanesOf (s.team r.tok) (s.active r)).idxOf l) 0)) below) 1
    refine ⟨_, exec_compact h hr, fun i hi hi' => ?_, fun q l hl hq => ?_, written.path, written.uniform, written.masks,
      written.frame.team, written.frame.only, written.frame.only.sameMemory⟩
    · have hm := List.mem_take_iff_getElem.2 ⟨i, lt_min hi hi', rfl⟩
      rw [written.eget_laneWrites (below _ hm) hm, (lanesOf_nodup ..).idxOf_getElem, List.getD_eq_getElem _ _ hi]
      exact Nat.mod_eq_of_lt (Team.eget_lt ..)
    · exact written.miss q l hl fun w hw hit => hq ((laneWrites_hits q l).1 ⟨w, hw, hit⟩)

/-! ### Mask instructions -/

theorem writesP_predicate {all : Bool} {d : PReg} {which : Mask} {f : State → PathRef → Mask} (h : Issuing s r)
    (e : exec i s = predicate all d which f s) {m : Mask}
    (hm : (if all then (s.team r.tok).allLanes else s.active r) &&& which = m) :
    WritesP i s r d ((s.pget r d &&& ~~~ m) ||| (f s r &&& m)) 1 := by
  refine writesP_advance (e.trans ((issued_next h _).trans ?_))
  rw [hm]
  rfl

theorem ofNat_mul_two_pow (n x c : Nat) : BitVec.ofNat n (x * 2 ^ c) = BitVec.ofNat n x <<< c :=
  BitVec.eq_of_toNat_eq (by simp [Nat.shiftLeft_eq, Nat.mod_mul_mod])

/-- Settles O24: each mask instruction. -/
theorem maskInstructions : Obligations.MaskInstructions := by
  intro s r all d a b x k h
  dsimp only
  have whole : (if all then (s.team r.tok).allLanes else s.active r) &&& ~~~ 0 =
      if all then (s.team r.tok).allLanes else s.active r := by
    exact (congrArg _ BitVec.not_zero).trans BitVec.and_allOnes
  refine ⟨?and, ?or, ?xor, ?not, ?mov, ?clr, ?set, ?sc, ?get⟩
  case and => exact writesP_predicate (f := fun s r => s.pget r a &&& s.pget r b) h rfl whole
  case or => exact writesP_predicate (f := fun s r => s.pget r a ||| s.pget r b) h rfl whole
  case xor => exact writesP_predicate (f := fun s r => s.pget r a ^^^ s.pget r b) h rfl whole
  case not => exact writesP_predicate (f := fun s r => ~~~ s.pget r a) h rfl whole
  case mov => exact writesP_predicate (f := fun s r => s.pget r a) h rfl whole
  case clr => exact writesP_predicate (f := fun _ _ => 0) h rfl whole
  case set => exact writesP_predicate (f := fun _ _ => ~~~ 0) h rfl whole
  case sc =>
    have bits : (s.sget r x).setWidth 1024 = BitVec.ofNat 1024 (s.sget r x).toNat := (BitVec.ofNat_toNat ..).symm
    rw [bits, ← ofNat_mul_two_pow, ← ofNat_mul_two_pow]
    exact writesP_predicate (which := BitVec.ofNat 1024 ((2 ^ 64 - 1) * 2 ^ (64 * k.toNat)))
      (f := fun s r => BitVec.ofNat 1024 ((s.sget r x).toNat * 2 ^ (64 * k.toNat))) h rfl rfl
  case get => exact writesP_advance (issued_next h _)

end Sys2Proof.Machine
end

section
/-! SUPPORT. Votes, counts and broadcasts (R189, R208), and the folds of lanes in ascending order (R115, R209). -/

namespace Sys2Proof.Machine

variable {s : State} {r : PathRef} {i : Instr} {n : Nat}

/-- R142: an instruction whose decode condition fails. -/
theorem illegal_legalIf {ok : PathRef → Bool} {k : PathRef → State} (h : Issuing s r)
    (e : exec i s = issued s fun q => s.legalIf q (ok q) (k q)) (hok : ok r = false) : Illegal i s r :=
  e.trans ((issued_next h _).trans (by rw [hok, State.legalIf_false]))

/-! ### From lanes to a uniform register -/

theorem exec_vote_none (h : Issuing s r) (d : SReg) (p : PReg) (op : VoteOp)
    (h0 : s.active r &&& (s.team r.tok).allLanes = 0) : exec (.vote d p op) s = .next (s.advance r 1) := by
  refine (issued_next h _).trans ?_
  dsimp only
  rw [if_pos h0]

/-- What a vote answers, of the active lanes and those of them that hold the mask (R208). -/
def voteValue (act hit : Mask) : VoteOp → DWord
  | .any => if hit = 0 then 0 else 1
  | .all => if hit = act then 1 else 0
  | .ballot k => hit.extractLsb' (64 * k.toNat) 64

theorem exec_vote (h : Issuing s r) (d : SReg) (p : PReg) (op : VoteOp)
    (h0 : s.active r &&& (s.team r.tok).allLanes ≠ 0) :
    let act := s.active r &&& (s.team r.tok).allLanes
    let hit := act &&& s.pget r p
    exec (.vote d p op) s = .next ((s.sset r d (voteValue act hit op)).advance r 1) := by
  refine (issued_next h _).trans ?_
  dsimp only
  rw [if_neg h0]
  cases op with
  | any => simp only [bne_iff_ne, ne_eq, ite_not]; rfl
  | all => simp only [beq_iff_eq]; rfl
  | ballot k => rfl

theorem exec_mcnt (h : Issuing s r) (d : SReg) (p : PReg) :
    exec (.mcnt d p) s = .next (if s.active r &&& (s.team r.tok).allLanes = 0 then s.advance r 1
      else (s.sset r d (BitVec.ofNat 64 ((lanesOf (s.team r.tok) (s.active r)).filter
        fun l => (s.pget r p).getLsbD l).length)).advance r 1) := by
  refine (issued_next h _).trans ?_
  have act : lanesOf (s.team r.tok) (s.active r &&& (s.team r.tok).allLanes) = lanesOf (s.team r.tok) (s.active r) := by
    rw [lanesOf_and]
    refine List.filter_eq_self.2 fun l hl => ?_
    rw [Team.getLsbD_allLanes, decide_eq_true (mem_lanesOf.1 hl).1, decide_eq_true (lanesOf_lt hl), Bool.and_self]
  dsimp only
  rw [lanesOf_and, act]
  rfl

theorem exec_bcast (h : Issuing s r) (d : SReg) (a : VReg) (b : Option SReg) (hr : s.eOk r (s.ty r) [a] = true) :
    (lanesOf (s.team r.tok) (s.active r) = [] → exec (.bcast d a b) s = .next (s.advance r 1)) ∧
    ∀ e rest, lanesOf (s.team r.tok) (s.active r) = e :: rest →
      let m := (b.map fun q => (s.sget r q).toNat).getD e
      exec (.bcast d a b) s = .next ((s.sset r d (BitVec.ofNat 64
        (if m < (s.team r.tok).width then (s.team r.tok).eget (s.ty r) a m else 0))).advance r 1) := by
  refine ⟨fun hl => (issued_next h _).trans ?_, fun e rest hl => (issued_next h _).trans ?_⟩
  · dsimp only
    rw [hr, State.legalIf_true, hl]
  · dsimp only
    rw [hr, State.legalIf_true, hl]
    cases b <;> rfl

theorem laneToUniform : Rules.LaneToUniform := by
  intro s r d b a p k h
  dsimp only
  refine ⟨fun h0 => ⟨?_, ?_, ?_, ?mcnt0⟩, fun h0 => ⟨?_, ?_, ?_, ?mcnt⟩, fun hr => ⟨fun hl => ⟨?_, ?_⟩, fun e rest hl => ⟨?own, ?_⟩⟩,
    fun hr => ⟨?_, ?_⟩⟩
  case mcnt0 => exact movesOn_advance (by rw [exec_mcnt h, if_pos h0])
  case mcnt => exact writesS_advance (by rw [exec_mcnt h, if_neg h0])
  case own =>
    have he : e < (s.team r.tok).width := (mem_lanesOf.1 (hl ▸ List.mem_cons_self ..)).1
    have run := (exec_bcast h d a none hr).2 e rest hl
    dsimp only [Option.map_none, Option.getD_none] at run
    rw [if_pos he] at run
    exact writesS_advance run
  · exact movesOn_advance (exec_vote_none h d p _ h0)
  · exact movesOn_advance (exec_vote_none h d p _ h0)
  · exact movesOn_advance (exec_vote_none h d p _ h0)
  · exact writesS_advance (exec_vote h d p .any h0)
  · exact writesS_advance (exec_vote h d p .all h0)
  · exact writesS_advance (exec_vote h d p (.ballot k) h0)
  · exact movesOn_advance ((exec_bcast h d a _ hr).1 hl)
  · exact movesOn_advance ((exec_bcast h d a _ hr).1 hl)
  · exact writesS_advance ((exec_bcast h d a (some b) hr).2 e rest hl)
  · exact illegal_legalIf h rfl hr
  · exact illegal_legalIf h rfl hr

/-! ### Folds -/

/-- One step of a fold, that keeps the STATUS bits of the steps before it. -/
def foldOn (f : Nat → Nat → Nat × BitVec 7) (x : Nat × BitVec 7) (y : Nat) : Nat × BitVec 7 :=
  ((f x.1 y).1, x.2 ||| (f x.1 y).2)

theorem foldLanes_go_getD (f : Nat → Nat → Nat × BitVec 7) (ys : List Nat) (acc : Nat) (st : BitVec 7) {k : Nat}
    (hk : k ≤ ys.length) : (foldLanes.go f acc st ys).getD k (0, 0) = (ys.take k).foldl (foldOn f) (acc, st) := by
  induction ys generalizing acc st k with
  | nil =>
    obtain rfl : k = 0 := by simpa using hk
    rfl
  | cons y ys ih =>
    cases k with
    | zero => rfl
    | succ k =>
      rw [foldLanes.go, List.getD_cons_succ, ih _ _ (by simpa using hk)]
      rfl

/-- The fold of the elements j of some lanes is that of a column of running folds. -/
theorem foldLanes_getD (s : State) (r : PathRef) (op : FoldOp) (a : VReg) (j : Nat) (ls : List Nat) {k : Nat}
    (hk : k < ls.length) :
    (foldLanes (foldStep op (s.ty r) (s.rnd r) (s.sat r)) (ls.map fun l => elemAt (s.ty r) ((s.team r.tok).eget (s.ty r) a l) j)).getD
      k (0, 0) = foldTo s r op a j (ls.take (k + 1)) := by
  cases ls with
  | nil => exact absurd hk (Nat.not_lt_zero k)
  | cons l ls =>
    rw [List.map_cons, foldLanes, foldLanes_go_getD _ _ _ _ (by simpa using Nat.lt_succ_iff.1 hk), ← List.map_take,
      List.foldl_map]
    rfl

/-- The value of the folds of some lanes, and the STATUS bits of their steps. -/
def foldValue (s : State) (r : PathRef) (op : FoldOp) (a : VReg) (ls : List Nat) : Nat :=
  packElems (s.ty r).width ((List.range (s.ty r).count).map fun j => (foldTo s r op a j ls).1)

def foldStatus (s : State) (r : PathRef) (op : FoldOp) (a : VReg) (ls : List Nat) : BitVec 7 :=
  ((List.range (s.ty r).count).map fun j => (foldTo s r op a j ls).2).foldl (· ||| ·) 0

/-- The lanes up to the k-th of an ascending list are the first of it. -/
theorem filter_le_getElem {ls : List Nat} (hs : ls.Pairwise (· < ·)) {k : Nat} (hk : k < ls.length) :
    ls.filter (fun m => decide (m ≤ ls[k])) = ls.take (k + 1) := by
  induction ls generalizing k with
  | nil => exact absurd hk (Nat.not_lt_zero k)
  | cons l ls ih =>
    obtain ⟨least, hs⟩ := List.pairwise_cons.1 hs
    cases k with
    | zero =>
      rw [List.getElem_cons_zero, List.filter_cons_of_pos (by simp), List.filter_eq_nil_iff.2 fun m hm => by simpa using least m hm]
      rfl
    | succ k =>
      have hk : k < ls.length := by simpa using hk
      have low : l ≤ ls[k] := (least _ (List.getElem_mem hk)).le
      rw [List.getElem_cons_succ, List.filter_cons_of_pos (by simpa using low), ih hs hk]
      rfl

theorem lanesOf_pairwise (t : Team) (m : Mask) : (lanesOf t m).Pairwise (· < ·) := List.pairwise_lt_range.filter _

/-- R209: the folds of the active lanes, each over the lanes up to its own. -/
theorem folds_eq (s : State) (r : PathRef) (op : FoldOp) (a : VReg) :
    s.folds r op a = (lanesOf (s.team r.tok) (s.active r)).map fun l =>
      (foldValue s r op a ((lanesOf (s.team r.tok) (s.active r)).filter fun m => decide (m ≤ l)),
        foldStatus s r op a ((lanesOf (s.team r.tok) (s.active r)).filter fun m => decide (m ≤ l))) := by
  refine List.ext_getElem (by simp [State.folds]) fun k h₁ h₂ => ?_
  have hk : k < (lanesOf (s.team r.tok) (s.active r)).length := by simpa using h₂
  have cols : ∀ j, (foldLanes (foldStep op (s.ty r) (s.rnd r) (s.sat r)) ((lanesOf (s.team r.tok) (s.active r)).map fun l =>
      elemAt (s.ty r) ((s.team r.tok).eget (s.ty r) a l) j)).getD k (0, 0) =
      foldTo s r op a j ((lanesOf (s.team r.tok) (s.active r)).take (k + 1)) := fun j => foldLanes_getD s r op a j _ hk
  simp only [State.folds, List.getElem_map, List.getElem_range, List.map_map, Function.comp_def, cols,
    filter_le_getElem (lanesOf_pairwise ..) hk]
  rfl

/-! ### The STATUS bits of the steps -/

theorem getLsbD_foldl_or (xs : List (BitVec 7)) (acc : BitVec 7) (k : Nat) :
    (xs.foldl (· ||| ·) acc).getLsbD k = true ↔ acc.getLsbD k = true ∨ ∃ x ∈ xs, x.getLsbD k = true := by
  induction xs generalizing acc with
  | nil => simp
  | cons x xs ih => rw [List.foldl_cons, ih]; simp [or_assoc]

theorem foldTo_status_le (s : State) (r : PathRef) (op : FoldOp) (a : VReg) (j m : Nat) (ls : List Nat) {k : Nat}
    (h : (foldTo s r op a j (ls.take m)).2.getLsbD k = true) : (foldTo s r op a j ls).2.getLsbD k = true := by
  have keeps : ∀ (f : Nat → Nat → Nat × BitVec 7) (ys : List Nat) (x : Nat × BitVec 7), x.2.getLsbD k = true →
      (ys.foldl (foldOn f) x).2.getLsbD k = true := by
    intro f ys
    induction ys with
    | nil => exact fun x hx => hx
    | cons y ys ih => exact fun x hx => ih _ (by simp [foldOn, hx])
  have split : ∀ l (ys zs : List Nat), (foldTo s r op a j (l :: (ys ++ zs))) =
      (zs.map fun m => elemAt (s.ty r) ((s.team r.tok).eget (s.ty r) a m) j).foldl
        (foldOn (foldStep op (s.ty r) (s.rnd r) (s.sat r))) (foldTo s r op a j (l :: ys)) := by
    intro l ys zs
    rw [foldTo, List.foldl_append, List.foldl_map]
    rfl
  rcases ls with _ | ⟨l, ls⟩
  · simpa using h
  · rcases m with _ | m
    · simp [foldTo] at h
    · rw [← List.take_append_drop m ls, split]
      exact keeps _ _ _ h

/-- The STATUS bits of the folds of all lanes hold those of every lane's. -/
theorem foldl_foldStatus (s : State) (r : PathRef) (op : FoldOp) (a : VReg) :
    ((s.folds r op a).map (·.2)).foldl (· ||| ·) 0 = foldStatus s r op a (lanesOf (s.team r.tok) (s.active r)) := by
  refine BitVec.eq_of_getLsbD_eq fun k _ => Bool.eq_iff_iff.2 ?_
  rw [folds_eq]
  generalize hls : lanesOf (s.team r.tok) (s.active r) = ls
  have sorted : ls.Pairwise (· < ·) := hls ▸ lanesOf_pairwise ..
  have bit : ∀ xs, (foldStatus s r op a xs).getLsbD k = true ↔
      ∃ j < (s.ty r).count, (foldTo s r op a j xs).2.getLsbD k = true := fun xs => by
    simp [foldStatus, getLsbD_foldl_or]
  rw [bit]
  have zero : (0 : BitVec 7).getLsbD k = false := BitVec.getLsbD_zero
  simp only [getLsbD_foldl_or, List.map_map, List.mem_map, Function.comp_apply, exists_exists_and_eq_and, bit,
    zero, Bool.false_eq_true, false_or]
  constructor
  · rintro ⟨l, hl, j, hj, hb⟩
    obtain ⟨m, hm, rfl⟩ := List.getElem_of_mem hl
    rw [filter_le_getElem sorted hm] at hb
    exact ⟨j, hj, foldTo_status_le s r op a j _ _ hb⟩
  · rintro ⟨j, hj, hb⟩
    have some_lane : ls ≠ [] := by rintro rfl; simp [foldTo] at hb
    have hm : ls.length - 1 < ls.length := Nat.sub_lt (List.length_pos_iff.2 some_lane) one_pos
    refine ⟨ls[ls.length - 1], List.getElem_mem hm, j, hj, ?_⟩
    rw [filter_le_getElem sorted hm, Nat.sub_add_cancel (by omega), List.take_length]
    exact hb

theorem zip_map_self {α β : Type} (xs : List α) (f : α → β) : xs.zip (xs.map f) = xs.map fun x => (x, f x) := by
  induction xs with
  | nil => rfl
  | cons x xs ih => rw [List.map_cons, List.zip_cons_cons, ih]; rfl

/-- The last fold is that of all active lanes. -/
theorem folds_getLast {op : FoldOp} {a : VReg} (hl : lanesOf (s.team r.tok) (s.active r) ≠ []) :
    (s.folds r op a).getLast? = some (foldValue s r op a (lanesOf (s.team r.tok) (s.active r)),
      foldStatus s r op a (lanesOf (s.team r.tok) (s.active r))) := by
  rw [folds_eq]
  have sorted := lanesOf_pairwise (s.team r.tok) (s.active r)
  generalize lanesOf (s.team r.tok) (s.active r) = ls at hl sorted
  have hm : ls.length - 1 < ls.length := Nat.sub_lt (List.length_pos_iff.2 hl) one_pos
  rw [List.getLast?_eq_getElem?, List.length_map, List.getElem?_map, List.getElem?_eq_getElem hm, Option.map_some,
    filter_le_getElem sorted hm, Nat.sub_add_cancel (by omega), List.take_length]

theorem exec_red (h : Issuing s r) {op : FoldOp} {a : VReg} (x : SReg) (hop : foldOk op (s.ty r) = true)
    (hr : s.eOk r (s.ty r) [a] = true) :
    exec (.red op x a) s = .next (match (s.folds r op a).getLast? with
      | none => s.advance r 1
      | some y => ((s.sset r x (BitVec.ofNat 64 y.1)).addStatus r y.2).advance r 1) := by
  refine (issued_next h _).trans ?_
  dsimp only
  rw [hop, hr, Bool.and_self]
  exact congrArg _ (State.legalIf_true ..)

theorem scans : Rules.Scans := by
  intro s r op d a x h
  dsimp only
  refine ⟨fun hop => ⟨?_, ?_⟩, fun hop hr => ?scan, fun hop hr => ⟨fun hl => ?none, fun hl => ?red⟩⟩
  · exact illegal_legalIf h rfl (by rw [hop]; rfl)
  · exact illegal_legalIf h rfl (by rw [hop]; rfl)
  case scan =>
    refine writesV_laneWrites ((issued_next h _).trans ?_)
    dsimp only
    rw [hop, hr, Bool.and_self, State.legalIf_true, foldl_foldStatus, folds_eq, zip_map_self, List.flatMap_map]
    rfl
  case none =>
    have run := exec_red h x hop hr
    rw [folds_eq, hl] at run
    exact movesOn_advance run
  case red =>
    have run := exec_red h x hop hr
    rw [folds_getLast hl] at run
    have tail := fun v => localTo_addStatus_advance (s.sset r x v) r
      (foldStatus s r op a (lanesOf (s.team r.tok) (s.active r))) 1
    have frame := fun v => (localTo_sset s r x v).trans (tail v)
    refine ⟨_, run, fun q => ?_, ?_, (frame _).vectors, (frame _).masks, (frame _).team, (frame _).only, (frame _).only.sameMemory⟩
    · rw [State.sget_addStatus_advance, State.sget_sset]
      rfl
    · rw [State.path_addStatus_advance, State.path_sset]
      rfl

/-- Settles O23: votes, counts and broadcasts; scans and reductions. -/
theorem lanesToOne : Obligations.LanesToOne := ⟨laneToUniform, scans⟩

end Sys2Proof.Machine
end

section
/-! SUPPORT. Taking a stop (R447 to R451), and the returns (R401, R449). -/

namespace Sys2Proof.Machine
open Sys2Proof.Tests

variable {s : State} {r q : PathRef} {i : Instr}

/-! ### A record of the other die in the same tick -/

/-- A bench on die 0 whose context has a fault queue of two records at 0, one of them written: a record of die 1 in
the present tick. -/
def afterDieOne : State :=
  let s := { bn 0x28 with ctxs := [(0, { Ctx.none with record := ⟨true, 0, 0, 0, 0, 2, 0, 0⟩ })] }
  (s.putBytes 0 [1]).putBytes (64 + 40) [0x20]

theorem afterDieOne_hyps : Issuing afterDieOne r0 ∧ (afterDieOne.path r0).stop = none ∧
    isHostKey ((afterDieOne.ctx (afterDieOne.ctxOf r0)).record.fqbase + 64 + 128 * (afterDieOne.ctx (afterDieOne.ctxOf r0)).record.fqsize) =
      isHostKey (afterDieOne.ctx (afterDieOne.ctxOf r0)).record.fqbase ∧
    (afterDieOne.ctx (afterDieOne.ctxOf r0)).heldRec = [] ∧ afterDieOne.fqRoom (afterDieOne.ctxOf r0) = true :=
  ⟨iss (by decide +kernel), by decide +kernel⟩

/-- The new record comes before that of die 1, which moves on to the place the queue had free. -/
theorem afterDieOne_handle : (afterDieOne.takeStop r0 { cause := 1 }).memNat (64 + 128) 8 = 0 ∧
    (afterDieOne.takeStop r0 { cause := 1 }).memNat 64 8 = 2 ^ 24 := by decide +kernel

/-- Refutes O9: where the fault queue's last record is of die 1 and of the same tick, a stop on die 0 writes its record
before it (R450), and what stands at the place of the producer index is the record that was moved. -/
theorem not_takingAStop : ¬ Obligations.TakingAStop := by
  unfold Obligations.TakingAStop
  intro holds
  obtain ⟨issuing, running, host, held, room⟩ := afterDieOne_hyps
  obtain ⟨-, -, -, -, -, -, -, -, record⟩ := holds afterDieOne r0 { cause := 1 } issuing running
  obtain ⟨-, handle, -⟩ := record host held room
  have place : (afterDieOne.ctx (afterDieOne.ctxOf r0)).record.fqbase + 64 + 128 *
      (afterDieOne.memNat (afterDieOne.ctx (afterDieOne.ctxOf r0)).record.fqbase 4 %
        (afterDieOne.ctx (afterDieOne.ctxOf r0)).record.fqsize) = 64 + 128 := by decide +kernel
  rw [place, afterDieOne_handle.1] at handle
  exact absurd handle (by decide +kernel)

/-! ### What names a path's crew, core and context is not changed by moving a path -/

theorem State.crewNo_modPath (s : State) (r q : PathRef) (f : Path → Path) : (s.modPath r f).crewNo q = s.crewNo q := by
  rw [State.crewNo, State.team_modPath]
  split
  · cases hp : r.path <;> rfl
  · rfl

theorem State.crewOf_modPath (s : State) (r q : PathRef) (f : Path → Path) : (s.modPath r f).crewOf q = s.crewOf q :=
  congrArg s.crew (State.crewNo_modPath s r q f)

theorem State.ctxOf_modPath (s : State) (r q : PathRef) (f : Path → Path) : (s.modPath r f).ctxOf q = s.ctxOf q :=
  congrArg (fun c : Crew => (s.grid c.grid).ctx) (State.crewOf_modPath s r q f)

theorem State.coreOf_modPath (s : State) (r q : PathRef) (f : Path → Path) : (s.modPath r f).coreOf q = s.coreOf q :=
  congrArg Crew.core (State.crewOf_modPath s r q f)

theorem State.ctxOf_advance (s : State) (r q : PathRef) (n : Nat) : (s.advance r n).ctxOf q = s.ctxOf q :=
  State.ctxOf_modPath ..

theorem State.coreOf_advance (s : State) (r q : PathRef) (n : Nat) : (s.advance r n).coreOf q = s.coreOf q :=
  State.coreOf_modPath ..

/-! ### What a return does, by what its handle names -/

theorem tret_path (h : BitVec 64) (act : Act) (hf : s.allPaths.find? (fun q => (s.path q).holds h) = some q)
    (hp : s.ctxPart (s.ctxOf q) = s.ctxPart (s.ctxOf r)) : s.tret r h act = s.tretPath q act := by
  simp only [State.tret, hf, hp, beq_self_eq_true, if_true]

theorem tret_none (h : BitVec 64) (act : Act) (hf : s.allPaths.find? (fun q => (s.path q).holds h) = none)
    (hs : s.savedStop h = none) (he : s.engineStopped h = none) :
    s.tret r h act = s.logRefused (s.coreOf r) (some (s.ctxOf r)) 0 h.toNat := by
  simp only [State.tret, hf, hs, he, State.refused, State.writer]

theorem tret_engine {e : EngCmd} {late : Bool} (h : BitVec 64) (act : Act)
    (hf : s.allPaths.find? (fun q => (s.path q).holds h) = none)
    (hs : s.savedStop h = none) (he : s.engineStopped h = some (e, late)) (hp : s.ctxPart e.ctx = s.ctxPart (s.ctxOf r)) :
    s.tret r h act = s.tretEngine e late act := by
  simp only [State.tret, hf, hs, he, hp, beq_self_eq_true, if_true]

theorem exec_tret (h : Issuing s r) (hk : s.kernel r = true) (a b : SReg) :
    exec (.tretRes a b) s = .next ((s.advance r 1).tret r (s.sget r a) .res) ∧
    exec (.tretVal a b) s = .next ((s.advance r 1).tret r (s.sget r a) (.val (s.sget r b))) ∧
    exec (.tretKill a b) s = .next ((s.advance r 1).tret r (s.sget r a) .kill) := by
  refine ⟨?_, ?_, ?_⟩ <;> exact (issued_next h _).trans (congrArg _ (State.privileged_kernel _ hk))

/-- Settles O11: the handle names a path, nothing, or an engine command. -/
theorem returnsFromStops : Obligations.ReturnsFromStops := by
  intro s r q a b h hk
  dsimp only
  obtain ⟨res, val, kill⟩ := exec_tret h hk a b
  rw [res, val, kill]
  refine ⟨fun hf hp => ?path, fun hf hs he => ?nothing, fun e late hf hs he hp => ?engine⟩
  case path =>
    have part : (s.advance r 1).ctxPart ((s.advance r 1).ctxOf q) = (s.advance r 1).ctxPart ((s.advance r 1).ctxOf r) := by
      rw [State.ctxOf_advance, State.ctxOf_advance]
      exact hp
    simp only [tret_path (r := r) _ _ hf part]
    refine ⟨rfl, fun dead => ?_, fun alive => ?_⟩
    · simp only [State.tretPath, dead, Option.getD_some, if_true, and_self]
    · simp only [State.tretPath, alive, Option.getD_some, Bool.false_eq_true, if_false]
      exact ⟨rfl, rfl⟩
  case nothing =>
    simp only [tret_none (s := s.advance r 1) (r := r) _ _ hf hs he, State.coreOf_advance, State.ctxOf_advance, and_self]
  case engine =>
    have part : (s.advance r 1).ctxPart e.ctx = (s.advance r 1).ctxPart ((s.advance r 1).ctxOf r) := by
      rw [State.ctxOf_advance]
      exact hp
    simp only [tret_engine (s := s.advance r 1) (r := r) _ _ hf hs he part]
    exact ⟨rfl, rfl, rfl⟩

end Sys2Proof.Machine
end

section
/-! SUPPORT. Divergence: branches, joins and masks of paths (R153, R161 to R164, R170, R213). -/

namespace Sys2Proof.Machine

variable {s : State} {r : PathRef} {i : Instr}

/-! ### Branches -/

theorem Path.advance_with_stack_xm (p : Path) (st : List StackEntry) (m : Mask) (n : Nat) :
    ({ p with stack := st, xm := m } : Path).advance n = { p.advance n with stack := st, xm := m } := by
  cases hm : p.mac <;> simp only [Path.advance, hm]

theorem Path.advance_with_xm_domain (p : Path) (m d : Mask) (n : Nat) :
    ({ p with xm := m, domain := d } : Path).advance n = { p.advance n with xm := m, domain := d } := by
  cases hm : p.mac <;> simp only [Path.advance, hm]

theorem Path.advance_xm (p : Path) (n : Nat) : (p.advance n).xm = p.xm := by
  cases hm : p.mac <;> simp only [Path.advance, hm]

theorem Path.advance_stack (p : Path) (n : Nat) : (p.advance n).stack = p.stack := by
  cases hm : p.mac <;> simp only [Path.advance, hm]

/-- The lanes of a path that a branch takes. -/
def takenLanes (s : State) (r : PathRef) (neg : Bool) (p : PReg) : Mask :=
  s.active r &&& (if neg then ~~~ s.pget r p else s.pget r p)

/-- The state after a branch that divides its team. -/
def divided (s : State) (r : PathRef) (lanes : Mask) (tgt jn : DWord) : State :=
  ({ s with flight := s.flight.map fun (f : Flight) => if f.r = r then { f with both := true } else f } : State).modTeam
    r.tok fun t => t.divide lanes tgt jn s.nextSer

/-- The entry that a nested branch pushes. -/
def branchEntry (s : State) (r : PathRef) (joff : BitVec 16) : StackEntry :=
  ⟨false, (s.path r).xm, 0, 0, ((s.path r).pc + 4 * joff.signExtend 64).setWidth 56, false⟩

theorem exec_brp_outer (h : Issuing s r) (neg : Bool) (p : PReg) (toff joff : BitVec 16) (hd : s.depth r = 0) :
    exec (.brp neg p toff joff) s = .next (
      if takenLanes s r neg p = 0 then s.advance r 2
      else if takenLanes s r neg p = s.active r then s.transfer r ((s.path r).pc + 4 * toff.signExtend 64)
      else divided s r (takenLanes s r neg p) ((s.path r).pc + 4 * toff.signExtend 64) ((s.path r).pc + 4 * joff.signExtend 64)) := by
  rw [← State.relTarget_eq, ← State.relTarget_eq]
  exact (issued_next h _).trans (congrArg _ (if_pos hd))

theorem exec_brp_nested (h : Issuing s r) (neg : Bool) (p : PReg) (toff joff : BitVec 16) (hd : s.depth r ≠ 0) :
    exec (.brp neg p toff joff) s = .next (
      if 32 ≤ (s.path r).stack.length then s.takeStop r { cause := 15, sub := 1 }
      else
        let push := fun e xm => s.modPath r fun p => { p with stack := e :: p.stack, xm := xm }
        if takenLanes s r neg p = 0 then (push (branchEntry s r joff) (s.path r).xm).advance r 2
        else if takenLanes s r neg p = s.active r then
          (push (branchEntry s r joff) (s.path r).xm).transfer r ((s.path r).pc + 4 * toff.signExtend 64)
        else (push { branchEntry s r joff with
            pend := takenLanes s r neg p, ppc := ((s.path r).pc + 4 * toff.signExtend 64).setWidth 56 }
          ((s.path r).xm &&& ~~~ takenLanes s r neg p)).advance r 2) := by
  rw [branchEntry, ← State.relTarget_eq, ← State.relTarget_eq]
  exact (issued_next h _).trans (congrArg _ (if_neg hd))

theorem team_divided (s : State) (r : PathRef) (lanes : Mask) (tgt jn : DWord) (k : Nat) :
    (divided s r lanes tgt jn).team k = if k = r.tok then (s.team r.tok).divide lanes tgt jn s.nextSer else s.team k :=
  State.team_modTeam ..

theorem branchAtDepthZero : Rules.BranchAtDepthZero := by
  intro s r neg p toff joff h hs hdiv hr
  dsimp only
  have run := exec_brp_outer h neg p toff joff (by rw [State.depth, hs, hdiv]; rfl)
  refine ⟨fun (h0 : takenLanes s r neg p = 0) => ?falls, fun (h0 : takenLanes s r neg p ≠ 0) (hall : takenLanes s r neg p = s.active r) => ?transfers,
    fun (h0 : takenLanes s r neg p ≠ 0) (hsome : takenLanes s r neg p ≠ s.active r) => ?divides⟩
  case falls =>
    rw [if_pos h0] at run
    exact movesOn_advance run
  case transfers =>
    rw [if_neg h0, if_pos hall] at run
    exact moves_transfer run
  case divides =>
    rw [if_neg h0, if_neg hsome] at run
    have team := team_divided s r (takenLanes s r neg p) ((s.path r).pc + 4 * toff.signExtend 64) ((s.path r).pc + 4 * joff.signExtend 64)
    have own := (team r.tok).trans (if_pos rfl)
    have path0 : s.path r = (s.team r.tok).path0 := by rw [State.path, hr]; rfl
    refine ⟨_, run, fun _ => rfl, rfl, fun q l => ?_, fun q => ?_, fun q => ?_, fun k hk => (team k).trans (if_neg hk), ?_, ?_, ?_, ?_⟩
    · rw [State.vget, own]; rfl
    · rw [State.sget, own]; rfl
    · rw [State.pget, own]; rfl
    · rw [own]; rfl
    · rw [own]; rfl
    · rw [State.path, own, hr, path0]
      exact Path.advance_with_xm_domain ..
    · rw [State.path, own, path0]
      refine ⟨?_, rfl, rfl, rfl, rfl, rfl, rfl, rfl, rfl, rfl⟩
      exact (congrArg Path.live path0).symm.trans h.live

theorem branchNested : Rules.BranchNested := by
  intro s r neg p toff joff h hd
  dsimp only
  have run := exec_brp_nested h neg p toff joff (Nat.pos_iff_ne_zero.1 hd)
  refine ⟨fun hfull => ?full, fun hroom (h0 : takenLanes s r neg p = 0) => ?none, fun hroom (h0 : takenLanes s r neg p ≠ 0) (hall : takenLanes s r neg p = s.active r) => ?all,
    fun hroom (h0 : takenLanes s r neg p ≠ 0) (hsome : takenLanes s r neg p ≠ s.active r) => ?some⟩
  case full => exact run.trans (congrArg _ (if_pos hfull))
  all_goals rw [if_neg (Nat.not_le.2 hroom)] at run
  case none =>
    rw [if_pos h0] at run
    have moved := moves_modPath_advance run
    rw [Path.advance_with_stack_xm, ← Path.advance_xm (s.path r) 2] at moved
    exact moved
  case all =>
    rw [if_neg h0, if_pos hall] at run
    exact moves_modPath_transfer run
  case some =>
    rw [if_neg h0, if_neg hsome] at run
    have moved := moves_modPath_advance run
    rw [Path.advance_with_stack_xm] at moved
    exact moved

/-- Settles O15: at depth 0, and inside a division or an open entry. -/
theorem branches : Obligations.Branches := ⟨branchAtDepthZero, branchNested⟩

/-! ### Joins -/

theorem exec_join_nil (h : Issuing s r) (hs : (s.path r).stack = []) :
    exec .join s = .next (
      if (s.team r.tok).divided then
        if (s.path r).pc ≠ (s.team r.tok).djoin then s.takeStop r { cause := 15, sub := 2 }
        else if (s.path r).flags = 0 then
          match (s.path r).poison with
          | n :: ns => (s.modPath r fun p => { p with poison := ns }).takeStop r (poisonStop n)
          | [] => s.waitFor r .join
        else s.waitFor r .join
      else s.transfer r ((s.path r).pc + 4)) := by
  refine (issued_next h _).trans ?_
  dsimp only
  rw [hs] <;> rfl

theorem exec_join_cons (h : Issuing s r) {e : StackEntry} {rest : List StackEntry} (hs : (s.path r).stack = e :: rest) :
    exec .join s = .next (
      if (s.path r).pc ≠ e.join.setWidth 64 then s.takeStop r { cause := 15, sub := 2 }
      else if e.pend != 0 then
        (s.modPath r fun p => { p with xm := e.pend, stack := { e with pend := 0, rsm := e.rsm || e.indirect } :: rest }).transfer
          r (e.ppc.setWidth 64)
      else
        let st := s.transfer r ((s.path r).pc + 4)
        let q := { st.path r with xm := e.outer &&& ~~~ (s.team r.tok).retired, stack := rest }
        if q.xm != 0 then st.setPath r q else s.setMask r q (s.team r.tok).retired id) := by
  refine (issued_next h _).trans ?_
  dsimp only
  rw [hs]

theorem moves_setPath {p : Path} (e : exec i s = .next (s.setPath r p)) : Moves i s r p := moves_modPath (f := fun _ => p) e

theorem moves_modPath_setPath {f : Path → Path} {p : Path} (e : exec i s = .next ((s.modPath r f).setPath r p)) :
    Moves i s r p := by
  have hl := (localTo_modPath s r f).trans (localTo_modPath (s.modPath r f) r fun _ => p)
  refine moves_of_localTo e hl (fun q => ?_) (State.path_modPath_same _ r fun _ => p)
  exact (State.sget_modPath _ r (fun _ => p) q r).trans (State.sget_modPath s r f q r)

theorem joins : Rules.Joins := by
  intro s r h
  dsimp only
  refine ⟨fun e rest hs => ⟨fun hpc => ?wrong, fun hpc hp => ?pending, fun hpc hp hm => ?closes⟩, fun hs hd hpc => ?wrongMerge,
    fun hs hd hpc hf => ?waits, fun hs hd => ?next⟩
  case wrong => rw [exec_join_cons h hs, if_pos hpc]
  case pending =>
    have run := exec_join_cons h hs
    rw [if_neg (not_not.2 hpc), if_pos (by simpa using hp)] at run
    exact moves_modPath_transfer run
  case closes =>
    have run := exec_join_cons h hs
    rw [if_neg (not_not.2 hpc), if_neg (by simpa using hp)] at run
    dsimp only at run
    rw [if_pos (by simpa using hm)] at run
    have path : (s.transfer r ((s.path r).pc + 4)).path r = Jumped (s.path r) ((s.path r).pc + 4) := State.path_modPath_same s r _
    rw [path] at run
    exact moves_modPath_setPath run
  case wrongMerge => rw [exec_join_nil h hs, if_pos hd, if_pos hpc]
  case waits =>
    have run := exec_join_nil h hs
    rw [if_pos hd, if_neg (not_not.2 hpc)] at run
    by_cases h0 : (s.path r).flags = 0
    · rw [if_pos h0, hf.resolve_left (not_not.2 h0)] at run
      exact moves_modPath run
    · rw [if_neg h0] at run
      exact moves_modPath run
  case next =>
    have run := exec_join_nil h hs
    rw [if_neg (by rw [hd]; exact Bool.false_ne_true)] at run
    exact moves_transfer run

/-! ### Masks -/

/-- A team with other retired lanes and another state of one path: registers, masks and the other teams stay. -/
def retireTo (s : State) (r : PathRef) (m : Mask) (p : Path) : State :=
  (s.modTeam r.tok fun t => { t with retired := m }).setPath r p

theorem team_retireTo (s : State) (r : PathRef) (m : Mask) (p : Path) (k : Nat) :
    (retireTo s r m p).team k = if k = r.tok then ({ s.team r.tok with retired := m } : Team).setPath r.path p else s.team k := by
  rw [retireTo, State.setPath, State.team_modTeam, State.team_modTeam, State.team_modTeam, if_pos rfl]
  split <;> rfl

theorem retireTo_facts (s : State) (r : PathRef) (m : Mask) (p : Path) :
    let u := retireTo s r m p
    u.path r = p ∧ (u.team r.tok).retired = m ∧ SameV s u r ∧ SameS s u r ∧ SameP s u r ∧ OnlyTeams s u ∧ SameMemory s u ∧
      ∀ k, k ≠ r.tok → u.team k = s.team k := by
  have own := (team_retireTo s r m p r.tok).trans (if_pos rfl)
  refine ⟨?_, ?_, fun q l => ?_, fun q => ?_, fun q => ?_, rfl, fun _ => rfl, fun k hk => (team_retireTo s r m p k).trans (if_neg hk)⟩
  · rw [State.path, own, Team.path_setPath, if_pos rfl]
  · rw [own]; cases r.path <;> rfl
  · rw [State.vget, own]; cases r.path <;> rfl
  · rw [State.sget, own]; cases r.path <;> rfl
  · rw [State.pget, own]; cases r.path <;> rfl

theorem unwind_pending {p : Path} {e : StackEntry} {rest : List StackEntry} (m : Mask) (hx : p.xm = 0)
    (hs : p.stack = e :: rest) (hp : e.pend ≠ 0) :
    p.unwind m = { p with
      xm := e.pend, pc := e.ppc.setWidth 64, stack := { e with pend := 0, rsm := e.rsm || e.indirect } :: rest,
      inClause := false, widx := 0, ll := 0, mac := none } := by
  rw [Path.unwind, hs, unwindGo, if_neg (by simp [hx]), if_pos (by simpa using hp)]

/-- R153: the operations of a `macroWord` follow. -/
theorem exec_macroWord (h : Issuing s r) (k : BitVec 6) (p0 p1 : BitVec 8) :
    exec (.macroWord k p0 p1) s = .next (s.legalIf r (decide (k.toNat < (s.crewOf r).macros.length))
      (s.modPath r fun p => { p with mac := some ⟨k.toNat, p0, p1, 0⟩ })) := issued_next h _

theorem masksOfPaths : Rules.MasksOfPaths := by
  intro s r neg p h
  dsimp only
  have exits : exec .exit s = .next (s.setMask r
      { (s.path r).advance 1 with xm := (s.path r).xm &&& ~~~ (s.active r &&& (s.team r.tok).allLanes) }
      ((s.team r.tok).retired ||| (s.active r &&& (s.team r.tok).allLanes))
      fun s' => s'.modTeam r.tok fun t => { t with retired := (s.team r.tok).retired ||| (s.active r &&& (s.team r.tok).allLanes) }) := by
    rw [← Path.advance_xm (s.path r) 1]
    exact issued_next h _
  refine ⟨fun hx => ?stays, fun hx e rest hs hp => ?unwinds, fun hm => ?xmset, fun k p0 p1 => ⟨fun hk => ?enters, fun hk => ?illegal⟩⟩
  case stays =>
    rw [State.setMask, if_pos (by simpa using hx)] at exits
    exact ⟨_, exits, retireTo_facts s r _ _⟩
  case unwinds =>
    have stack : ({ (s.path r).advance 1 with xm := (s.path r).xm &&& ~~~ (s.active r &&& (s.team r.tok).allLanes) } : Path).stack =
      e :: rest := (Path.advance_stack ..).trans hs
    rw [State.setMask, if_neg (by simpa using hx), unwind_pending _ hx stack hp] at exits
    dsimp only at exits
    rw [Path.ended, if_neg (by simp)] at exits
    exact ⟨_, exits, retireTo_facts s r _ _⟩
  case xmset =>
    have run : exec (.xmset neg p) s = .next (s.setMask r _ (s.team r.tok).retired id) := issued_next h _
    rw [State.setMask, if_pos] at run
    · exact moves_setPath run
    · exact bne_iff_ne.2 hm
  case enters =>
    have run := exec_macroWord h k p0 p1
    rw [decide_eq_true hk, State.legalIf_true] at run
    exact moves_modPath run
  case illegal => exact illegal_legalIf h rfl (decide_eq_false (Nat.not_lt.2 hk))

/-- Settles O16: `join`, and the masks of paths. -/
theorem joinsAndMasks : Obligations.JoinsAndMasks := ⟨joins, masksOfPaths⟩

end Sys2Proof.Machine
end

section
/-! SUPPORT. A step of a ready path: fetch, the clause, and the run of what a word decodes to (R119 to R128, R142, R154). -/

namespace Sys2Proof.Machine

variable {s s0 u : State} {r : PathRef} {rest : List Turn}

/-! ### Fetch -/

theorem fetch_of_fetches {va : DWord} {w : Word} (h : Fetches s r va w u) (k : State → Word → Taken) :
    s.fetch r va k = k u w := by
  obtain ⟨x, t, translated, sound, free, held, target, notImm, word⟩ := h
  simp only [State.fetch, translated, sound, free, held, target, Bool.false_or, Bool.false_eq_true, if_false]
  cases t with
  | imm => exact absurd rfl notImm
  | pod =>
    obtain ⟨waits, rfl, rfl⟩ := word
    simp only [waits, Bool.false_eq_true, if_false]
  | _ =>
    obtain ⟨rfl, rfl⟩ := word
    rfl

/-! ### The checks before an instruction executes -/

theorem bindIf_noLoads (f : Pend → LoadSet → Bool) (h : ∀ p ∈ s.pend, p.loads = none) : s.bindIf f = s := by
  rw [State.bindIf, List.filter_eq_nil_iff.2]
  · rfl
  · intro p hp
    simp [h p hp]

theorem regsHeld_noLoads (vs : List VReg) (ss : List SReg) (h : ∀ p ∈ s.pend, p.loads = none) :
    s.regsHeld r vs ss = false := by
  rw [State.regsHeld, List.any_eq_false]
  intro p hp
  simp [h p hp]

theorem any_late_eq_false (f : Late → Bool) (h : ∀ l ∈ s.late, l.r.tok ≠ r.tok) :
    (s.late.any fun l => l.r.tok == r.tok && f l) = false := by
  rw [List.any_eq_false]
  intro l hl
  simp [h l hl]

theorem find?_never {α : Type} (xs : List α) : xs.find? (fun _ => false) = none :=
  List.find?_eq_none.2 fun _ _ => Bool.false_ne_true

theorem any_never {α : Type} (xs : List α) : (xs.any fun _ => false) = false :=
  List.any_eq_false.2 fun _ _ => Bool.false_ne_true

theorem ready_of_unheld (h : Unheld s r) (i : Instr) : s.ready r i = .run i s := by
  obtain ⟨late, loads, live, poison, vErr, sErr⟩ := h
  simp only [State.ready, any_late_eq_false (s := s) (r := r) _ late, regsHeld_noLoads _ _ loads, State.bindRegs, bindIf_noLoads _ loads, live, poison,
    vErr, sErr]
  split
  · rfl
  · simp [readsNote, any_never, find?_never]

/-! ### The turn of a path -/

theorem step_of_turns (h : Turns s r rest) :
    step s = settle { s with agenda := rest } (runTaken r (({ s with agenda := rest } : State).takeUp r)) := by
  obtain ⟨agenda, due, may⟩ := h
  simp only [step, agenda, State.reaches, due, State.move, State.issue, may, if_true]

theorem path_takenUp (s : State) (r : PathRef) : (takenUp s r).path r = { s.path r with wait := .none } :=
  State.path_modPath_same s r fun p => { p with wait := .none }

/-- A live path whose word is taken up: an operation of its `macroWord`, or the word after it. -/
theorem takeUp_eq (s : State) (r : PathRef) :
    s.takeUp r = if !(s.path r).live then .over s else
      ((s.path r).mac.map fun m => ((((takenUp s r).crewOf r).macros.getD m.num [])[m.idx]?.map
        ((takenUp s r).issueMacro r m)).getD
          ((((takenUp s r).modPath r fun p => { p with mac := none }).advance r 1).issueNext r)).getD
        ((takenUp s r).issueNext r) := by
  change (if !(s.path r).live then .over s else
    match (s.path r).mac with
    | some m =>
      match (((takenUp s r).crewOf r).macros.getD m.num [])[m.idx]? with
      | some o => (takenUp s r).issueMacro r m o
      | none => (((takenUp s r).modPath r fun p => { p with mac := none }).advance r 1).issueNext r
    | none => (takenUp s r).issueNext r) = _
  generalize (s.path r).mac = mac
  generalize takenUp s r = v
  cases mac with
  | none => rfl
  | some m => cases hm : ((v.crewOf r).macros.getD m.num [])[m.idx]? <;> simp only [hm, Option.map_some, Option.map_none, Option.getD_some, Option.getD_none]

theorem takeUp_next (h : ((takenUp s r).path r).live = true) (hm : ((takenUp s r).path r).mac = none) :
    s.takeUp r = (takenUp s r).issueNext r := by
  rw [path_takenUp] at h hm
  rw [takeUp_eq, if_neg (by simpa using h), hm]
  rfl

theorem takeUp_macro {m : MacroRun} {o : MacroOp} (h : ((takenUp s r).path r).live = true)
    (hm : ((takenUp s r).path r).mac = some m) (ho : (((takenUp s r).crewOf r).macros.getD m.num [])[m.idx]? = some o) :
    s.takeUp r = (takenUp s r).issueMacro r m o := by
  rw [path_takenUp] at h hm
  rw [takeUp_eq, if_neg (by simpa using h), hm, Option.map_some, Option.getD_some, ho]
  rfl

/-- What a turn comes to: the path ends its step, or runs an instruction. -/
theorem endsAs_of_takeUp (h : Turns s r rest) (e : ({ s with agenda := rest } : State).takeUp r = .over u) :
    EndsAs s { s with agenda := rest } u := by
  rw [EndsAs, step_of_turns h, e]
  rfl

theorem runsAs_of_takeUp {i : Instr} (h : Turns s r rest) (e : ({ s with agenda := rest } : State).takeUp r = .run i u) :
    RunsAs s { s with agenda := rest } r i u := by
  have run := step_of_turns h
  rw [e, runTaken, State.runIssue] at run
  refine ⟨fun t ht hw => ?_, fun t ht hw => ?_, fun f hf => ?_, fun f hf => ?_⟩
  · simpa only [ht, hw, Bool.false_eq_true, if_false] using run
  · simpa only [ht, hw, if_true] using run
  · rw [hf] at run
    exact run
  · rw [hf] at run
    exact run

/-! ### Inside a clause -/

theorem issueWords_error {w lit : Word} {e : DecodeErr} (h : decode w lit = .error e) : s.issueWords r w lit = .over (s.illegal r) := by
  rw [State.issueWords, h]

theorem issueWords_ok {w lit : Word} {i : Instr} (h : decode w lit = .ok i) (hu : Unheld s r) :
    s.issueWords r w lit = .run i s := by
  rw [State.issueWords, h]
  exact ready_of_unheld hu i

/-- The word of a clause position that is no header, and its literal where it has one within the clause. -/
theorem issueClause_words {w lit : Word} {u2 : State} (hf : Fetches s r (s.path r).pc w u) (hw : isHeader w = false)
    (hl : (wordsOf w ≠ 2 ∧ lit = 0 ∧ u2 = u) ∨ (wordsOf w = 2 ∧
      (s.path r).widx + 1 ≤ (headerOf (s.path r).hdrWord).len.toNat ∧ Fetches u r ((s.path r).pc + 4) lit u2)) :
    s.issueClause r = u2.issueWords r w lit := by
  rw [State.issueClause, fetch_of_fetches hf, hw, if_neg Bool.false_ne_true]
  rcases hl with ⟨one, rfl, rfl⟩ | ⟨two, fits, lit⟩
  · rw [if_neg one]
  · rw [if_pos two, if_pos fits, fetch_of_fetches lit]

theorem stepRunsTheDecodedInstruction : Rules.StepRunsTheDecodedInstruction := by
  intro s r rest h
  dsimp only
  intro live
  refine ⟨fun w u mac inClause within fetched => ?_, fun m o i mac op legal decoded free => ?_⟩
  · have taken : ({ s with agenda := rest } : State).takeUp r = (takenUp { s with agenda := rest } r).issueClause r := by
      rw [takeUp_next live mac, State.issueNext, inClause, decide_eq_true within, Bool.and_self, if_pos rfl]
    refine ⟨fun header => endsAs_of_takeUp h ?_, fun word two long => endsAs_of_takeUp h ?_,
      fun lit u2 word hl => ⟨fun e bad => endsAs_of_takeUp h ?_, fun i decoded free => runsAs_of_takeUp h ?_⟩⟩
    · rw [taken, State.issueClause, fetch_of_fetches fetched, header, if_pos rfl]
    · rw [taken, State.issueClause, fetch_of_fetches fetched, word, if_neg Bool.false_ne_true, if_pos two,
        if_neg (Nat.not_le.2 long)]
    · rw [taken, issueClause_words fetched word hl, issueWords_error bad]
    · rw [taken, issueClause_words fetched word hl, issueWords_ok decoded free]
  · refine runsAs_of_takeUp h ?_
    rw [takeUp_macro live mac op, State.issueMacro, if_pos legal, issueWords_ok decoded free]

/-! ### At a clause's header -/

theorem clauseEntry : Rules.ClauseEntry := by
  intro s r rest w u h
  dsimp only
  intro live mac outside fetched
  have taken : ({ s with agenda := rest } : State).takeUp r = (takenUp { s with agenda := rest } r).enterClause r := by
    rw [takeUp_next live mac, State.issueNext, if_neg]
    rcases outside with out | beyond
    · rw [out]; exact Bool.false_ne_true
    · rw [decide_eq_false (Nat.not_le.2 beyond), Bool.and_false]; exact Bool.false_ne_true
  rw [State.enterClause, fetch_of_fetches fetched] at taken
  refine ⟨fun bad => endsAs_of_takeUp h (taken.trans ?_), fun header formed => ?_⟩
  · rw [if_pos]
    rcases bad with bad | bad <;> simp [bad]
  · rw [header, formed, if_neg (by decide)] at taken
    refine ⟨fun busy => endsAs_of_takeUp h (taken.trans (if_pos (bne_iff_ne.2 busy))), fun clear unpoisoned => ?_⟩
    rw [if_neg (by simpa using clear)] at taken
    dsimp only at taken
    rw [unpoisoned] at taken
    rw [step_of_turns h, taken]

/-- Settles O8: inside a clause, and at its header. -/
theorem stepsAndClauses : Obligations.StepsAndClauses := ⟨stepRunsTheDecodedInstruction, clauseEntry⟩

end Sys2Proof.Machine
end

section
/-! SUPPORT. Loads and stores of the crew's own scratchpad (R251, R258). -/

namespace Sys2Proof.Machine

variable {s u : State} {r : PathRef} {i : Instr}

/-- The end of a sweep that left no lane over, in a state whose path lives. -/
theorem finishShort_clean {x : Sweep} {detail lvl : Nat} {bypass : Bool} {trip : Trip} (hl : (x.s.path r).live = true)
    (he : x.err = none) (hw : x.wait = none) :
    x.finishShort r detail lvl bypass trip = (x.s.storeAll r lvl bypass x.out trip).advance r 2 :=
  Sweep.finish_clean hl he hw

theorem flatMap_inPass_nil (ls : List Nat) : (ls.flatMap fun l => inPass l []) = [] := by
  rw [List.flatMap_eq_nil_iff]
  exact fun _ _ => rfl

/-- A sweep that performs every lane, with its register writes and nothing else, and the end of its instruction. -/
theorem finish_sweep_reads {n detail lvl : Nat} {bypass : Bool} {trip : Trip} {ea : Nat → DWord}
    {f : State → Nat → DWord → LaneRes} {k : State → Mask → List RegWrite → Option (Nat × DWord) → State}
    (w : Nat → List RegWrite) (hl : (s.path r).live = true) (hd : (s.path r).done = 0)
    (hf : ∀ l ∈ s.memLanes r, f s l (ea l) = .ok s (w l) [] none)
    (hk : ∀ dn, k s dn ((s.memLanes r).flatMap w) none = u) :
    (s.sweep r n ea f).finish r detail lvl bypass k trip = u := by
  obtain ⟨dn, swept⟩ := sweep_clean (n := n) (w := w) (o := fun _ => []) hl hd hf
  rw [swept, Sweep.finish_clean hl rfl rfl, flatMap_inPass_nil, storeAll_nil]
  exact hk dn

/-- A sweep of one lane that is performed, and the end of its instruction. -/
theorem finish_sweep_one {n l detail lvl : Nat} {bypass : Bool} {trip : Trip} {ea : Nat → DWord}
    {f : State → Nat → DWord → LaneRes} {k : State → Mask → List RegWrite → Option (Nat × DWord) → State} {t : State}
    {ws : List RegWrite} (hl : (s.path r).live = true) (hd : (s.path r).done = 0) (h1 : s.memLanes r = [l])
    (hf : f s l (ea l) = .ok t ws [] none) (ht : (t.path r).live = true) (hk : k t (laneBit l) ws none = u) :
    (s.sweep r n ea f).finish r detail lvl bypass k trip = u := by
  rw [sweep_one hl hd h1 hf, Sweep.finish_clean ht rfl rfl, inPass_nil, storeAll_nil]
  exact hk

theorem scratchpadLoads : Rules.ScratchpadLoads := by
  intro s r d a m off h hd ha h0 acq own
  refine (issued_next h _).trans (congrArg _ ?_)
  rw [hd, ha, Bool.and_self, State.legalIf_true, acq]
  refine finish_sweep_reads (fun l => s.loadWrites r d m.size (m.op.getLsbD 0) l ((s.crewOf r).bytes (off l) m.size.bytes))
    h.live h0 (fun l hl => ?_) fun dn => (if_neg ?_).trans rfl
  · obtain ⟨at_l, sound⟩ := own l hl
    rw [spEa] at at_l
    simp only [at_l]
    exact if_neg (by rw [State.crewOf] at sound; rw [sound]; exact Bool.false_ne_true)
  · rw [Bool.not_eq_true, List.any_eq_false]
    intro l hl
    have at_l := (own l hl).1
    rw [spEa] at at_l
    simp only [at_l, bne_self_eq_false]
    exact Bool.false_ne_true

/-! ### A store of one lane -/

theorem State.crew_modCrew (s : State) (k j : Nat) (f : Crew → Crew) :
    (s.modCrew k f).crew j = if j = k then f (s.crew k) else s.crew j := State.crew_setCrew ..

theorem crew_modCrew_advance (s : State) (r : PathRef) (f : Crew → Crew) (n k : Nat) :
    ((s.modCrew (s.crewNo r) f).advance r n).crew k = if k = s.crewNo r then f (s.crewOf r) else s.crew k :=
  State.crew_modCrew s (s.crewNo r) k f

theorem crewOf_modCrew_advance (s : State) (r : PathRef) (f : Crew → Crew) (n : Nat) :
    ((s.modCrew (s.crewNo r) f).advance r n).crewOf r = f (s.crewOf r) := by
  rw [State.crewOf, State.advance, State.crewNo_modPath]
  exact (crew_modCrew_advance s r f n _).trans (if_pos rfl)

theorem getList_setList (m : Store Byte) (k : Nat) (vs : List Byte) :
    Store.getList 0 (Store.setList 0 m k vs) k vs.length = vs := by
  refine List.ext_getElem (by simp [Store.getList]) fun i h₁ h₂ => ?_
  simp [Store.getList, Store.get_setList, h₂]

theorem bytes_put (c : Crew) (off n x : Nat) : (c.put off (leBytes n x)).bytes off n = x % 2 ^ (8 * n) := by
  have read := getList_setList c.scratch off (leBytes n x)
  rw [leBytes_length] at read
  rw [Crew.bytes, Crew.put, read, leNat_leBytes]

/-- With no word poisoned, none is mended. -/
theorem mends_nothing {f : Nat × Crew → State → State} (cs : List (Nat × Crew)) {t : State} (sound : ∀ c ∈ cs, c.2.spPoison = []) :
    cs.foldl (fun t c => if c.2.spPoison.isEmpty then t else f c t) t = t := by
  induction cs with
  | nil => rfl
  | cons c cs ih =>
    rw [List.foldl_cons, sound c (List.mem_cons_self ..)]
    exact ih fun c hc => sound c (List.mem_cons_of_mem _ hc)

/-- A store of plain order by one lane writes its crew's scratchpad and goes on. -/
theorem exec_sts_one (h : Issuing s r) {d : BitVec 8} {a : MAddr} {m : MDesc} {l off : Nat} (hd : s.dataOk r d m.size = true)
    (ha : s.addrOk r a = true) (h0 : (s.path r).done = 0) (hm : m.order = .plain) (hl : s.memLanes r = [l])
    (sound : ∀ c ∈ s.crews, c.2.spPoison = [])
    (at_l : s.spAddr (s.crewNo r) (spEa s r a m l).toNat m.size.bytes = .ok (s.crewNo r, off)) :
    exec (.sts d a m) s = .next ((s.modCrew (s.crewNo r) fun c =>
      c.put off (leBytes m.size.bytes (s.storeVal r d m.size l))).advance r 2) := by
  refine (issued_next h _).trans (congrArg _ ?_)
  rw [hd, ha, Bool.and_self, State.legalIf_true, hl, hm]
  refine (if_neg (by exact Bool.false_ne_true)).trans ?_
  rw [show releases .plain = false from rfl, State.releaseIf_false]
  dsimp only
  rw [sweep_one (t := s.modCrew (s.crewNo r) fun c => c.put off (leBytes m.size.bytes (s.storeVal r d m.size l))) (ws := [])
    (o := []) h.live h0 hl]
  · rw [mends_nothing _ sound]
    exact (finishShort_clean h.live rfl rfl).trans (by rw [inPass_nil, storeAll_nil])
  · rw [spEa] at at_l
    simp only [at_l]

/-- What a store of one lane leaves: the bytes of its crew's scratchpad, and every other team, register and crew. -/
theorem scratchpadStores : Rules.ScratchpadStores := by
  intro s r d a m l off h hd ha h0 hm hl sound at_l
  have run := exec_sts_one h hd ha h0 hm hl sound at_l
  have moved := localTo_modPath (s.modCrew (s.crewNo r) fun c =>
    c.put off (leBytes m.size.bytes (s.storeVal r d m.size l))) r fun p => p.advance 2
  have own := crewOf_modCrew_advance s r (fun c => c.put off (leBytes m.size.bytes (s.storeVal r d m.size l))) 2
  refine ⟨_, run, fun _ => rfl, State.path_modPath_same _ r _, moved.vectors, fun q => State.sget_advance .., moved.masks,
    ⟨moved.team.others, moved.team.path, moved.team.fixed, moved.team.held⟩, rfl, fun k hk => (crew_modCrew_advance s r _ 2 k).trans (if_neg hk), ?_, fun b hb => ?_⟩
  · rw [own]
    exact (bytes_put ..).trans (Nat.mod_mod ..)
  · rw [own]
    exact Store.get_setList_outside _ _ (leBytes m.size.bytes (s.storeVal r d m.size l)) (by rwa [leBytes_length])

/-- Settles O25: loads and stores of the crew's own scratchpad. -/
theorem scratchpads : Obligations.Scratchpads := ⟨scratchpadLoads, scratchpadStores⟩

end Sys2Proof.Machine
end

section
/-! SUPPORT. The full/empty instructions (R259 to R261), and what a bind of loads leaves of the path that issues. -/

namespace Sys2Proof.Machine

variable {s u t : State} {r : PathRef} {i : Instr}

/-! ### One lane of a full/empty instruction -/

/-- What a full/empty instruction leaves of the crew whose word it accesses (Table 4). -/
def FeRow.crew (row : FeRow) (c : Crew) (off v : Nat) : Crew :=
  let c := if row.writes then (c.put off (leBytes 4 v)).spMend [(off, 4)] else c
  match row.leaves with
  | none => c
  | some b => c.setFull off b

/-- The value it reads. -/
def FeRow.value (row : FeRow) (c : Crew) (off : Nat) (k : Nat → List RegWrite) : List RegWrite :=
  if row.query then k (c.isFull off).toNat else if row.reads then k (c.bytes off 4) else []

theorem feLane_ok {me n off v : Nat} {row : FeRow} {va : DWord} {k : Nat → List RegWrite}
    (at_l : s.spAddr me va.toNat 4 = .ok (n, off)) (waits : row.waits.any (· != (s.crew n).isFull off) = false)
    (sound : (s.crew n).spPoisoned off 4 = false) :
    s.feLane me row v va k = .ok (s.setCrew n (row.crew (s.crew n) off v)) (row.value (s.crew n) off k) [] none := by
  simp only [State.feLane, at_l, waits, sound, Bool.and_false, Bool.false_eq_true, if_false]
  rfl

/-- A full/empty instruction of the one lane l at the word off of crew n, at issue in s and, behind the release and the
acquire that it may perform, in u. -/
structure FeOne (s u : State) (r : PathRef) (a : MAddr) (m : MDesc) (l n off : Nat) : Prop where
  issuing  : Issuing s r
  addr     : s.addrOk r a = true
  lane     : s.memLanes r = [l]
  fresh    : (s.path r).done = 0
  place    : s.spAddr (s.crewNo r) (spEa s r a m l).toNat 4 = .ok (n, off)
  sound    : (s.crew n).spPoisoned off 4 = false
  lane'    : u.memLanes r = [l]
  live'    : (u.path r).live = true
  fresh'   : (u.path r).done = 0
  place'   : u.spAddr (u.crewNo r) (spEa u r a m l).toNat 4 = .ok (n, off)
  sound'   : (u.crew n).spPoisoned off 4 = false
  acquires : ∀ b, AcquireGoes u r b false (s.spScopeOf r a m) u

section
variable {d : BitVec 8} {a : MAddr} {m : MDesc} {l n off f : Nat} {row : FeRow} {acq : Bool}

/-- The release of an instruction that leaves c of the crew n goes on at u. -/
def FeGoes (s u : State) (r : PathRef) (a : MAddr) (m : MDesc) (n : Nat) (c : Crew) : Prop :=
  ReleaseGoes s r (releases m.order || s.bitChanged (s.setCrew n c)) (s.spScopeOf r a m) u

/-- The word is as the instruction needs it. -/
def FeRow.meets (row : FeRow) (c : Crew) (off : Nat) : Prop := row.waits.any (· != c.isFull off) = false

theorem FeRow.meets_of_some {c : Crew} {b : Bool} (hr : row.waits = some b) (h : c.isFull off = b) : row.meets c off := by
  rw [FeRow.meets, hr, h, Option.any_some, bne_self_eq_false]

theorem FeRow.meets_of_none {c : Crew} (hr : row.waits = none) : row.meets c off := by rw [FeRow.meets, hr]; rfl

/-- The lane is performed before the release, to know whether a bit changes, and again behind it. -/
theorem feSweep_one (h : FeOne s u r a m l n off) (hs : row.meets (s.crew n) off) (hu : row.meets (u.crew n) off)
    (goes : FeGoes s u r a m n (row.crew (s.crew n) off (s.storeVal r d .b32 l))) {k : Sweep → State} :
    s.feSweep r d a m row acq k = k
      { s := u.setCrew n (row.crew (u.crew n) off (u.storeVal r d .b32 l))
        ws := row.value (u.crew n) off fun x => u.loadWrites r d .b32 false l x, out := [], done := laneBit l } := by
  rw [State.feSweep]
  dsimp only
  rw [sweep_one (s := s) h.issuing.live h.fresh h.lane (feLane_ok h.place hs h.sound)]
  dsimp only
  rw [goes, h.acquires, sweep_one (s := u) h.live' h.fresh' h.lane' (feLane_ok h.place' hu h.sound')]
  rfl

theorem feShort_one (h : FeOne s u r a m l n off) (hd : (!row.writes || s.dataOk r d .b32) = true) (hs : row.meets (s.crew n) off)
    (hu : row.meets (u.crew n) off) (goes : FeGoes s u r a m n (row.crew (s.crew n) off (s.storeVal r d .b32 l))) :
    s.feShort r d a m row acq = (u.setCrew n (row.crew (u.crew n) off (u.storeVal r d .b32 l))).advance r 2 := by
  rw [State.feShort, hd, h.addr, Bool.and_self, State.legalIf_true, h.lane]
  refine (if_neg (by exact Bool.false_ne_true)).trans ((feSweep_one h hs hu goes).trans ?_)
  exact (finishShort_clean h.live' rfl rfl).trans (by rw [storeAll_nil])

theorem feLong_one (h : FeOne s u r a m l n off) (hd : s.dataOk r d .b32 = true) (hf : (s.path r).slot = .ok f)
    (hs : row.meets (s.crew n) off) (hu : row.meets (u.crew n) off)
    (goes : FeGoes s u r a m n (row.crew (s.crew n) off (s.storeVal r d .b32 l))) :
    s.feLong r d a m row acq = ((u.setCrew n (row.crew (u.crew n) off (u.storeVal r d .b32 l))).startPend r f
      (row.value (u.crew n) off fun x => u.loadWrites r d .b32 false l x) none false none 0 true).advance r 2 := by
  rw [State.feLong, hd, h.addr, Bool.and_self, State.legalIf_true, State.withSlot_ok hf]
  dsimp only
  rw [h.lane]
  refine (if_neg (by exact Bool.false_ne_true)).trans ((feSweep_one h hs hu goes).trans ?_)
  refine (Sweep.finish_clean h.live' rfl rfl).trans ((if_neg (by exact Bool.false_ne_true)).trans ?_)
  rw [storeAll_nil]
  rfl
end

theorem fullEmptyCompletes : Rules.FullEmptyCompletes := by
  intro s u r d a m l n off f h hd ha hl h0 ul ulive u0 s_at s_sound u_at u_sound acq
  have one : FeOne s u r a m l n off := ⟨h, ha, hl, h0, s_at, s_sound, ul, ulive, u0, u_at, u_sound, acq⟩
  dsimp only
  refine ⟨fun goes => ⟨?stsx, fun hs hu => ?stsf⟩, fun goes => ⟨?feclr, fun hf hs hu ho => ?ldsf⟩, fun goes => ?feset,
    fun goes hf => ⟨fun hs hu ho => ?peek, fun hs hu => ?ldse, ?feq⟩⟩
  case stsx =>
    exact (issued_next h _).trans (congrArg _ (feShort_one one hd (FeRow.meets_of_none rfl) (FeRow.meets_of_none rfl) goes))
  case stsf =>
    exact (issued_next h _).trans (congrArg _ (feShort_one one hd (FeRow.meets_of_some rfl hs) (FeRow.meets_of_some rfl hu) goes))
  case feclr =>
    exact (issued_next h _).trans (congrArg _ (feShort_one one rfl (FeRow.meets_of_none rfl) (FeRow.meets_of_none rfl) goes))
  case feset =>
    exact (issued_next h _).trans (congrArg _ (feShort_one one rfl (FeRow.meets_of_none rfl) (FeRow.meets_of_none rfl) goes))
  case ldsf =>
    refine (issued_next h _).trans (congrArg _ ?_)
    rw [ho]
    exact feLong_one one hd hf (FeRow.meets_of_some rfl hs) (FeRow.meets_of_some rfl hu) goes
  case peek =>
    refine (issued_next h _).trans (congrArg _ ?_)
    rw [ho]
    exact feLong_one one hd hf (FeRow.meets_of_some rfl hs) (FeRow.meets_of_some rfl hu) goes
  case ldse =>
    exact (issued_next h _).trans (congrArg _ (feLong_one one hd hf (FeRow.meets_of_some rfl hs) (FeRow.meets_of_some rfl hu) goes))
  case feq =>
    exact (issued_next h _).trans (congrArg _ (feLong_one one hd hf (FeRow.meets_of_none rfl) (FeRow.meets_of_none rfl) goes))

end Sys2Proof.Machine
end

section
/-! SUPPORT. The lanes of a global access, pass by pass (R17, R75), and what an access that nothing stands in the way of
does not change. -/

namespace Sys2Proof.Machine

variable {s u t : State} {r : PathRef} {i : Instr}

/-! ### Passes -/

/-- An ascending list cut at a and at b above it. -/
theorem filter_append_between {ls : List Nat} {a b : Nat} (hs : ls.Pairwise (· < ·)) (hab : a ≤ b) :
    (ls.filter fun l => decide (l < a)) ++ (ls.filter fun l => decide (a ≤ l) && decide (l < b)) = ls.filter fun l => decide (l < b) := by
  induction ls with
  | nil => rfl
  | cons x ls ih =>
    obtain ⟨least, hs⟩ := List.pairwise_cons.1 hs
    by_cases low : x < a
    · have high : ¬ a ≤ x := Nat.not_le.2 low
      have below : x < b := by omega
      simpa [low, high, below] using ih hs
    · have none : (ls.filter fun l => decide (l < a)) = [] :=
        List.filter_eq_nil_iff.2 fun l hl => by simpa using (Nat.not_lt.1 low).trans (least l hl).le
      have rest := ih hs
      rw [none, List.nil_append] at rest
      by_cases below : x < b <;> simp [low, below, none, rest, Nat.not_lt.1 low]

/-- The lanes in ascending order are their passes one after the other. -/
theorem flatten_passesOf {ls : List Nat} (hs : ls.Pairwise (· < ·)) (hl : ∀ l ∈ ls, l < 1024) :
    (passesOf ls).flatten = ls := by
  have cut : ∀ n, (((List.range n).map fun p => ls.filter fun l => l / 32 == p).filter fun l => !l.isEmpty).flatten =
      ls.filter fun l => decide (l < 32 * n) := by
    intro n
    induction n with
    | zero => simp
    | succ n ih =>
      have last : (([n].map fun p => ls.filter fun l => l / 32 == p).filter fun l => !l.isEmpty).flatten =
          ls.filter fun l => l / 32 == n := by
        by_cases he : (ls.filter fun l => l / 32 == n) = [] <;> simp [he]
      have pass : (ls.filter fun l => l / 32 == n) = ls.filter fun l => decide (32 * n ≤ l) && decide (l < 32 * (n + 1)) :=
        List.filter_congr fun l _ => by
          rw [Bool.eq_iff_iff, beq_iff_eq, Bool.and_eq_true, decide_eq_true_eq, decide_eq_true_eq]
          omega
      rw [List.range_succ, List.map_append, List.filter_append, List.flatten_append, ih, last, pass]
      exact filter_append_between hs (by omega)
  exact (cut 32).trans (List.filter_eq_self.2 fun l h => by simpa using hl l h)

theorem memLanes_pairwise (s : State) (r : PathRef) : (s.memLanes r).Pairwise (· < ·) := by
  rw [State.memLanes]
  split
  · exact List.pairwise_singleton ..
  · exact lanesOf_pairwise ..

/-- What one lane of a sweep that changes no state comes to: register writes and stores, or a load that binds later. -/
def LaneDoes (f : State → Nat → DWord → LaneRes) (s : State) (ea : Nat → DWord) (w : Nat → List RegWrite) (o : Nat → List Out)
    (ld : Nat → List (Nat × DWord × Nat × Bool)) (l : Nat) : Prop :=
  (f s l (ea l) = .ok s (w l) (o l) none ∧ ld l = []) ∨
  ∃ va k home, f s l (ea l) = .load s va k home ∧ w l = [] ∧ o l = [] ∧ ld l = [(l, va, k, home)]

section
variable {n : Nat} {ea : Nat → DWord} {f : State → Nat → DWord → LaneRes} {w : Nat → List RegWrite} {o : Nat → List Out}
  {ld : Nat → List (Nat × DWord × Nat × Bool)}

/-- The sweep behind some lanes more. -/
def Sweep.behind (x : Sweep) (w : Nat → List RegWrite) (o : Nat → List Out) (ld : Nat → List (Nat × DWord × Nat × Bool))
    (ls : List Nat) : Sweep :=
  { x with
    ws := x.ws ++ ls.flatMap w, out := x.out ++ ls.flatMap fun l => inPass l (o l), loads := x.loads ++ ls.flatMap ld,
    done := ls.foldl (fun m l => m ||| laneBit l) x.done }

theorem Sweep.behind_append (x : Sweep) (ls ms : List Nat) :
    (x.behind w o ld ls).behind w o ld ms = x.behind w o ld (ls ++ ms) := by
  simp [Sweep.behind, List.append_assoc]

theorem getLsbD_foldl_laneBits (ls : List Nat) (m : Mask) {k : Nat} (hk : k < 1024) :
    (ls.foldl (fun m l => m ||| laneBit l) m).getLsbD k = (m.getLsbD k || ls.contains k) := by
  induction ls generalizing m with
  | nil => simp
  | cons l ls ih =>
    rw [List.foldl_cons, ih, BitVec.getLsbD_or, laneBit_getLsbD hk, Bool.or_assoc]
    simp

theorem foldl_lane {x : Sweep} {ls : List Nat} (hn : ls.Nodup) (hl : ∀ l ∈ ls, l < 1024)
    (hf : ∀ l ∈ ls, LaneDoes f x.s ea w o ld l) (hd : ∀ l ∈ ls, x.done.getLsbD l = false) (live : (x.s.path r).live = true)
    (hw : x.wait = none) (hs : x.shut = []) : ls.foldl (Sweep.lane r n ea f) x = x.behind w o ld ls := by
  induction ls generalizing x with
  | nil => simp [Sweep.behind]
  | cons a ls ih =>
    obtain ⟨fresh, hn⟩ := List.nodup_cons.1 hn
    have step : Sweep.lane r n ea f x a = x.behind w o ld [a] := by
      have undone := hd a (List.mem_cons_self ..)
      rcases hf a (List.mem_cons_self ..) with ⟨ok, none⟩ | ⟨va, k, home, load, noWrite, noStore, one⟩
      · rw [Sweep.lane_ok undone live hw hs ok]
        simp [Sweep.behind, none]
      · rw [Sweep.lane_load undone live hw hs load]
        simp [Sweep.behind, noWrite, noStore, one]
    rw [List.foldl_cons, step, ih (x := x.behind w o ld [a]) hn (fun l h => hl l (List.mem_cons_of_mem _ h)) (fun l h => hf l (List.mem_cons_of_mem _ h))
      (fun l h => ?_) live hw hs, Sweep.behind_append]
    · rfl
    · have apart : l ≠ a := fun e => fresh (e ▸ h)
      change (x.done ||| laneBit a).getLsbD l = false
      rw [BitVec.getLsbD_or, hd l (List.mem_cons_of_mem _ h), laneBit_getLsbD (hl l (List.mem_cons_of_mem _ h))]
      simp [apart]

/-- The miss entries of some passes. -/
def missesOf (n : Nat) (ea : Nat → DWord) (ps : List (List Nat)) : Nat :=
  (ps.map fun p => (p.flatMap fun l => flakesOf n (ea l)).eraseDups.length).sum

theorem foldl_pass {x : Sweep} {ps : List (List Nat)} {free : Nat} (hn : ps.flatten.Nodup) (hl : ∀ l ∈ ps.flatten, l < 1024)
    (hf : ∀ l ∈ ps.flatten, LaneDoes f x.s ea w o ld l) (hd : ∀ l ∈ ps.flatten, x.done.getLsbD l = false)
    (live : (x.s.path r).live = true) (hw : x.wait = none) (hs : x.shut = []) (hm : x.misses + missesOf n ea ps ≤ free) :
    ps.foldl (Sweep.pass r n ea f free) x = { x.behind w o ld ps.flatten with misses := x.misses + missesOf n ea ps } := by
  induction ps generalizing x with
  | nil => simp [Sweep.behind, missesOf]
  | cons p ps ih =>
    rw [List.flatten_cons] at hn hl hf hd
    obtain ⟨hn, hns, apart⟩ := List.nodup_append.1 hn
    have total : missesOf n ea (p :: ps) = (p.flatMap fun l => flakesOf n (ea l)).eraseDups.length + missesOf n ea ps := by
      simp [missesOf]
    rw [total] at hm ⊢
    have todo : (p.filter fun l => !x.done.getLsbD l) = p :=
      List.filter_eq_self.2 fun l h => by rw [hd l (List.mem_append_left _ h)]; rfl
    have step : Sweep.pass r n ea f free x p =
        { x with misses := x.misses + (p.flatMap fun l => flakesOf n (ea l)).eraseDups.length }.behind w o ld p := by
      rw [Sweep.pass, todo, if_pos (by omega)]
      exact foldl_lane (x := { x with misses := _ }) hn (fun l h => hl l (List.mem_append_left _ h)) (fun l h => hf l (List.mem_append_left _ h))
        (fun l h => hd l (List.mem_append_left _ h)) live hw hs
    rw [List.foldl_cons, step]
    refine (ih (x := { x with misses := x.misses + (p.flatMap fun l => flakesOf n (ea l)).eraseDups.length }.behind w o ld p) hns (fun l h => hl l (List.mem_append_right _ h))
      (fun l h => hf l (List.mem_append_right _ h)) (fun l h => ?_) live hw hs (by simpa [Sweep.behind, Nat.add_assoc] using hm)).trans ?_
    · have not_here : l ∉ p := fun h' => apart l h' l h rfl
      change (p.foldl (fun m l => m ||| laneBit l) x.done).getLsbD l = false
      rw [getLsbD_foldl_laneBits _ _ (hl l (List.mem_append_right _ h)), hd l (List.mem_append_right _ h)]
      simp [not_here]
    · simp [Sweep.behind, List.append_assoc, Nat.add_assoc]

/-- A sweep of a global access whose lanes are all performed, or go on their way, with their miss entries free. -/
theorem sweepMem_clean (live : (s.path r).live = true) (h0 : (s.path r).done = 0) (hm : MissesFree s r n ea)
    (hf : ∀ l ∈ s.memLanes r, LaneDoes f s ea w o ld l) :
    s.sweepMem r n ea f =
      { s := s, ws := (s.memLanes r).flatMap w, out := (s.memLanes r).flatMap fun l => inPass l (o l),
        loads := (s.memLanes r).flatMap ld, done := (s.memLanes r).foldl (fun m l => m ||| laneBit l) 0,
        misses := missesFor n ea (s.memLanes r) } := by
  have whole := flatten_passesOf (memLanes_pairwise s r) fun l h => memLanes_lt h
  rw [State.sweepMem, h0]
  have swept := foldl_pass (r := r) (n := n) (x := { s := s, done := 0 }) (ps := passesOf (s.memLanes r)) (free := missEntries - s.missesUsed (s.coreOf r))
    (by rw [whole]; exact memLanes_nodup) (by rw [whole]; exact fun l h => memLanes_lt h) (by rw [whole]; exact hf)
    (fun _ _ => BitVec.getLsbD_zero) live rfl rfl (by rw [Nat.zero_add]; exact hm)
  rw [swept, whole]
  simp [Sweep.behind, missesOf, missesFor]
end

end Sys2Proof.Machine
end

section
/-! SUPPORT. An access that nothing stands in the way of (R224, R225, R229): the operations that come before it are none,
and the core reads the home's bytes. -/

namespace Sys2Proof.Machine

variable {s u t : State} {r : PathRef} {i : Instr} {home : Bool} {k n : Nat}

theorem needed_eq_nil {hit : Flight → Bool} {l : List Flight} (h : ∀ f ∈ l, hit f = false) : needed hit l = [] := by
  induction l with
  | nil => rfl
  | cons f l ih =>
    have rest : needed hit l = [] := ih fun g hg => h g (List.mem_cons_of_mem _ hg)
    rw [needed] at rest ⊢
    rw [List.foldr_cons, rest, h f (List.mem_cons_self ..)]
    rfl

theorem drainIf_none {hit : Flight → Bool} (h : ∀ f ∈ s.flight, hit f = false) : s.drainIf hit = s := by
  have keep : (s.flight.filter fun f => !([] : List Flight).contains f) = s.flight :=
    List.filter_eq_self.2 fun f _ => rfl
  rw [State.drainIf, needed_eq_nil h, keep]
  rfl

theorem bindIf_none {f : Pend → LoadSet → Bool} (h : ∀ p ∈ s.pend, ∀ l, p.loads = some l → f p l = false) :
    s.bindIf f = s := by
  have none : (s.pend.filter fun p => match p.loads with | some l => f p l | none => false) = [] := by
    rw [List.filter_eq_nil_iff]
    intro p hp
    cases hl : p.loads with
    | none => exact Bool.false_ne_true
    | some l =>
      dsimp only
      rw [h p hp l hl]
      exact Bool.false_ne_true
  exact congrArg (fun ps : List Pend => ps.foldl State.bindPend s) none

theorem flightByte_none {fl : List Flight} (h : ∀ f ∈ fl, f.of r = true → meets f.key f.size k n = false) {j : Nat} (hj : j < n) :
    flightByte fl r (k + j) = none := by
  rw [flightByte]
  induction fl with
  | nil => rfl
  | cons f fl ih =>
    have apart : (match f.op with
        | .write bs => if f.of r && decide (f.key ≤ k + j) && decide (k + j < f.key + bs.length) then bs[k + j - f.key]? else none
        | .atomic .. => none) = (none : Option Byte) := by
      cases hop : f.op with
      | atomic => rfl
      | write bs =>
        refine if_neg fun cover => ?_
        simp only [Bool.and_eq_true, decide_eq_true_eq] at cover
        obtain ⟨⟨own, low⟩, high⟩ := cover
        have miss := h f (List.mem_cons_self ..) own
        rw [Flight.size, hop] at miss
        simp only [meets, Bool.and_eq_false_iff, decide_eq_false_iff_not] at miss
        omega
    rw [List.foldl_cons]
    refine (congrArg (fun acc => List.foldl _ acc fl) apart).trans (ih fun g hg => h g (List.mem_cons_of_mem _ hg))

end Sys2Proof.Machine

/-! ### Untouched bytes -/

namespace Sys2Proof
open Machine

section
variable {s : State} {r : PathRef} {home : Bool} {k n : Nat}
variable (h : Untouched s r home k n)
include h

theorem Untouched.not_own_sync {f : Flight} (hf : f ∈ s.flight) : (f.of r && f.sync) = false := by
  cases own : f.of r with
  | false => rfl
  | true => exact (h.idle f hf own).1

theorem Untouched.not_own_meets {f : Flight} (hf : f ∈ s.flight) : (f.of r && meets f.key f.size k n) = false := by
  cases own : f.of r with
  | false => rfl
  | true => exact (h.idle f hf own).2

theorem Untouched.bindMeet : s.bindMeet r k n = s := by
  refine bindIf_none fun p hp l hl => ?_
  cases own : p.r.tok == r.tok with
  | false => rfl
  | true => exact List.any_eq_false.2 fun e he => by rw [h.bound p hp l hl (by simpa using own) e he]; exact Bool.false_ne_true

theorem Untouched.drainSync : s.drainSync r = s := drainIf_none fun _ hf => h.not_own_sync hf

theorem Untouched.drain : s.drain r k n = s := drainIf_none fun _ hf => h.not_own_meets hf

theorem Untouched.viewByte {j : Nat} (hj : j < n) :
    s.viewByte r home (k + j) =
      if s.verOf r = 0 then s.cachedByte (s.coreOf r) home (k + j) else s.homeByte (s.domOf r) (s.verOf r) (k + j) := by
  rw [State.viewByte, flightByte_none (fun f hf own => (h.idle f hf own).2) hj]
end

end Sys2Proof

namespace Sys2Proof.Machine

variable {s : State} {r : PathRef}

/-! ### The committed line -/

theorem chain_zero (s : State) (d : Nat) : s.chain d 0 = [] := rfl

theorem heldAt_zero (s : State) (d k : Nat) : s.heldAt d 0 k = k := rfl

theorem homeByte_zero (s : State) (d k : Nat) : s.homeByte d 0 k = s.memByte k := rfl

theorem homeBytes_zero (s : State) (d k n : Nat) : s.homeBytes d 0 k n = s.memBytes k n := rfl

theorem poisoned_of_poisonedIn {d k n j : Nat} (h : s.poisonedIn d 0 k n = false) (hj : j < n) : s.poisoned (k + j) 1 = false := by
  rw [State.poisonedIn, Bool.not_eq_false', List.isEmpty_iff, State.badPlaces] at h
  split at h
  next none => rw [State.poisoned, List.isEmpty_iff.1 none]; rfl
  next =>
    rw [List.filter_eq_nil_iff] at h
    simpa using h (k + j) (List.mem_map.2 ⟨j, List.mem_range.2 hj, heldAt_zero ..⟩)

theorem recallBut_own {core k n : Nat} (h : ∀ o ∈ s.l1own, o.core = core ∨ o.meets k n = false) : s.recallBut core k n = s := by
  rw [State.recallBut]
  split
  · rfl
  · rw [List.filter_eq_self.2 fun o ho => by rcases h o ho with e | e <;> simp [e]]

theorem fillHost_device {k : Nat} (n : Nat) (h : isHostKey k = false) : s.fillHost k n = s := by
  rw [State.fillHost, h]
  rfl

/-- A line of the core's own die that no window holds is of that die at each byte. -/
theorem remoteDie_near {core k j : Nat} {home : Bool} (hw : inWindow k = false) (h : remoteDie core home k = false) :
    remoteDie core home j = false := by
  simp only [remoteDie, hw, Bool.not_false, Bool.true_and] at h ⊢
  rw [h, Bool.and_false]

theorem inWindow_of_target {c va : Nat} {x : Xlat} (h : s.target c va x = some .device) : inWindow x.key = false := by
  rw [State.target] at h
  split at h
  · split at h
    · cases h
    · split at h <;> cases h
  · split at h
    · cases h
    · split at h
      · cases h
      next hw => exact Bool.eq_false_iff.2 hw

theorem target_of_reach {acc : Access} {n lane : Nat} {va : DWord} {x : Xlat} {t : Target}
    (h : s.reach r acc n va lane = .ok (x, t)) : s.target (s.ctxOf r) va.toNat x = some t := by
  rw [State.reach] at h
  split at h
  · cases h
  · split at h
    · cases h
    · cases ht : s.translate (s.coreOf r) (s.ctxOf r) (s.kernel r) acc va (some r) lane with
      | error e => rw [ht] at h; cases h
      | ok y =>
        rw [ht] at h
        change (match s.target (s.ctxOf r) va.toNat y with | none => _ | some t => _) = _ at h
        cases hy : s.target (s.ctxOf r) va.toNat y with
        | none => rw [hy] at h; cases h
        | some t' =>
          rw [hy] at h
          cases h
          exact hy

end Sys2Proof.Machine

namespace Sys2Proof
open Machine

section
variable {s : State} {r : PathRef} {acc : Access} {n lane : Nat} {va : DWord} {x : Xlat}
variable (h : PlainAccess s r acc n va lane x)
include h

theorem PlainAccess.near_each (j : Nat) : remoteDie (s.coreOf r) x.home j = false :=
  remoteDie_near (inWindow_of_target (target_of_reach h.reach)) h.near

theorem PlainAccess.homeSync : s.homeSync (s.coreOf r) x.home x.key n = s := by
  rw [State.homeSync, h.near]
  rfl

theorem PlainAccess.viewBytes : s.viewBytes r x.home x.key n = s.memBytes x.key n := by
  refine List.map_congr_left fun j hj => ?_
  rw [h.quiet.viewByte (List.mem_range.1 hj), if_pos h.version, State.cachedByte, h.near_each]
  rfl

theorem PlainAccess.poisonedAt : s.poisonedAt (s.coreOf r) x.home (s.domOf r) 0 x.key n = false := by
  rw [State.poisonedAt, if_pos rfl, List.any_eq_false]
  intro j hj
  rw [State.cachedBad, h.near_each, if_neg Bool.false_ne_true, poisoned_of_poisonedIn h.sound (List.mem_range.1 hj)]
  exact Bool.false_ne_true

theorem PlainAccess.held : (s.owned x.key n || s.meetHeld r x.home x.key n) = false := by
  rw [h.free, h.quiet.cross]
  rfl

/-- R225, R229: it binds the bytes of memory, and nothing changes. -/
theorem PlainAccess.bindBytes (bypass : Bool) : s.bindBytes r x.home x.key n bypass = (s, s.memBytes x.key n, false) := by
  have drained : ∀ g : Flight → Bool, s.drainIf (fun f => f.of r && (f.sync || (meets f.key f.size x.key n && g f))) = s := by
    refine fun g => drainIf_none fun f hf => ?_
    cases own : f.of r with
    | false => rfl
    | true =>
      obtain ⟨sync, miss⟩ := h.quiet.idle f hf own
      rw [sync, miss]
      rfl
  rw [State.bindBytes, drained]
  have fill : s.fillLoad (s.coreOf r) x.home x.key bypass = s := by rw [State.fillLoad, h.near]; rfl
  have recalled : s.recallBut (s.coreOf r) (placeKey (s.domOf r) 0 x.key) n = s := recallBut_own h.own
  simp only [h.version, h.near, fillHost_device n h.place, fill, recalled, h.viewBytes, h.poisonedAt, if_true, Bool.and_false, Bool.false_eq_true,
    if_false]
end

end Sys2Proof
end

section
/-! SUPPORT. Global loads (R127, R262, R306). -/

namespace Sys2Proof.Machine

variable {s u t : State} {r : PathRef} {i : Instr}

/-- A plain load of a lane is on its way. -/
theorem loadLane_later {n lane : Nat} {va : DWord} {x : Xlat} (h : PlainAccess s r .load n va lane x) (bypass : Bool)
    (w : Nat → List RegWrite) : s.loadLane r n false bypass va w lane = .load s va x.key x.home := by
  simp only [State.loadLane, h.reach, h.held, h.quiet.bindMeet, Bool.false_eq_true, if_false]
  rfl

/-- One that acquires reads the bytes of memory. -/
theorem loadLane_now {n lane : Nat} {va : DWord} {x : Xlat} (h : PlainAccess s r .load n va lane x) (bypass : Bool)
    (w : Nat → List RegWrite) : s.loadLane r n true bypass va w lane = .ok s (w (s.memNat x.key n)) [] none := by
  simp only [State.loadLane, h.reach, h.held, h.quiet.bindMeet, h.bindBytes, Bool.false_eq_true, if_false, Bool.not_true]
  rfl

theorem flatMap_singleton' {α β : Type} (f : α → β) (ls : List α) : (ls.flatMap fun l => [f l]) = ls.map f := by
  induction ls with
  | nil => rfl
  | cons l ls ih => rw [List.flatMap_cons, ih]; rfl

/-- The lanes that a load has on its way are none of those it has done. -/
theorem foldl_not_laneBits {α : Type} (f : Nat → α) (ls : List Nat) :
    (ls.map fun l => (l, f l)).foldl (fun m e => m &&& ~~~ laneBit e.1) (ls.foldl (fun m l => m ||| laneBit l) 0) = 0 := by
  have cleared : ∀ (es : List (Nat × α)) (m : Mask) (k : Nat), k < 1024 →
      (es.foldl (fun m e => m &&& ~~~ laneBit e.1) m).getLsbD k = (m.getLsbD k && !(es.map (·.1)).contains k) := by
    intro es
    induction es with
    | nil => simp
    | cons e es ih =>
      intro m k hk
      rw [List.foldl_cons, ih _ _ hk, BitVec.getLsbD_and, BitVec.getLsbD_not, laneBit_getLsbD hk]
      by_cases hke : k = e.1
      · simp [hke]
      · simp [hk, hke, beq_eq_false_iff_ne.2 hke]
  refine BitVec.eq_of_getLsbD_eq fun k hk => ?_
  rw [cleared _ _ _ hk, getLsbD_foldl_laneBits _ _ hk]
  simp [Function.comp_def]

section
variable {d : BitVec 8} {a : MAddr} {m : MDesc} {f : Nat} {x : Nat → Xlat}

/-- A load whose lanes are all on their way. -/
theorem finish_loads_later (h : (s.path r).live = true) (h0 : (s.path r).done = 0) (lanes : s.memLanes r ≠ [])
    (hm : MissesFree s r m.size.bytes (s.ea r a m.off))
    (plain : ∀ l ∈ s.memLanes r, PlainAccess s r .load m.size.bytes (s.ea r a m.off l) l (x l)) (w : State → Nat → Nat → List RegWrite) :
    let y := s.sweepMem r m.size.bytes (s.ea r a m.off) fun s' l va =>
      s'.loadLane r m.size.bytes false (m.hint == 2) va (w s' l) l
    y.finishLoad r f (y.loadSet r d m.size (m.op.getLsbD 0) (m.hint == 2) (s.group r d m.size.vregs)) (s.memLanes r) =
      (s.startPend r f [] none false (some (unboundLoad s r d a m x))
        (missesFor m.size.bytes (s.ea r a m.off) (s.memLanes r)) true).advance r 2 := by
  have swept := sweepMem_clean (w := fun _ => []) (o := fun _ => []) (ld := fun l => [(l, s.ea r a m.off l, (x l).key, (x l).home)])
    (f := fun s' l va => s'.loadLane r m.size.bytes false (m.hint == 2) va (w s' l) l) h h0 hm
    fun l hl => .inr ⟨_, _, _, loadLane_later (plain l hl) .., rfl, rfl, rfl⟩
  dsimp only
  rw [swept, flatMap_singleton', flatMap_inPass_nil, List.flatMap_eq_nil_iff.2 fun _ _ => rfl]
  have some_load : ((s.memLanes r).map fun l => (l, s.ea r a m.off l, (x l).key, (x l).home)).isEmpty = false := by
    rw [List.isEmpty_eq_false_iff, ne_eq, List.map_eq_nil_iff]
    exact lanes
  rw [Sweep.finishLoad, some_load]
  refine (if_neg (by exact Bool.false_ne_true)).trans ((if_neg (by exact Bool.false_ne_true)).trans ?_)
  refine (Sweep.finish_clean h rfl rfl).trans ((if_neg (by rw [List.isEmpty_iff]; exact lanes)).trans ?_)
  rw [storeAll_nil, Sweep.loadSet, foldl_not_laneBits fun l => (s.ea r a m.off l, (x l).key, (x l).home)]
  rfl

/-- A load whose lanes read the bytes of memory. -/
theorem finish_loads_now (h : (u.path r).live = true) (h0 : (u.path r).done = 0) {lanes : List Nat} (hl : lanes ≠ [])
    (hm : MissesFree u r m.size.bytes (u.ea r a m.off))
    (plain : ∀ l ∈ u.memLanes r, PlainAccess u r .load m.size.bytes (u.ea r a m.off l) l (x l)) (w : State → Nat → Nat → List RegWrite)
    (g : Sweep → LoadSet) :
    let y := u.sweepMem r m.size.bytes (u.ea r a m.off) fun s' l va =>
      s'.loadLane r m.size.bytes true (m.hint == 2) va (w s' l) l
    y.finishLoad r f (g y) lanes =
      (u.startPend r f ((u.memLanes r).flatMap fun l => w u l (u.memNat (x l).key m.size.bytes)) none false none
        (missesFor m.size.bytes (u.ea r a m.off) (u.memLanes r)) true).advance r 2 := by
  have swept := sweepMem_clean (w := fun l => w u l (u.memNat (x l).key m.size.bytes)) (o := fun _ => []) (ld := fun _ => [])
    (f := fun s' l va => s'.loadLane r m.size.bytes true (m.hint == 2) va (w s' l) l) h h0 hm
    fun l hl => .inl ⟨loadLane_now (plain l hl) .., rfl⟩
  dsimp only
  rw [swept, flatMap_inPass_nil, List.flatMap_eq_nil_iff.2 fun _ _ => rfl, Sweep.finishLoad]
  refine (if_pos (by exact rfl)).trans ((Sweep.finish_clean h rfl rfl).trans ((if_neg (by rw [List.isEmpty_iff]; exact hl)).trans ?_))
  rw [storeAll_nil]
  rfl

theorem State.acquire_false (fence : Bool) (sc : Scope) (k : State → State) : s.acquire r false fence sc k = k s := rfl

theorem globalLoad_now {fence : Bool} (hd : s.dataOk r d m.size = true) (ha : s.addrOk r a = true) (hf : (s.path r).slot = .ok f)
    (hl : s.memLanes r ≠ []) (live : (u.path r).live = true) (h0 : (u.path r).done = 0)
    (hm : MissesFree u r m.size.bytes (u.ea r a m.off))
    (plain : ∀ l ∈ u.memLanes r, PlainAccess u r .load m.size.bytes (u.ea r a m.off l) l (x l))
    (acq : AcquireGoes s r true fence (s.memScope r .load a m) u) :
    s.globalLoad r d a m true fence = (u.startPend r f ((u.memLanes r).flatMap fun l =>
      u.loadWrites r d m.size (m.op.getLsbD 0) l (u.memNat (x l).key m.size.bytes)) none false none
        (missesFor m.size.bytes (u.ea r a m.off) (u.memLanes r)) true).advance r 2 := by
  have some_lane : (s.memLanes r).isEmpty = false := by rw [List.isEmpty_eq_false_iff]; exact hl
  rw [State.globalLoad, hd, ha, Bool.and_self, State.legalIf_true, State.withSlot_ok hf]
  dsimp only
  rw [some_lane, Bool.not_false, Bool.and_self, acq]
  exact finish_loads_now live h0 hl hm plain (fun s' l => s'.loadWrites r d m.size (m.op.getLsbD 0) l)
    fun y => y.loadSet r d m.size (m.op.getLsbD 0) (m.hint == 2) (s.group r d m.size.vregs)
end

/-- Settles O27: a load on its way, and one that acquires. -/
theorem globalLoads : Obligations.GlobalLoads := by
  intro s u r d a m f x h hd ha hf hl _ live h0 hm plain
  dsimp only
  refine ⟨fun plainOrder same => ?later, fun order acq => ?now, fun acq => ?fence⟩
  case later =>
    subst same
    refine (issued_next h _).trans (congrArg _ ?_)
    rw [plainOrder, State.globalLoad, hd, ha, Bool.and_self, State.legalIf_true, State.withSlot_ok hf]
    dsimp only
    rw [Bool.false_and, State.acquire_false]
    exact finish_loads_later live h0 hl hm plain fun s' l => s'.loadWrites r d m.size (m.op.getLsbD 0) l
  case now =>
    refine (issued_next h _).trans (congrArg _ ?_)
    rw [order]
    exact globalLoad_now hd ha hf hl live h0 hm plain acq
  case fence => exact (issued_next h _).trans (congrArg _ (globalLoad_now hd ha hf hl live h0 hm plain acq))

end Sys2Proof.Machine
end

section
/-! SUPPORT. What a write at a home leaves of the state (R67, R224, R313, R456), and global stores from their issue to their
home (R75, R224, R262, R306). -/

namespace Sys2Proof.Machine

variable {s u t : State} {r : PathRef} {i : Instr}

/-! ### What the operations beside a write leave alone -/

/-- The part of a state that its bytes of memory, its stores on their way and the copies of its versions are read from,
with the path whose turn it is. -/
structure Basis where
  mem : Store Byte
  hostL2 : Store CopyByte
  hostWr : List (Nat × List Byte)
  flight : List Flight
  vspans : List VCopy
  cur : Option PathRef

def State.basis (s : State) : Basis := ⟨s.mem, s.hostL2, s.hostWr, s.flight, s.vspans, s.cur⟩

theorem memByte_of_basis (h : t.basis = s.basis) : SameMemory s t := by
  intro a
  rw [State.basis, State.basis, Basis.mk.injEq] at h
  obtain ⟨mem, l2, wr, -, -, -⟩ := h
  rw [State.memByte, State.memByte, mem, l2, wr]

theorem flight_of_basis (h : t.basis = s.basis) : t.flight = s.flight := congrArg Basis.flight h
theorem vspans_of_basis (h : t.basis = s.basis) : t.vspans = s.vspans := congrArg Basis.vspans h
theorem cur_of_basis (h : t.basis = s.basis) : t.cur = s.cur := congrArg Basis.cur h

section
variable (s : State) (r : PathRef) (k n : Nat)

@[simp] theorem State.setCopy_basis (c : CopyByte) : (s.setCopy n k c).basis = s.basis := rfl
@[simp] theorem State.mend_basis : (s.mend k n).basis = s.basis := rfl
@[simp] theorem State.recall_basis : (s.recall k n).basis = s.basis := by rw [State.recall]; split <;> rfl
@[simp] theorem State.holdOwn_basis (c : Nat) (o : List (PathRef × Nat × Nat × Nat)) : (s.holdOwn c k o).basis = s.basis := rfl
@[simp] theorem State.modPath_basis (f : Path → Path) : (s.modPath r f).basis = s.basis := rfl
@[simp] theorem State.poisonFor_basis (d v : Nat) : (s.poisonFor d v k).basis = s.basis := by
  unfold State.poisonFor State.poisonFlake
  dsimp only
  split <;> split <;> rfl
@[simp] theorem State.noteFailed_basis (both : Bool) (va : Nat) : (s.noteFailed r both k va).basis = s.basis := by
  rw [State.noteFailed]
  split
  · rfl
  · dsimp only
    split <;> rfl
@[simp] theorem State.sset_basis (d : SReg) (v : DWord) : (s.sset r d v).basis = s.basis := rfl
@[simp] theorem State.endWait_basis (d : SReg) : (s.endWait r d n).basis = s.basis := rfl
@[simp] theorem State.land_basis : (s.land k n).basis = s.basis := by
  rw [State.land]
  refine foldl_same State.basis _ _ _ fun s r => ?_
  split
  · split
    · split <;> rfl
    · rfl
  · rfl
@[simp] theorem State.refresh_basis (c : Nat) (home : Bool) (bs : List Byte) : (s.refresh c home k bs).basis = s.basis := by
  rw [State.refresh]
  split
  · refine foldl_same State.basis _ _ _ fun s x => foldl_same State.basis _ _ _ fun s u => ?_
    dsimp only
    split <;> rfl
  · rfl
@[simp] theorem State.keepOwn_basis (f : Flight) (o : List (PathRef × Nat × Nat × Nat)) : (s.keepOwn f o).basis = s.basis := by
  rw [State.keepOwn]
  split <;> rfl
@[simp] theorem State.displace_none (h : s.vspans = []) : s.displace = s := by
  rw [State.displace, h]
  rfl
end

/-- R224: what a write at the home leaves of memory is what putting its bytes there leaves. -/
theorem homeWrite_basis (s : State) (k : Nat) (bs : List Byte) : (s.homeWrite k bs).basis = (s.putBytes k bs).basis := by
  rw [State.homeWrite]
  split
  next none => rw [List.isEmpty_iff.1 none, State.putBytes]; simp [State.basis, Store.setList]
  next => simp

/-- R224: a write of the committed line at its home, with no versioned copies, changes its bytes. -/
theorem perform_write_basis {f : Flight} {bs : List Byte} (op : f.op = .write bs) (ver : f.ver = 0) (none : s.vspans = []) :
    (s.perform f).basis = (s.putBytes f.key bs).basis := by
  have written : ∀ u : State, u.basis = (s.homeWrite f.key bs).basis → u.displace.basis = (s.putBytes f.key bs).basis := by
    intro u hu
    have vs : u.vspans = [] := (vspans_of_basis (hu.trans (homeWrite_basis ..))).trans none
    rw [State.displace_none _ vs]
    exact hu.trans (homeWrite_basis ..)
  rw [State.perform, ver, op]
  refine (congrArg State.basis (if_neg (by simp [Dom.liveVer]))).trans ?_
  dsimp only
  refine written _ ?_
  rw [State.writeFor, if_pos rfl, if_pos rfl]
  cases f.poison <;> simp

theorem memByte_putBytes_if {k : Nat} {bs : List Byte} (h : isHostKey (k + bs.length) = isHostKey k) (j : Nat) :
    (s.putBytes k bs).memByte j = if h : k ≤ j ∧ j < k + bs.length then bs[j - k]'(by omega) else s.memByte j := by
  by_cases inside : k ≤ j ∧ j < k + bs.length
  · refine State.memByte_putBytes _ _ _ _ fun hj => ?_
    rw [← h]
    simp only [isHostKey, decide_eq_true_eq] at hj ⊢
    omega
  · rw [dif_neg inside, State.memByte_putBytes_outside _ _ _ _ (by omega)]

/-- An operation whose serial is its own is the one that its acknowledgement performs. -/
theorem drainIf_head {f : Flight} {rest : List Flight} (hf : s.flight = f :: rest) (own : ∀ g ∈ rest, g.serial ≠ f.serial) :
    s.drainIf (fun g => g.serial == f.serial) = ({ s with flight := rest } : State).perform f := by
  have others : needed (fun g => g.serial == f.serial) rest = [] := needed_eq_nil fun g hg => beq_eq_false_iff_ne.2 (own g hg)
  have this : needed (fun g => g.serial == f.serial) (f :: rest) = [f] := by
    rw [needed] at others ⊢
    rw [List.foldr_cons, others, beq_self_eq_true]
    rfl
  have kept : ((f :: rest).filter fun g => !([f].contains g)) = rest := by
    rw [List.filter_cons_of_neg (by simp), List.filter_eq_self]
    intro g hg
    have apart : g ≠ f := fun e => own g hg (congrArg Flight.serial e)
    simp [apart]
  rw [State.drainIf, hf, this, kept]
  rfl

theorem acknowledge_head {f : Flight} {rest : List Flight} (hf : s.flight = f :: rest) (own : ∀ g ∈ rest, g.serial ≠ f.serial)
    (cross : s.crossHeld f = false) :
    exec (.homeAcknowledgement f.serial) s = .next (({ s with flight := rest } : State).perform f) := by
  have free : (s.flightHeld fun g => g.serial == f.serial) = false := by
    have others : needed (fun g => g.serial == f.serial) rest = [] := needed_eq_nil fun g hg => beq_eq_false_iff_ne.2 (own g hg)
    rw [needed] at others
    rw [State.flightHeld, hf, needed, List.foldr_cons, others, beq_self_eq_true]
    simpa using cross
  refine (if_neg (by rw [free]; exact Bool.false_ne_true)).trans ?_
  rw [drainIf_head hf own]

/-- R224, item 1: the bytes of the last store on its way are what its path reads. -/
theorem viewByte_send_write {home : Bool} {k va : Nat} {bs : List Byte} {j : Nat} (h : j < bs.length) :
    (s.send r home k va (.write bs) false).viewByte r home (k + j) = bs[j] := by
  have own : flightByte (s.send r home k va (.write bs) false).flight r (k + j) = some bs[j] := by
    rw [flightByte, State.send, List.foldl_append]
    refine (if_pos ?_).trans ?_
    · simp [Flight.of, h]
    · rw [Nat.add_sub_cancel_left, List.getElem?_eq_getElem h]
  rw [State.viewByte, own]

theorem storesPerformed : Rules.StoresPerformed := by
  intro s r home k va bs
  refine ⟨fun i h => viewByte_send_write h, fun f rest hf op ver cross own host => ?_⟩
  refine ⟨_, acknowledge_head hf own cross, fun none => ?_⟩
  have basis := perform_write_basis (s := { s with flight := rest }) op ver none
  refine ⟨flight_of_basis basis, fun j => (memByte_of_basis basis j).trans (memByte_putBytes_if host j)⟩

/-! ### Sending the stores of an instruction -/

/-- What holds of every value of a store, and of what an absent key reads as, holds of every value read. -/
theorem get_of_forall {β : Type} {dflt : β} {m : Store β} {P : β → Prop} (none : P dflt) (h : ∀ c ∈ m, P c.2) (k : Nat) :
    P (Store.get dflt m k) := by
  induction m with
  | nil => exact none
  | cons c m ih =>
    rw [Store.get]
    split
    · exact h c (List.mem_cons_self ..)
    · exact ih fun c hc => h c (List.mem_cons_of_mem _ hc)

/-- In a store with no dirty byte none that is read is dirty. -/
theorem get_not_dirty {m : Store CopyByte} (h : ∀ c ∈ m, c.2.dirty = false) (k : Nat) :
    (Store.get CopyByte.none m k).dirty = false :=
  get_of_forall (P := fun c : CopyByte => c.dirty = false) rfl h k

/-- With no dirty copy nothing is written from an L1 to the remote-data cache. -/
theorem l1ToRdc_clean (h : ∀ c ∈ s.copies, c.2.dirty = false) (core : Nat) (f : Nat → Bool) : s.l1ToRdc core f = s :=
  List.foldl_fixed' (fun x => if_neg (by rw [State.copyByte, get_not_dirty h]; exact Bool.false_ne_true)) _

/-- With no dirty copy nothing is written back; at most it is noted that the unit's bytes are owed (R466). -/
theorem writeBack_clean (h : ∀ c ∈ s.copies, c.2.dirty = false) (unit : Nat) (f : Nat → Bool) :
    ∃ o, s.writeBack unit f = { s with owed := o } := by
  have clean : ∀ unit k, (s.copyByte unit k).dirty = false := fun unit k => get_not_dirty h _
  have none_whole : s.wholeDirty unit f = [] := by
    refine List.filterMap_eq_nil_iff.2 fun x _ => if_neg fun all => ?_
    simp only [Bool.and_eq_true, List.all_eq_true, List.mem_range] at all
    exact Bool.false_ne_true ((clean ..).symm.trans (all.2 0 (by omega)).1)
  rw [State.writeBack, none_whole]
  split
  · exact ⟨_, rfl⟩
  · refine ⟨s.owed, ?_⟩
    dsimp only [List.foldl_nil]
    exact List.foldl_fixed' (fun x => if_neg (by rw [clean]; exact Bool.false_ne_true)) _

/-- With no dirty copy a release has nothing to write back; at most it notes that the unit's bytes are owed (R466). -/
theorem releaseCore_clean (h : ∀ c ∈ s.copies, c.2.dirty = false) (core : Nat) (sc : Scope) :
    ∃ o, s.releaseCore core sc = { s with owed := o } := by
  rw [State.releaseCore, State.flushHome, l1ToRdc_clean h]
  split
  · exact writeBack_clean h ..
  · exact ⟨s.owed, by split <;> rfl⟩

/-- Each write that the stores of an instruction come to lies in the flake of one of them, with its home. -/
theorem mem_coalesce {l : List Out} {y : Out} (h : y ∈ coalesce l) : ∃ x ∈ l, y.home = x.home := by
  rw [coalesce, List.mem_flatMap] at h
  obtain ⟨f, -, h⟩ := h
  have inside : ∀ {x : Out} {rest}, (l.filter fun x => flakeOf x.key == f) = x :: rest → x ∈ l := fun e =>
    (List.mem_filter.1 (e ▸ List.mem_cons_self ..)).1
  dsimp only at h
  split at h
  next x _ bs e _ => exact ⟨x, inside e, by rw [List.mem_singleton.1 h]⟩
  next => exact ⟨y, (List.mem_filter.1 h).1, rfl⟩

/-- A store to a home of the core's own die goes on its way to it. -/
theorem store_near {x : Out} (near : remoteDie (s.coreOf r) x.home x.key = false) (lvl : Nat) (bypass : Bool) (trip : Trip) :
    s.store r lvl bypass trip x =
      s.send r x.home x.key x.va (.write x.bytes) x.poison { trip with pass := trip.pass * 32 + x.pass } := by
  rw [State.store]
  exact if_neg (by rw [near, Bool.and_false]; exact Bool.false_ne_true)

/-- R75: stores to the core's own die leave memory as it is until their homes have acknowledged them, but for what a
release fence before them writes back (R220). -/
theorem sameMemory_storeAll {l : List Out} (near : ∀ x ∈ l, ∀ k, remoteDie (s.coreOf r) x.home k = false)
    (clean : (s.path r).fenced = none ∨ ∀ c ∈ s.copies, c.2.dirty = false) (lvl : Nat) (bypass : Bool) (trip : Trip) :
    SameMemory s (s.storeAll r lvl bypass l trip) := by
  have sends : ∀ (ys : List Out) (g : Out → Trip) (u : State), (∀ y ∈ ys, remoteDie (s.coreOf r) y.home y.key = false) →
      u.coreOf r = s.coreOf r → SameMemory s u → SameMemory s (ys.foldl (fun t x => t.store r lvl bypass (g x) x) u) := by
    intro ys g
    induction ys with
    | nil => exact fun _ _ _ same => same
    | cons y ys ih =>
      intro u near core same
      rw [List.foldl_cons, store_near (core ▸ near y (List.mem_cons_self ..))]
      exact ih _ (fun y hy => near y (List.mem_cons_of_mem _ hy)) core same
  have all : ∀ y ∈ coalesce l, remoteDie (s.coreOf r) y.home y.key = false := fun y hy => by
    obtain ⟨x, hx, home⟩ := mem_coalesce hy
    exact home ▸ near x hx y.key
  have fenced : ∀ sc, (s.path r).fenced = some sc → ∃ o, s.releaseCore (s.coreOf r) sc = { s with owed := o } := fun sc hs =>
    releaseCore_clean (clean.resolve_left (by rw [hs]; exact Option.some_ne_none sc)) ..
  rw [State.storeAll]
  cases hs : (s.path r).fenced with
  | none => exact sends _ _ s all rfl fun _ => rfl
  | some sc =>
    dsimp only
    split
    · exact sends _ _ s all rfl fun _ => rfl
    · obtain ⟨o, same⟩ := fenced sc hs
      rw [same]
      exact sends _ _ _ all rfl fun _ => rfl

/-- The stores of an instruction whose lanes' bytes nothing stands in the way of. -/
theorem storeLane_ok {n v lane : Nat} {va : DWord} {x : Xlat} {bad : Bool} (reach : s.reach r .store n va lane = .ok (x, .device))
    (free : s.owned x.key n = false) (quiet : Untouched s r (decide (dieOfCore (s.coreOf r) = 1)) x.key n) :
    s.storeLane r n v va bad lane = .ok s [] [⟨x.key, x.home, va.toNat, leBytes n v, 0, bad⟩] none := by
  rw [State.storeLane, reach]
  dsimp only
  rw [free, quiet.cross, quiet.bindMeet]
  rfl

theorem globalStores : Rules.GlobalStores := by
  intro s u r d a m x fence h hd ha hl
  dsimp only
  intro goes
  generalize hv : (if fence then u.modPath r (fun p => { p with fenced := widest p.fenced (some m.scope) }) else u) = v
  intro lanes live h0 hm access
  have swept := sweepMem_clean (w := fun _ => []) (ld := fun _ => [])
    (o := fun l => [⟨(x l).key, (x l).home, (v.ea r a m.off l).toNat, leBytes m.size.bytes (v.storeVal r d m.size l), 0, false⟩])
    (f := fun s' l va => s'.storeLane r m.size.bytes (s'.storeVal r d m.size l) va false l) live h0 hm fun l hl => by
      obtain ⟨reach, free, quiet⟩ := access l hl
      exact .inl ⟨storeLane_ok reach free quiet, rfl⟩
  have sent : s.globalStore r d a m (fence || releases m.order) fence = (v.storeAll r (storeLevel (fence || releases m.order) m.scope) (m.hint == 2) ((v.memLanes r).map fun l =>
      ⟨(x l).key, (x l).home, (v.ea r a m.off l).toNat, leBytes m.size.bytes (v.storeVal r d m.size l), l / 32, false⟩)
      { sync := fence || releases m.order }).advance r 2 := by
    have some_lane : (s.memLanes r).isEmpty = false := by rw [List.isEmpty_eq_false_iff]; exact hl
    rw [State.globalStore, hd, ha, Bool.and_self, State.legalIf_true]
    refine (if_neg (by rw [some_lane]; exact Bool.false_ne_true)).trans ((goes _).trans ?_)
    dsimp only
    rw [hv, swept]
    refine (finishShort_clean live rfl rfl).trans ?_
    dsimp only
    rw [← flatMap_singleton']
    rfl
  refine ⟨fun plain => ?_, fun fenced => ?_, fun near clean => ?_⟩
  · subst plain
    exact (issued_next h _).trans (congrArg _ sent)
  · subst fenced
    exact (issued_next h _).trans (congrArg _ sent)
  · refine sameMemory_storeAll (s := v) (fun y hy k => ?_) clean _ _ _
    obtain ⟨l, hl, rfl⟩ := List.mem_map.1 hy
    exact remoteDie_near (inWindow_of_target (target_of_reach (access l hl).1)) (near _ hy)

/-- Settles O28: global stores, from their issue to their home. -/
theorem globalStoresPerformed : Obligations.GlobalStoresPerformed := ⟨globalStores, storesPerformed⟩

end Sys2Proof.Machine
end

section
/-! SUPPORT. Atomics of one lane (R271 to R275). -/

namespace Sys2Proof.Machine

variable {s u t : State} {r : PathRef} {i : Instr}

/-! ### Paths under a write at a home -/

theorem live_modPath {f : Path → Path} (h : ∀ p, (f p).live = p.live) (r q : PathRef) :
    ((s.modPath r f).path q).live = (s.path q).live := by
  rw [State.path_modPath]
  split
  next e => rw [h, e]
  next => rfl

theorem Path.advance_live (p : Path) (n : Nat) : (p.advance n).live = p.live := by
  rw [Path.advance]
  split <;> rfl

@[simp] theorem live_advance (r q : PathRef) (n : Nat) : ((s.advance r n).path q).live = (s.path q).live :=
  live_modPath (Path.advance_live · n) r q

theorem live_land (k n : Nat) (q : PathRef) : ((s.land k n).path q).live = (s.path q).live := by
  rw [State.land]
  refine foldl_same (fun s : State => (s.path q).live) _ _ _ fun s r => ?_
  split
  · split
    · split
      · rw [State.endWait, live_advance, State.path_sset]
        refine live_modPath ?_ r q
        exact fun _ => rfl
      · refine live_modPath ?_ r q
        exact fun _ => rfl
    · rfl
  · rfl

theorem live_homeWrite (k : Nat) (bs : List Byte) (q : PathRef) : ((s.homeWrite k bs).path q).live = (s.path q).live := by
  rw [State.homeWrite]
  split
  · rfl
  · rw [live_land, State.recall]
    split <;> rfl

/-! ### One lane at the home -/

section
variable {n lane l : Nat} {va : DWord} {x : Xlat} (h : PlainAccess u r .atomic n va lane x) (none : u.vspans = [])
include h none

/-- R272 to R274: the word at the home is read, and written where the operation writes. -/
theorem rmwLane_plain (f : Nat → Option Nat) (k : Nat → List RegWrite) :
    u.rmwLane r n va f k lane =
      .ok ((f (u.memNat x.key n)).elim u fun new => u.homeWrite x.key (leBytes n new)) (k (u.memNat x.key n)) [] .none := by
  have quiet : ((u.bindMeet r x.key n).drainSync r).drain r x.key n = u := by
    rw [h.quiet.bindMeet, h.quiet.drainSync, h.quiet.drain]
  have written : ∀ bs, (u.homeWrite x.key bs).displace = u.homeWrite x.key bs := fun bs =>
    State.displace_none _ ((vspans_of_basis (homeWrite_basis ..)).trans none)
  rw [State.rmwLane, h.reach]
  dsimp only
  rw [h.held, quiet, fillHost_device n h.place, h.version]
  refine (if_neg (by exact Bool.false_ne_true)).trans ?_
  rw [bne_self_eq_false, if_neg Bool.false_ne_true, h.homeSync, h.version, h.sound, if_neg Bool.false_ne_true, homeBytes_zero]
  change (match f (u.memNat x.key n) with | .none => _ | some new => _) = _
  cases f (u.memNat x.key n) with
  | none => rfl
  | some new => exact congrArg (fun t => LaneRes.ok t _ _ _) (written _)
end

theorem missesFor_one {n l : Nat} {ea : Nat → DWord} (hl : l < 1024) : missesFor n ea [l] = (flakesOf n (ea l)).eraseDups.length := by
  simp [missesFor, passesOf_one hl]

/-- A sweep of a global access with one lane, which is performed. -/
theorem sweepMem_one_ok {n l : Nat} {ea : Nat → DWord} {f : State → Nat → DWord → LaneRes} {ws : List RegWrite}
    (h1 : u.memLanes r = [l]) (h0 : (u.path r).done = 0) (live : (u.path r).live = true) (hm : MissesFree u r n ea)
    (hf : f u l (ea l) = .ok t ws [] none) :
    u.sweepMem r n ea f = { s := t, ws := ws, done := laneBit l, misses := missesFor n ea [l] } := by
  have hlt : l < 1024 := memLanes_lt (s := u) (r := r) (by rw [h1]; exact List.mem_singleton_self l)
  rw [MissesFree, h1, missesFor_one hlt] at hm
  rw [sweepMem_one h1 h0 hm, missesFor_one hlt]
  exact (Sweep.lane_ok BitVec.getLsbD_zero live rfl rfl hf).trans (by simp [inPass])

section
variable {a : MAddr} {m : MDesc} {l flag : Nat} {x : Xlat}

/-- R272 to R274: a long-latency read-modify-write of one lane. -/
theorem rmwAll_plain (h1 : s.memLanes r = [l]) (u1 : u.memLanes r = [l]) (hf : (s.path r).slot = .ok flag)
    (live : (u.path r).live = true) (h0 : (u.path r).done = 0) (order : OrderGoes s r m.order (s.memScope r .atomic a m) u)
    (none : u.vspans = []) (hm : MissesFree u r m.size.bytes (u.ea r a m.off))
    (plain : PlainAccess u r .atomic m.size.bytes (u.ea r a m.off l) l x) (vregs : List Nat) (f : Nat → Nat → Option Nat)
    (k : Nat → Nat → List RegWrite) :
    s.rmwAll r a m vregs f k =
      (((f l (u.memNat x.key m.size.bytes)).elim u fun new => u.homeWrite x.key (leBytes m.size.bytes new)).startPend r flag
        (k l (u.memNat x.key m.size.bytes)) .none false .none (missesFor m.size.bytes (u.ea r a m.off) [l]) true).advance r 2 := by
  have lived : (((f l (u.memNat x.key m.size.bytes)).elim u fun new => u.homeWrite x.key (leBytes m.size.bytes new)).path r).live = true := by
    cases f l (u.memNat x.key m.size.bytes) with
    | none => exact live
    | some new => exact (live_homeWrite ..).trans live
  rw [State.rmwAll, State.withSlot_ok hf, h1]
  refine (if_neg (by exact Bool.false_ne_true)).trans ((order _).trans ?_)
  rw [sweepMem_one_ok u1 h0 live hm (rmwLane_plain plain none (f l) (k l))]
  refine (Sweep.finish_clean lived rfl rfl).trans ((if_neg (by exact Bool.false_ne_true)).trans ?_)
  rw [storeAll_nil]
  rfl
end

theorem atomicsReturning : Rules.AtomicsReturning := by
  intro s u r d a m l f x h ha h1 u1 hf live h0 order none hm plain
  dsimp only
  have all := rmwAll_plain h1 u1 hf live h0 order none hm plain
  refine ⟨fun hd => ⟨fun op hop => ?_, ?_⟩, fun hc => ?_⟩
  · refine (issued_next h _).trans (congrArg _ ?_)
    rw [hd, ha, Bool.and_self, State.legalIf_true, hop]
    exact all ..
  · refine (issued_next h _).trans (congrArg _ ?_)
    rw [hd, ha, Bool.and_self, State.legalIf_true]
    exact all ..
  · have both : s.casAll r d a m = ((if u.memNat x.key m.size.bytes = s.dataGet r d.toNat (s.casHalf r m.size) l % 2 ^ (8 * m.size.bytes) then
        u.homeWrite x.key (leBytes m.size.bytes (s.dataGet r (d.toNat + s.casHalf r m.size) (s.casHalf r m.size) l % 2 ^ (8 * m.size.bytes)))
        else u).startPend r f (s.dataSet r d.toNat (s.casHalf r m.size) l (u.memNat x.key m.size.bytes)) .none false .none
          (missesFor m.size.bytes (u.ea r a m.off) [l]) true).advance r 2 := by
      rw [State.casAll, hc, ha, Bool.and_self, State.legalIf_true]
      refine (all ..).trans ?_
      split <;> rfl
    exact ⟨(issued_next h _).trans (congrArg _ both), (issued_next h _).trans (congrArg _ both)⟩

section
variable {m : MDesc} {l : Nat} {x : Xlat} {op : AtomOp}

theorem atmLane_sent {n v lane pass : Nat} {va : DWord} (h : PlainAccess u r .atomic n va lane x)
    (meet : u.meetHeld r (decide (dieOfCore (u.coreOf r) = 1)) x.key n = false) :
    u.atmLane r op n v false pass va lane =
      .ok (u.send r x.home x.key va.toNat (.atomic op n (BitVec.ofNat 64 v)) false { pass := pass }) [] [] none := by
  have quiet : (u.bindMeet r x.key n).drain r x.key n = u := by rw [h.quiet.bindMeet, h.quiet.drain]
  rw [State.atmLane, h.reach]
  refine (if_neg (by exact Bool.false_ne_true)).trans ?_
  refine (if_neg (by exact Bool.false_ne_true)).trans ((if_neg ?_).trans ?_)
  · rw [h.free, meet]
    exact Bool.false_ne_true
  · rw [quiet, fillHost_device n h.place]
    dsimp only
    rw [h.version, if_pos rfl, h.homeSync]

theorem atmLane_now {n v lane pass : Nat} {va : DWord} (h : PlainAccess u r .atomic n va lane x) (none : u.vspans = []) :
    u.atmLane r op n v true pass va lane =
      .ok (u.homeWrite x.key (leBytes n (atomNew op (8 * n) (u.memNat x.key n) v))) [] [] .none := by
  rw [State.atmLane, h.reach]
  refine (if_pos (by exact rfl)).trans ?_
  rw [rmwLane_plain h none]
  rfl
end

/-- R272: at its home an atomic of the committed line writes the value of its operation. -/
theorem perform_atomic_basis {f : Flight} {op : AtomOp} {n : Nat} {v : BitVec 64} (fop : f.op = .atomic op n v) (ver : f.ver = 0)
    (sound : s.poisonedIn f.dom 0 f.key n = false) (none : s.vspans = []) :
    (s.perform f).basis = (s.putBytes f.key (leBytes n (atomNew op (8 * n) (s.memNat f.key n) v.toNat))).basis := by
  have spans : s.useSpans f.dom 0 f.key = s := by
    rw [State.useSpans, none]
    rfl
  rw [State.perform, ver, fop]
  refine (congrArg State.basis (if_neg (by simp [Dom.liveVer]))).trans ?_
  dsimp only
  rw [sound, if_neg Bool.false_ne_true, if_pos rfl, spans, homeBytes_zero, State.writeFor, if_pos rfl]
  have written := fun bs => (State.refresh_basis (s.homeWrite f.key bs) f.key f.core f.home bs).trans (homeWrite_basis s f.key bs)
  refine (congrArg State.basis (State.displace_none _ ((vspans_of_basis (written _)).trans none))).trans (written _)

theorem memNat_of_sameMemory (h : SameMemory s t) (k n : Nat) : t.memNat k n = s.memNat k n :=
  congrArg leNat (List.map_congr_left fun i _ => h (k + i))

theorem atomicsSent : Rules.AtomicsSent := by
  intro s u r d a m l x op
  refine ⟨fun h hd ha h1 u1 live h0 order hop hm plain meet => ?issue, fun f rest n v hf fop ver cross own host sound none => ?home⟩
  case issue =>
    have finish : ∀ (acq : Bool) (t : State), acquires m.order = acq → (t.path r).live = true →
        u.atmLane r op m.size.bytes (u.storeVal r d m.size l) acq (u.nextSer * 32 + l / 32) (u.ea r a m.off l) l = .ok t [] [] .none →
        exec (.atm d a m) s = .next (t.advance r 2) := by
      intro acq t hacq live' lane
      refine (issued_next h _).trans (congrArg _ ?_)
      rw [hd, ha, Bool.and_self, State.legalIf_true, hop, h1]
      refine (if_neg (by exact Bool.false_ne_true)).trans ((order _).trans ?_)
      dsimp only
      rw [hacq, sweepMem_one_ok (t := t) (ws := []) u1 h0 live hm lane]
      refine (finishShort_clean live' rfl rfl).trans ?_
      rw [storeAll_nil]
    exact ⟨fun acq => finish _ _ acq live (atmLane_sent plain meet),
      fun acq none => finish _ _ acq ((live_homeWrite ..).trans live) (atmLane_now plain none)⟩
  case home =>
    refine ⟨_, acknowledge_head hf own cross, ?_⟩
    have basis := perform_atomic_basis (s := { s with flight := rest }) fop ver sound none
    refine ⟨flight_of_basis basis, ?_, fun j outside => ?_⟩
    · refine (memNat_of_sameMemory (memByte_of_basis basis) ..).trans ?_
      rcases Nat.eq_zero_or_pos n with rfl | some_byte
      · rw [Nat.mul_zero, pow_zero, Nat.mod_one]
        rfl
      · refine memNat_putBytes_same ?_
        simp only [isHostKey, decide_eq_decide] at host ⊢
        omega
    · refine (memByte_of_basis basis j).trans (State.memByte_putBytes_outside _ _ _ _ ?_)
      rwa [leBytes_length]

/-- Settles O29: atomics, at their home in one step. -/
theorem atomics : Obligations.Atomics := ⟨atomicsReturning, atomicsSent⟩

end Sys2Proof.Machine
end

section
/-! SUPPORT. Loads from a parameter window (R76, R265). -/

namespace Sys2Proof.Machine

variable {s u t : State} {r : PathRef} {i : Instr}

/-- A byte of a window that no access of the path, no other core's copy and no poison stands in the way of. -/
structure PlainByte (s : State) (r : PathRef) (x : Xlat) : Prop where
  device : x.host = false
  place : isHostKey x.key = false
  near : remoteDie (s.coreOf r) x.home x.key = false
  soundIn : s.poisonedIn (s.domOf r) (s.verOf r) x.key 1 = false
  sound : s.poisoned x.key 1 = false
  free : s.owned x.key 1 = false
  quiet : Untouched s r x.home x.key 1

theorem target_noRegions (h : s.regions = []) (c va : Nat) {x : Xlat} (device : x.host = false) :
    s.target c va x = some (if inWindow x.key then .window else .device) := by
  rw [State.target, State.region, h]
  dsimp only [List.find?_nil]
  rw [device, if_neg Bool.false_ne_true]
  split <;> rfl

/-- R225, R229: the byte is bound as the path reads it, and nothing changes. -/
theorem PlainByte.windowByte {x : Xlat} (h : PlainByte s r x) (spans : s.vspans = []) (own : ∀ o ∈ s.l1own, o.core = s.coreOf r) :
    s.windowByte r (if inWindow x.key then .window else .device) x = (s, s.viewByte r x.home x.key, false) := by
  split
  · exact congrArg (fun b => (s, _, b)) h.sound
  · have drained : ∀ g : Flight → Bool, s.drainIf (fun f => f.of r && (f.sync || (meets f.key f.size x.key 1 && g f))) = s := by
      refine fun g => drainIf_none fun f hf => ?_
      cases own : f.of r with
      | false => rfl
      | true =>
        obtain ⟨sync, miss⟩ := h.quiet.idle f hf own
        rw [sync, miss]
        rfl
    have fill : s.fillLoad (s.coreOf r) x.home x.key false = s := by rw [State.fillLoad, h.near]; rfl
    have spansUsed : s.useSpans (s.domOf r) (s.verOf r) x.key = s := by rw [State.useSpans, spans]; rfl
    have recalled : s.recallBut (s.coreOf r) (placeKey (s.domOf r) (s.verOf r) x.key) 1 = s := recallBut_own fun o ho => .inl (own o ho)
    have clean : s.poisonedAt (s.coreOf r) x.home (s.domOf r) (s.verOf r) x.key 1 = false := by
      rw [State.poisonedAt]
      split
      · rw [show List.range 1 = [0] from rfl, List.any_cons, List.any_nil, Bool.or_false, Nat.add_zero, State.cachedBad, h.near,
          if_neg Bool.false_ne_true, h.sound]
      · exact h.soundIn
    have bound : s.bindBytes r x.home x.key 1 false = (s, [s.viewByte r x.home x.key], false) := by
      rw [State.bindBytes, drained]
      simp only [h.near, fillHost_device 1 h.place, fill, spansUsed, ite_self, recalled, clean, Bool.and_false, Bool.false_eq_true, if_false]
      rfl
    change ((s.bindBytes r x.home x.key 1 false).1, _, _) = _
    rw [bound]
    rfl

/-- R76, R265: a lane reads its bytes one by one. -/
theorem windowLane_plain {n lane : Nat} {va : DWord} {xs : List Xlat} (bytes : s.bytesAt r va lane n = .ok xs) (regions : s.regions = [])
    (spans : s.vspans = []) (plain : ∀ x ∈ xs, PlainByte s r x) (own : ∀ o ∈ s.l1own, o.core = s.coreOf r) (k : Nat → List RegWrite) :
    s.windowLane r n va k lane = .ok s (k (leNat (xs.map fun x => s.viewByte r x.home x.key))) [] none := by
  have targets : (xs.zipIdx.map fun x => (x.1, s.target (s.ctxOf r) (va.toNat + x.2) x.1)) =
      xs.map fun x => (x, some (if inWindow x.key then .window else .device)) := by
    calc xs.zipIdx.map (fun x => (x.1, s.target (s.ctxOf r) (va.toNat + x.2) x.1))
        = xs.zipIdx.map ((fun x => (x, some (if inWindow x.key then .window else .device))) ∘ Prod.fst) :=
          List.map_congr_left fun e he =>
            congrArg (Prod.mk e.1) (target_noRegions regions _ _ (plain e.1 (List.fst_mem_of_mem_zipIdx he)).device)
      _ = _ := by rw [← List.map_map, List.zipIdx_map_fst]
  have refused : ∀ g : Xlat × Option Target → Bool, (∀ x, g (x, some .device) = false) → (∀ x, g (x, some .window) = false) →
      (xs.map fun x => (x, some (if inWindow x.key then Target.window else .device))).any g = false := by
    intro g device window
    rw [List.any_map, List.any_eq_false]
    intro x _
    dsimp only [Function.comp_apply]
    split
    · rw [window]; exact Bool.false_ne_true
    · rw [device]; exact Bool.false_ne_true
  have read : ∀ (ys : List Xlat) (acc : List Byte), (∀ x ∈ ys, PlainByte s r x) →
      (ys.map fun x => (x, some (if inWindow x.key then Target.window else .device))).foldl (fun (y : State × List Byte × Bool) x =>
        let b := y.1.windowByte r (x.2.getD .device) x.1
        (b.1, y.2.1 ++ [b.2.1], y.2.2 || b.2.2)) (s, acc, false) = (s, acc ++ ys.map fun x => s.viewByte r x.home x.key, false) := by
    intro ys
    induction ys with
    | nil => simp
    | cons y ys ih =>
      intro acc plain
      rw [List.map_cons, List.foldl_cons]
      dsimp only [Option.getD_some]
      rw [(plain y (List.mem_cons_self ..)).windowByte spans own]
      refine (ih _ fun x hx => plain x (List.mem_cons_of_mem _ hx)).trans ?_
      simp
  have met : ∀ ys : List Xlat, (∀ x ∈ ys, PlainByte s r x) → ys.foldl (fun s x => s.bindMeet r x.key 1) s = s := by
    intro ys
    induction ys with
    | nil => exact fun _ => rfl
    | cons y ys ih =>
      intro plain
      rw [List.foldl_cons, (plain y (List.mem_cons_self ..)).quiet.bindMeet]
      exact ih fun x hx => plain x (List.mem_cons_of_mem _ hx)
  have free : (xs.any fun x => s.owned x.key 1 || s.meetHeld r x.home x.key 1) = false := by
    rw [List.any_eq_false]
    intro x hx
    rw [(plain x hx).free, (plain x hx).quiet.cross]
    exact Bool.false_ne_true
  rw [State.windowLane, bytes]
  dsimp only
  rw [targets, free, met xs plain, read xs [] plain]
  refine (if_neg ?_).trans ((if_neg ?_).trans ?_)
  · rw [refused _ (fun _ => rfl) fun _ => rfl]
    exact Bool.false_ne_true
  · rw [refused _ (fun _ => rfl) fun _ => rfl, Bool.and_false]
    exact Bool.false_ne_true
  · rfl

/-- Settles O30: a load from a parameter window, within and beyond the window. -/
theorem parameterLoads : Obligations.ParameterLoads := by
  intro s r d a m f l xs h hd ha hf h0 h1
  dsimp only
  intro hm
  have live : (s.path r).live = true := h.live
  have finish : ∀ (t : State) (ws : List RegWrite), (t.path r).live = true →
      (let o := (s.ea r { a with base := 0 } m.off l).toInt
       let w := (s.gridOf r).record.windows.getD (a.base.toNat % 8) (0, 0)
       if 0 ≤ o ∧ w.2 ≠ 0 ∧ o.toNat + m.size.bytes ≤ w.2 then
         s.windowLane r m.size.bytes (w.1 + s.ea r { a with base := 0 } m.off l) (fun x => s.loadWrites r d m.size (m.op.getLsbD 0) l x) l
       else .ok (s.addStatus r stPWV) (s.loadWrites r d m.size (m.op.getLsbD 0) l 0) [] none) = .ok t ws [] none →
      exec (.ldp d a m) s = .next ((t.startPend r f ws none false none (missesFor m.size.bytes (fun l =>
        ((s.gridOf r).record.windows.getD (a.base.toNat % 8) (0, 0)).1 + s.ea r { a with base := 0 } m.off l) [l]) true).advance r 2) := by
    intro t ws live' lane
    refine (issued_next h _).trans (congrArg _ ?_)
    rw [hd, ha, Bool.and_self, State.legalIf_true, State.withSlot_ok hf, h1]
    dsimp only
    rw [sweepMem_one_ok (t := t) (ws := ws) h1 h0 live hm lane]
    refine (Sweep.finish_clean live' rfl rfl).trans ((if_neg (by exact Bool.false_ne_true)).trans ?_)
    rw [storeAll_nil]
    rfl
  refine ⟨fun low high some_byte bytes regions spans plain own => ?within, fun outside => ?beyond⟩
  case within =>
    refine finish s _ live ((if_pos ⟨low, some_byte, high⟩).trans (windowLane_plain bytes regions spans (fun x hx => ?_) own _))
    obtain ⟨device, place, near, soundIn, sound, free, quiet⟩ := plain x hx
    exact ⟨device, place, near, soundIn, sound, free, quiet⟩
  case beyond =>
    refine finish (s.addStatus r stPWV) _ ?_ (if_neg fun inside => outside ⟨inside.1, inside.2.1, inside.2.2⟩)
    rw [State.addStatus, State.path_modPath_same]
    exact live

end Sys2Proof.Machine
end

section
/-! SUPPORT. Cache maintenance where a core's copies are not in their canonical form (R264, R466). -/

namespace Sys2Proof.Machine
open Sys2Proof.Tests

/-! ### A line listed twice -/

/-- A bench whose die-to-die connection drains, and whose copies list the byte at 0x2000 twice: a clean copy, and behind
it a dirty one. -/
def listedTwice : State :=
  { one 0x7D 0x2000 with
    dq := true, copies := [(0x2000, .filled 0 0 false), (0x2000, .written 0)] }

/-- The descriptor of a `cinv` of one line at die scope. -/
def oneLine : MDesc := mdesc .b8 .die .plain

theorem listedTwice_translate :
    listedTwice.translate (listedTwice.coreOf r0) (listedTwice.ctxOf r0) (listedTwice.kernel r0) .cache
      (listedTwice.ea r0 base oneLine.off 0) (some r0) 0 = .ok ⟨0x2000, false, false⟩ := by
  rfl

/-- The clean copy is dropped, and the dirty one behind it, which waits to cross, is then the line's. -/
theorem listedTwice_stays :
    ((listedTwice.maintain r0 true .die fun j => decide (0x2000 ≤ j) && decide (j < 0x2020)).copyByte (listedTwice.coreOf r0) 0x2000).valid =
      true := by decide +kernel

/-- Refutes O31: in a state whose copies list one byte twice, `cinv` drops the first entry alone while the die-to-die
connection drains, and the core still holds the byte. -/
theorem not_cacheMaintenance : ¬ Obligations.CacheMaintenance := by
  unfold Obligations.CacheMaintenance
  intro holds
  obtain ⟨-, line, -⟩ := holds listedTwice r0 base oneLine (iss (by decide +kernel)) (by decide +kernel)
  obtain ⟨-, -, dropped⟩ := line 0 ⟨0x2000, false, false⟩ (by decide +kernel) (by decide +kernel) (by decide +kernel)
    listedTwice_translate (by decide +kernel) (by decide +kernel) (by decide +kernel) (by decide +kernel)
  have gone := dropped (by decide +kernel) 0x2000 (by decide +kernel)
  exact Bool.false_ne_true (gone.symm.trans listedTwice_stays)

end Sys2Proof.Machine
end

section
/-! SUPPORT. Remote instructions at their source (R127, R266 to R268). -/

namespace Sys2Proof.Machine

variable {s u t : State} {r : PathRef} {i : Instr}

/-- The slot of an instruction of several runs: it is free, or its flag is busy with no operation in progress. -/
theorem withOwnSlot_ok {f : Nat} (h : (s.path r).slot = .ok f ∨ (s.path r).slot = .busy f ∧ s.pend = []) (k : Nat → State) :
    s.withOwnSlot r k = k f := by
  rcases h with ok | ⟨busy, none⟩
  · have free : s.withOwnSlot r k = s.withSlot r k := by rw [State.withOwnSlot, ok]
    exact free.trans (State.withSlot_ok ok _)
  · rw [State.withOwnSlot, busy, none]
    rfl

theorem drainSync_none (h : ∀ f ∈ s.flight, f.of r = true → f.sync = false) : s.drainSync r = s ∧ s.syncHeld r = false := by
  have quiet : ∀ f ∈ s.flight, (f.of r && f.sync) = false := fun f hf => by
    cases own : f.of r with
    | false => rfl
    | true => exact h f hf own
  refine ⟨drainIf_none quiet, ?_⟩
  rw [State.syncHeld, State.flightHeld, needed_eq_nil quiet]
  rfl

theorem Path.advance_flags (p : Path) (n : Nat) : (p.advance n).flags = p.flags := by
  rw [Path.advance]
  split <;> rfl

/-- A flag that has been cleared reads as clear. -/
theorem flags_clearFlag_self (s : State) (r : PathRef) (f : Nat) : ((s.clearFlag r f).path r).flags.getLsbD f = false := by
  rw [State.clearFlag, State.path_modPath_same, BitVec.getLsbD_and, BitVec.getLsbD_not, BitVec.getLsbD_ofNat,
    Nat.testBit_two_pow_self]
  simp

/-- The registers that the replies to a remote instruction are for. -/
def destOf (d : Byte) (sx : Bool) : RemoteKind → Option (Byte × Bool)
  | .load _ => some (d, sx)
  | .store => none
  | .atomic _ returns => if returns then some (d, false) else none

section
variable {k : RemoteKind} {d : Byte} {a : MAddr} {peer : VReg} {m : MDesc} {f : Nat}
variable (uniform : (s.team r.tok).uniform = false) (hp : s.vOk r [peer] = true) (ha : s.addrOk r a = true)
  (hd : s.dataOk r d m.size = true) (order : m.order = .plain) (lanes : s.memLanes r ≠ [])
  (slot : (s.path r).slot = .ok f ∨ (s.path r).slot = .busy f ∧ s.pend = [])
include uniform hp ha hd order lanes slot

/-- R267: with every lane done the instruction completes. -/
theorem remoteAll_done (kind : ∀ b, k ≠ .atomic .cas b) (done : ((s.memLanes r).filter fun l => !(s.path r).done.getLsbD l) = []) :
    s.remoteAll r k d a peer m = ((s.takeSlot r).endRuns r f).advance r 2 := by
  have some_lane : (s.memLanes r).isEmpty = false := by rw [List.isEmpty_eq_false_iff]; exact lanes
  unfold State.remoteAll
  dsimp only
  split
  next b => exact absurd rfl (kind b)
  next =>
    rw [uniform, hp, ha, hd]
    refine (State.legalIf_true ..).trans ?_
    rw [withOwnSlot_ok slot]
    refine (if_neg (by rw [some_lane]; exact Bool.false_ne_true)).trans ?_
    rw [order]
    refine (State.releaseIf_false ..).trans ?_
    rw [done]
    rfl

/-- R267: the lanes of the first peer that are not done are one request. -/
theorem remoteAll_sends (live : (s.path r).live = true) (kind : ∀ b, k ≠ .atomic .cas b) {e : Nat} {rest : List Nat}
    (left : ((s.memLanes r).filter fun l => !(s.path r).done.getLsbD l) = e :: rest) {g : List Nat}
    (group : g = (e :: rest).filter fun l => s.vget r peer l == s.vget r peer e) (open' : s.arrived = false)
    (sound : ∀ l ∈ g, s.remoteFault r k m.size.bytes (s.ea r a m.off l) (s.vget r peer e) = none)
    (sync : (∃ op b, k = .atomic op b) → ∀ f ∈ s.flight, f.of r = true → f.sync = false) :
    s.remoteAll r k d a peer m = (s.setFlag r f).sendRun r (s.vget r peer e) (s.remoteBody r k d m.size (s.ea r a m.off) g)
      (maskOf g fun _ => true) (destOf d (m.op.getLsbD 0) k) none := by
  have some_lane : (s.memLanes r).isEmpty = false := by rw [List.isEmpty_eq_false_iff]; exact lanes
  rw [State.vget] at sound ⊢
  change g = (e :: rest).filter fun l => (s.team r.tok).vget peer l == (s.team r.tok).vget peer e at group
  have first : ∃ gs, g = e :: gs := ⟨_, group.trans (List.filter_cons_of_pos (by exact beq_self_eq_true _))⟩
  have all : (g.takeWhile fun l => (s.remoteFault r k m.size.bytes (s.ea r a m.off l) ((s.team r.tok).vget peer e)).isNone) = g :=
    List.takeWhile_eq_self_iff.2 fun l hl => by rw [sound l hl]; rfl
  have none_bad : (g.find? fun l => (s.remoteFault r k m.size.bytes (s.ea r a m.off l) ((s.team r.tok).vget peer e)).isSome) = none :=
    List.find?_eq_none.2 fun l hl => by rw [sound l hl]; exact Bool.false_ne_true
  unfold State.remoteAll
  dsimp only
  split
  next b => exact absurd rfl (kind b)
  next =>
    rw [uniform, hp, ha, hd]
    refine (State.legalIf_true ..).trans ?_
    rw [withOwnSlot_ok slot]
    refine (if_neg (by rw [some_lane]; exact Bool.false_ne_true)).trans ?_
    rw [order]
    refine (State.releaseIf_false ..).trans ?_
    rw [left]
    dsimp only
    rw [← group, all, none_bad]
    obtain ⟨gs, first⟩ := first
    rw [first]
    have alive : ¬ (!(s.path r).live) = true := by rw [live]; exact Bool.false_ne_true
    cases k with
    | load acq =>
      exact (if_neg (by rw [open', Bool.and_false]; exact Bool.false_ne_true)).trans
        ((if_neg (by exact Bool.false_ne_true)).trans (if_neg alive))
    | store =>
      exact (if_neg (by rw [open', Bool.and_false]; exact Bool.false_ne_true)).trans
        ((if_neg (by exact Bool.false_ne_true)).trans (if_neg alive))
    | atomic op returns =>
      obtain ⟨drained, free⟩ := drainSync_none (sync ⟨op, returns, rfl⟩)
      refine (if_neg (by exact Bool.false_ne_true)).trans
        ((if_neg (by rw [free, Bool.and_false]; exact Bool.false_ne_true)).trans ?_)
      dsimp only
      rw [Bool.or_true, if_pos rfl, drained, if_neg alive]
      cases returns <;> rfl
end

/-- Settles O32: one request for the lanes of the first peer, or the end of the instruction. -/
theorem remoteRequests : Obligations.RemoteRequests := by
  intro s r d a peer m f h uniform hp ha hd order lanes slot
  dsimp only
  refine ⟨fun e rest left => ?sends, fun left op hop notCas => ?done⟩
  case sends =>
    rw [left]
    have sends := fun k kind open' sound sync =>
      remoteAll_sends (k := k) uniform hp ha hd order lanes slot h.live kind left rfl open' sound sync
    have acq : acquires m.order = false := by rw [order]; rfl
    refine ⟨fun ok => ?_, fun ok => ?_, fun op hop notCas sync => ⟨fun ok => ?_, fun ok => ?_⟩⟩
    · refine (issued_next h _).trans (congrArg _ ?_)
      rw [acq]
      exact sends (.load false) (by simp) ok.1 ok.2 (by simp)
    · exact (issued_next h _).trans (congrArg _ (sends .store (by simp) ok.1 ok.2 (by simp)))
    · refine (issued_next h _).trans (congrArg _ ?_)
      rw [hop]
      exact sends (.atomic op false) (by simp [notCas]) ok.1 ok.2 fun _ => sync
    · refine (issued_next h _).trans (congrArg _ ?_)
      rw [hop]
      exact sends (.atomic op true) (by simp [notCas]) ok.1 ok.2 fun _ => sync
  case done =>
    have ends := fun k kind => remoteAll_done (k := k) uniform hp ha hd order lanes slot kind left
    refine ⟨?_, (issued_next h _).trans (congrArg _ (ends _ (by simp))), (issued_next h _).trans (congrArg _ (ends _ (by simp))),
      ?_, ?_⟩
    · rw [State.path_advance, if_pos rfl, Path.advance_flags]
      exact flags_clearFlag_self ..
    · refine (issued_next h _).trans (congrArg _ ?_)
      rw [hop]
      exact ends (.atomic op false) (by simp [notCas])
    · refine (issued_next h _).trans (congrArg _ ?_)
      rw [hop]
      exact ends (.atomic op true) (by simp [notCas])

end Sys2Proof.Machine
end

section
/-! SUPPORT. The matrix instructions at issue (R279 to R292, R295). -/

namespace Sys2Proof.Machine

variable {s u t : State} {r : PathRef} {i : Instr}

/-! ### What has been read is used -/

/-- Nothing but the order of use of the versioned copies and the recalled flakes changed. -/
def OnlyUses (s t : State) : Prop := t = { s with vspans := t.vspans, l1own := t.l1own }

theorem OnlyUses.refl (s : State) : OnlyUses s s := rfl

theorem OnlyUses.trans (h : OnlyUses s t) (h' : OnlyUses t u) : OnlyUses s u := by
  rw [OnlyUses] at h h'
  rw [OnlyUses, h', h]

theorem onlyUses_foldl {α : Type} {f : State → α → State} (h : ∀ s a, OnlyUses s (f s a)) (l : List α) : OnlyUses s (l.foldl f s) :=
  foldl_keeps (OnlyUses s) f l s (fun t a ht => ht.trans (h t a)) (OnlyUses.refl s)

theorem onlyUses_if {c : Prop} [Decidable c] (h : OnlyUses s t) : OnlyUses s (if c then t else s) := by
  split
  · exact h
  · exact OnlyUses.refl s

theorem OnlyUses.coreSt (h : OnlyUses s t) (k : Nat) : t.coreSt k = s.coreSt k := by rw [h]; rfl
theorem OnlyUses.coreOf (h : OnlyUses s t) (r : PathRef) : t.coreOf r = s.coreOf r := by rw [h]; rfl

theorem onlyUses_useSpans (s : State) (d v k : Nat) : OnlyUses s (s.useSpans d v k) := by
  rw [State.useSpans]
  split <;> rfl

theorem onlyUses_recallBut (s : State) (c k n : Nat) : OnlyUses s (s.recallBut c k n) := by
  rw [State.recallBut]
  split <;> rfl

theorem onlyUses_vUse (s : State) (v : View) (va : DWord) (n : Nat) : OnlyUses s (s.vUse v va n) := by
  rw [State.vUse]
  split
  · rfl
  · refine onlyUses_foldl (fun s i => ?_) _
    split
    · exact (onlyUses_useSpans ..).trans (onlyUses_recallBut ..)
    · rfl

theorem onlyUses_useMul (s : State) (r : PathRef) (m : MulCmd) : OnlyUses s (s.useMul r m) := by
  have block : ∀ (s : State) (v : View) (a : Option DWord),
      OnlyUses s (match a with | some va => s.vUse v va 32 | none => s) := by
    intro s v a
    cases a with
    | none => rfl
    | some va => exact onlyUses_vUse ..
  have rows : ∀ (s : State) (v : View) (f : FmtBlock) (gs n : Nat), OnlyUses s ((List.range n).foldl (fun s row =>
      let s := if f.skind = 1 then s.vUse v (f.saddr + BitVec.ofNat 64 (row * f.sstride)) (gs * f.scaleSize) else s
      if f.elem = 7 then s.vUse v (f.zaddr + BitVec.ofNat 64 (row * f.zstride)) ((gs + 7) / 8 * 4) else s) s) := by
    intro s v f gs n
    exact onlyUses_foldl (fun s row => (onlyUses_if (onlyUses_vUse ..)).trans (onlyUses_if (onlyUses_vUse ..))) _
  rw [State.useMul]
  split
  · rfl
  · exact (((block ..).trans (block ..)).trans (rows ..)).trans (rows ..)

/-! ### The queue of a core's array -/

theorem enqueue_room {n : Nat} {op : ArrayOp} (room : (s.coreSt (s.coreOf r)).queue.length < 8) (f : CoreSt → CoreSt) :
    s.enqueue r n op f = queuedState s r n op f := if_neg (by omega)

theorem enqueue_full {n : Nat} {op : ArrayOp} (full : 8 ≤ (s.coreSt (s.coreOf r)).queue.length) (f : CoreSt → CoreSt) :
    s.enqueue r n op f = s.waitFor r .room := if_pos full

theorem withHandle_live {h : Word} {slot : Nat} (hs : (s.coreSt (s.coreOf r)).handle h = some slot) (k : Nat → State) :
    s.withHandle r h k = k slot := by
  rw [State.withHandle, hs]

theorem withHandle_dead {h : Word} (hs : (s.coreSt (s.coreOf r)).handle h = none) (k : Nat → State) :
    s.withHandle r h k = s.takeStop r { cause := 16, sub := 1 } := by
  rw [State.withHandle, hs]

theorem multiply_queued {a b : SReg} {k : BitVec 9} {zero : Bool} {m : MulCmd} (team : s.matrixTeam r = true)
    (room : (s.coreSt (s.coreOf r)).queue.length < 8) (low : 1 ≤ k.toNat) (high : k.toNat ≤ 256)
    (check : s.mulCheck r (s.lowHalf r a) (s.lowHalf r b) ((s.sget r b).extractLsb' 32 32) true true k.toNat zero = .ok m) :
    s.multiply r a b k zero = queuedState (s.useMul r m) r 2 (.mul m) id := by
  have used := onlyUses_useMul s r m
  rw [State.multiply, team, decide_eq_true low, decide_eq_true high]
  refine (State.legalIf_true ..).trans ?_
  dsimp only
  rw [check]
  exact enqueue_room (by rwa [used.coreOf, used.coreSt]) id

theorem matrixQueued : Rules.MatrixQueued := by
  intro s r a b d slot slot' h own
  dsimp only
  refine ⟨fun dead => ⟨?_, ?_⟩, fun live full => ?_, fun live room => ⟨?_, ?_, fun two live' => ?_, fun first cnt off crew o fits range => ?_⟩,
    fun team room => ⟨fun banks some_bank => ?_, fun k m low high => ⟨fun check => ?_, fun check => ?_⟩⟩⟩
  · refine (issued_next h _).trans (congrArg _ ?_)
    rw [own, State.legalIf_true]
    exact withHandle_dead dead _
  · refine (issued_next h _).trans (congrArg _ ?_)
    rw [own, State.legalIf_true]
    exact withHandle_dead dead _
  · refine (issued_next h _).trans (congrArg _ ?_)
    rw [own, State.legalIf_true]
    exact (withHandle_live live _).trans (enqueue_full full id)
  · refine (issued_next h _).trans (congrArg _ ?_)
    rw [own, State.legalIf_true]
    exact (withHandle_live live _).trans (enqueue_room room _)
  · refine (issued_next h _).trans (congrArg _ ?_)
    rw [own, State.legalIf_true]
    exact (withHandle_live live _).trans (enqueue_room room id)
  · refine (issued_next h _).trans (congrArg _ ?_)
    rw [own, State.legalIf_true]
    exact (withHandle_live live' _).trans ((withHandle_live live _).trans (enqueue_room room id))
  · refine (issued_next h _).trans (congrArg _ ?_)
    change s.legalIf r (s.ownsArray r && decide (first.toNat + (cnt.toNat + 1) ≤ 64)) _ = _
    rw [own, decide_eq_true fits]
    refine (State.legalIf_true ..).trans ((withHandle_live live _).trans ?_)
    dsimp only
    rw [range]
    exact enqueue_room room id
  · refine (issued_next h _).trans (congrArg _ ?_)
    rw [team, bne_iff_ne.2 some_bank]
    exact (State.legalIf_true ..).trans (enqueue_room room id)
  · exact (issued_next h _).trans (congrArg _ (multiply_queued team room low high check))
  · exact (issued_next h _).trans (congrArg _ (multiply_queued team room low high check))

/-- A core whose slot i is claimed under its next generation. -/
def takeTile (i : Nat) (c : CoreSt) : CoreSt :=
  { c with
    claimed := c.claimed ||| BitVec.ofNat 32 (2 ^ i), ending := c.ending &&& ~~~ BitVec.ofNat 32 (2 ^ i),
    ended := Store.set 0 c.ended i 0, gens := Store.set 0 c.gens i ((c.gen i + 1) % 256) }

/-- The state in which a path has claimed slot i, with its handle in register d (R285). -/
def claimed (s : State) (r : PathRef) (d : SReg) (i : Nat) : State :=
  ((s.modCore (s.coreOf r) (takeTile i)).sset r d
    (BitVec.ofNat 64 (((s.coreSt (s.coreOf r)).gen i + 1) % 256 * 256 + i))).advance r 1

theorem claimed_coreSt (s : State) (r : PathRef) (d : SReg) (i k : Nat) :
    (claimed s r d i).coreSt k = if k = s.coreOf r then takeTile i (s.coreSt (s.coreOf r)) else s.coreSt k := by
  rw [claimed, State.advance_coreSt, State.sset_coreSt, State.modCore, State.coreSt_setCore]

theorem claimed_basis (s : State) (r : PathRef) (d : SReg) (i : Nat) : (claimed s r d i).basis = s.basis := by
  rw [claimed, State.advance, State.modPath_basis, State.sset_basis]
  rfl

theorem tileClaimsAndFormats : Rules.TileClaimsAndFormats := by
  intro s r d a b h own
  dsimp only
  refine ⟨fun full => ?_, fun i hi => ?_, fun team ha hb => ?_, fun team far => ?_⟩
  · refine writesS_advance ((issued_next h _).trans (congrArg _ ?_))
    rw [own, State.legalIf_true]
    dsimp only
    rw [full]
  · have claim : exec (.tclaim d) s = .next (claimed s r d i) := by
      refine (issued_next h _).trans (congrArg _ ?_)
      rw [own, State.legalIf_true]
      dsimp only
      rw [hi]
      rfl
    have low : i < 32 := List.mem_range.1 (List.mem_of_find?_eq_some hi)
    have core := claimed_coreSt s r d i
    refine ⟨_, claim, fun q => ?_, ?_, ?_, ?_, fun k hk => ?_, ?_, memByte_of_basis (claimed_basis ..)⟩
    · rw [claimed, State.sget_advance, State.sget_sset]
      rfl
    · rw [core, if_pos rfl, takeTile, BitVec.getLsbD_or, BitVec.getLsbD_ofNat, Nat.testBit_two_pow_self]
      simp [low]
    · rw [core, if_pos rfl]
      exact Store.get_set_same ..
    · rw [core, if_pos rfl]
      rfl
    · rw [core, if_neg hk]
    · rw [claimed, State.path_advance, if_pos rfl, State.path_sset]
      rfl
  · have far : ∀ q : SReg, (s.sget r q).toNat < 2 ^ 56 → decide ((s.sget r q).toNat / 2 ^ 56 ≠ 0) = false := fun q hq => by
      rw [Nat.div_eq_of_lt hq]
      rfl
    have body : ∀ t, (if decide ((s.sget r a).toNat % 32 ≠ 0) || decide ((s.sget r b).toNat % 32 ≠ 0) then
        s.takeStop r { cause := 4, addr := if decide ((s.sget r a).toNat % 32 ≠ 0) then s.sget r a else s.sget r b }
        else (s.modCore (s.coreOf r) fun c => { c with fa := some (s.sget r a), fb := some (s.sget r b) }).advance r 1) = t →
        exec (.tfmt a b) s = .next t := by
      intro t ht
      refine (issued_next h _).trans (congrArg _ ?_)
      rw [team, State.legalIf_true]
      refine (if_neg ?_).trans ht
      change ¬ (decide ((s.sget r a).toNat / 2 ^ 56 ≠ 0) || decide ((s.sget r b).toNat / 2 ^ 56 ≠ 0)) = true
      rw [far a ha, far b hb]
      exact Bool.false_ne_true
    refine ⟨fun ea eb => body _ ?_, fun ea => body _ ?_, fun ea eb => body _ ?_⟩
    · simp [ea, eb]
    · simp [ea]
    · simp [ea, eb]
  · refine (issued_next h _).trans (congrArg _ ?_)
    rw [team, State.legalIf_true]
    have high : decide ((s.sget r a).toNat / 2 ^ 56 ≠ 0) = true := by
      rw [decide_eq_true_eq]
      omega
    refine (if_pos ?_).trans (congrArg (fun x => s.takeStop r { cause := 6, sub := 2, addr := x }) (if_pos high))
    change (decide ((s.sget r a).toNat / 2 ^ 56 ≠ 0) || decide ((s.sget r b).toNat / 2 ^ 56 ≠ 0)) = true
    rw [high, Bool.true_or]

/-- Settles O33: what the matrix instructions do at issue. -/
theorem matrixIssue : Obligations.MatrixIssue := ⟨matrixQueued, tileClaimsAndFormats⟩

end Sys2Proof.Machine
end

section
/-! SUPPORT. The instruction at the head of a core's queue (R281, R283, R286 to R289). -/

namespace Sys2Proof.Machine

variable {s u t : State} {r : PathRef} {i : Instr}

/-! ### The core that executes keeps its queue -/

theorem CoreSt.slotSpoil_queue (c : CoreSt) (slot off n : Nat) : (c.slotSpoil slot off n).queue = c.queue := rfl
theorem CoreSt.slotMend_queue (c : CoreSt) (slot off n : Nat) : (c.slotMend slot off n).queue = c.queue := rfl
theorem CoreSt.slotPut_queue (c : CoreSt) (slot off : Nat) (bs : List Byte) : (c.slotPut slot off bs).queue = c.queue := rfl

theorem CoreSt.transpose_queue (c old : CoreSt) (dst src e : Nat) : (c.transpose old dst src e).queue = c.queue := by
  rw [CoreSt.transpose]
  refine (foldl_same CoreSt.queue _ _ _ fun c x => ?_).trans rfl
  dsimp only
  split <;> rfl

theorem CoreSt.clearBanks_queue (c : CoreSt) (banks : BitVec 2) : (c.clearBanks banks).queue = c.queue := by
  rw [CoreSt.clearBanks]
  dsimp only
  split <;> split <;> rfl

/-- A key whose entries have been dropped reads as the default. -/
theorem get_filter_dropped {β : Type} {dflt : β} {m : Store β} {f : Nat × β → Bool} {k : Nat} (h : ∀ v, f (k, v) = false) :
    Store.get dflt (m.filter f) k = dflt := by
  induction m with
  | nil => rfl
  | cons x m ih =>
    rw [List.filter_cons]
    split
    next keep =>
      rw [Store.get, if_neg fun e => ?_, ih]
      obtain ⟨j, v⟩ := x
      rw [show j = k from e, h] at keep
      cases keep
    next => exact ih

/-- R281: behind its races, an operation changes nothing but its own core, whose queue it leaves. -/
theorem runArray_modCore (s : State) (core : Nat) (e : ArrayEntry) :
    ∃ f : CoreSt → CoreSt, (∀ c, (f c).queue = c.queue) ∧ s.runArray core e = (s.raceOp core e.op).modCore core f := by
  have mul : ∀ (s : State) (m : MulCmd), ∃ f : CoreSt → CoreSt, (∀ c, (f c).queue = c.queue) ∧ s.runMul core e m = s.modCore core f := by
    intro s m
    rw [State.runMul]
    refine ⟨_, ?_, rfl⟩
    intro c
    dsimp only
    split <;> rfl
  rw [State.runArray]
  cases e.op with
  | trel slot =>
    refine ⟨_, ?_, rfl⟩
    exact fun c => rfl
  | tld slot first n crew o =>
    refine ⟨_, ?_, rfl⟩
    intro c
    refine (foldl_same CoreSt.queue _ _ _ ?_).trans rfl
    exact fun c x => rfl
  | mul m => exact mul _ m
  | mclr banks => exact ⟨_, (CoreSt.clearBanks_queue · banks), rfl⟩
  | coop m l => exact mul _ m
  | tzero slot =>
    refine ⟨_, ?_, rfl⟩
    exact fun c => rfl
  | ttrans dst src two =>
    refine ⟨_, ?_, rfl⟩
    exact fun c => CoreSt.transpose_queue ..

theorem raceOn_noRaces (h : ∀ c ∈ s.cores, c.2.racing = [] ∧ ∀ q ∈ c.2.queue, q.old = []) (core slot off n : Nat) :
    s.raceOn core slot off n = s := by
  refine if_pos (List.all_eq_true.2 fun c hc => ?_)
  obtain ⟨none, olds⟩ := h c hc
  rw [Bool.and_eq_true, List.isEmpty_iff, List.all_eq_true]
  exact ⟨none, fun q hq => List.isEmpty_iff.2 (olds q hq)⟩

theorem raceOp_noRaces (h : ∀ c ∈ s.cores, c.2.racing = [] ∧ ∀ q ∈ c.2.queue, q.old = []) (core : Nat) (op : ArrayOp) :
    s.raceOp core op = s := by
  cases op with
  | tld | tzero | ttrans => exact raceOn_noRaces h ..
  | trel | mul | mclr | coop => rfl

/-- Races change nothing but cores. -/
theorem raceOn_basis (s : State) (core slot off n : Nat) :
    (s.raceOn core slot off n).basis = s.basis ∧ ∀ k, (s.raceOn core slot off n).crew k = s.crew k := by
  rw [State.raceOn]
  dsimp only
  split
  · exact ⟨rfl, fun _ => rfl⟩
  · exact ⟨rfl, fun _ => rfl⟩

theorem raceOp_basis (s : State) (core : Nat) (op : ArrayOp) :
    (s.raceOp core op).basis = s.basis ∧ ∀ k, (s.raceOp core op).crew k = s.crew k := by
  cases op with
  | tld | tzero | ttrans => exact raceOn_basis ..
  | trel | mul | mclr | coop => exact ⟨rfl, fun _ => rfl⟩

theorem State.coreSt_modCore (s : State) (core k : Nat) (f : CoreSt → CoreSt) :
    (s.modCore core f).coreSt k = if k = core then f (s.coreSt core) else s.coreSt k := State.coreSt_setCore ..

/-- R281: the head of the queue, where it is no cooperative tile, executes and leaves the queue. -/
theorem arrayQueueExecute_head {core : Nat} {e : ArrayEntry} {rest : List ArrayEntry} (hq : (s.coreSt core).queue = e :: rest)
    (alone : ∀ m l, e.op ≠ .coop m l) (still : s.arrayStill core = false) :
    exec (.arrayQueueExecute core) s = .next ((s.runArray core e).popArray core) := by
  have team : s.arrayTeam core = some [core] := by
    rw [State.arrayTeam, hq]
    dsimp only
    split
    next m l hop => exact absurd hop (alone m l)
    next => rfl
  change execArrayQueueExecute core s = _
  rw [execArrayQueueExecute, team]
  refine (if_neg ?_).trans ?_
  · rw [List.any_cons, still]
    exact Bool.false_ne_true
  · rw [List.filterMap_cons, hq]
    rfl

/-- Settles O34: the head of the array queue executes and leaves the queue. -/
theorem arrayExecutes : Obligations.ArrayExecutes := by
  intro s core e rest hq alone still
  dsimp only
  obtain ⟨f, queue, moved⟩ := runArray_modCore s core e
  obtain ⟨basis, crews⟩ := raceOp_basis s core e.op
  have own : ∀ k, (((s.runArray core e).popArray core).coreSt k) =
      if k = core then { (s.runArray core e).coreSt core with queue := ((s.runArray core e).coreSt core).queue.drop 1 }
      else (s.raceOp core e.op).coreSt k := by
    intro k
    rw [State.popArray, State.coreSt_modCore]
    split
    · rfl
    next other => rw [moved, State.coreSt_modCore, if_neg other]
  have left : (((s.runArray core e).popArray core).coreSt core).queue = ((s.raceOp core e.op).coreSt core).queue.drop 1 := by
    rw [own, if_pos rfl, moved, State.coreSt_modCore, if_pos rfl]
    exact congrArg (List.drop 1) (queue _)
  have others : ∀ k, k ≠ core → ((s.runArray core e).popArray core).coreSt k = (s.raceOp core e.op).coreSt k :=
    fun k hk => (own k).trans (if_neg hk)
  have slots : ((((s.runArray core e).popArray core).coreSt core)).slots = ((s.runArray core e).coreSt core).slots := by
    rw [own, if_pos rfl]
  refine ⟨_, arrayQueueExecute_head hq alone still, left, memByte_of_basis ?_, others, fun noRaces => ?_, fun slot zero i hi => ?_,
    fun slot first n crew o load sound i hi => ?_⟩
  · rw [moved]
    exact basis
  · rw [raceOp_noRaces noRaces] at left others
    exact ⟨left.trans (by rw [hq]; rfl), others⟩
  · rw [slots, State.runArray, zero]
    dsimp only
    rw [State.coreSt_modCore, if_pos rfl]
    refine get_filter_dropped fun v => ?_
    rw [slotKeyOf, Nat.mul_comm, Nat.mul_add_div (by decide), Nat.div_eq_of_lt hi, Nat.add_zero, bne_self_eq_false]
  · have clean : ∀ k, ((s.raceOp core e.op).crew crew).spPoisoned k 8 = false := fun k => by
      rw [crews, Crew.spPoisoned, sound]
      rfl
    rw [slots, State.runArray]
    dsimp only
    rw [load] at clean crews ⊢
    dsimp only
    rw [State.coreSt_modCore, if_pos rfl, List.filter_eq_nil_iff.2 fun k _ => by rw [clean]; exact Bool.false_ne_true, crews]
    refine (Store.get_setList ..).trans ((dif_pos ⟨Nat.le_add_right .., ?_⟩).trans ?_)
    · simp [Store.getList]
    · simp [Store.getList, hi]

end Sys2Proof.Machine
end

section
/-! SUPPORT. Drains of one lane (R298 to R302), and cooperative tiles (R296, R297). -/

namespace Sys2Proof.Machine

variable {s u t : State} {r : PathRef} {i : Instr}

/-! ### What a drain leaves of its path -/

theorem OnlyUses.path (h : OnlyUses s t) (q : PathRef) : t.path q = s.path q := by rw [h]; rfl

theorem onlyUses_useScales (s : State) (r : PathRef) (cells : List (Nat × Nat)) : OnlyUses s (s.useScales r cells) := by
  have one : ∀ (s : State) (v : View) (d : Option DrainScale) (i : Nat), OnlyUses s (match d with
      | none => s
      | some x => s.vUse v (x.addr + BitVec.ofNat 64 (i * if x.fmt = 0 then 4 else 2)) (if x.fmt = 0 then 4 else 2)) := by
    intro s v d i
    cases d with
    | none => rfl
    | some x => exact onlyUses_vUse ..
  rw [State.useScales]
  split
  · rfl
  · exact onlyUses_foldl (fun s x => (one ..).trans (one ..)) cells

theorem path_raceCell (s : State) (core bank m n : Nat) (q : PathRef) : (s.raceCell core bank m n).path q = s.path q := by
  rw [State.raceCell]
  split
  · dsimp only
    split
    · split
      · rfl
      · split <;> rfl
    · split
      · rfl
      · split <;> rfl
    · rfl
  · rfl

theorem path_raceCells (s : State) (core : Nat) (cells : List (Nat × Nat)) (q : PathRef) :
    (s.raceCells core cells).path q = s.path q := by
  rw [State.raceCells]
  split
  · rfl
  · exact foldl_same (fun s : State => s.path q) _ _ _ fun s x => path_raceCell ..

/-- The accumulators that a drain clears where it has CLR. -/
def cleared (clr : Bool) (r : PathRef) (t : State) (ks : List Nat) : State := if clr then t.clearAcc r ks else t

theorem path_cleared (clr : Bool) (r q : PathRef) (t : State) (ks : List Nat) : (cleared clr r t ks).path q = t.path q := by
  rw [cleared]
  split <;> rfl

/-- A sweep of a global access with one lane, which is performed. -/
theorem sweepMem_one_out {n l : Nat} {ea : Nat → DWord} {f : State → Nat → DWord → LaneRes} {ws : List RegWrite} {o : List Out}
    (h1 : u.memLanes r = [l]) (h0 : (u.path r).done = 0) (live : (u.path r).live = true) (hm : MissesFree u r n ea)
    (hf : f u l (ea l) = .ok t ws o none) :
    u.sweepMem r n ea f = { s := t, ws := ws, out := inPass l o, done := laneBit l, misses := missesFor n ea [l] } := by
  have hlt : l < 1024 := memLanes_lt (s := u) (r := r) (by rw [h1]; exact List.mem_singleton_self l)
  rw [MissesFree, h1, missesFor_one hlt] at hm
  rw [sweepMem_one h1 h0 hm, missesFor_one hlt]
  exact (Sweep.lane_ok BitVec.getLsbD_zero live rfl rfl hf).trans (by simp)

theorem maskOf_low {l : Nat} (h : l < 64) : maskOf [l] (fun l => decide (64 ≤ l)) = 0 := by
  rw [maskOf, List.foldl_cons, List.foldl_nil, decide_eq_false (Nat.not_le.2 h)]
  rfl

/-- Settles O35: a drain to a register, and to memory. -/
theorem arrayDrains : Obligations.ArrayDrains := by
  intro s u r d a o clr l v f h hdr h1 h0
  dsimp only
  refine ⟨fun hb => ⟨fun near value => ?register, fun far => ?beyond⟩, fun red wide out even slot low => ?memory⟩
  case register =>
    have inBudget : s.vOk r [d] = true := by rw [State.vOk, List.all_cons, decide_eq_true hb]; rfl
    refine (issued_next h _).trans (congrArg _ ?_)
    rw [hdr, inBudget]
    refine (State.legalIf_true ..).trans ?_
    dsimp only
    rw [sweep_one (t := cleared clr r ((s.raceCells (s.coreOf r) [(l % 64, (s.sget r a).toNat % 128 + l / 64)]).useScales r
      [(l % 64, (s.sget r a).toNat % 128 + l / 64)]) [accKey (((s.sget r a).toNat % 128 + l / 64) / 64) (l % 64)
        (((s.sget r a).toNat % 128 + l / 64) % 64)]) (ws := [.v d.toNat l (BitVec.ofNat 32 v)]) (o := []) h.live h0 h1]
    on_goal 2 =>
      refine (if_neg (by omega)).trans ?_
      rw [value]
      rfl
    have live : ((cleared clr r ((s.raceCells (s.coreOf r) [(l % 64, (s.sget r a).toNat % 128 + l / 64)]).useScales r
      [(l % 64, (s.sget r a).toNat % 128 + l / 64)]) [accKey (((s.sget r a).toNat % 128 + l / 64) / 64) (l % 64)
        (((s.sget r a).toNat % 128 + l / 64) % 64)]).path r).live = true := by
      rw [path_cleared, (onlyUses_useScales ..).path, path_raceCells]
      exact h.live
    refine (Sweep.finish_clean live rfl rfl).trans ?_
    rw [inPass_nil, storeAll_nil]
    rfl
  case beyond =>
    have inBudget : s.vOk r [d] = true := by rw [State.vOk, List.all_cons, decide_eq_true hb]; rfl
    refine (issued_next h _).trans (congrArg _ ?_)
    rw [hdr, inBudget]
    refine (State.legalIf_true ..).trans ?_
    dsimp only
    rw [sweep_one (t := s) (ws := []) (o := []) h.live h0 h1]
    on_goal 2 => exact if_pos (by omega)
    refine (Sweep.finish_clean h.live rfl rfl).trans ?_
    rw [inPass_nil, storeAll_nil]
    rfl
  case memory =>
    intro t1 hm row live
    generalize hcols : List.range (if wide then 128 else 64) = cols at hm row ⊢
    generalize ht : s.modPath r (fun p => { p with done := p.done ||| maskOf [l] fun l => decide (64 ≤ l) }) = t at t1 hm row
    have moved : t.path r = { s.path r with done := (s.path r).done ||| maskOf [l] fun l => decide (64 ≤ l) } := by
      rw [← ht, State.path_modPath_same]
    have t0 : (t.path r).done = 0 := by
      rw [moved, h0, maskOf_low low]
      exact BitVec.or_self
    have tlive : (t.path r).live = true := by
      rw [moved]
      exact h.live
    have core : t.coreOf r = s.coreOf r := by rw [← ht, State.coreOf_modPath]
    have live' : ((cleared clr r (u.useScales r (cols.map fun n => (l, n))) (cols.map fun n => accKey (n / 64) l (n % 64))).path r).live = true := by
      rw [path_cleared, (onlyUses_useScales ..).path]
      exact live
    refine (issued_next h _).trans (congrArg _ ?_)
    rw [hdr, even]
    refine (State.legalIf_true ..).trans ((State.withSlot_ok slot _).trans ?_)
    dsimp only
    rw [h1, hcols, ht, sweepMem_one_out (t := cleared clr r (u.useScales r (cols.map fun n => (l, n))) (cols.map fun n => accKey (n / 64) l (n % 64)))
      (ws := []) (o := out) t1 t0 tlive hm]
    on_goal 2 =>
      rw [core, row]
      rfl
    refine (Sweep.finish_clean live' rfl rfl).trans ((if_neg (by exact Bool.false_ne_true)).trans ?_)
    rfl

/-! ### Cooperative tiles of one -/

/-- R297: where one path waits, at a tile of one, it is queued. -/
theorem mcoopRendezvous_one {grid cluster : Nat} {p : Coop} {m : MulCmd} (waits : s.coopWaiting grid cluster = [p]) (mt : p.mt = 1)
    (nt : p.nt = 1) (cidx : p.cidx = 0) (check : s.coopCheck [p] p = .ok m) (room : (s.coreSt (s.coreOf p.r)).queue.length < 8) :
    exec (.mcoopRendezvous grid cluster) s =
      .next ((queuedState (s.useMul p.r m) p.r 2 (.coop (coopCmd [(p, m)] p m) [s.coreOf p.r]) id).modCrew
        (s.crewNo p.r) fun c => { c with mcoops := c.mcoops + 1 }) := by
  have met : [p].filter (s.coopMet grid cluster [p]) = [p] := by
    rw [List.filter_cons_of_pos, List.filter_nil]
    simp [State.coopMet, mt, nt, cidx]
  have largest : [p].find? (fun p' => [p].all fun q => decide (q.mt * q.nt ≤ p'.mt * p'.nt)) = some p := by simp
  have all : ((List.range (p.mt * p.nt)).filterMap fun c => [p].find? fun q => q.cidx == c && (s.crewOf q.r).mcoops == (s.crewOf p.r).mcoops) = [p] := by
    simp [mt, nt, cidx]
  have used := onlyUses_useMul s p.r m
  have queued : (s.useMul p.r m).enqueue p.r 2 (.coop (coopCmd [(p, m)] p m) [s.coreOf p.r]) =
      queuedState (s.useMul p.r m) p.r 2 (.coop (coopCmd [(p, m)] p m) [s.coreOf p.r]) id :=
    enqueue_room (by rwa [used.coreOf, used.coreSt]) id
  have crew : (queuedState (s.useMul p.r m) p.r 2 (.coop (coopCmd [(p, m)] p m) [s.coreOf p.r]) id).crewNo p.r = s.crewNo p.r := by
    refine (State.crewNo_modPath ..).trans ?_
    rw [used]
    rfl
  change execMcoopRendezvous grid cluster s = _
  rw [execMcoopRendezvous, waits]
  dsimp only
  rw [met, largest]
  dsimp only
  rw [all, List.map_cons, List.map_nil, check]
  refine (if_neg (by exact Bool.false_ne_true)).trans ((if_neg ?_).trans ((if_neg ?_).trans ?_))
  · simp [mt, nt]
  · simp [room]
  · refine congrArg Host.Outcome.next ?_
    rw [← crew, ← queued]
    rfl

/-- Settles O36: a participant waits, and a tile of one is queued. -/
theorem cooperativeTiles : Obligations.CooperativeTiles := by
  intro s r a b k z mt nt
  refine ⟨fun h team low high small => ⟨fun inside => ?_, fun outside => ?_⟩, fun grid cluster p m => mcoopRendezvous_one⟩
  · refine moves_modPath (f := fun p => { p with wait := .mcoop }) ((issued_next h _).trans (congrArg _ ?_))
    rw [team, decide_eq_true low, decide_eq_true high, decide_eq_true small]
    exact (State.legalIf_true ..).trans (if_neg (by omega))
  · refine (issued_next h _).trans (congrArg _ ?_)
    rw [team, decide_eq_true low, decide_eq_true high, decide_eq_true small]
    exact (State.legalIf_true ..).trans (if_pos outside)

end Sys2Proof.Machine
end

section
/-! SUPPORT. Fences, what a release waits for (R220, R247, R305, R307), and copy tags (R308, R309). -/

namespace Sys2Proof.Machine

variable {s u t : State} {r : PathRef} {i : Instr}

/-! ### Fences and flags -/

theorem fencesAndFlags : Rules.FencesAndFlags := by
  intro s u r o sc m h
  refine ⟨fun goes => (issued_next h _).trans (congrArg _ (goes _)), fun clear noNote => movesOn_advance ?_, fun busy => moves_modPath (f := fun p => { p with wait := .flags m }) ?_⟩
  · refine (issued_next h _).trans (congrArg _ ((if_neg ?_).trans ?_))
    · simpa using clear
    · rw [noNote]
  · exact (issued_next h _).trans (congrArg _ (if_pos (by simpa using busy)))

/-! ### What a release waits for -/

/-- A fold whose steps on the members of its list leave the state alone. -/
theorem foldl_eq_self_of_mem {α β : Type} {f : α → β → α} {a : α} {l : List β} (h : ∀ b ∈ l, f a b = a) : l.foldl f a = a := by
  induction l with
  | nil => rfl
  | cons b l ih =>
    rw [List.foldl_cons, h b (List.mem_cons_self ..)]
    exact ih fun c hc => h c (List.mem_cons_of_mem _ hc)

/-- R457: with no copy in error, a release finds none. -/
theorem releaseCheck_sound (h : ∀ c ∈ s.copies, c.2.bad = false) (sc : Scope) : s.releaseCheck r sc = s := by
  rw [State.releaseCheck]
  split
  · rfl
  · refine foldl_eq_self_of_mem fun x hx => if_neg ?_
    obtain ⟨c, hc, e⟩ := List.mem_filterMap.1 hx
    split at e
    · cases e
      rw [h c hc, Bool.and_false, Bool.false_and]
      exact Bool.false_ne_true
    · cases e

theorem releaseGate_wait {sc : Scope} (h : (∃ f ∈ s.flight, f.of r = true) ∨ (∃ q ∈ s.reqs, q.r = r ∧ q.ended = false) ∨
    (∃ p ∈ s.pend, p.r = r ∧ (p.held = true ∨ p.loads.isSome = true)) ∨ s.outHeld (s.coreOf r) sc = true) :
    s.releaseGate r sc = .wait := by
  refine if_pos ?_
  simp only [Bool.or_eq_true, List.any_eq_true, State.unbound, Bool.and_eq_true]
  rcases h with ⟨f, hf, own⟩ | ⟨q, hq, own, running⟩ | ⟨p, hp, own, busy⟩ | held
  · exact .inl (.inl (.inl (.inl (.inl (.inl ⟨f, hf, own⟩)))))
  · exact .inl (.inl (.inl (.inl (.inl (.inr ⟨q, hq, by simp [own, running]⟩)))))
  · have first : s.precedes r p.r p.serial = true := by simp [State.precedes, own]
    rcases busy with held | loads
    · exact .inl (.inl (.inr ⟨p, hp, first, held⟩))
    · exact .inl (.inr ⟨p, hp, first, loads⟩)
  · exact .inr held

theorem releaseGate_go {sc : Scope} (stores : ∀ f ∈ s.flight, f.of r = false) (requests : ∀ q ∈ s.reqs, q.r = r → q.ended = true)
    (array : s.arrayBusy r = false) (read : s.unread r = false)
    (pends : ∀ p ∈ s.pend, s.precedes r p.r p.serial = true → p.held = false ∧ p.loads = none) (notes : (s.path r).poison = [])
    (failed : (s.path r).failed = []) (out : s.outHeld (s.coreOf r) sc = false) : s.releaseGate r sc = .go := by
  rw [State.releaseGate, if_neg, notes, failed]
  · rfl
  · simp only [Bool.or_eq_true, List.any_eq_true, State.unbound, Bool.and_eq_true, array, read, out, Bool.false_eq_true, false_and,
      or_false, not_or, not_exists, not_and, beq_iff_eq, Bool.not_eq_true', Bool.not_eq_true]
    refine ⟨⟨⟨stores, fun q hq own => ?_⟩, fun p hp first => (pends p hp first).1⟩, fun p hp first => ?_⟩
    · rw [requests q hq own]
      exact Bool.noConfusion
    · rw [(pends p hp first).2]
      rfl

theorem releaseWaitsForStores : Rules.ReleaseWaitsForStores := by
  intro s r sc k sound
  have checked := releaseCheck_sound (r := r) sound sc
  refine ⟨fun busy => ?_, fun stores requests array read pends notes failed out => ?_⟩
  · rw [State.release, checked, releaseGate_wait busy]
  · rw [State.release, checked, releaseGate_go stores requests array read pends notes failed out]

/-- Settles O37: fences, waits for flags, and what a release waits for. -/
theorem fencesAndReleases : Obligations.FencesAndReleases := ⟨fencesAndFlags, releaseWaitsForStores⟩

/-! ### Copy tags -/

theorem seeTags_sound {l : List Nat} (errors : (s.crewOf r).tagErr &&& tagMask l = 0) (scopes : (s.crewOf r).tagScope = []) (k : State → State) :
    s.seeTags r l k = k (s.modCrew (s.crewNo r) fun c => { c with tagScope := c.tagScope.filter fun x => !l.contains x.1 }) := by
  have crew : l.foldl (fun a t => Scope.wider a (Store.get .crew [] t)) .crew = .crew := foldl_eq_self_of_mem fun _ _ => rfl
  refine (if_neg ?_).trans ?_
  · change ¬ ((s.crewOf r).tagErr &&& tagMask l != 0) = true
    rw [errors]
    exact Bool.false_ne_true
  · change k (State.acquireAct _ r (l.foldl (fun a t => Scope.wider a (Store.get .crew (s.crewOf r).tagScope t)) .crew)) = _
    rw [scopes, crew]
    rfl

theorem seeTags_error {l : List Nat} (errors : (s.crewOf r).tagErr &&& tagMask l ≠ 0) (k : State → State) :
    s.seeTags r l k = (s.modCrew (s.crewNo r) fun c =>
      { c with tagErr := c.tagErr &&& ~~~ tagMask l }).takeStop r { cause := 14, sub := 3 } :=
  if_pos (bne_iff_ne.2 errors)

theorem clearTags_zero (busy : Nat → Bool) : clearTags busy 0 = [] :=
  List.filter_eq_nil_iff.2 fun t _ => by simp

/-- Settles O38: copy tags are claimed, waited for and given back. -/
theorem copyTags : Obligations.CopyTags := by
  intro s r d a t h
  dsimp only
  refine ⟨fun none => ?_, fun some_tag busy => ?_, fun clear sound scopes => ?_, fun clear err => ?_, fun busy => ?_,
    fun clear sound scopes => ?_, fun full => ?_, fun i room first => ?_, fun free => movesOn_advance ?_, fun held busy => ?_,
    fun held idle sound scopes => ?_⟩
  all_goals refine (issued_next h _).trans (congrArg _ ?_)
  · exact if_pos none
  · exact (if_neg some_tag).trans (if_pos (List.isEmpty_iff.2 busy))
  · have named : s.sget r a ≠ 0 := fun zero => clear (by rw [zero]; exact clearTags_zero _)
    exact (if_neg named).trans ((if_neg fun none => clear (List.isEmpty_iff.1 none)).trans (seeTags_sound sound scopes _))
  · have named : s.sget r a ≠ 0 := fun zero => clear (by rw [zero]; exact clearTags_zero _)
    exact (if_neg named).trans ((if_neg fun none => clear (List.isEmpty_iff.1 none)).trans (seeTags_error err _))
  · exact if_neg busy
  · exact (if_pos clear).trans (seeTags_sound (by rwa [clear]) scopes _)
  · dsimp only
    rw [if_neg (by omega)]
  · dsimp only
    rw [if_pos room, first]
  · exact if_pos (by rw [← State.crewOf, free]; rfl)
  · exact (if_neg (by rw [← State.crewOf, held]; exact Bool.false_ne_true)).trans (if_pos busy)
  · exact (if_neg (by rw [← State.crewOf, held]; exact Bool.false_ne_true)).trans ((if_neg (by rw [idle]; exact Bool.false_ne_true)).trans
      (seeTags_sound sound scopes _))

end Sys2Proof.Machine
end

section
/-! SUPPORT. Barriers (R310, R311, R495), monitors (R312, R313), grace periods (R314 to R318) and supersteps (R319, R320). -/

namespace Sys2Proof.Machine

variable {s u t : State} {r : PathRef} {i : Instr}

/-! ### Barriers of a crew of one team -/

/-- The table of a single team stays one of that team. -/
theorem teams_modTeam_single {k : Nat} {f : Team → Team} (h : s.teams = [(k, s.team k)]) (live : (f (s.team k)).live = true) :
    (s.modTeam k f).teams = [(k, (s.modTeam k f).team k)] := by
  have kept : f (s.team k) ≠ Team.none := fun e => by rw [e] at live; cases live
  rw [State.team_modTeam, if_pos rfl]
  change Store.set Team.none s.teams k (f (s.team k)) = _
  rw [Store.set, if_neg kept, h]
  simp [Store.put]

/-- With one team, of whose paths one lives, that path is the only one. -/
theorem allPaths_single (h : s.teams = [(r.tok, s.team r.tok)]) (live : (s.team r.tok).live = true) (here : (s.path r).live = true)
    (other : ((s.team r.tok).path (!r.path)).live = false) : s.allPaths = [r] := by
  have teams : s.liveTeams = [(r.tok, s.team r.tok)] := by
    rw [State.liveTeams, h]
    exact List.filter_cons_of_pos live
  rw [State.allPaths, teams]
  obtain ⟨tok, b⟩ := r
  change ((s.team tok).path b).live = true at here
  cases b <;> simp_all

theorem acquireAct_crew (s : State) (r : PathRef) : s.acquireAct r .crew = s := rfl

/-- The state in which the only team of its crew has arrived. -/
def arrivedAlone (u : State) (r : PathRef) (id : BitVec 2) : State :=
  (u.waitFor r (.bar .crew id ((u.team r.tok).arrivals .crew id))).modTeam r.tok fun t =>
    { t with barArr := Store.set 0 t.barArr (barKey .crew id) ((u.team r.tok).arrivals .crew id + 1) }

theorem Path.advance_with_wait (p : Path) (w : Wait) (n : Nat) : Path.advance { p with wait := w } n = p.advance n := by
  rw [Path.advance, Path.advance]

theorem Path.advance_with_monitor (p : Path) (m : Option Monitor) (n : Nat) :
    Path.advance { p with monitor := m } n = { p.advance n with monitor := m } := by
  rw [Path.advance, Path.advance]
  cases p.mac <;> rfl

section
variable {id : BitVec 2}

theorem arrivedAlone_team (u : State) (r : PathRef) (id : BitVec 2) : (arrivedAlone u r id).team r.tok =
    { (u.team r.tok).setPath r.path { u.path r with wait := .bar .crew id ((u.team r.tok).arrivals .crew id) } with
      barArr := Store.set 0 (u.team r.tok).barArr (barKey .crew id) ((u.team r.tok).arrivals .crew id + 1) } := by
  rw [arrivedAlone, State.team_modTeam, if_pos rfl, State.waitFor, State.team_modPath, if_pos rfl]
  cases r.path <;> rfl

theorem arrivedAlone_basis (u : State) (r : PathRef) (id : BitVec 2) : (arrivedAlone u r id).basis = u.basis := rfl

theorem arrivedAlone_path (u : State) (r : PathRef) (id : BitVec 2) :
    (arrivedAlone u r id).path r = { u.path r with wait := .bar .crew id ((u.team r.tok).arrivals .crew id) } := by
  rw [State.path, arrivedAlone_team]
  cases r.path <;> rfl

theorem arrivedAlone_arrivals (u : State) (r : PathRef) (id : BitVec 2) :
    ((arrivedAlone u r id).team r.tok).arrivals .crew id = (u.team r.tok).arrivals .crew id + 1 := by
  rw [arrivedAlone_team, Team.arrivals]
  dsimp only
  rw [Store.get_set_same]

/-- A team has arrived at a count of its crew's barrier once each of its live paths waits there. -/
theorem barArrive_crew (h : ∀ b, ((u.team r.tok).path b).live = true → ((u.team r.tok).path b).wait = .bar .crew id ((u.team r.tok).arrivals .crew id)) :
    u.barArrive r .crew id = (u.modTeam r.tok fun t =>
      { t with barArr := Store.set 0 t.barArr (barKey .crew id) ((u.team r.tok).arrivals .crew id + 1) }).barSweep
        ((u.modTeam r.tok fun t =>
          { t with barArr := Store.set 0 t.barArr (barKey .crew id) ((u.team r.tok).arrivals .crew id + 1) }).crewOf r).grid := by
  have at' : ∀ b, (!((u.team r.tok).path b).live || ((u.team r.tok).path b).wait == .bar .crew id ((u.team r.tok).arrivals .crew id)) = true := by
    intro b
    cases live : ((u.team r.tok).path b).live with
    | false => rfl
    | true => rw [h b live]; simp
  rw [State.barArrive]
  exact if_pos (by rw [Bool.and_eq_true]; exact ⟨at' false, at' true⟩)

/-- R310: the only team of its crew departs at once. -/
theorem barArrive_single (one : u.teams = [(r.tok, u.team r.tok)]) (saved : u.saved = []) (live : (u.team r.tok).live = true)
    (here : (u.path r).live = true) (other : ((u.team r.tok).path (!r.path)).live = false) :
    (u.waitFor r (.bar .crew id ((u.team r.tok).arrivals .crew id))).barArrive r .crew id = (arrivedAlone u r id).advance r 1 := by
  have team := arrivedAlone_team u r id
  have path := arrivedAlone_path u r id
  have alive : ((arrivedAlone u r id).team r.tok).live = true := by
    rw [team]
    cases r.path <;> exact live
  have single : (arrivedAlone u r id).teams = [(r.tok, (arrivedAlone u r id).team r.tok)] := by
    refine teams_modTeam_single (teams_modTeam_single one ?_) ?_
    · cases r.path <;> exact live
    · change ((u.waitFor r _).team r.tok).live = true
      rw [State.waitFor, State.team_modPath, if_pos rfl]
      cases r.path <;> exact live
  have only : (arrivedAlone u r id).allPaths = [r] := by
    refine allPaths_single single alive (by rw [path]; exact here) ?_
    rw [team]
    cases hb : r.path <;> rw [hb] at other <;> exact other
  have done : (arrivedAlone u r id).barDone ((arrivedAlone u r id).crewOf r) .crew id ((u.team r.tok).arrivals .crew id) = true := by
    have count : ∀ x ∈ (arrivedAlone u r id).gridTeams ((arrivedAlone u r id).crewOf r).grid,
        x.2.arrivals .crew id = (u.team r.tok).arrivals .crew id + 1 := by
      intro x hx
      have whole : x.2 = (arrivedAlone u r id).team r.tok := by
        rw [State.gridTeams, State.liveTeams, single, show (arrivedAlone u r id).saved = [] from saved, List.flatMap_nil, List.append_nil,
          List.mem_filterMap] at hx
        obtain ⟨y, hy, e⟩ := hx
        rw [List.mem_singleton.1 (List.mem_filter.1 hy).1] at e
        dsimp only at e
        split at e
        · cases e
          rfl
        · cases e
      rw [whole, arrivedAlone_arrivals]
    refine (if_neg (by exact Bool.false_ne_true)).trans (List.all_eq_true.2 fun x hx => ?_)
    rw [count x (List.mem_filter.1 hx).1]
    simp
  have sweep : (arrivedAlone u r id).barSweep ((arrivedAlone u r id).crewOf r).grid = (arrivedAlone u r id).advance r 1 := by
    rw [State.barSweep, only, List.foldl_cons, List.foldl_nil, path]
    refine (if_pos ?_).trans (congrArg (State.advance · r 1) (acquireAct_crew ..))
    rw [done]
    simp
  have waits : (u.waitFor r (.bar .crew id ((u.team r.tok).arrivals .crew id))).team r.tok =
      (u.team r.tok).setPath r.path { u.path r with wait := .bar .crew id ((u.team r.tok).arrivals .crew id) } := by
    rw [State.waitFor, State.team_modPath, if_pos rfl]
  have arrivals : ((u.waitFor r (.bar .crew id ((u.team r.tok).arrivals .crew id))).team r.tok).arrivals .crew id =
      (u.team r.tok).arrivals .crew id := by
    rw [waits]
    cases r.path <;> rfl
  refine (barArrive_crew fun b hb => ?_).trans ?_
  · rw [arrivals]
    rw [waits] at hb ⊢
    cases hr : r.path with
    | false =>
      rw [hr] at other hb
      cases b with
      | false => rfl
      | true => exact absurd (hb.symm.trans other) Bool.noConfusion
    | true =>
      rw [hr] at other hb
      cases b with
      | false => exact absurd (hb.symm.trans other) Bool.noConfusion
      | true => rfl
  · rw [arrivals]
    exact sweep
end

theorem barCrew (h : Issuing s r) {id : BitVec 2} (goes : ReleaseGoes s r true .crew u) (one : u.teams = [(r.tok, u.team r.tok)])
    (saved : u.saved = []) (live : (u.team r.tok).live = true) (here : (u.path r).live = true)
    (other : ((u.team r.tok).path (!r.path)).live = false) :
    ∃ t, exec (.bar id .crew) s = .next t ∧ t.path r = (u.path r).advance 1 ∧
      (t.team r.tok).arrivals .crew id = (u.team r.tok).arrivals .crew id + 1 ∧ SameMemory u t := by
  have arrives : exec (.bar id .crew) s = .next ((arrivedAlone u r id).advance r 1) :=
    (issued_next h _).trans (congrArg _ ((if_neg (by exact Bool.false_ne_true)).trans ((goes fun s =>
      (s.waitFor r (.bar .crew id ((s.team r.tok).arrivals .crew id))).barArrive r .crew id).trans
        (barArrive_single one saved live here other))))
  refine ⟨_, arrives, ?_, ?_, memByte_of_basis (Eq.trans (State.modPath_basis ..) (arrivedAlone_basis ..))⟩
  · rw [State.path_advance, if_pos rfl, arrivedAlone_path, Path.advance_with_wait]
  · refine Eq.trans ?_ (arrivedAlone_arrivals u r id)
    rw [State.advance, State.team_modPath, if_pos rfl]
    cases r.path <;> rfl

/-- Settles O39: `bar`, and the arrivals that cross between the dies. -/
theorem barriers : Obligations.Barriers := by
  intro s u r id sc grid inst
  refine ⟨fun h wide notRes => ?_, fun h open' goes => ?_, fun h crew goes one saved live here other => ?_,
    fun live dies cross => ⟨fun arrived fresh => ?_, fun arrived told fresh => ?_⟩⟩
  · refine (issued_next h _).trans (congrArg _ (if_pos ?_))
    rw [notRes]
    rcases wide with rfl | rfl <;> rfl
  · refine (issued_next h _).trans (congrArg _ ((if_neg ?_).trans (goes fun s =>
      (s.waitFor r (.bar sc id ((s.team r.tok).arrivals sc id))).barArrive r sc id)))
    rcases open' with rfl | rfl | res
    · exact Bool.false_ne_true
    · exact Bool.false_ne_true
    · rw [res, Bool.not_true, Bool.and_false]
      exact Bool.false_ne_true
  · subst crew
    exact barCrew h goes one saved live here other
  · exact if_pos (by rw [live, dies, cross, arrived, fresh]; rfl)
  · exact if_pos (by rw [live, dies, cross, arrived, told, fresh]; rfl)

/-! ### Monitors -/

theorem marm_reads {d b : SReg} {m : MDesc} {x : Xlat} (h : Issuing s r)
    (access : PlainAccess s r .load m.size.bytes (s.sget r b + m.off.signExtend 64) 0 x) (room : s.missesUsed (s.coreOf r) < missEntries)
    (acq : AcquireGoes s r (acquires m.order) false m.scope u) (live : (u.path r).live = true)
    (plain : PlainAccess u r .load m.size.bytes (u.sget r b + m.off.signExtend 64) 0 x) :
    exec (.marm d b m) s = .next (((u.modPath r fun p => { p with monitor := some ⟨flakeOf x.key, false, false⟩ }).startLate r
      [.s d (BitVec.ofNat 64 (u.memNat x.key m.size.bytes))]).advance r 2) := by
  have quiet : ((u.bindMeet r x.key m.size.bytes).drainSync r).drain r x.key m.size.bytes = u := by
    rw [plain.quiet.bindMeet, plain.quiet.drainSync, plain.quiet.drain]
  refine (issued_next h _).trans (congrArg _ ?_)
  simp only [access.reach]
  refine (if_neg ?_).trans ((acq _).trans ?_)
  · rw [access.held, decide_eq_false (Nat.not_le.2 room)]
    exact Bool.false_ne_true
  · rw [quiet, fillHost_device _ plain.place, plain.version, if_pos rfl, plain.homeSync, plain.version, plain.sound, live, homeBytes_zero]
    rfl

/-- A wait that ends, with its reason in a register, after a change of the path. -/
theorem writesSTo_endWait {d : SReg} {v : Nat} {f : Path → Path} (e : exec i s = .next ((s.modPath r f).endWait r d v)) :
    WritesSTo i s r d (BitVec.ofNat 64 v) ((f (s.path r)).advance 1) := by
  have local' := ((localTo_modPath s r f).trans (localTo_sset _ r d (BitVec.ofNat 64 v))).trans
    (localTo_modPath _ r fun p => p.advance 1)
  refine ⟨_, e, fun q => ?_, ?_, local'.vectors, local'.masks, local'.team, local'.only, local'.only.sameMemory⟩
  · rw [State.endWait, State.sget_advance, State.sget_sset, State.sget_modPath]
  · rw [State.endWait, State.path_advance, if_pos rfl, State.path_sset, State.path_modPath_same]

theorem writesSTo_monitorOff {d : SReg} {v : Nat} (e : exec i s = .next ((s.modPath r fun p => { p with monitor := none }).endWait r d v)) :
    WritesSTo i s r d (BitVec.ofNat 64 v) { (s.path r).advance 1 with monitor := none } :=
  Path.advance_with_monitor (s.path r) none 1 ▸ writesSTo_endWait e

theorem monitors : Rules.Monitors := by
  intro s u r d b m x
  refine ⟨fun h access room acq live plain => marm_reads h access room acq live plain, fun h => ?_, fun t wait running => ?_⟩
  · dsimp only
    refine ⟨fun none => writesS_advance ?_, fun k armed => ⟨fun restored => ?_, fun landed fresh => ?_, fun quiet fresh => ?_⟩⟩
    · refine (issued_next h _).trans (congrArg _ ?_)
      dsimp only
      rw [none]
      rfl
    · refine writesSTo_monitorOff ((issued_next h _).trans (congrArg _ ?_))
      rw [armed]
      exact if_pos restored
    · refine writesSTo_monitorOff ((issued_next h _).trans (congrArg _ ?_))
      rw [armed]
      exact (if_neg (by rw [fresh]; exact Bool.false_ne_true)).trans (if_pos landed)
    · refine moves_modPath (f := fun p => { p with wait := .mwait (Option.map (fun t => s.tsc + t)
        (if s.sget r b = 0 then none else some (s.sget r b).toNat)) d }) ((issued_next h _).trans (congrArg _ ?_))
      have until' : s.deadline (s.sget r b) = Option.map (fun t => s.tsc + t) (if s.sget r b = 0 then none else some (s.sget r b).toNat) := by
        rw [State.deadline]
        split <;> rfl
      rw [armed, ← until']
      exact (if_neg (by rw [fresh]; exact Bool.false_ne_true)).trans (if_neg (by rw [quiet]; exact Bool.false_ne_true))
  · change execMwaitTimeout r s = _
    rw [execMwaitTimeout, wait]
    exact if_pos running

/-! ### What a monitor sees -/

theorem mem_allPaths (team : (s.team r.tok).live = true) (live : (s.path r).live = true) : r ∈ s.allPaths := by
  have listed : ∀ (m : Store Team), (Store.get Team.none m r.tok).live = true → (r.tok, Store.get Team.none m r.tok) ∈ m := by
    intro m
    induction m with
    | nil => exact fun dead => Bool.noConfusion dead
    | cons x m ih =>
      obtain ⟨k, v⟩ := x
      rw [Store.get]
      split
      next e => exact fun _ => e ▸ List.mem_cons_self ..
      next => exact fun h => List.mem_cons_of_mem _ (ih h)
  have entry : (r.tok, s.team r.tok) ∈ s.liveTeams := List.mem_filter.2 ⟨listed _ team, team⟩
  refine List.mem_flatMap.2 ⟨_, entry, List.mem_filter.2 ⟨?_, live⟩⟩
  obtain ⟨tok, b⟩ := r
  cases b <;> simp

/-- A path whose monitor is armed on a flake, or has seen a landing there, and that does not wait for one. -/
structure Watching (p : Path) (m : Monitor) : Prop where
  armed : p.monitor = some m ∨ p.monitor = some { m with landed := true }
  awake : ∀ t d, p.wait ≠ .mwait t d

/-- A pass over some paths that shows the landing to a watching path, and leaves that path alone at the others. -/
theorem monitor_foldl {m : Monitor} {f : State → PathRef → State} (other : ∀ t q, q ≠ r → (f t q).path r = t.path r)
    (own : ∀ t, Watching (t.path r) m → (f t r).path r = { t.path r with monitor := some { m with landed := true } })
    {l : List PathRef} (hr : r ∈ l) (watch : Watching (s.path r) m) :
    ((l.foldl f s).path r).monitor = some { m with landed := true } := by
  have keeps : ∀ (t : State) (q : PathRef), Watching (t.path r) m → Watching ((f t q).path r) m := by
    intro t q watch
    by_cases e : q = r
    · rw [e, own t watch]
      exact ⟨.inr rfl, watch.awake⟩
    · rw [other t q e]
      exact watch
  have stays : ∀ (l : List PathRef) (t : State), Watching (t.path r) m → (t.path r).monitor = some { m with landed := true } →
      ((l.foldl f t).path r).monitor = some { m with landed := true } := by
    intro l
    induction l with
    | nil => exact fun _ _ seen => seen
    | cons q l ih =>
      intro t watch seen
      refine ih _ (keeps t q watch) ?_
      by_cases e : q = r
      · rw [e, own t watch]
      · rw [other t q e, seen]
  induction l generalizing s with
  | nil => cases hr
  | cons q l ih =>
    rcases List.mem_cons.1 hr with rfl | hr
    · exact stays l _ (keeps s r watch) (by rw [own s watch])
    · exact ih hr (keeps s q watch)

theorem path_modPath_other {q : PathRef} (h : q ≠ r) (f : Path → Path) : (s.modPath q f).path r = s.path r := by
  rw [State.path_modPath, if_neg (Ne.symm h)]

theorem monitorSeesWrite : Rules.MonitorSeesWrite := by
  intro s r k bs m team live armed some_byte low high awake
  have reached : (decide (flakeOf k ≤ m.flake) && decide (m.flake ≤ flakeOf (k + bs.length - 1))) = true := by
    rw [decide_eq_true low, decide_eq_true high]
    rfl
  have before : ∀ q, (((s.putBytes k bs).recall k bs.length).mend k bs.length).team q = s.team q := by
    intro q
    rw [State.recall]
    split <;> rfl
  rw [State.homeWrite, if_neg (by rw [List.isEmpty_iff]; exact some_byte), State.land]
  refine monitor_foldl (r := r) (m := m) ?_ ?_ (mem_allPaths (by rw [before]; exact team) (by rw [State.path, before]; exact live)) ?_
  · intro t q hq
    split
    · split
      · split
        · rw [State.endWait, State.path_advance, if_neg (Ne.symm hq), State.path_sset, path_modPath_other hq]
        · exact path_modPath_other hq _
      · rfl
    · rfl
  · intro t watch
    have flake : ∀ m', (t.path r).monitor = some m' → m'.flake = m.flake ∧ m'.restored = m.restored := by
      intro m' e
      rcases watch.armed with e' | e' <;> rw [e'] at e <;> cases e <;> exact ⟨rfl, rfl⟩
    split
    next m' e =>
      obtain ⟨same, restored⟩ := flake m' e
      rw [if_pos (by rw [same]; exact reached)]
      split
      next e' => exact (watch.awake _ _ e').elim
      next =>
        rw [State.path_modPath_same]
        obtain ⟨fl, la, re⟩ := m'
        cases same
        cases restored
        rfl
    next none =>
      rcases watch.armed with e | e <;> rw [e] at none <;> cases none
  · rw [State.path, before]
    exact ⟨.inl armed, awake⟩

/-- Settles O40: monitors, and the writes they see. -/
theorem monitorsAndWrites : Obligations.MonitorsAndWrites := ⟨monitors, monitorSeesWrite⟩

end Sys2Proof.Machine
end

section
/-! SUPPORT. Grace periods (R245, R246, R314 to R318) and supersteps (R319, R320, R474). -/

namespace Sys2Proof.Machine

variable {s u t : State} {r : PathRef} {i : Instr}

/-! ### Grace periods -/

theorem afterAll_waits {sc : Scope} (h : ¬ s.releaseGate r sc ≠ .wait) (k : State → State) : s.afterAll r sc k = s.waitFor r .release := by
  rw [State.afterAll, not_not.1 h]

theorem afterAll_goes {sc : Scope} (h : s.releaseGate r sc ≠ .wait) (k : State → State) : s.afterAll r sc k = k (s.releaseAct r sc) := by
  rw [State.afterAll]
  cases hg : s.releaseGate r sc with
  | wait => exact absurd hg h
  | go => rfl
  | stop i => rfl

/-- Settles O41: grace sections, requests, deferred frees and what they answer. -/
theorem gracePeriods : Obligations.GracePeriods := by
  intro s u r d a h
  dsimp only
  refine ⟨fun full => ?_, fun room => ?_, fun none => ?_, fun inside goes => ?_, issued_next h _, fun waits => ?_, fun ready => ?_,
    fun spec => ?_, fun plain full => ?_, fun plain room => ⟨fun waits => ?_, fun ready => ?_⟩, fun e rest ring thawed => ?_,
    fun nothing => ?_⟩
  all_goals refine (issued_next h _).trans (congrArg _ ?_)
  · exact if_pos full
  · exact if_neg room
  · exact if_pos none
  · exact (if_neg inside).trans (goes fun s =>
      let s := (s.modTeam r.tok fun t => { t with grace := t.grace - 1 }).advance r 1
      if (s.team r.tok).grace = 0 then s.graceLeave (s.ctxOf r) r.tok else s)
  · exact afterAll_waits waits _
  · exact afterAll_goes ready _
  · exact if_pos spec
  · exact (if_neg (not_not.2 plain)).trans (if_pos full)
  · exact (if_neg (not_not.2 plain)).trans ((if_neg (Nat.not_le.2 room)).trans (afterAll_waits waits _))
  · exact (if_neg (not_not.2 plain)).trans ((if_neg (Nat.not_le.2 room)).trans (afterAll_goes ready _))
  · dsimp only
    rw [ring]
    refine (if_pos thawed).trans ?_
    rfl
  · dsimp only
    rcases nothing with ring | ⟨e, rest, ring, frozen⟩
    · rw [ring]
    · rw [ring]
      exact if_neg (by rw [frozen]; exact Bool.false_ne_true)

/-! ### Supersteps -/

/-- Where a path's wait is at a boundary, or the path has ended. -/
def atStep (n : Nat) (p : Path) : Bool := !p.live || (match p.wait with | .step m _ => m == n | _ => false)

/-- What `step` does behind its release. -/
def stepBody (u : State) (r : PathRef) (d : SReg) : State :=
  if u.arrived then (u.waitFor r (.step (u.stepNo + 1) d)).modTeam r.tok fun t => { t with stepMember := true }
  else
    let v := u.waitFor r (.step u.stepNo d)
    (v.modTeam r.tok fun t =>
      { t with stepMember := true, stepAt := if atStep u.stepNo (v.team r.tok).path0 && atStep u.stepNo (v.team r.tok).path1 then some u.stepNo else t.stepAt }).stepCheck

theorem step_goes {d : SReg} (h : Issuing s r) (mine : s.stepGroup = false ∨ s.ctxOf r = s.stepCtx) (goes : ReleaseGoes s r true .pod u) :
    exec (.step d) s = .next (stepBody u r d) := by
  refine (issued_next h _).trans (congrArg _ ((if_neg ?_).trans (goes fun u => stepBody u r d)))
  rcases mine with alone | same
  · rw [alone]
    exact Bool.false_ne_true
  · rw [same, bne_self_eq_false, Bool.and_false]
    exact Bool.false_ne_true

/-- The other path of a team does not change when one begins to wait, and that one waits. -/
theorem team_waitFor (u : State) (r : PathRef) (w : Wait) :
    (u.waitFor r w).team r.tok = (u.team r.tok).setPath r.path { u.path r with wait := w } := by
  rw [State.waitFor, State.team_modPath, if_pos rfl]

theorem atStep_both {n : Nat} {d : SReg} :
    (atStep n ((u.waitFor r (.step n d)).team r.tok).path0 && atStep n ((u.waitFor r (.step n d)).team r.tok).path1) =
      atStep n ((u.team r.tok).path (!r.path)) := by
  have here : atStep n { u.path r with wait := .step n d } = true := by simp [atStep]
  rw [team_waitFor]
  cases hr : r.path with
  | false =>
    change (atStep n { u.path r with wait := .step n d } && atStep n (u.team r.tok).path1) = atStep n (u.team r.tok).path1
    rw [here, Bool.true_and]
  | true =>
    change (atStep n (u.team r.tok).path0 && atStep n { u.path r with wait := .step n d }) = atStep n (u.team r.tok).path0
    rw [here, Bool.and_true]

theorem stepBody_open {d : SReg} (open' : u.arrived = false) : stepBody u r d = ((u.waitFor r (.step u.stepNo d)).modTeam r.tok fun t =>
    { t with stepMember := true, stepAt := if atStep u.stepNo ((u.team r.tok).path (!r.path)) then some u.stepNo else t.stepAt }).stepCheck := by
  rw [stepBody, open']
  refine (if_neg Bool.false_ne_true).trans ?_
  dsimp only
  rw [atStep_both]

/-- Settles O42: `step` and `stepq`. -/
theorem supersteps : Obligations.Supersteps := by
  intro s u r d h
  dsimp only
  refine ⟨fun group foreign => ?_, fun mine goes => ?_, issued_next h _⟩
  · refine (issued_next h _).trans (congrArg _ (if_pos ?_))
    rw [group, bne_iff_ne.2 foreign]
    rfl
  · have step := step_goes (d := d) h mine goes
    refine ⟨fun arrived => ?_, fun open' dead => ?_, fun open' live away => ?_⟩
    · rw [step]
      exact congrArg _ (if_pos arrived)
    · have here : atStep u.stepNo ((u.team r.tok).path (!r.path)) = true := by
        rw [atStep, dead]
        rfl
      rw [step, stepBody_open open', here]
      rfl
    · have elsewhere : atStep u.stepNo ((u.team r.tok).path (!r.path)) = false := by
        rw [atStep, live]
        cases hw : ((u.team r.tok).path (!r.path)).wait with
        | step n q => exact absurd hw (away n q)
        | _ => rfl
      rw [step, stepBody_open open', elsewhere]
      rfl

end Sys2Proof.Machine
end

section
/-! SUPPORT. The boundaries of supersteps: their messages, failures and arrival tree (R319, R475, R476). -/

namespace Sys2Proof.Machine

variable {s u t : State} {r : PathRef} {i : Instr}

/-! ### Messages that arrive -/

theorem onMsg_arrives {v : Via} (h : Arrives s v) (act : State → State) : s.onMsg v (fun s => some (act s)) = Acked (act s) v := by
  obtain ⟨running, up, dst, fresh, key⟩ := h
  have known : (!s.strict && (s.packetCtx v.port v.h).isNone) = false := by
    rcases key with strict | ⟨c, e⟩
    · rw [strict]
      rfl
    · rw [e, Option.isNone_some, Bool.and_false]
  rw [State.onMsg]
  dsimp only
  rw [if_neg, known, fresh]
  · rfl
  · rw [running, up, dst]
    simp

/-! ### ARRIVE, decisions and queries -/

theorem arriveMsg_ignored {n : Nat} {node : Nat × Nat} (other : s.stepGroup = false ∨ n ≠ s.stepNo)
    (notNext : s.stepGroup = true → n ≠ s.stepNo + 1) : s.arriveMsg n node = s := by
  cases group : s.stepGroup with
  | false => rw [State.arriveMsg, group]; rfl
  | true =>
    rw [State.arriveMsg, group]
    exact (if_neg (by exact Bool.false_ne_true)).trans ((if_neg (notNext group)).trans
      (if_pos (other.resolve_left (by rw [group]; exact Bool.noConfusion))))

theorem arriveMsg_next {n : Nat} {node : Nat × Nat} (group : s.stepGroup = true) (next : n = s.stepNo + 1) : s.arriveMsg n node =
    { s with early := if s.early.contains node then s.early else s.early ++ [node] } := by
  rw [State.arriveMsg, group]
  exact (if_neg (by exact Bool.false_ne_true)).trans (if_pos next)

theorem abortIf_noFailures (h : s.failures = []) : s.abortIf = s := by
  rw [State.abortIf, h]
  exact if_neg (by simp)

theorem arriveMsg_now {n : Nat} {node : Nat × Nat} (group : s.stepGroup = true) (now : n = s.stepNo) (sound : s.failures = []) :
    s.arriveMsg n node =
      let kept : State := { s with
        arrivals := if s.arrivals.contains node then s.arrivals else s.arrivals ++ [node]
        aliveAt := if s.begun then s.aliveAt else s.tsc }
      if s.arrived then kept.treeStep else kept.stepCheck true := by
  rw [State.arriveMsg, group]
  refine (if_neg (by exact Bool.false_ne_true)).trans ((if_neg (by omega)).trans ((if_neg (not_not.2 now)).trans ?_))
  dsimp only
  rw [abortIf_noFailures (by exact sound)]
  exact if_neg (not_not.2 rfl)

theorem decideMsg_ignored {n : Nat} {d : Decision} (h : n ≠ s.stepNo ∨ s.stepGroup = false ∨ (s.queried = true ∧ d.query = false)) :
    s.decideMsg n d = s := by
  refine if_pos ?_
  rcases h with other | alone | ⟨asked, unasked⟩
  · simp [other]
  · simp [alone]
  · simp [asked, unasked]

theorem decideMsg_taken {n : Nat} {d : Decision} (now : n = s.stepNo) (group : s.stepGroup = true) (h : s.queried = false ∨ d.query = true) :
    s.decideMsg n d = if d.complete then (if s.arrived then s.depart true else s) else s.abort := by
  refine if_neg ?_
  rcases h with fresh | answer
  · simp [now, group, fresh]
  · simp [now, group, answer]

theorem abort_eq (s : State) : s.abort = Aborted s := rfl

theorem boundaryMessages : Rules.BoundaryMessages := by
  intro s v n node query h
  dsimp only
  have deliver : ∀ act : State → State, Host.Outcome.next (s.onMsg v fun s => some (act s)) = (.next (Acked (act s) v) : Res) :=
    fun act => congrArg _ (onMsg_arrives h act)
  refine ⟨fun other notNext => (deliver _).trans ?_, fun group next => (deliver _).trans ?_, fun group now sound => (deliver _).trans ?_,
    fun other yes => (deliver _).trans ?_, fun now group mine => ⟨fun arrived => (deliver _).trans ?_, (deliver _).trans ?_⟩,
    fun past => (deliver _).trans ?_, fun now held => (deliver _).trans ?_, fun now none => (deliver _).trans ?_,
    fun future => (deliver _).trans ?_⟩
  · rw [arriveMsg_ignored other notNext]
  · rw [arriveMsg_next group next]
  · rw [arriveMsg_now group now sound]
  · rw [decideMsg_ignored other]
  · rw [decideMsg_taken now group mine]
    refine congrArg (fun t => Host.Outcome.next (Acked t v)) ?_
    exact (if_pos rfl).trans (if_pos arrived)
  · rw [decideMsg_taken now group mine]
    rfl
  · rw [State.queryMsg, if_pos past]
  · rw [State.queryMsg, if_neg (by omega), if_pos now, Option.isNone_eq_false_iff.2 (Option.isSome_iff_ne_none.2 held), Bool.or_false]
  · rw [State.queryMsg, if_neg (by omega), if_pos now, none, Option.isNone_none, Bool.or_true]
  · rw [State.queryMsg, if_neg (by omega), if_neg (by omega)]

/-! ### Failures -/

/-- Sending messages changes what is sent, what waits for an acknowledgement, and the next serial number. -/
def OnlySends (s t : State) : Prop := t = { s with podOut := t.podOut, nextSer := t.nextSer, out := t.out }

theorem onlySends_postAll (s : State) (key : BitVec 32) (dsts : List Nat) (dom : Nat) (body : PBody) :
    OnlySends s (s.postAll key dsts dom body) := by
  refine foldl_keeps (OnlySends s) _ dsts s (fun t d ht => ?_) rfl
  rw [OnlySends] at ht ⊢
  rw [ht]
  rfl

theorem onlySends_tell (s : State) (dsts : List Nat) (body : PBody) : OnlySends s (s.tell dsts body) := onlySends_postAll ..

theorem arrived_tell (s : State) (dsts : List Nat) (body : PBody) : (s.tell dsts body).arrived = s.arrived := by
  rw [onlySends_tell s dsts body]

/-- The outcome of a device's own query goes to every live member. -/
def toldAll (t : State) (yes : Bool) : State := ({ t with asked := [] } : State).tell t.liveMembers (.decide t.stepNo ⟨yes, true⟩)

theorem outcome_complete (s : State) : s.outcome true = if s.arrived then (toldAll s true).depart true else toldAll s true := by
  have same : (toldAll s true).arrived = s.arrived := arrived_tell ..
  change (if (toldAll s true).arrived = true then (toldAll s true).depart true else toldAll s true) = _
  rw [same]

theorem outcome_abort (s : State) : s.outcome false = Aborted (toldAll s false) := rfl

/-- A member's answer is not awaited any more. -/
theorem heard_eq (s : State) (k : Nat) : s.heard k =
    if s.asked.contains k then
      if (s.asked.filter fun x => x != k) = [] then Aborted (toldAll s false) else { s with asked := s.asked.filter fun x => x != k }
    else s := by
  rw [State.heard]
  split
  · dsimp only
    by_cases none : (s.asked.filter fun x => x != k) = []
    · rw [if_pos none, if_pos (List.isEmpty_iff.2 none)]
      rfl
    · rw [if_neg none, if_neg (by rw [List.isEmpty_iff]; exact none)]
  · rfl

theorem ask_eq (s : State) : s.ask = if s.liveMembers = [] then Aborted { s with queried := true, asked := [] }
    else ({ s with queried := true, asked := s.liveMembers } : State).tell s.liveMembers (.query s.stepNo) := by
  rw [State.ask]
  dsimp only
  by_cases none : s.liveMembers = []
  · have told : toldAll { s with queried := true, asked := s.liveMembers } false = { s with queried := true, asked := [] } := by
      change State.tell _ s.liveMembers _ = _
      rw [none]
      rfl
    rw [if_pos none, if_pos (List.isEmpty_iff.2 none), outcome_abort, told]
  · rw [if_neg none, if_neg (by rw [List.isEmpty_iff]; exact none)]

/-- The state in which the failure of a member is recorded. -/
def failureNoted (s : State) (rank : Nat) : State :=
  (if s.failures.contains rank then s else { s with failures := s.failures ++ [rank] }).failColl rank

section
variable (s) (rank : Nat)
theorem failureNoted_decision : (failureNoted s rank).decision = s.decision := by rw [failureNoted]; split <;> rfl
theorem failureNoted_queried : (failureNoted s rank).queried = s.queried := by rw [failureNoted]; split <;> rfl
theorem failureNoted_asked : (failureNoted s rank).asked = s.asked := by rw [failureNoted]; split <;> rfl
theorem failureNoted_stepNo : (failureNoted s rank).stepNo = s.stepNo := by rw [failureNoted]; split <;> rfl
theorem failureNoted_begun : (failureNoted s rank).begun = s.begun := by rw [failureNoted]; split <;> rfl
theorem failureNoted_failures : (failureNoted s rank).failures.isEmpty = false := by
  rw [failureNoted]
  split
  next known =>
    rw [List.isEmpty_eq_false_iff]
    exact List.ne_nil_of_mem (List.contains_iff_mem.1 known)
  next =>
    change (s.failures ++ [rank]).isEmpty = false
    rw [List.isEmpty_eq_false_iff]
    simp
end

theorem failMember_member {rank : Nat} (group : s.stepGroup = true) (member : s.members.contains rank = true) :
    s.failMember rank = if s.decision.isSome then failureNoted s rank
      else if (failureNoted s rank).position = 0 && !s.queried then (failureNoted s rank).abortIf
      else if s.asked.isEmpty then (failureNoted s rank).ask else (failureNoted s rank).heard rank := by
  refine (if_neg (by rw [group, member]; exact Bool.false_ne_true)).trans ?_
  change (if (failureNoted s rank).decision.isSome = true then failureNoted s rank
    else if ((failureNoted s rank).position = 0 && !(failureNoted s rank).queried) = true then (failureNoted s rank).abortIf
    else if (failureNoted s rank).asked.isEmpty = true then (failureNoted s rank).ask else (failureNoted s rank).heard rank) = _
  rw [failureNoted_decision, failureNoted_queried, failureNoted_asked]

theorem failMember_other {rank : Nat} (h : s.stepGroup = false ∨ s.members.contains rank = false) : s.failMember rank = s.failColl rank := by
  refine if_pos ?_
  rcases h with alone | other
  · rw [alone]
    rfl
  · rw [other, Bool.not_false, Bool.or_true]

theorem abortIf_noted {rank : Nat} (none : s.decision = .none) (first : (failureNoted s rank).position = 0) (fresh : s.queried = false) :
    (failureNoted s rank).abortIf = if s.begun then
      Aborted ((failureNoted s rank).tell (failureNoted s rank).otherMembers (.decide s.stepNo ⟨false, false⟩)) else failureNoted s rank := by
  rw [State.abortIf, failureNoted_begun, failureNoted_failures, first, failureNoted_queried, fresh, failureNoted_decision, none,
    failureNoted_stepNo]
  simp only [Bool.not_false, Bool.and_true, decide_true, Option.isNone_none]
  rfl

/-- R472: a message of another device of its class is performed and acknowledged. -/
theorem transactionPacket_answer {port n : Nat} {p : Packet} {c : Option Bool} (h : Arrives s ⟨port, p.toPodHdr⟩) (body : p.body = .queryAnswer n c) :
    exec (.transactionPacket port p) s = .next (Acked (s.answerMsg p.src n c) ⟨port, p.toPodHdr⟩) := by
  have arrived := h
  obtain ⟨running, up, dst, -, -⟩ := h
  have flakes : bodyFlakes p.body = [] := by rw [body]; rfl
  have inOrder : s.overtakes p = false := by
    rw [State.overtakes, flakes]
    simp
  change execTransactionPacket port p s = _
  rw [execTransactionPacket, body]
  refine (if_neg ?_).trans (congrArg _ (onMsg_arrives arrived _))
  change p.dst = s.rank at dst
  change s.portIsUp port = true at up
  rw [running, up, dst, inOrder]
  simp

theorem boundaryFailures : Rules.BoundaryFailures := by
  intro s n rank port p c coll tells heard
  have hcoll : coll = failureNoted s rank := rfl
  have htells : tells = toldAll := rfl
  have hheard : ∀ t k, heard t k = t.heard k := fun t k => (heard_eq t k).symm
  clear_value coll tells heard
  subst hcoll htells
  refine ⟨fun now group begun other => if_pos ?_, fun closed => if_neg ?_, fun other => congrArg _ (failMember_other other),
    fun group member => ⟨fun held => ?_, fun none first fresh => ?_, fun none late => ⟨fun quiet => ?_, fun waits => ?_⟩⟩,
    fun h body => ⟨fun other => ?_, fun now mine yes => ?_, fun now mine no => ?_⟩⟩
  · simp [now, group, begun, other]
  · rcases closed with h | h | h | h <;> simp [h]
  · refine congrArg Host.Outcome.next ((failMember_member group member).trans (if_pos ?_))
    rw [Option.isSome_iff_ne_none]
    exact held
  · refine congrArg Host.Outcome.next ((failMember_member group member).trans ((if_neg ?_).trans ((if_pos ?_).trans (abortIf_noted none first fresh))))
    · rw [none]; exact Bool.false_ne_true
    · simp [first, fresh]
  · refine congrArg Host.Outcome.next ((failMember_member group member).trans ((if_neg ?_).trans ((if_neg ?_).trans ((if_pos ?_).trans ?_))))
    · rw [none]; exact Bool.false_ne_true
    · rcases late with h | h <;> simp [h]
    · rw [quiet]; rfl
    · rw [ask_eq, failureNoted_stepNo]
  · refine congrArg Host.Outcome.next ((failMember_member group member).trans ((if_neg ?_).trans ((if_neg ?_).trans ((if_neg ?_).trans (hheard ..).symm))))
    · rw [none]; exact Bool.false_ne_true
    · rcases late with h | h <;> simp [h]
    · rw [List.isEmpty_iff]; exact waits
  · refine (transactionPacket_answer h body).trans (congrArg (fun t => Host.Outcome.next (Acked t _)) (if_pos ?_))
    rcases other with other | other <;> simp only [other, ne_eq, not_false_eq_true, decide_true, Bool.true_or, Bool.not_false, Bool.or_true]
  · refine (transactionPacket_answer h body).trans (congrArg (fun t => Host.Outcome.next (Acked t _)) ((if_neg ?_).trans ((if_pos yes).trans (outcome_complete s))))
    simp only [now, mine, ne_eq, not_true_eq_false, decide_false, Bool.not_true, Bool.or_self, Bool.false_eq_true, not_false_eq_true]
  · refine (transactionPacket_answer h body).trans (congrArg (fun t => Host.Outcome.next (Acked t _)) ((if_neg ?_).trans ((if_neg no).trans (hheard ..).symm)))
    simp only [now, mine, ne_eq, not_true_eq_false, decide_false, Bool.not_true, Bool.or_self, Bool.false_eq_true, not_false_eq_true]

/-! ### The tree -/

theorem arrivalTree : Rules.ArrivalTree := by
  intro s arrived notAborted
  dsimp only
  intro halves
  have start : s.treeStep = if s.position = 0 then
      if s.queried then s
      else (({ s with decision := some true } : State).tell (if s.group'.length = 1 then [] else s.otherMembers)
        (.decide s.stepNo ⟨true, false⟩)).depart true
    else if s.handed then s
    else ({ s with handed := true } : State).tell [s.treeParent] (.arrive s.stepNo (handUp s.group'.length s.position)
      (s.position / 2 ^ handUp s.group'.length s.position)) := by
    rw [State.treeStep]
    refine (if_neg ?_).trans (if_neg ?_)
    · rw [arrived, Bool.true_and, beq_iff_eq]
      exact notAborted
    · rw [arrived, halves]
      exact Bool.false_ne_true
  refine ⟨fun root fresh => ?_, fun inner first => ?_, fun inner again => ?_⟩
  · rw [start, if_pos root, fresh, if_neg Bool.false_ne_true]
  · rw [start, if_neg inner, first, if_neg Bool.false_ne_true]
  · rw [start, if_neg inner, again, if_pos rfl]

end Sys2Proof.Machine
end

section
/-! SUPPORT. What the operations over memory and its copies leave alone, and the departure from a boundary (R319, R475,
R476). -/

namespace Sys2Proof.Machine

variable {s u t : State} {r : PathRef} {i : Instr}

/-! ### Operations over memory, its copies and the log -/

theorem State.crewNo_modTeam {f : Team → Team} (h : ∀ t, (f t).crew = t.crew) (s : State) (k : Nat) (q : PathRef) :
    (s.modTeam k f).crewNo q = s.crewNo q := by
  rw [State.crewNo, State.team_modTeam]
  split
  next e => rw [h, State.crewNo, e]
  next => rfl

theorem State.crewNo_sset (s : State) (r : PathRef) (d : SReg) (v : DWord) (q : PathRef) : (s.sset r d v).crewNo q = s.crewNo q :=
  State.crewNo_modTeam (fun t => by rw [Team.sset]; split <;> rfl) ..

/-- A change of every value of a store that keeps one field of it keeps that field of what is read. -/
theorem get_map_field {β γ : Type} {f : β → β} {g : β → γ} (h : ∀ x, g (f x) = g x) (dflt : β) (m : Store β) (k : Nat) :
    g (Store.get dflt (m.map fun x => (x.1, f x.2)) k) = g (Store.get dflt m k) := by
  induction m with
  | nil => rfl
  | cons x m ih =>
    rw [List.map_cons, Store.get, Store.get]
    split
    · exact h _
    · exact ih

/-- Nothing changed but memory with its copies and marks, the registers of teams and of the control space, and saved
teams; write-backs come to be owed only while nothing crosses between the dies, and teams stay in their crews. -/
structure MemOnly (s t : State) : Prop where
  frame : t = { s with
    mem := t.mem, poison := t.poison, vcopy := t.vcopy, vspans := t.vspans, copies := t.copies, l1own := t.l1own, hostL2 := t.hostL2,
    hostWr := t.hostWr, owed := t.owed, teams := t.teams, saved := t.saved, csr := t.csr }
  paid : s.crossStop = false → t.owed = s.owed
  crewNo : ∀ q, t.crewNo q = s.crewNo q

theorem MemOnly.refl (s : State) : MemOnly s s := ⟨rfl, fun _ => rfl, fun _ => rfl⟩

theorem MemOnly.crossStop (h : MemOnly s t) : t.crossStop = s.crossStop := by
  rw [h.frame]
  rfl

theorem MemOnly.trans (h : MemOnly s t) (h' : MemOnly t u) : MemOnly s u := by
  refine ⟨?_, fun c => (h'.paid (h.crossStop.trans c)).trans (h.paid c), fun tok => (h'.crewNo tok).trans (h.crewNo tok)⟩
  rw [h'.frame, h.frame]

theorem memOnly_foldl {α : Type} {f : State → α → State} (h : ∀ s a, MemOnly s (f s a)) (l : List α) : MemOnly s (l.foldl f s) :=
  foldl_keeps (MemOnly s) f l s (fun t a ht => ht.trans (h t a)) (MemOnly.refl s)

section
variable (s : State) (r : PathRef) (k n core : Nat) (f : Nat → Bool)

theorem memOnly_setCopy (c : CopyByte) : MemOnly s (s.setCopy n k c) := ⟨rfl, fun _ => rfl, fun _ => rfl⟩
theorem memOnly_mend : MemOnly s (s.mend k n) := ⟨rfl, fun _ => rfl, fun _ => rfl⟩
theorem memOnly_dropCopies : MemOnly s (s.dropCopies n f) := ⟨rfl, fun _ => rfl, fun _ => rfl⟩
theorem memOnly_putBytes (bs : List Byte) : MemOnly s (s.putBytes k bs) := ⟨rfl, fun _ => rfl, fun _ => rfl⟩
theorem memOnly_csrPut (v : DWord) : MemOnly s (s.csrPut k n v) := ⟨rfl, fun _ => rfl, fun _ => rfl⟩
theorem memOnly_modPath (g : Path → Path) : MemOnly s (s.modPath r g) := ⟨rfl, fun _ => rfl, fun q => State.crewNo_modPath s r q g⟩
theorem memOnly_sset (d : SReg) (v : DWord) : MemOnly s (s.sset r d v) := ⟨rfl, fun _ => rfl, fun q => State.crewNo_sset s r d v q⟩
theorem memOnly_endWait (d : SReg) : MemOnly s (s.endWait r d n) := by
  rw [State.endWait, State.advance]
  exact (memOnly_sset ..).trans (memOnly_modPath ..)
theorem memOnly_copies (c : Store CopyByte) : MemOnly s { s with copies := c } := ⟨rfl, fun _ => rfl, fun _ => rfl⟩

theorem memOnly_poisonFlake : MemOnly s (s.poisonFlake k) := by
  rw [State.poisonFlake]
  split <;> exact ⟨rfl, fun _ => rfl, fun _ => rfl⟩

theorem memOnly_noteFailed (both : Bool) (va : Nat) : MemOnly s (s.noteFailed r both k va) := by
  rw [State.noteFailed]
  split
  · exact MemOnly.refl s
  · split
    · exact (memOnly_modPath ..).trans (memOnly_modPath ..)
    · exact memOnly_modPath ..

theorem memOnly_land : MemOnly s (s.land k n) := by
  rw [State.land]
  refine memOnly_foldl (fun s r => ?_) _
  split
  · split
    · split
      · exact (memOnly_modPath ..).trans (memOnly_endWait ..)
      · exact memOnly_modPath ..
    · exact MemOnly.refl _
  · exact MemOnly.refl _

theorem memOnly_homeWrite (bs : List Byte) : MemOnly s (s.homeWrite k bs) := by
  rw [State.homeWrite]
  split
  · exact ⟨rfl, fun _ => rfl, fun _ => rfl⟩
  · refine MemOnly.trans (t := ((s.putBytes k bs).recall k bs.length).mend k bs.length) ?_ (memOnly_land ..)
    rw [State.recall]
    split <;> exact ⟨rfl, fun _ => rfl, fun _ => rfl⟩

theorem memOnly_makeRoom {put : State → Nat → List Byte → State} (hp : ∀ s k bs, MemOnly s (put s k bs)) (at' : Nat → Nat) (m : Nat)
    (later : State → Nat → Bool) (j i : Nat) : MemOnly s (makeRoom put at' m later j i s).1 := by
  induction j generalizing i s with
  | zero => exact MemOnly.refl _
  | succ j ih =>
    rw [makeRoom]
    split
    · exact (hp _ _ _).trans (ih _ _)
    · exact ⟨rfl, fun _ => rfl, fun _ => rfl⟩

theorem memOnly_logEvent (src code cls : Nat) (ctx : Option Nat) (detail : List Byte) : MemOnly s (s.logEvent src code cls ctx detail) := by
  rw [State.logEvent]
  dsimp only
  split
  · exact ⟨rfl, fun _ => rfl, fun _ => rfl⟩
  · split
    · exact memOnly_csrPut ..
    · exact ((memOnly_makeRoom s memOnly_putBytes ..).trans (memOnly_putBytes ..)).trans (memOnly_csrPut ..)

theorem memOnly_failCopy (unit : Nat) : MemOnly s (s.failCopy unit k) := by
  rw [State.failCopy]
  refine MemOnly.trans ?_ (memOnly_foldl (fun s x => memOnly_noteFailed ..) _)
  refine MemOnly.trans ?_ (memOnly_logEvent ..)
  exact (memOnly_copies ..).trans (memOnly_poisonFlake ..)

theorem memOnly_l1ToRdc : MemOnly s (s.l1ToRdc core f) := by
  rw [State.l1ToRdc]
  refine memOnly_foldl (fun s x => ?_) _
  split
  · split
    · exact memOnly_failCopy ..
    · exact ⟨rfl, fun _ => rfl, fun _ => rfl⟩
  · exact ⟨rfl, fun _ => rfl, fun _ => rfl⟩

theorem memOnly_writeBack (unit : Nat) : MemOnly s (s.writeBack unit f) := by
  rw [State.writeBack]
  split
  next stop => exact ⟨rfl, fun go => absurd (stop.symm.trans go) Bool.noConfusion, fun _ => rfl⟩
  · refine MemOnly.trans (memOnly_foldl (fun s x => ?_) _) (memOnly_foldl (fun s k => memOnly_mend ..) _)
    split
    · split
      · exact memOnly_failCopy ..
      · exact (memOnly_setCopy ..).trans (memOnly_homeWrite ..)
    · exact ⟨rfl, fun _ => rfl, fun _ => rfl⟩

theorem memOnly_purge : MemOnly s (s.purge core f) :=
  (((memOnly_l1ToRdc s core f).trans (memOnly_writeBack ..)).trans (memOnly_dropCopies ..)).trans (memOnly_dropCopies ..)

theorem memOnly_acquireCore (sc : Scope) : MemOnly s (s.acquireCore core sc) := by
  rw [State.acquireCore]
  split
  · exact memOnly_purge ..
  · split
    · exact (memOnly_l1ToRdc ..).trans (memOnly_dropCopies ..)
    · exact ⟨rfl, fun _ => rfl, fun _ => rfl⟩

theorem memOnly_acquireAct (sc : Scope) : MemOnly s (s.acquireAct r sc) := memOnly_acquireCore ..

theorem memOnly_dropPod : MemOnly s s.dropPod := by
  rw [State.dropPod]
  split
  · exact ⟨rfl, fun _ => rfl, fun _ => rfl⟩
  · exact MemOnly.trans (memOnly_foldl (fun s u => memOnly_purge ..) _) (memOnly_foldl (fun s u => (memOnly_writeBack ..).trans (memOnly_dropCopies ..)) _)
end

/-! ### Departing -/

theorem memOnly_applyAddr (s : State) (l : List FirnEntry) : MemOnly s (s.applyAddr l).1 := by
  rw [State.applyAddr]
  split
  · exact ⟨rfl, fun _ => rfl, fun _ => rfl⟩
  · dsimp only
    split
    · exact ((memOnly_poisonFlake ..).trans (memOnly_land ..)).trans (memOnly_logEvent ..)
    · split
      · exact ⟨rfl, fun _ => rfl, fun _ => rfl⟩
      · split
        · exact memOnly_logEvent ..
        · exact memOnly_homeWrite ..

theorem memOnly_stepOn (s : State) (n : Nat) : MemOnly s { s with teams := s.teams.map fun x => (x.1, x.2.stepOn n) } :=
  ⟨rfl, fun _ => rfl, fun _ => get_map_field (f := fun t => Team.stepOn t n) (g := Team.crew) (fun _ => rfl) ..⟩

theorem memOnly_stepWake (s : State) (n out : Nat) : MemOnly s (s.stepWake n out) := by
  rw [State.stepWake]
  refine MemOnly.trans (memOnly_foldl (fun s r => ?_) _) (memOnly_stepOn ..)
  split
  · split
    · exact (memOnly_acquireAct ..).trans (memOnly_endWait ..)
    · exact MemOnly.refl s
  · exact MemOnly.refl s

theorem memOnly_firnReplay (s : State) : MemOnly s s.firnReplay := by
  rw [State.firnReplay]
  refine memOnly_foldl (fun s r => ?_) _
  split
  · exact memOnly_modPath ..
  · exact MemOnly.refl s

/-! ### With no dirty copy a departure changes no memory -/

/-- From a state with no dirty copy there is none after, and what memory and the host's lines read as stays. -/
structure Tidy (s t : State) : Prop where
  keeps : (∀ c ∈ s.copies, c.2.dirty = false) →
    (∀ c ∈ t.copies, c.2.dirty = false) ∧ t.mem = s.mem ∧ t.hostL2 = s.hostL2 ∧ t.hostWr = s.hostWr

theorem Tidy.refl (s : State) : Tidy s s := ⟨fun h => ⟨h, rfl, rfl, rfl⟩⟩

theorem Tidy.trans (h : Tidy s t) (h' : Tidy t u) : Tidy s u := ⟨fun clean =>
  have ⟨ht, mem, l2, wr⟩ := h.keeps clean
  have ⟨hu, mem', l2', wr'⟩ := h'.keeps ht
  ⟨hu, mem'.trans mem, l2'.trans l2, wr'.trans wr⟩⟩

theorem Tidy.sameMemory (h : Tidy s t) (clean : ∀ c ∈ s.copies, c.2.dirty = false) : SameMemory s t := fun k => by
  obtain ⟨-, mem, l2, wr⟩ := h.keeps clean
  rw [State.memByte, State.memByte, mem, l2, wr]

theorem tidy_foldl {α : Type} {f : State → α → State} (h : ∀ s a, Tidy s (f s a)) (l : List α) : Tidy s (l.foldl f s) :=
  foldl_keeps (Tidy s) f l s (fun t a ht => ht.trans (h t a)) (Tidy.refl s)

section
variable (s : State) (core unit : Nat) (f : Nat → Bool)

theorem tidy_dropCopies : Tidy s (s.dropCopies unit f) :=
  ⟨fun clean => ⟨fun c hc => clean c (List.mem_filter.1 hc).1, rfl, rfl, rfl⟩⟩

theorem tidy_l1ToRdc : Tidy s (s.l1ToRdc core f) :=
  ⟨fun clean => by rw [l1ToRdc_clean clean]; exact ⟨clean, rfl, rfl, rfl⟩⟩

theorem tidy_writeBack : Tidy s (s.writeBack unit f) :=
  ⟨fun clean => by obtain ⟨_, same⟩ := writeBack_clean clean unit f; rw [same]; exact ⟨clean, rfl, rfl, rfl⟩⟩

theorem tidy_purge : Tidy s (s.purge core f) :=
  (((tidy_l1ToRdc s core f).trans (tidy_writeBack ..)).trans (tidy_dropCopies ..)).trans (tidy_dropCopies ..)

theorem tidy_acquireAct (r : PathRef) (sc : Scope) : Tidy s (s.acquireAct r sc) := by
  rw [State.acquireAct, State.acquireCore]
  split
  · exact tidy_purge ..
  · split
    · exact (tidy_l1ToRdc ..).trans (tidy_dropCopies ..)
    · exact Tidy.refl _

theorem tidy_dropPod : Tidy s s.dropPod := by
  rw [State.dropPod]
  split
  · exact Tidy.refl _
  · exact (tidy_foldl (fun s u => tidy_purge ..) _).trans (tidy_foldl (fun s u => (tidy_writeBack ..).trans (tidy_dropCopies ..)) _)

theorem tidy_endWait (r : PathRef) (d : SReg) (n : Nat) : Tidy s (s.endWait r d n) := ⟨fun clean => ⟨clean, rfl, rfl, rfl⟩⟩

theorem tidy_stepWake (n out : Nat) : Tidy s (s.stepWake n out) := by
  rw [State.stepWake]
  refine Tidy.trans (tidy_foldl (fun s r => ?_) _) ⟨fun clean => ⟨clean, rfl, rfl, rfl⟩⟩
  split
  · split
    · exact (tidy_acquireAct ..).trans (tidy_endWait ..)
    · exact Tidy.refl _
  · exact Tidy.refl _

theorem tidy_firnReplay : Tidy s s.firnReplay := by
  rw [State.firnReplay]
  refine tidy_foldl (fun s r => ?_) _
  split
  · exact ⟨fun clean => ⟨clean, rfl, rfl, rfl⟩⟩
  · exact Tidy.refl _
end

/-! ### The parts of a departure -/

/-- The contributions of a boundary are applied to memory, and leave the buffers (R241). -/
theorem memOnly_applyFirn (s : State) :
    MemOnly { s with firn := s.firn.filter fun e => !(e.step == s.stepNo) } s.applyFirn.1 := by
  rw [State.applyFirn]
  exact foldl_keeps (fun p : State × Bool => MemOnly { s with firn := s.firn.filter fun e => !(e.step == s.stepNo) } p.1) _ _ _
    (fun p pa h => h.trans (memOnly_applyAddr ..)) (MemOnly.refl _)

/-- The contexts that hold no packet serve none. -/
theorem acceptHeld_none {c : Nat} (h : (s.ctx c).heldPackets = []) :
    s.acceptHeld c = s.modCtx c fun x => { x with heldPackets := [] } := by
  rw [State.acceptHeld, h]
  rfl

theorem acceptHeld_foldl (h : ∀ c, (s.ctx c).heldPackets = []) (l : List Nat) :
    ∃ cs, l.foldl (fun s c => s.acceptHeld c) s = { s with ctxs := cs } := by
  refine (foldl_keeps (fun t : State => (∃ cs, t = { s with ctxs := cs }) ∧ ∀ c, (t.ctx c).heldPackets = []) _ l s
    (fun t c ht => ?_) ⟨⟨s.ctxs, rfl⟩, h⟩).1
  obtain ⟨⟨cs, same⟩, held⟩ := ht
  rw [acceptHeld_none (held c)]
  refine ⟨⟨_, by rw [same]; rfl⟩, fun k => ?_⟩
  rw [State.modCtx, State.ctx_setCtx]
  split
  · rfl
  · exact held k

/-- Where no context listed holds a packet, none does. -/
theorem ctx_heldPackets (h : ∀ c ∈ s.ctxs, c.2.heldPackets = []) (c : Nat) : (s.ctx c).heldPackets = [] :=
  get_of_forall (P := fun x : Ctx => x.heldPackets = []) rfl h c

/-- What a departure sets once the contributions are applied or dropped: the next step, with nothing arrived. -/
def State.nextStep (s : State) (n out : Nat) (complete : Bool) : State :=
  { s with
    stepNo := n + 1, stepOut := out, arrived := false, arrivals := s.early, early := [], handed := false,
    aliveAt := s.tsc, decision := none, queried := false, asked := [],
    stepState := if complete then s.stepState else 2,
    saved := s.saved.map fun (v : SavedCrew) => v.stepWake n out }

/-- The paths that waited depart, FIRNFULL stops are replayed and copies of pod-shared lines go. -/
def State.leaveStep (s : State) (n out : Nat) : State := (s.stepWake n out).firnReplay.dropPod.takeRegions.dropPod

theorem depart_eq (s : State) (complete : Bool) :
    s.depart complete =
      let a : State × Bool := if complete then s.applyFirn else ({ s with firn := [] }, false)
      let out := if !complete then 2 else if a.2 then 1 else 0
      let u := (a.1.nextStep s.stepNo out complete).leaveStep s.stepNo out
      (u.ctxs.map fun x => x.1).foldl (fun s c => s.acceptHeld c) u := rfl

theorem takeRegions_none (h : s.regionsNext = none) : s.takeRegions = s := by
  rw [State.takeRegions, h]

theorem memOnly_leaveStep (h : s.regionsNext = none) (n out : Nat) : MemOnly s (s.leaveStep n out) := by
  have before := ((memOnly_stepWake s n out).trans (memOnly_firnReplay _)).trans (memOnly_dropPod _)
  have none : (s.stepWake n out).firnReplay.dropPod.regionsNext = Option.none := by
    rw [before.frame]
    exact h
  rw [State.leaveStep, takeRegions_none none]
  exact before.trans (memOnly_dropPod _)

theorem tidy_leaveStep (h : s.regionsNext = none) (n out : Nat) : Tidy s (s.leaveStep n out) := by
  have none : (s.stepWake n out).firnReplay.dropPod.regionsNext = Option.none := by
    rw [(((memOnly_stepWake s n out).trans (memOnly_firnReplay _)).trans (memOnly_dropPod _)).frame]
    exact h
  rw [State.leaveStep, takeRegions_none none]
  exact (((tidy_stepWake s n out).trans (tidy_firnReplay _)).trans (tidy_dropPod _)).trans (tidy_dropPod _)

theorem departure : Rules.Departure := by
  intro s complete next held
  dsimp only
  rw [depart_eq]
  generalize ha : (if complete then s.applyFirn else ({ s with firn := [] }, false) : State × Bool) = a
  generalize hout : (if !complete then 2 else if a.2 then 1 else 0) = out
  dsimp only
  rw [hout]
  have applied : ∃ firn, MemOnly { s with firn := firn } a.1 ∧ ∀ e ∈ firn, complete = true ∧ e ∈ s.firn ∧ e.step ≠ s.stepNo := by
    cases complete with
    | false => exact ⟨[], ha ▸ MemOnly.refl _, fun e he => nomatch he⟩
    | true =>
      refine ⟨_, by rw [← ha]; exact memOnly_applyFirn s, fun e he => ?_⟩
      obtain ⟨mem, other⟩ := List.mem_filter.1 he
      exact ⟨rfl, mem, by simpa using other⟩
  have unapplied : (complete = false ∨ s.firn = []) → ∃ firn, a.1 = { s with firn := firn } := by
    rintro (rfl | none)
    · exact ⟨[], ha ▸ rfl⟩
    · cases complete with
      | false => exact ⟨[], ha ▸ rfl⟩
      | true => exact ⟨s.firn.filter fun e => !(e.step == s.stepNo), by rw [← ha, if_pos rfl, State.applyFirn, none]; rfl⟩
  obtain ⟨firn, mem, left⟩ := applied
  have next' : (a.1.nextStep s.stepNo out complete).regionsNext = none := by
    rw [mem.frame]
    exact next
  have only := memOnly_leaveStep next' s.stepNo out
  have tidy := tidy_leaveStep next' s.stepNo out
  generalize (a.1.nextStep s.stepNo out complete).leaveStep s.stepNo out = u at only tidy ⊢
  have ctxs : u.ctxs = s.ctxs := by
    rw [only.frame, mem.frame]
    rfl
  obtain ⟨cs, same⟩ := acceptHeld_foldl (s := u) (ctx_heldPackets (by rw [ctxs]; exact held)) (u.ctxs.map fun x => x.1)
  rw [same]
  refine ⟨?_, ?_, ?_, ?_, ?_, ?_, ?_, ?_, ?_⟩
  · rw [only.frame]; rfl
  · rw [only.frame]; rfl
  · rw [only.frame, mem.frame]; rfl
  · rw [only.frame]; rfl
  · rw [only.frame]; rfl
  · rw [only.frame, mem.frame]; exact left
  · rintro rfl
    rw [only.frame]
    exact ⟨hout.symm, rfl⟩
  · rintro rfl
    rw [only.frame]
    change out = 0 ∨ out = 1
    rw [← hout]
    cases a.2
    · exact .inl rfl
    · exact .inr rfl
  · intro clean none
    obtain ⟨firn', same'⟩ := unapplied none
    rw [same'] at tidy
    exact tidy.sameMemory clean

/-- Settles O43: a message of a boundary is answered from what the device knows, a failure aborts or asks, the arrival
tree hands up or decides, and a departure enters the next step. -/
theorem podBoundaries : Obligations.PodBoundaries :=
  ⟨boundaryMessages, boundaryFailures, arrivalTree, departure⟩

end Sys2Proof.Machine
end

section
/-! SUPPORT. The instructions that read and write control registers (R400, R412), and the fences of tables (R403 to
R406, R444). -/

namespace Sys2Proof.Machine

variable {s u t : State} {r : PathRef} {i : Instr}

/-- A legal instruction of a team at kernel privilege goes on. -/
theorem legal_kernel {legal : Bool} (hl : legal = true) (hk : s.kernel r = true) (k : State) :
    s.legalIf r legal (s.privileged r k) = k := by
  rw [hl, State.legalIf_true, State.privileged_kernel _ hk]

/-- The value that `csrw` forms, by its operation. -/
theorem csrNew_eq (op : CsrOp) (old x : DWord) :
    csrNew op old x = match op with
      | .write => x
      | .set => old ||| x
      | .clear => old &&& ~~~ x := by
  cases op <;> rfl

/-- A `csrw` is legal on a listed register, and sets or clears none whose field is cleared by a write. -/
theorem csrw_legal {n : Nat} {op : CsrOp} (listed : csrListed n = true) (whole : csrWc n = true → op = .write) :
    (csrListed n && !(csrWc n && op != .write)) = true := by
  rw [listed, Bool.true_and, Bool.not_eq_true', Bool.and_eq_false_imp]
  intro wc
  rw [whole wc]
  rfl

/-- A release that goes on does so with whatever follows it. -/
theorem releaseOf {sc : Scope} (goes : ReleaseGoes s r true sc u) (k : State → State) : s.release r sc k = k u := goes k

/-- Settles O44: a listed register read and written at kernel privilege. -/
theorem registerInstructions : Obligations.RegisterInstructions := by
  intro s u r d a addr op h hk
  dsimp only
  intro listed
  have reads : exec (.csrr d addr) s = .next (if isSem addr.toNat = true
      then (s.semAsk (semTeam r) (addr.toNat - 0x4000) false 0 (some r)).waitFor r (.sem (addr.toNat - 0x4000) d)
      else if addr.toNat = 0x4069 then (((s.scanRead (s.coreOf r) (some (s.ctxOf r))).1.sset r d
        (s.scanRead (s.coreOf r) (some (s.ctxOf r))).2).advance r 2)
      else (s.sset r d (s.csrRead addr.toNat (unitOf addr.toNat (s.coreOf r)))).advance r 2) :=
    (issued_next h _).trans (congrArg _ (legal_kernel listed hk _))
  refine ⟨fun sem scan => ?_, fun wo => ?_, fun scan => ?_, fun sem => ?_, fun whole flags late goes => ?_, fun whole flags => ?_⟩
  · exact writesS_advance (by rw [reads, sem, if_neg Bool.false_ne_true, if_neg scan])
  · rw [State.csrRead, wo]
    rfl
  · rw [reads, scan]
    rfl
  · rw [reads, sem]
    rfl
  · have writes : exec (.csrw op addr a) s = .next (if isSem addr.toNat = true
        then (u.semAsk (semTeam r) (addr.toNat - 0x4000) true
          (csrNew op (u.csrRead addr.toNat (unitOf addr.toNat (u.coreOf r))) (u.sget r a)) (some r)).advance r 2
        else (u.advance r 2).csrWrite (u.writer r) addr.toNat (unitOf addr.toNat (u.coreOf r))
          (csrNew op (u.csrRead addr.toNat (unitOf addr.toNat (u.coreOf r))) (u.sget r a)).toNat) := by
      refine (issued_next h _).trans (congrArg _ ((legal_kernel (csrw_legal listed whole) hk _).trans ?_))
      rw [flags, if_neg (by decide), if_neg]
      · exact releaseOf goes _
      · simpa using late
    rw [writes, csrNew_eq]
    refine ⟨fun sem => ?_, fun sem => ?_⟩
    · rw [sem]
      rfl
    · rw [sem]
      rfl
  · refine (issued_next h _).trans (congrArg _ ((legal_kernel (csrw_legal listed whole) hk _).trans ?_))
    exact if_pos (bne_iff_ne.2 flags)

/-! ### `tlbi`, `sfence`, `frz` and `wfi` -/

/-- `tlbi` drops the entries that pass its test, and waits for the accesses on their way (R403, R444). -/
theorem tlbi_eq {f : TlbEntry → Bool} {p : TlbEntry → Prop} [DecidablePred p] (same : ∀ e, f e = decide (p e)) (ctxs : Nat → Bool) :
    let w : State := { s with tlb := s.tlb.filter fun e => decide (¬ p e) }
    s.tlbi r ctxs f = if w.onWay ctxs = true then w.waitFor r .room
      else ((w.bindIf fun p _ => ctxs (w.ctxOf p.r)).drainIf fun g : Flight => ctxs g.ctx).advance r 1 := by
  have dropped : s.tlbDrop f = { s with tlb := s.tlb.filter fun e => decide (¬ p e) } := by
    rw [State.tlbDrop]
    simp only [same, decide_not]
  rw [State.tlbi, dropped]

/-- The two outcomes of `tlbi`, of an instruction that makes it. -/
theorem tlbi_cases {f : TlbEntry → Bool} {p : TlbEntry → Prop} [DecidablePred p] {ctxs : Nat → Bool}
    (e : exec i s = .next (s.tlbi r ctxs f)) (same : ∀ e, f e = decide (p e)) :
    let w : State := { s with tlb := s.tlb.filter fun e => decide (¬ p e) }
    (w.onWay ctxs = true → exec i s = .next (w.waitFor r .room)) ∧
    (w.onWay ctxs = false → exec i s =
      .next (((w.bindIf fun p _ => ctxs (w.ctxOf p.r)).drainIf fun (g : Flight) => ctxs g.ctx).advance r 1)) := by
  rw [e, tlbi_eq same]
  exact ⟨fun on => congrArg _ (if_pos on), fun on => congrArg _ (if_neg (by rw [on]; exact Bool.false_ne_true))⟩

/-- What follows at kernel privilege. -/
theorem kernel_next {f : PathRef → State} (h : Issuing s r) (e : exec i s = issued s f) {k : State} (hf : f r = s.privileged r k)
    (hk : s.kernel r = true) : exec i s = .next k := by
  rw [e, issued_next h, hf, State.privileged_kernel _ hk]

theorem Path.advance_with_pend0 (p : Path) (b : Bool) (n : Nat) : Path.advance { p with pend0 := b } n = { p.advance n with pend0 := b } := by
  rw [Path.advance, Path.advance]
  cases p.mac <;> rfl

theorem Path.advance_with_pend2 (p : Path) (b : Bool) (n : Nat) : Path.advance { p with pend2 := b } n = { p.advance n with pend2 := b } := by
  rw [Path.advance, Path.advance]
  cases p.mac <;> rfl

/-- Settles O45: the fences of the translation tables, a freeze from within, and sleep. -/
theorem fencesOfTables : Obligations.FencesOfTables := by
  intro s r d a h hk
  dsimp only
  refine ⟨?_, ?_, ?_, fun stores reqs out => ?_, fun busy => ?_, fun valid => ⟨fun own => ?_, fun other => ?_, ?_⟩,
    fun invalid => ?_, fun p0 => ?_, fun p0 p2 => ?_, fun p0 p2 => ?_, fun q t e wait run => ?_⟩
  · refine tlbi_cases (kernel_next h rfl rfl hk) fun e => ?_
    rw [Bool.decide_and, Bool.decide_and, Bool.and_assoc]
    rfl
  · exact tlbi_cases (kernel_next h rfl rfl hk) fun e => rfl
  · exact tlbi_cases (kernel_next h rfl rfl hk) fun e => Bool.decide_eq_true.symm
  · refine (kernel_next h rfl rfl hk).trans (congrArg _ (if_neg ?_))
    simp only [Bool.or_eq_true, List.any_eq_true, Bool.and_eq_true, out, Bool.false_eq_true, or_false, not_or, not_exists, not_and,
      beq_iff_eq, Bool.not_eq_true', Bool.not_eq_true, Bool.not_eq_false]
    exact ⟨stores, reqs⟩
  · refine (kernel_next h rfl rfl hk).trans (congrArg _ (if_pos ?_))
    simp only [Bool.or_eq_true, List.any_eq_true, Bool.and_eq_true, beq_iff_eq, Bool.not_eq_true']
    exact (or_assoc).2 busy
  · refine (kernel_next h rfl rfl hk).trans (congrArg _ ?_)
    rw [if_pos (by rw [ctxNum, own, beq_self_eq_true, Bool.true_and, ← own]; exact valid), State.frzRequest, ctxNum, if_pos valid]
  · refine (kernel_next h rfl rfl hk).trans (congrArg _ ?_)
    rw [if_neg (by rw [ctxNum, beq_false_of_ne other, Bool.false_and]; exact Bool.false_ne_true), State.frzRequest, ctxNum, if_pos valid]
  · refine (kernel_next h rfl rfl hk).trans (congrArg _ ?_)
    rw [State.frzRequest, ctxNum, if_pos valid]
  · refine (kernel_next h rfl rfl hk).trans (congrArg _ ?_)
    rw [if_neg (by rw [ctxNum, invalid, Bool.and_false]; exact Bool.false_ne_true), State.frzRequest, ctxNum,
      if_neg (by rw [invalid]; exact Bool.false_ne_true)]
    rfl
  · rw [← Path.advance_with_pend0]
    exact writesSTo_endWait (v := 0) (f := fun p => { p with pend0 := false })
      ((kernel_next h rfl rfl hk).trans (congrArg _ (if_pos p0)))
  · rw [← Path.advance_with_pend2]
    refine writesSTo_endWait (v := 2) (f := fun p => { p with pend2 := false })
      ((kernel_next h rfl rfl hk).trans (congrArg _ ((if_neg ?_).trans (if_pos p2))))
    rw [p0]
    exact Bool.false_ne_true
  · refine moves_modPath (f := fun p => { p with wait := .wfi (if s.sget r a = 0 then none else some (s.tsc + (s.sget r a).toNat)) d })
      ((kernel_next h rfl rfl hk).trans (congrArg _ ((if_neg ?_).trans (if_neg ?_))))
    · rw [p0]
      exact Bool.false_ne_true
    · rw [p2]
      exact Bool.false_ne_true
  · change execWfiTimeout q s = _
    rw [execWfiTimeout, wait]
    exact if_pos run

end Sys2Proof.Machine
end

section
/-! SUPPORT. Writes of control registers from outside (R399, R400, R54, R55, R413), and the circuit and quiesce registers
of the routing die (R466, R467). -/

namespace Sys2Proof.Machine

variable {s u t : State} {r : PathRef} {i : Instr}

/-! ### A write reaches its register's row -/

/-- Of a device that runs, a write to a listed register of a unit that exists goes to the register's row. -/
theorem csrWrite_row {w : Writer} {addr unit val : Nat} {x : State}
    (row : s.csrWrite w addr unit val = if s.boot ≠ 2 && (s.boot ≠ 3 || addr ≠ 0x40A9) then s
      else if !csrListed addr || decide (unitsIn addr ≤ unit) then s.refused w addr val else x)
    (boot : s.boot = 2) (listed : csrListed addr = true) (exists' : unit < unitsIn addr) : s.csrWrite w addr unit val = x := by
  rw [row, boot, listed, decide_eq_false (Nat.not_le.2 exists')]
  rfl

/-- A write to no listed register, or to a unit that does not exist, is logged (R399). -/
theorem csrWrite_unlisted {w : Writer} {addr unit val : Nat} (boot : s.boot = 2) (none : csrListed addr = false ∨ unitsIn addr ≤ unit) :
    s.csrWrite w addr unit val = s.logRefused w.src w.ctx addr val := by
  unfold State.csrWrite
  rw [if_neg (by rw [boot]; exact Bool.false_ne_true), if_pos]
  · rfl
  · rcases none with no | no
    · rw [no]
      rfl
    · rw [decide_eq_true no, Bool.or_true]

/-- Before the device runs nothing is written but RECCTL, in recovery (R484, R485). -/
theorem csrWrite_early {w : Writer} {addr unit val : Nat} (early : s.boot ≠ 2) (rec : s.boot = 3 → addr ≠ 0x40A9) :
    s.csrWrite w addr unit val = s := by
  unfold State.csrWrite
  rw [if_pos]
  simp only [ne_eq, early, not_false_eq_true, decide_true, Bool.true_and, Bool.or_eq_true, decide_eq_true_eq]
  exact Decidable.or_iff_not_imp_left.2 fun h => rec (not_not.1 h)

/-- The number of a pool boundary register of a core. -/
def poolIndex : PoolReg → Nat
  | .regtop => 0
  | .sptop => 1
  | .cachetop => 2

theorem poolBoundary_row (boot : s.boot = 2) {core : Nat} (hc : core < 576) (reg : PoolReg) (v : DWord) :
    exec (.poolBoundaryWrite core reg v) s = .next (s.poolWrite ⟨586, none⟩ core (poolIndex reg) v.toNat) := by
  cases reg
  · exact congrArg _ (csrWrite_row rfl boot rfl hc)
  · exact congrArg _ (csrWrite_row rfl boot rfl hc)
  · exact congrArg _ (csrWrite_row rfl boot rfl hc)

theorem poolWrite_kept {w : Writer} {core i val : Nat} (h : ¬ (val / 2 ^ 14 % 2 ^ 7 ≤ 64 ∧
      (if 0 = i then val / 2 ^ 14 % 2 ^ 7 else s.top core 0) ≤ (if 1 = i then val / 2 ^ 14 % 2 ^ 7 else s.top core 1) ∧
      (if 1 = i then val / 2 ^ 14 % 2 ^ 7 else s.top core 1) ≤ (if 2 = i then val / 2 ^ 14 % 2 ^ 7 else s.top core 2) ∧
      s.crewsOn core = [])) :
    s.poolWrite w core i val = s.logRefused w.src w.ctx (0x1000 + i) val := by
  refine if_pos ?_
  simp only [← Nat.not_le, Bool.not_eq_true', List.isEmpty_eq_false_iff] at h ⊢
  by_contra no
  simp only [not_or, not_not, ne_eq] at no
  exact h no

theorem poolWrite_taken {w : Writer} {core i val : Nat} (h : val / 2 ^ 14 % 2 ^ 7 ≤ 64 ∧
      (if 0 = i then val / 2 ^ 14 % 2 ^ 7 else s.top core 0) ≤ (if 1 = i then val / 2 ^ 14 % 2 ^ 7 else s.top core 1) ∧
      (if 1 = i then val / 2 ^ 14 % 2 ^ 7 else s.top core 1) ≤ (if 2 = i then val / 2 ^ 14 % 2 ^ 7 else s.top core 2) ∧
      s.crewsOn core = []) :
    s.poolWrite w core i val = ((s.flushHome core fun _ => true).dropCopies core fun _ => true).csrPut (0x1000 + i) core
      (BitVec.ofNat 64 (val / 2 ^ 14 % 2 ^ 7 * 2 ^ 14)) := by
  refine if_neg ?_
  simp only [← Nat.not_le, Bool.not_eq_true', List.isEmpty_eq_false_iff]
  simp only [not_or, not_not, ne_eq]
  exact h

theorem partWrite_row (boot : s.boot = 2) {n : Nat} (hn : n < 6) (v : DWord) :
    exec (.partWrite n v) s = .next (s.partWrite ⟨586, none⟩ n v.toNat) := by
  refine (congrArg Host.Outcome.next (?_ : s.csrWrite ⟨586, none⟩ (0x4030 + n) 0 v.toNat = _)) ▸ if_pos hn
  match n, hn with
  | 0, _ => exact csrWrite_row rfl boot rfl (by decide)
  | 1, _ => exact csrWrite_row rfl boot rfl (by decide)
  | 2, _ => exact csrWrite_row rfl boot rfl (by decide)
  | 3, _ => exact csrWrite_row rfl boot rfl (by decide)
  | 4, _ => exact csrWrite_row rfl boot rfl (by decide)
  | 5, _ => exact csrWrite_row rfl boot rfl (by decide)

theorem doorbell_row (boot : s.boot = 2) (die : Bool) : exec (.doorbell die) s = .next (s.doorbell die) := by
  have same : decide (die.toNat = 1) = die := by cases die <;> rfl
  have row : s.csrWrite port0 0x3000 die.toNat 1 = s.doorbell (decide (die.toNat = 1)) :=
    csrWrite_row rfl boot rfl (Bool.toNat_lt die)
  rw [same] at row
  exact congrArg Host.Outcome.next row

theorem hflush_row (boot : s.boot = 2) (port : Bool) (tok : Word) : exec (.hflush port tok) s = .next (s.hflush port tok.toNat) := by
  cases port
  · exact congrArg Host.Outcome.next (csrWrite_row (w := writerOf 0) (addr := 0x4040) rfl boot rfl (by decide))
  · exact congrArg Host.Outcome.next (csrWrite_row (w := writerOf 1) (addr := 0x4042) rfl boot rfl (by decide))

theorem fmode_row (boot : s.boot = 2) (strict : Bool) :
    let t := if s.csrGet 0x4083 0 = 0 then s.csrPut 0x4085 0 (BitVec.ofNat 64 strict.toNat) else s.logRefused 586 none 0x4085 strict.toNat
    exec (.fmode strict) s = .next (if t.strict then { t with slew := 0, locked := false } else t) := by
  have put : s.putIf port0 0x4085 0 strict.toNat (s.csrGet 0x4083 0 == 0) (strict.toNat % 2) =
      if s.csrGet 0x4083 0 = 0 then s.csrPut 0x4085 0 (BitVec.ofNat 64 strict.toNat) else s.logRefused 586 none 0x4085 strict.toNat := by
    rw [State.putIf, Nat.mod_eq_of_lt (Bool.toNat_lt strict)]
    simp only [beq_iff_eq]
    rfl
  dsimp only
  rw [← put]
  exact congrArg Host.Outcome.next (csrWrite_row rfl boot rfl (by decide))

theorem registerWrites : Rules.RegisterWrites := by
  intro s v boot
  dsimp only
  refine ⟨fun src addr unit sem => ?_, fun w addr unit val none => csrWrite_unlisted boot none, fun reg core hc => ?_, fun n hn => ?_,
    fun die => ⟨?_, rfl⟩, fun port tok => ?_, fun strict => ?_, fun b w addr unit val early rec => csrWrite_early early rec, fun rank => rfl, rfl, rfl⟩
  · change execControlRegisterWrite src addr unit v s = _
    rw [execControlRegisterWrite, sem, writerOf]
    rfl
  · have row := poolBoundary_row boot hc reg v
    cases reg
    · exact ⟨fun no => row.trans (congrArg _ (poolWrite_kept no)), fun ok => row.trans (congrArg _ (poolWrite_taken ok))⟩
    · exact ⟨fun no => row.trans (congrArg _ (poolWrite_kept no)), fun ok => row.trans (congrArg _ (poolWrite_taken ok))⟩
    · exact ⟨fun no => row.trans (congrArg _ (poolWrite_kept no)), fun ok => row.trans (congrArg _ (poolWrite_taken ok))⟩
  · rw [partWrite_row boot hn, State.partWrite, State.putIf]
    split <;> rfl
  · exact doorbell_row boot die
  · rw [hflush_row boot, State.hflush, Nat.mod_eq_of_lt tok.isLt]
  · exact fmode_row boot strict

/-! ### Packets that go to another port (R467) -/

/-- Nothing changed but through which ports the packets that wait for an answer go, and what was sent. -/
structure Rerouted (s t : State) : Prop where
  frame : t = { s with reqs := t.reqs, podOut := t.podOut, out := t.out }
  reqs : t.reqs.map (fun q => (q.serial, q.packet)) = s.reqs.map fun q => (q.serial, q.packet)
  posts : t.podOut.map (fun q => q.p) = s.podOut.map fun q => q.p

theorem Rerouted.refl (s : State) : Rerouted s s := ⟨rfl, rfl, rfl⟩

theorem Rerouted.trans (h : Rerouted s t) (h' : Rerouted t u) : Rerouted s u := by
  refine ⟨?_, h'.reqs.trans h.reqs, h'.posts.trans h.posts⟩
  rw [h'.frame, h.frame]

theorem Rerouted.basis (h : Rerouted s t) : t.basis = s.basis := by
  rw [h.frame]
  rfl

theorem Rerouted.ports (h : Rerouted s t) : t.ports = s.ports := by
  rw [h.frame]
  rfl

/-- The request of a serial number is sent through a port. -/
def State.sendReq (s : State) (n : Nat) (port : Option Nat) (p : Packet) : State :=
  ({ s with reqs := s.reqs.map fun x => if x.serial = n then { x with port := port } else x } : State).emit port p

/-- The message of a serial number is sent through a port. -/
def State.sendPost (s : State) (n : Nat) (port : Option Nat) (p : Packet) : State :=
  ({ s with podOut := s.podOut.map fun x => if x.p.serial = n then { x with port := port } else x } : State).emit port p

theorem rerouted_sendReq (s : State) (n : Nat) (port : Option Nat) (p : Packet) : Rerouted s (s.sendReq n port p) := by
  refine ⟨rfl, ?_, rfl⟩
  simp only [State.sendReq, State.emit, List.map_map]
  refine List.map_congr_left fun x _ => ?_
  rw [Function.comp_apply]
  split <;> rfl

theorem rerouted_sendPost (s : State) (n : Nat) (port : Option Nat) (p : Packet) : Rerouted s (s.sendPost n port p) := by
  refine ⟨rfl, rfl, ?_⟩
  simp only [State.sendPost, State.emit, List.map_map]
  refine List.map_congr_left fun x _ => ?_
  rw [Function.comp_apply]
  split <;> rfl

/-- A port, where there is one, is none of those that go away. -/
def Stays (gone : Word) (port : Option Nat) : Prop := ∀ k, port = some k → gone.getLsbD k = false

theorem stays_of_any {gone : Word} {port : Option Nat} (h : (port.any fun q => gone.getLsbD q) = false) : Stays gone port := by
  rintro k rfl
  exact h

/-- A packet's next port is one of those that take it. -/
theorem spine_stays {gone : Word} (free : ∀ k ∈ s.ports, gone.getLsbD k = false) (serial resends : Nat) (last : Option Nat) :
    Stays gone (s.spine serial resends last) := by
  intro k hk
  rw [State.spine] at hk
  have mem := List.mem_of_getElem? hk
  refine free k ?_
  split at mem
  · exact mem
  · exact (List.mem_filter.1 mem).1

theorem sendReq_stays {gone : Word} {n : Nat} {port : Option Nat} {p : Packet} (hp : Stays gone port) {x : Req}
    (hx : x ∈ (s.sendReq n port p).reqs) : Stays gone x.port ∨ (x ∈ s.reqs ∧ x.serial ≠ n) := by
  obtain ⟨y, hy, e⟩ := List.mem_map.1 hx
  split at e
  next => exact .inl (e ▸ hp)
  next other => exact .inr (e ▸ ⟨hy, other⟩)

theorem sendPost_stays {gone : Word} {n : Nat} {port : Option Nat} {p : Packet} (hp : Stays gone port) {x : PodSent}
    (hx : x ∈ (s.sendPost n port p).podOut) : Stays gone x.port ∨ (x ∈ s.podOut ∧ x.p.serial ≠ n) := by
  obtain ⟨y, hy, e⟩ := List.mem_map.1 hx
  split at e
  next => exact .inl (e ▸ hp)
  next other => exact .inr (e ▸ ⟨hy, other⟩)

/-- No packet that waits for an answer goes through a port that goes away. -/
structure AllStay (gone : Word) (s : State) : Prop where
  reqs : ∀ q ∈ s.reqs, q.ended = false → Stays gone q.port
  posts : ∀ q ∈ s.podOut, Stays gone q.port

theorem AllStay.sendReq {gone : Word} (h : AllStay gone s) (free : ∀ k ∈ s.ports, gone.getLsbD k = false) (n serial resends : Nat)
    (last : Option Nat) (p : Packet) : AllStay gone (s.sendReq n (s.spine serial resends last) p) :=
  ⟨fun _ hx busy => (sendReq_stays (spine_stays free _ _ _) hx).elim id fun old => h.reqs _ old.1 busy, h.posts⟩

theorem AllStay.sendPost {gone : Word} (h : AllStay gone s) (free : ∀ k ∈ s.ports, gone.getLsbD k = false) (n serial resends : Nat)
    (last : Option Nat) (p : Packet) : AllStay gone (s.sendPost n (s.spine serial resends last) p) :=
  ⟨h.reqs, fun _ hx => (sendPost_stays (spine_stays free _ _ _) hx).elim id fun old => h.posts _ old.1⟩

/-- A request whose port goes away is sent through another. -/
def State.moveReq (gone : Word) (s : State) (q : Req) : State :=
  if q.ended || !(q.port.any fun k => gone.getLsbD k) then s
  else s.sendReq q.serial (s.spine q.serial (q.resends + 1) q.port) q.packet

/-- A message whose port goes away is sent through another. -/
def State.movePost (gone : Word) (s : State) (q : PodSent) : State :=
  if !(q.port.any fun k => gone.getLsbD k) then s
  else s.sendPost q.p.serial (s.spine q.p.serial (q.resends + 1) q.port) q.p

theorem movePorts_eq (s : State) (gone : Word) : s.movePorts gone =
    (s.reqs.foldl (State.moveReq gone) s).podOut.foldl (State.movePost gone) (s.reqs.foldl (State.moveReq gone) s) := rfl

theorem rerouted_moveReq (gone : Word) (s : State) (q : Req) : Rerouted s (s.moveReq gone q) := by
  rw [State.moveReq]
  split
  · exact Rerouted.refl s
  · exact rerouted_sendReq ..

theorem rerouted_movePost (gone : Word) (s : State) (q : PodSent) : Rerouted s (s.movePost gone q) := by
  rw [State.movePost]
  split
  · exact Rerouted.refl s
  · exact rerouted_sendPost ..

theorem rerouted_foldl {α : Type} {f : State → α → State} (h : ∀ s a, Rerouted s (f s a)) (l : List α) : Rerouted s (l.foldl f s) :=
  foldl_keeps (Rerouted s) f l s (fun t a ht => ht.trans (h t a)) (Rerouted.refl s)

/-- Requests still to be looked at may go through a port that goes away; with all of them moved none does. -/
theorem moveReq_foldl {gone : Word} (l : List Req) (free : ∀ k ∈ s.ports, gone.getLsbD k = false)
    (h : ∀ x ∈ s.reqs, x.ended = false → Stays gone x.port ∨ x ∈ l) :
    ∀ x ∈ (l.foldl (State.moveReq gone) s).reqs, x.ended = false → Stays gone x.port := by
  induction l generalizing s with
  | nil => exact fun x hx busy => (h x hx busy).resolve_right (List.not_mem_nil)
  | cons q l ih =>
    refine ih (by rw [(rerouted_moveReq gone s q).ports]; exact free) fun x hx busy => ?_
    rw [State.moveReq] at hx
    split at hx
    next stays =>
      refine (h x hx busy).elim .inl fun mem => ?_
      rcases List.mem_cons.1 mem with rfl | mem
      · rw [busy, Bool.false_or, Bool.not_eq_true'] at stays
        exact .inl (stays_of_any stays)
      · exact .inr mem
    next =>
      refine (sendReq_stays (spine_stays free _ _ _) hx).elim .inl fun ⟨old, other⟩ => (h x old busy).elim .inl fun mem => ?_
      exact .inr ((List.mem_cons.1 mem).resolve_left fun e => other (e ▸ rfl))

theorem movePost_foldl {gone : Word} (l : List PodSent) (free : ∀ k ∈ s.ports, gone.getLsbD k = false)
    (h : ∀ x ∈ s.podOut, Stays gone x.port ∨ x ∈ l) :
    ∀ x ∈ (l.foldl (State.movePost gone) s).podOut, Stays gone x.port := by
  induction l generalizing s with
  | nil => exact fun x hx => (h x hx).resolve_right (List.not_mem_nil)
  | cons q l ih =>
    refine ih (by rw [(rerouted_movePost gone s q).ports]; exact free) fun x hx => ?_
    rw [State.movePost] at hx
    split at hx
    next stays =>
      refine (h x hx).elim .inl fun mem => ?_
      rcases List.mem_cons.1 mem with rfl | mem
      · exact .inl (stays_of_any (Bool.not_eq_true' _ ▸ stays))
      · exact .inr mem
    next =>
      refine (sendPost_stays (spine_stays free _ _ _) hx).elim .inl fun ⟨old, other⟩ => (h x old).elim .inl fun mem => ?_
      exact .inr ((List.mem_cons.1 mem).resolve_left fun e => other (e ▸ rfl))

theorem movePost_reqs (gone : Word) (s : State) (q : PodSent) : (s.movePost gone q).reqs = s.reqs := by
  rw [State.movePost]
  split <;> rfl

theorem rerouted_movePorts (s : State) (gone : Word) : Rerouted s (s.movePorts gone) := by
  rw [movePorts_eq]
  exact (rerouted_foldl (rerouted_moveReq gone) _).trans (rerouted_foldl (rerouted_movePost gone) _)

theorem allStay_movePorts {gone : Word} (free : ∀ k ∈ s.ports, gone.getLsbD k = false) : AllStay gone (s.movePorts gone) := by
  rw [movePorts_eq]
  have moved := moveReq_foldl s.reqs free fun x hx _ => .inr hx
  have ports := (rerouted_foldl (s := s) (rerouted_moveReq gone) s.reqs).ports
  generalize s.reqs.foldl (State.moveReq gone) s = t at moved ports ⊢
  refine ⟨?_, movePost_foldl _ (by rw [ports]; exact free) fun x hx => .inr hx⟩
  rw [foldl_same State.reqs _ _ _ fun s q => movePost_reqs gone s q]
  exact moved

/-- What waited for a port is sent: a packet goes through a port that takes it. -/
def State.sendLate (s : State) (q : Req) : State :=
  if q.ended || q.port.isSome || q.packet.dst == s.rank then s else s.sendReq q.serial (s.spine q.serial q.resends none) q.packet

def State.postLate (s : State) (q : PodSent) : State :=
  if q.port.isSome then s else s.sendPost q.p.serial (s.spine q.p.serial q.resends none) q.p

theorem sendWaiting_eq (s : State) : s.sendWaiting = if s.ports.isEmpty then s else
    (s.reqs.foldl State.sendLate s).podOut.foldl State.postLate (s.reqs.foldl State.sendLate s) := rfl

/-- Sending what waited changes no port of another packet to one that goes away. -/
theorem sendWaiting_keeps (s : State) (gone : Word) :
    Rerouted s s.sendWaiting ∧ ((∀ k ∈ s.ports, gone.getLsbD k = false) → AllStay gone s → AllStay gone s.sendWaiting) := by
  have late : ∀ t : State, ∀ q, Rerouted t (t.sendLate q) ∧
      ((∀ k ∈ t.ports, gone.getLsbD k = false) → AllStay gone t → AllStay gone (t.sendLate q)) := fun t q => by
    rw [State.sendLate]
    split
    · exact ⟨Rerouted.refl t, fun _ h => h⟩
    · exact ⟨rerouted_sendReq .., fun free h => h.sendReq free ..⟩
  have post : ∀ t : State, ∀ q, Rerouted t (t.postLate q) ∧
      ((∀ k ∈ t.ports, gone.getLsbD k = false) → AllStay gone t → AllStay gone (t.postLate q)) := fun t q => by
    rw [State.postLate]
    split
    · exact ⟨Rerouted.refl t, fun _ h => h⟩
    · exact ⟨rerouted_sendPost .., fun free h => h.sendPost free ..⟩
  have both : ∀ {α : Type} (f : State → α → State), (∀ t q, Rerouted t (f t q) ∧
      ((∀ k ∈ t.ports, gone.getLsbD k = false) → AllStay gone t → AllStay gone (f t q))) → ∀ (l : List α) (t : State),
      Rerouted t (l.foldl f t) ∧ ((∀ k ∈ t.ports, gone.getLsbD k = false) → AllStay gone t → AllStay gone (l.foldl f t)) :=
    fun f h l t => by
      refine foldl_keeps (fun u => Rerouted t u ∧ ((∀ k ∈ t.ports, gone.getLsbD k = false) → AllStay gone t → AllStay gone u)) f l t
        (fun u a ⟨hu, keeps⟩ => ⟨hu.trans (h u a).1, fun free stay => (h u a).2 (by rw [hu.ports]; exact free) (keeps free stay)⟩)
        ⟨Rerouted.refl t, fun _ h => h⟩
  rw [sendWaiting_eq]
  split
  · exact ⟨Rerouted.refl s, fun _ h => h⟩
  · have first := both State.sendLate late s.reqs s
    have second := both State.postLate post (s.reqs.foldl State.sendLate s).podOut (s.reqs.foldl State.sendLate s)
    exact ⟨first.1.trans second.1, fun free stay => second.2 (by rw [first.1.ports]; exact free) (first.2 free stay)⟩

/-! ### DQ and PQ -/

/-- Paying what is owed changes memory alone, and nothing is owed any more once traffic crosses (R466). -/
theorem payOwed_keeps (s : State) : (∃ o, MemOnly { s with owed := o } s.payOwed) ∧ (s.crossStop = false → s.payOwed.owed = []) := by
  rw [State.payOwed]
  split
  next stop => exact ⟨⟨s.owed, MemOnly.refl s⟩, fun go => absurd (stop.symm.trans go) Bool.noConfusion⟩
  next go =>
    have paid := memOnly_foldl (s := { s with owed := [] }) (fun s u => memOnly_writeBack s (fun _ => true) u) s.owed
    exact ⟨⟨[], paid⟩, fun go => paid.paid go⟩

theorem payOwed_none (none : s.owed = []) : s.payOwed.basis = s.basis := by
  rw [State.payOwed, none]
  split <;> rfl

/-- What DQ leaves: it is set or clear, with what that quiesces (R466). -/
theorem setDq_keeps (s : State) (b : Bool) :
    (s.setDq b).dq = b ∧ (s.setDq b).pqd = s.pqd ∧ (s.setDq b).reqs = s.reqs ∧ (s.setDq b).podOut = s.podOut ∧
      (s.owed = [] → (s.setDq b).basis = s.basis) := by
  rw [State.setDq]
  cases b with
  | true =>
    rw [if_pos rfl]
    split
    next set => exact ⟨set, rfl, rfl, rfl, fun _ => rfl⟩
    next => exact ⟨rfl, rfl, rfl, rfl, fun _ => rfl⟩
  | false =>
    rw [if_neg Bool.false_ne_true]
    obtain ⟨⟨o, mem⟩, -⟩ := payOwed_keeps { s with dq := false, dqd := false }
    refine ⟨?_, ?_, ?_, ?_, fun none => payOwed_none (s := { s with dq := false, dqd := false }) none⟩
    · rw [mem.frame]
    · rw [mem.frame]
    · rw [mem.frame]
    · rw [mem.frame]

/-- PRDCTL stored, before the packets are moved. -/
def State.prdStored (s : State) (val : Nat) : State :=
  let u := (s.setDq (val.testBit 0)).csrPut 0x4081 0 (BitVec.ofNat 64 ((BitVec.ofNat 32 (val / 2 ^ 32)).toNat * 2 ^ 32 + val % 2))
  { u with pqd := u.pqd &&& BitVec.ofNat 32 (val / 2 ^ 32) }

/-- The field PQ of PRDCTL. -/
def State.pq (s : State) : Word := (s.csrGet 0x4081 0).extractLsb' 32 32

theorem prdWrite_eq (s : State) (val : Nat) :
    s.prdWrite val = ((s.prdStored val).movePorts (BitVec.ofNat 32 (val / 2 ^ 32) &&& ~~~ s.pq)).sendWaiting := rfl

/-- The upper half of a register whose lower half is a bit. -/
theorem extractUpper (x : Word) (b : Nat) : (BitVec.ofNat 64 (x.toNat * 2 ^ 32 + b % 2)).extractLsb' 32 32 = x := by
  apply BitVec.eq_of_toNat_eq
  rw [BitVec.extractLsb'_toNat, BitVec.toNat_ofNat, Nat.shiftRight_eq_div_pow]
  have := x.isLt
  omega

theorem csrGet_with_pqd (s : State) (x : Word) (a u : Nat) : ({ s with pqd := x } : State).csrGet a u = s.csrGet a u := rfl
theorem basis_with_pqd (s : State) (x : Word) : ({ s with pqd := x } : State).basis = s.basis := rfl
theorem csrPut_basis (s : State) (a u : Nat) (v : DWord) : (s.csrPut a u v).basis = s.basis := rfl

theorem prdStored_pq (s : State) (val : Nat) : (s.prdStored val).pq = BitVec.ofNat 32 (val / 2 ^ 32) := by
  rw [State.pq, State.prdStored, csrGet_with_pqd, State.csrGet_csrPut_same, extractUpper]

theorem Rerouted.dq (h : Rerouted s t) : t.dq = s.dq := by rw [h.frame]
theorem Rerouted.pqd (h : Rerouted s t) : t.pqd = s.pqd := by rw [h.frame]

theorem Rerouted.pq (h : Rerouted s t) : t.pq = s.pq := by
  rw [h.frame]
  rfl

/-- No port that is asked to drain takes a packet (R467). -/
theorem ports_pq {k : Nat} (h : k ∈ s.ports) : s.pq.getLsbD k = false := by
  simp only [State.ports, List.mem_filter, List.mem_range, Bool.and_eq_true, Bool.not_eq_true'] at h
  rw [State.pq, BitVec.getLsbD_extractLsb', h.2.2, Bool.and_false]

/-- A write of PRDCTL: the register, then packets rerouted, none of them through a port that starts to drain. -/
theorem prdWrite_keeps (s : State) (val : Nat) :
    Rerouted (s.prdStored val) (s.prdWrite val) ∧ AllStay (BitVec.ofNat 32 (val / 2 ^ 32) &&& ~~~ s.pq) (s.prdWrite val) := by
  have free : ∀ k ∈ (s.prdStored val).ports, (BitVec.ofNat 32 (val / 2 ^ 32) &&& ~~~ s.pq).getLsbD k = false := fun k hk => by
    rw [BitVec.getLsbD_and, ← prdStored_pq s val, ports_pq hk, Bool.false_and]
  rw [prdWrite_eq]
  have moved := rerouted_movePorts (s.prdStored val) (BitVec.ofNat 32 (val / 2 ^ 32) &&& ~~~ s.pq)
  have sent := sendWaiting_keeps ((s.prdStored val).movePorts (BitVec.ofNat 32 (val / 2 ^ 32) &&& ~~~ s.pq))
    (BitVec.ofNat 32 (val / 2 ^ 32) &&& ~~~ s.pq)
  exact ⟨moved.trans sent.1, sent.2 (by rw [moved.ports]; exact free) (allStay_movePorts free)⟩

theorem prdStored_basis (s : State) (val : Nat) : (s.prdStored val).basis = (s.setDq (val.testBit 0)).basis := by
  rw [State.prdStored, basis_with_pqd, csrPut_basis]

theorem prdWrite_basis (none : s.owed = []) (val : Nat) : (s.prdWrite val).basis = s.basis :=
  ((prdWrite_keeps s val).1.basis.trans (prdStored_basis ..)).trans ((setDq_keeps s (val.testBit 0)).2.2.2.2 none)

theorem prd_row (boot : s.boot = 2) (val : Nat) : s.csrWrite port0 0x4081 0 val = s.prdWrite val :=
  csrWrite_row rfl boot rfl (by decide)

theorem testBit_dq (n : Nat) (b : Bool) : (n / 2 * 2 + b.toNat).testBit 0 = b := by
  rw [Nat.testBit_zero]
  cases b <;> simp

theorem d2dconn_row (boot : s.boot = 2) (v : DWord) : exec (.d2dconn v) s = .next (s.d2dWrite port0 v.toNat) :=
  congrArg Host.Outcome.next (csrWrite_row rfl boot rfl (by decide))

theorem porten_row (boot : s.boot = 2) (mask : Word) : exec (.porten mask) s = .next (s.portenWrite port0 mask.toNat) :=
  congrArg Host.Outcome.next (csrWrite_row rfl boot rfl (by decide))

theorem frame_csrPut (w : State) (x : DWord) (y : Word) :
    ({ w.csrPut 0x4081 0 x with pqd := (w.csrPut 0x4081 0 x).pqd &&& y } : State) =
      { w with csr := (w.csrPut 0x4081 0 x).csr, pqd := w.pqd &&& y } := rfl

/-- What PRDCTL stored changes beside DQ. -/
theorem prdStored_frame (s : State) (val : Nat) : ∃ c, s.prdStored val =
    { s.setDq (val.testBit 0) with csr := c, pqd := s.pqd &&& BitVec.ofNat 32 (val / 2 ^ 32) } := by
  rw [← (setDq_keeps s (val.testBit 0)).2.1]
  exact ⟨_, frame_csrPut ..⟩

/-- What is left of a write of DQ (R466). -/
theorem dqWrite_keeps (boot : s.boot = 2) (b : Bool) :
    ∃ c y, Rerouted { s.setDq b with csr := c, pqd := y } (s.dqWrite b) := by
  obtain ⟨c, stored⟩ := prdStored_frame s ((s.csrGet 0x4081 0).toNat / 2 * 2 + b.toNat)
  have kept := (prdWrite_keeps s ((s.csrGet 0x4081 0).toNat / 2 * 2 + b.toNat)).1
  rw [stored, testBit_dq] at kept
  rw [State.dqWrite, prd_row boot]
  exact ⟨_, _, kept⟩

/-- DQ set: it takes the serial number from which operations wait, where it was not set before (R466). -/
theorem dqSet (boot : s.boot = 2) : ∃ t, exec .dqSet s = .next t ∧ t.dq = true ∧ (s.dq = false → t.dqSer = s.nextSer) ∧
    t.dqd = s.dqd ∧ SameMemory s t := by
  obtain ⟨c, y, kept⟩ := dqWrite_keeps boot true
  refine ⟨_, rfl, ?_, fun off => ?_, ?_, memByte_of_basis (kept.basis.trans ?_)⟩
  · rw [kept.frame]
    exact (setDq_keeps s true).1
  · rw [kept.frame, State.setDq, if_pos rfl, off]
    rfl
  · rw [kept.frame, State.setDq, if_pos rfl]
    split <;> rfl
  · rw [State.setDq, if_pos rfl]
    split <;> rfl

/-- DQ cleared: what was owed is written back once both clocks run (R466). -/
theorem dqClear (boot : s.boot = 2) : ∃ t, exec .dqClear s = .next t ∧ t.dq = false ∧ t.dqd = false ∧
    (s.stopped false = false → s.stopped true = false → t.owed = []) ∧ (s.owed = [] → SameMemory s t) := by
  obtain ⟨c, y, kept⟩ := dqWrite_keeps boot false
  obtain ⟨⟨o, mem⟩, paid⟩ := payOwed_keeps { s with dq := false, dqd := false }
  refine ⟨_, rfl, ?_, ?_, fun run0 run1 => ?_, fun none => memByte_of_basis (kept.basis.trans ?_)⟩
  · rw [kept.frame]
    exact (setDq_keeps s false).1
  · rw [kept.frame, State.setDq, if_neg Bool.false_ne_true, mem.frame]
  · rw [kept.frame]
    exact paid (by rw [State.crossStop, Bool.false_or]; exact Bool.or_eq_false_iff.2 ⟨run0, run1⟩)
  · exact (setDq_keeps s false).2.2.2.2 none

/-- The value written to PRDCTL by a new PQ: the mask above, the other fields below. -/
theorem pqValue_upper (v : DWord) (mask : Word) : BitVec.ofNat 32 ((v.toNat % 2 ^ 32 + mask.toNat * 2 ^ 32) / 2 ^ 32) = mask := by
  apply BitVec.eq_of_toNat_eq
  rw [BitVec.toNat_ofNat]
  have := mask.isLt
  omega

theorem pqValue_dq (v : DWord) (mask : Word) : (v.toNat % 2 ^ 32 + mask.toNat * 2 ^ 32).testBit 0 = v.getLsbD 0 := by
  rw [BitVec.getLsbD, Nat.testBit_zero, Nat.testBit_zero]
  congr 1
  simp only [eq_iff_iff]
  omega

theorem pq_row (boot : s.boot = 2) (mask : Word) :
    exec (.pq mask) s = .next (s.prdWrite ((s.csrGet 0x4081 0).toNat % 2 ^ 32 + mask.toNat * 2 ^ 32)) := by
  rw [← prd_row boot]
  rfl

theorem fields_of_frame {c : Store (Option DWord)} {y : Word} (h : t = { s with csr := c, pqd := y }) :
    t.pqd = y ∧ t.dq = s.dq ∧ t.reqs = s.reqs ∧ t.podOut = s.podOut := by
  rw [h]
  exact ⟨rfl, rfl, rfl, rfl⟩

/-- PQ written (R467). -/
theorem pqWrite (boot : s.boot = 2) (mask : Word) : ∃ t, exec (.pq mask) s = .next t ∧ t.pq = mask ∧ t.pqd = s.pqd &&& mask ∧
    t.dq = (s.csrGet 0x4081 0).getLsbD 0 ∧ AllStay (mask &&& ~~~ s.pq) t ∧
    t.reqs.map (fun q => (q.serial, q.packet)) = s.reqs.map (fun q => (q.serial, q.packet)) ∧
    t.podOut.map (fun q => q.p) = s.podOut.map (fun q => q.p) ∧ (s.owed = [] → SameMemory s t) := by
  have row := pq_row boot mask
  have upper := pqValue_upper (s.csrGet 0x4081 0) mask
  have low := pqValue_dq (s.csrGet 0x4081 0) mask
  generalize (s.csrGet 0x4081 0).toNat % 2 ^ 32 + mask.toNat * 2 ^ 32 = val at row upper low
  have kept := (prdWrite_keeps s val).1
  have stays := (prdWrite_keeps s val).2
  obtain ⟨dqIs, -, reqs, posts, -⟩ := setDq_keeps s (val.testBit 0)
  obtain ⟨c, stored⟩ := prdStored_frame s val
  obtain ⟨pqd', dq', reqs', posts'⟩ := fields_of_frame stored
  rw [upper] at stays pqd'
  exact ⟨_, row, (kept.pq.trans (prdStored_pq s val)).trans upper, kept.pqd.trans pqd', (kept.dq.trans (dq'.trans dqIs)).trans low, stays,
    kept.reqs.trans (congrArg _ (reqs'.trans reqs)), kept.posts.trans (congrArg _ (posts'.trans posts)),
    fun none => memByte_of_basis (prdWrite_basis none val)⟩

/-- The die-to-die traffic has drained: nothing sent before DQ is on its way (R466). -/
theorem dieToDieQuiesced (dq : s.dq = true) (flight : ∀ f ∈ s.flight, decide (dieOfCore f.core = 1) ≠ f.home → s.dqSer ≤ f.serial)
    (pend : ∀ p ∈ s.pend, ∀ l, p.loads = some l → ∀ e ∈ l.lanes, decide (dieOfCore (s.coreOf p.r) = 1) ≠ e.2.2.2 → s.dqSer ≤ p.serial) :
    exec .dieToDieQuiesced s = .next { s with dqd := true } := by
  change execDieToDieQuiesced s = _
  rw [execDieToDieQuiesced, if_pos]
  simp only [Bool.and_eq_true, Bool.not_eq_true', List.any_eq_false, bne_iff_ne, decide_eq_true_eq, not_and, Nat.not_lt]
  refine ⟨⟨dq, flight⟩, fun p hp => ?_⟩
  cases hl : p.loads with
  | none => exact Bool.false_ne_true
  | some l =>
    simp only [List.any_eq_true, Bool.and_eq_true, bne_iff_ne, decide_eq_true_eq, not_exists, not_and, Nat.not_lt]
    exact pend p hp l hl

theorem circuitChanges : Rules.CircuitChanges := by
  intro s v mask port
  dsimp only
  intro boot
  refine ⟨fun drained sum lo hi => ?_, fun bad => ?_, fun busy => ?_, fun free change => ?_, dqSet boot, dqClear boot, ?_, fun asked holds => ?_,
    fun holds => ?_, fun dq flight pend => dieToDieQuiesced dq flight pend, fun t busy => ?_⟩
  · rw [d2dconn_row boot, State.d2dWrite, if_pos (by rw [drained, decide_eq_true sum, decide_eq_true lo, decide_eq_true hi]; rfl)]
  · rw [d2dconn_row boot, State.d2dWrite, if_neg]
    · rfl
    · simp only [Bool.and_eq_true, decide_eq_true_eq]
      rintro ⟨⟨⟨drained, sum⟩, lo⟩, hi⟩
      rcases bad with no | no | no | no
      · exact Bool.noConfusion (no.symm.trans drained)
      · omega
      · omega
      · omega
  · rw [porten_row boot, State.portenWrite, BitVec.ofNat_toNat, BitVec.setWidth_eq, if_pos (bne_iff_ne.2 busy)]
    rfl
  · rw [porten_row boot, State.portenWrite, BitVec.ofNat_toNat, BitVec.setWidth_eq, if_neg (by rw [free]; decide), if_neg change]
  · obtain ⟨t, row, pq, pqd, dq, stays, reqs, posts, mem⟩ := pqWrite boot mask
    exact ⟨t, row, pq, pqd, dq, stays.reqs, stays.posts, reqs, posts, mem⟩
  · change execPortQuiesced port s = _
    rw [execPortQuiesced, asked, holds]
    rfl
  · change execPortQuiesced port s = _
    rw [execPortQuiesced, holds, Bool.not_true, Bool.and_false, if_neg Bool.false_ne_true]
  · change execCircuitChangeDone s = _
    rw [execCircuitChangeDone, busy]

/-- Settles O46: what a write from outside does to a control register, and the registers of circuits and ports. -/
theorem controlRegisters : Obligations.ControlRegisters := ⟨registerWrites, circuitChanges⟩

end Sys2Proof.Machine
end

section
/-! SUPPORT. Freezes and thaws, the scan path and checkpoints (R405, R461 to R464). -/

namespace Sys2Proof.Machine

variable {s u t : State} {r : PathRef} {i : Instr}

/-! ### What keeps every freeze as it is -/

/-- No request for a freeze, no freeze, no crew and not the time changed. -/
structure KeepsFreeze (s t : State) : Prop where
  reqs : t.frzReqs = s.frzReqs
  ctx : t.frzCtx = s.frzCtx
  tsc : t.tsc = s.tsc
  crews : t.crews = s.crews
  frozen : ∀ c, (t.ctx c).frozen = (s.ctx c).frozen

theorem KeepsFreeze.refl (s : State) : KeepsFreeze s s := ⟨rfl, rfl, rfl, rfl, fun _ => rfl⟩

theorem KeepsFreeze.trans (h : KeepsFreeze s t) (h' : KeepsFreeze t u) : KeepsFreeze s u :=
  ⟨h'.reqs.trans h.reqs, h'.ctx.trans h.ctx, h'.tsc.trans h.tsc, h'.crews.trans h.crews,
    fun c => (h'.frozen c).trans (h.frozen c)⟩

theorem MemOnly.keepsFreeze (h : MemOnly s t) : KeepsFreeze s t := by
  rw [h.frame]
  exact ⟨rfl, rfl, rfl, rfl, fun _ => rfl⟩

theorem keepsFreeze_foldl {α : Type} {f : State → α → State} (h : ∀ s a, KeepsFreeze s (f s a)) (l : List α) :
    KeepsFreeze s (l.foldl f s) :=
  foldl_keeps (KeepsFreeze s) f l s (fun t a ht => ht.trans (h t a)) (KeepsFreeze.refl s)

theorem keepsFreeze_modCtx (s : State) (c : Nat) {f : Ctx → Ctx} (h : ∀ x, (f x).frozen = x.frozen := by exact fun _ => rfl) :
    KeepsFreeze s (s.modCtx c f) :=
  ⟨rfl, rfl, rfl, rfl, fun k => by
    rw [State.modCtx, State.ctx_setCtx]
    split
    next e => rw [h, e]
    next => rfl⟩

theorem memOnly_wfiEvent (s : State) (r : PathRef) (two : Bool) : MemOnly s (s.wfiEvent r two) := by
  rw [State.wfiEvent]
  split
  · exact (memOnly_endWait ..).trans (memOnly_modPath ..)
  · split
    · exact (memOnly_sset ..).trans (memOnly_modPath ..)
    · exact memOnly_modPath ..
  · exact memOnly_modPath ..

theorem memOnly_wakePart (s : State) (part : Nat) : MemOnly s (s.wakePart part) := by
  rw [State.wakePart]
  refine MemOnly.trans (t := s.wfiSaved (fun v => s.ctxPart (s.grid v.crew.grid).ctx == part) false) ⟨rfl, fun _ => rfl, fun _ => rfl⟩
    (memOnly_foldl (fun s r => ?_) _)
  split
  · exact memOnly_wfiEvent ..
  · exact MemOnly.refl _

theorem memOnly_fqWrite (s : State) (c : Nat) (bs : List Byte) : MemOnly s (s.fqWrite c bs) := by
  rw [State.fqWrite]
  exact (((memOnly_makeRoom s (fun s k bs => memOnly_homeWrite s k bs) ..).trans (memOnly_homeWrite ..)).trans (memOnly_homeWrite ..)).trans
    (memOnly_wakePart ..)

theorem keepsFreeze_reqs (s : State) (l : List Req) : KeepsFreeze s { s with reqs := l } := ⟨rfl, rfl, rfl, rfl, fun _ => rfl⟩

theorem keepsFreeze_fqAdd (s : State) (c die : Nat) (bs : List Byte) : KeepsFreeze s (s.fqAdd c die bs) := by
  rw [State.fqAdd]
  split
  · exact (memOnly_fqWrite ..).keepsFreeze
  · dsimp only
    split
    · exact keepsFreeze_modCtx ..
    · exact (keepsFreeze_modCtx ..).trans (memOnly_logEvent ..).keepsFreeze

theorem keepsFreeze_takeStop (s : State) (r : PathRef) (i : StopInfo) : KeepsFreeze s (s.takeStop r i) := by
  rw [State.takeStop]
  split
  · exact (memOnly_modPath ..).keepsFreeze
  · dsimp only
    exact ((memOnly_modPath ..).keepsFreeze.trans (keepsFreeze_modCtx ..)).trans (keepsFreeze_fqAdd ..)

theorem memOnly_regWrite (s : State) (tok : Nat) (w : RegWrite) : MemOnly s (s.regWrite tok w) := by
  cases w with
  | s d v => exact memOnly_sset s ⟨tok, false⟩ d v
  | v d l x => exact ⟨rfl, fun _ => rfl, fun q => State.crewNo_modTeam (f := fun t => t.vset (BitVec.ofNat 8 d) l x) (fun _ => rfl) s tok q⟩

theorem memOnly_regWrites (s : State) (tok : Nat) (ws : List RegWrite) : MemOnly s (s.regWrites tok ws) := by
  rw [State.regWrites]
  exact memOnly_foldl (fun s w => memOnly_regWrite ..) _

theorem keepsFreeze_endRun (s : State) (q : Req) (l : List RLane) : KeepsFreeze s (s.endRun q l) := by
  rw [State.endRun]
  exact ((memOnly_regWrites ..).trans (memOnly_modPath ..)).keepsFreeze.trans (keepsFreeze_reqs ..)

theorem keepsFreeze_failRun (s : State) (q : Req) (cause sub lane : Nat) (va : DWord) (un : Bool) :
    KeepsFreeze s (s.failRun q cause sub lane va un) := by
  rw [State.failRun, State.endRuns, State.clearFlag]
  exact ((memOnly_modPath ..).keepsFreeze.trans (keepsFreeze_reqs ..)).trans (keepsFreeze_takeStop ..)

theorem keepsFreeze_remoteReply (s : State) (n : Nat) (b : PBody) : KeepsFreeze s (s.remoteReply n b) := by
  rw [State.remoteReply]
  split
  · exact KeepsFreeze.refl s
  · split
    · split
      · exact keepsFreeze_endRun ..
      · exact (keepsFreeze_endRun ..).trans (keepsFreeze_failRun ..)
    · exact (keepsFreeze_endRun ..).trans (keepsFreeze_failRun ..)
    · exact KeepsFreeze.refl s

/-! ### Requests of peers that are taken up -/

theorem keepsFreeze_firn (s : State) (l : List FirnEntry) : KeepsFreeze s { s with firn := l } := ⟨rfl, rfl, rfl, rfl, fun _ => rfl⟩

theorem keepsFreeze_firnStore {e : FirnEntry} (h : s.firnStore e = some t) : KeepsFreeze s t := by
  rw [State.firnStore] at h
  split at h
  · exact Option.some.inj h ▸ keepsFreeze_firn ..
  · split at h
    · exact Option.some.inj h ▸ keepsFreeze_firn ..
    · split at h
      · exact Option.some.inj h ▸ keepsFreeze_firn ..
      · cases h

theorem keepsFreeze_peerLoad {c n v : Nat} {acq : Bool} {va : DWord} (h : s.peerLoad c n acq va = .ok (t, v)) : KeepsFreeze s t := by
  rw [State.peerLoad] at h
  split at h
  · split at h
    · cases h
    · exact (Prod.mk.inj (Except.ok.inj h)).1 ▸ KeepsFreeze.refl s
  · split at h
    · cases h
    · split at h
      · cases h
      · exact (Prod.mk.inj (Except.ok.inj h)).1 ▸ KeepsFreeze.refl s
  · cases h

theorem keepsFreeze_peerStore {c n gti v : Nat} {p : Packet} {l : RLane} (h : s.peerStore c p n gti l = .ok (t, v)) :
    KeepsFreeze s t := by
  rw [State.peerStore] at h
  split at h
  · cases h
  · split at h
    · split at h
      · cases h
      · split at h
        next => cases h
        next hs => exact (Prod.mk.inj (Except.ok.inj h)).1 ▸ keepsFreeze_firnStore hs
    · cases h

theorem keepsFreeze_peerAtomic {c n v : Nat} {p : Packet} {op : AtomOp} {l : RLane} (h : s.peerAtomic c p op n l = .ok (t, v)) :
    KeepsFreeze s t := by
  rw [State.peerAtomic] at h
  split at h
  · cases h
  · split at h
    · cases h
    · split at h
      · cases h
      · dsimp only at h
        generalize (if (op == .cas) = true then _ else _ : Option Nat) = new at h
        cases new with
        | none => exact (Prod.mk.inj (Except.ok.inj h)).1 ▸ KeepsFreeze.refl s
        | some v => exact (Prod.mk.inj (Except.ok.inj h)).1 ▸ (memOnly_homeWrite ..).keepsFreeze
    · cases h

theorem keepsFreeze_peerLanes {f : State → RLane → PeerRes} (h : ∀ s l t v, f s l = .ok (t, v) → KeepsFreeze s t) (s : State)
    (done ls : List RLane) : KeepsFreeze s (peerLanes f s done ls).1 := by
  induction ls generalizing s done with
  | nil => exact KeepsFreeze.refl s
  | cons l ls ih =>
    rw [peerLanes]
    split
    next => exact KeepsFreeze.refl s
    next he => exact (h _ _ _ _ he).trans (ih ..)

theorem keepsFreeze_emit (s : State) (port : Option Nat) (p : Packet) : KeepsFreeze s (s.emit port p) :=
  ⟨rfl, rfl, rfl, rfl, fun _ => rfl⟩

theorem keepsFreeze_answers (s : State) (l : List Packet) : KeepsFreeze s { s with answers := l } := ⟨rfl, rfl, rfl, rfl, fun _ => rfl⟩
theorem keepsFreeze_seenSeq (s : State) (l : List (Nat × Nat)) : KeepsFreeze s { s with seenSeq := l } :=
  ⟨rfl, rfl, rfl, rfl, fun _ => rfl⟩

theorem keepsFreeze_answer (s : State) (p : Packet) (b : PBody) : KeepsFreeze s (s.answer p b) := by
  rw [State.answer]
  split
  · exact keepsFreeze_remoteReply ..
  · exact (keepsFreeze_answers ..).trans (keepsFreeze_emit ..)

theorem keepsFreeze_answered {x : State × PBody} (h : KeepsFreeze s x.1) (p : Packet) :
    KeepsFreeze s (({ x.1 with seenSeq := x.1.seenSeq ++ [(p.src, p.serial)] } : State).answer p x.2) :=
  (h.trans (keepsFreeze_seenSeq ..)).trans (keepsFreeze_answer ..)

theorem keepsFreeze_serve (s : State) (c : Nat) (p : Packet) : KeepsFreeze s (s.serve c p) := by
  rw [State.serve]
  cases p.body with
  | load z acq ls => exact keepsFreeze_answered (keepsFreeze_peerLanes (fun _ _ _ _ => keepsFreeze_peerLoad) ..) p
  | store z gti ls => exact keepsFreeze_answered (keepsFreeze_peerLanes (fun _ _ _ _ => keepsFreeze_peerStore) ..) p
  | atomic op z ls => exact keepsFreeze_answered (keepsFreeze_peerLanes (fun _ _ _ _ => keepsFreeze_peerAtomic) ..) p
  | _ => exact KeepsFreeze.refl s

theorem keepsFreeze_repeatAnswer (s : State) (p : Packet) : KeepsFreeze s (s.repeatAnswer p) := by
  rw [State.repeatAnswer]
  split
  · exact keepsFreeze_emit ..
  · exact KeepsFreeze.refl s

/-- A packet joins those that a context holds. -/
theorem keepsFreeze_hold (s : State) (c : Nat) (p : Packet) : KeepsFreeze s (if (s.ctx c).heldPackets.contains p then s
    else s.modCtx c fun x => { x with heldPackets := x.heldPackets ++ [p] }) := by
  split
  · exact KeepsFreeze.refl s
  · exact keepsFreeze_modCtx ..

theorem keepsFreeze_held (s : State) (p : Packet) : KeepsFreeze s (if p.src = s.rank then s.suspend p.serial
    else s.respond p.toPodHdr (.hold p.serial)) := by
  split
  · exact keepsFreeze_reqs ..
  · exact keepsFreeze_emit ..

/-- A request that has not been answered is held or served, as the state of its context says. -/
theorem keepsFreeze_acceptNew (s : State) (c : Nat) (p : Packet) (load : Bool) : KeepsFreeze s
    (if (s.ctx c).frozen && !load then
      let s := if (s.ctx c).heldPackets.contains p then s
        else s.modCtx c fun x => { x with heldPackets := x.heldPackets ++ [p] }
      if p.src = s.rank then s.suspend p.serial else s.respond p.toPodHdr (.hold p.serial)
    else if (s.ctx c).heldPackets.contains p then s
    else if s.peerWaits c p || s.packetOwned c p || s.behindHeld c p then s.modCtx c fun x => { x with heldPackets := x.heldPackets ++ [p] }
    else s.serve c p) := by
  split
  · exact (keepsFreeze_hold ..).trans (keepsFreeze_held ..)
  · split
    · exact KeepsFreeze.refl s
    · split
      · exact keepsFreeze_modCtx ..
      · exact keepsFreeze_serve ..

theorem keepsFreeze_accept (s : State) (c : Nat) (p : Packet) : KeepsFreeze s (s.accept c p) := by
  rw [State.accept]
  dsimp only
  generalize (if s.strict = true then { p with dom := 0, ver := 0, step := BitVec.ofNat 32 s.stepNo } else p) = p
  split
  · exact keepsFreeze_repeatAnswer ..
  · exact keepsFreeze_acceptNew ..

theorem keepsFreeze_acceptHeld (s : State) (c : Nat) : KeepsFreeze s (s.acceptHeld c) := by
  rw [State.acceptHeld]
  exact (keepsFreeze_modCtx ..).trans (keepsFreeze_foldl (fun s p => keepsFreeze_accept s c p) _)

/-! ### Time goes on to a request's tick -/

theorem le_add_sub_div {k : Nat} (hk : 0 < k) (a b t : Nat) : a ≤ (a * k + b + (t * k - (a * k + b))) / k ∧
    t ≤ (a * k + b + (t * k - (a * k + b))) / k := by
  rw [Nat.le_div_iff_mul_le hk, Nat.le_div_iff_mul_le hk]
  omega

theorem le_passTo (s : State) (n : Nat) : s.tsc ≤ (s.passTo n).tsc ∧ n ≤ (s.passTo n).tsc :=
  le_add_sub_div (by decide : 0 < tickParts) s.tsc s.sub n

/-- Nothing but the time and the clocks changed. -/
def OnlyTime (s t : State) : Prop := t = { s with die0 := t.die0, die1 := t.die1, tsc := t.tsc, sub := t.sub }

theorem onlyTime_passTo (s : State) (n : Nat) : OnlyTime s (s.passTo n) := rfl

section
variable (h : OnlyTime s t)
include h

theorem OnlyTime.ctx (c : Nat) : t.ctx c = s.ctx c := by rw [h]; rfl
theorem OnlyTime.grid (g : Nat) : t.grid g = s.grid g := by rw [h]; rfl
theorem OnlyTime.crews : t.crews = s.crews := by rw [h]
theorem OnlyTime.crew (n : Nat) : t.crew n = s.crew n := by rw [h]; rfl
theorem OnlyTime.crewNo (r : PathRef) : t.crewNo r = s.crewNo r := by rw [h]; rfl
theorem OnlyTime.frzReqs : t.frzReqs = s.frzReqs := by rw [h]
end

theorem MemOnly.ctx (h : MemOnly s t) (c : Nat) : t.ctx c = s.ctx c := by rw [h.frame]; rfl
theorem MemOnly.grid (h : MemOnly s t) (g : Nat) : t.grid g = s.grid g := by rw [h.frame]; rfl
theorem MemOnly.crew (h : MemOnly s t) (n : Nat) : t.crew n = s.crew n := by rw [h.frame]; rfl
theorem MemOnly.frzReqs (h : MemOnly s t) : t.frzReqs = s.frzReqs := by rw [h.frame]
theorem MemOnly.tsc (h : MemOnly s t) : t.tsc = s.tsc := by rw [h.frame]

theorem memOnly_endFrz (s : State) (c : Nat) : MemOnly s (s.endFrz c) := by
  rw [State.endFrz]
  refine memOnly_foldl (fun s r => ?_) _
  split
  · exact memOnly_modPath ..
  · exact MemOnly.refl s

theorem memOnly_logFreeze (s : State) (c : Nat) (thaw : Bool) : MemOnly s (s.logFreeze c thaw) := memOnly_logEvent ..

theorem memOnly_flushHome (s : State) (core : Nat) (f : Nat → Bool) : MemOnly s (s.flushHome core f) :=
  (memOnly_l1ToRdc ..).trans (memOnly_writeBack ..)

/-! ### Crews that freeze -/

/-- A value read that is not what an absent key reads as is listed. -/
theorem get_mem {β : Type} {dflt : β} {m : Store β} {k : Nat} (h : Store.get dflt m k ≠ dflt) : (k, Store.get dflt m k) ∈ m := by
  induction m with
  | nil => exact absurd rfl h
  | cons x m ih =>
    rw [Store.get] at h ⊢
    split
    next e =>
      subst e
      exact List.mem_cons_self ..
    next e => exact List.mem_cons_of_mem _ (ih (by rw [if_neg e] at h; exact h))

/-- A value put is listed. -/
theorem mem_put {β : Type} (m : Store β) (k : Nat) (v : β) : (k, v) ∈ Store.put m k v := by
  induction m with
  | nil => exact List.mem_cons_self ..
  | cons x m ih =>
    rw [Store.put]
    split
    · exact List.mem_cons_of_mem _ ih
    · split <;> exact List.mem_cons_self ..

/-- What was listed still is, but for the value read at the key that is put. -/
theorem mem_put_of_mem {β : Type} {dflt : β} {m : Store β} {x : Nat × β} (k : Nat) (v : β) (h : x ∈ m) :
    x ∈ Store.put m k v ∨ x = (k, Store.get dflt m k) := by
  induction m with
  | nil => cases h
  | cons y m ih =>
    rw [Store.put, Store.get]
    split
    next lt =>
      rw [if_neg (Nat.ne_of_lt lt)]
      rcases List.mem_cons.1 h with rfl | h
      · exact .inl (List.mem_cons_self ..)
      · exact (ih h).imp_left (List.mem_cons_of_mem _)
    next =>
      split
      next e =>
        subst e
        rcases List.mem_cons.1 h with rfl | h
        · exact .inr rfl
        · exact .inl (List.mem_cons_of_mem _ h)
      next => exact .inl (List.mem_cons_of_mem _ h)

/-- Two crews stand at the same place, of the same grid, and both are live or not. -/
def SamePlace (a b : Crew) : Prop := b.core = a.core ∧ b.live = a.live ∧ b.grid = a.grid

theorem SamePlace.trans {a b c : Crew} (h : SamePlace a b) (h' : SamePlace b c) : SamePlace a c :=
  ⟨h'.1.trans h.1, h'.2.1.trans h.2.1, h'.2.2.trans h.2.2⟩

/-- Crews only come to be frozen, in their places; beside them memory and its copies change. -/
structure Freezes (s t : State) : Prop where
  frame : ∃ l, MemOnly { s with crews := l } t
  place : ∀ n, SamePlace (s.crew n) (t.crew n)
  stays : ∀ n, (s.crew n).frozen = true → (t.crew n).frozen = true
  listed : ∀ x ∈ s.crews, ∃ y ∈ t.crews, SamePlace x.2 y.2

theorem MemOnly.withCrews {l : Store Crew} (h : MemOnly { s with crews := l } t) (l' : Store Crew) :
    MemOnly { s with crews := l' } { t with crews := l' } :=
  ⟨congrArg (fun x : State => { x with crews := l' }) h.frame, h.paid, h.crewNo⟩

theorem MemOnly.freezes (h : MemOnly s t) : Freezes s t := by
  have crews : t.crews = s.crews := by rw [h.frame]
  have crew : ∀ n, t.crew n = s.crew n := fun n => by rw [State.crew, State.crew, crews]
  refine ⟨⟨s.crews, h⟩, fun n => ?_, fun n hn => (crew n).symm ▸ hn, fun x hx => ⟨x, crews.symm ▸ hx, rfl, rfl, rfl⟩⟩
  rw [crew]
  exact ⟨rfl, rfl, rfl⟩

theorem Freezes.trans (h : Freezes s t) (h' : Freezes t u) : Freezes s u := by
  obtain ⟨l, hl⟩ := h.frame
  obtain ⟨l', hl'⟩ := h'.frame
  refine ⟨⟨l', (hl.withCrews l').trans hl'⟩, fun n => (h.place n).trans (h'.place n), fun n hn => h'.stays n (h.stays n hn), fun x hx => ?_⟩
  obtain ⟨y, hy, xy⟩ := h.listed x hx
  obtain ⟨z, hz, yz⟩ := h'.listed y hy
  exact ⟨z, hz, xy.trans yz⟩

/-- A crew frozen, with the done masks shown for it. -/
def Crew.freeze (g : Crew → List (Nat × Mask × Mask)) (x : Crew) : Crew := { x with frozen := true, shown := g x }

theorem freezes_modCrew (s : State) (n : Nat) (g : Crew → List (Nat × Mask × Mask)) : Freezes s (s.modCrew n (Crew.freeze g)) := by
  have crew := fun m => State.crew_modCrew (s := s) n m (Crew.freeze g)
  refine ⟨⟨_, MemOnly.refl _⟩, fun m => ?_, fun m hm => ?_, fun x hx => ?_⟩
  · rw [crew]
    split
    next e => exact e ▸ ⟨rfl, rfl, rfl⟩
    next => exact ⟨rfl, rfl, rfl⟩
  · rw [crew]
    split
    · rfl
    · exact hm
  · have set : (s.modCrew n (Crew.freeze g)).crews = Store.put s.crews n (Crew.freeze g (s.crew n)) :=
      if_neg fun e => Bool.noConfusion (congrArg Crew.frozen e)
    rw [set]
    rcases mem_put_of_mem (dflt := Crew.none) n (Crew.freeze g (s.crew n)) hx with h | rfl
    · exact ⟨x, h, rfl, rfl, rfl⟩
    · exact ⟨_, mem_put .., rfl, rfl, rfl⟩

/-- Freezing the crews of a list of entries. -/
theorem freezes_foldl (g : State → Crew → List (Nat × Mask × Mask)) (l : List (Nat × Crew)) (s : State) :
    Freezes s (l.foldl (fun s c => s.modCrew c.1 (Crew.freeze (g s))) s) ∧
      ∀ x ∈ l, ((l.foldl (fun s c => s.modCrew c.1 (Crew.freeze (g s))) s).crew x.1).frozen = true := by
  induction l generalizing s with
  | nil => exact ⟨(MemOnly.refl s).freezes, fun x hx => absurd hx List.not_mem_nil⟩
  | cons y l ih =>
    obtain ⟨rest, frozen⟩ := ih (s.modCrew y.1 (Crew.freeze (g s)))
    refine ⟨(freezes_modCrew s y.1 (g s)).trans rest, fun x hx => ?_⟩
    rcases List.mem_cons.1 hx with rfl | hx
    · exact rest.stays _ (by rw [State.crew_modCrew, if_pos rfl]; rfl)
    · exact frozen x hx

/-- The done masks that a crew shows once it is frozen (R461). -/
def State.shows (s : State) (x : Crew) : List (Nat × Mask × Mask) := if x.frozen then x.shown else s.doneMasks x

/-- A live crew of a frozen context stands on a core. -/
def State.frozenOn (s : State) (k : Nat) : Prop :=
  ∃ x ∈ s.crews, x.2.core = k ∧ x.2.live = true ∧ (s.ctx (s.grid x.2.grid).ctx).frozen = true

/-- Of a core with a crew of a frozen context every crew freezes (R461). -/
theorem refreeze_freezes {k : Nat} (on : s.frozenOn k) :
    Freezes s (s.refreeze k) ∧ ∀ n, (s.crew n).live = true → (s.crew n).core = k → ((s.refreeze k).crew n).frozen = true := by
  obtain ⟨x, hx, core, live, frozen⟩ := on
  have all : ((s.crewsOn k).any fun c => c.2.live && (s.ctx (s.grid c.2.grid).ctx).frozen) = true :=
    List.any_eq_true.2 ⟨x, List.mem_filter.2 ⟨hx, by rw [core]; exact beq_self_eq_true k⟩, by rw [live, frozen]; rfl⟩
  have same : s.refreeze k = (s.crewsOn k).foldl (fun s c =>
      s.modCrew c.1 (Crew.freeze s.shows)) s := by
    rw [State.refreeze, all]
    rfl
  obtain ⟨freezes, each⟩ := freezes_foldl State.shows (s.crewsOn k) s
  rw [same]
  refine ⟨freezes, fun n live core => each (n, s.crew n) (List.mem_filter.2 ⟨get_mem fun none => ?_, by rw [core]; exact beq_self_eq_true k⟩)⟩
  rw [State.crew, none] at live
  cases live

theorem Freezes.ctx (h : Freezes s t) (c : Nat) : t.ctx c = s.ctx c := by
  obtain ⟨l, hl⟩ := h.frame
  rw [hl.frame]
  rfl

theorem Freezes.grid (h : Freezes s t) (g : Nat) : t.grid g = s.grid g := by
  obtain ⟨l, hl⟩ := h.frame
  rw [hl.frame]
  rfl

theorem Freezes.frozenOn (h : Freezes s t) {k : Nat} (on : s.frozenOn k) : t.frozenOn k := by
  obtain ⟨x, hx, core, live, frozen⟩ := on
  obtain ⟨y, hy, core', live', grid⟩ := h.listed x hx
  exact ⟨y, hy, core'.trans core, live'.trans live, by rw [h.ctx, h.grid, grid]; exact frozen⟩

/-- The crews of some cores freeze, and what these cores hold dirty goes home. -/
theorem freezeCores (l : List Nat) (on : ∀ k ∈ l, s.frozenOn k) :
    let t := l.foldl (fun s k => (s.refreeze k).flushHome k fun _ => true) s
    Freezes s t ∧ ∀ n, (s.crew n).live = true → (s.crew n).core ∈ l → (t.crew n).frozen = true := by
  induction l generalizing s with
  | nil => exact ⟨(MemOnly.refl s).freezes, fun n _ hn => absurd hn List.not_mem_nil⟩
  | cons k l ih =>
    obtain ⟨first, each⟩ := refreeze_freezes (on k (List.mem_cons_self ..))
    have step := first.trans (memOnly_flushHome (s.refreeze k) k fun _ => true).freezes
    obtain ⟨rest, others⟩ := ih fun j hj => step.frozenOn (on j (List.mem_cons_of_mem _ hj))
    refine ⟨step.trans rest, fun n live core => ?_⟩
    rcases List.mem_cons.1 core with e | mem
    · exact rest.stays n ((memOnly_flushHome (s.refreeze k) k fun _ => true).freezes.stays n (each n live e))
    · obtain ⟨sameCore, sameLive, -⟩ := step.place n
      exact others n (sameLive.trans live) (sameCore.symm ▸ mem)

/-- A path of a frozen crew is not ready. -/
theorem isReady_frozen (h : (s.crewOf r).frozen = true) : s.isReady r = false := by
  have frozen : (s.crew (s.team r.tok).crew).frozen = true := h
  simp only [State.isReady, frozen, Bool.not_true, Bool.and_false, Bool.false_and]

/-! ### A freeze takes effect -/

/-- A request is taken up: it is the one that FRZSTAT shows. -/
def State.takeRequest (s : State) (q : FrzReq) (c : Nat) : State := { s with frzReqs := s.frzReqs.erase q, frzCtx := c, frzTsc := s.tsc }

/-- The state of a freeze at its tick, before the crews stop. -/
def State.atFreeze (s : State) (q : FrzReq) (c : Nat) : State := ((s.passTo q.due).endFrz c).takeRequest q c

/-- The context of a freeze is marked frozen, from now on. -/
def State.markFrozen (s : State) (c : Nat) : State := s.modCtx c fun x => { x with frozen := true, frozenAt := s.tsc }

/-- The crews of the context freeze, with all that is on their cores. -/
def State.stopCrews (s : State) (c : Nat) : State :=
  (s.coresOfCtx c).foldl (fun s k => (s.refreeze k).flushHome k fun _ => true) (s.markFrozen c)

/-- Whether the freeze stops crews of other contexts is kept, watchdogs pause, and the freeze is logged. -/
def State.noteFreeze (s : State) (c : Nat) (cores : List Nat) : State :=
  let v := s.modCtx c fun x => { x with
    sharedFreeze := s.crews.any fun x => x.2.live && cores.contains x.2.core && (s.grid x.2.grid).ctx != c }
  (v.pauseWatch fun h => (v.grid h).ctx == c).logFreeze c false

theorem freezeTakesEffect_eq {c : Nat} {q : FrzReq} (find : (s.frzReqs.find? fun q => q.ctx == c && !q.thaw) = some q)
    (free : ((s.atFreeze q c).ctx c).frozen = false) :
    exec (.freezeTakesEffect c) s = .next (((s.atFreeze q c).stopCrews c).noteFreeze c ((s.atFreeze q c).coresOfCtx c)) := by
  change execFreezeTakesEffect c s = _
  rw [execFreezeTakesEffect, find]
  exact if_neg (by change ¬ ((s.atFreeze q c).ctx c).frozen = true; rw [free]; exact Bool.false_ne_true)

/-- With the tick of a request time has not gone back, and nothing of the contexts, crews and grids has changed. -/
theorem atFreeze_keeps (s : State) (q : FrzReq) (c : Nat) :
    (s.atFreeze q c).frzReqs = s.frzReqs.erase q ∧ (s.atFreeze q c).frzCtx = c ∧ s.tsc ≤ (s.atFreeze q c).tsc ∧
      q.due ≤ (s.atFreeze q c).tsc ∧ (∀ k, (s.atFreeze q c).ctx k = s.ctx k) ∧ (∀ k, (s.atFreeze q c).grid k = s.grid k) ∧
      (∀ k, (s.atFreeze q c).crew k = s.crew k) ∧ ∀ r, (s.atFreeze q c).crewNo r = s.crewNo r := by
  have passed := onlyTime_passTo s q.due
  have late := le_passTo s q.due
  generalize hp : s.passTo q.due = u at passed late
  have ended := memOnly_endFrz u c
  rw [State.atFreeze, hp]
  exact ⟨congrArg (List.erase · q) (ended.frzReqs.trans passed.frzReqs), rfl, ended.tsc.symm ▸ late.1, ended.tsc.symm ▸ late.2,
    fun k => (ended.ctx k).trans (passed.ctx k), fun k => (ended.grid k).trans (passed.grid k),
    fun k => (ended.crew k).trans (passed.crew k), fun r => (ended.crewNo r).trans (passed.crewNo r)⟩

theorem frozenOn_markFrozen {c k : Nat} (h : k ∈ s.coresOfCtx c) : (s.markFrozen c).frozenOn k := by
  rw [State.coresOfCtx, List.mem_eraseDups, List.mem_map] at h
  obtain ⟨x, hx, core⟩ := h
  obtain ⟨mem, on⟩ := List.mem_filter.1 hx
  rw [Bool.and_eq_true, beq_iff_eq] at on
  obtain ⟨live, ctx⟩ := on
  refine ⟨x, mem, core, live, ?_⟩
  change ((s.markFrozen c).ctx (s.grid x.2.grid).ctx).frozen = true
  rw [ctx, State.markFrozen, State.modCtx, State.ctx_setCtx, if_pos rfl]

/-- Every live crew of the context is frozen then. -/
theorem stopCrews_frozen {c n : Nat} (live : (s.crew n).live = true) (ctx : (s.grid (s.crew n).grid).ctx = c) :
    ((s.stopCrews c).crew n).frozen = true := by
  refine (freezeCores (s.coresOfCtx c) fun k => frozenOn_markFrozen).2 n live ?_
  rw [State.coresOfCtx, List.mem_eraseDups, List.mem_map]
  refine ⟨(n, s.crew n), List.mem_filter.2 ⟨get_mem fun none => ?_, ?_⟩, rfl⟩
  · rw [State.crew, none] at live
    cases live
  · rw [live, ctx]
    exact beq_self_eq_true c

theorem keepsFreeze_pauseWatch (s : State) (f : Nat → Bool) : KeepsFreeze s (s.pauseWatch f) := ⟨rfl, rfl, rfl, rfl, fun _ => rfl⟩

theorem keepsFreeze_noteFreeze (s : State) (c : Nat) (cores : List Nat) : KeepsFreeze s (s.noteFreeze c cores) := by
  rw [State.noteFreeze]
  exact ((keepsFreeze_modCtx ..).trans (keepsFreeze_pauseWatch ..)).trans (memOnly_logFreeze ..).keepsFreeze

theorem noteFreeze_crewNo (s : State) (c : Nat) (cores : List Nat) (r : PathRef) : (s.noteFreeze c cores).crewNo r = s.crewNo r :=
  (memOnly_logFreeze ..).crewNo r

theorem KeepsFreeze.crew (h : KeepsFreeze s t) (n : Nat) : t.crew n = s.crew n := by
  rw [State.crew, State.crew, h.crews]

/-- What the crews' stop keeps, and that the context is frozen. -/
theorem stopCrews_keeps (s : State) (c : Nat) : (s.stopCrews c).frzReqs = s.frzReqs ∧ (s.stopCrews c).frzCtx = s.frzCtx ∧
    (s.stopCrews c).tsc = s.tsc ∧ ((s.stopCrews c).ctx c).frozen = true ∧ ∀ r, (s.stopCrews c).crewNo r = s.crewNo r := by
  have stop := (freezeCores (s.coresOfCtx c) fun k => frozenOn_markFrozen (s := s) (c := c)).1
  obtain ⟨l, hl⟩ := stop.frame
  refine ⟨hl.frzReqs, by rw [State.stopCrews, hl.frame]; rfl, hl.tsc, ?_, fun r => hl.crewNo r⟩
  rw [State.stopCrews, stop.ctx, State.markFrozen, State.modCtx, State.ctx_setCtx, if_pos rfl]

/-- A freeze takes effect: the context is frozen, and no path of it is ready (R461). -/
theorem freezeTakesEffect {c : Nat} {q : FrzReq} (find : (s.frzReqs.find? fun q => q.ctx == c && !q.thaw) = some q)
    (free : (s.ctx c).frozen = false) :
    ∃ t, exec (.freezeTakesEffect c) s = .next t ∧ t.frzReqs = s.frzReqs.erase q ∧ t.frzCtx = c ∧ s.tsc ≤ t.tsc ∧ q.due ≤ t.tsc ∧
      (t.ctx c).frozen = true ∧ ∀ r, s.ctxOf r = c → (s.crewOf r).live = true → t.isReady r = false := by
  obtain ⟨reqs, frz, past, due, ctx, grid, crew, crewNo⟩ := atFreeze_keeps s q c
  have next := freezeTakesEffect_eq find (by rw [ctx]; exact free)
  obtain ⟨reqs', frz', tsc', frozen', crewNo'⟩ := stopCrews_keeps (s.atFreeze q c) c
  have stop : ∀ n, (s.crew n).live = true → (s.grid (s.crew n).grid).ctx = c → (((s.atFreeze q c).stopCrews c).crew n).frozen = true :=
    fun n live own => stopCrews_frozen (by rw [crew]; exact live) (by rw [crew, grid]; exact own)
  generalize (s.atFreeze q c).coresOfCtx c = cores at next
  generalize s.atFreeze q c = w at *
  have note := keepsFreeze_noteFreeze (w.stopCrews c) c cores
  refine ⟨_, next, (note.reqs.trans reqs').trans reqs, (note.ctx.trans frz').trans frz, (note.tsc.trans tsc').symm ▸ past,
    (note.tsc.trans tsc').symm ▸ due, (note.frozen c).trans frozen', fun r own live => isReady_frozen ?_⟩
  rw [State.crewOf, noteFreeze_crewNo, crewNo', crewNo, note.crew]
  exact stop _ live own

/-! ### A thaw takes effect -/

theorem refreeze_frame (s : State) (k : Nat) : ∃ l, s.refreeze k = { s with crews := l } := by
  rw [State.refreeze]
  refine foldl_keeps (fun t : State => ∃ l, t = { s with crews := l }) _ _ _ (fun t x ht => ?_) ⟨s.crews, rfl⟩
  obtain ⟨l, rfl⟩ := ht
  exact ⟨_, rfl⟩

theorem refreeze_foldl_frame (l : List Nat) (s : State) : ∃ cs, l.foldl State.refreeze s = { s with crews := cs } := by
  refine foldl_keeps (fun t : State => ∃ l, t = { s with crews := l }) _ _ _ (fun t k ht => ?_) ⟨s.crews, rfl⟩
  obtain ⟨cs, rfl⟩ := ht
  obtain ⟨cs', e⟩ := refreeze_frame { s with crews := cs } k
  exact ⟨cs', e.trans rfl⟩

/-- A crew alone on its core, of a context that is not frozen, is not frozen any more. -/
theorem refreeze_alone {n : Nat} {w : Crew} (alone : s.crews = [(n, w)]) (free : (s.ctx (s.grid w.grid).ctx).frozen = false) :
    ((s.refreeze w.core).crew n).frozen = false := by
  have on : s.crewsOn w.core = [(n, w)] := by
    rw [State.crewsOn, alone, List.filter_cons, if_pos (beq_self_eq_true _), List.filter_nil]
  have none : ((s.crewsOn w.core).any fun c => c.2.live && (s.ctx (s.grid c.2.grid).ctx).frozen) = false := by
    rw [on, List.any_cons, free, Bool.and_false, List.any_nil, Bool.or_false]
  rw [State.refreeze, none, on, List.foldl_cons, List.foldl_nil, State.crew_modCrew, if_pos rfl]

/-- The context of a thaw is marked running. -/
def State.markThawed (s : State) (c : Nat) : State := s.modCtx c fun x => { x with frozen := false, sharedFreeze := false }

/-- The frozen crews are looked at again. -/
def State.restart (s : State) : State := ((s.crews.filter fun x => x.2.frozen).map fun x => x.2.core).eraseDups.foldl State.refreeze s

theorem restart_alone {n : Nat} {w : Crew} (alone : s.crews = [(n, w)]) (free : (s.ctx (s.grid w.grid).ctx).frozen = false) :
    (s.restart.crew n).frozen = false := by
  rw [State.restart, alone, List.filter_cons, List.filter_nil]
  cases hf : w.frozen with
  | false =>
    rw [if_neg Bool.false_ne_true]
    change (Store.get Crew.none s.crews n).frozen = false
    rw [alone, Store.get, if_pos rfl]
    exact hf
  | true =>
    rw [if_pos rfl]
    exact refreeze_alone alone free

theorem keepsFreeze_unpause (s : State) (c n : Nat) : KeepsFreeze s (s.unpause c n) := ⟨rfl, rfl, rfl, rfl, fun _ => rfl⟩

theorem thawTakesEffect_eq {c : Nat} {q : FrzReq} (find : (s.frzReqs.find? fun q => q.ctx == c && q.thaw) = some q)
    (frozen : (((s.passTo q.due).takeRequest q c).ctx c).frozen = true) :
    exec (.thawTakesEffect c) s = .next ((((((s.passTo q.due).takeRequest q c).markThawed c).restart.unpause c
      (((s.passTo q.due).takeRequest q c).ctx c).frozenAt).acceptHeld c).logFreeze c true) := by
  change execThawTakesEffect c s = _
  rw [execThawTakesEffect, find]
  dsimp only
  generalize s.passTo q.due = u at frozen ⊢
  exact if_neg (by change ¬ (!((u.takeRequest q c).ctx c).frozen) = true; rw [frozen]; exact Bool.false_ne_true)

/-- The state that a thaw leaves, from the state at its tick. -/
def State.thawedFrom (u : State) (q : FrzReq) (c : Nat) : State :=
  (((((u.takeRequest q c).markThawed c).restart.unpause c ((u.takeRequest q c).ctx c).frozenAt).acceptHeld c)).logFreeze c true

theorem thawedFrom_keeps (passed : OnlyTime s u) (q : FrzReq) (c : Nat) :
    (u.thawedFrom q c).frzReqs = s.frzReqs.erase q ∧ (u.thawedFrom q c).frzCtx = c ∧ (u.thawedFrom q c).tsc = u.tsc ∧
      ((u.thawedFrom q c).ctx c).frozen = false ∧
      ∀ n w, s.crews = [(n, w)] → (s.grid w.grid).ctx = c → ((u.thawedFrom q c).crew n).frozen = false := by
  have thawed : (((u.takeRequest q c).markThawed c).ctx c).frozen = false := by
    rw [State.markThawed, State.modCtx, State.ctx_setCtx, if_pos rfl]
  obtain ⟨cs, frame⟩ := refreeze_foldl_frame (((((u.takeRequest q c).markThawed c).crews.filter fun x => x.2.frozen).map fun x => x.2.core).eraseDups)
    ((u.takeRequest q c).markThawed c)
  have keeps := ((keepsFreeze_unpause ((u.takeRequest q c).markThawed c).restart c ((u.takeRequest q c).ctx c).frozenAt).trans
    (keepsFreeze_acceptHeld _ c)).trans (memOnly_logFreeze _ c true).keepsFreeze
  change ((u.takeRequest q c).markThawed c).restart = _ at frame
  refine ⟨keeps.reqs.trans ?_, keeps.ctx.trans ?_, keeps.tsc.trans ?_, (keeps.frozen c).trans ?_, fun n w alone own => (?_ : Crew.frozen _ = false)⟩
  · rw [frame]
    exact congrArg (List.erase · q) passed.frzReqs
  · rw [frame]
    rfl
  · rw [frame]
    rfl
  · rw [frame]
    exact thawed
  · rw [State.thawedFrom, keeps.crew]
    refine restart_alone (n := n) (w := w) (passed.crews.trans alone) ?_
    change (((u.takeRequest q c).markThawed c).ctx (u.grid w.grid).ctx).frozen = false
    rw [passed.grid, own]
    exact thawed

theorem takeRequest_ctx (s : State) (q : FrzReq) (c k : Nat) : (s.takeRequest q c).ctx k = s.ctx k := rfl

/-- A thaw takes effect: the context runs, and so does a crew of it that is alone (R462). -/
theorem thawTakesEffect {c : Nat} {q : FrzReq} (find : (s.frzReqs.find? fun q => q.ctx == c && q.thaw) = some q)
    (frozen : (s.ctx c).frozen = true) :
    ∃ t, exec (.thawTakesEffect c) s = .next t ∧ t.frzReqs = s.frzReqs.erase q ∧ t.frzCtx = c ∧ s.tsc ≤ t.tsc ∧ q.due ≤ t.tsc ∧
      (t.ctx c).frozen = false ∧ ∀ n w, s.crews = [(n, w)] → (s.grid w.grid).ctx = c → (t.crew n).frozen = false := by
  have passed := onlyTime_passTo s q.due
  obtain ⟨past, due⟩ := le_passTo s q.due
  obtain ⟨reqs, frz, tsc, free, alone⟩ := thawedFrom_keeps passed q c
  exact ⟨_, thawTakesEffect_eq find (by rw [takeRequest_ctx, passed.ctx]; exact frozen), reqs, frz, past.trans_eq tsc.symm,
    due.trans_eq tsc.symm, free, alone⟩

/-! ### Requests, checkpoints and the scan path -/

theorem frz_row (boot : s.boot = 2) (val : Nat) :
    s.csrWrite port0 0x4060 0 val = s.frzRequest 586 0x4060 none (val % 2 ^ 20) (val.testBit 20) :=
  csrWrite_row rfl boot rfl (by decide)

theorem ice_row (boot : s.boot = 2) (val : Nat) : s.csrWrite port0 0x4073 0 val = s.iceStart 586 none (val % 2 ^ 20) :=
  csrWrite_row rfl boot rfl (by decide)

/-- A context number and the bit of a thaw, taken apart again. -/
theorem frzValue {c : Nat} (hc : c < 2 ^ 20) : c % 2 ^ 20 % 2 ^ 20 = c ∧ (c % 2 ^ 20).testBit 20 = false ∧
    (c % 2 ^ 20 + 2 ^ 20) % 2 ^ 20 = c ∧ (c % 2 ^ 20 + 2 ^ 20).testBit 20 = true := by
  rw [Nat.mod_eq_of_lt hc, Nat.add_mod_right, Nat.mod_eq_of_lt hc]
  refine ⟨rfl, Nat.testBit_lt_two_pow hc, rfl, ?_⟩
  rw [Nat.add_comm, Nat.testBit_two_pow_add_eq, Nat.testBit_lt_two_pow hc]
  rfl

/-- What the writes of an event to the log leave of a register that is none of the log's. -/
theorem csrGet_csrPut_other (s : State) {a b : Nat} (v : DWord) (h : b ≠ a) : (s.csrPut a 0 v).csrGet b 0 = s.csrGet b 0 := by
  rw [State.csrGet_csrPut, if_neg]
  simp only [csrKey]
  omega

theorem putBytes_csrGet (s : State) (k b : Nat) (bs : List Byte) : (s.putBytes k bs).csrGet b 0 = s.csrGet b 0 := rfl

/-- What every write of a ring keeps is kept by making room in it. -/
theorem makeRoom_keeps {put : State → Nat → List Byte → State} {P : State → Prop} (hp : ∀ s k bs, P s → P (put s k bs)) (at' : Nat → Nat)
    (m : Nat) (later : State → Nat → Bool) (j i : Nat) (s : State) (h : P s) : P (makeRoom put at' m later j i s).1 := by
  induction j generalizing i s with
  | zero => exact h
  | succ j ih =>
    rw [makeRoom]
    split
    · exact ih _ _ (hp _ _ _ h)
    · exact h

theorem makeRoom_csrGet (at' : Nat → Nat) (m : Nat) (later : State → Nat → Bool) (j i b : Nat) (s : State) :
    (makeRoom State.putBytes at' m later j i s).1.csrGet b 0 = s.csrGet b 0 :=
  makeRoom_keeps (P := fun t => t.csrGet b 0 = s.csrGet b 0) (fun t k bs h => (putBytes_csrGet t k b bs).trans h) at' m later j i s rfl

theorem logEvent_csrGet (s : State) (src code cls : Nat) (ctx : Option Nat) (detail : List Byte) {b : Nat} (h0 : b ≠ 0x4052)
    (h1 : b ≠ 0x4054) : (s.logEvent src code cls ctx detail).csrGet b 0 = s.csrGet b 0 := by
  rw [State.logEvent]
  dsimp only
  split
  · rfl
  · split
    · exact csrGet_csrPut_other _ _ h1
    · exact ((csrGet_csrPut_other _ _ h0).trans (putBytes_csrGet ..)).trans (makeRoom_csrGet ..)

/-- The scan path's offset goes on by 8 (R463). -/
def scanNext (sel : Nat) : Nat := sel / 2 ^ 32 * 2 ^ 32 + (sel % 2 ^ 32 + 8) % 2 ^ 32

theorem scanNext_toNat (v : DWord) : (BitVec.ofNat 64 (scanNext v.toNat)).toNat = scanNext v.toNat := by
  rw [BitVec.toNat_ofNat]
  refine Nat.mod_eq_of_lt ?_
  have := v.isLt
  rw [scanNext]
  omega

/-- The scan path's offset stored. -/
def State.scanStep (s : State) : State := s.csrPut 0x4068 0 (BitVec.ofNat 64 (scanNext (s.csrGet 0x4068 0).toNat))

theorem scanStep_csrGet (s : State) : (s.scanStep.csrGet 0x4068 0).toNat = scanNext (s.csrGet 0x4068 0).toNat := by
  rw [State.scanStep, State.csrGet_csrPut_same, scanNext_toNat]

theorem scanRead_none (src : Nat) (who : Option Nat) (h : s.scanCrew = none ∨
      ∃ n, s.scanCrew = some n ∧ (s.scanImage n).length ≤ (s.csrGet 0x4068 0).toNat % 2 ^ 32) :
    s.scanRead src who = (s.scanStep.logRefused src who 0x4069 0, 0) := by
  rw [State.scanRead]
  rcases h with none | ⟨n, some, short⟩
  · rw [none]
    rfl
  · rw [some]
    exact if_pos short

theorem scanRead_some (src : Nat) (who : Option Nat) {n : Nat} (h : s.scanCrew = some n)
    (h' : (s.csrGet 0x4068 0).toNat % 2 ^ 32 < (s.scanImage n).length) :
    s.scanRead src who = (s.scanStep, BitVec.ofNat 64 (leNat (((s.scanImage n).drop ((s.csrGet 0x4068 0).toNat % 2 ^ 32)).take 8))) := by
  rw [State.scanRead, h]
  exact if_neg (Nat.not_le.2 h')

/-- A read of SCANDATA by a host shows what the scan path gives. -/
theorem scandata_eq {x : State} {v : DWord} (h : s.scanRead 586 none = (x, v)) :
    exec .scandata s = .next { x with out := x.out ++ [.barRead 0 0x4069 v] } := by
  change execScandata s = _
  rw [execScandata, h]

theorem MemOnly.out (h : MemOnly s t) : t.out = s.out := by rw [h.frame]

theorem memOnly_logRefused (s : State) (src : Nat) (ctx : Option Nat) (addr val : Nat) : MemOnly s (s.logRefused src ctx addr val) :=
  memOnly_logEvent ..

theorem scanStep_out (s : State) : s.scanStep.out = s.out := State.csrPut_out ..
theorem scanStep_basis (s : State) : s.scanStep.basis = s.basis := csrPut_basis ..
theorem csrGet_with_out (s : State) (l : List OutMsg) (a u : Nat) : ({ s with out := l } : State).csrGet a u = s.csrGet a u := rfl
theorem basis_with_out (s : State) (l : List OutMsg) : ({ s with out := l } : State).basis = s.basis := rfl

/-- Settles O47: freezes and thaws, checkpoints and the scan path. -/
theorem freezeAndCapture : Obligations.FreezeAndCapture := by
  intro s c
  dsimp only
  refine ⟨fun boot valid hc => ?_, fun q find free => ?_, fun q find frozen => ?_, fun boot frozen idle hc => ?_, fun boot free hc => ?_,
    fun ice => ⟨?_, ?_⟩, fun src data hsrc => ?_, fun bad => ?_, fun n crew inside => ?_⟩
  · obtain ⟨ctx, freeze, ctx', thaw⟩ := frzValue hc
    constructor
    · change Host.Outcome.next (s.csrWrite port0 0x4060 0 (c % 2 ^ 20)) = _
      rw [frz_row boot, ctx, freeze, State.frzRequest, if_pos valid]
    · change Host.Outcome.next (s.csrWrite port0 0x4060 0 (c % 2 ^ 20 + 2 ^ 20)) = _
      rw [frz_row boot, ctx', thaw, State.frzRequest, if_pos valid]
  · simp only [beq_false] at find
    obtain ⟨t, next, reqs, frz, past, due, now, ready⟩ := freezeTakesEffect find free
    exact ⟨t, next, reqs, frz, past, due, now, fun _ => ready, fun thaw => Bool.noConfusion thaw⟩
  · simp only [beq_true] at find
    obtain ⟨t, next, reqs, frz, past, due, now, alone⟩ := thawTakesEffect find frozen
    exact ⟨t, next, reqs, frz, past, due, now, fun thaw => Bool.noConfusion thaw, fun _ _ n w one _ own => alone n w one own⟩
  · change Host.Outcome.next (s.csrWrite port0 0x4073 0 (c % 2 ^ 20)) = _
    rw [ice_row boot, (frzValue hc).1, State.iceStart, frozen, if_neg]
    simpa using idle
  · change Host.Outcome.next (s.csrWrite port0 0x4073 0 (c % 2 ^ 20)) = _
    rw [ice_row boot, (frzValue hc).1, State.iceStart, free, if_pos]
    exact Bool.true_or _
  · change execIceboxFinished true s = _
    rw [execIceboxFinished, ice]
    rfl
  · refine ⟨openBytes (2 ^ 41 + s.fresh) 8, by rw [openBytes, List.length_map, List.length_range], ?_⟩
    change execIceboxFinished false s = _
    rw [execIceboxFinished, ice]
    rfl
  · change execCheckpointStream src data s = _
    rw [execCheckpointStream]
    simp only [Bool.and_eq_true, beq_iff_eq, and_assoc, BitVec.getLsbD]
    split <;> rfl
  · refine ⟨_, scandata_eq (scanRead_none 586 none bad), ?_, ?_⟩
    · exact congrArg (· ++ [OutMsg.barRead 0 0x4069 0]) ((memOnly_logRefused ..).out.trans (scanStep_out s))
    · rw [csrGet_with_out, State.logRefused, logEvent_csrGet _ _ _ _ _ _ (by decide) (by decide), scanStep_csrGet]
      rfl
  · refine ⟨_, scandata_eq (scanRead_some 586 none crew inside), congrArg (· ++ _) (scanStep_out s), ?_,
      memByte_of_basis ((basis_with_out ..).trans (scanStep_basis s))⟩
    rw [csrGet_with_out, scanStep_csrGet]
    rfl

end Sys2Proof.Machine
end

section
/-! SUPPORT. Semaphores where the tick's part has run over (R412, R144). -/

namespace Sys2Proof.Machine

/-! ### A tick that has run over -/

/-- A device that runs, whose part of a tick has come to two whole ticks, and a port's read of semaphore 0 in tick 0. -/
def overrunTick : State :=
  { State.reset with boot := 2, sub := 2 * tickParts, semReqs := [⟨.port0, 0, false, 0, 0, none⟩] }

/-- The request is served, and the TSC goes on by the two ticks that had run over. -/
theorem overrunTick_tsc : (match exec .semaphoreTickServe overrunTick with | .next t => t.tsc | _ => 0) = 2 := by decide +kernel

/-- Refutes O48: where the part of the tick is not less than a whole tick, serving the requests of tick 0 carries the TSC
to 2, not to 1. -/
theorem not_semaphores : ¬ Obligations.Semaphores := by
  intro holds
  obtain ⟨-, -, read, -⟩ := holds overrunTick .port0 0 (by decide) rfl
  obtain ⟨t, next, -, tsc, -⟩ := read rfl
  have two := overrunTick_tsc
  rw [next] at two
  exact absurd (two.symm.trans tsc) (by decide)

end Sys2Proof.Machine
end

section
/-! SUPPORT. The issue of engine commands (R308, R321, R341), of copies and collectives (R325, R329, R330), and of KV and
sampler commands (R350, R362). -/

namespace Sys2Proof.Machine

variable {s u t : State} {r : PathRef} {i : Instr} {tag : BitVec 6}

/-! ### What every command checks -/

/-- A command whose tag is not held takes an engine fault. -/
theorem engineIssue_unheld (h : (s.crewOf r).tags.getLsbD tag.toNat = false) (k : State → State) :
    s.engineIssue r tag k = s.takeStop r { cause := 18, sub := 1 } := if_pos (by rw [h]; rfl)

theorem engineIssue_goes (held : (s.crewOf r).tags.getLsbD tag.toNat = true) (goes : ReleaseGoes s r true .crew u) (k : State → State) :
    s.engineIssue r tag k = if 64 ≤ u.queueLen (u.coreOf r) then u.waitFor r .room else k u :=
  (if_neg (by rw [held]; exact Bool.false_ne_true)).trans (releaseOf goes _)

/-- A command that is submitted goes on from the state its release leaves. -/
theorem submits_next (h : Submits s u r tag) (k : State → State) : s.engineIssue r tag k = k u :=
  (engineIssue_goes h.held h.goes k).trans (if_neg (Nat.not_le.2 h.room))

theorem slotIf_ok {hold : Bool} (h : hold = true → ∃ f, (s.path r).slot = .ok f) (k : Option Nat → State) :
    ∃ f, s.slotIf r hold k = k f := by
  cases hold with
  | false => exact ⟨none, rfl⟩
  | true =>
    obtain ⟨f, slot⟩ := h rfl
    exact ⟨some f, (if_pos rfl).trans (State.withSlot_ok slot _)⟩

/-- Each engine command issues by the same check, for what it does then. -/
theorem command_issues (h : Issuing s r) {d a : SReg} {sp hold : Bool} (slot : hold = true → ∃ f, (s.path r).slot = .ok f) :
    ∀ i ∈ [Instr.cpy d a sp hold tag, .cpyx d a hold tag, .gath a tag, .kvap a tag, .kvseal a tag, .kvcopy a tag, .smpl d a tag, .coll a tag],
      ∃ k, exec i s = .next (s.engineIssue r tag k) := by
  have copies : ∀ (i : Instr) (k : PathRef → Option Nat → State → State),
      exec i s = issued s (fun r => s.slotIf r hold fun f => s.engineIssue r tag (k r f)) →
      ∃ k, exec i s = .next (s.engineIssue r tag k) := fun i k e => by
    obtain ⟨f, goes⟩ := slotIf_ok slot fun f => s.engineIssue r tag (k r f)
    exact ⟨k r f, e.trans ((issued_next h _).trans (congrArg _ goes))⟩
  simp only [List.forall_mem_cons, List.not_mem_nil, false_implies, implies_true, and_true]
  exact ⟨copies _ _ rfl, copies _ _ rfl, ⟨_, issued_next h _⟩, ⟨_, issued_next h _⟩, ⟨_, issued_next h _⟩, ⟨_, issued_next h _⟩,
    ⟨_, issued_next h _⟩, ⟨_, issued_next h _⟩⟩

theorem engineIssueChecks : Rules.EngineIssueChecks := by
  intro s u r d a tag sp hold h slot
  refine ⟨fun none i hi => ?_, fun held goes full i hi => ?_⟩
  · obtain ⟨k, issues⟩ := command_issues h slot i hi
    rw [issues, engineIssue_unheld none]
  · obtain ⟨k, issues⟩ := command_issues h slot i hi
    rw [issues, engineIssue_goes held goes, if_pos full]

/-! ### Reads of a structure at issue -/

theorem withRead_ok {α : Type} {x : Except RdErr α} {v : α} (h : x = .ok v) (k : α → State) : s.withRead r x k = k v := by
  rw [h]
  rfl

theorem readUnits_ok {v : View} {p n : Nat} {va : DWord} {w : List Nat} (h : s.vUnits v p n va = .ok w) (k : State → List Nat → State) :
    s.readUnits r v p n va k = k (s.vUse v va (p * n)) w := withRead_ok h _

theorem alignedTo_ok {n : Nat} {va : DWord} (h : va.toNat % n = 0) (k : State) : s.alignedTo r n va k = k := if_pos h

/-- A read of a structure uses its versioned copies, and what other cores hold dirty of it is recalled (R67, R83). -/
theorem vUse_frame (s : State) (v : View) (va : DWord) (n : Nat) : ∃ a b, s.vUse v va n = { s with vspans := a, l1own := b } := by
  rw [State.vUse]
  split
  · exact ⟨s.vspans, s.l1own, rfl⟩
  · refine foldl_keeps (fun t : State => ∃ a b, t = { s with vspans := a, l1own := b }) _ _ _ (fun t i ht => ?_) ⟨s.vspans, s.l1own, rfl⟩
    obtain ⟨a, b, rfl⟩ := ht
    split
    · rw [State.recallBut, State.useSpans]
      split
      · split <;> exact ⟨_, _, rfl⟩
      · split <;> exact ⟨_, _, rfl⟩
    · exact ⟨a, b, rfl⟩

theorem usedAll_frame (s : State) (v : View) (l : List (DWord × Nat)) : ∃ a b, s.usedAll v l = { s with vspans := a, l1own := b } := by
  refine foldl_keeps (fun t : State => ∃ a b, t = { s with vspans := a, l1own := b }) _ l s (fun t y ht => ?_) ⟨s.vspans, s.l1own, rfl⟩
  obtain ⟨a, b, rfl⟩ := ht
  obtain ⟨a', b', e⟩ := vUse_frame { s with vspans := a, l1own := b } v y.1 y.2
  exact ⟨a', b', e⟩

theorem usedAll_rank (s : State) (v : View) (l : List (DWord × Nat)) : (s.usedAll v l).rank = s.rank := by
  obtain ⟨a, b, e⟩ := usedAll_frame s v l
  rw [e]
  rfl

/-! ### Copies -/

/-- A copy is queued, or held under the first free index (R325). -/
theorem command_eq (kind : EngKind) (phase : EngPhase) : s.command r tag kind phase = {
    serial := s.nextSer, core := s.coreOf r, crew := s.crewNo r, r := r, pc := (s.path r).pc, ctx := s.ctxOf r,
    kernel := s.kernel r, dom := s.domOf r, ver := s.verOf r, tag := tag.toNat, kind := kind, phase := phase,
    err := false, asks := none, hurt := false, clear := false } := rfl

theorem submit_eq (kind : EngKind) (phase : EngPhase) : s.submit r tag kind phase = joined s r tag kind phase := by
  unfold State.submit joined
  rw [command_eq]

theorem submitCopy_queued (d : SReg) (kind : EngKind) : s.submitCopy r d tag none kind = submitted s r tag kind := by
  unfold State.submitCopy submitted
  rw [← submit_eq]

theorem submitCopy_held {i f : Nat} (free : s.freeHeld = some i) (d : SReg) (kind : EngKind) :
    s.submitCopy r d tag (some f) kind = heldUnder s r tag kind d i f := by
  unfold State.submitCopy heldUnder
  rw [← submit_eq, free]

/-- How a copy takes its slot: not at all, or, where it is held, the next of its clause. -/
def SlotTaken (s : State) (r : PathRef) : Bool → Option Nat → Prop
  | false, f => f = none
  | true, f => ∃ n, f = some n ∧ (s.path r).slot = .ok n

theorem slotIf_taken {hold : Bool} {f : Option Nat} (h : SlotTaken s r hold f) (k : Option Nat → State) : s.slotIf r hold k = k f := by
  cases hold with
  | false =>
    obtain rfl := h
    rfl
  | true =>
    obtain ⟨n, rfl, slot⟩ := h
    exact (if_pos rfl).trans (State.withSlot_ok slot _)

/-- The address of a copy's chain, and how its entries are read (R325). -/
def chainAt (sp : Bool) (va : DWord) : DWord := if sp then (va.setWidth 32).setWidth 64 else va

def State.chainRead (u : State) (r : PathRef) (sp : Bool) (y : DWord) : Except RdErr (List Nat) :=
  if sp then u.spWords (u.crewNo r) y else u.vUnits (u.viewOf r) 4 8 y

/-- The object of a signal, and its bytes. -/
def signalOf : ChainEntry → Option (DWord × Nat)
  | .signal _ obj _ => some (obj, 8)
  | _ => none

/-- What the reading of a chain uses. -/
def State.chainUsed (u : State) (r : PathRef) (sp : Bool) (va : DWord) (es : List ChainEntry) : State :=
  u.usedAll (u.viewOf r) ((if sp then [] else [(va, 32 * es.length)]) ++ es.filterMap signalOf)

section
variable {d a : SReg} {sp hold : Bool} {f : Option Nat} (h : Submits s u r tag) (slot : SlotTaken s r hold f)
include h slot

theorem cpy_unaligned (far : (chainAt sp (u.sget r a)).toNat % 32 ≠ 0) :
    exec (.cpy d a sp hold tag) s = .next (u.takeStop r { cause := 4, addr := chainAt sp (u.sget r a) }) :=
  (issued_next h.issuing _).trans (congrArg _ ((slotIf_taken slot _).trans ((submits_next h _).trans (if_neg far))))

theorem cpy_malformed (near : (chainAt sp (u.sget r a)).toNat % 32 = 0)
    (none : State.readChain (u.chainRead r sp) 64 (chainAt sp (u.sget r a)) = .ok none) :
    exec (.cpy d a sp hold tag) s = .next (u.takeStop r { cause := 18, sub := 2 }) :=
  (issued_next h.issuing _).trans (congrArg _ ((slotIf_taken slot _).trans ((submits_next h _).trans ((if_pos near).trans
    (withRead_ok none _)))))

theorem cpy_submitted {es gs : List ChainEntry} (near : (chainAt sp (u.sget r a)).toNat % 32 = 0)
    (read : State.readChain (u.chainRead r sp) 64 (chainAt sp (u.sget r a)) = .ok (some es)) (shape : chainShape es = true)
    (sound : ∀ e i, es[i]? = some e → u.entryFault r es i e = none) (gens : u.chainGens (u.viewOf r) es = .ok gs) :
    exec (.cpy d a sp hold tag) s = .next ((u.chainUsed r sp (chainAt sp (u.sget r a)) es).submitCopy r d tag f (.chain gs)) := by
  have noFault : (es.zipIdx.findSome? fun x => u.entryFault r es x.2 x.1) = none := by
    rw [List.findSome?_eq_none_iff]
    exact fun x hx => sound x.1 x.2 (List.mem_zipIdx_iff_getElem?.1 hx)
  refine (issued_next h.issuing _).trans (congrArg _ ((slotIf_taken slot _).trans ((submits_next h _).trans ((if_pos near).trans
    ((withRead_ok read _).trans ((if_neg (by rw [shape]; exact Bool.false_ne_true)).trans ?_))))))
  rw [noFault]
  refine (withRead_ok gens _).trans ?_
  rfl
end

section
variable {d a : SReg} {hold : Bool} {f : Option Nat} {w : List Nat} (h : Submits s u r tag) (slot : SlotTaken s r hold f)
include h slot

theorem cpyx_malformed (near : (u.sget r a).toNat % 64 = 0) (read : u.vUnits (u.viewOf r) 4 16 (u.sget r a) = .ok w)
    (none : cpyxOf w = none) :
    exec (.cpyx d a hold tag) s = .next ((u.vUse (u.viewOf r) (u.sget r a) 64).takeStop r { cause := 18, sub := 3 }) := by
  refine (issued_next h.issuing _).trans (congrArg _ ((slotIf_taken slot _).trans ((submits_next h _).trans ((if_pos near).trans
    ((readUnits_ok read _).trans ?_)))))
  rw [none]

theorem cpyx_submitted {x : CpyxDesc} (near : (u.sget r a).toNat % 64 = 0) (read : u.vUnits (u.viewOf r) 4 16 (u.sget r a) = .ok w)
    (some : cpyxOf w = some x) (idx : x.idx.toNat < 2 ^ 56) (base : x.base.toNat < 2 ^ 56)
    (sound : ∀ i, i < x.count → (u.vUse (u.viewOf r) (u.sget r a) 64).placeFault r (x.line i) x.rowlen 3 = none) :
    exec (.cpyx d a hold tag) s = .next ((u.vUse (u.viewOf r) (u.sget r a) 64).submitCopy r d tag f (.indexed x)) := by
  have noFault : ((List.range x.count).findSome? fun i =>
      (u.vUse (u.viewOf r) (u.sget r a) 64).placeFault r (x.line i) x.rowlen 3) = none := by
    rw [List.findSome?_eq_none_iff]
    exact fun i hi => sound i (List.mem_range.1 hi)
  refine (issued_next h.issuing _).trans (congrArg _ ((slotIf_taken slot _).trans ((submits_next h _).trans ((if_pos near).trans
    ((readUnits_ok read _).trans ?_)))))
  rw [some]
  dsimp only
  rw [noFault]
  refine (if_neg (not_not.2 ?_)).trans (if_neg (not_not.2 ?_))
  · exact Nat.div_eq_of_lt idx
  · exact Nat.div_eq_of_lt base
end

section
variable {a : SReg} {w : List Nat} (h : Submits s u r tag)
include h

theorem coll_speculative (ver : u.verOf r ≠ 0) : exec (.coll a tag) s = .next (u.takeStop r { cause := 12 }) :=
  (issued_next h.issuing _).trans (congrArg _ ((submits_next h _).trans (if_pos ver)))

/-- A collective reads its descriptor, its group and its object's word, and joins the queue (R330). -/
theorem coll_submitted {group : List Nat} {c : CollDesc} {o : Nat} (ver : u.verOf r = 0) (near : (u.sget r a).toNat % 64 = 0)
    (read : u.vUnits (u.viewOf r) 4 16 (u.sget r a) = .ok w) (two : 2 ≤ w.getD 8 0) (most : w.getD 8 0 ≤ 4096)
    {t t' : State} (ht : u.vUse (u.viewOf r) (u.sget r a) 64 = t) (ht' : t.vUse (u.viewOf r) (quadAt w 6) (4 * w.getD 8 0) = t')
    (nearGroup : (quadAt w 6).toNat % 4 = 0) (nearObj : (quadAt w 10).toNat % 8 = 0)
    (readGroup : t.vUnits (u.viewOf r) 4 (w.getD 8 0) (quadAt w 6) = .ok group)
    (readObj : if quadAt w 10 = 0 then o = 0 else t'.vNat (u.viewOf r) 8 (quadAt w 10) = .ok o)
    (isColl : collOf w group t'.rank (objGen o) = some c) :
    exec (.coll a tag) s = .next (submitted (t'.usedAll (u.viewOf r) (objRange (quadAt w 10))) r tag (.coll c [])) := by
  have word : (if quadAt w 10 = 0 then .ok 0 else t'.vNat (u.viewOf r) 8 (quadAt w 10) : Except RdErr Nat) = .ok o := by
    split at readObj
    next none => rw [if_pos none, readObj]
    next obj => rw [if_neg obj, readObj]
  have fits : (decide (w.getD 8 0 < 2) || decide (4096 < w.getD 8 0) || decide ((quadAt w 6).toNat % 4 ≠ 0) ||
      decide ((quadAt w 10).toNat % 8 ≠ 0)) = false := by
    rw [decide_eq_false (Nat.not_lt.2 two), decide_eq_false (Nat.not_lt.2 most), decide_eq_false (not_not.2 nearGroup),
      decide_eq_false (not_not.2 nearObj)]
    rfl
  refine (issued_next h.issuing _).trans (congrArg _ ((submits_next h _).trans ((if_neg (not_not.2 ver)).trans ((if_pos near).trans
    ((readUnits_ok read _).trans ((if_neg (by exact (Bool.eq_false_iff.1 fits))).trans ?_))))))
  rw [ht]
  refine (readUnits_ok readGroup _).trans ?_
  rw [ht']
  refine (withRead_ok word _).trans ?_
  change (match collOf w group (t'.usedAll (u.viewOf r) (objRange (quadAt w 10))).rank (objGen o) with
    | none => _
    | some c => _) = _
  rw [usedAll_rank, isColl, submitted, ← submit_eq]
  rfl
end

theorem copiesSubmitted : Rules.CopiesSubmitted := by
  intro s u r d a tag h
  dsimp only
  refine ⟨fun sp => ⟨fun far => cpy_unaligned h (hold := false) (f := none) rfl far, fun near => ⟨fun bad => cpy_malformed h (hold := false) (f := none) rfl near bad, fun es gs read shape sound gens =>
    ⟨?_, fun f i slot free => ?_⟩⟩⟩, fun w near read => ⟨fun bad => cpyx_malformed h (hold := false) (f := none) rfl near read bad, fun x isDesc idx base sound =>
    ⟨?_, fun f i slot free => ?_⟩⟩, fun ver => coll_speculative h ver, fun w group c o ver near read two most nearGroup nearObj readGroup readObj isColl => coll_submitted h ver near read two most rfl rfl nearGroup nearObj readGroup readObj isColl⟩
  · exact (cpy_submitted h (hold := false) (f := none) rfl near read shape sound gens).trans (congrArg _ (submitCopy_queued ..))
  · exact (cpy_submitted h (hold := true) (f := some f) ⟨f, rfl, slot⟩ near read shape sound gens).trans (congrArg _ (submitCopy_held free ..))
  · exact (cpyx_submitted h (hold := false) (f := none) rfl near read isDesc idx base sound).trans (congrArg _ (submitCopy_queued ..))
  · exact (cpyx_submitted h (hold := true) (f := some f) ⟨f, rfl, slot⟩ near read isDesc idx base sound).trans (congrArg _ (submitCopy_held free ..))

/-- Settles O49: what every engine command checks, and copies and collectives. -/
theorem copiesAndCollectives : Obligations.CopiesAndCollectives := ⟨engineIssueChecks, copiesSubmitted⟩

/-! ### KV commands and `smpl` -/

theorem withUsed_ok {α : Type} {v : View} {ranges : List (DWord × Nat)} {x : Except RdErr α} {y : α} (h : x = .ok y) (k : State → α → State) :
    s.withUsed r v ranges x k = k (s.usedAll v ranges) y := withRead_ok h _

theorem usedAll_spRange (s : State) (v : View) (l : List (DWord × Nat)) (r : PathRef) (a n align : Nat) :
    (s.usedAll v l).spRange ((s.usedAll v l).crewNo r) a n align = s.spRange (s.crewNo r) a n align := by
  obtain ⟨x, y, e⟩ := usedAll_frame s v l
  rw [e]
  rfl

/-- The generation that a command takes of its object, if it names one (R323). -/
def GenOf (t : State) (v : View) (obj : DWord) (g : Nat) : Prop :=
  (obj = 0 ∧ g = 0) ∨ ∃ o, obj ≠ 0 ∧ t.vNat v 8 obj = .ok o ∧ g = objGen o

theorem genOf_read {v : View} {obj : DWord} {g : Nat} (h : GenOf t v obj g) :
    ∃ o, (if obj = 0 then .ok 0 else t.vNat v 8 obj : Except RdErr Nat) = .ok o ∧ objGen o = g ∧
      (if obj = 0 then 0 else objGen o) = g := by
  rcases h with ⟨none, rfl⟩ | ⟨o, obj, read, rfl⟩
  · exact ⟨0, if_pos none, rfl, if_pos none⟩
  · exact ⟨o, (if_neg obj).trans read, rfl, if_neg obj⟩

/-- The source record of a KV command: what `kvcopy` reads, and none of another (R357). -/
def SourceRead (t : State) (v : View) (op : KvOp) (at' : DWord) (tw : List Nat) (src : Option SeqRec) : Prop :=
  (op ≠ .kvcopy ∧ tw = [] ∧ src = seqOf' []) ∨
  (op = .kvcopy ∧ at'.toNat % 64 = 0 ∧ t.vUnits v 4 16 at' = .ok tw ∧ src = seqOf' tw ∧ src.isSome = true)

theorem kvIssue_submitted (h : Submits s u r tag) {op : KvOp} {a : SReg} {w sw tw : List Nat} {sq : SeqRec} {src : Option SeqRec}
    {g : Nat} {c : KvCmd} {block seq t : State}
    (hblock : u.vUse (u.viewOf r) (u.sget r a) 64 = block) (hseq : block.vUse (u.viewOf r) (quadAt w 0) 64 = seq)
    (ht : (if op = .kvcopy then seq.vUse (u.viewOf r) (quadAt w 8) 64 else seq) = t)
    (near : (u.sget r a).toNat % 64 = 0) (read : u.vUnits (u.viewOf r) 4 16 (u.sget r a) = .ok w)
    (nearSeq : (quadAt w 0).toNat % 64 = 0) (nearObj : (quadAt w 12).toNat % 8 = 0)
    (readSeq : block.vUnits (u.viewOf r) 4 16 (quadAt w 0) = .ok sw) (isSeq : seqOf' sw = some sq)
    (source : SourceRead seq (u.viewOf r) op (quadAt w 8) tw src) (gen : GenOf t (u.viewOf r) (quadAt w 12) g)
    (isKv : kvOf op (u.sget r a) w sq src g = some c)
    (data : c.dsp = true → ∃ p, t.spRange (t.crewNo r) (c.data.toNat % 2 ^ 32) c.dataLen 1 = .ok p) :
    s.kvIssue r op a tag = submitted (t.usedAll (u.viewOf r) (objRange (quadAt w 12))) r tag (.kv c) := by
  obtain ⟨o, word, -, isGen⟩ := genOf_read gen
  have srcEq : seqOf' tw = src := by
    rcases source with ⟨-, rfl, rfl⟩ | ⟨-, -, -, rfl, -⟩ <;> rfl
  have nearSrc : (if op == .kvcopy then quadAt w 8 else 0 : DWord).toNat % 64 = 0 := by
    rcases source with ⟨other, -, -⟩ | ⟨rfl, near, -⟩
    · rw [if_neg (by rw [beq_iff_eq]; exact other)]
      rfl
    · exact near
  have readSrc : (if op == .kvcopy then seq.vUnits (u.viewOf r) 4 16 (quadAt w 8) else .ok []) = (.ok tw : Except RdErr (List Nat)) := by
    rcases source with ⟨other, rfl, -⟩ | ⟨rfl, -, read, -⟩
    · rw [if_neg (by rw [beq_iff_eq]; exact other)]
    · exact read
  have used : seq.usedAll (u.viewOf r) (if op == .kvcopy then [(quadAt w 8, 64)] else []) = t := by
    rw [← ht]
    cases op <;> rfl
  have hasSrc : (op == .kvcopy && src.isNone) = false := by
    rcases source with ⟨other, -⟩ | ⟨rfl, -, -, -, isSrc⟩
    · rw [beq_eq_false_iff_ne.2 other, Bool.false_and]
    · rw [Option.isNone_eq_false_iff.2 isSrc, Bool.and_false]
  have range : (if c.dsp && (op == .gath || op == .kvap) then
      (t.spRange (t.crewNo r) (c.data.toNat % 2 ^ 32) c.dataLen 1).map fun _ => () else .ok ()) = .ok () := by
    split
    next isDsp =>
      obtain ⟨p, e⟩ := data (Bool.and_elim_left isDsp)
      rw [e]
      rfl
    next => rfl
  refine (submits_next h _).trans ((alignedTo_ok near _).trans ((readUnits_ok read _).trans ((alignedTo_ok nearSeq _).trans
    ((alignedTo_ok nearSrc _).trans ((if_neg (not_not.2 nearObj)).trans ?_)))))
  rw [hblock]
  refine (readUnits_ok readSeq _).trans ?_
  rw [hseq]
  refine (withUsed_ok readSrc _).trans ?_
  rw [used]
  refine (withUsed_ok word _).trans ?_
  rw [isSeq, srcEq]
  dsimp only
  rw [hasSrc, isGen, isKv]
  dsimp only
  rw [usedAll_spRange, range, submitted, ← submit_eq]
  rfl

theorem smpl_submitted (h : Submits s u r tag) {d a : SReg} {w : List Nat} {chain : List Stage} {slots : List SlotRec} {g es : Nat}
    {off : Nat × Nat} {t t' : State} (hes : (if (w.getD 6 0).testBit 0 then 2 else 4) = es)
    (ht : u.vUse (u.viewOf r) (u.sget r d) 64 = t) (ht' : t.vUse (u.viewOf r) (quadAt w 2) (64 * w.getD 0 0) = t')
    (near : (u.sget r d).toNat % 64 = 0)
    (range : u.spRange (u.crewNo r) (((u.sget r a).setWidth 32).setWidth 64 : DWord).toNat 32 32 = .ok off)
    (here : u.elsewhere (u.viewOf r) (u.sget r d) = false) (read : u.vUnits (u.viewOf r) 4 16 (u.sget r d) = .ok w)
    (nearSlots : (quadAt w 2).toNat % 64 = 0)
    (readChain : readStages (t.spWords (t.crewNo r)) 32 (((u.sget r a).setWidth 32).setWidth 64) = .ok (some chain))
    (job : jobOk w = true) (shape : stagesOk chain = true)
    (readSlots : t.readSlots (u.viewOf r) es (w.getD 0 0) (quadAt w 2) = .ok (some slots))
    (gen : GenOf t' (u.viewOf r) (quadAt w 8) g) :
    exec (.smpl d a tag) s = .next (submitted (t'.usedAll (u.viewOf r) (objRange (quadAt w 8))) r tag (.smpl
      { job := u.sget r d, nslot := w.getD 0 0, vocab := w.getD 1 0, work := quadAt w 4, lfmt := es == 2,
        trapEmpty := (w.getD 6 0).testBit 1, obj := quadAt w 8, gen := g, scope := w.getD 10 0, chain := chain,
        slots := slots, phases := slots.map fun _ => .waiting, trapped := 0 })) := by
  obtain ⟨o, word, isGen, -⟩ := genOf_read gen
  refine (issued_next h.issuing _).trans (congrArg _ ((submits_next h _).trans ((alignedTo_ok near _).trans ?_)))
  rw [range]
  refine (if_neg (by rw [here]; exact Bool.false_ne_true)).trans ((readUnits_ok read _).trans ((alignedTo_ok nearSlots _).trans ?_))
  rw [ht]
  refine (withRead_ok readChain _).trans ((if_neg (by rw [job, shape]; exact Bool.false_ne_true)).trans ?_)
  rw [hes]
  refine (withUsed_ok readSlots _).trans ?_
  rw [show t.usedAll (u.viewOf r) [(quadAt w 2, 64 * w.getD 0 0)] = t' from ht']
  refine (withUsed_ok word _).trans ?_
  rw [isGen, submitted, ← submit_eq]

/-- Settles O50: a KV command reads its block and records, and `smpl` its job block, chain and slot records, and they join the
queue as that snapshot. -/
theorem kvAndSamplerSubmitted : Obligations.KvAndSamplerSubmitted := by
  intro s u r d a tag h
  dsimp only
  refine ⟨fun op w sw tw sq src g c near read nearSeq nearObj readSeq isSeq source gen isKv data => ?_,
    fun w chain slots g off near range here read nearSlots readChain job shape readSlots gen =>
      smpl_submitted h rfl rfl rfl near range here read nearSlots readChain job shape readSlots gen⟩
  obtain ⟨tw', source'⟩ : ∃ tw', SourceRead _ (u.viewOf r) op (quadAt w 8) tw' src := by
    rcases source with ⟨other, none⟩ | copy
    · exact ⟨[], .inl ⟨other, rfl, none⟩⟩
    · exact ⟨tw, .inr copy⟩
  have issues := kvIssue_submitted h rfl rfl rfl near read nearSeq nearObj readSeq isSeq source' gen isKv data
  cases op <;> exact (issued_next h.issuing _).trans (congrArg _ issues)

end Sys2Proof.Machine
end

section
/-! SUPPORT. Arrivals of a view whose core's status register has the number of another register (R324, R399). -/

namespace Sys2Proof.Machine
open Sys2Proof.Tests

/-! ### A core number beyond the cores -/

/-- The number of a core whose engine status has the place of the event ring's PIDX. -/
def farCore : Nat := (0x4052 - 0x1004) * 1024

/-- A bench with an object of one count and generation 0, whose event ring has 16 places. -/
def loggedObject : State :=
  { (words 0x2000 [1, 0] (bn 0)).csrPut 0x4051 0 16 with tlb := [⟨farCore, 0, 0, 2 ^ 20, 0, false, false, false, 0xF⟩] }

/-- The bench's view, of the far core. -/
def farView : View := { loggedObject.viewOf r0 with core := farCore }

theorem farView_reaches : loggedObject.objReach farView .crew 0x2000 = .ok 0x2000 := by decide +kernel

/-- The event's record moves PIDX on to 2, and with it the bit that says STALE. -/
theorem farView_clears : (match loggedObject.objArrive farView .crew 0x2000 3 with
    | .ok t => (t.csrGet 0x1004 farCore).getLsbD 0
    | .error _ => true) = false := by decide +kernel

/-- Refutes O51: for a view whose core number is so large that the core's engine status lies in the place of PIDX, the event
that logs a stale arrival counts PIDX on, and the STALE bit is not set. -/
theorem not_enginesAtWork : ¬ Obligations.EnginesAtWork := by
  intro holds
  obtain ⟨-, arrivals, -⟩ := holds
  obtain ⟨t, arrives, stale, -⟩ := arrivals loggedObject farView .crew 0x2000 3 0x2000 (by decide +kernel) (by decide +kernel)
    (by decide +kernel) farView_reaches (by decide +kernel) (by decide +kernel)
  have clear := farView_clears
  rw [arrives] at clear
  exact Bool.false_ne_true (clear.symm.trans (stale (by decide +kernel)).1)

end Sys2Proof.Machine
end

section
/-! SUPPORT. Launches and carts (R31, R35, R40 to R42, R332, R334, R335, R422, R425). -/

namespace Sys2Proof.Machine

variable {s t u : State} {r : PathRef} {d a : SReg} {f h : Nat} {rec' : LaunchRec} {kd : KDesc}

theorem State.grid_modGrid (s : State) (k j : Nat) (g : Grid → Grid) : (s.modGrid k g).grid j = if j = k then g (s.grid k) else s.grid j :=
  State.grid_setGrid ..

theorem State.grid_modGrid_same (s : State) (k : Nat) (g : Grid → Grid) : (s.modGrid k g).grid k = g (s.grid k) :=
  (State.grid_modGrid ..).trans (if_pos rfl)

theorem State.grid_modGrid_other (s : State) {k j : Nat} (g : Grid → Grid) (h : j ≠ k) : (s.modGrid k g).grid j = s.grid j :=
  (State.grid_modGrid ..).trans (if_neg h)

/-! ### A flag of one's own -/

theorem withOwnSlot_own (h : (s.path r).slot = .ok f ∨
    ((s.path r).slot = .busy f ∧ ∀ p ∈ s.pend, p.flag = f → s.precedes r p.r p.serial = false)) (k : Nat → State) :
    s.withOwnSlot r k = k f := by
  rcases h with ok | ⟨busy, mine⟩
  · have free : s.withOwnSlot r k = s.withSlot r k := by rw [State.withOwnSlot, ok]
    exact free.trans (State.withSlot_ok ok k)
  · rw [State.withOwnSlot, busy]
    refine if_neg ?_
    rw [Bool.not_eq_true, List.any_eq_false]
    intro p hp both
    rw [Bool.and_eq_true, beq_iff_eq] at both
    exact Bool.false_ne_true ((mine p hp both.2).symm.trans both.1)

/-! ### The new grid -/

theorem startPend_crewNo (s : State) (r q : PathRef) (f : Nat) (ws : List RegWrite) (held : Bool) :
    (s.startPend r f ws none held).crewNo q = s.crewNo q := by
  rw [show (s.startPend r f ws none held).crewNo q = ((s.takeSlot r).setFlag r f).crewNo q from rfl, State.setFlag,
    State.crewNo_modPath, State.takeSlot, State.crewNo_modPath]

theorem startPend_gridOf (s : State) (r : PathRef) (f : Nat) (ws : List RegWrite) (held : Bool) :
    (s.startPend r f ws none held).gridOf r = s.gridOf r :=
  congrArg (fun k => s.grid (s.crew k).grid) (startPend_crewNo ..)

theorem startPend_path (s : State) (r : PathRef) (f : Nat) (ws : List RegWrite) (held : Bool) :
    (s.startPend r f ws none held).path r =
      { s.path r with ll := (s.path r).ll + 1, flags := (s.path r).flags ||| BitVec.ofNat 12 (2 ^ f) } := by
  rw [show (s.startPend r f ws none held).path r = ((s.takeSlot r).setFlag r f).path r from rfl, State.setFlag,
    State.path_modPath_same, State.takeSlot, State.path_modPath_same]

theorem startPend_basis (s : State) (r : PathRef) (f : Nat) (ws : List RegWrite) (held : Bool) :
    (s.startPend r f ws none held).basis = s.basis := rfl

theorem addGrid_grid (s : State) (g : Grid) (k : Nat) : (s.addGrid g).1.grid k =
    if k = s.nextGrid.toNat then { g with live := true, order := s.nextSer, since := s.tsc } else s.grid k := by
  rw [← State.grid_setGrid]
  rfl

theorem addGrid_basis (s : State) (g : Grid) : (s.addGrid g).1.basis = s.basis := rfl
theorem addGrid_path (s : State) (g : Grid) (q : PathRef) : (s.addGrid g).1.path q = s.path q := rfl
theorem addGrid_next (s : State) (g : Grid) : (s.addGrid g).1.nextGrid = s.nextGrid + 1 := rfl
theorem addGrid_pend (s : State) (g : Grid) : (s.addGrid g).1.pend = s.pend := rfl
theorem addGrid_dom (s : State) (g : Grid) (n : Nat) : (s.addGrid g).1.dom n = s.dom n := rfl
theorem addGrid_ctx (s : State) (g : Grid) (n : Nat) : (s.addGrid g).1.ctx n = s.ctx n := rfl

/-- A launch's result in progress (R334). -/
def State.launching (s : State) (r : PathRef) (f : Nat) (d : SReg) (hold : Bool) : State := s.startPend r f [.s d 0] none (!hold)

/-- A launch's grid has its handle (R45). -/
def State.launched (s : State) (r : PathRef) (f : Nat) (d : SReg) (rec' : LaunchRec) (kd : KDesc) (hold : Bool) : State :=
  ((s.launching r f d hold).addGrid ((s.launching r f d hold).newGrid r rec' kd hold)).1

/-- The grid that a launch makes, as it enters. -/
def State.newcomer (s : State) (r : PathRef) (rec' : LaunchRec) (kd : KDesc) (hold : Bool) : Grid :=
  { s.newGrid r rec' kd hold with live := true, order := s.nextSer + 1, since := s.tsc }

theorem newGrid_congr (grid : t.gridOf r = s.gridOf r) (crew : t.crewNo r = s.crewNo r) (rec' : LaunchRec) (kd : KDesc) (hold : Bool) :
    t.newGrid r rec' kd hold = s.newGrid r rec' kd hold := by
  simp only [State.newGrid, State.ctxOf, State.kernel, State.domOf, State.verOf, grid, crew]

theorem launched_grid (s : State) (r : PathRef) (f : Nat) (d : SReg) (rec' : LaunchRec) (kd : KDesc) (hold : Bool) (k : Nat) :
    (s.launched r f d rec' kd hold).grid k = if k = s.nextGrid.toNat then s.newcomer r rec' kd hold else s.grid k := by
  rw [State.launched, addGrid_grid, show (s.launching r f d hold).newGrid r rec' kd hold = s.newGrid r rec' kd hold from
    newGrid_congr (startPend_gridOf ..) (startPend_crewNo ..) ..]
  rfl

theorem launched_nextGrid (hold : Bool) : (s.launched r f d rec' kd hold).nextGrid = s.nextGrid + 1 := addGrid_next ..
theorem launched_basis (hold : Bool) : (s.launched r f d rec' kd hold).basis = s.basis := (addGrid_basis ..).trans (startPend_basis ..)
theorem launched_dom (hold : Bool) (n : Nat) : (s.launched r f d rec' kd hold).dom n = s.dom n := addGrid_dom ..
theorem launched_ctx (hold : Bool) (n : Nat) : (s.launched r f d rec' kd hold).ctx n = s.ctx n := addGrid_ctx ..

theorem launched_pend (none : s.pend = []) (hold : Bool) : (s.launched r f d rec' kd hold).pend =
    [⟨s.nextSer, r, f, [.s d 0], .none, !hold, .none, 0, false, .none⟩] :=
  (addGrid_pend ..).trans (congrArg (· ++ [(⟨s.nextSer, r, f, [.s d 0], .none, !hold, .none, 0, false, .none⟩ : Pend)]) none)

theorem launched_pc (hold : Bool) (n : Nat) :
    (((s.launched r f d rec' kd hold).path r).advance n).pc = ((s.path r).advance n).pc := by
  rw [State.launched, addGrid_path, State.launching, startPend_path, Path.advance, Path.advance]
  cases hm : (s.path r).mac <;> rfl

/-- The result of a launch as it is on its way. -/
def resultOf (n : Nat) (r : PathRef) (f : Nat) (d : SReg) (x : Nat) : List Pend :=
  [⟨n, r, f, [.s d (BitVec.ofNat 64 x)], none, false, none, 0, false, none⟩]

theorem giveResult_pend {n : Nat} {held : Bool} {v : DWord} (one : t.pend = [⟨n, r, f, [.s d v], none, held, none, 0, false, none⟩])
    (h cause : Nat) (stays : Bool) :
    (t.giveResult (some n) fun _ => launchValue h cause stays).pend =
      resultOf n r f d (h + cause * 2 ^ 32 + stays.toNat * 2 ^ 40) := by
  rw [State.giveResult, one]
  simp only [List.map_cons, List.map_nil, beq_self_eq_true, if_true, resultOf, launchValue]

/-! ### Entry -/

/-- A grid enters with the dependences it has left (R334). -/
def State.counted (s : State) (h : Nat) : State := s.modGrid h fun g => { g with unmet := g.record.deps.filter fun d => !s.depMet d }

/-- The first of the causes that no placement decides, but for NOVERSION: 0 for none (R35). -/
def State.causeOf (s : State) (g : Grid) : Nat :=
  if (s.dom g.ldom).liveVer g.lver = false then 5 else if g.record.shapeOk = false then 1
  else if g.kd.valid = false ∨ (s.ctx g.ctx).record.valid = false then 2 else 0

theorem counted_grid (s : State) (h : Nat) : (s.counted h).grid h =
    { s.grid h with unmet := (s.grid h).record.deps.filter fun d => !s.depMet d } := State.grid_modGrid_same ..

theorem counted_other (s : State) {h k : Nat} (other : k ≠ h) : (s.counted h).grid k = s.grid k := State.grid_modGrid_other s _ other

theorem refusal_eq (s : State) (h : Nat) : s.refusal h =
    if s.causeOf (s.grid h) = 0 then (if (s.grid h).record.res && !s.fitsResident h then 3 else 0) else s.causeOf (s.grid h) := by
  rw [State.refusal, State.causeOf]
  cases (s.dom (s.grid h).ldom).liveVer (s.grid h).lver with
  | false => rfl
  | true =>
    cases (s.grid h).record.shapeOk with
    | false => rfl
    | true =>
      cases (s.grid h).kd.valid with
      | false => rfl
      | true => cases (s.ctx (s.grid h).ctx).record.valid <;> rfl

theorem counted_causeOf (s : State) (h : Nat) : (s.counted h).causeOf ((s.counted h).grid h) = s.causeOf (s.grid h) := by
  rw [counted_grid]
  rfl

theorem enter_refused {c : Nat} {pend : Option Nat} (cause : (s.counted h).refusal h = c) (some : c ≠ 0) :
    s.enter h pend = ((s.counted h).refuse h c, .some c) := by
  subst cause
  exact if_pos some

theorem enter_taken {pend : Option Nat} (cause : (s.counted h).refusal h = 0) (spec : ((s.counted h).grid h).record.spec = none) :
    s.enter h pend = ((s.counted h).takeIn h ((s.counted h).grid h).ldom ((s.counted h).grid h).lver, some 0) := by
  refine (if_neg (not_not.2 cause)).trans ?_
  dsimp only
  rw [show ((s.modGrid h fun g => { g with unmet := g.record.deps.filter fun d => !s.depMet d }).grid h).record.spec = none from spec]
  rfl

/-! ### What a refusal leaves (R35, R416) -/

theorem memOnly_completionRecord (s : State) (g cause : Nat) : MemOnly s (s.completionRecord g cause) := by
  rw [State.completionRecord]
  split
  · exact memOnly_homeWrite ..
  · exact .refl s

/-- A grid whose dependences others no longer have. -/
def dropDep (g : Nat) (x : Grid) : Grid := { x with unmet := x.unmet.filter (· != g) }

theorem meetDeps_keeps {β : Type} {p : Grid → β} (h : ∀ g x, p (dropDep g x) = p x) (s : State) (g k : Nat) :
    p ((s.meetDeps g).grid k) = p (s.grid k) := get_map_field (f := dropDep g) (h g) ..

/-- Where a launch ends: its grid is complete with a cause, and its result waits as before. -/
structure Refused (s t : State) (h cause : Nat) : Prop where
  phase : (t.grid h).phase = .complete
  cause : (t.grid h).cause = cause
  next  : t.nextGrid = s.nextGrid
  pend  : t.pend = s.pend

theorem MemOnly.nextGrid (h : MemOnly s t) : t.nextGrid = s.nextGrid := by rw [h.frame]
theorem MemOnly.pend (h : MemOnly s t) : t.pend = s.pend := by rw [h.frame]

theorem refused_endGrid (s : State) (h cause : Nat) : Refused s (s.endGrid h cause) h cause := by
  have kept := memOnly_completionRecord (s.modGrid h fun g => { g with phase := .complete, cause := cause }) h cause
  have grid := (kept.grid h).trans (State.grid_modGrid_same ..)
  refine ⟨?_, ?_, kept.nextGrid, kept.pend⟩
  · exact (meetDeps_keeps (p := Grid.phase) (fun _ _ => rfl) _ h h).trans (congrArg Grid.phase grid)
  · exact (meetDeps_keeps (p := Grid.cause) (fun _ _ => rfl) _ h h).trans (congrArg Grid.cause grid)

theorem refused_refuse (s : State) (h cause : Nat) : Refused s (s.refuse h cause) h cause := by
  rw [State.refuse]
  split
  · obtain ⟨phase, cause, next, pend⟩ := refused_endGrid (s.logRefused (dispSrc 0) (some (s.grid h).ctx)
      ((s.csrGet 0x4020 0).toNat + 64 * (s.grid h).ctx) 0) h cause
    have kept := memOnly_logRefused s (dispSrc 0) (some (s.grid h).ctx) ((s.csrGet 0x4020 0).toNat + 64 * (s.grid h).ctx) 0
    exact ⟨phase, cause, next.trans kept.nextGrid, pend.trans kept.pend⟩
  · exact refused_endGrid ..

/-! ### The launch -/

/-- A launch whose record and descriptor are read goes on with them (R332). -/
theorem launch_reads (issue : Issuing s r) (slot : (s.path r).slot = .ok f ∨
      ((s.path r).slot = .busy f ∧ ∀ p ∈ s.pend, p.flag = f → s.precedes r p.r p.serial = false))
    (goes : ReleaseGoes (s.clearFlag r f) r true .device u) {w : List Nat} {u' : State}
    (near : (u.sget r a).toNat % 64 = 0) (read : u.vUnits (u.viewOf r) 4 48 (u.sget r a) = .ok w)
    (kdesc : (u.vUse (u.viewOf r) (u.sget r a) 192).readKd (u.viewOf r) (recordOf w).kdesc = .ok kd)
    (used : (u.vUse (u.viewOf r) (u.sget r a) 192).useKd (u.viewOf r) (recordOf w).kdesc = u') (hold : Bool) :
    exec (.launch d a hold) s = .next (
      if !hold && u'.gridsFull then (u'.setFlag r f).waitFor r .room
      else if hold then ((u'.launched r f d (recordOf w) kd hold).giveResult (some u'.nextSer) fun _ =>
        launchValue u'.nextGrid.toNat 0 true).advance r 1
      else match ((u'.launched r f d (recordOf w) kd hold).enter u'.nextGrid.toNat (some u'.nextSer)).2 with
        | none => ((u'.launched r f d (recordOf w) kd hold).enter u'.nextGrid.toNat (some u'.nextSer)).1.advance r 1
        | some c => (((u'.launched r f d (recordOf w) kd hold).enter u'.nextGrid.toNat (some u'.nextSer)).1.giveResult (some u'.nextSer)
            fun _ => launchValue u'.nextGrid.toNat c false).advance r 1) := by
  refine (issued_next issue _).trans (congrArg _ ((withOwnSlot_own slot _).trans ((releaseOf goes _).trans ((alignedTo_ok near _).trans
    ((readUnits_ok read _).trans ((withRead_ok kdesc _).trans ?_))))))
  rw [used]
  rfl

theorem giveResult_basis (s : State) (p : Option Nat) (g : SReg → DWord) : (s.giveResult p g).basis = s.basis := rfl
theorem giveResult_grid (s : State) (p : Option Nat) (g : SReg → DWord) (k : Nat) : (s.giveResult p g).grid k = s.grid k := rfl
theorem giveResult_nextGrid (s : State) (p : Option Nat) (g : SReg → DWord) : (s.giveResult p g).nextGrid = s.nextGrid := rfl
theorem giveResult_path (s : State) (p : Option Nat) (g : SReg → DWord) (q : PathRef) : (s.giveResult p g).path q = s.path q := rfl
theorem advance_grid (s : State) (r : PathRef) (n k : Nat) : (s.advance r n).grid k = s.grid k := rfl
theorem advance_nextGrid (s : State) (r : PathRef) (n : Nat) : (s.advance r n).nextGrid = s.nextGrid := rfl
theorem advance_pend (s : State) (r : PathRef) (n : Nat) : (s.advance r n).pend = s.pend := rfl
theorem advance_basis (s : State) (r : PathRef) (n : Nat) : (s.advance r n).basis = s.basis := rfl
theorem takeIn_grid (s : State) (h d v : Nat) : (s.takeIn h d v).grid h = { s.grid h with phase := .blocked, dom := d, ver := v, since := s.tsc } :=
  State.grid_modGrid_same ..
theorem takeIn_basis (s : State) (h d v : Nat) : (s.takeIn h d v).basis = s.basis := rfl
theorem takeIn_path (s : State) (h d v : Nat) (q : PathRef) : (s.takeIn h d v).path q = s.path q := rfl
theorem takeIn_pend (s : State) (h d v : Nat) : (s.takeIn h d v).pend = s.pend := rfl
theorem takeIn_nextGrid (s : State) (h d v : Nat) : (s.takeIn h d v).nextGrid = s.nextGrid := rfl
theorem counted_path (s : State) (h : Nat) (q : PathRef) : (s.counted h).path q = s.path q := rfl
theorem counted_pend (s : State) (h : Nat) : (s.counted h).pend = s.pend := rfl
theorem counted_basis (s : State) (h : Nat) : (s.counted h).basis = s.basis := rfl
theorem counted_nextGrid (s : State) (h : Nat) : (s.counted h).nextGrid = s.nextGrid := rfl

/-- Where a result that is on its way belongs. -/
def Results (s t : State) (r : PathRef) (f : Nat) (d : SReg) (x : Nat) : Prop :=
  s.pend = [] → t.pend = resultOf s.nextSer r f d x

/-- A launch with HOLD keeps its grid inert, and gives its handle (R334). -/
theorem launch_held (s : State) (r : PathRef) (f : Nat) (d : SReg) (rec' : LaunchRec) (kd : KDesc) :
    ∃ t, ((s.launched r f d rec' kd true).giveResult (some s.nextSer) fun _ => launchValue s.nextGrid.toNat 0 true).advance r 1 = t ∧
      t.grid s.nextGrid.toNat = s.newcomer r rec' kd true ∧ t.nextGrid = s.nextGrid + 1 ∧
      (∀ k, k ≠ s.nextGrid.toNat → t.grid k = s.grid k) ∧ SameMemory s t ∧ Results s t r f d (s.nextGrid.toNat + 2 ^ 40) := by
  refine ⟨_, rfl, ?_, ?_, fun k other => ?_, ?_, fun none => ?_⟩
  · rw [advance_grid, giveResult_grid, launched_grid, if_pos rfl]
  · rw [advance_nextGrid, giveResult_nextGrid, launched_nextGrid]
  · rw [advance_grid, giveResult_grid, launched_grid, if_neg other]
  · exact memByte_of_basis ((advance_basis ..).trans ((giveResult_basis ..).trans (launched_basis _)))
  · rw [advance_pend, giveResult_pend (launched_pend none _), Nat.zero_mul, Nat.add_zero, Bool.toNat_true, Nat.one_mul]

theorem launched_causeOf (s : State) (r : PathRef) (f : Nat) (d : SReg) (rec' : LaunchRec) (kd : KDesc) (hold : Bool) :
    (s.launched r f d rec' kd hold).causeOf ((s.launched r f d rec' kd hold).grid s.nextGrid.toNat) =
      s.causeOf (s.newGrid r rec' kd hold) := by
  rw [launched_grid, if_pos rfl, State.causeOf, launched_dom, launched_ctx]
  rfl

/-- A launch that a cause refuses is complete with it, and gives its handle and its cause (R35, R334). -/
theorem launch_refused {c : Nat} (cause : s.causeOf (s.newGrid r rec' kd false) = c) (bad : c ≠ 0) :
    ∃ x, (s.launched r f d rec' kd false).enter s.nextGrid.toNat (some s.nextSer) = (x, some c) ∧ ∃ t,
      (x.giveResult (some s.nextSer) fun _ => launchValue s.nextGrid.toNat c false).advance r 1 = t ∧
      (t.grid s.nextGrid.toNat).phase = .complete ∧ (t.grid s.nextGrid.toNat).cause = c ∧
      t.nextGrid = s.nextGrid + 1 ∧ Results s t r f d (s.nextGrid.toNat + c * 2 ^ 32) := by
  have isCause : ((s.launched r f d rec' kd false).counted s.nextGrid.toNat).refusal s.nextGrid.toNat = c := by
    have e := (counted_causeOf (s.launched r f d rec' kd false) s.nextGrid.toNat).trans ((launched_causeOf ..).trans cause)
    rw [refusal_eq, e, if_neg bad]
  obtain ⟨phase, cause', next, pend⟩ := refused_refuse ((s.launched r f d rec' kd false).counted s.nextGrid.toNat) s.nextGrid.toNat c
  refine ⟨_, enter_refused isCause bad, _, rfl, ?_, ?_, ?_, fun none => ?_⟩
  · rw [advance_grid, giveResult_grid, phase]
  · rw [advance_grid, giveResult_grid, cause']
  · rw [advance_nextGrid, giveResult_nextGrid, next, counted_nextGrid, launched_nextGrid]
  · rw [advance_pend, giveResult_pend (pend.trans ((counted_pend ..).trans (launched_pend none _))), Bool.toNat_false, Nat.zero_mul,
      Nat.add_zero]

/-- A launch that nothing refuses, in no new version, is blocked until its dependences are met (R31). -/
theorem launch_taken (cause : s.causeOf (s.newGrid r rec' kd false) = 0) (res : rec'.res = false) (spec : rec'.spec = none) :
    ∃ x, (s.launched r f d rec' kd false).enter s.nextGrid.toNat (some s.nextSer) = (x, some 0) ∧ ∃ t,
      (x.giveResult (some s.nextSer) fun _ => launchValue s.nextGrid.toNat 0 false).advance r 1 = t ∧
      (t.grid s.nextGrid.toNat).phase = .blocked ∧ (t.grid s.nextGrid.toNat).record = rec' ∧
      (t.grid s.nextGrid.toNat).dom = s.domOf r ∧ (t.grid s.nextGrid.toNat).ver = s.verOf r ∧ t.nextGrid = s.nextGrid + 1 ∧
      (∀ k, k ≠ s.nextGrid.toNat → t.grid k = s.grid k) ∧
      (∀ k ∈ rec'.deps, k ≠ s.nextGrid.toNat →
        (k ∈ (t.grid s.nextGrid.toNat).unmet ↔ (s.grid k).live = true ∧ (s.grid k).phase ≠ .complete)) ∧
      (t.path r).pc = ((s.path r).advance 1).pc ∧ SameMemory s t ∧ Results s t r f d s.nextGrid.toNat := by
  have grid : (s.launched r f d rec' kd false).grid s.nextGrid.toNat = s.newcomer r rec' kd false :=
    (launched_grid ..).trans (if_pos rfl)
  have entered := (counted_grid (s.launched r f d rec' kd false) s.nextGrid.toNat).trans (by rw [grid])
  have noCause : ((s.launched r f d rec' kd false).counted s.nextGrid.toNat).refusal s.nextGrid.toNat = 0 := by
    have e := (counted_causeOf (s.launched r f d rec' kd false) s.nextGrid.toNat).trans ((launched_causeOf ..).trans cause)
    rw [refusal_eq, e, if_pos rfl, entered]
    exact if_neg (by rw [show (State.newcomer s r rec' kd false).record.res = false from res]; exact Bool.false_ne_true)
  refine ⟨_, enter_taken noCause (by rw [entered]; exact spec), _, rfl, ?_, ?_, ?_, ?_, ?_, fun k other => ?_, fun k dep other => ?_, ?_, ?_,
    fun none => ?_⟩
  · rw [advance_grid, giveResult_grid, takeIn_grid]
  · rw [advance_grid, giveResult_grid, takeIn_grid]
    exact congrArg Grid.record entered
  · rw [advance_grid, giveResult_grid, takeIn_grid]
    exact congrArg Grid.ldom entered
  · rw [advance_grid, giveResult_grid, takeIn_grid]
    exact congrArg Grid.lver entered
  · rw [advance_nextGrid, giveResult_nextGrid, takeIn_nextGrid, counted_nextGrid, launched_nextGrid]
  · rw [advance_grid, giveResult_grid, State.takeIn, State.grid_modGrid_other _ _ other, counted_other _ other, launched_grid, if_neg other]
  · rw [advance_grid, giveResult_grid, takeIn_grid, entered, List.mem_filter, State.depMet, launched_grid, if_neg other]
    have named : k ∈ (s.newcomer r rec' kd false).record.deps := dep
    cases (s.grid k).live <;> simp [named]
  · rw [State.path_advance, if_pos rfl, giveResult_path, takeIn_path, counted_path, launched_pc]
  · exact memByte_of_basis ((advance_basis ..).trans ((giveResult_basis ..).trans ((takeIn_basis ..).trans ((counted_basis ..).trans
      (launched_basis _)))))
  · rw [advance_pend, giveResult_pend ((takeIn_pend ..).trans ((counted_pend ..).trans (launched_pend none _))), Bool.toNat_false,
      Nat.zero_mul, Nat.zero_mul]
    rfl

theorem launches : Rules.Launches := by
  intro s u r d a w kd f issue slot goes
  dsimp only
  intro near read kdesc
  refine ⟨?_, fun full => ?_, fun room => ⟨fun bad => ?_, fun good res spec => ?_⟩⟩
  · obtain ⟨t, e, leaves⟩ := launch_held ((u.vUse (u.viewOf r) (u.sget r a) 192).useKd (u.viewOf r) (recordOf w).kdesc) r f d (recordOf w) kd
    exact ⟨t, (launch_reads issue slot goes near read kdesc rfl true).trans (congrArg _ e), leaves⟩
  · refine (launch_reads issue slot goes near read kdesc rfl false).trans (congrArg _ (if_pos ?_))
    rw [full]
    rfl
  · obtain ⟨x, enters, t, e, leaves⟩ := launch_refused (s := (u.vUse (u.viewOf r) (u.sget r a) 192).useKd (u.viewOf r) (recordOf w).kdesc)
      (r := r) (f := f) (d := d) (rec' := recordOf w) (kd := kd) rfl bad
    refine ⟨t, (launch_reads issue slot goes near read kdesc rfl false).trans (congrArg _ ((if_neg ?_).trans ?_)), leaves⟩
    · rw [room]
      exact Bool.false_ne_true
    · rw [enters]
      exact e
  · obtain ⟨x, enters, t, e, leaves⟩ := launch_taken (s := (u.vUse (u.viewOf r) (u.sget r a) 192).useKd (u.viewOf r) (recordOf w).kdesc)
      (r := r) (f := f) (d := d) (rec' := recordOf w) (kd := kd) good res spec
    refine ⟨t, (launch_reads issue slot goes near read kdesc rfl false).trans (congrArg _ ((if_neg ?_).trans ?_)), leaves⟩
    · rw [room]
      exact Bool.false_ne_true
    · rw [enters]
      exact e

/-! ### Carts -/

/-- The grid of a cart that launches (R425). -/
def Cart.newGrid (c : Cart) : Grid :=
  { Grid.none with
    ctx := c.ctx, kernel := c.kernel, dom := c.dom, ver := c.ver,
    record := { LaunchRec.zero with kdesc := c.kdesc, gx := 1, gy := 1, gz := 1, prio := c.prio },
    kd := c.kd, source := .cart c.records, phase := .blocked, ldom := c.dom, lver := c.ver }

theorem oneCrew_shapeOk (kdesc : DWord) (prio : Nat) :
    { LaunchRec.zero with kdesc := kdesc, gx := 1, gy := 1, gz := 1, prio := prio : LaunchRec }.shapeOk = true := by
  simp [LaunchRec.shapeOk, LaunchRec.zero, LaunchRec.crews, LaunchRec.clusterSize]

/-- A cart is gone, and its grid has its handle. -/
def State.uncarted (s : State) (c : Cart) : State := ({ s with carts := s.carts.filter fun x => x.id != c.id }.addGrid c.newGrid).1

theorem uncarted_grid (s : State) (c : Cart) : (s.uncarted c).grid s.nextGrid.toNat = { c.newGrid with live := true, order := s.nextSer, since := s.tsc } :=
  (addGrid_grid ..).trans (if_pos rfl)

theorem launchCart_eq (s : State) (c : Cart) : s.launchCart c = ((s.uncarted c).enter s.nextGrid.toNat none).1.modGrid s.nextGrid.toNat fun g =>
    if g.phase == .blocked then { g with phase := .runnable } else g := rfl

theorem addGrid_carts (s : State) (g : Grid) : (s.addGrid g).1.carts = s.carts := rfl
theorem addGrid_tsc (s : State) (g : Grid) : (s.addGrid g).1.tsc = s.tsc := rfl
theorem counted_carts (s : State) (h : Nat) : (s.counted h).carts = s.carts := rfl
theorem counted_tsc (s : State) (h : Nat) : (s.counted h).tsc = s.tsc := rfl
theorem takeIn_carts (s : State) (h d v : Nat) : (s.takeIn h d v).carts = s.carts := rfl
theorem takeIn_tsc (s : State) (h d v : Nat) : (s.takeIn h d v).tsc = s.tsc := rfl
theorem modGrid_carts (s : State) (h : Nat) (g : Grid → Grid) : (s.modGrid h g).carts = s.carts := rfl
theorem modGrid_tsc (s : State) (h : Nat) (g : Grid → Grid) : (s.modGrid h g).tsc = s.tsc := rfl
theorem modGrid_basis (s : State) (h : Nat) (g : Grid → Grid) : (s.modGrid h g).basis = s.basis := rfl

/-- A cart of a live version, a valid descriptor and a valid context is a runnable grid of its records (R425). -/
theorem launchCart_runs {c : Cart} (ver : (s.dom c.dom).liveVer c.ver = true) (valid : c.kd.valid = true)
    (record : (s.ctx c.ctx).record.valid = true) :
    (s.launchCart c).grid s.nextGrid.toNat = { c.newGrid with
      live := true, order := s.nextSer, since := s.tsc, unmet := [], phase := .runnable } ∧
    (s.launchCart c).carts = s.carts.filter (fun x => x.id != c.id) ∧ (s.launchCart c).tsc = s.tsc ∧ (s.launchCart c).basis = s.basis := by
  have entered : ((s.uncarted c).counted s.nextGrid.toNat).grid s.nextGrid.toNat =
      { c.newGrid with live := true, order := s.nextSer, since := s.tsc, unmet := [] } := by
    rw [counted_grid, uncarted_grid]
    rfl
  have noCause : ((s.uncarted c).counted s.nextGrid.toNat).refusal s.nextGrid.toNat = 0 := by
    have none : (s.uncarted c).causeOf ((s.uncarted c).grid s.nextGrid.toNat) = 0 := by
      rw [uncarted_grid]
      refine (if_neg ?_).trans ((if_neg ?_).trans (if_neg ?_))
      · rw [Bool.not_eq_false]
        exact ver
      · rw [Bool.not_eq_false]
        exact oneCrew_shapeOk c.kdesc c.prio
      · exact not_or.2 ⟨by rw [Bool.not_eq_false]; exact valid, by rw [Bool.not_eq_false]; exact record⟩
    rw [refusal_eq, counted_causeOf, none, if_pos rfl, entered]
    rfl
  rw [launchCart_eq, enter_taken noCause (by rw [entered]; rfl)]
  refine ⟨?_, ?_, ?_, ?_⟩
  · rw [State.grid_modGrid_same, takeIn_grid, entered]
    rfl
  · rw [modGrid_carts, takeIn_carts, counted_carts, State.uncarted, addGrid_carts]
  · rw [modGrid_tsc, takeIn_tsc, counted_tsc, State.uncarted, addGrid_tsc]
  · rw [modGrid_basis, takeIn_basis, counted_basis, State.uncarted, addGrid_basis]
    rfl

theorem OnlyTime.dom (h : OnlyTime s t) (n : Nat) : t.dom n = s.dom n := by rw [h]; rfl
theorem OnlyTime.nextGrid (h : OnlyTime s t) : t.nextGrid = s.nextGrid := by rw [h]
theorem OnlyTime.carts (h : OnlyTime s t) : t.carts = s.carts := by rw [h]
theorem OnlyTime.basis (h : OnlyTime s t) : t.basis = s.basis := by rw [h]; rfl

/-- A cart whose timer expires launches (R41, R425). -/
theorem cartExpires {c : Cart} {rest : List Cart} (first : s.carts = c :: rest) (thawed : (s.ctx c.ctx).frozen = false) :
    exec (.cartTimerExpiry c.id) s = .next ((s.passTo c.due).launchCart c) := by
  refine Eq.trans (b := execCartTimerExpiry c.id s) rfl ?_
  rw [execCartTimerExpiry, first, List.find?_cons, show (c.id == c.id) = true from beq_self_eq_true _]
  exact if_neg (by rw [thawed]; exact Bool.false_ne_true)

section
variable {b : VReg} {len : BitVec 3} (issue : Issuing s r) (goes : ReleaseGoes s r true .device u)
  (vec : (s.team r.tok).uniform = false) (fits : b.toNat + (len.toNat + 1) ≤ 256) (ok : s.vOk r (vRun b (len.toNat + 1)) = true)
include issue goes vec fits ok

/-- A `spawn` that is legal goes on behind its release (R335). -/
theorem spawn_goes : exec (.spawn len a b) s = .next (
    if ((u.memLanes r).filter fun l => !(u.path r).done.getLsbD l).isEmpty then u.advance r 1
    else u.alignedTo r 16 (u.sget r a) <| u.withRead r (u.readKd (u.viewOf r) (u.sget r a)) fun kd =>
      if !kd.node (len.toNat + 1) then (u.useKd (u.viewOf r) (u.sget r a)).takeStop r { cause := 18, sub := 4 }
      else (u.useKd (u.viewOf r) (u.sget r a)).spawnLanes r (u.sget r a) kd (vRun b (len.toNat + 1))
        ((u.memLanes r).filter fun l => !(u.path r).done.getLsbD l)) := by
  refine (issued_next issue _).trans (congrArg _ ?_)
  dsimp only
  rw [vec, decide_eq_true fits, ok]
  exact (State.legalIf_true _).trans (releaseOf goes _)

theorem spawn_reads (some : ((u.memLanes r).filter fun l => !(u.path r).done.getLsbD l) ≠ []) (near : (u.sget r a).toNat % 16 = 0)
    (read : u.readKd (u.viewOf r) (u.sget r a) = .ok kd) : exec (.spawn len a b) s = .next (
      if !kd.node (len.toNat + 1) then (u.useKd (u.viewOf r) (u.sget r a)).takeStop r { cause := 18, sub := 4 }
      else (u.useKd (u.viewOf r) (u.sget r a)).spawnLanes r (u.sget r a) kd (vRun b (len.toNat + 1))
        ((u.memLanes r).filter fun l => !(u.path r).done.getLsbD l)) :=
  (spawn_goes issue goes vec fits ok).trans (congrArg _ ((if_neg (by rw [List.isEmpty_iff]; exact some)).trans
    ((alignedTo_ok near _).trans (withRead_ok read _))))
end

theorem carts : Rules.Carts := by
  intro s u r a b len kd issue
  dsimp only
  refine ⟨fun goes vec fits ok => ⟨fun none => ?_, fun some near read => ⟨fun bad => ?_, fun node => ?_⟩⟩, ⟨fun l ls none full => ?_,
    fun l ls room => ?_, rfl⟩, fun c rest first thawed ver valid record => ?_⟩
  · exact (spawn_goes issue goes vec fits ok).trans (congrArg _ (if_pos (by rw [none]; rfl)))
  · exact (spawn_reads issue goes vec fits ok some near read).trans (congrArg _ (if_pos (by rw [bad]; rfl)))
  · exact (spawn_reads issue goes vec fits ok some near read).trans (congrArg _ (if_neg (by rw [node]; exact Bool.false_ne_true)))
  · exact if_pos (by rw [none, full]; rfl)
  · refine if_neg fun both => ?_
    rw [Bool.and_eq_true, Option.isNone_iff_eq_none, Bool.not_eq_true'] at both
    rcases room with some | free
    · exact some both.1
    · exact Bool.false_ne_true (both.2.symm.trans free)
  · have only := onlyTime_passTo s c.due
    obtain ⟨grid, carts, tsc, basis⟩ := launchCart_runs (s := s.passTo c.due) (c := c) (by rw [only.dom]; exact ver) valid
      (by rw [only.ctx]; exact record)
    obtain ⟨later, due⟩ := le_passTo s c.due
    refine ⟨_, cartExpires first thawed, ?_⟩
    rw [only.nextGrid] at grid
    rw [grid]
    refine ⟨rfl, rfl, rfl, rfl, rfl, rfl, carts.trans (by rw [only.carts]), ?_, ?_, memByte_of_basis (basis.trans only.basis)⟩
    · rw [tsc]
      exact later
    · rw [tsc]
      exact due

/-- Settles O52: launches and carts. -/
theorem launchesAndCarts : Obligations.LaunchesAndCarts := ⟨launches, carts⟩

end Sys2Proof.Machine
end

section
/-! SUPPORT. Work queues, count patching, and the resolution of a speculation domain (R336 to R340, R415, R422). -/

namespace Sys2Proof.Machine

variable {s t u : State} {r : PathRef} {d a b : SReg} {f q : Nat}

/-! ### Work queues (R336, R415) -/

/-- A queue instruction's result is on its way, and its path has gone on. -/
def State.answered (s : State) (r : PathRef) (f : Nat) (d : SReg) (x : Nat) : State :=
  (s.startPend r f [.s d (BitVec.ofNat 64 x)]).advance r 1

section
variable {kind : WqEnt → Bool}

theorem withQueue_refused (h : (s.queueIn (s.ctxPart (s.ctxOf r)) q && (s.wq q).valid && kind (s.wq q)) = false) (no : State → State)
    (k : WqEnt → State) : s.withQueue r q kind no k = no s := if_pos (by rw [h]; rfl)

theorem withQueue_overrun (h : (s.queueIn (s.ctxPart (s.ctxOf r)) q && (s.wq q).valid && kind (s.wq q)) = true)
    (late : 2 ^ (s.wq q).logn < s.wqLen (s.wq q)) (no : State → State) (k : WqEnt → State) :
    s.withQueue r q kind no k = no (s.disableQueue q) :=
  (if_neg (by rw [h]; exact Bool.false_ne_true)).trans (if_pos late)

theorem withQueue_usable (h : (s.queueIn (s.ctxPart (s.ctxOf r)) q && (s.wq q).valid && kind (s.wq q)) = true)
    (fits : s.wqLen (s.wq q) ≤ 2 ^ (s.wq q).logn) (no : State → State) (k : WqEnt → State) : s.withQueue r q kind no k = k (s.wq q) :=
  (if_neg (by rw [h]; exact Bool.false_ne_true)).trans (if_neg (Nat.not_lt.2 fits))
end

/-- The register whose low bits name a queue instruction's queue (R336). -/
def State.queueNo (s : State) (r : PathRef) (b : SReg) : Nat := (s.sget r b).toNat % 2 ^ 13

/-- A `wqpop` that has its slot looks its queue up (R336). -/
theorem wqpop_looks (issue : Issuing s r) (slot : (s.path r).slot = .ok f) : exec (.wqpop d a b) s = .next
    (s.withQueue r (s.queueNo r b) (fun w => w.item) (fun t => t.answered r f d 2) fun w =>
      if s.wqLen w = 0 then s.answered r f d 0
      else if s.poisoned (w.slot (s.wqC w)) w.size then s.takeStop r { cause := 14, sub := 1, loadpc := (s.path r).pc }
      else
        match (s.acquireAct r .device).vPut ((s.acquireAct r .device).viewOf r) ((s.acquireAct r .device).sget r a)
          ((s.acquireAct r .device).memBytes (w.slot (s.wqC w)) w.size) with
        | .error (.fault cause sub x acc) => (s.acquireAct r .device).xerr r (.fault cause sub) x 0 acc
        | .error (.ats port page _ _) => (s.acquireAct r .device).xerr r (.ats port page) ((s.acquireAct r .device).sget r a) 0 1
        | .error .refuse => (s.acquireAct r .device).xerr r (.fault 10 0) ((s.acquireAct r .device).sget r a) 0 1
        | .error .wait => (s.acquireAct r .device).waitFor r .room
        | .ok t => (t.homeWrite (w.idx + 4) (leBytes 4 ((s.wqC w + 1) % 2 ^ 32))).answered r f d 1) :=
  (issued_next issue _).trans (congrArg _ (State.withSlot_ok slot _))

/-- A `wqpush` that has its slot looks its queue up behind its release (R336). -/
theorem wqpush_looks (issue : Issuing s r) (slot : (s.path r).slot = .ok f) (goes : ReleaseGoes s r true .device u) :
    exec (.wqpush d a b) s = .next
    (u.withQueue r (u.queueNo r b) (fun w => w.prod == 2) (fun t => t.answered r f d 2) fun w =>
      if u.wqLen w = 2 ^ w.logn then u.answered r f d 1
      else u.withUsed r (u.viewOf r) [(u.sget r a, w.size)] (u.vBytes (u.viewOf r) w.size (u.sget r a)) fun t bs =>
        ((t.homeWrite (w.slot (t.wqP w)) bs).homeWrite w.idx (leBytes 4 ((t.wqP w + 1) % 2 ^ 32))).answered r f d 0) :=
  (issued_next issue _).trans (congrArg _ ((State.withSlot_ok slot _).trans (releaseOf goes _)))

theorem workQueues : Rules.WorkQueues := by
  intro s u r d a b f issue slot
  dsimp only
  refine ⟨fun no => ?_, fun mine item empty => ?_, fun mine item late => ?_, fun t mine item some fits sound put => ?_, fun goes =>
    ⟨fun no => ?_, fun mine full => ?_, fun bs mine room read => ?_⟩⟩
  · refine (wqpop_looks issue slot).trans (congrArg _ (withQueue_refused ?_ _ _))
    rcases no with mine | item
    · exact (congrArg (· && _) mine).trans (Bool.false_and _)
    · exact (congrArg (_ && ·) item).trans (Bool.and_false _)
  · refine (wqpop_looks issue slot).trans (congrArg _ ((withQueue_usable (Bool.and_eq_true_iff.2 ⟨mine, item⟩) ?_ _ _).trans (if_pos empty)))
    exact (Nat.le_of_eq empty).trans (Nat.zero_le _)
  · exact (wqpop_looks issue slot).trans (congrArg _ (withQueue_overrun (Bool.and_eq_true_iff.2 ⟨mine, item⟩) late _ _))
  · refine (wqpop_looks issue slot).trans (congrArg _ ((withQueue_usable (Bool.and_eq_true_iff.2 ⟨mine, item⟩) fits _ _).trans
      ((if_neg (Nat.pos_iff_ne_zero.1 some)).trans ((if_neg (by exact Bool.eq_false_iff.1 sound)).trans ?_))))
    rw [put]
    rfl
  · exact (wqpush_looks issue slot goes).trans (congrArg _ (withQueue_refused no _ _))
  · exact (wqpush_looks issue slot goes).trans (congrArg _ ((withQueue_usable mine (Nat.le_of_eq full) _ _).trans (if_pos full)))
  · exact (wqpush_looks issue slot goes).trans (congrArg _ ((withQueue_usable mine room.le _ _).trans ((if_neg room.ne).trans
      (withUsed_ok read _))))

/-! ### Count patching (R337) -/

/-- The entries of a count table. -/
def countEntries (n : Nat) (w : List Nat) : List CountEntry := (List.range n).map fun i => countEntryOf ((w.drop (4 * i)).take 4)

/-- A `cntp` that has its slot checks its table behind its release (R337). -/
theorem cntp_checks (issue : Issuing s r) (slot : (s.path r).slot = .ok f) (goes : ReleaseGoes s r true .device u)
    (near : (u.sget r a).toNat % 16 = 0) : exec (.cntp d a b) s = .next
    (if (u.sget r b).toNat = 0 ∨ 256 < (u.sget r b).toNat then u.takeStop r { cause := 18, sub := 3 }
    else u.readUnits r (u.viewOf r) 4 (4 * (u.sget r b).toNat) (u.sget r a) fun t w =>
      let x := t.applyCounts (u.viewOf r) (u.sget r a) 0 (countEntries (u.sget r b).toNat w) [] 0
      if ((x.2.1.filter fun o => !o.1).length ≠ 0 && decide (16384 < t.gridsIn + (x.2.1.filter fun o => !o.1).length)) ||
          (x.2.1.any fun o => o.1 && (t.engines.any fun e => e.serial == o.2 && decide (64 ≤ t.queueLen e.core))) then t.waitFor r .room
      else (x.2.1.foldl State.releaseHeld x.1).answered r f d x.2.2) :=
  (issued_next issue _).trans (congrArg _ ((State.withSlot_ok slot _).trans ((releaseOf goes _).trans (alignedTo_ok near _))))

/-- There is no room for all that a table's counts release (R337, R422). -/
def State.crowdedBy (t : State) (l : List (Bool × Nat)) : Bool :=
  ((l.filter fun o => !o.1).length ≠ 0 && decide (16384 < t.gridsIn + (l.filter fun o => !o.1).length)) ||
  (l.any fun o => o.1 && (t.engines.any fun e => e.serial == o.2 && decide (64 ≤ t.queueLen e.core)))

theorem crowdedBy_iff (t : State) (l : List (Bool × Nat)) : t.crowdedBy l = true ↔
    ((l.filter fun o => !o.1).length ≠ 0 ∧ 16384 < t.gridsIn + (l.filter fun o => !o.1).length) ∨
      ∃ o ∈ l, o.1 = true ∧ ∃ e ∈ t.engines, e.serial = o.2 ∧ 64 ≤ t.queueLen e.core := by
  simp only [State.crowdedBy, Bool.or_eq_true, List.any_eq_true, Bool.and_eq_true, beq_iff_eq, decide_eq_true_eq]

theorem counts (issue : Issuing s r) (slot : (s.path r).slot = .ok f) (goes : ReleaseGoes s r true .device u)
    {w : List Nat} {t : State} {x : State × List (Bool × Nat) × Nat} (near : (u.sget r a).toNat % 16 = 0)
    (least : 1 ≤ (u.sget r b).toNat) (most : (u.sget r b).toNat ≤ 256)
    (read : u.vUnits (u.viewOf r) 4 (4 * (u.sget r b).toNat) (u.sget r a) = .ok w)
    (used : u.vUse (u.viewOf r) (u.sget r a) (16 * (u.sget r b).toNat) = t)
    (applied : t.applyCounts (u.viewOf r) (u.sget r a) 0 (countEntries (u.sget r b).toNat w) [] 0 = x) :
    exec (.cntp d a b) s = .next
      (if t.crowdedBy x.2.1 then t.waitFor r .room else (x.2.1.foldl State.releaseHeld x.1).answered r f d x.2.2) := by
  subst used applied
  refine (cntp_checks issue slot goes near).trans (congrArg _ ((if_neg (not_or.2 ⟨Nat.ne_of_gt least, Nat.not_lt.2 most⟩)).trans
    ((readUnits_ok read _).trans ?_)))
  rw [show 4 * (4 * (u.sget r b).toNat) = 16 * (u.sget r b).toNat from (Nat.mul_assoc 4 4 _).symm]
  rfl

/-! ### Resolves (R338 to R340) -/

/-- A resolve's result is on its way, and its path has gone on. -/
def State.resolved (s : State) (r : PathRef) (f : Nat) (d : SReg) (x : DWord) : State :=
  (s.startPend r f [.s d x] (scope := some .pod)).advance r 1

/-- The versions that a resolve commits, and those it squashes (R339). -/
def State.commits (s : State) (dm leaf : Nat) : List Nat := (s.chain dm leaf).reverse
def State.squashes (s : State) (dm leaf : Nat) : List Nat :=
  ((s.dom dm).live.map fun y => y.ver).filter fun v => !(s.commits dm leaf).contains v

/-- A resolve is applied at the home of its domain. -/
def State.homeResolve (s : State) (dm leaf : Nat) : State :=
  (s.applyResolve dm (s.commits dm leaf) (s.squashes dm leaf)).modDom dm fun y =>
    { y with num := y.num + 1, notes := 0, accept := acceptNext y.accept (s.commits dm leaf).length (s.squashes dm leaf).length }

theorem resolve_looks (issue : Issuing s r) (slot : (s.path r).slot = .ok f) (goes : ReleaseGoes s r true .pod u) {dm leaf : Nat}
    (isDm : (u.sget r a).toNat % 256 = dm) (isLeaf : (u.sget r b).toNat % 64 = leaf) : exec (.resolve d a b) s = .next
    (if (u.dom dm).home ≠ u.rank || (u.domOf r = dm && u.verOf r ≠ 0) then u.resolved r f d (resolveValue 1 0 0)
    else if !(u.dom dm).liveVer leaf then u.resolved r f d (resolveValue 2 0 0)
    else
      let v := resolveValue 0 (u.commits dm leaf).length (u.squashes dm leaf).length
      let t := u.homeResolve dm leaf
      if (u.livePeers dm).isEmpty then t.resolved r f d v
      else
        let t' := (t.startPend r f [.s d v] none true (scope := some .pod)).advance r 1
        let t'' := t'.modDom dm fun y => { y with resolves := y.resolves ++ [⟨(u.dom dm).num + 1, t.nextSer, v, u.livePeers dm, t'.tsc⟩] }
        t''.postAll (t''.keyOf (t''.ctxOf r)) (u.livePeers dm) dm
          (.resolve ⟨dm, (u.dom dm).num + 1, (u.dom dm).notes⟩ (u.commits dm leaf) (u.squashes dm leaf))) := by
  subst isDm isLeaf
  exact (issued_next issue _).trans (congrArg _ ((State.withSlot_ok slot _).trans (releaseOf goes _)))

/-- Each device of some has a message for it among those that are kept until they are acknowledged (R472). -/
theorem postAll_sends (key : BitVec 32) (dsts : List Nat) (dom : Nat) (body : PBody) :
    ∀ (s : State), (∀ q ∈ s.podOut, q ∈ (s.postAll key dsts dom body).podOut) ∧
      ∀ p ∈ dsts, ∃ q ∈ (s.postAll key dsts dom body).podOut, q.p.dst = p ∧ q.p.body = body := by
  induction dsts with
  | nil => exact fun s => ⟨fun q hq => hq, fun p hp => absurd hp List.not_mem_nil⟩
  | cons x l ih =>
    intro s
    obtain ⟨kept, sent⟩ := ih (s.post key x dom body)
    refine ⟨fun q hq => kept q (List.mem_append_left _ hq), fun p hp => ?_⟩
    rcases List.mem_cons.1 hp with rfl | later
    · refine ⟨_, kept _ (List.mem_append_right _ (List.mem_singleton_self _)), ?_⟩
      rw [State.packetTo]
      split <;> exact ⟨rfl, rfl⟩
    · exact sent p later

/-- With peers, a resolve's result is held until they have answered (R340). -/
theorem resolve_tells (x : State) (r : PathRef) (f : Nat) (d : SReg) (v : DWord) (dm : Nat) (g : State → Dom → Dom) (dsts : List Nat)
    (key : State → BitVec 32) (body : PBody) :
    let t' := (x.startPend r f [.s d v] none true (scope := some .pod)).advance r 1
    let t := (t'.modDom dm (g t')).postAll (key (t'.modDom dm (g t'))) dsts dm body
    (∀ p ∈ dsts, ∃ q ∈ t.podOut, q.p.dst = p ∧ q.p.body = body) ∧ ∃ q ∈ t.pend, q.r = r ∧ q.flag = f ∧ q.held = true := by
  intro t' t
  refine ⟨(postAll_sends _ dsts dm body _).2, ?_⟩
  rw [show t.pend = x.pend ++ [⟨x.nextSer, r, f, [.s d v], none, true, none, 0, false, some .pod⟩] from
    congrArg State.pend (onlySends_postAll (t'.modDom dm (g t')) (key (t'.modDom dm (g t'))) dsts dm body)]
  exact ⟨_, List.mem_append_right _ (List.mem_singleton_self _), rfl, rfl, rfl⟩

/-- A resolve is refused away from its domain's home, and in a version of the domain (R338). -/
theorem refuses_iff (u : State) (r : PathRef) (dm : Nat) :
    ((u.dom dm).home ≠ u.rank || (u.domOf r = dm && u.verOf r ≠ 0) : Bool) = true ↔
      (u.dom dm).home ≠ u.rank ∨ u.domOf r = dm ∧ u.verOf r ≠ 0 := by
  simp only [Bool.or_eq_true, Bool.and_eq_true, decide_eq_true_eq]

theorem applies {dm : Nat} (home : (u.dom dm).home = u.rank) (out : u.domOf r ≠ dm ∨ u.verOf r = 0) :
    ¬ ((u.dom dm).home ≠ u.rank || (u.domOf r = dm && u.verOf r ≠ 0) : Bool) = true := by
  rw [refuses_iff]
  rintro (away | ⟨own, ver⟩)
  · exact away home
  · exact out.elim (· own) ver

theorem countsAndResolves : Rules.CountsAndResolves := by
  intro s u r d a b f issue slot
  dsimp only
  refine ⟨fun goes => ⟨fun near bad => ?_, fun w near least most read => ⟨fun full => ?_, fun room short => ?_⟩⟩, fun goes =>
    ⟨fun away => ?_, fun own ver => ?_, fun home out dead => ?_, fun home out live alone => ?_, fun home out live peers => ?_⟩⟩
  · exact (cntp_checks issue slot goes near).trans (congrArg _ (if_pos bad))
  · exact (counts issue slot goes near least most read rfl rfl).trans (congrArg _ (if_pos ((crowdedBy_iff ..).2 full)))
  · exact (counts issue slot goes near least most read rfl rfl).trans (congrArg _ (if_neg fun crowded =>
      ((crowdedBy_iff ..).1 crowded).elim room short))
  · exact (resolve_looks issue slot goes rfl rfl).trans (congrArg _ (if_pos ((refuses_iff ..).2 (.inl away))))
  · exact (resolve_looks issue slot goes rfl rfl).trans (congrArg _ (if_pos ((refuses_iff ..).2 (.inr ⟨own, ver⟩))))
  · exact (resolve_looks issue slot goes rfl rfl).trans (congrArg _ ((if_neg (applies home out)).trans (if_pos (by rw [dead]; rfl))))
  · refine (resolve_looks issue slot goes rfl rfl).trans (congrArg _ ((if_neg (applies home out)).trans
      ((if_neg (by rw [live]; exact Bool.false_ne_true)).trans ((if_pos (List.isEmpty_iff.2 alone)).trans ?_))))
    rw [resolveValue, Nat.zero_add]
    rfl
  · exact ⟨_, (resolve_looks issue slot goes rfl rfl).trans (congrArg _ ((if_neg (applies home out)).trans
      ((if_neg (by rw [live]; exact Bool.false_ne_true)).trans (if_neg (by rw [List.isEmpty_iff]; exact peers))))),
      resolve_tells _ r f d _ _ (fun t' y => { y with resolves := y.resolves ++ [⟨_, _, _, _, t'.tsc⟩] }) _ (fun t => t.keyOf (t.ctxOf r)) _⟩

/-- Settles O53: work queues, count patching and resolves. -/
theorem queuesCountsAndResolves : Obligations.QueuesCountsAndResolves := ⟨workQueues, countsAndResolves⟩

end Sys2Proof.Machine
end

section
/-! SUPPORT. Completions of loads whose bytes run past the end of the host windows (R229, R408). -/

namespace Sys2Proof.Machine
open Sys2Proof.Tests

/-! ### A load across the end of the windows -/

/-- The last byte of the host windows: no copy of it is kept, whichever die is its home (R74). -/
def lastOfWindows : Nat := windowBase + 2 ^ 21 - 1

/-- A load of four bytes from there, homed on die 1, that has not bound. -/
def windowLoad : LoadSet := ⟨8, .b32, false, false, 0, 0, [], [(0, 0, lastOfWindows, true)]⟩
def windowPend : Pend := ⟨5, r0, 0, [], none, false, some windowLoad, 0, true, none⟩

/-- A bench with the load, whose core of die 0 holds a copy of the byte behind the windows, which differs from memory. -/
def staleCopy : State :=
  { bn 0 with pend := [windowPend], copies := [(cpKey ((bn 0).coreOf r0) (lastOfWindows + 1), .filled 7 0 false)] }

theorem staleCopy_canBind : CanBind staleCopy windowPend windowLoad :=
  ⟨by decide +kernel, by decide +kernel, fun f hf => absurd hf List.not_mem_nil, by decide +kernel, by decide +kernel, by decide +kernel⟩

/-- The register takes the copy's byte. -/
theorem staleCopy_reads : (match exec (.longLatencyCompletion 5) staleCopy with
    | .next t => t.vget r0 8 0
    | _ => 0) = 0x700 := by decide +kernel

/-- Memory holds zero there. -/
theorem staleCopy_memory :
    (withResults (staleCopy.team r0.tok) windowPend.memory (resultsOf staleCopy windowPend)).vget 8 0 = 0 := by decide +kernel

/-- Refutes O54: a load whose first byte is the last of the host windows, which no cache holds, runs on into bytes that the
core holds a copy of, and completes with the copy's byte instead of memory's. -/
theorem not_completionsAndEnds : ¬ Obligations.CompletionsAndEnds := by
  intro holds
  obtain ⟨completions, -⟩ := holds
  obtain ⟨completes, -⟩ := completions staleCopy 5 windowPend ⟨0, r0, [], none, false⟩
  obtain ⟨clean, -⟩ := completes (by decide +kernel) rfl (fun x hx => by cases hx; exact staleCopy_canBind)
    (fun f hf => absurd hf List.not_mem_nil)
  obtain ⟨t, ends, -, -, -, -, ⟨vregs, -⟩, -⟩ := clean rfl
  have reads := staleCopy_reads
  rw [ends] at reads
  exact absurd (reads.symm.trans ((vregs 8 0).trans staleCopy_memory)) (by decide)

end Sys2Proof.Machine
end

section
/-! SUPPORT. Ages of paths where a die's part of a cycle has run over (R47, R144). -/

namespace Sys2Proof.Machine
open Sys2Proof.Tests

/-! ### A cycle that has run over -/

/-- A bench whose die 0 holds, as its part of a cycle, 2^64 - 1024 whole cycles. -/
def overrunCycle : State := { bn 0 with die0 := { (bn 0).die0 with part := (2 ^ 64 - 1024) * (10 * tickParts) } }

/-- With the 1,024 cycles that pass, the die counts 2^64 of them, and its counter stands where it stood. -/
theorem overrunCycle_age : (match exec (.pathAged r0) overrunCycle with
    | .next t => ((t.ageFrom overrunCycle none).path r0).age
    | _ => 1024) = 0 := by decide +kernel

/-- Refutes O55: where the part of a cycle is not less than a whole cycle, a ready path's counter need not reach 1,024 when
PATH_AGED has carried the time forward. -/
theorem not_dispatcher : ¬ Obligations.Dispatcher := by
  intro holds
  obtain ⟨-, -, ages⟩ := holds
  obtain ⟨-, ready, -⟩ := ages overrunCycle r0
  obtain ⟨next, reaches⟩ := ready (by decide +kernel) (by decide +kernel)
  have age := overrunCycle_age
  rw [next] at age
  have least := reaches (by decide +kernel) (by decide +kernel) (by decide +kernel) (by decide +kernel)
  exact absurd (least.trans (Nat.le_of_eq age)) (by decide)

end Sys2Proof.Machine
end

section
/-! SUPPORT. Detected errors, the bound on copies, and fault records that waited for room (R230, R450, R455 to R457). -/

namespace Sys2Proof.Machine

section
variable {s t : State}

/-! ### What an error found leaves of poison and of copies -/

/-- R459: an event changes memory, where the ring lies, and the control space, and nothing else. -/
theorem logEvent_frame (s : State) (src code cls : Nat) (ctx : Option Nat) (detail : List Byte) :
    let t := s.logEvent src code cls ctx detail
    t = { s with mem := t.mem, hostL2 := t.hostL2, csr := t.csr } := by
  intro t
  let P : State → Prop := fun t => t = { s with mem := t.mem, hostL2 := t.hostL2, csr := t.csr }
  suffices h : P t from h
  have put : ∀ (u : State) (k : Nat) (bs : List Byte), P u → P (u.putBytes k bs) := by
    intro u k bs hu
    change u.putBytes k bs = _
    rw [show u = _ from hu]
    rfl
  have csr : ∀ (u : State) (v : DWord) (a : Nat), P u → P (u.csrPut a 0 v) := by
    intro u v a hu
    change u.csrPut a 0 v = _
    rw [show u = _ from hu]
    rfl
  change P (s.logEvent src code cls ctx detail)
  rw [State.logEvent]
  dsimp only
  split
  · rfl
  · split
    · rfl
    · exact csr _ _ _ (put _ _ _ (makeRoom_keeps put _ _ _ _ _ _ rfl))

theorem logEvent_poison (s : State) (src code cls : Nat) (ctx : Option Nat) (detail : List Byte) :
    (s.logEvent src code cls ctx detail).poison = s.poison := by
  rw [logEvent_frame]

theorem logEvent_copies (s : State) (src code cls : Nat) (ctx : Option Nat) (detail : List Byte) :
    (s.logEvent src code cls ctx detail).copies = s.copies := by
  rw [logEvent_frame]

theorem noteFailed_marks (s : State) (r : PathRef) (both : Bool) (k va : Nat) :
    (s.noteFailed r both k va).poison = s.poison ∧ (s.noteFailed r both k va).copies = s.copies := by
  rw [State.noteFailed]
  split
  · exact ⟨rfl, rfl⟩
  · dsimp only
    split <;> exact ⟨rfl, rfl⟩

theorem poisonFlake_contains (s : State) (k : Nat) : (s.poisonFlake k).poison.contains (k / 32 * 32) = true := by
  rw [State.poisonFlake]
  split
  next listed => exact listed
  next => simp

theorem poisonFlake_copies (s : State) (k : Nat) : (s.poisonFlake k).copies = s.copies := by
  rw [State.poisonFlake]
  split <;> rfl

theorem failOwn_poison (s : State) (o : OwnLine) : (s.failOwn o).poison.contains (o.key / 32 * 32) = true := by
  rw [State.failOwn]
  rw [foldl_same State.poison _ _ _ fun s x => (noteFailed_marks ..).1, State.logError, logEvent_poison]
  exact poisonFlake_contains ..

theorem failCopy_poison (s : State) (unit k : Nat) : (s.failCopy unit k).poison.contains (k / 32 * 32) = true := by
  rw [State.failCopy]
  dsimp only
  rw [foldl_same State.poison _ _ _ fun s x => (noteFailed_marks ..).1, State.logError, logEvent_poison]
  exact poisonFlake_contains ..

theorem failCopy_copies (s : State) (unit k : Nat) : (s.failCopy unit k).copies =
    s.copies.filter fun x => !(x.1 / 2 ^ 60 == unit && x.1 % 2 ^ 60 / 32 == k / 32) := by
  rw [State.failCopy]
  dsimp only
  rw [foldl_same State.copies _ _ _ fun s x => (noteFailed_marks ..).2, State.logError, logEvent_copies, poisonFlake_copies]

theorem cpKey_div (unit : Nat) {k : Nat} (h : k < 2 ^ 60) : cpKey unit k / 2 ^ 60 = unit ∧ cpKey unit k % 2 ^ 60 = k := by
  unfold cpKey
  omega

theorem failCopy_dropped (s : State) (unit : Nat) {m i : Nat} (hm : m < 2 ^ 60) (hi : i < 32) :
    ((s.failCopy unit m).copyByte unit (m / 32 * 32 + i)).valid = false := by
  obtain ⟨own, off⟩ := cpKey_div unit (show m / 32 * 32 + i < 2 ^ 60 by omega)
  have gone := get_filter_dropped (dflt := CopyByte.none) (m := s.copies) (k := cpKey unit (m / 32 * 32 + i))
    (f := fun x => !(x.1 / 2 ^ 60 == unit && x.1 % 2 ^ 60 / 32 == m / 32)) fun v => by
      dsimp only
      rw [own, off, show (m / 32 * 32 + i) / 32 = m / 32 by omega]
      simp
  rw [State.copyByte, failCopy_copies, gone]
  rfl

/-! ### An error in the dirty bytes of an L1 -/

/-- The mark of an error in a dirty byte (R457). -/
def CopyByte.struck (c : CopyByte) : CopyByte := { c with bad := c.bad || c.dirty }

theorem CopyByte.struck_clean {c : CopyByte} (h : c.dirty = false) : c.struck = c := by
  rw [CopyByte.struck, h, Bool.or_false, ← h]

/-- An error strikes the dirty byte of a unit at a key (R457). -/
def State.strike (s : State) (unit k : Nat) : State :=
  let c := s.copyByte unit k
  if c.dirty then s.setCopy unit k { c with bad := true } else s

theorem strike_copyByte (s : State) (unit k j : Nat) :
    (s.strike unit k).copyByte unit j = if j = k then (s.copyByte unit k).struck else s.copyByte unit j := by
  rw [State.strike]
  split
  next dirty =>
    refine (Store.get_set _ _ _ _ _).trans ?_
    rw [CopyByte.struck, dirty, Bool.or_true]
    exact if_congr (by unfold cpKey; omega) rfl rfl
  next clean =>
    split
    next h => rw [h, CopyByte.struck_clean (Bool.eq_false_iff.2 clean)]
    next => rfl

theorem strike_frame (s : State) (unit k : Nat) : s.strike unit k = { s with copies := (s.strike unit k).copies } := by
  rw [State.strike]
  split <;> rfl

theorem strikes_frame (unit base : Nat) (l : List Nat) (s : State) :
    l.foldl (fun s i => s.strike unit (base + i)) s =
      { s with copies := (l.foldl (fun s i => s.strike unit (base + i)) s).copies } := by
  refine foldl_keeps (fun t => t = { s with copies := t.copies }) _ l s (fun t i h => ?_) rfl
  rw [strike_frame, h]

theorem strikes_copyByte (unit base : Nat) (l : List Nat) (once : l.Nodup) (s : State) (j : Nat) :
    (l.foldl (fun s i => s.strike unit (base + i)) s).copyByte unit (base + j) =
      if j ∈ l then (s.copyByte unit (base + j)).struck else s.copyByte unit (base + j) := by
  induction l generalizing s with
  | nil => rfl
  | cons i l ih =>
    obtain ⟨new, once⟩ := List.nodup_cons.1 once
    rw [List.foldl_cons, ih once, strike_copyByte]
    by_cases h : j = i
    · subst h
      rw [if_neg new, if_pos rfl, if_pos List.mem_cons_self]
    · have apart : base + j ≠ base + i := by omega
      rw [if_neg apart]
      exact if_congr (by simp [h]) rfl rfl

theorem l1Error_own {n m : Nat} {u : State} (hu : u = s.drainIf fun (f : Flight) => f.core == n && flakeOf f.key == flakeOf m &&
      decide (dieOfCore n = 1) == f.home && !s.flightHeld fun g => g.serial == f.serial) :
    s.l1Error n m = match u.l1own.find? fun o => o.core == n && o.meets (m / 32 * 32) 32 with
      | some o => u.failOwn o
      | none => if u.dirtyFlake n m then (List.range 32).foldl (fun s i => s.strike n (m / 32 * 32 + i)) u else u.dropFlake n m := by
  subst hu
  rfl

theorem dirtyFlake_iff {unit pa : Nat} :
    s.dirtyFlake unit pa = true ↔ ∃ i, i < 32 ∧ (s.copyByte unit (pa / 32 * 32 + i)).dirty = true := by
  rw [State.dirtyFlake, List.any_eq_true]
  simp only [List.mem_range]

theorem dirtyFlake_clean {unit pa : Nat} (clean : ∀ i, i < 32 → (s.copyByte unit (pa / 32 * 32 + i)).dirty = false) :
    s.dirtyFlake unit pa = false := by
  refine Bool.eq_false_iff.2 fun h => ?_
  obtain ⟨i, hi, dirty⟩ := dirtyFlake_iff.1 h
  exact Bool.false_ne_true ((clean i hi).symm.trans dirty)

theorem l1Struck (s : State) (n m : Nat) :
    let u := s.drainIf fun (f : Flight) => f.core == n && flakeOf f.key == flakeOf m && decide (dieOfCore n = 1) == f.home &&
      !s.flightHeld fun g => g.serial == f.serial
    let own := u.l1own.find? fun o => o.core == n && o.meets (m / 32 * 32) 32
    (∀ o, own = some o → s.l1Error n m = u.failOwn o) ∧
    (own = none → (∃ i, i < 32 ∧ (u.copyByte n (m / 32 * 32 + i)).dirty = true) → s.l1Error n m = { u with copies := (s.l1Error n m).copies } ∧
      ∀ i, i < 32 → (s.l1Error n m).copyByte n (m / 32 * 32 + i) = (u.copyByte n (m / 32 * 32 + i)).struck) ∧
    (own = none → (∀ i, i < 32 → (u.copyByte n (m / 32 * 32 + i)).dirty = false) → s.l1Error n m = u.dropFlake n m) := by
  intro u own
  have eq := l1Error_own (s := s) (n := n) (m := m) (u := u) rfl
  refine ⟨fun o found => ?_, fun unowned dirty => ?_, fun unowned clean => ?_⟩
  · rw [eq, show u.l1own.find? _ = some o from found]
  · rw [eq, show u.l1own.find? _ = none from unowned]
    dsimp only
    rw [if_pos (dirtyFlake_iff.2 dirty)]
    refine ⟨strikes_frame .., fun i hi => ?_⟩
    rw [strikes_copyByte _ _ _ List.nodup_range, if_pos (List.mem_range.2 hi)]
  · rw [eq, show u.l1own.find? _ = none from unowned]
    dsimp only
    rw [if_neg (Bool.eq_false_iff.1 (dirtyFlake_clean clean))]

/-! ### An error in the firn SRAM -/

theorem firnError_hit {die : Bool} {n : Nat} (h : ∃ e ∈ s.firn, e.die = die ∧ flakeOf e.pa = flakeOf n) :
    s.firnError die n = ({ s with firn := s.firn.map fun e =>
      { e with poison := e.poison || (e.die == die && flakeOf e.pa == flakeOf n) } } : State).logError
        (if die then 585 else 584) none (n / 32 * 32) false := by
  obtain ⟨e, he, hd, hp⟩ := h
  have hit : s.firn.any (FirnEntry.hits die n) = true := List.any_eq_true.2 ⟨e, he, by simp [FirnEntry.hits, hd, hp]⟩
  have marks : (fun e : FirnEntry => if e.hits die n then { e with poison := true } else e) =
      fun e => { e with poison := e.poison || (e.die == die && flakeOf e.pa == flakeOf n) } := by
    funext e
    change (if (e.die == die && flakeOf e.pa == flakeOf n) = true then _ else _) = _
    cases e.die == die && flakeOf e.pa == flakeOf n
    · rw [Bool.or_false]
      rfl
    · rw [Bool.or_true]
      rfl
  rw [State.firnError, if_pos hit, marks]

theorem firnError_miss {die : Bool} {n : Nat} (h : ∀ e ∈ s.firn, e.die = die → flakeOf e.pa ≠ flakeOf n) :
    s.firnError die n = s.logCorrected (if die then 585 else 584) (n / 32 * 32) := by
  rw [State.firnError, if_neg fun hit => ?_]
  obtain ⟨e, he, found⟩ := List.any_eq_true.1 hit
  rw [FirnEntry.hits, Bool.and_eq_true, beq_iff_eq, beq_iff_eq] at found
  exact h e he found.1 found.2

/-! ### Errors in registers, scratchpads and arrays -/

theorem mem_addNew (l : List Nat) (x : Nat) : x ∈ if l.contains x then l else l ++ [x] := by
  split
  next h => exact List.contains_iff_mem.1 h
  next => simp

theorem logEvent_off (s : State) (src code cls : Nat) (ctx : Option Nat) (detail : List Byte) (h : (s.csrGet 0x4051 0).toNat = 0) :
    s.logEvent src code cls ctx detail = s := by
  rw [State.logEvent]
  dsimp only
  rw [if_pos h]

theorem logEvent_coreSt (s : State) (src code cls : Nat) (ctx : Option Nat) (detail : List Byte) (n : Nat) :
    (s.logEvent src code cls ctx detail).coreSt n = s.coreSt n := by
  rw [logEvent_frame]
  rfl

theorem logError_poisoned (s : State) (src : Nat) (ctx : Option Nat) (at' : Nat) :
    s.logError src ctx at' false = s.logEvent src 9 2 ctx (leBytes 8 at' ++ leBytes 1 0) := by
  rw [State.logError, Bool.toNat_false]

theorem logError_stopped (s : State) (src : Nat) (ctx : Option Nat) (at' : Nat) :
    s.logError src ctx at' true = s.logEvent src 9 2 ctx (leBytes 8 at' ++ leBytes 1 1) := by
  rw [State.logError, Bool.toNat_true]

/-- R455: an error in device memory or in a dirty line of the L2 poisons its flake, with its event. -/
theorem homeError_eq (s : State) (n : Nat) : s.homeError n =
    (s.poisonFlake n).logEvent (if homeOfPa n then 585 else 584) 9 2 none (leBytes 8 (n / 32 * 32) ++ leBytes 1 0) := by
  rw [State.homeError, logError_poisoned]

/-- R455: an error that stops a path. -/
theorem pathError_eq (s : State) (r : PathRef) : exec (.uncorrectableError (.path r)) s =
    if (s.path r).live then .next ((s.takeStop r { cause := 23 }).logError (s.coreOf r) (some (s.ctxOf r)) 0 true) else .next s := rfl

/-- R455: an error in a dirty line of the L2 is one of its home. -/
theorem l2Error_dirty (s : State) (n : Nat) : exec (.uncorrectableError (.l2 n true)) s = .next (s.homeError n) := by
  refine Eq.trans (b := .next (if (true : Bool) = true then s.homeError n
    else s.logCorrected (if homeOfPa n then 585 else 584) (n / 32 * 32))) rfl ?_
  rw [if_pos rfl]

/-- R455: an error in a clean line of the L2, which can be had again. -/
theorem l2Error_clean (s : State) (n : Nat) : exec (.uncorrectableError (.l2 n false)) s =
    .next (s.logEvent (if homeOfPa n then 585 else 584) 8 1 none (leBytes 8 (n / 32 * 32))) := by
  refine Eq.trans (b := .next (if (false : Bool) = true then s.homeError n
    else s.logCorrected (if homeOfPa n then 585 else 584) (n / 32 * 32))) rfl ?_
  rw [if_neg Bool.false_ne_true, State.logCorrected]

/-! ### The obligations -/

theorem errorsFound : Rules.ErrorsFound := by
  intro s n m a hits corrected lost ctrl line
  refine ⟨rfl, rfl, fun die => ⟨fun h => ?_, fun h => ?_⟩, congrArg Host.Outcome.next (homeError_eq ..),
    (l2Error_dirty s n).trans (congrArg Host.Outcome.next (homeError_eq ..)), l2Error_clean s n, rfl, rfl, rfl, poisonFlake_contains .., ?_, ?_, ?_, ?_, ?_, ?_, ?_,
    fun r => ⟨fun live => ?_, fun ended => ?_⟩⟩
  · exact congrArg Host.Outcome.next ((firnError_hit h).trans (logError_poisoned ..))
  · exact congrArg Host.Outcome.next (firnError_miss h)
  · obtain ⟨owned, dirty, clean⟩ := l1Struck s n m
    exact ⟨fun o found => ⟨congrArg Host.Outcome.next (owned o found), failOwn_poison ..⟩, fun unowned h => ⟨_, rfl, dirty unowned h⟩,
      fun unowned h => congrArg Host.Outcome.next (clean unowned h)⟩
  · intro dirty hm
    exact ⟨_, congrArg Host.Outcome.next (if_pos (dirtyFlake_iff.2 dirty)), failCopy_poison .., fun i hi => failCopy_dropped _ _ hm hi⟩
  · intro clean
    exact congrArg Host.Outcome.next (if_neg (Bool.eq_false_iff.1 (dirtyFlake_clean clean)))
  · refine ⟨_, rfl, ?_, fun off => ?_⟩
    · rw [State.logError, (memOnly_logEvent ..).crew, State.crew_setCrew, if_pos rfl]
      exact mem_addNew ..
    · rw [State.logError, logEvent_off]
      · exact fun _ => rfl
      · exact off
  · refine ⟨_, rfl, ?_, rfl⟩
    rw [State.team_modTeam, if_pos rfl]
    exact mem_addNew ..
  · intro lane
    refine ⟨_, rfl, ?_, rfl⟩
    rw [State.team_modTeam, if_pos rfl]
    exact mem_addNew ..
  · refine fun u => ⟨⟨_, rfl, ?_, fun off => ?_⟩, _, rfl, ?_, fun off => ?_⟩
    · rw [State.logError, logEvent_coreSt, State.coreSt_modCore, if_pos rfl]
      exact mem_addNew ..
    · rw [State.logError, logEvent_off]
      · rfl
      · exact off
    · rw [State.logError, logEvent_coreSt, State.coreSt_modCore, if_pos rfl]
      exact mem_addNew ..
    · rw [State.logError, logEvent_off]
      · rfl
      · exact off
  · exact (pathError_eq s r).trans (by rw [if_pos live, logError_stopped])
  · exact (pathError_eq s r).trans (if_neg (Bool.eq_false_iff.1 ended))

/-! ### The bound on copies -/

theorem dropCopies_invalid (h : s.crossStop = false) {unit k : Nat} {f : Nat → Bool} (hk : k < 2 ^ 60) (hf : f k = true) :
    ((s.dropCopies unit f).copyByte unit k).valid = false := by
  obtain ⟨own, off⟩ := cpKey_div unit hk
  have gone := get_filter_dropped (dflt := CopyByte.none) (m := s.copies) (k := cpKey unit k)
    (f := fun x => !(x.1 / 2 ^ 60 == unit && f (x.1 % 2 ^ 60)) || (x.2.dirty && s.crossStop)) fun v => by
      dsimp only
      rw [own, off, hf, h]
      simp
  exact congrArg CopyByte.valid gone

/-- The only copies of a unit that a test selects are dirty ones of one byte. -/
theorem writeBack_byte (go : s.crossStop = false) {unit k : Nat} {c : CopyByte} (only : s.copiesOf unit = [(k, c)])
    (held : (s.copyByte unit k).dirty = true) (sound : c.bad = false) {f : Nat → Bool} (hf : f k = true) :
    (s.writeBack unit f).memByte k = c.val := by
  rw [State.writeBack, if_neg (Bool.eq_false_iff.1 go)]
  dsimp only
  rw [only, List.foldl_cons, List.foldl_nil, held, hf, Bool.and_self, if_pos rfl, sound, if_neg Bool.false_ne_true]
  refine (memByte_of_basis (foldl_same State.basis _ _ _ fun s k => State.mend_basis ..) k).trans ?_
  refine (memByte_of_basis (homeWrite_basis ..) k).trans ?_
  rw [State.memByte_putBytes _ _ _ _ id, dif_pos (by simp)]
  simp

theorem copiesOf_one {unit k : Nat} {c : CopyByte} (hk : k < 2 ^ 60) (h : s.copies = [(cpKey unit k, c)]) : s.copiesOf unit = [(k, c)] := by
  obtain ⟨own, off⟩ := cpKey_div unit hk
  rw [State.copiesOf, h, List.filterMap_cons_some (b := (k, c)) (by dsimp only; rw [if_pos own, off]), List.filterMap_nil]

theorem copyByte_one {unit k : Nat} {c : CopyByte} (h : s.copies = [(cpKey unit k, c)]) : s.copyByte unit k = c := by
  rw [State.copyByte, h, Store.get, if_pos rfl]

/-- A table of one entry, rewritten, and an entry listed behind it. -/
theorem set_one_set {β : Type} [DecidableEq β] {dflt v w : β} {a b : Nat} (c : β) (lt : a < b) (hw : w ≠ dflt) :
    Store.set dflt (Store.set dflt [(a, c)] a v) b w = (if v = dflt then [] else [(a, v)]) ++ [(b, w)] := by
  rw [Store.set, Store.set, if_neg hw]
  split
  · rw [Store.erase, List.filter_cons_of_neg (by simp)]
    rfl
  · rw [Store.put, if_neg (Nat.lt_irrefl a), if_pos rfl, Store.put, if_pos lt]
    rfl

/-- The only copy of an L1 joins the remote-data cache, where it is the only one. -/
theorem l1ToRdc_one {core k : Nat} (low : core < 576) {c : CopyByte} (hk : k < 2 ^ 60) (h : s.copies = [(cpKey core k, c)]) (dirty : c.dirty = true)
    (sound : c.bad = false) {f : Nat → Bool} (hf : f k = true) :
    ∃ c', c'.dirty = true ∧ c'.bad = false ∧ c'.val = c.val ∧ (s.l1ToRdc core f).copiesOf (rdcUnit (dieOfCore core)) = [(k, c')] ∧
      (s.l1ToRdc core f).copyByte (rdcUnit (dieOfCore core)) k = c' := by
  have apart : cpKey core k < cpKey (rdcUnit (dieOfCore core)) k := by
    unfold cpKey rdcUnit
    omega
  rw [State.l1ToRdc, copiesOf_one hk h]
  dsimp only
  rw [List.foldl_cons, List.foldl_nil, copyByte_one h, dirty, hf, Bool.and_self, if_pos rfl, sound, if_neg Bool.false_ne_true]
  let since := sinceFirst (s.unitCyc (rdcUnit (dieOfCore core))) (s.copyByte (rdcUnit (dieOfCore core)) k) c.since
  refine ⟨{ c with dirty := true, bad := false, since := since }, rfl, rfl, rfl, ?_, Store.get_set_same ..⟩
  obtain ⟨own, off⟩ := cpKey_div (rdcUnit (dieOfCore core)) hk
  obtain ⟨own', -⟩ := cpKey_div core hk
  rw [State.copiesOf, State.setCopy, State.setCopy, h, set_one_set c apart fun e => Bool.noConfusion (congrArg CopyByte.dirty e),
    List.filterMap_append, List.filterMap_cons_some (b := (k, _)) (by dsimp only; rw [if_pos own, off]), List.filterMap_nil]
  refine List.append_left_eq_self.2 ?_
  split
  · rfl
  · exact List.filterMap_cons_none (if_neg fun e => absurd (own'.symm.trans e) (by unfold rdcUnit; omega))

theorem boundsAndRecords : Rules.BoundsAndRecords := by
  intro s n m hm
  refine ⟨fun go => ⟨_, rfl, fun i hi => ?_, fun i c hi only dirty sound => ?_⟩, fun none => ?_, fun b bs held => ⟨fun full => ?_, fun room => ?_⟩⟩
  · refine dropCopies_invalid (MemOnly.crossStop (s := s) ?_ |>.trans go) (by omega) (beq_iff_eq.2 (by omega))
    split
    · exact memOnly_flushHome ..
    · exact memOnly_writeBack ..
  · have hk : 32 * m + i < 2 ^ 60 := by omega
    have hf : (fun k => k / 32 == m) (32 * m + i) = true := beq_iff_eq.2 (by omega)
    change State.memByte (if n < 576 then _ else _) _ = _
    split
    next l1 =>
      obtain ⟨c', dirty', sound', val, of, held⟩ := l1ToRdc_one (f := fun j => j / 32 == m) l1 hk only dirty sound hf
      rw [← val]
      exact writeBack_byte ((memOnly_l1ToRdc ..).crossStop.trans go) of ((congrArg CopyByte.dirty held).trans dirty') sound' hf
    next => exact writeBack_byte go (copiesOf_one hk only) ((congrArg CopyByte.dirty (copyByte_one only)).trans dirty) sound hf
  · change (match (s.ctx n).heldRec with | [] => _ | b :: bs => _) = _
    rw [none]
  · change (match (s.ctx n).heldRec with | [] => _ | b :: bs => _) = _
    rw [held]
    exact if_neg (Bool.eq_false_iff.1 full)
  · change (match (s.ctx n).heldRec with | [] => _ | b :: bs => _) = _
    rw [held]
    exact if_pos room

/-- Settles O57: every error found is taken up case by case, and a copy at its bound goes home before it is dropped. -/
theorem detectedErrors : Obligations.DetectedErrors := ⟨errorsFound, boundsAndRecords⟩

end

end Sys2Proof.Machine
end

section
/-! SUPPORT. Frequency steps, power limits and time messages; bring-up, power and attestation (R484 to R494). -/

namespace Sys2Proof.Machine

section
variable {s t : State}

/-! ### The dies -/

theorem State.die_setDie (s : State) (b c : Bool) (x : Die) : (s.setDie b x).die c = if c = b then x else s.die c := by
  cases b <;> cases c <;> rfl

theorem State.die_setDie_same (s : State) (b : Bool) (x : Die) : (s.setDie b x).die b = x := by
  rw [State.die_setDie, if_pos rfl]

theorem State.die_setDie_not (s : State) (b : Bool) (x : Die) : (s.setDie b x).die (!b) = s.die (!b) := by
  rw [State.die_setDie, if_neg (Bool.not_ne_self b)]

theorem setDie_basis (s : State) (b : Bool) (x : Die) : (s.setDie b x).basis = s.basis := by cases b <;> rfl
theorem setDie_boot (s : State) (b : Bool) (x : Die) : (s.setDie b x).boot = s.boot := by cases b <;> rfl
theorem setDie_tsc (s : State) (b : Bool) (x : Die) : (s.setDie b x).tsc = s.tsc := by cases b <;> rfl

theorem MemOnly.die (h : MemOnly s t) (b : Bool) : t.die b = s.die b := by rw [h.frame]; rfl
theorem MemOnly.boot (h : MemOnly s t) : t.boot = s.boot := by rw [h.frame]

/-- What the passing of time leaves of a die: its frequency and its steps. -/
structure SameClock (d e : Die) : Prop where
  f : e.f = d.f
  target : e.target = d.target
  relock : e.relock = d.relock
  fmax : e.fmax = d.fmax
  fwWrite : e.fwWrite = d.fwWrite

theorem Die.sameClock_counts (d : Die) (part cyc scc : Nat) : SameClock d { d with part := part, cyc := cyc, scc := scc } :=
  ⟨rfl, rfl, rfl, rfl, rfl⟩

theorem Die.runFor_sameClock (d : Die) (n : Nat) : SameClock d (d.runFor n) := by
  rw [Die.runFor]
  exact d.sameClock_counts _ _ _

theorem passParts_die (s : State) (n : Nat) (b : Bool) : SameClock (s.die b) ((s.passParts n).die b) := by
  cases b
  · exact (s.die0.runFor_sameClock (s.die0.runningParts s.moment (s.moment + n)))
  · exact (s.die1.runFor_sameClock (s.die1.runningParts s.moment (s.moment + n)))

theorem passTo_die (s : State) (n : Nat) (b : Bool) : SameClock (s.die b) ((s.passTo n).die b) := by
  rw [State.passTo]
  exact passParts_die ..

theorem add_sub_div_eq_max {k b : Nat} (hb : b < k) (a t : Nat) : (a * k + b + (t * k - (a * k + b))) / k = a.max t := by
  have pos : 0 < k := by omega
  rcases Nat.lt_or_ge a t with h | h
  · have le : a * k + b ≤ t * k := by nlinarith
    rw [Nat.add_sub_cancel' le, Nat.mul_div_cancel _ pos]
    exact (Nat.max_eq_right (Nat.le_of_lt h)).symm
  · have le : t * k ≤ a * k + b := by nlinarith
    rw [Nat.sub_eq_zero_of_le le, Nat.add_zero, Nat.add_comm, Nat.add_mul_div_right _ _ pos, Nat.div_eq_of_lt hb, Nat.zero_add]
    exact (Nat.max_eq_left h).symm

theorem passTo_tsc (s : State) (n : Nat) (sub : s.sub < tickParts) : (s.passTo n).tsc = s.tsc.max n :=
  add_sub_div_eq_max sub s.tsc n

theorem OnlyTime.boot (h : OnlyTime s t) : t.boot = s.boot := by rw [h]

/-! ### CLKCTL and the power limit -/

theorem clkctl_row (boot : s.boot = 2) (die : Bool) (v : DWord) :
    exec (.clkctl die v) s = .next (s.clkWrite 586 none die (v.toNat % 32)) := by
  have same : decide (die.toNat = 1) = die := by cases die <;> rfl
  have row : s.csrWrite port0 0x3020 die.toNat v.toNat = s.clkWrite port0.src port0.ctx (decide (die.toNat = 1)) (v.toNat % 32) :=
    csrWrite_row rfl boot rfl (Bool.toNat_lt die)
  rw [same] at row
  exact congrArg Host.Outcome.next row

theorem clkWrite_refused (src : Nat) (ctx : Option Nat) {die : Bool} {n : Nat} (h : n < 6 ∨ 20 < n ∨ s.stopped die = true) :
    s.clkWrite src ctx die n = s.logRefused src ctx 0x3020 n := if_pos h

theorem clkWrite_step (src : Nat) (ctx : Option Nat) {die : Bool} {n : Nat} (low : 6 ≤ n) (high : n ≤ 20) (go : s.stopped die = false) :
    ∃ u, MemOnly s u ∧ s.clkWrite src ctx die n = u.setDie die ((s.die die).step s.tsc (n.min (s.die die).fmax)) ∧
      (n ≤ (s.die die).fmax → u = s) ∧ ((s.csrGet 0x4051 0).toNat = 0 → u = s) := by
  rw [State.clkWrite, if_neg (by rw [go]; rintro (h | h | h); exacts [by omega, by omega, Bool.false_ne_true h])]
  refine ⟨if (s.die die).fmax < n then s.logRefused src ctx 0x3020 n else s, ?_, ?_, fun le => if_neg (Nat.not_lt.2 le), fun off => ?_⟩
  · split
    · exact memOnly_logRefused ..
    · exact MemOnly.refl s
  · split
    · dsimp only
      rw [(memOnly_logRefused ..).tsc]
    · rfl
  · rw [State.logRefused, logEvent_off _ _ _ _ _ _ off, ite_self]

theorem Die.step_other {d : Die} {tsc f : Nat} (h : f ≠ d.f) : d.step tsc f = { d with target := f, relock := some (tsc + 1) } := if_neg h
theorem Die.step_same {d : Die} {tsc f : Nat} (h : f = d.f) : d.step tsc f = d := if_pos h

theorem sameMemory_setDie (s : State) (die : Bool) (x : Die) : SameMemory s (s.setDie die x) := memByte_of_basis (setDie_basis ..)

/-- What a power limit leaves of its die. -/
def Die.limited (d : Die) (tsc f : Nat) : Die :=
  let d := { d with fmax := f }
  let waits := { d with fwWrite := d.fwWrite || decide (f < d.target) }
  match d.relock with
  | none => if f < d.f then d.step tsc f else d
  | some t => if t ≤ tsc ∨ f = d.f then waits else if f < d.target then { d with target := f } else d

theorem powerLimit_eq {die : Bool} {f : Nat} (low : 6 ≤ f) (high : f ≤ 20) : exec (.powerLimitWrite die f) s =
    .next ((s.logRefused 589 none 0x3021 f).setDie die ((s.die die).limited s.tsc f)) := by
  have kept := memOnly_logRefused s 589 none 0x3021 f
  rw [← kept.die, ← kept.tsc]
  exact if_neg (by omega)

theorem Die.limited_fmax (d : Die) (tsc f : Nat) : (d.limited tsc f).fmax = f := by
  unfold Die.limited
  dsimp only
  split
  · split
    · rw [Die.step]
      split <;> rfl
    · rfl
  · split
    · rfl
    · split <;> rfl

/-! ### The end of a relock -/

theorem memOnly_logStep (s : State) (die : Bool) (at' old new : Nat) : MemOnly s (s.logStep die at' old new) := by
  rw [State.logStep]
  dsimp only
  split
  · exact MemOnly.refl s
  · exact (memOnly_homeWrite ..).trans (memOnly_csrPut ..)

/-- The die whose relock ends, as it goes on. -/
def State.relocked (s : State) (die : Bool) (t0 : Nat) : Die :=
  let u := s.passTo (t0 + relockTicks)
  (u.die die).restart (t0 + relockTicks) (u.moment - (t0 + relockTicks) * tickParts)

/-- The state at the end of a relock, before what waited to cross has crossed. -/
def State.resumed (s : State) (die : Bool) (t0 : Nat) : State :=
  let u := s.passTo (t0 + relockTicks)
  (u.logStep die (t0 + relockTicks) (u.die die).f (u.die die).target).setDie die (s.relocked die t0)

theorem relockEnd_eq {die : Bool} {t0 : Nat} (h : (s.die die).relock = some t0) :
    exec (.relockEnd die) s = .next (s.resumed die t0).payOwed.bootDone := by
  change (match (s.die die).relock with | none => _ | some t => _) = _
  rw [h]
  rfl

theorem resumed_keeps (s : State) (die : Bool) (t0 : Nat) : let t := (s.resumed die t0).payOwed
    t.die die = s.relocked die t0 ∧ SameClock (s.die (!die)) (t.die (!die)) ∧ t.tsc = (s.passTo (t0 + relockTicks)).tsc ∧ t.boot = s.boot := by
  obtain ⟨⟨o, mem⟩, -⟩ := payOwed_keeps (s.resumed die t0)
  have logged := memOnly_logStep (s.passTo (t0 + relockTicks)) die (t0 + relockTicks) ((s.passTo (t0 + relockTicks)).die die).f
    ((s.passTo (t0 + relockTicks)).die die).target
  refine ⟨(mem.die die).trans (State.die_setDie_same ..), ?_, ?_, ?_⟩
  · rw [mem.die]
    change SameClock _ ((s.resumed die t0).die _)
    rw [State.resumed, State.die_setDie_not, logged.die]
    exact passTo_die ..
  · rw [mem.tsc]
    exact (setDie_tsc ..).trans logged.tsc
  · rw [mem.boot]
    exact (setDie_boot ..).trans (logged.boot.trans (onlyTime_passTo ..).boot)

theorem restart_keeps (d : Die) (r parts : Nat) : (d.restart r parts).f = d.target ∧
    (d.fwWrite = false ∨ d.target ≤ d.fmax → (d.restart r parts).relock = none) ∧
    (d.fwWrite = true → d.fmax < d.target → (d.restart r parts).relock = some (r + 1) ∧ (d.restart r parts).target = d.fmax) := by
  unfold Die.restart
  dsimp only
  split
  next again =>
    obtain ⟨waits, above⟩ := Bool.and_eq_true_iff.1 again
    refine ⟨rfl, ?_, fun _ _ => ⟨rfl, rfl⟩⟩
    rintro (h | h)
    · exact absurd (h.symm.trans waits) Bool.false_ne_true
    · exact absurd (of_decide_eq_true above) (Nat.not_lt.2 h)
  next once => exact ⟨rfl, fun _ => rfl, fun waits above => absurd (Bool.and_eq_true_iff.2 ⟨waits, decide_eq_true above⟩) once⟩

theorem relocked_keeps (s : State) (die : Bool) (t0 : Nat) : (s.relocked die t0).f = (s.die die).target ∧
    ((s.die die).fwWrite = false ∨ (s.die die).target ≤ (s.die die).fmax → (s.relocked die t0).relock = none) ∧
    ((s.die die).fwWrite = true → (s.die die).fmax < (s.die die).target →
      (s.relocked die t0).relock = some (t0 + relockTicks + 1) ∧ (s.relocked die t0).target = (s.die die).fmax) := by
  obtain ⟨-, target, -, fmax, fw⟩ := passTo_die s (t0 + relockTicks) die
  have kept := restart_keeps ((s.passTo (t0 + relockTicks)).die die) (t0 + relockTicks)
    ((s.passTo (t0 + relockTicks)).moment - (t0 + relockTicks) * tickParts)
  rw [target, fmax, fw] at kept
  exact kept

theorem bootDone_ran (h : s.boot = 2) : s.bootDone = s := by
  rw [State.bootDone, h]
  rfl

/-- What a message does depends on what it performs at the state it finds. -/
theorem onMsg_congr (s : State) (via : Via) {f g : State → Option State} (h : f s = g s) : s.onMsg via f = s.onMsg via g := by
  rw [State.onMsg, State.onMsg, h]

/-- Settles O59: CLKCTL, the end of a relock and the power limit each leave one die changed. -/
theorem clockSteps : Obligations.ClockSteps := by
  intro s die v f tsc0 via boot sub d n other
  refine ⟨fun bad => ?_, fun low high go change' => ?_, fun low le high go same => ?_, fun t0 relock => ?_, fun bad => ?_, fun low high => ?_,
    fun ⟨up, port, dst, new, ctx⟩ cond => ?_, fun ⟨up, port, dst, new, ctx⟩ rank strict src => ?_⟩
  · exact (clkctl_row boot die v).trans (congrArg _ (clkWrite_refused 586 none bad))
  · obtain ⟨u, mem, eq, within, off⟩ := clkWrite_step 586 none low high go
    refine ⟨_, clkctl_row boot die v, ?_, ?_, fun quiet => ?_⟩
    · rw [eq, State.die_setDie_same, Die.step_other change']
    · change State.die _ _ = _
      rw [eq, State.die_setDie_not, mem.die]
    · rw [eq, show u = s from quiet.elim within off]
      exact sameMemory_setDie s die _
  · obtain ⟨u, mem, eq, within, -⟩ := clkWrite_step 586 none low high go
    refine ⟨_, clkctl_row boot die v, ?_, ?_, ?_⟩
    · rw [eq, State.die_setDie_same, Die.step_same (by rw [show n.min d.fmax = n from Nat.min_eq_left le]; exact same)]
    · change State.die _ _ = _
      rw [eq, State.die_setDie_not, mem.die]
    · rw [eq, within le]
      exact sameMemory_setDie s die _
  · obtain ⟨here, there, tsc, still⟩ := resumed_keeps s die t0
    obtain ⟨freq, once, again⟩ := relocked_keeps s die t0
    refine ⟨_, (relockEnd_eq relock).trans (congrArg _ (bootDone_ran (still.trans boot))), ?_, tsc.trans (passTo_tsc s _ sub), ?_, ?_, there.f, there.relock⟩
    · rw [here]
      exact freq
    · rw [here]
      exact once
    · rw [here]
      exact again
  · exact if_pos bad
  · have kept := memOnly_logRefused s 589 none 0x3021 f
    refine ⟨_, powerLimit_eq low high, ?_, ?_, fun off => ?_, fun free below => ?_, fun free above => ?_, fun t0 relock => ⟨fun late => ?_, fun early apart => ?_⟩⟩
    · rw [State.die_setDie_same, Die.limited_fmax]
    · change State.die _ _ = _
      rw [State.die_setDie_not, kept.die]
    · rw [State.logRefused, logEvent_off _ _ _ _ _ _ off]
      exact sameMemory_setDie s die _
    · rw [State.die_setDie_same, Die.limited]
      dsimp only
      rw [free]
      dsimp only
      rw [if_pos below]
      refine (fun e : _ = _ => ?_) (Die.step_other (d := { s.die die with fmax := f, relock := none }) (tsc := s.tsc) (Nat.ne_of_lt below))
      rw [e]
      exact ⟨rfl, rfl⟩
    · rw [State.die_setDie_same, Die.limited]
      dsimp only
      rw [free]
      exact if_neg (Nat.not_lt.2 above)
    · rw [State.die_setDie_same, Die.limited]
      dsimp only
      rw [relock]
      exact if_pos late
    · rw [State.die_setDie_same, Die.limited]
      dsimp only
      rw [relock]
      dsimp only
      rw [if_neg (not_or.2 ⟨Nat.not_le.2 early, apart⟩)]
      split
      next below => rw [show d.target.min f = f from Nat.min_eq_right (Nat.le_of_lt below)]
      next above => rw [show d.target.min f = d.target from Nat.min_eq_left (Nat.not_lt.1 above)]
  · refine congrArg Host.Outcome.next ((onMsg_arrives ⟨up, port, dst, new, ctx⟩ id).symm ▸ onMsg_congr s via ?_)
    exact if_pos cond
  · refine congrArg Host.Outcome.next ((onMsg_arrives ⟨up, port, dst, new, ctx⟩ fun s => { s with
      slew := (tsc0 : Int) - s.tsc, locked := decide (((tsc0 : Int) - s.tsc).natAbs ≤ 100) }).symm ▸ onMsg_congr s via ?_)
    refine if_neg ?_
    rw [strict, src]
    simp [rank]

end

end Sys2Proof.Machine
end

section
/-! SUPPORT. Reset, bring-up, recovery, power rails and attestation (R484 to R486, R493). -/

namespace Sys2Proof.Machine

section
variable {s t : State}

/-! ### What the boot sequence keeps -/

/-- A package reset has begun: what lies outside it is as before (R484). -/
structure Resets (s t : State) : Prop where
  flash : t.flash = s.flash
  power : t.power = s.power
  rails : t.rails = s.rails
  out : t.out = s.out

/-- The package is at reset. -/
structure AtReset (t : State) : Prop where
  boot : t.boot = 0
  tsc : t.tsc = 0
  teams : t.teams = []
  crews : t.crews = []
  grids : t.grids = []
  csr : t.csr = []

theorem cold_atReset (s : State) : AtReset s.cold := ⟨rfl, rfl, rfl, rfl, rfl, rfl⟩
theorem cold_resets (s : State) : Resets s s.cold := ⟨rfl, rfl, rfl, rfl⟩
theorem cold_fuseSvn (s : State) : s.cold.fuseSvn = s.fuseSvn := rfl

theorem Resets.trans {u : State} (h : Resets s t) (h' : Resets t u) : Resets s u :=
  ⟨h'.flash.trans h.flash, h'.power.trans h.power, h'.rails.trans h.rails, h'.out.trans h.out⟩

theorem cold_flashImage (s : State) : s.cold.flashImage = s.flashImage := rfl
theorem cold_imageOk (s : State) (img : List Byte) : s.cold.imageOk img = s.imageOk img := rfl

theorem bootIf_held (h : s.power = false ∨ s.resetn = false ∨ s.rails.all id = false) : s.bootIf = s.cold := by
  rw [State.bootIf, if_neg]
  rcases h with h | h | h <;> simp [h]

theorem bootIf_runs (power : s.power = true) (resetn : s.resetn = true) (rails : s.rails.all id = true) : s.bootIf = s.boot' := by
  rw [State.bootIf, power, resetn, rails]
  exact if_pos rfl

theorem onlyTime_pass (s : State) (n : Nat) : OnlyTime s (s.pass n) := rfl

/-- The state in which the firmware steps both clocks: measured, its links up (R484, step 4). -/
def State.measured (s u : State) : State :=
  { u with meas := u.measure s.flashImage, runSvn := Config.imageSvn s.flashImage, boot := 1, hostUp0 := true, hostUp1 := true,
           fresh := u.fresh + 1 }

/-- The state in which an image waits to be staged (R485). -/
def State.inRecovery (s : State) : State := { s with boot := 3, hostUp0 := true, hostUp1 := true, fresh := s.fresh + 1 }

/-- Both clocks take their step to 18. -/
def State.stepBoth (s : State) : State :=
  (s.setDie false (s.die0.step s.tsc (Nat.min 18 s.die0.fmax))).setDie true (s.die1.step s.tsc (Nat.min 18 s.die1.fmax))

theorem boot'_eq (s : State) : ∃ u, OnlyTime s.cold u ∧ SameClock (s.cold.die false) (u.die false) ∧ SameClock (s.cold.die true) (u.die true) ∧
    s.boot' = if s.imageOk s.flashImage then (s.measured u).stepBoth.bootDone
      else u.inRecovery := by
  refine ⟨s.cold.pass (Config.bootSlow s.cold.fresh), onlyTime_pass .., passParts_die _ _ false, passParts_die _ _ true, ?_⟩
  have kept := onlyTime_pass s.cold (Config.bootSlow s.cold.fresh)
  have image : (s.cold.pass (Config.bootSlow s.cold.fresh)).imageOk s.flashImage = s.imageOk s.flashImage := by
    rw [kept]
    rfl
  rw [← image]
  rfl

theorem OnlyTime.resets (h : OnlyTime s t) : Resets s t := by
  rw [h]
  exact ⟨rfl, rfl, rfl, rfl⟩

/-- What step 5 makes of the state when the time of the firmware has passed. -/
def State.ran (s : State) : State :=
  { s with boot := 2, fuseSvn := if Config.raisesFuse s.fresh then s.runSvn else s.fuseSvn, fresh := s.fresh + 1 }

theorem bootDone_eq (s : State) : ∃ u, OnlyTime s u ∧
    s.bootDone = if s.boot ≠ 1 || s.die0.relock.isSome || s.die1.relock.isSome then s else u.ran :=
  ⟨s.pass (Config.bootFast s.fresh), onlyTime_pass .., rfl⟩

theorem bootDone_resets (s : State) : Resets s s.bootDone := by
  obtain ⟨u, time, eq⟩ := bootDone_eq s
  rw [eq]
  split
  · exact ⟨rfl, rfl, rfl, rfl⟩
  · exact time.resets.trans ⟨rfl, rfl, rfl, rfl⟩

theorem bootDone_runs (boot : s.boot = 1) (free : ∀ b, (s.die b).relock = none) : s.bootDone.boot = 2 := by
  obtain ⟨u, -, eq⟩ := bootDone_eq s
  have free0 : s.die0.relock = none := free false
  have free1 : s.die1.relock = none := free true
  rw [eq, boot, free0, free1]
  exact congrArg State.boot (if_neg (by decide))

theorem bootDone_waits {b : Bool} (busy : (s.die b).relock.isSome = true) : s.bootDone = s := by
  obtain ⟨u, -, eq⟩ := bootDone_eq s
  rw [eq]
  refine if_pos ?_
  cases b
  · rw [show s.die0.relock.isSome = true from busy, Bool.or_true, Bool.true_or]
  · rw [show s.die1.relock.isSome = true from busy, Bool.or_true]

theorem stepBoth_resets (s : State) : Resets s s.stepBoth := ⟨rfl, rfl, rfl, rfl⟩
theorem measured_resets (s u : State) : Resets u (s.measured u) := ⟨rfl, rfl, rfl, rfl⟩
theorem inRecovery_resets (s : State) : Resets s s.inRecovery := ⟨rfl, rfl, rfl, rfl⟩
theorem measured_die (s u : State) (b : Bool) : (s.measured u).die b = u.die b := rfl
theorem stepBoth_die (s : State) (b : Bool) : s.stepBoth.die b = (s.die b).step s.tsc (Nat.min 18 (s.die b).fmax) := by
  cases b <;> rfl

theorem boot'_resets (s : State) : Resets s s.boot' := by
  obtain ⟨u, time, -, -, eq⟩ := boot'_eq s
  rw [eq]
  refine (cold_resets s).trans (time.resets.trans ?_)
  split
  · exact (measured_resets s u).trans ((stepBoth_resets _).trans (bootDone_resets _))
  · exact inRecovery_resets u

theorem bootIf_resets (s : State) : Resets s s.bootIf := by
  rw [State.bootIf]
  split
  · exact boot'_resets s
  · exact cold_resets s

theorem Die.step_relock {d : Die} (reset : d.relock = none) (tsc f : Nat) : (d.step tsc f).relock = if f = d.f then none else some (tsc + 1) := by
  rw [Die.step]
  split
  · exact reset
  · rfl

/-- R484: after a reset the firmware steps both clocks to 18, or to the ceiling where that is lower; a die that is there
already needs no relock. -/
theorem boot'_boot (s : State) : s.boot'.boot = if s.imageOk s.flashImage then
    (if Nat.min 18 s.die0.fmax = 6 ∧ Nat.min 18 s.die1.fmax = 6 then 2 else 1) else 3 := by
  obtain ⟨u, -, d0, d1, eq⟩ := boot'_eq s
  rw [eq]
  split
  next ok =>
    have relock0 : ((s.measured u).stepBoth.die false).relock = if Nat.min 18 s.die0.fmax = 6 then none else some (u.tsc + 1) := by
      rw [stepBoth_die, measured_die, Die.step_relock d0.relock, d0.fmax, d0.f]
      rfl
    have relock1 : ((s.measured u).stepBoth.die true).relock = if Nat.min 18 s.die1.fmax = 6 then none else some (u.tsc + 1) := by
      rw [stepBoth_die, measured_die, Die.step_relock d1.relock, d1.fmax, d1.f]
      rfl
    split
    next both =>
      refine bootDone_runs rfl fun b => ?_
      cases b
      · rw [relock0, if_pos both.1]
      · rw [relock1, if_pos both.2]
    next some =>
      rcases Decidable.not_and_iff_or_not.1 some with busy | busy
      · rw [bootDone_waits (b := false) (by rw [relock0, if_neg busy]; rfl)]
        rfl
      · rw [bootDone_waits (b := true) (by rw [relock1, if_neg busy]; rfl)]
        rfl
  next => rfl

/-- R484: the end of the last relock of bring-up ends it. -/
theorem relockEnd_boots {die : Bool} (t0 : Nat) (boot : s.boot = 1)
    (fw : (s.die die).fwWrite = false) (other : (s.die (!die)).relock = none) : (s.resumed die t0).payOwed.bootDone.boot = 2 := by
  obtain ⟨here, there, -, still⟩ := resumed_keeps s die t0
  obtain ⟨-, once, -⟩ := relocked_keeps s die t0
  refine bootDone_runs (still.trans boot) fun b => ?_
  by_cases h : b = die
  · rw [h, here]
    exact once (.inl fw)
  · rw [show b = !die from Bool.eq_not.2 h, there.relock]
    exact other

theorem bringUp : Rules.BringUp := by
  intro s port good rail low ups turned order
  have cold : ∀ u : State, u.flash = s.flash → u.fuseSvn = s.fuseSvn → low u.cold := fun u flash fuse =>
    ⟨rfl, rfl, rfl, rfl, rfl, rfl, flash, fuse⟩
  refine ⟨⟨_, rfl, ?_, ?_⟩, fun held => ⟨_, rfl, ?_, (bootIf_resets _).power⟩, fun resetn rails => ?_, fun power rails => ?_, boot'_boot s,
    fun die t0 boot relock fw other => ⟨_, relockEnd_eq relock, relockEnd_boots t0 boot fw other⟩,
    ⟨_, rfl, cold _ rfl rfl, rfl, rfl, rfl⟩, fun all => ⟨_, if_pos all, (bootIf_resets _).power, (bootIf_resets _).rails, ?_⟩,
    fun few => ⟨_, if_neg (Nat.not_le.2 few), cold _ rfl rfl, rfl, rfl, ?_⟩, rfl, fun ran => ?_, fun recovery => ?_⟩
  · rw [bootIf_held (.inr (.inl rfl))]
    exact cold _ rfl rfl
  · rw [bootIf_held (.inr (.inl rfl))]
    rfl
  · rw [bootIf_held]
    · exact cold _ rfl rfl
    · exact .inr held
  · exact congrArg Host.Outcome.next (bootIf_runs rfl resetn rails)
  · exact congrArg Host.Outcome.next (bootIf_runs power rfl rails)
  · refine (bootIf_resets _).out.trans (congrArg (s.out ++ turned · true) ?_)
    exact List.take_of_length_le (Nat.le_succ_of_le all)
  · have rails : railOrder.take good ++ [good] = order.take (good + 1) := by
      match good, few with
      | 0, _ => rfl
      | 1, _ => rfl
      | 2, _ => rfl
      | 3, _ => rfl
    exact congrArg (fun l => s.out ++ turned (order.take (good + 1)) true ++ turned l.reverse false ++ [.railFailed good]) rails
  · exact congrArg Host.Outcome.next (if_pos ran)
  · intro m img
    refine ⟨_, congrArg Host.Outcome.next (if_neg (not_not.2 recovery)), ?_⟩
    split
    next ok => exact (congrArg State.flash (if_pos ok)).trans (bootIf_resets _).flash
    next bad => exact if_neg bad

/-! ### Attestation -/

theorem spdmError_eq (s : State) (chan code : Nat) : s.spdmError chan code = s.spdm chan 0x7F [BitVec.ofNat 8 code] := rfl

theorem attestation : Rules.Attestation := by
  intro s chan slot off len index code nonce up sends error
  have measured (low : 1 ≤ index) (high : index < 0xFF) : exec (.getMeasurements chan index) s =
      match s.meas[index - 1]? with
      | some m => s.spdm chan 0x60 m
      | none => s.spdmError chan 0x01 := by
    have first : index ≠ 0 := by omega
    have last : index ≠ 0xFF := by omega
    exact (if_neg first).trans (if_neg last)
  refine ⟨rfl, rfl, rfl, rfl, rfl, fun other => ⟨?_, ?_⟩, rfl, rfl, fun m low high held => (measured low high).trans (by rw [held]; rfl),
    fun low high none => (measured low high).trans (by rw [none]; rfl), rfl⟩
  · exact if_neg other
  · exact if_neg other

/-- Settles O60: the boot sequence keeps what lies outside the reset, and each request has its one response. -/
theorem bringUpAndAttestation : Obligations.BringUpAndAttestation := ⟨bringUp, attestation⟩

end

end Sys2Proof.Machine
end

section
/-! SUPPORT. Packets, requests and links (R266 to R268, R462, R469 to R473). -/

namespace Sys2Proof.Machine

section
variable {s t u : State} {q : Req} {rest : List Req} {p : Packet}

/-! ### A path that has stopped stays stopped -/

/-- No path that has stopped goes on. -/
structure StaysStopped (s t : State) : Prop where
  stays : ∀ r, (s.path r).wait = .stopped → (t.path r).wait = .stopped

theorem StaysStopped.refl (s : State) : StaysStopped s s := ⟨fun _ h => h⟩
theorem StaysStopped.trans (h : StaysStopped s t) (h' : StaysStopped t u) : StaysStopped s u := ⟨fun r hr => h'.stays r (h.stays r hr)⟩

theorem staysStopped_foldl {α : Type} {f : State → α → State} (h : ∀ s a, StaysStopped s (f s a)) (l : List α) : StaysStopped s (l.foldl f s) :=
  foldl_keeps (StaysStopped s) f l s (fun t a ht => ht.trans (h t a)) (StaysStopped.refl s)

theorem staysStopped_modPath (s : State) (r : PathRef) {f : Path → Path} (h : (s.path r).wait = .stopped → (f (s.path r)).wait = .stopped) :
    StaysStopped s (s.modPath r f) := by
  refine ⟨fun q hq => ?_⟩
  rw [State.path_modPath]
  split
  next e => exact h (e ▸ hq)
  next => exact hq

theorem staysStopped_sset (s : State) (r : PathRef) (d : SReg) (v : DWord) : StaysStopped s (s.sset r d v) := ⟨fun q hq => by
  rw [State.path_sset]
  exact hq⟩

/-- Only a wait of another kind ends. -/
theorem staysStopped_endWait (s : State) {r : PathRef} (h : (s.path r).wait ≠ .stopped) (d : SReg) (n : Nat) : StaysStopped s (s.endWait r d n) := by
  rw [State.endWait, State.advance]
  exact (staysStopped_sset ..).trans (staysStopped_modPath _ _ fun stop => absurd stop (by rw [State.path_sset]; exact h))

theorem staysStopped_land (s : State) (k n : Nat) : StaysStopped s (s.land k n) := by
  rw [State.land]
  refine staysStopped_foldl (fun s r => ?_) _
  split
  · split
    · split
      next wait =>
        refine (staysStopped_modPath s r id).trans (staysStopped_endWait _ ?_ _ _)
        rw [State.path_modPath_same]
        exact fun e => Wait.noConfusion (wait.symm.trans e)
      next => exact staysStopped_modPath _ _ id
    · exact StaysStopped.refl s
  · exact StaysStopped.refl s

theorem staysStopped_homeWrite (s : State) (k : Nat) (bs : List Byte) : StaysStopped s (s.homeWrite k bs) := by
  rw [State.homeWrite]
  split
  · exact StaysStopped.refl s
  · refine StaysStopped.trans ⟨fun r hr => ?_⟩ (staysStopped_land ..)
    rw [State.recall]
    split <;> exact hr

theorem staysStopped_wfiEvent (s : State) (r : PathRef) (two : Bool) : StaysStopped s (s.wfiEvent r two) := by
  rw [State.wfiEvent]
  split
  next wait => exact (staysStopped_endWait _ (fun e => Wait.noConfusion (wait.symm.trans e)) _ _).trans (staysStopped_modPath _ _ id)
  · split
    · exact (staysStopped_sset ..).trans (staysStopped_modPath _ _ id)
    · refine staysStopped_modPath _ _ fun h => ?_
      split <;> exact h
  · refine staysStopped_modPath _ _ fun h => ?_
    split <;> exact h

theorem staysStopped_wakePart (s : State) (part : Nat) : StaysStopped s (s.wakePart part) := by
  rw [State.wakePart]
  refine StaysStopped.trans (t := s.wfiSaved (fun v => s.ctxPart (s.grid v.crew.grid).ctx == part) false) ⟨fun _ h => h⟩
    (staysStopped_foldl (fun s r => ?_) _)
  split
  · exact staysStopped_wfiEvent ..
  · exact StaysStopped.refl _

theorem staysStopped_fqWrite (s : State) (c : Nat) (bs : List Byte) : StaysStopped s (s.fqWrite c bs) := by
  rw [State.fqWrite]
  refine StaysStopped.trans (StaysStopped.trans (StaysStopped.trans ?_ (staysStopped_homeWrite ..)) (staysStopped_homeWrite ..)) (staysStopped_wakePart ..)
  exact makeRoom_keeps (P := StaysStopped s) (fun t k bs h => h.trans (staysStopped_homeWrite ..)) _ _ _ _ _ _ (StaysStopped.refl s)

theorem staysStopped_logEvent (s : State) (src code cls : Nat) (ctx : Option Nat) (detail : List Byte) :
    StaysStopped s (s.logEvent src code cls ctx detail) := ⟨fun r h => by
  rw [logEvent_frame]
  exact h⟩

theorem State.path_modCtx (s : State) (c : Nat) (f : Ctx → Ctx) (r : PathRef) : (s.modCtx c f).path r = s.path r := rfl
theorem State.path_withReqs (s : State) (l : List Req) (r : PathRef) : ({ s with reqs := l } : State).path r = s.path r := rfl
theorem modCtx_reqs (s : State) (c : Nat) (f : Ctx → Ctx) : (s.modCtx c f).reqs = s.reqs := rfl
theorem staysStopped_modCtx (s : State) (c : Nat) (f : Ctx → Ctx) : StaysStopped s (s.modCtx c f) := ⟨fun _ h => h⟩
theorem MemOnly.reqs (h : MemOnly s t) : t.reqs = s.reqs := by rw [h.frame]

/-- What delivering a fault record leaves: requests as they were, and stopped paths stopped. -/
theorem fqAdd_keeps (s : State) (c die : Nat) (bs : List Byte) : StaysStopped s (s.fqAdd c die bs) ∧ (s.fqAdd c die bs).reqs = s.reqs := by
  rw [State.fqAdd]
  split
  · exact ⟨staysStopped_fqWrite .., (memOnly_fqWrite ..).reqs⟩
  · dsimp only
    split
    · exact ⟨staysStopped_modCtx .., modCtx_reqs ..⟩
    · exact ⟨(staysStopped_modCtx ..).trans (staysStopped_logEvent ..), (memOnly_logEvent ..).reqs.trans (modCtx_reqs ..)⟩

/-- R447: a stop leaves its path stopped, and the requests on their way. -/
theorem takeStop_stops (s : State) (r : PathRef) (i : StopInfo) : ((s.takeStop r i).path r).wait = .stopped ∧ (s.takeStop r i).reqs = s.reqs := by
  rw [State.takeStop]
  split
  · rw [State.waitFor, State.path_modPath_same]
    exact ⟨rfl, rfl⟩
  · dsimp only
    obtain ⟨stopped, reqs⟩ := fqAdd_keeps ((s.modPath r fun p => { p with wait := .stopped, stop := some ⟨s.newHandle (s.ctxOf r), i.cause, i.sub⟩ }).modCtx
      (s.ctxOf r) fun x => { x with serial := x.serial + 1 }) (s.ctxOf r) (dieOfCore (s.crewOf r).core) (s.faultRecord (s.newHandle (s.ctxOf r)) i
      (s.crewOf r).grid (i.word.getD (s.path r).pc) (s.crewOf r).lin (whereBits (s.team r.tok).num r.path (s.crewOf r).core) false false
      (s.stopRegs r i.cause))
    refine ⟨stopped.stays r ?_, reqs.trans rfl⟩
    rw [State.path_modCtx, State.path_modPath_same]

/-! ### The request of a serial number -/

section
variable (alone : s.reqs = q :: rest) (own : ∀ x ∈ rest, x.serial ≠ q.serial)
include alone

theorem find_request {g : Req → Bool} (h : g q = true) : s.reqs.find? g = some q := by
  rw [alone, List.find?_cons_of_pos h]

include own

theorem find_noRequest {g : Req → Bool} (h : g q = false) (hg : ∀ x, g x = true → x.serial = q.serial) : s.reqs.find? g = none := by
  rw [alone, List.find?_cons_of_neg (Bool.eq_false_iff.1 h), List.find?_eq_none]
  exact fun x hx e => own x hx (hg x e)

theorem map_request (g : Req → Req) : (s.reqs.map fun x => if x.serial = q.serial then g x else x) = g q :: rest := by
  rw [alone, List.map_cons, if_pos rfl]
  refine congrArg (g q :: ·) ((List.map_congr_left fun x hx => if_neg (own x hx)).trans ?_)
  exact List.map_id _
end

/-! ### The end of a run -/

theorem getLsbD_maskOf_all (l : List Nat) (k : Nat) : (maskOf l fun _ => true).getLsbD k = (decide (k < 1024) && l.contains k) := by
  by_cases hk : k < 1024
  · have all : maskOf l (fun _ => true) = l.foldl (fun m l => m ||| laneBit l) 0 := by simp only [maskOf, if_true]
    rw [all, getLsbD_foldl_laneBits _ _ hk, decide_eq_true hk]
    simp
  · rw [decide_eq_false hk, Bool.false_and]
    exact BitVec.getLsbD_of_ge _ _ (Nat.not_lt.1 hk)

theorem endRun_path (s : State) (q : Req) (ls : List RLane) : (s.endRun q ls).path q.r =
    { s.path q.r with done := (s.path q.r).done ||| maskOf (ls.map fun x => x.lane) fun _ => true, wait := .none } := by
  rw [State.endRun, State.path_withReqs, State.path_modPath_same, State.path_regWrites]

theorem endRun_reqs (s : State) (q : Req) (ls : List RLane) :
    (s.endRun q ls).reqs = s.reqs.map fun x => if x.serial = q.serial then { x with ended := true } else x := by
  have kept : (s.regWrites q.r.tok (s.replyWrites q ls)).reqs = s.reqs := (memOnly_regWrites ..).reqs
  rw [State.endRun, ← kept]
  rfl

theorem sameMemory_regWrites (s : State) (k : Nat) (ws : List RegWrite) : SameMemory s (s.regWrites k ws) :=
  memByte_of_basis (foldl_same State.basis _ _ _ fun s w => by cases w <;> rfl)

theorem sameMemory_endRun (s : State) (q : Req) (ls : List RLane) : SameMemory s (s.endRun q ls) :=
  fun a => sameMemory_regWrites s q.r.tok (s.replyWrites q ls) a

/-- R254: a request that ends in a fault is gone, and its path has stopped. -/
theorem failRun_stops (alone : s.reqs = q :: rest) (own : ∀ x ∈ rest, x.serial ≠ q.serial) (ls : List RLane) (cause sub lane : Nat) (va : DWord)
    (un : Bool) : let t := (s.endRun q ls).failRun q cause sub lane va un
    (∀ x ∈ t.reqs, x.serial ≠ q.serial) ∧ (t.path q.r).wait = .stopped := by
  intro t
  have reqs := (endRun_reqs s q ls).trans (map_request alone own fun x => { x with ended := true })
  have stops := takeStop_stops ((s.endRun q ls).endRuns q.r ((s.endRun q ls).path q.r).slotFlag) q.r
  refine ⟨fun x hx => ?_, (stops _).1⟩
  rw [show t.reqs = _ from (stops _).2] at hx
  change x ∈ (s.endRun q ls).reqs.filter _ at hx
  rw [reqs, List.filter_cons_of_neg (by simp)] at hx
  exact own x (List.mem_filter.1 hx).1

/-! ### Packets that come to the device -/

/-- A packet of another device that the device takes up. -/
structure Comes (s : State) (port : Nat) (p : Packet) : Prop where
  boot : s.boot = 2
  dst : p.dst = s.rank
  src : p.src ≠ s.rank
  up : s.portup.getLsbD port = true

section
variable {port : Nat} (h : Comes s port p)
include h

theorem Comes.taken : ¬ (s.boot ≠ 2 || !(s.portIsUp port || p.src == s.rank) || p.dst != s.rank || s.overtakes p : Bool) = true := by
  have foreign : (p.src == s.rank) = false := beq_eq_false_iff_ne.2 h.src
  have up : s.portIsUp port = true := h.up
  rw [State.overtakes, h.boot, h.dst, up, foreign]
  simp

theorem Comes.noteLooped : s.noteLooped p = s := if_neg h.src

/-- A message whose key no entry of the port holds is dropped. -/
theorem Comes.onMsg_dropped (strict : s.strict = false) (none : s.packetCtx port p.toPodHdr = none) (act : State → Option State) :
    s.onMsg ⟨port, p.toPodHdr⟩ act = s.dropPacket port p.jobkey := by
  have up : s.portIsUp port = true := h.up
  rw [State.onMsg]
  dsimp only
  rw [if_neg (by rw [h.boot, up, h.dst]; simp), none, strict]
  rfl

theorem Comes.dropped (strict : s.strict = false) (none : s.packetCtx port p.toPodHdr = none) :
    exec (.transactionPacket port p) s = .next (s.dropPacket port p.jobkey) := by
  have msg : ∀ act, (.next (s.onMsg ⟨port, p.toPodHdr⟩ act) : Res) = .next (s.dropPacket port p.jobkey) :=
    fun act => congrArg _ (h.onMsg_dropped strict none act)
  refine (if_neg h.taken).trans ?_
  dsimp only
  rw [h.noteLooped, none]
  split
  · exact msg _
  · exact msg _
  · exact msg _
  · exact msg _
  · exact msg _
  · exact msg _
  · rfl

end

theorem dropPacket_counts (s : State) (port : Nat) (key : BitVec 32) :
    ((s.dropPacket port key).csrGet 0x4088 0).toNat = ((s.csrGet 0x4088 0).toNat + 1) % 2 ^ 32 := by
  have put : ((s.csrPut 0x4088 0 (BitVec.ofNat 64 (((s.csrGet 0x4088 0).toNat + 1) % 2 ^ 32))).csrGet 0x4088 0).toNat =
      ((s.csrGet 0x4088 0).toNat + 1) % 2 ^ 32 := by
    rw [State.csrGet_csrPut_same, BitVec.toNat_ofNat]
    omega
  rw [State.dropPacket]
  split
  · exact put
  · rw [logEvent_csrGet _ _ _ _ _ _ (by decide) (by decide)]
    exact put

/-- Before the device runs, for another rank or at a port that is down, a packet changes nothing. -/
theorem packet_ignored {port : Nat} (h : s.boot ≠ 2 ∨ p.dst ≠ s.rank ∨ (p.src ≠ s.rank ∧ s.portup.getLsbD port = false)) :
    exec (.transactionPacket port p) s = .next s := by
  refine if_pos ?_
  rcases h with off | other | ⟨foreign, down⟩
  · simp [off]
  · simp [other]
  · have down : s.portIsUp port = false := down
    simp [foreign, down]

/-! ### Sending again -/

theorem ackResend_request {serial : Nat} (alone : s.reqs = q :: rest) (own : ∀ x ∈ rest, x.serial ≠ q.serial) (num : q.serial = serial)
    (open' : q.ended = false) : exec (.ackResend serial) s = if q.packet.dst = s.rank then .next s
      else .next (({ s with reqs := { q with resends := q.resends + 1, port := s.spine serial (q.resends + 1) q.port } :: rest } : State).emit
        (s.spine serial (q.resends + 1) q.port) q.packet) := by
  subst num
  change (match s.reqs.find? _ with | some q => _ | none => _) = _
  rw [find_request alone (by simp [open'])]
  dsimp only
  rw [map_request alone own]

theorem ackResend_message {serial : Nat} (free : ∀ x ∈ s.reqs, x.serial = serial → x.ended = true) {m : PodSent} {more : List PodSent}
    (sent : s.podOut = m :: more) (num : m.p.serial = serial) (own : ∀ x ∈ more, x.p.serial ≠ serial) :
    exec (.ackResend serial) s = if 3 ≤ m.resends then .next (({ s with podOut := more } : State).gaveUp m.p)
      else .next (({ s with podOut := { m with resends := m.resends + 1, port := s.spine serial (m.resends + 1) m.port } :: more } : State).emit
        (s.spine serial (m.resends + 1) m.port) m.p) := by
  subst num
  have noReq : (s.reqs.find? fun q => q.serial == m.p.serial && !q.ended) = none := List.find?_eq_none.2 fun x hx e => by
    obtain ⟨num, open'⟩ := Bool.and_eq_true_iff.1 e
    rw [free x hx (beq_iff_eq.1 num)] at open'
    exact Bool.false_ne_true open'
  have others : more.filter (fun x => x.p.serial != m.p.serial) = more := List.filter_eq_self.2 fun x hx => bne_iff_ne.2 (own x hx)
  have same : (more.map fun x => if x.p.serial = m.p.serial then
      { x with resends := x.resends + 1, port := s.spine m.p.serial (m.resends + 1) m.port } else x) = more :=
    (List.map_congr_left fun x hx => if_neg (own x hx)).trans (List.map_id _)
  change (match s.reqs.find? _ with | some q => _ | none => _) = _
  have found : (s.podOut.find? fun q => q.p.serial == m.p.serial) = some m := by
    rw [sent, List.find?_cons_of_pos (by exact beq_self_eq_true _)]
  rw [noReq]
  dsimp only
  rw [found]
  dsimp only
  rw [sent, List.filter_cons_of_neg (by simp), others, List.map_cons, if_pos rfl, same]

/-! ### Links -/

theorem getLsbD_bit (port k : Nat) (h : port < 32) : (BitVec.ofNat 32 (2 ^ port)).getLsbD k = decide (k = port) := by
  rw [BitVec.getLsbD_ofNat, Nat.testBit_two_pow]
  by_cases e : port = k
  · subst e
    simp [h]
  · simp [e, Ne.symm e]

/-- The link of a port has gone down, and nothing has moved yet. -/
def State.unlinked (s : State) (port : Nat) : State :=
  ({ s with portup := s.portup &&& ~~~ BitVec.ofNat 32 (2 ^ port) } : State).logEvent (590 + port) 12 0 none (leBytes 4 0)

theorem unlinked_portup (s : State) (port : Nat) : (s.unlinked port).portup = s.portup &&& ~~~ BitVec.ofNat 32 (2 ^ port) := by
  rw [State.unlinked, logEvent_frame]

theorem unlinked_ports (port : Nat) : ∀ k ∈ (s.unlinked port).ports, (BitVec.ofNat 32 (2 ^ port)).getLsbD k = false := by
  intro k hk
  obtain ⟨-, takes⟩ := List.mem_filter.1 hk
  obtain ⟨takes, -⟩ := Bool.and_eq_true_iff.1 takes
  obtain ⟨up, -⟩ := Bool.and_eq_true_iff.1 takes
  rw [State.portIsUp, unlinked_portup] at up
  simp only [BitVec.getLsbD_and, BitVec.getLsbD_not, Bool.and_eq_true, Bool.not_eq_true'] at up
  exact up.2.2

theorem linkUp_eq {port : Nat} (enabled : (s.csrGet 0x4083 0).getLsbD port = true) (h : port < 32) (boot : s.boot = 2) :
    exec (.linkUp port) s = .next ({ s with portup := s.portup ||| BitVec.ofNat 32 (2 ^ port) } : State).sendWaiting :=
  if_pos (by rw [boot, enabled, decide_eq_true h]; rfl)

theorem fabricPackets : Rules.FabricPackets := by
  intro s port serial p q rest here alone comes
  have comes_of : here → Comes s port p := fun ⟨boot, dst, src, up⟩ => ⟨boot, dst, src, up⟩
  refine ⟨packet_ignored, fun there none strict => ⟨(comes_of there).dropped strict none, dropPacket_counts ..⟩, fun c there ctx => ?_,
    fun k key body v dup answers num dst strict store => ?_, fun ⟨only, own⟩ num ended => ?_,
    fun ⟨only, own⟩ num open' => ⟨fun live => ?_, fun v arrives => ?_, fun foreign => ?_, fun self => ?_⟩,
    fun free m more sent num own => ⟨fun few => ?_, fun many => ?_⟩, fun up hp => ?_, fun enabled hp boot => ?_⟩
  · have h := comes_of there
    have taken := h.taken
    have reply : ∀ ls, p.body = .reply ls → comes = .next (s.remoteReply p.serial (.reply ls)) := fun ls body => by
      refine (if_neg taken).trans ?_
      dsimp only
      rw [h.noteLooped, ctx, body]
    refine ⟨fun z acq ls body => ?_, fun z g ls body => ?_, fun op z ls body => ?_, fun k body => ?_,
      fun ls body ⟨only, own⟩ num open' => ⟨fun none => ?_, fun after => ?_⟩⟩
    · refine (if_neg taken).trans ?_
      dsimp only
      rw [h.noteLooped, ctx, body]
    · refine (if_neg taken).trans ?_
      dsimp only
      rw [h.noteLooped, ctx, body]
    · refine (if_neg taken).trans ?_
      dsimp only
      rw [h.noteLooped, ctx, body]
    · refine (if_neg taken).trans ?_
      dsimp only
      rw [h.noteLooped, ctx, body]
      refine congrArg (fun l => Host.Outcome.next ({ s with podOut := l } : State)) (List.filter_congr fun x _ => ?_)
      by_cases e : x.p.serial = k <;> by_cases e' : x.p.dst = p.src <;> simp [e, e']
    · have eq : s.remoteReply p.serial (.reply ls) = s.endRun q ls := by
        rw [State.remoteReply, find_request only (by simp [num, open'])]
        dsimp only
        rw [none]
      refine ⟨_, (reply ls body).trans (congrArg Host.Outcome.next eq), ?_, ?_, sameMemory_endRun s q ls, fun l => ?_⟩
      · exact (endRun_reqs ..).trans (map_request only own fun x => { x with ended := true })
      · rw [endRun_path]
      · rw [endRun_path, BitVec.getLsbD_or, getLsbD_maskOf_all]
        rw [List.contains_eq_any_beq, List.any_map]
        refine congrArg (fun b => (s.path q.r).done.getLsbD l || (decide (l < 1024) && b)) (congrArg ls.any (funext fun x => ?_))
        exact Bool.beq_comm
    · obtain ⟨⟨cause, sub, lane, va⟩, faulted⟩ := Option.ne_none_iff_exists'.1 after
      have eq : s.remoteReply p.serial (.reply ls) = (s.endRun q ls).failRun q cause sub lane va false := by
        rw [State.remoteReply, find_request only (by simp [num, open'])]
        dsimp only
        rw [faulted]
      obtain ⟨gone, stopped⟩ := failRun_stops only own ls cause sub lane va false
      rw [num] at gone
      exact ⟨_, (reply ls body).trans (congrArg Host.Outcome.next eq), gone, stopped⟩
  · rw [State.accept, strict]
    change (if s.seenSeq.contains (p.src, p.serial) = true then s.repeatAnswer p else _) = _
    rw [if_pos dup, State.repeatAnswer, answers, List.find?_cons_of_pos (by simp [num, dst])]
  · change (match s.reqs.find? _ with | none => _ | some q => _) = _
    rw [find_noRequest only own (by rcases ended with h | h <;> simp [h]) fun x hx => ?_]
    simp only [Bool.and_eq_true, beq_iff_eq] at hx
    exact hx.1.1.trans num.symm
  · have found : ∃ un, exec (.remoteTimeout serial) s =
        .next ((s.endRun q []).failRun q 11 0 (pbodyFirst q.packet.body).1 (pbodyFirst q.packet.body).2 un) := by
      have request := find_request only (g := fun q => q.serial == serial && !q.suspended && !q.ended) (by simp [num, live, open'])
      rw [show exec (.remoteTimeout serial) s = execRemoteTimeout serial s from rfl, execRemoteTimeout, request]
      exact ⟨_, rfl⟩
    obtain ⟨un, found⟩ := found
    obtain ⟨gone, stopped⟩ := failRun_stops only own [] 11 0 (pbodyFirst q.packet.body).1 (pbodyFirst q.packet.body).2 un
    rw [num] at gone
    exact ⟨_, found, gone, stopped⟩
  · refine congrArg Host.Outcome.next ((onMsg_arrives arrives fun s => s.suspend serial).trans ?_)
    subst num
    rw [State.suspend, map_request only own]
  · exact (ackResend_request only own num open').trans (if_neg foreign)
  · exact (ackResend_request only own num open').trans (if_pos self)
  · exact (ackResend_message free sent num own).trans (if_neg (Nat.not_le.2 few))
  · exact (ackResend_message free sent num own).trans (if_pos many)
  · have moved := rerouted_movePorts (s.unlinked port) (BitVec.ofNat 32 (2 ^ port))
    obtain ⟨reqs, posts⟩ := allStay_movePorts (unlinked_ports (s := s) port)
    have gone : (BitVec.ofNat 32 (2 ^ port)).getLsbD port = true := by rw [getLsbD_bit _ _ hp, decide_eq_true rfl]
    have portup : ((s.unlinked port).movePorts (BitVec.ofNat 32 (2 ^ port))).portup = s.portup &&& ~~~ BitVec.ofNat 32 (2 ^ port) := by
      rw [moved.frame]
      exact unlinked_portup ..
    refine ⟨_, if_pos up, ?_, fun x hx busy e => ?_, fun x hx e => ?_, fun k other => ?_⟩
    · exact (congrArg (BitVec.getLsbD · port) portup).trans (by rw [BitVec.getLsbD_and, BitVec.getLsbD_not, gone]; simp)
    · exact Bool.false_ne_true ((reqs x hx busy port e).symm.trans gone)
    · exact Bool.false_ne_true ((posts x hx port e).symm.trans gone)
    · refine (congrArg (BitVec.getLsbD · k) portup).trans ?_
      rw [BitVec.getLsbD_and, BitVec.getLsbD_not, getLsbD_bit _ _ hp, decide_eq_false other, Bool.not_false, Bool.and_true]
      by_cases inside : k < 32
      · rw [decide_eq_true inside, Bool.and_true]
      · rw [BitVec.getLsbD_of_ge _ _ (Nat.not_lt.1 inside), Bool.false_and]
  · have moved := (sendWaiting_keeps ({ s with portup := s.portup ||| BitVec.ofNat 32 (2 ^ port) } : State) 0).1
    refine ⟨_, linkUp_eq enabled hp boot, ?_, fun a => memByte_of_basis moved.basis a⟩
    rw [moved.frame]
    change (s.portup ||| BitVec.ofNat 32 (2 ^ port)).getLsbD port = true
    rw [BitVec.getLsbD_or, getLsbD_bit _ _ hp, decide_eq_true rfl, Bool.or_true]

end

end Sys2Proof.Machine
end

section
/-! SUPPORT. The protocol of speculation domains (R340, R472, R481, R482). -/

namespace Sys2Proof.Machine

section
variable {s t u : State} {via : Via}

/-! ### Messages that are taken in their turn -/

/-- A message that arrives in its turn is performed and acknowledged. -/
theorem onMsg_taken (h : Arrives s via) {act : State → Option State} (taken : act s = some t) : s.onMsg via act = Acked t via :=
  (onMsg_congr s via (g := fun _ => some t) taken).trans (onMsg_arrives h fun _ => t)

/-- A message that arrives out of its turn changes nothing. -/
theorem onMsg_untaken {act : State → Option State} (h : Arrives s via) (early : act s = none) : s.onMsg via act = s := by
  obtain ⟨running, up, dst, fresh, key⟩ := h
  have known : (!s.strict && (s.packetCtx via.port via.h).isNone) = false := by
    rcases key with strict | ⟨c, e⟩
    · rw [strict]
      rfl
    · rw [e, Option.isNone_some, Bool.and_false]
  rw [State.onMsg, if_neg, known, fresh, early]
  · rfl
  · rw [running, up, dst]
    simp

/-! ### What a peer does with the messages of the home -/

theorem noticeMsg_home {key : BitVec 32} {n : DomNum} {v : NewVer} (home : (s.dom n.dom).home = s.rank) : s.noticeMsg key n v = some s :=
  if_pos home

theorem noticeMsg_early {key : BitVec 32} {n : DomNum} {v : NewVer} (away : (s.dom n.dom).home ≠ s.rank)
    (early : (s.dom n.dom).inTurn n.num (n.k - 1) = false) : s.noticeMsg key n v = none :=
  (if_neg away).trans (if_pos (by rw [early]; rfl))

theorem noticeMsg_taken {key : BitVec 32} {n : DomNum} {v : NewVer} (away : (s.dom n.dom).home ≠ s.rank)
    (turn : (s.dom n.dom).inTurn n.num (n.k - 1) = true) : s.noticeMsg key n v =
      some (((if (s.dom n.dom).live.any (fun y => y.ver == v.ver) then s else s.addVersion n.dom v.ver v.parent).modDom n.dom fun y =>
        { y with applied := some n.num, notes := n.k }).post key (s.dom n.dom).home n.dom (.allocAck n.dom v.ver)) :=
  (if_neg away).trans (if_neg (by rw [turn]; exact Bool.false_ne_true))

section
variable (key : BitVec 32) (n : DomNum) (act : State → State)

theorem numbered_home (home : (s.dom n.dom).home = s.rank) : s.numbered key n act = some s := if_pos home

theorem numbered_old (away : (s.dom n.dom).home ≠ s.rank) (old : (s.dom n.dom).isOld n.num = true) :
    s.numbered key n act = some (s.post key (s.dom n.dom).home n.dom (.resolveAck n.dom n.num)) :=
  (if_neg away).trans (if_pos old)

theorem numbered_next (away : (s.dom n.dom).home ≠ s.rank) (new : (s.dom n.dom).isOld n.num = false)
    (turn : (s.dom n.dom).inTurn (n.num - 1) n.k = true) : s.numbered key n act =
      some (((act s).modDom n.dom fun y => { y with applied := some n.num, notes := 0 }).post key (s.dom n.dom).home n.dom (.resolveAck n.dom n.num)) :=
  (if_neg away).trans ((if_neg (Bool.eq_false_iff.1 new)).trans (if_pos turn))

theorem numbered_early (away : (s.dom n.dom).home ≠ s.rank) (new : (s.dom n.dom).isOld n.num = false)
    (early : (s.dom n.dom).inTurn (n.num - 1) n.k = false) : s.numbered key n act = none :=
  (if_neg away).trans ((if_neg (Bool.eq_false_iff.1 new)).trans (if_neg (Bool.eq_false_iff.1 early)))
end

theorem Dom.isOld_iff {x : Dom} {m : Nat} (h : x.applied = some m) (n : Nat) : x.isOld n = true ↔ n ≤ m := by
  rw [Dom.isOld, h]
  exact decide_eq_true_iff

theorem Dom.inTurn_iff {x : Dom} {m : Nat} (h : x.applied = some m) (n k : Nat) : x.inTurn n k = true ↔ n = m ∧ k = x.notes := by
  rw [Dom.inTurn, h]
  simp

/-! ### What the home does -/

theorem allocMsg_ignored {src req d parent : Nat} {key : BitVec 32} (h : (s.dom d).home ≠ s.rank ∨ (s.livePeers d).contains src = false ∨
    ∃ a ∈ (s.dom d).allocs, a.src = src ∧ a.req = req) : s.allocMsg src req d parent key = s := by
  refine if_pos ?_
  rcases h with away | dead | ⟨a, mem, from', same⟩
  · exact .inl away
  · exact .inr (.inl (by rw [dead]; rfl))
  · exact .inr (.inr (List.any_eq_true.2 ⟨a, mem, by simp [from', same]⟩))

section
variable {src req d parent : Nat} {key : BitVec 32} (home : (s.dom d).home = s.rank) (peer : (s.livePeers d).contains src = true)
  (new : (s.dom d).allocs = [])
include home peer new

theorem allocMsg_refused (full : s.allocate d parent src req key = none) : s.allocMsg src req d parent key = s.answerAlloc src req d key none := by
  refine (if_neg ?_).trans ?_
  · rw [home, peer, new]
    simp
  · rw [full]

theorem allocMsg_told {v : Nat} (told : s.allocate d parent src req key = some (t, v, false)) : s.allocMsg src req d parent key = t := by
  refine (if_neg ?_).trans ?_
  · rw [home, peer, new]
    simp
  · rw [told]
end

theorem cancelMsg_found {src req d : Nat} {a : AllocSt} (h : ((s.dom d).allocs.find? fun a => a.src == src && a.req == req) = some a) :
    s.cancelMsg src req d = s.withdrawVersion d a.ver := by
  rw [State.cancelMsg, h]

theorem cancelMsg_none {src req d : Nat} (h : ((s.dom d).allocs.find? fun a => a.src == src && a.req == req) = none) :
    s.cancelMsg src req d = s := by
  rw [State.cancelMsg, h]

/-- R482: a message of the domain's protocol that comes in a packet. -/
theorem msg_packet {port : Nat} {p : Packet} (h : Arrives s ⟨port, p.toPodHdr⟩) (none : bodyFlakes p.body = []) :
    ¬ (s.boot ≠ 2 || !(s.portIsUp port || p.src == s.rank) || p.dst != s.rank || s.overtakes p : Bool) = true := by
  obtain ⟨running, up, dst, -, -⟩ := h
  have up : s.portIsUp port = true := up
  have dst : p.dst = s.rank := dst
  have alone : s.overtakes p = false := by
    rw [State.overtakes, none]
    simp
  rw [running, up, dst, alone]
  simp

/-! ### Silence -/

theorem State.dom_modDom (s : State) (d k : Nat) (f : Dom → Dom) : (s.modDom d f).dom k = if k = d then f (s.dom d) else s.dom k :=
  State.dom_setDom ..

theorem dom_modDom_same (s : State) (d : Nat) (f : Dom → Dom) : (s.modDom d f).dom d = f (s.dom d) := by
  rw [State.dom_modDom, if_pos rfl]

theorem OnlySends.dom (h : OnlySends s t) (d : Nat) : t.dom d = s.dom d := by rw [h]; rfl
theorem OnlySends.allocReqs (h : OnlySends s t) : t.allocReqs = s.allocReqs := by rw [h]
theorem onlySends_post (s : State) (key : BitVec 32) (dst dom : Nat) (body : PBody) : OnlySends s (s.post key dst dom body) := rfl
theorem MemOnly.dom (h : MemOnly s t) (d : Nat) : t.dom d = s.dom d := by rw [h.frame]; rfl
theorem MemOnly.allocReqs (h : MemOnly s t) : t.allocReqs = s.allocReqs := by rw [h.frame]

theorem failPeer_fails (s : State) (d peer : Nat) : ((s.failPeer d peer).dom d).failed.contains peer = true ∧
    ((s.failPeer d peer).dom d).home = (s.dom d).home := by
  rw [State.failPeer, dom_modDom_same]
  refine ⟨?_, rfl⟩
  split
  next listed => exact listed
  next => simp

theorem withdrawVersion_keeps (s : State) (d v : Nat) : ((s.withdrawVersion d v).dom d).failed = (s.dom d).failed ∧
    (s.withdrawVersion d v).allocReqs = s.allocReqs ∧ (s.withdrawVersion d v).rank = s.rank := by
  rw [State.withdrawVersion]
  have sent := onlySends_postAll
  refine ⟨?_, ?_, ?_⟩
  · rw [(sent ..).dom, dom_modDom_same]
  · exact (sent ..).allocReqs
  · rw [sent]
    rfl

theorem answerAlloc_failed (s : State) (src req d k : Nat) (key : BitVec 32) (h : src ≠ s.rank ∨ s.allocReqs = []) :
    (s.answerAlloc src req d key none).dom k = s.dom k := by
  rw [State.answerAlloc]
  split
  next own =>
    rw [State.allocAnswered, h.resolve_left (not_not.2 own)]
    rfl
  next => exact (onlySends_post ..).dom k

theorem logEvent_rank (s : State) (src code cls : Nat) (ctx : Option Nat) (detail : List Byte) :
    (s.logEvent src code cls ctx detail).rank = s.rank := by
  rw [State.rank, logEvent_csrGet _ _ _ _ _ _ (by decide) (by decide), State.rank]

theorem allocAckTimeout_fails {d v peer : Nat} {y : AllocSt} (found : ((s.dom d).allocs.find? fun a => a.ver == v && a.waiting.contains peer) = some y)
    (h : y.src ≠ s.rank ∨ s.allocReqs = []) : ∃ t, exec (.allocAckTimeout d v peer) s = .next t ∧ (t.dom d).failed.contains peer = true := by
  rw [show exec (.allocAckTimeout d v peer) s = execAllocAckTimeout d v peer s from rfl, execAllocAckTimeout, found]
  refine ⟨_, rfl, ?_⟩
  obtain ⟨failed, allocs, rank⟩ := withdrawVersion_keeps (s.failPeer d peer) d v
  have logged := fun c => memOnly_logEvent ((s.failPeer d peer).withdrawVersion d v) 582 7 2 c (leBytes 8 (d % 256) ++ leBytes 4 peer ++ leBytes 1 1)
  rw [answerAlloc_failed, State.logPeer, (logged _).dom, failed]
  · exact (failPeer_fails s d peer).1
  · rw [State.logPeer, (logged _).allocReqs, allocs, logEvent_rank, rank]
    exact h

theorem refuse_keeps (s : State) (h cause : Nat) : (s.refuse h cause).allocReqs = s.allocReqs := by
  have ended : ∀ u : State, (u.endGrid h cause).allocReqs = u.allocReqs := fun u =>
    (memOnly_completionRecord (u.modGrid h fun g => { g with phase := .complete, cause := cause }) h cause).allocReqs
  rw [State.refuse, ended]
  split
  · exact (memOnly_logRefused ..).allocReqs
  · rfl

theorem allocAnswered_refused {req : Nat} {a : AllocReq} (one : s.allocReqs = [a]) (own : a.req = req) : (s.allocAnswered req none).allocReqs = [] := by
  rw [State.allocAnswered, one, List.find?_cons_of_pos (by exact beq_iff_eq.2 own)]
  dsimp only
  rw [List.filter_cons_of_neg (by simp [own]), List.filter_nil]
  split
  · rfl
  · exact refuse_keeps ..

theorem allocAnswerTimeout_cancels {req : Nat} {a : AllocReq} (one : s.allocReqs = [a]) (own : a.req = req) (away : (s.dom a.dom).home ≠ s.rank) :
    ∃ t, exec (.allocAnswerTimeout req) s = .next t ∧ t.allocReqs = [] ∧
      ∃ q ∈ t.podOut, q.p.dst = (s.dom a.dom).home ∧ q.p.body = .cancel req a.dom := by
  have found : (s.allocReqs.find? fun a => a.req == req) = some a := by
    rw [one, List.find?_cons_of_pos (by exact beq_iff_eq.2 own)]
  rw [show exec (.allocAnswerTimeout req) s = execAllocAnswerTimeout req s from rfl, execAllocAnswerTimeout, found]
  refine ⟨_, if_neg away, ?_, _, List.mem_append_right _ (List.mem_singleton_self _), ?_⟩
  · exact (onlySends_post ..).allocReqs.trans (allocAnswered_refused one own)
  · rw [State.packetTo]
    split <;> exact ⟨rfl, rfl⟩

theorem giveResult_dom (s : State) (p : Option Nat) (g : SReg → DWord) (k : Nat) : (s.giveResult p g).dom k = s.dom k := rfl

theorem resolveEnd_keeps (s : State) (d n peer : Nat) (acked : Bool) : ((s.resolveEnd d n peer acked).dom d).failed = (s.dom d).failed ∧
    ((s.resolveEnd d n peer acked).dom d).home = (s.dom d).home := by
  rw [State.resolveEnd]
  split
  · exact ⟨rfl, rfl⟩
  · dsimp only
    split
    · rw [giveResult_dom, dom_modDom_same]
      exact ⟨rfl, rfl⟩
    · rw [dom_modDom_same]
      exact ⟨rfl, rfl⟩

theorem resolveAckTimeout_fails {d n peer : Nat} {y : ResolveSt} (found : ((s.dom d).resolves.find? fun y => y.num == n && y.waiting.contains peer) = some y) :
    ∃ t, exec (.resolveAckTimeout d n peer) s = .next t ∧ (t.dom d).failed.contains peer = true ∧ (t.dom d).home = (s.dom d).home := by
  rw [show exec (.resolveAckTimeout d n peer) s = execResolveAckTimeout d n peer s from rfl, execResolveAckTimeout, found]
  obtain ⟨fails, home⟩ := failPeer_fails s d peer
  refine ⟨_, rfl, ?_, ?_⟩
  · rw [(resolveEnd_keeps ..).1, State.logPeer, (memOnly_logEvent ..).dom]
    exact fails
  · rw [(resolveEnd_keeps ..).2, State.logPeer, (memOnly_logEvent ..).dom]
    exact home

/-! ### The obligation -/

theorem domainProtocol : Rules.DomainProtocol := by
  intro s via port req v parent peer n p d x src key acked tells answers applied
  have forget : (fun y : VerSt => decide (y.ver ≠ v)) = fun y => y.ver != v := funext fun y => by
    by_cases h : y.ver = v <;> simp [h]
  refine ⟨fun h away => ⟨?_, fun early => ?_, fun turn => ?_, fun com sq => ⟨fun old => ⟨?_, ?_⟩, fun new turn => ⟨?_, ?_⟩, fun new early => ⟨?_, ?_⟩⟩⟩,
    fun m at' => ⟨Dom.isOld_iff at' _, Dom.inTurn_iff at' _ _⟩,
    fun h home foreign => ⟨?_, ?_, fun com sq => ?_, fun ignored => ?_, fun heard new => ⟨fun full => ?_, fun t w told => ?_⟩⟩,
    fun h => ⟨fun y found => ?_, fun unknown => ?_⟩, ?_, fun y found own => allocAckTimeout_fails found own, fun none => ?_,
    fun a one own away => allocAnswerTimeout_cancels one own away, fun y found => resolveAckTimeout_fails found, fun none => ?_⟩
  · exact congrArg Host.Outcome.next (onMsg_taken h (congrArg some (allocMsg_ignored (.inl away))))
  · exact congrArg Host.Outcome.next (onMsg_untaken h (noticeMsg_early away early))
  · exact congrArg Host.Outcome.next (onMsg_taken h (noticeMsg_taken away turn))
  · exact congrArg Host.Outcome.next (onMsg_taken h (numbered_old _ _ _ away old))
  · exact congrArg Host.Outcome.next (onMsg_taken h (numbered_old _ _ _ away old))
  · exact congrArg Host.Outcome.next (onMsg_taken h (numbered_next _ _ _ away new turn))
  · rw [forget]
    exact congrArg Host.Outcome.next (onMsg_taken h (numbered_next _ _ _ away new turn))
  · exact congrArg Host.Outcome.next (onMsg_untaken h (numbered_early _ _ _ away new early))
  · exact congrArg Host.Outcome.next (onMsg_untaken h (numbered_early _ _ _ away new early))
  · exact congrArg Host.Outcome.next (onMsg_taken h (noticeMsg_home home))
  · exact congrArg Host.Outcome.next (onMsg_taken h (numbered_home _ _ _ home))
  · exact congrArg Host.Outcome.next (onMsg_taken h (numbered_home _ _ _ home))
  · exact congrArg Host.Outcome.next (onMsg_taken h (congrArg some (allocMsg_ignored (.inr ignored))))
  · refine congrArg Host.Outcome.next (onMsg_taken h (congrArg some ((allocMsg_refused home heard new full).trans ?_)))
    exact if_neg foreign
  · exact congrArg Host.Outcome.next (onMsg_taken h (congrArg some (allocMsg_told home heard new told)))
  · exact congrArg Host.Outcome.next (onMsg_taken h (congrArg some (cancelMsg_found found)))
  · exact congrArg Host.Outcome.next (onMsg_taken h (congrArg some (cancelMsg_none unknown)))
  · intro here does h
    refine ⟨fun w body => ?_, fun body => ?_, fun body => ?_⟩
    · refine (if_neg (msg_packet h (by rw [body]; rfl))).trans ?_
      dsimp only
      rw [body]
      exact congrArg Host.Outcome.next (onMsg_arrives h _)
    · refine (if_neg (msg_packet h (by rw [body]; rfl))).trans ?_
      dsimp only
      rw [body]
      exact congrArg Host.Outcome.next (onMsg_arrives h _)
    · refine (if_neg (msg_packet h (by rw [body]; rfl))).trans ?_
      dsimp only
      rw [body]
      exact congrArg Host.Outcome.next (onMsg_arrives h _)
  · rw [show exec (.allocAnswerTimeout req) s = execAllocAnswerTimeout req s from rfl, execAllocAnswerTimeout, none, List.find?_nil]
  · rw [show exec (.resolveAckTimeout d n.num peer) s = execResolveAckTimeout d n.num peer s from rfl, execResolveAckTimeout, none]

/-- Settles O58: each packet has its one effect, each link its ports, and each message of a domain its turn. -/
theorem fabric : Obligations.Fabric := ⟨fabricPackets, domainProtocol⟩

end

end Sys2Proof.Machine
end

section
/-! SUPPORT. Binding a load, performing what is on its way, and squashing versions: what they leave alone
(R63, R224 to R230, R339). -/

namespace Sys2Proof.Machine

section
variable {s t u : State}

/-! ### What stays as it was -/

/-- The path that issues and the tables of translations stay, and so does the canonical form of memory. -/
structure Calm (s t : State) : Prop where
  cur : t.cur = s.cur
  tlb : t.tlb = s.tlb
  atc : t.atc = s.atc
  ok : s.memOk → t.memOk

theorem Calm.refl (s : State) : Calm s s := ⟨rfl, rfl, rfl, id⟩

theorem Calm.trans (h : Calm s t) (h' : Calm t u) : Calm s u :=
  ⟨h'.cur.trans h.cur, h'.tlb.trans h.tlb, h'.atc.trans h.atc, fun ok => h'.ok (h.ok ok)⟩

theorem calm_foldl {α : Type} {f : State → α → State} (h : ∀ s a, Calm s (f s a)) (l : List α) : Calm s (l.foldl f s) :=
  foldl_keeps (Calm s) f l s (fun t a ht => ht.trans (h t a)) (Calm.refl s)

theorem MemOnly.calm (h : MemOnly s t) (ok : s.memOk → t.memOk) : Calm s t := by
  refine ⟨?_, ?_, ?_, ok⟩ <;> rw [h.frame]

/-- What only changes fields that are neither of memory nor of translation. -/
theorem calm_of_fields (cur : t.cur = s.cur) (tlb : t.tlb = s.tlb) (atc : t.atc = s.atc) (mem : t.mem = s.mem) : Calm s t :=
  ⟨cur, tlb, atc, fun ok => by rw [State.memOk, mem]; exact ok⟩

/-! ### Caches and the event log -/

section
variable (s) (r : PathRef) (k n core : Nat) (f : Nat → Bool)

theorem calm_failCopy : Calm s (s.failCopy core k) := (memOnly_failCopy ..).calm (State.failCopy_memOk _ _)
theorem calm_l1ToRdc : Calm s (s.l1ToRdc core f) := (memOnly_l1ToRdc ..).calm fun h => State.l1ToRdc_memOk _ h _
theorem calm_writeBack : Calm s (s.writeBack core f) := (memOnly_writeBack ..).calm fun h => State.writeBack_memOk _ h _
theorem calm_homeWrite (bs : List Byte) : Calm s (s.homeWrite k bs) := (memOnly_homeWrite ..).calm (State.homeWrite_memOk _ _)
theorem calm_flushHome : Calm s (s.flushHome core f) := (memOnly_flushHome ..).calm fun h => State.flushHome_memOk _ h _
theorem calm_acquireAct (sc : Scope) : Calm s (s.acquireAct r sc) := (memOnly_acquireAct ..).calm fun h => State.acquireAct_memOk h _ _
theorem calm_logRefused (ctx : Option Nat) : Calm s (s.logRefused core ctx k n) :=
  (memOnly_logRefused ..).calm fun h => State.logRefused_memOk _ _ _ h _
theorem calm_dropCopies : Calm s (s.dropCopies core f) := ⟨rfl, rfl, rfl, id⟩
theorem calm_setCopy (c : CopyByte) : Calm s (s.setCopy core k c) := ⟨rfl, rfl, rfl, id⟩
theorem calm_modPath (g : Path → Path) : Calm s (s.modPath r g) := ⟨rfl, rfl, rfl, id⟩
theorem calm_sset (d : SReg) (v : DWord) : Calm s (s.sset r d v) := ⟨rfl, rfl, rfl, id⟩
theorem calm_endWait (d : SReg) : Calm s (s.endWait r d n) := ⟨rfl, rfl, rfl, id⟩
theorem calm_mend : Calm s (s.mend k n) := ⟨rfl, rfl, rfl, id⟩
theorem calm_modGrid (g : Grid → Grid) : Calm s (s.modGrid n g) := ⟨rfl, rfl, rfl, id⟩
theorem calm_modCtx (g : Ctx → Ctx) : Calm s (s.modCtx n g) := ⟨rfl, rfl, rfl, id⟩
theorem calm_modCrew (g : Crew → Crew) : Calm s (s.modCrew n g) := ⟨rfl, rfl, rfl, id⟩
theorem calm_modCore (g : CoreSt → CoreSt) : Calm s (s.modCore n g) := ⟨rfl, rfl, rfl, id⟩
theorem calm_modDom (g : Dom → Dom) : Calm s (s.modDom n g) := ⟨rfl, rfl, rfl, id⟩
theorem calm_setCrew (c : Crew) : Calm s (s.setCrew n c) := ⟨rfl, rfl, rfl, id⟩

theorem calm_recall : Calm s (s.recall k n) := by
  rw [State.recall]
  split <;> exact ⟨rfl, rfl, rfl, id⟩

theorem calm_recallBut : Calm s (s.recallBut core k n) := by
  rw [State.recallBut]
  split <;> exact ⟨rfl, rfl, rfl, id⟩

theorem calm_poisonFor (d v : Nat) : Calm s (s.poisonFor d v k) := by
  rw [State.poisonFor, State.poisonFlake]
  generalize (if v = 0 then k else vcKey d v k) = j
  split <;> exact ⟨rfl, rfl, rfl, id⟩

theorem calm_noteFailed (both : Bool) (va : Nat) : Calm s (s.noteFailed r both k va) :=
  (memOnly_noteFailed ..).calm fun h => by rw [State.memOk, State.noteFailed_mem]; exact h

theorem calm_land : Calm s (s.land k n) := (memOnly_land ..).calm fun h => by rw [State.memOk, State.land_mem]; exact h

theorem calm_useSpans (d v : Nat) : Calm s (s.useSpans d v k) := by
  rw [State.useSpans]
  split <;> exact ⟨rfl, rfl, rfl, id⟩

theorem calm_fillHost : Calm s (s.fillHost k n) := ⟨rfl, rfl, rfl, id⟩

theorem calm_fillFlake (src : Nat → Byte × Bool) : Calm s (s.fillFlake core k src) := by
  rw [State.fillFlake]
  refine calm_foldl (fun s i => ?_) _
  split
  · exact Calm.refl _
  · exact calm_setCopy ..

theorem calm_fillLoad (home bypass : Bool) : Calm s (s.fillLoad core home k bypass) := by
  rw [State.fillLoad]
  split
  · dsimp only
    split
    · exact calm_fillFlake ..
    · exact (calm_fillFlake ..).trans (calm_fillFlake ..)
  · exact Calm.refl s

theorem calm_checkCopy : Calm s (s.checkCopy core k) := by
  rw [State.checkCopy]
  split
  · split
    · exact calm_failCopy ..
    · exact calm_dropCopies ..
  · exact Calm.refl s

theorem calm_evict : Calm s (s.evict core k) := by
  rw [State.evict]
  split
  · exact Calm.refl s
  · split
    · exact Calm.refl s
    · refine Calm.trans ?_ (calm_dropCopies ..)
      split
      · exact calm_l1ToRdc ..
      · exact calm_writeBack ..

theorem calm_evictFor : Calm s (s.evictFor core k) := (calm_evict ..).trans (calm_evict ..)

theorem calm_releaseCore (sc : Scope) : Calm s (s.releaseCore core sc) := by
  rw [State.releaseCore]
  split
  · exact calm_flushHome ..
  · split
    · exact calm_l1ToRdc ..
    · exact Calm.refl s
end

/-! ### Teams that end -/

section
variable (s)

theorem calm_late (l : List Late) : Calm s { s with late := l } := ⟨rfl, rfl, rfl, id⟩
theorem calm_pend (l : List Pend) : Calm s { s with pend := l } := ⟨rfl, rfl, rfl, id⟩
theorem calm_flight (l : List Flight) : Calm s { s with flight := l } := ⟨rfl, rfl, rfl, id⟩
theorem calm_sems (l : Store Sem) : Calm s { s with sems := l } := ⟨rfl, rfl, rfl, id⟩
theorem calm_vspans (l : List VCopy) : Calm s { s with vspans := l } := ⟨rfl, rfl, rfl, id⟩
theorem calm_engines (l : List EngCmd) : Calm s { s with engines := l } := ⟨rfl, rfl, rfl, id⟩
theorem calm_setTeam (n : Nat) (x : Team) : Calm s (s.setTeam n x) := ⟨rfl, rfl, rfl, id⟩
theorem calm_modTeam (n : Nat) (f : Team → Team) : Calm s (s.modTeam n f) := ⟨rfl, rfl, rfl, id⟩
theorem calm_meetDeps (g : Nat) : Calm s (s.meetDeps g) := ⟨rfl, rfl, rfl, id⟩

/-- A crew's teams are gone, and its issues counted. -/
theorem calm_withoutTeams (e : List (Bool × DWord × Nat)) (l : Store Team) : Calm s { s with expect := e, teams := l } := ⟨rfl, rfl, rfl, id⟩

/-- Nothing of a team is in progress. -/
theorem calm_withoutWork (p : List Pend) (l : List Late) (q : List Req) (m : List SemReq) :
    Calm s { s with pend := p, late := l, reqs := q, semReqs := m } := ⟨rfl, rfl, rfl, id⟩

/-- A team's stores and commands are gone. -/
theorem calm_withoutTraffic (f : List Flight) (e : List EngCmd) : Calm s { s with flight := f, engines := e } := ⟨rfl, rfl, rfl, id⟩

/-- A grid's crews are gone. -/
theorem calm_withoutCrews (v : List SavedCrew) (c : Store Crew) : Calm s { s with saved := v, crews := c } := ⟨rfl, rfl, rfl, id⟩
end

theorem calm_barSweep (s : State) (g : Nat) : Calm s (s.barSweep g) := by
  rw [State.barSweep]
  refine calm_foldl (fun s r => ?_) _
  split
  · split
    · exact (calm_acquireAct ..).trans (calm_modPath ..)
    · exact Calm.refl s
  · exact Calm.refl s

theorem calm_graceWake (s : State) (c n : Nat) : Calm s (s.graceWake c n) := by
  rw [State.graceWake]
  refine calm_foldl (fun s r => ?_) _
  split
  · split
    · exact (calm_acquireAct ..).trans (calm_endWait ..)
    · exact Calm.refl s
  · exact Calm.refl s

theorem calm_graceSettle (s : State) (c n : Nat) : Calm s (s.graceSettle c n) := by
  induction n generalizing s with
  | zero => exact Calm.refl s
  | succ n ih =>
    rw [State.graceSettle]
    dsimp only
    split
    · exact ((calm_modCtx ..).trans (calm_graceWake ..)).trans (ih _)
    · exact Calm.refl s

theorem calm_graceLeave (s : State) (c tok : Nat) : Calm s (s.graceLeave c tok) := (calm_modCtx ..).trans (calm_graceSettle ..)

theorem calm_freeSems (s : State) (tok c : Nat) : Calm s (s.freeSems tok c) := by
  rw [State.freeSems]
  refine calm_foldl (fun s n => ?_) _
  dsimp only
  split
  · exact (calm_sems ..).trans (calm_logRefused ..)
  · exact Calm.refl s

theorem calm_clusterSweep (s : State) (g idx : Nat) : Calm s (s.clusterSweep g idx) := by
  rw [State.clusterSweep]
  exact (calm_modGrid ..).trans (calm_foldl (fun s n => calm_setCrew ..) _)

theorem calm_freeArray (s : State) (c : Crew) : Calm s (s.freeArray c) := by
  rw [State.freeArray]
  split <;> exact ⟨rfl, rfl, rfl, id⟩

theorem calm_retireCrew (s : State) (n : Nat) : Calm s (s.retireCrew n) := by
  rw [State.retireCrew]
  refine Calm.trans ?_ (calm_clusterSweep ..)
  refine Calm.trans ?_ (calm_setCrew ..)
  exact (calm_freeArray s (s.crew n)).trans (calm_withoutTeams ..)

theorem calm_retireTeam (s : State) (tok : Nat) : Calm s (s.retireTeam tok) := by
  rw [State.retireTeam]
  refine Calm.trans ?_ (calm_barSweep ..)
  have quiet := fun x c d => ((((calm_releaseCore s (s.crew (s.team tok).crew).core .device).trans (calm_setTeam _ tok x)).trans
    (calm_freeSems _ tok c)).trans (calm_graceLeave _ c tok)).trans (calm_late _ d)
  split
  · exact (quiet _ _ _).trans (calm_retireCrew ..)
  · exact quiet _ _ _

theorem calm_killTeam (s : State) (tok : Nat) : Calm s (s.killTeam tok) := by
  rw [State.killTeam]
  refine Calm.trans ?_ (calm_barSweep ..)
  refine Calm.trans ?_ (calm_modGrid ..)
  refine Calm.trans ?_ (calm_modCore ..)
  exact (calm_modTeam s tok _).trans (calm_withoutWork ..)

theorem calm_squashTeam (s : State) (tok : Nat) : Calm s (s.squashTeam tok) := by
  rw [State.squashTeam]
  refine Calm.trans ?_ (calm_retireTeam ..)
  exact (calm_killTeam s tok).trans (calm_withoutTraffic ..)

/-! ### Squash, displacement and performance -/

theorem calm_completionRecord (s : State) (g cause : Nat) : Calm s (s.completionRecord g cause) := by
  rw [State.completionRecord]
  split
  · exact calm_homeWrite ..
  · exact Calm.refl s

theorem calm_squashGrid (full : Bool) (s : State) (g : Nat) : Calm s (State.squashGrid full s g) := by
  rw [State.squashGrid]
  refine Calm.trans ?_ (calm_modGrid ..)
  refine Calm.trans ?_ (calm_meetDeps ..)
  refine Calm.trans ?_ (calm_completionRecord ..)
  refine Calm.trans ?_ (calm_foldl (fun s k => (calm_freeSems ..).trans (calm_graceLeave ..)) _)
  exact (calm_foldl (fun s k => calm_squashTeam s k) _).trans (calm_withoutCrews ..)

/-- What squashing leaves of the versions that are gone. -/
theorem calm_withoutVersions (s : State) (c : List Cart) (e : List EngCmd) (f : List Flight) (v : List VCopy) (b : Store (Option Byte))
    (p : List Nat) (o : List OwnLine) (a : List AllocReq) :
    Calm s { s with carts := c, engines := e, flight := f, vspans := v, vcopy := b, poison := p, l1own := o, allocReqs := a } :=
  ⟨rfl, rfl, rfl, id⟩

theorem calm_squash (s : State) (d : Nat) (vs : List Nat) (full : Bool) : Calm s (s.squash d vs full) := by
  rw [State.squash]
  refine Calm.trans ?_ (calm_withoutVersions ..)
  refine Calm.trans ?_ (calm_modDom ..)
  exact calm_foldl (fun s g => calm_squashGrid full s g) _

theorem calm_displaceGo (n : Nat) (s : State) : Calm s (displaceGo n s) := by
  induction n generalizing s with
  | zero => exact Calm.refl s
  | succ n ih =>
    rw [displaceGo]
    split
    · exact Calm.refl s
    · split
      · exact (calm_vspans ..).trans (ih _)
      · dsimp only
        split
        · exact Calm.refl s
        · exact (calm_squash ..).trans (ih _)

theorem calm_displace (s : State) : Calm s s.displace := by
  rw [State.displace]
  split
  · exact Calm.refl s
  · exact calm_displaceGo ..

theorem calm_putVersion (s : State) (d v k : Nat) (bs : List Byte) : Calm s (s.putVersion d v k bs) := ⟨rfl, rfl, rfl, id⟩

theorem calm_writeFor (s : State) (d v k : Nat) (bs : List Byte) : Calm s (s.writeFor d v k bs) := by
  rw [State.writeFor]
  split
  · exact calm_homeWrite ..
  · refine Calm.trans ?_ (calm_land ..)
    refine Calm.trans ?_ (calm_mend ..)
    exact (calm_putVersion ..).trans (calm_recall ..)

theorem calm_refresh (s : State) (core : Nat) (home : Bool) (k : Nat) (bs : List Byte) : Calm s (s.refresh core home k bs) := by
  rw [State.refresh]
  split
  · refine calm_foldl (fun s x => calm_foldl (fun s u => ?_) _) _
    dsimp only
    split
    · exact calm_setCopy ..
    · exact Calm.refl s
  · exact Calm.refl s

theorem calm_refreshIf (s : State) (v core : Nat) (home : Bool) (k : Nat) (bs : List Byte) :
    Calm s (if v = 0 then s.refresh core home k bs else s) := by
  split
  · exact calm_refresh ..
  · exact Calm.refl s

theorem calm_keepOwn (s : State) (f : Flight) (l : List (PathRef × Nat × Nat × Nat)) : Calm s (s.keepOwn f l) := by
  rw [State.keepOwn]
  split <;> exact ⟨rfl, rfl, rfl, id⟩

theorem calm_perform (s : State) (f : Flight) : Calm s (s.perform f) := by
  rw [State.perform]
  split
  · exact Calm.refl s
  · split
    next bs _ =>
      have written := calm_writeFor s f.dom f.ver f.key bs
      refine Calm.trans ?_ (calm_displace _)
      cases f.poison
      · exact written.trans ((calm_refreshIf ..).trans (calm_keepOwn ..))
      · exact (written.trans (calm_poisonFor ..)).trans (((calm_refreshIf ..).trans (calm_keepOwn ..)).trans (calm_noteFailed ..))
    · split
      · exact calm_noteFailed ..
      · exact ((calm_useSpans ..).trans ((calm_writeFor ..).trans (calm_refreshIf ..))).trans (calm_displace _)

theorem calm_drainIf (s : State) (f : Flight → Bool) : Calm s (s.drainIf f) := by
  rw [State.drainIf]
  exact (calm_flight ..).trans (calm_foldl calm_perform _)

/-! ### Loads are bound -/

theorem calm_bindBytes (s : State) (r : PathRef) (home : Bool) (k n : Nat) (bypass : Bool) : Calm s (s.bindBytes r home k n bypass).1 := by
  rw [State.bindBytes]
  dsimp only
  refine Calm.trans ?_ (calm_recallBut ..)
  generalize hu : State.drainIf s _ = u
  have drained : Calm s u := hu ▸ calm_drainIf ..
  refine drained.trans ?_
  generalize hw : ite (u.verOf r = 0) _ _ = w
  have seen : Calm u w := by
    subst hw
    split
    · refine Calm.trans ?_ ((calm_fillHost ..).trans (calm_fillLoad ..))
      split
      · exact (calm_checkCopy ..).trans (calm_checkCopy ..)
      · exact Calm.refl u
    · exact (calm_fillHost ..).trans (calm_useSpans ..)
  refine seen.trans ?_
  split
  · exact calm_evictFor ..
  · exact Calm.refl _

theorem calm_bindPend (s : State) (p : Pend) : Calm s (s.bindPend p) := by
  rw [State.bindPend]
  split
  · exact Calm.refl s
  · next l _ =>
    refine Calm.trans (t := (l.bind s p.r).s) ?_ (calm_pend ..)
    refine foldl_keeps (fun x : Bound => Calm s x.s) _ l.lanes _ (fun x e hx => ?_) (Calm.refl s)
    rw [LoadSet.bindLane]
    split <;> exact hx.trans (calm_bindBytes ..)

theorem calm_bindIf (s : State) (f : Pend → LoadSet → Bool) : Calm s (s.bindIf f) := calm_foldl calm_bindPend _
theorem calm_bindRegs (s : State) (r : PathRef) (vs : List VReg) (ss : List SReg) : Calm s (s.bindRegs r vs ss) := calm_bindIf ..

end

end Sys2Proof.Machine
end

section
/-! SUPPORT. Taking up a path's word, and the wake of a path that waits at a full/empty word (R259, R261, R432). -/

namespace Sys2Proof.Machine

section
variable {s t u : State} {r : PathRef} {i : Instr}

/-! ### Paths that live go on living -/

/-- Every path is as live as before, and the issuing path is the same. -/
structure StaysLive (s t : State) : Prop where
  cur : t.cur = s.cur
  live : ∀ q, (t.path q).live = (s.path q).live

theorem StaysLive.refl (s : State) : StaysLive s s := ⟨rfl, fun _ => rfl⟩
theorem StaysLive.trans (h : StaysLive s t) (h' : StaysLive t u) : StaysLive s u :=
  ⟨h'.cur.trans h.cur, fun q => (h'.live q).trans (h.live q)⟩

theorem StaysLive.issuing (h : StaysLive s t) (i : Issuing s r) : Issuing t r := ⟨h.cur.trans i.cur, (h.live r).trans i.live⟩

theorem staysLive_foldl {α : Type} {f : State → α → State} (h : ∀ s a, StaysLive s (f s a)) (l : List α) : StaysLive s (l.foldl f s) :=
  foldl_keeps (StaysLive s) f l s (fun t a ht => ht.trans (h t a)) (StaysLive.refl s)

theorem staysLive_modPath (s : State) (r : PathRef) {f : Path → Path} (h : ∀ p, (f p).live = p.live := by exact fun _ => rfl) :
    StaysLive s (s.modPath r f) := by
  refine ⟨rfl, fun q => ?_⟩
  rw [State.path_modPath]
  split
  next e => rw [h, e]
  next => rfl

theorem staysLive_advance (s : State) (r : PathRef) (n : Nat) : StaysLive s (s.advance r n) :=
  staysLive_modPath s r fun p => p.advance_live n

theorem staysLive_endWait (s : State) (r : PathRef) (d : SReg) (n : Nat) : StaysLive s (s.endWait r d n) :=
  StaysLive.trans (t := s.sset r d (BitVec.ofNat 64 n)) ⟨rfl, fun q => by rw [State.path_sset]⟩ (staysLive_advance ..)

theorem staysLive_land (s : State) (k n : Nat) : StaysLive s (s.land k n) := by
  rw [State.land]
  refine staysLive_foldl (fun s r => ?_) _
  split
  · split
    · split
      · exact (staysLive_modPath s r).trans (staysLive_endWait ..)
      · exact staysLive_modPath ..
    · exact StaysLive.refl s
  · exact StaysLive.refl s

theorem staysLive_homeWrite (s : State) (k : Nat) (bs : List Byte) : StaysLive s (s.homeWrite k bs) := by
  rw [State.homeWrite]
  split
  · exact StaysLive.refl s
  · refine StaysLive.trans ⟨?_, fun q => ?_⟩ (staysLive_land ..)
    · rw [State.recall]
      split <;> rfl
    · rw [State.recall]
      split <;> rfl

theorem staysLive_noteSlice (s : State) (g : Grid) : StaysLive s (s.noteSlice g) := by
  rw [State.noteSlice]
  split
  · exact StaysLive.refl s
  · split
    · exact StaysLive.refl s
    · exact (staysLive_homeWrite ..).trans (staysLive_homeWrite ..)

theorem staysLive_firstIssue (s : State) (r : PathRef) : StaysLive s (s.firstIssue r) := by
  rw [State.firstIssue]
  split
  · exact StaysLive.refl s
  · split
    · refine StaysLive.trans ?_ (staysLive_noteSlice ..)
      exact ⟨rfl, fun _ => rfl⟩
    · exact StaysLive.refl s

theorem staysLive_watchFirst (s : State) (r : PathRef) : StaysLive s (s.watchFirst r) := by
  rw [State.watchFirst]
  split
  · exact ⟨rfl, fun _ => rfl⟩
  · exact StaysLive.refl s

theorem staysLive_modCore (s : State) (n : Nat) (f : CoreSt → CoreSt) : StaysLive s (s.modCore n f) := ⟨rfl, fun _ => rfl⟩
theorem staysLive_modCrew (s : State) (n : Nat) (f : Crew → Crew) : StaysLive s (s.modCrew n f) := ⟨rfl, fun _ => rfl⟩

/-- R432, R434, R435: noting an issue leaves the path that issues as live as it was. -/
theorem staysLive_noteIssue (s : State) (r : PathRef) : StaysLive s (s.noteIssue r) := by
  rw [State.noteIssue]
  have first := ((staysLive_firstIssue s r).trans (staysLive_watchFirst _ r)).trans
    (staysLive_modPath ((s.firstIssue r).watchFirst r) r (f := fun p => { p with age := 0, woke := none }))
  refine StaysLive.trans ?_ (staysLive_modCore ..)
  split
  · exact first
  · exact first.trans (staysLive_modCrew ..)

/-! ### Taking up a word -/

theorem staysLive_useSpans (s : State) (d v k : Nat) : StaysLive s (s.useSpans d v k) := by
  rw [State.useSpans]
  split <;> exact ⟨rfl, fun _ => rfl⟩

/-- A fetch that goes on goes on from a state in which the path issues still. -/
theorem fetch_run {va : DWord} {k : State → Word → Taken} (issue : Issuing s r) (h : s.fetch r va k = .run i t) :
    ∃ u w, Issuing u r ∧ k u w = .run i t := by
  rw [State.fetch] at h
  split at h
  · cases h
  · split at h
    · cases h
    · split at h
      · cases h
      · split at h
        · cases h
        · cases h
        · split at h
          · cases h
          · exact ⟨_, _, issue, h⟩
        · refine ⟨_, _, ?_, h⟩
          split
          · exact issue
          · exact (staysLive_useSpans ..).issuing issue

theorem ready_run {j : Instr} (issue : Issuing s r) (h : s.ready r j = .run i t) : Issuing t r := by
  rw [State.ready] at h
  split at h
  · cases h
    exact issue
  · split at h
    · cases h
    · dsimp only at h
      split at h
      · cases h
      · next live =>
        have bound : Issuing (s.bindRegs r (names (s.team r.tok).uniform (s.ty r) j).vR (names (s.team r.tok).uniform (s.ty r) j).sR) r :=
          ⟨(calm_bindRegs ..).cur.trans issue.cur, by simpa using live⟩
        split at h
        · cases h
        · split at h
          · cases h
            exact bound
          · cases h

theorem issueWords_run {w lit : Word} (issue : Issuing s r) (h : s.issueWords r w lit = .run i t) : Issuing t r := by
  rw [State.issueWords] at h
  split at h
  · cases h
  · exact ready_run issue h

theorem issueMacro_run {m : MacroRun} {o : MacroOp} (issue : Issuing s r) (h : s.issueMacro r m o = .run i t) : Issuing t r := by
  rw [State.issueMacro] at h
  split at h
  · exact issueWords_run issue h
  · cases h

theorem issueClause_run (issue : Issuing s r) (h : s.issueClause r = .run i t) : Issuing t r := by
  rw [State.issueClause] at h
  obtain ⟨u, w, issue, h⟩ := fetch_run issue h
  split at h
  · cases h
  · split at h
    · split at h
      · obtain ⟨u, lit, issue, h⟩ := fetch_run issue h
        exact issueWords_run issue h
      · cases h
    · exact issueWords_run issue h

theorem enterClause_run (issue : Issuing s r) (h : s.enterClause r = .run i t) : Issuing t r := by
  rw [State.enterClause] at h
  obtain ⟨u, w, issue, h⟩ := fetch_run issue h
  split at h
  · cases h
  · split at h
    · cases h
    · dsimp only at h
      split at h
      · cases h
      · exact issueClause_run ((staysLive_modPath ..).issuing issue) h

theorem issueNext_run (issue : Issuing s r) (h : s.issueNext r = .run i t) : Issuing t r := by
  rw [State.issueNext] at h
  split at h
  · exact issueClause_run issue h
  · exact enterClause_run issue h

/-- An instruction that a path takes up has that path as its issuer. -/
theorem takeUp_run (h : s.takeUp r = .run i t) : Issuing t r := by
  rw [State.takeUp] at h
  split at h
  · cases h
  next live =>
    have issue : Issuing ({ s.modPath r fun p => { p with wait := .none } with cur := some r } : State) r :=
      ⟨rfl, ((staysLive_modPath s r (f := fun p => { p with wait := .none })).live r).trans (by simpa using live)⟩
    dsimp only at h
    split at h
    · split at h
      · exact issueMacro_run issue h
      · exact issueNext_run ((staysLive_advance ..).issuing ((staysLive_modPath ..).issuing issue)) h
    · exact issueNext_run issue h

/-! ### The wake -/

theorem fullEmptyWakes : Rules.FullEmptyWakes := by
  intro s t r i d a m waits ready chosen taken kind
  have issue : Issuing (t.noteIssue r) r := (staysLive_noteIssue ..).issuing (takeUp_run taken)
  have woken : ((s.path r).wait.isFull && s.isReady r &&
      s.choose (s.seqOf r) (s.allPaths.filter fun q => s.isReady q && !(s.path q).polls && s.seqOf q == s.seqOf r)
        == some r) = true := by
    rw [waits, ready]
    exact beq_iff_eq.2 chosen
  have wake : exec (.fullEmptyWake r) s = _ := (if_pos woken).trans (by rw [taken])
  rcases kind with rfl | rfl | rfl
  · exact ⟨_, wake.trans (issued_next issue _), issued_next issue _⟩
  · exact ⟨_, wake.trans (issued_next issue _), issued_next issue _⟩
  · exact ⟨_, wake.trans (issued_next issue _), issued_next issue _⟩

/-- Settles O26: an instruction of one lane leaves its word as it should, and one that waits is taken up again by its path. -/
theorem fullEmptyWords : Obligations.FullEmptyWords := ⟨fullEmptyCompletes, fullEmptyWakes⟩

end

end Sys2Proof.Machine
end

section
/-! SUPPORT. Translation, and what a host does (R232, R411, R417, R443 to R446, R485). -/

namespace Sys2Proof.Machine

section
variable {s t u : State} {port : Bool} {ctx page : Nat}

/-! ### Page walks (R443) -/

theorem mem_tlbFill (s : State) (e : TlbEntry) : e ∈ (s.tlbFill e).tlb := List.mem_append_right _ (List.mem_singleton.2 rfl)

theorem walks : Rules.Walks := by
  intro s ctx unit va acc who small valid
  have known : ¬ (decide (582 ≤ unit) || !(s.ctx ctx).record.valid) = true := by
    rw [valid]
    simpa using small
  refine ⟨fun e found => ⟨s.tlbFill { e with unit := unit }, ?_, mem_tlbFill s _, rfl⟩, fun e fault => ?_⟩
  · exact (if_neg known).trans (by rw [found])
  · exact (if_neg known).trans (by rw [fault])

/-! ### What a failed access leaves (R445, R449) -/

/-- What delivering a fault record changes is memory, with its copies, and the context. -/
theorem fqAdd_keeps_field {α : Type} {g : State → α} (memory : ∀ s t, MemOnly s t → g t = g s)
    (context : ∀ s c f, g (State.modCtx s c f) = g s) (s : State) (c : Nat) (die : Nat) (bs : List Byte) : g (s.fqAdd c die bs) = g s := by
  rw [State.fqAdd]
  split
  · exact memory _ _ (memOnly_fqWrite ..)
  · dsimp only
    split
    · exact context ..
    · exact (memory _ _ (memOnly_logEvent ..)).trans (context ..)

theorem engineStop_hostFails (s : State) (e : EngCmd) (i : StopInfo) : (s.engineStop e i).hostFails = s.hostFails := by
  rw [State.engineStop]
  exact fqAdd_keeps_field (g := State.hostFails) (fun s t h => by rw [h.frame]) (fun s c f => rfl) ..

theorem engineStop_prqOut (s : State) (e : EngCmd) (i : StopInfo) : (s.engineStop e i).prqOut = s.prqOut := by
  rw [State.engineStop]
  exact fqAdd_keeps_field (g := State.prqOut) (fun s t h => by rw [h.frame]) (fun s c f => rfl) ..

theorem engineStop_engines (s : State) (e : EngCmd) (i : StopInfo) :
    (s.engineStop e i).engines =
      (s.modEngine e.serial fun x => { x with phase := .stopped (s.newHandle e.ctx) (x.phase == .finished) }).engines := by
  rw [State.engineStop]
  exact fqAdd_keeps_field (g := State.engines) (fun s t h => by rw [h.frame]) (fun s c f => rfl) ..

/-- A path and a launch queue are told from every engine command. -/
theorem hostFail_path (s : State) (port : Bool) (page sub : Nat) {who : PathRef} (h : who.tok < 2 ^ 41) :
    s.hostFail port page sub who = { s with hostFails := s.hostFails ++ [(who, port, page, sub)] } := by
  have apart : (s.engines.find? fun e => engineRef e.serial == who) = none := by
    refine List.find?_eq_none.2 fun e _ same => ?_
    rw [← beq_iff_eq.1 same] at h
    exact absurd h (Nat.not_lt.2 (Nat.le_add_right ..))
  rw [State.hostFail, apart]

theorem hostFail_keeps (s : State) (port : Bool) (page sub : Nat) (who : PathRef) :
    (∀ x ∈ s.hostFails, x ∈ (s.hostFail port page sub who).hostFails) ∧ (s.hostFail port page sub who).prqOut = s.prqOut := by
  rw [State.hostFail]
  split
  · exact ⟨fun x h => List.mem_append_left _ h, rfl⟩
  · split
    · rw [engineStop_hostFails, engineStop_prqOut]
      exact ⟨fun x h => h, rfl⟩
    · exact ⟨fun x h => h, rfl⟩

theorem mem_hostFails_foldl {port : Bool} {page sub : Nat} {r : PathRef} (small : r.tok < 2 ^ 41) :
    ∀ (l : List PathRef) (s : State), (r, port, page, sub) ∈ s.hostFails ∨ r ∈ l →
      (r, port, page, sub) ∈ (l.foldl (fun s r => s.hostFail port page sub r) s).hostFails
  | [], _, h => h.resolve_right (List.not_mem_nil)
  | q :: l, s, h => by
    refine mem_hostFails_foldl small l _ ?_
    rcases h with noted | waits
    · exact .inl ((hostFail_keeps ..).1 _ noted)
    · rcases List.mem_cons.1 waits with rfl | later
      · have noted : (r, port, page, sub) ∈ (s.hostFail port page sub r).hostFails := by
          rw [hostFail_path s port page sub small]
          exact List.mem_append_right _ (List.mem_singleton.2 rfl)
        exact .inl noted
      · exact .inr later

/-! ### Pages asked for (R445) -/

theorem pageAsk_length (s : State) (who : PathRef) : (s.pageAsk who port ctx page).prqOut.length ≤ s.prqOut.length + 1 := by
  rw [State.pageAsk]
  split
  · exact Nat.le_succ _
  · exact (List.length_append ..).le

theorem pageAsked_pageAsk (s : State) (who : PathRef) (r : PathRef) (h : s.pageAsked r port ctx page = true) :
    (s.pageAsk who port ctx page).pageAsked r port ctx page = true := by
  rw [State.pageAsk]
  split
  · exact h
  · rw [State.pageAsked] at h ⊢
    rw [List.any_append, h]
    rfl

theorem pageAsked_own (s : State) (who : PathRef) (room : s.prqOut.length < 512) :
    (s.pageAsk who port ctx page).pageAsked who port ctx page = true := by
  have free : ¬ 512 ≤ (s.prqOut.filter fun x => x.port == port).length := by
    have := List.length_filter_le (fun x : PageReq => x.port == port) s.prqOut
    omega
  rw [State.pageAsk]
  split
  next h =>
    rw [decide_eq_false free, Bool.or_false] at h
    exact h
  next =>
    rw [State.pageAsked, List.any_append, Bool.or_eq_true]
    refine .inr ?_
    rw [List.any_cons, PageReq.names]
    simp only [beq_self_eq_true, Bool.and_self, Bool.true_or]

theorem pageAsked_foldl {r : PathRef} :
    ∀ (l : List PathRef) (s : State), s.prqOut.length + l.length ≤ 512 → s.pageAsked r port ctx page = true ∨ r ∈ l →
      (l.foldl (fun s r => s.pageAsk r port ctx page) s).pageAsked r port ctx page = true
  | [], _, _, h => h.resolve_right (List.not_mem_nil)
  | q :: l, s, room, h => by
    rw [List.length_cons] at room
    have grown := pageAsk_length (port := port) (ctx := ctx) (page := page) s q
    refine pageAsked_foldl l (s.pageAsk q port ctx page) (by omega) ?_
    rcases h with asked | waits
    · exact .inl (pageAsked_pageAsk s q r asked)
    · rcases List.mem_cons.1 waits with rfl | later
      · exact .inl (pageAsked_own s r (by omega))
      · exact .inr later

/-! ### Commands that try again (R445) -/

/-- An engine command asks for a page of a context. -/
def EngCmd.wants (e : EngCmd) (port : Bool) (ctx page : Nat) : Bool :=
  e.ctx == ctx && (match e.asks with | some (p, g, _, _) => p == port && g == page | none => false)

theorem askers_eq (s : State) : s.askers port ctx page = s.engines.filter fun e => e.wants port ctx page := rfl

theorem EngCmd.wants_iff {e : EngCmd} : e.wants port ctx page = true ↔ e.ctx = ctx ∧ ∃ va acc, e.asks = some (port, page, va, acc) := by
  rw [EngCmd.wants]
  rcases h : e.asks with - | ⟨p, g, va, acc⟩
  · simp
  · simp only [Bool.and_eq_true, beq_iff_eq, Option.some.injEq, Prod.mk.injEq]
    exact ⟨fun ⟨c, hp, hg⟩ => ⟨c, va, acc, hp, hg, rfl, rfl⟩, fun ⟨c, _, _, hp, hg, _, _⟩ => ⟨c, hp, hg⟩⟩

/-- A command that wants the page after others of given serials have stopped asking wanted it before, and is none of them. -/
theorem wants_foldl {e : EngCmd} (wants : e.wants port ctx page = true) :
    ∀ (l : List EngCmd) (s : State), e ∈ (l.foldl (fun s x => s.modEngine x.serial fun x => { x with asks := none }) s).engines →
      e ∈ s.engines ∧ ∀ x ∈ l, x.serial ≠ e.serial
  | [], _, h => ⟨h, fun _ h => absurd h List.not_mem_nil⟩
  | q :: l, s, h => by
    obtain ⟨before, apart⟩ := wants_foldl wants l _ h
    obtain ⟨b, held, made⟩ := List.mem_map.1 before
    by_cases same : b.serial = q.serial
    · rw [if_pos same] at made
      subst made
      obtain ⟨-, va, acc, asks⟩ := EngCmd.wants_iff.1 wants
      exact absurd asks (by simp)
    · rw [if_neg same] at made
      subst made
      exact ⟨held, List.forall_mem_cons.2 ⟨fun h => same h.symm, apart⟩⟩

theorem retryEngines_none (s : State) {e : EngCmd} (h : e ∈ (s.retryEngines port ctx page).engines) : e.wants port ctx page = false := by
  rw [Bool.eq_false_iff]
  intro wants
  obtain ⟨held, apart⟩ := wants_foldl wants _ _ h
  exact apart e (List.mem_filter.2 ⟨held, wants⟩) rfl

/-- A state but for its engine commands. -/
def State.otherThanEngines (s : State) : State := { s with engines := [] }

theorem retryEngines_frame (s : State) : s.retryEngines port ctx page = { s with engines := (s.retryEngines port ctx page).engines } := by
  have same : (s.retryEngines port ctx page).otherThanEngines = s.otherThanEngines :=
    foldl_same State.otherThanEngines _ _ _ fun s e => rfl
  calc s.retryEngines port ctx page
      = { (s.retryEngines port ctx page).otherThanEngines with engines := (s.retryEngines port ctx page).engines } := rfl
    _ = { s.otherThanEngines with engines := (s.retryEngines port ctx page).engines } := by rw [same]

theorem mem_atcFill (s : State) (x : AtcEntry) : x ∈ (s.atcFill x).atc := List.mem_append_right _ (List.mem_singleton.2 rfl)

/-! ### Completed translations (R445) -/

section
variable (waits : s.atsOut.contains (port, ctx, page) = true) (target : Nat) (w : Bool)

/-- A state in which a translation is asked for no more. -/
def State.atsDone (s : State) (port : Bool) (ctx page : Nat) : State :=
  { s with atsOut := s.atsOut.filter fun x => x != (port, ctx, page) }

include waits

theorem atsCompletion_ok : ∃ t, exec (.atsTranslationCompletion port ctx page .ok target w) s = .next t ∧
    ⟨port, ctx, page, target, w⟩ ∈ t.atc ∧ t.atsOut = (s.atsDone port ctx page).atsOut ∧ SameMemory s t ∧
    ∀ e ∈ t.engines, e.ctx = ctx → ∀ va acc, e.asks ≠ some (port, page, va, acc) := by
  refine ⟨((s.atsDone port ctx page).atcFill ⟨port, ctx, page, target, w⟩).retryEngines port ctx page,
    if_neg (by rw [waits]; exact Bool.false_ne_true), ?_, ?_, ?_, fun e held same va acc asks => ?_⟩
  · rw [retryEngines_frame]
    exact mem_atcFill ..
  · rw [retryEngines_frame]
    rfl
  · rw [retryEngines_frame]
    exact fun a => rfl
  · exact absurd (EngCmd.wants_iff.2 ⟨same, va, acc, asks⟩) (Bool.eq_false_iff.1 (retryEngines_none _ held))

theorem atsCompletion_noPermission : ∃ t, exec (.atsTranslationCompletion port ctx page .noPermission target w) s = .next t ∧
    (s.prqOut.length + ((s.atsDone port ctx page).pageWaiters port ctx page).length ≤ 512 →
      ∀ r ∈ (s.atsDone port ctx page).pageWaiters port ctx page, t.pageAsked r port ctx page = true) :=
  ⟨_, if_neg (by rw [waits]; exact Bool.false_ne_true), fun room _ held => pageAsked_foldl _ (s.atsDone port ctx page) room (.inr held)⟩

theorem atsCompletion_error : ∃ t, exec (.atsTranslationCompletion port ctx page .error target w) s = .next t ∧
    ∀ r ∈ (s.atsDone port ctx page).pageWaiters port ctx page, r.tok < 2 ^ 41 → (r, port, page, 3) ∈ t.hostFails :=
  ⟨_, if_neg (by rw [waits]; exact Bool.false_ne_true), fun _ held small => mem_hostFails_foldl small _ (s.atsDone port ctx page) (.inr held)⟩

end

/-! ### Pages that do not come (R445) -/

section
variable {q : PageReq}

/-- What fails of the instruction that a page was asked for. -/
structure Fails (s t : State) (port : Bool) (ctx page : Nat) (q : PageReq) (sub : Nat) : Prop where
  rest : t.prqOut = s.prqOut.erase q
  gone : q.who ∉ ({ s with prqOut := s.prqOut.erase q } : State).pageWaiters port ctx page → t = { s with prqOut := s.prqOut.erase q }
  path : q.who ∈ ({ s with prqOut := s.prqOut.erase q } : State).pageWaiters port ctx page → q.who.tok < 2 ^ 41 →
    t = { s with prqOut := s.prqOut.erase q, hostFails := s.hostFails ++ [(q.who, port, page, sub)] }
  engine : ∀ e va acc, s.engines = [e] → q.who = engineRef e.serial → e.ctx = ctx → e.asks = some (port, page, va, acc) →
    t.engines.map (fun x => x.serial) = [e.serial] ∧ ∀ x ∈ t.engines, ∃ h late, x.phase = .stopped h late

theorem mem_pageWaiters_engine {e : EngCmd} (held : e ∈ s.engines) (wants : e.wants port ctx page = true) :
    engineRef e.serial ∈ s.pageWaiters port ctx page :=
  List.mem_append_left _ (List.mem_append_right _ (List.mem_map_of_mem (List.mem_filter.2 ⟨held, wants⟩)))

theorem modEngine_one {e : EngCmd} (one : s.engines = [e]) (f : EngCmd → EngCmd) : (s.modEngine e.serial f).engines = [f e] := by
  rw [State.modEngine, one, List.map_singleton, if_pos rfl]

/-- The one command that there is stops, where it fails. -/
theorem hostFail_engine {e : EngCmd} {asks : Bool × Nat × DWord × Nat} (one : s.engines = [e]) (waits : e.asks = some asks)
    (port : Bool) (page sub : Nat) :
    ∃ h late, (s.hostFail port page sub (engineRef e.serial)).engines = [{ e with asks := none, phase := .stopped h late }] := by
  have found : (s.engines.find? fun x => engineRef x.serial == engineRef e.serial) = some e := by
    rw [one]
    exact List.find?_cons_of_pos (p := fun x : EngCmd => engineRef x.serial == engineRef e.serial) (beq_self_eq_true _)
  have asked := modEngine_one one fun x => { x with asks := none }
  rw [State.hostFail, found]
  dsimp only
  rw [waits]
  generalize (s.modEngine e.serial fun x => { x with asks := none }) = u at asked ⊢
  exact ⟨u.newHandle e.ctx, e.phase == .finished, (engineStop_engines ..).trans (modEngine_one asked _)⟩

theorem groupFail_fails (names : q.names port ctx page = true) (sub : Nat) :
    Fails s (({ s with prqOut := s.prqOut.erase q } : State).groupFail q sub) port ctx page q sub := by
  rw [PageReq.names, Bool.and_eq_true, Bool.and_eq_true, beq_iff_eq, beq_iff_eq, beq_iff_eq] at names
  obtain ⟨⟨hp, hc⟩, hg⟩ := names
  rw [State.groupFail, hp, hc, hg]
  generalize hb : ({ s with prqOut := s.prqOut.erase q } : State) = back
  have rest : back.prqOut = s.prqOut.erase q := by rw [← hb]
  have engines : back.engines = s.engines := by rw [← hb]
  by_cases waits : q.who ∈ back.pageWaiters port ctx page
  · rw [if_pos (List.contains_iff_mem.2 waits)]
    refine ⟨(hostFail_keeps ..).2.trans rest, fun none => absurd (hb ▸ waits) none, fun _ small => ?_, fun e va acc one who same asks => ?_⟩
    · rw [hostFail_path back port page sub small, ← hb]
    · obtain ⟨h, late, left⟩ := hostFail_engine (engines.trans one) asks port page sub
      rw [who, left]
      exact ⟨rfl, fun x held => ⟨h, late, by rw [List.mem_singleton.1 held]⟩⟩
  · rw [if_neg (mt List.contains_iff_mem.1 waits)]
    refine ⟨rest, fun _ => hb.symm, fun here => absurd (hb ▸ here) waits, fun e va acc one who same asks => ?_⟩
    refine absurd ?_ waits
    rw [who]
    exact mem_pageWaiters_engine (by rw [engines, one]; exact List.mem_singleton.2 rfl) (EngCmd.wants_iff.2 ⟨same, va, acc, asks⟩)

theorem takeGroup_none (unasked : ∀ q ∈ s.prqOut, q.names port ctx page = false) : s.takeGroup port ctx page = none := by
  rw [State.takeGroup, List.find?_eq_none.2 fun q held => Bool.eq_false_iff.1 (unasked q held)]
  rfl

theorem takeGroup_some (asked : (s.prqOut.find? fun q => q.names port ctx page) = some q) :
    s.takeGroup port ctx page = some ({ s with prqOut := s.prqOut.erase q }, q) := by
  rw [State.takeGroup, asked]
  rfl

theorem pageResponse_fails {o : PriOutcome} (bad : o ≠ .success) (asked : (s.prqOut.find? fun q => q.names port ctx page) = some q) :
    exec (.pageRequestResponse port ctx page o) s = .next (({ s with prqOut := s.prqOut.erase q } : State).groupFail q 1) := by
  rw [show exec (.pageRequestResponse port ctx page o) s = execPageRequestResponse port ctx page o s from rfl, execPageRequestResponse,
    takeGroup_some asked]
  cases o with
  | success => exact absurd rfl bad
  | invalid => rfl
  | failure => rfl

theorem pageResponse_success (asked : (s.prqOut.find? fun q => q.names port ctx page) = some q) :
    ∃ t, exec (.pageRequestResponse port ctx page .success) s = .next t ∧ (port, ctx, page) ∈ t.atsOut ∧ t.prqOut = s.prqOut.erase q ∧
      SameMemory s t := by
  rw [show exec (.pageRequestResponse port ctx page .success) s = execPageRequestResponse port ctx page .success s from rfl,
    execPageRequestResponse, takeGroup_some asked]
  dsimp only
  split
  next already => exact ⟨_, rfl, List.contains_iff_mem.1 already, rfl, fun a => rfl⟩
  next => exact ⟨_, rfl, List.mem_append_right _ (List.mem_singleton.2 rfl), rfl, fun a => rfl⟩

theorem atsTimeout_eq (asked : (s.prqOut.find? fun q => q.names port ctx page) = some q) :
    exec (.atsTimeout port ctx page) s = .next (({ s with prqOut := s.prqOut.erase q } : State).groupFail q 2) := by
  rw [show exec (.atsTimeout port ctx page) s = execAtsTimeout port ctx page s from rfl, execAtsTimeout, takeGroup_some asked]

theorem unasked_waits (unasked : ∀ q ∈ s.prqOut, q.names port ctx page = false) :
    (∀ o, exec (.pageRequestResponse port ctx page o) s = .next s) ∧ exec (.atsTimeout port ctx page) s = .next s := by
  refine ⟨fun o => ?_, ?_⟩
  · rw [show exec (.pageRequestResponse port ctx page o) s = execPageRequestResponse port ctx page o s from rfl, execPageRequestResponse,
      takeGroup_none unasked]
  · rw [show exec (.atsTimeout port ctx page) s = execAtsTimeout port ctx page s from rfl, execAtsTimeout, takeGroup_none unasked]

end

end

end Sys2Proof.Machine
end

section
/-! SUPPORT. Invalidations of a host, and its accesses to a die's window (R232, R411, R417, R446, R485). -/

namespace Sys2Proof.Machine

section
variable {s t u : State} {port : Bool} {ctx page : Nat}

/-! ### Invalidations (R446) -/

/-- A key of the memory of a port's host. -/
def ofHost (port : Bool) (k : Nat) : Bool := isHostKey k && hostPortOf k == port

/-- A load that has not bound reads the memory of a port's host. -/
def Pend.readsHost (p : Pend) (port : Bool) : Bool :=
  match p.loads with
  | some l => l.lanes.any fun e => ofHost port e.2.2.1
  | none => false

theorem Pend.readsHost_iff {p : Pend} : p.readsHost port = true ↔
    ∃ l, p.loads = some l ∧ ∃ e ∈ l.lanes, isHostKey e.2.2.1 = true ∧ hostPortOf e.2.2.1 = port := by
  rw [Pend.readsHost]
  cases h : p.loads with
  | none => simp
  | some l => simp [ofHost]

theorem calm_hostOut (s : State) (first n : Nat) (drop : Bool) : Calm s (s.hostOut first n drop) := ⟨rfl, rfl, rfl, id⟩
theorem calm_deliver (s : State) (port : Bool) : Calm s (s.deliver port) := ⟨rfl, rfl, rfl, fun h => State.deliver_memOk h port⟩

/-- What the caches write back for a delivery. -/
def State.cachesOut (s : State) (port : Bool) : State :=
  let s := (s.copyUnits.filter fun u => decide (u < 576)).foldl (fun s u => s.l1ToRdc u (ofHost port)) s
  (s.copyUnits.filter fun u => decide (576 ≤ u)).foldl (fun s u => s.writeBack u (ofHost port)) s

/-- What is delivered before the bytes at the home L2. -/
def State.accessesOut (s : State) (port : Bool) : State :=
  ((s.bindIf fun p l => !s.bindHeld p && l.lanes.any fun e => ofHost port e.2.2.1).drainIf fun f => ofHost port f.key).cachesOut port

theorem deliverAll_eq (s : State) (port : Bool) :
    s.deliverAll port = ((s.accessesOut port).hostOut (hostKey port 0) (2 ^ 56) false).deliver port := rfl

theorem memOnly_cachesOut (s : State) (port : Bool) : MemOnly s (s.cachesOut port) :=
  (memOnly_foldl (fun _ _ => memOnly_l1ToRdc ..) _).trans (memOnly_foldl (fun _ _ => memOnly_writeBack ..) _)

theorem calm_cachesOut (s : State) (port : Bool) : Calm s (s.cachesOut port) :=
  (calm_foldl (fun _ _ => calm_l1ToRdc ..) _).trans (calm_foldl (fun _ _ => calm_writeBack ..) _)

theorem calm_deliverAll (s : State) (port : Bool) : Calm s (s.deliverAll port) := by
  rw [deliverAll_eq, State.accessesOut]
  exact ((((calm_bindIf ..).trans (calm_drainIf ..)).trans (calm_cachesOut ..)).trans (calm_hostOut ..)).trans (calm_deliver ..)

theorem deliverAll_hostWr (s : State) (port : Bool) : ∀ x ∈ (s.deliverAll port).hostWr, hostPortOf x.1 ≠ port := by
  rw [deliverAll_eq]
  intro x held
  exact bne_iff_ne.1 (List.mem_filter.1 held).2

theorem deliverAll_flight (bound : ∀ p ∈ s.pend, p.loads = none) (own : ∀ f ∈ s.flight, isHostKey f.key = false) :
    (s.deliverAll port).flight = s.flight := by
  have unread : (s.bindIf fun p l => !s.bindHeld p && l.lanes.any fun e => ofHost port e.2.2.1) = s :=
    bindIf_none fun p held l load => absurd ((bound p held).symm.trans load) (by simp)
  have unsent : (s.drainIf fun f => ofHost port f.key) = s :=
    drainIf_none fun f held => by rw [ofHost, own f held, Bool.false_and]
  rw [deliverAll_eq, State.accessesOut, unread, unsent]
  change (s.cachesOut port).flight = s.flight
  rw [(memOnly_cachesOut s port).frame]

/-- What an invalidation drops. -/
def AtcEntry.hit (x : AtcEntry) (port : Bool) (ctx page count : Nat) : Bool :=
  x.port == port && x.ctx == ctx && decide (page ≤ x.page) && decide (x.page < page + count)

theorem AtcEntry.hit_iff {x : AtcEntry} {count : Nat} :
    x.hit port ctx page count = true ↔ x.port = port ∧ x.ctx = ctx ∧ page ≤ x.page ∧ x.page < page + count := by
  simp [AtcEntry.hit, and_assoc]

/-- A state whose port has no translation of the pages named. -/
def State.atcDrop (s : State) (port : Bool) (ctx page count : Nat) : State :=
  { s with atc := s.atc.filter fun x => !x.hit port ctx page count }

theorem invalidation_eq (s : State) (port : Bool) (ctx page count : Nat) :
    exec (.hostInvalidationRequest port ctx page count) s =
      if s.allHeld || s.pend.any fun p => s.bindHeld p && p.readsHost port then .next s
      else .next { (s.atcDrop port ctx page count).deliverAll port with
        out := ((s.atcDrop port ctx page count).deliverAll port).out ++ [.invalidated port ctx page] } := rfl

theorem invalidation_waits (h : s.allHeld = true ∨ ∃ p ∈ s.pend, s.bindHeld p = true ∧ p.readsHost port = true) (count : Nat) :
    exec (.hostInvalidationRequest port ctx page count) s = .next s := by
  rw [invalidation_eq]
  refine if_pos ?_
  rw [Bool.or_eq_true, List.any_eq_true]
  refine h.imp_right fun ⟨p, held, waits, reads⟩ => ⟨p, held, ?_⟩
  rw [waits, reads]
  rfl

theorem invalidation_done (free : s.allHeld = false) (reads : ∀ p ∈ s.pend, p.readsHost port = true → s.bindHeld p = false) (count : Nat) :
    ∃ t, exec (.hostInvalidationRequest port ctx page count) s = .next t ∧ t.tlb = s.tlb ∧
      t.out.getLast? = some (.invalidated port ctx page) ∧ (∀ x ∈ t.hostWr, hostPortOf x.1 ≠ port) ∧
      ((∀ p ∈ s.pend, p.loads = none) → (∀ f ∈ s.flight, isHostKey f.key = false) → t.flight = s.flight) ∧
      ∀ x, x ∈ t.atc ↔ x ∈ s.atc ∧ ¬ (x.port = port ∧ x.ctx = ctx ∧ page ≤ x.page ∧ x.page < page + count) := by
  have goes : ¬ (s.allHeld || s.pend.any fun p => s.bindHeld p && p.readsHost port) = true := by
    rw [free, Bool.false_or, List.any_eq_true]
    rintro ⟨p, held, both⟩
    rw [Bool.and_eq_true] at both
    exact absurd both.1 (Bool.eq_false_iff.1 (reads p held both.2))
  have calm := calm_deliverAll (s.atcDrop port ctx page count) port
  have left := deliverAll_hostWr (s.atcDrop port ctx page count) port
  have flight := deliverAll_flight (port := port) (s := s.atcDrop port ctx page count)
  rw [invalidation_eq, if_neg goes]
  generalize (s.atcDrop port ctx page count).deliverAll port = v at calm left flight
  refine ⟨_, rfl, calm.tlb, List.getLast?_concat, left, flight, fun x => ?_⟩
  rw [calm.atc, State.atcDrop, List.mem_filter, Bool.not_eq_true', ← Bool.not_eq_true, AtcEntry.hit_iff]

theorem hostTranslations : Rules.HostTranslations := by
  intro s port ctx page target w key ats rsp done
  refine ⟨fun waits o => if_pos (by rw [waits]; rfl), unasked_waits, fun waits => ⟨atsCompletion_ok waits target w,
    atsCompletion_noPermission waits target w, atsCompletion_error waits target w⟩, fun q asked => ?_, ?_⟩
  · have names : q.names port ctx page = true :=
      List.find?_some (p := fun q : PageReq => q.names port ctx page) asked
    have fails : ∀ o sub, o = (.next (({ s with prqOut := s.prqOut.erase q } : State).groupFail q sub) : Host.Outcome State Fault Refusal) →
        ∃ t, o = .next t ∧ Fails s t port ctx page q sub := fun o sub same => ⟨_, same, groupFail_fails names sub⟩
    intro back failed
    have spelt : ∀ o sub, (∃ t, o = (.next t : Host.Outcome State Fault Refusal) ∧ Fails s t port ctx page q sub) → failed o sub :=
      fun o sub ⟨t, same, ⟨rest, gone, path, engine⟩⟩ => ⟨t, same, rest, gone, path, engine⟩
    exact ⟨spelt _ _ (fails _ _ (pageResponse_fails (o := .invalid) nofun asked)), spelt _ _ (fails _ _ (pageResponse_fails (o := .failure) nofun asked)),
      spelt _ _ (fails _ _ (atsTimeout_eq asked)), pageResponse_success asked⟩
  · intro mine
    refine ⟨fun waits count => ?_, fun free reads count => ?_⟩
    · exact invalidation_waits (waits.imp_right fun ⟨p, held, hb, hm⟩ => ⟨p, held, hb, Pend.readsHost_iff.2 hm⟩) count
    · exact invalidation_done free (fun p held hr => reads p held (Pend.readsHost_iff.1 hr)) count

/-! ### Accesses of a host (R232, R411, R417, R485) -/

section
variable {die : Bool} {off n : Nat}

/-- The key of an offset into a die's window. -/
def windowAt (die : Bool) (off : Nat) : Nat := windowBase + die.toNat * 2 ^ 20 + off

theorem isHostKey_window (die : Bool) {off : Nat} (small : off ≤ 2 ^ 20) : isHostKey (windowAt die off) = false := by
  have one : die.toNat ≤ 1 := Bool.toNat_le die
  rw [isHostKey, decide_eq_false_iff_not, windowAt, windowBase]
  omega

/-- A write at a home reads back there, and leaves every other byte. -/
theorem homeWrite_window (s : State) (die : Bool) (inside : off + n ≤ 2 ^ 20) (x : Nat) :
    (s.homeWrite (windowAt die off) (leBytes n x)).memNat (windowAt die off) n = x % 2 ^ (8 * n) ∧
    ∀ a, a < windowAt die off ∨ windowAt die off + n ≤ a → (s.homeWrite (windowAt die off) (leBytes n x)).memByte a = s.memByte a := by
  have same : SameMemory (s.putBytes (windowAt die off) (leBytes n x)) (s.homeWrite (windowAt die off) (leBytes n x)) :=
    memByte_of_basis (homeWrite_basis s (windowAt die off) (leBytes n x))
  refine ⟨?_, fun a apart => ?_⟩
  · rw [memNat_of_sameMemory same]
    refine memNat_putBytes_same ?_
    rw [isHostKey_window die (by omega : off ≤ 2 ^ 20)]
    have near : windowAt die (off + n) = windowAt die off + n := (Nat.add_assoc ..).symm
    have low := isHostKey_window die inside
    rw [isHostKey, decide_eq_false_iff_not] at low ⊢
    omega
  · rw [same a]
    exact State.memByte_putBytes_outside s _ a _ (by rwa [leBytes_length])

/-- A host's access to a window of a die that runs. -/
theorem windowAccess_eq (up : s.hostUp port = true) (runs : s.boot = 2) {a : HostAccess} (inside : (hostRange a).1 + (hostRange a).2 ≤ 2 ^ 20)
    (small : (hostRange a).2 ≤ 8) : exec (.hostWindowAccess port die a) s = .next (s.windowOrWait port die a) := by
  have goes : ¬ (!s.hostUp port || decide (8 < (hostRange a).2)) = true := by
    rw [up]
    simpa using small
  have running : ¬ s.boot = 3 := by rw [runs]; decide
  exact (if_neg goes).trans ((if_neg running).trans (if_pos ⟨runs, inside⟩))

theorem windowOrWait_free {a : HostAccess} (free : s.owned (windowAt die (hostRange a).1) (hostRange a).2 = false) :
    s.windowOrWait port die a = ({ s with hostWaits := s.hostWaits.erase (port, die, a) } : State).windowAccess port die a :=
  if_neg (by rw [windowKey]; exact Bool.eq_false_iff.1 free)

theorem windowOrWait_owned {a : HostAccess} (owned : s.owned (windowAt die (hostRange a).1) (hostRange a).2 = true)
    (new : (port, die, a) ∉ s.hostWaits) : s.windowOrWait port die a = { s with hostWaits := s.hostWaits ++ [(port, die, a)] } :=
  (if_pos owned).trans (if_neg (mt List.contains_iff_mem.1 new))

theorem hostLinkUp_up (h : s.boot = 2 ∨ s.boot = 3) :
    ∃ t, exec (.hostLinkUp port) s = .next t ∧ t.hostUp port = true ∧ t.hostUp (!port) = s.hostUp (!port) ∧ SameMemory s t := by
  refine ⟨_, if_pos h, ?_⟩
  cases port <;> exact ⟨rfl, rfl, fun a => rfl⟩

theorem homeWrite_out (s : State) (k : Nat) (bs : List Byte) : (s.homeWrite k bs).out = s.out := by rw [(memOnly_homeWrite s k bs).frame]

theorem hostAtomic_eq (op : AtomOp) (n old x y : Nat) : hostAtomic op n old x y =
    if op = .cas then (if old = x % 2 ^ (8 * n) then y % 2 ^ (8 * n) else old) else atomNew op (8 * n) old (x % 2 ^ (8 * n)) := by
  rw [hostAtomic]
  simp only [beq_iff_eq]

/-- What an atomic of a host leaves. -/
theorem windowAtomic (s : State) (op : AtomOp) (wide : Bool) (x y : DWord) (inside : off + (if wide then 8 else 4) ≤ 2 ^ 20) :
    let k := windowAt die off
    let z := if wide then 8 else 4
    let t := s.windowAccess port die (.atomic off wide op x y)
    t.memNat k z = hostAtomic op z (s.memNat k z) x.toNat y.toNat % 2 ^ (8 * z) ∧
      t.out = s.out ++ [.windowRead port (BitVec.ofNat 64 (s.memNat k z))] ∧
      ∀ a, a < k ∨ k + z ≤ a → t.memByte a = s.memByte a := by
  intro k z t
  have written := homeWrite_window s die inside (hostAtomic op z (s.memNat k z) x.toNat y.toNat)
  exact ⟨written.1, congrArg (· ++ _) (homeWrite_out ..), written.2⟩

theorem hostAccesses : Rules.HostAccesses := by
  intro s port die off n v x y k
  refine ⟨hostLinkUp_up, fun a down => if_pos (by rw [down]; rfl), fun up runs inside small free => ⟨?_, ?_⟩,
    fun up runs inside small owned a kind new => ?_, ?_⟩
  · exact (windowAccess_eq (a := .load off n) up runs inside small).trans (congrArg _ (windowOrWait_free (a := .load off n) free))
  · refine ⟨_, (windowAccess_eq (a := .store off n v) up runs inside small).trans
      (congrArg _ (windowOrWait_free (a := .store off n v) free)), ?_⟩
    exact homeWrite_window { s with hostWaits := s.hostWaits.erase (port, die, .store off n v) } die inside v.toNat
  · rcases List.mem_pair.1 kind with rfl | rfl
    · exact (windowAccess_eq (a := .load off n) up runs inside small).trans (congrArg _ (windowOrWait_owned owned new))
    · exact (windowAccess_eq (a := .store off n v) up runs inside small).trans (congrArg _ (windowOrWait_owned owned new))
  · intro wide op z up runs inside free old m new
    have narrow : z ≤ 8 := by
      cases wide <;> decide
    refine ⟨_, (windowAccess_eq (a := .atomic off wide op x y) up runs inside narrow).trans
      (congrArg _ (windowOrWait_free (a := .atomic off wide op x y) free)), ?_⟩
    have left := windowAtomic (port := port) (die := die) { s with hostWaits := s.hostWaits.erase (port, die, .atomic off wide op x y) }
      op wide x y inside
    dsimp only at left
    rw [hostAtomic_eq] at left
    exact left

end

/-- Settles O56: the tables take what is answered, who waited goes on or fails, and a host reads and writes the windows. -/
theorem translationAndHosts : Obligations.TranslationAndHosts := ⟨walks, hostTranslations, hostAccesses⟩

end

end Sys2Proof.Machine
end

section
/-! SUPPORT. What keeps memory in its canonical form (assumption 3): what is said of each kind of value that a state is
handed on in. -/

namespace Sys2Proof.Machine

variable {s t : State}

/-- Memory as it was is as canonical as it was. -/
theorem memOk_of_mem (e : t.mem = s.mem) (h : s.memOk) : t.memOk := by rw [State.memOk, e]; exact h

theorem memOk_of_fst {α : Type} {x : State × α} {a : α} (e : x = (t, a)) (h : x.1.memOk) : t.memOk := by rw [e] at h; exact h

/-- A result that there is satisfies a predicate. -/
structure OkOption {α : Type} (P : α → Prop) (x : Option α) : Prop where
  out : ∀ {a}, x = some a → P a

/-- A result that is no error satisfies a predicate. -/
structure OkExcept {ε α : Type} (P : α → Prop) (x : Except ε α) : Prop where
  out : ∀ {a}, x = .ok a → P a

/-- The next state's memory is in its canonical form. -/
structure OkNext (x : Res) : Prop where
  out : ∀ {t}, x = .next t → t.memOk

/-- Memory in its canonical form, as a structure: the kernel compares what it is said of argument by argument. -/
structure OkState (s : State) : Prop where
  ok : s.memOk

/-- The memory of a turn taken is in its canonical form. -/
def OkTaken (x : Taken) : Prop := match x with | .over s | .run _ s => s.memOk

/-- What a command's run leaves of memory is in its canonical form. -/
def OkRunOut (x : RunOut) : Prop := match x with | .ran s _ | .bad s _ => s.memOk | .held .. => True

/-- What a command of the KV unit leaves of memory is in its canonical form, whether it ends or fails. -/
structure OkKv {α : Type} (P : α → Prop) (x : Except KvFail α) : Prop where
  out : ∀ {a}, x = .ok a → P a
  err : ∀ {f}, x = .error f → f.s.memOk

/-- What a lane's access leaves of memory is in its canonical form. -/
def OkLane (x : LaneRes) : Prop := match x with | .ok s _ _ _ | .load s _ _ _ => s.memOk | _ => True

section
variable {α ε : Type} {P : α → Prop} {a : α}

theorem okOption (h : P a) : OkOption P (some a) := ⟨fun e => Option.some.inj e ▸ h⟩
theorem okOption_none : OkOption P none := ⟨fun e => nomatch e⟩
theorem okExcept (h : P a) : OkExcept P (.ok a : Except ε α) := ⟨fun e => Except.ok.inj e ▸ h⟩
theorem okExcept_error {x : ε} : OkExcept P (.error x : Except ε α) := ⟨fun e => nomatch e⟩

theorem okExcept_read {x : Except ε α} : OkExcept (fun _ => True) x := ⟨fun _ => trivial⟩

theorem okExcept_mapError {δ : Type} {x : Except ε α} {f : ε → δ} (h : OkExcept P x) : OkExcept P (x.mapError f) := by
  cases x with
  | error e => exact okExcept_error
  | ok b => exact okExcept (h.out rfl)

theorem okKv {x : α} (h : P x) : OkKv P (.ok x) := ⟨fun e => Except.ok.inj e ▸ h, fun e => nomatch e⟩
theorem okKv_error {f : KvFail} (h : f.s.memOk) : OkKv P (.error f) := ⟨fun e => (nomatch e), fun e => Except.error.inj e ▸ h⟩

theorem okKv_mapError {x : Except ε α} {f : ε → KvFail} (h : OkExcept P x) (hf : ∀ e, (f e).s.memOk) : OkKv P (x.mapError f) := by
  cases x with
  | error e => exact okKv_error (hf e)
  | ok b => exact okKv (h.out rfl)

theorem okOption_map {β : Type} {x : Option β} {f : β → α} (h : ∀ b, P (f b)) : OkOption P (x.map f) := by
  cases x with
  | none => exact okOption_none
  | some b => exact okOption (h b)

theorem okOption_findSome {β : Type} {l : List β} {f : β → Option α} (h : ∀ b, OkOption P (f b)) : OkOption P (l.findSome? f) :=
  ⟨fun e => by obtain ⟨b, -, hb⟩ := List.exists_of_findSome?_eq_some e; exact (h b).out hb⟩

theorem okOption_getD {x : Option α} (h : OkOption P x) (ha : P a) : P (x.getD a) := by
  cases x with
  | none => exact ha
  | some b => exact h.out rfl

theorem okExcept_bind {β : Type} {Q : β → Prop} {x : Except ε β} {f : β → Except ε α} (h : OkExcept Q x)
    (hf : ∀ b, Q b → OkExcept P (f b)) : OkExcept P (x >>= f) := by
  cases x with
  | error e => exact okExcept_error
  | ok b => exact hf b (h.out rfl)

end

theorem okNext (h : s.memOk) : OkNext (.next s) := ⟨fun e => Host.Outcome.next.inj e ▸ h⟩
theorem okTaken_over (h : s.memOk) : OkTaken (.over s) := h
theorem okTaken_run {i : Instr} (h : s.memOk) : OkTaken (.run i s) := h

section
variable {ws : List RegWrite} {out : List Out} {bad : Option DWord} {va : DWord} {key : Nat} {home : Bool} {x : XErr} {w : Wait}

theorem okLane (h : s.memOk) : OkLane (.ok s ws out bad) := h
theorem okLane_load (h : s.memOk) : OkLane (.load s va key home) := h
theorem okLane_of_ok {x : LaneRes} (e : x = .ok s ws out bad) (h : OkLane x) : s.memOk := by rw [e] at h; exact h
theorem okLane_of_load {x : LaneRes} (e : x = .load s va key home) (h : OkLane x) : s.memOk := by rw [e] at h; exact h
theorem okLane_err : OkLane (.err x) := trivial
theorem okLane_errAt : OkLane (.errAt x va) := trivial
theorem okLane_hold : OkLane (.hold w) := trivial

end

theorem okTaken_of_over {x : Taken} (e : x = .over s) (h : OkTaken x) : s.memOk := by rw [e] at h; exact h
theorem okTaken_of_run {x : Taken} {i : Instr} (e : x = .run i s) (h : OkTaken x) : s.memOk := by rw [e] at h; exact h

theorem okRunOut_ran {fin : Bool} (h : s.memOk) : OkRunOut (.ran s fin) := h
theorem okRunOut_bad {dests : List (Place × Nat)} (h : s.memOk) : OkRunOut (.bad s dests) := h
theorem okRunOut_of_ran {x : RunOut} {fin : Bool} (e : x = .ran s fin) (h : OkRunOut x) : s.memOk := by rw [e] at h; exact h
theorem okRunOut_of_bad {x : RunOut} {dests : List (Place × Nat)} (e : x = .bad s dests) (h : OkRunOut x) : s.memOk := by
  rw [e] at h; exact h
theorem okRunOut_held {e : EngErr} {dests : List (Place × Nat)} : OkRunOut (.held e dests) := trivial

theorem okNext_refused {r : Refusal} : OkNext (.refused r) := ⟨fun e => nomatch e⟩
theorem okNext_issued {k : PathRef → State} (h : ∀ r, (k r).memOk) : OkNext (issued s k) := ⟨issued_memOk h⟩

theorem okNext_issued_of {k : PathRef → State} (h : ∀ r, OkState (k r)) : OkNext (issued s k) := okNext_issued fun r => (h r).ok

theorem State.csrPut_memOk (h : s.memOk) (addr unit : Nat) (v : DWord) : (s.csrPut addr unit v).memOk :=
  memOk_of_mem (State.csrPut_mem ..) h

theorem State.advance_memOk (h : s.memOk) (r : PathRef) (n : Nat) : (s.advance r n).memOk := memOk_of_mem (State.advance_mem ..) h

theorem State.startPend_memOk (h : s.memOk) (r : PathRef) (n : Nat) (ws : List RegWrite) (p : Option PoisonNote) (held : Bool)
    (loads : Option LoadSet) (k : Nat) (memory : Bool) (sc : Option Scope) :
    (s.startPend r n ws p held loads k memory sc).memOk :=
  memOk_of_mem (State.startPend_mem ..) h

end Sys2Proof.Machine
end

section
/-! SUPPORT. The shared operations keep memory in its canonical form: caches and the log, packets that are sent, the end of
a path, the clock, versions, loads that bind, and the lanes of an access. -/

namespace Sys2Proof.Machine

variable {s : State}

/-! ### Caches, the log, and packets that are sent -/

theorem State.setDie_memOk (h : s.memOk) (d : Bool) (x : Die) : (s.setDie d x).memOk := by
  rw [State.setDie]
  split <;> exact h

theorem State.failOwn_memOk (h : s.memOk) (o : OwnLine) : (s.failOwn o).memOk := by
  unfold State.failOwn
  extract_lets +onlyGivenNames s
  have h1 : s.memOk := by
    unfold s
    refine State.logError_memOk _ _ ?_ ..
    exact memOk_of_mem (State.poisonFlake_mem ..) h
  clear_value s
  exact foldl_keeps State.memOk _ _ _ (fun s x h2 => (calm_noteFailed ..).ok h2) h1

theorem State.illegal_memOk (h : s.memOk) (r : PathRef) : (s.illegal r).memOk := by
  rw [State.illegal]
  exact State.takeStop_memOk h ..

theorem State.payOwed_memOk (h : s.memOk) : s.payOwed.memOk := by
  rw [State.payOwed]
  split
  · exact h
  · refine foldl_keeps State.memOk _ _ _ (fun s u h1 => State.writeBack_memOk _ h1 ..) ?_
    exact h

theorem State.postAll_memOk (h : s.memOk) (key : BitVec 32) (dsts : List Nat) (dom : Nat) (body : PBody) :
    (s.postAll key dsts dom body).memOk := by
  rw [State.postAll]
  refine foldl_keeps State.memOk _ _ _ ?_ h
  exact fun s d h1 => h1

theorem State.movePorts_memOk (h : s.memOk) (gone : Word) : (s.movePorts gone).memOk := by
  unfold State.movePorts
  extract_lets -underBinder +onlyGivenNames away s
  have h1 : s.memOk := by
    unfold s
    refine foldl_keeps State.memOk _ _ _ (fun s q h1 => ?_) h
    split
    · exact h1
    · extract_lets +onlyGivenNames port
      exact h1
  clear_value s
  refine foldl_keeps State.memOk _ _ _ (fun s q h2 => ?_) h1
  split
  · exact h2
  · extract_lets +onlyGivenNames port
    exact h2

theorem State.sendWaiting_memOk (h : s.memOk) : s.sendWaiting.memOk := by
  unfold State.sendWaiting
  split
  · exact h
  · extract_lets -underBinder +onlyGivenNames s
    have h1 : s.memOk := by
      unfold s
      refine foldl_keeps State.memOk _ _ _ (fun s q h1 => ?_) h
      split
      · exact h1
      · extract_lets +onlyGivenNames port
        exact h1
    clear_value s
    refine foldl_keeps State.memOk _ _ _ (fun s q h2 => ?_) h1
    split
    · exact h2
    · extract_lets +onlyGivenNames port
      exact h2

theorem State.dropPacket_memOk (h : s.memOk) (port : Nat) (key : BitVec 32) : (s.dropPacket port key).memOk := by
  unfold State.dropPacket
  extract_lets +onlyGivenNames s' tag
  have h1 : s'.memOk := h
  clear_value s'
  split
  · exact h1
  · refine State.logEvent_memOk _ _ _ ?_ ..
    exact h1

theorem State.onMsg_memOk (h : s.memOk) (via : Via) (act : State → Option State) (acts : OkOption State.memOk (act s)) :
    (s.onMsg via act).memOk := by
  rw [State.onMsg]
  split
  · exact h
  · split
    · exact State.dropPacket_memOk h ..
    · split
      · exact h
      · split
        · exact h
        next t e =>
          have done : t.memOk := acts.out e
          exact done

/-! ### Operands, the end of a path, the clock -/

theorem State.mapLanes_memOk (h : s.memOk) (r : PathRef) (f : Team → Nat → List RegWrite × BitVec 7) : (s.mapLanes r f).memOk := by
  unfold State.mapLanes
  extract_lets +onlyGivenNames t rs
  exact memOk_of_mem (State.addStatus_mem ..) (memOk_of_mem (State.regWrites_mem ..) h)

theorem State.elementwise_memOk (h : s.memOk) (r : PathRef) (ok : ElemType → Bool) (d : VReg) (srcs : List VReg) (words : Nat)
    (f : Team → Nat → Nat → Nat × BitVec 7) : (s.elementwise r ok d srcs words f).memOk := by
  unfold State.elementwise
  extract_lets +onlyGivenNames ty
  exact State.legalIf_memOk h _ _ _ (memOk_of_mem (State.advance_mem ..) (State.mapLanes_memOk h ..))

theorem State.barArrive_memOk (h : s.memOk) (r : PathRef) (sc : BarScope) (id : BitVec 2) : (s.barArrive r sc id).memOk := by
  unfold State.barArrive
  extract_lets +onlyGivenNames s t n at'
  have h1 : s.memOk := by
    unfold s
    split
    · exact h
    · exact h
  clear_value s
  split
  · extract_lets +onlyGivenNames s
    have h2 : s.memOk := h1
    clear_value s
    exact (calm_barSweep ..).ok h2
  · exact h1

theorem State.barAfterEnd_memOk (h : s.memOk) (tok : Nat) : (s.barAfterEnd tok).memOk := by
  unfold State.barAfterEnd
  extract_lets +onlyGivenNames t
  refine foldl_keeps State.memOk _ _ _ (fun s b h1 => ?_) h
  split
  · split
    · exact State.barArrive_memOk h1 ..
    · exact h1
  · exact h1

theorem State.graceRequest_memOk (h : s.memOk) (c : Nat) : (s.graceRequest c).1.memOk := by
  unfold State.graceRequest
  extract_lets +onlyGivenNames g
  split <;> exact h

theorem OnlyTime.mem {t : State} (h : OnlyTime s t) : t.mem = s.mem := by rw [h]

theorem onlyTime_passParts (s : State) (n : Nat) : OnlyTime s (s.passParts n) := rfl

theorem State.passParts_memOk (h : s.memOk) (n : Nat) : (s.passParts n).memOk := memOk_of_mem (onlyTime_passParts s n).mem h

theorem State.pass_memOk (h : s.memOk) (n : Nat) : (s.pass n).memOk := State.passParts_memOk h ..

theorem State.passTo_memOk (h : s.memOk) (n : Nat) : (s.passTo n).memOk := State.passParts_memOk h ..

theorem State.passSlewed_memOk (h : s.memOk) (parts : Nat) : (s.passSlewed parts).memOk := by
  have passed := State.passParts_memOk h parts
  rw [State.passSlewed]
  generalize s.passParts parts = u at passed
  split
  · exact passed
  · split <;> exact passed

theorem State.tick_memOk (h : s.memOk) : s.tick.memOk := by
  unfold State.tick
  extract_lets +onlyGivenNames s'
  have h1 : s'.memOk := State.passSlewed_memOk h ..
  clear_value s'
  exact h1

/-! ### Versions and loads -/

theorem State.commitOne_memOk (h : s.memOk) (d v : Nat) : (s.commitOne d v).memOk := by
  unfold State.commitOne
  extract_lets -underBinder +onlyGivenNames mine keys whole s re key path team x
  have h1 : s.memOk := by
    unfold s
    refine foldl_keeps State.memOk _ _ _ (fun s x h1 => ?_) h
    split
    · split
      · exact State.putByte_memOk _ h1 ..
      · exact h1
    · exact h1
  have h2 : x.memOk := h1
  clear_value s x
  exact h2

theorem State.applyResolve_memOk (h : s.memOk) (d : Nat) (committed squashed : List Nat) :
    (s.applyResolve d committed squashed).memOk := by
  unfold State.applyResolve
  extract_lets +onlyGivenNames s s1
  have h1 : s.memOk := (calm_squash ..).ok h
  have h2 : s1.memOk := foldl_keeps State.memOk _ _ _ (fun s v h2 => State.commitOne_memOk h2 ..) h1
  clear_value s s1
  exact h2

theorem State.drain_memOk (h : s.memOk) (r : PathRef) (k n : Nat) : (s.drain r k n).memOk := by
  rw [State.drain]
  exact (calm_drainIf ..).ok h

theorem State.drainSync_memOk (h : s.memOk) (r : PathRef) : (s.drainSync r).memOk := by
  rw [State.drainSync]
  exact (calm_drainIf ..).ok h

theorem execHomeAcknowledgement_memOk (h : s.memOk) (n : Nat) : OkNext (execHomeAcknowledgement n s) := by
  rw [execHomeAcknowledgement]
  split
  · exact okNext h
  · exact okNext ((calm_drainIf ..).ok h)

theorem LoadSet.bindLane_memOk (l : LoadSet) (r : PathRef) (x : Bound) (e : Nat × DWord × Nat × Bool) (hx : x.s.memOk) :
    (l.bindLane r x e).s.memOk := by
  unfold LoadSet.bindLane
  extract_lets +onlyGivenNames y
  have h1 : y.1.memOk := (calm_bindBytes ..).ok hx
  clear_value y
  split <;> exact h1

theorem LoadSet.bind_memOk (h : s.memOk) (l : LoadSet) (r : PathRef) : (l.bind s r).s.memOk := by
  rw [LoadSet.bind]
  refine foldl_keeps (fun x : Bound => x.s.memOk) _ _ _ (fun x e h1 => LoadSet.bindLane_memOk _ _ _ _ h1) ?_
  exact h

theorem State.bindAll_memOk (h : s.memOk) (r : PathRef) : (s.bindAll r).memOk := by
  rw [State.bindAll]
  exact (calm_bindIf ..).ok h

theorem State.bindMeet_memOk (h : s.memOk) (r : PathRef) (k n : Nat) : (s.bindMeet r k n).memOk := by
  rw [State.bindMeet]
  exact (calm_bindIf ..).ok h

/-! ### Stores -/

theorem State.homeSync_memOk (h : s.memOk) (core : Nat) (home : Bool) (k n : Nat) : (s.homeSync core home k n).memOk := by
  rw [State.homeSync]
  split
  · exact State.purge_memOk _ h ..
  · exact h

theorem State.storeCopy_memOk (h : s.memOk) (r : PathRef) (k va : Nat) (bs : List Byte) (toRdc : Bool) :
    (s.storeCopy r k va bs toRdc).memOk := by
  unfold State.storeCopy
  extract_lets -underBinder +onlyGivenNames core rdc hit s s1 unit s2 word s3 s4
  have h1 : s.memOk := State.drain_memOk h ..
  have h2 : s1.memOk := by
    unfold s1
    split
    · exact (calm_dropCopies ..).ok (State.l1ToRdc_memOk _ h1 ..)
    · exact h1
  have h3 : s2.memOk := (calm_checkCopy ..).ok h2
  have h4 : s3.memOk := by
    unfold s3
    split
    · exact h3
    · exact (calm_fillLoad ..).ok h3
  have h5 : s4.memOk := by
    unfold s4
    refine foldl_keeps State.memOk _ _ _ (fun s x h5 => ?_) h4
    extract_lets +onlyGivenNames old
    exact h5
  clear_value s s1 s2 s3 s4
  refine (calm_evictFor ..).ok ?_
  exact h5

theorem State.send_memOk (h : s.memOk) (r : PathRef) (home : Bool) (k va : Nat) (op : HomeOp) (poison : Bool) (trip : Trip) :
    (s.send r home k va op poison trip).memOk := h

theorem State.store_memOk (h : s.memOk) (r : PathRef) (lvl : Nat) (bypass : Bool) (trip : Trip) (x : Out) :
    (s.store r lvl bypass trip x).memOk := by
  unfold State.store
  extract_lets +onlyGivenNames core trip
  split
  · extract_lets +onlyGivenNames lvl
    split
    · exact State.send_memOk (State.homeSync_memOk h ..) ..
    · extract_lets +onlyGivenNames held
      exact State.storeCopy_memOk h ..
  · exact h

theorem State.storeAll_memOk (h : s.memOk) (r : PathRef) (lvl : Nat) (bypass : Bool) (l : List Out) (trip : Trip) :
    (s.storeAll r lvl bypass l trip).memOk := by
  unfold State.storeAll
  extract_lets +onlyGivenNames t
  have h1 : t.memOk := by
    unfold t
    split
    · split
      · exact h
      · exact State.releaseCore_memOk _ h ..
    · exact h
  clear_value t
  exact foldl_keeps State.memOk _ _ _ (fun t x h2 => State.store_memOk h2 ..) h1

theorem State.firnStore_memOk (h : s.memOk) (e : FirnEntry) : OkOption State.memOk (s.firnStore e) := by
  unfold State.firnStore
  extract_lets +onlyGivenNames same count log
  split
  · exact okOption h
  · split
    · exact okOption h
    · split
      · exact okOption h
      · exact okOption_none

/-! ### The lanes of an access -/

theorem Sweep.miss_memOk (x : Sweep) (a : DWord) (hx : x.s.memOk) : (x.miss a).s.memOk := by
  rw [Sweep.miss]
  exact hx

theorem Sweep.fail_memOk (x : Sweep) (l : Nat) (a va : DWord) (e : XErr) (hx : x.s.memOk) : (x.fail l a va e).s.memOk := by
  unfold Sweep.fail
  split
  · extract_lets +onlyGivenNames x
    have h1 : x.s.memOk := Sweep.miss_memOk _ _ hx
    clear_value x
    exact h1
  · split
    · exact Sweep.miss_memOk _ _ hx
    · extract_lets +onlyGivenNames x
      have h1 : x.s.memOk := Sweep.miss_memOk _ _ hx
      clear_value x
      exact h1

theorem Sweep.lane_memOk (r : PathRef) (n : Nat) (ea : Nat → DWord) (f : State → Nat → DWord → LaneRes) (x : Sweep) (l : Nat)
    (hf : ∀ (a : State), a.memOk → ∀ (a_1 : Nat) (a_2 : DWord), OkLane (f a a_1 a_2)) (hx : x.s.memOk) :
    (Sweep.lane r n ea f x l).s.memOk := by
  unfold Sweep.lane
  extract_lets +onlyGivenNames a
  split
  · exact hx
  · split
    · exact Sweep.miss_memOk _ _ hx
    · split
      next s ws out bad e2 =>
        have ok2 : s.memOk := okLane_of_ok e2 (hf _ hx ..)
        exact ok2
      next s va key home e2 =>
        have ok2 : s.memOk := okLane_of_load e2 (hf _ hx ..)
        exact ok2
      · exact Sweep.fail_memOk _ _ _ _ _ hx
      · exact Sweep.fail_memOk _ _ _ _ _ hx
      · split
        · exact Sweep.miss_memOk _ _ hx
        · extract_lets +onlyGivenNames x
          have h2 : x.s.memOk := Sweep.miss_memOk _ _ hx
          clear_value x
          exact h2

theorem Sweep.pass_memOk (r : PathRef) (n : Nat) (ea : Nat → DWord) (f : State → Nat → DWord → LaneRes) (free : Nat) (x : Sweep)
    (lanes : List Nat) (hf : ∀ (a : State), a.memOk → ∀ (a_1 : Nat) (a_2 : DWord), OkLane (f a a_1 a_2)) (hx : x.s.memOk) :
    (Sweep.pass r n ea f free x lanes).s.memOk := by
  unfold Sweep.pass
  extract_lets +onlyGivenNames todo need
  split
  · refine foldl_keeps (fun x : Sweep => x.s.memOk) _ _ _ (fun x l h2 => Sweep.lane_memOk _ _ _ _ _ _ hf h2) ?_
    exact hx
  · split
    · exact foldl_keeps (fun x : Sweep => x.s.memOk) _ _ _ (fun x l h2 => Sweep.miss_memOk _ _ h2) hx
    · exact hx

theorem State.sweep_memOk (h : s.memOk) (r : PathRef) (n : Nat) (ea : Nat → DWord) (f : State → Nat → DWord → LaneRes)
    (hf : ∀ (a : State), a.memOk → ∀ (a_1 : Nat) (a_2 : DWord), OkLane (f a a_1 a_2)) : (s.sweep r n ea f).s.memOk := by
  rw [State.sweep]
  refine foldl_keeps (fun x : Sweep => x.s.memOk) _ _ _ (fun x l h2 => Sweep.lane_memOk _ _ _ _ _ _ hf h2) ?_
  exact h

theorem State.sweepMem_memOk (h : s.memOk) (r : PathRef) (n : Nat) (ea : Nat → DWord) (f : State → Nat → DWord → LaneRes)
    (hf : ∀ (a : State), a.memOk → ∀ (a_1 : Nat) (a_2 : DWord), OkLane (f a a_1 a_2)) : (s.sweepMem r n ea f).s.memOk := by
  rw [State.sweepMem]
  refine foldl_keeps (fun x : Sweep => x.s.memOk) _ _ _ (fun x lanes h2 => Sweep.pass_memOk _ _ _ _ _ _ _ hf h2) ?_
  exact h

/-! ### The end of an instruction that went through lanes -/

theorem Sweep.finish_memOk (x : Sweep) (r : PathRef) (detail lvl : Nat) (bypass : Bool)
    (k : State → Mask → List RegWrite → Option (Nat × DWord) → State) (trip : Trip) (hx : x.s.memOk)
    (hk : ∀ (a : State), a.memOk → ∀ (a_1 : Mask) (a_2 : List RegWrite) (a_3 : Option (Nat × DWord)), (k a a_1 a_2 a_3).memOk) :
    (x.finish r detail lvl bypass k trip).memOk := by
  unfold Sweep.finish
  split
  · exact hx
  · extract_lets +onlyGivenNames s part
    have h2 : s.memOk := State.storeAll_memOk hx ..
    have h3 : ∀ (x : Unit), (part x).memOk := fun x => (calm_modPath ..).ok (memOk_of_mem (State.regWrites_mem ..) h2)
    clear_value s part
    split
    · exact State.xerr_memOk _ _ (h3 ..) ..
    · exact memOk_of_mem (State.waitFor_mem ..) (h3 ..)
    · exact hk _ h2 ..

theorem Sweep.finishLong_memOk (x : Sweep) (r : PathRef) (flag detail lvl : Nat) (bypass : Bool) (vregs lanes : List Nat)
    (loads : Option LoadSet) (trip : Trip) (hx : x.s.memOk) : (x.finishLong r flag detail lvl bypass vregs lanes loads trip).memOk := by
  rw [Sweep.finishLong]
  refine Sweep.finish_memOk _ _ _ _ _ _ _ hx ?_
  intro a h1 a a a
  split <;> exact h1

theorem Sweep.finishLoad_memOk (x : Sweep) (r : PathRef) (flag : Nat) (l : LoadSet) (lanes : List Nat) (hx : x.s.memOk) :
    (x.finishLoad r flag l lanes).memOk := by
  unfold Sweep.finishLoad
  split
  · exact Sweep.finishLong_memOk _ _ _ _ _ _ _ _ _ _ hx
  · split
    · split
      · refine Sweep.finishLong_memOk _ _ _ _ _ _ _ _ _ _ ?_
        exact hx
      · extract_lets +onlyGivenNames b
        have h1 : b.s.memOk := LoadSet.bind_memOk hx ..
        clear_value b
        refine Sweep.finishLong_memOk _ _ _ _ _ _ _ _ _ _ ?_
        exact h1
    · exact Sweep.finishLong_memOk _ _ _ _ _ _ _ _ _ _ hx

theorem Sweep.finishShort_memOk (x : Sweep) (r : PathRef) (detail lvl : Nat) (bypass : Bool) (trip : Trip) (hx : x.s.memOk) :
    (x.finishShort r detail lvl bypass trip).memOk := by
  rw [Sweep.finishShort]
  refine Sweep.finish_memOk _ _ _ _ _ _ _ hx ?_
  exact fun a h1 a a a => h1

/-! ### One lane -/

theorem State.readHome_memOk (h : s.memOk) (k n : Nat) (va : DWord) (w : Nat → List RegWrite) : OkLane (s.readHome k n va w) := by
  rw [State.readHome]
  split <;> exact okLane h

theorem State.loadLane_memOk (h : s.memOk) (r : PathRef) (n : Nat) (acq bypass : Bool) (va : DWord) (w : Nat → List RegWrite)
    (lane : Nat) :
    OkLane (s.loadLane r n acq bypass va w lane) := by
  unfold State.loadLane
  split
  · exact okLane_err
  · split
    · exact okLane_hold
    · extract_lets +onlyGivenNames s
      have h1 : s.memOk := State.bindMeet_memOk h ..
      clear_value s
      split
      · split
        · exact okLane_err
        · exact okLane h1
      · split
        · exact okLane_hold
        · exact State.readHome_memOk h1 ..
      · split
        · exact State.readHome_memOk (State.homeSync_memOk (State.drain_memOk h1 ..) ..) ..
        · exact okLane_err
      · split
        · exact okLane_load h1
        · extract_lets +onlyGivenNames b
          have h2 : b.1.memOk := (calm_bindBytes ..).ok h1
          clear_value b
          split <;> exact okLane h2
      · split
        · exact okLane_load h1
        · extract_lets +onlyGivenNames b
          have h2 : b.1.memOk := (calm_bindBytes ..).ok h1
          clear_value b
          split <;> exact okLane h2

theorem State.storeLane_memOk (h : s.memOk) (r : PathRef) (n v : Nat) (va : DWord) (bad : Bool) (lane : Nat) :
    OkLane (s.storeLane r n v va bad lane) := by
  unfold State.storeLane
  split
  · exact okLane_err
  · extract_lets +onlyGivenNames spec out
    have h1 : ∀ (x : Unit), OkLane (out x) := by
      intro x
      unfold out
      split
      · exact okLane_hold
      · exact okLane (State.bindMeet_memOk h ..)
    clear_value out
    split
    · exact h1 ..
    · split
      · exact okLane_err
      · exact h1 ..
    · split
      · exact okLane_err
      · split
        · exact okLane_err
        · exact h1 ..
    · split
      · exact okLane_err
      · split
        · exact okLane_err
        · split
          · exact okLane_err
          next s e2 =>
            have ok2 : s.memOk := OkOption.out (State.firnStore_memOk h ..) e2
            exact okLane ok2
    · exact okLane_err

theorem State.rmwLane_memOk (h : s.memOk) (r : PathRef) (n : Nat) (va : DWord) (f : Nat → Option Nat) (k : Nat → List RegWrite)
    (lane : Nat) : OkLane (s.rmwLane r n va f k lane) := by
  unfold State.rmwLane
  split
  · exact okLane_err
  · extract_lets -underBinder +onlyGivenNames spec act
    have h1 : ∀ (x : Unit), OkLane (act x) := by
      intro x
      unfold act
      split
      · exact okLane_hold
      · extract_lets +onlyGivenNames s s1
        have h1 : s.memOk := (calm_fillHost ..).ok (State.drain_memOk (State.drainSync_memOk (State.bindMeet_memOk h ..) ..) ..)
        have h2 : s1.memOk := by
          unfold s1
          split
          · exact (calm_useSpans ..).ok h1
          · exact State.homeSync_memOk h1 ..
        clear_value s s1
        split
        · exact okLane h2
        · extract_lets +onlyGivenNames old
          split
          · exact okLane h2
          · exact okLane ((calm_displace ..).ok (State.writeFor_memOk _ _ h2 ..))
    clear_value act
    split
    · exact h1 ..
    · split
      · exact okLane_err
      · exact h1 ..
    · split
      · exact okLane_err
      · exact h1 ..
    · split
      · exact okLane_err
      · split
        · exact okLane_err
        · exact h1 ..
    · exact okLane_err

theorem State.atmLane_memOk (h : s.memOk) (r : PathRef) (op : AtomOp) (n v : Nat) (acq : Bool) (pass : Nat) (va : DWord) (lane : Nat) :
    OkLane (s.atmLane r op n v acq pass va lane) := by
  unfold State.atmLane
  split
  · exact okLane_err
  next x t _ =>
    split
    · have done := State.rmwLane_memOk h r n va (fun old => some (atomNew op (8 * n) old v)) (fun _ => []) lane
      split
      next s _ _ _ e =>
        have ok : s.memOk := okLane_of_ok e done
        refine okLane ?_
        split
        · exact (calm_noteFailed ..).ok ok
        · exact ok
      · exact done
    · split
      · exact okLane_err
      · split
        · exact okLane_err
        · split
          · exact okLane_hold
          · extract_lets s u
            have waited : s.memOk := (calm_fillHost ..).ok (State.drain_memOk (State.bindMeet_memOk h ..) ..)
            have synced : u.memOk := by
              unfold u
              split
              · exact State.homeSync_memOk waited ..
              · exact waited
            exact okLane synced

end Sys2Proof.Machine
end

section
/-! SUPPORT. Accesses to memory and to the scratchpad, the fetch of an instruction, and the scalar and integer instructions keep
memory in its canonical form. -/

namespace Sys2Proof.Machine

variable {s : State}

/-! ### Global accesses -/

theorem State.acquire_memOk (h : s.memOk) (r : PathRef) (acq fence : Bool) (sc : Scope) (k : State → State)
    (hk : ∀ (a : State), a.memOk → (k a).memOk) : (s.acquire r acq fence sc k).memOk := by
  unfold State.acquire
  split
  · exact hk _ h
  · split
    · exact h
    · extract_lets +onlyGivenNames s
      have h2 : s.memOk := by
        unfold s
        split
        · exact State.bindAll_memOk (State.drainSync_memOk h ..) ..
        · exact State.drainSync_memOk h ..
      clear_value s
      split
      · exact hk _ (State.acquireAct_memOk h2 ..)
      · exact h2

theorem State.globalLoad_memOk (h : s.memOk) (r : PathRef) (d : Byte) (a : MAddr) (m : MDesc) (acq fence : Bool) :
    (s.globalLoad r d a m acq fence).memOk := by
  unfold State.globalLoad
  refine State.legalIf_memOk h _ _ _ ?_
  refine State.withSlot_memOk h _ _ ?_
  intro i
  extract_lets +onlyGivenNames n lanes vregs
  refine State.acquire_memOk h _ _ _ _ _ ?_
  intro a h1
  extract_lets +onlyGivenNames x
  have h2 : x.s.memOk := State.sweepMem_memOk h1 _ _ _ _ (fun a h2 a_1 a_2 => State.loadLane_memOk h2 ..)
  clear_value x
  exact Sweep.finishLoad_memOk _ _ _ _ _ h2

theorem State.globalStore_memOk (h : s.memOk) (r : PathRef) (d : Byte) (a : MAddr) (m : MDesc) (rel fence : Bool) :
    (s.globalStore r d a m rel fence).memOk := by
  unfold State.globalStore
  refine State.legalIf_memOk h _ _ _ ?_
  split
  · exact h
  · refine State.releaseIf_memOk h _ _ _ _ ?_
    intro t h1
    extract_lets +onlyGivenNames n s
    have h2 : s.memOk := by
      unfold s
      split
      · exact h1
      · exact h1
    clear_value s
    exact Sweep.finishShort_memOk _ _ _ _ _ _ (State.sweepMem_memOk h2 _ _ _ _ (fun a h3 a_1 a_2 => State.storeLane_memOk h3 ..))

theorem execLdg_memOk (h : s.memOk) (d : Byte) (a : MAddr) (m : MDesc) : OkNext (execLdg d a m s) := by
  rw [execLdg]
  exact okNext_issued (fun r => State.globalLoad_memOk h ..)

theorem execStg_memOk (h : s.memOk) (d : Byte) (a : MAddr) (m : MDesc) : OkNext (execStg d a m s) := by
  rw [execStg]
  exact okNext_issued (fun r => State.globalStore_memOk h ..)

theorem execLdacq_memOk (h : s.memOk) (d : Byte) (a : MAddr) (m : MDesc) : OkNext (execLdacq d a m s) := by
  rw [execLdacq]
  exact okNext_issued (fun r => State.globalLoad_memOk h ..)

theorem execStrel_memOk (h : s.memOk) (d : Byte) (a : MAddr) (m : MDesc) : OkNext (execStrel d a m s) := by
  rw [execStrel]
  exact okNext_issued (fun r => State.globalStore_memOk h ..)

theorem State.prefetch_memOk (h : s.memOk) (r : PathRef) (n : Nat) (bypass : Bool) (va : DWord) : (s.prefetch r n bypass va).memOk := by
  unfold State.prefetch
  split
  · exact h
  · split
    · exact h
    · refine foldl_keeps State.memOk _ _ _ (fun s x h1 => ?_) h
      extract_lets +onlyGivenNames t
      have h2 : t.memOk := by
        unfold t
        refine (calm_fillLoad ..).ok ?_
        exact h1
      clear_value t
      split
      · exact (calm_evictFor ..).ok h2
      · exact h2

theorem execPfg_memOk (h : s.memOk) (a : MAddr) (m : MDesc) : OkNext (execPfg a m s) := by
  rw [execPfg]
  exact okNext_issued (fun r => State.legalIf_memOk h _ _ _ (Sweep.finishShort_memOk _ _ _ _ _ _ (State.sweepMem_memOk h _ _ _ _
    (fun a h1 a_1 a_2 => okLane (State.prefetch_memOk h1 ..)))))

theorem State.maintain_memOk (h : s.memOk) (r : PathRef) (inv : Bool) (sc : Scope) (hit : Nat → Bool) :
    (s.maintain r inv sc hit).memOk := by
  unfold State.maintain
  extract_lets +onlyGivenNames core
  split
  · split
    · exact State.purge_memOk _ h ..
    · exact State.flushHome_memOk _ h ..
  · extract_lets +onlyGivenNames s
    have h1 : s.memOk := State.l1ToRdc_memOk _ h ..
    clear_value s
    split
    · exact h1
    · exact h1

theorem State.maintainLane_memOk (h : s.memOk) (r : PathRef) (inv span : Bool) (sc : Scope) (va : DWord) (lane : Nat) :
    OkLane (s.maintainLane r inv span sc va lane) := by
  unfold State.maintainLane
  split
  · exact okLane_err
  · split
    · exact okLane_err
    · extract_lets +onlyGivenNames size first
      split
      · exact okLane_hold
      · extract_lets +onlyGivenNames s s1
        have h1 : s.memOk := by
          unfold s
          split
          · exact State.drain_memOk h ..
          · exact h
        have h2 : s1.memOk := State.maintain_memOk h1 ..
        clear_value s s1
        refine okLane ?_
        split
        · exact h2
        · exact h2

theorem State.maintainAll_memOk (h : s.memOk) (r : PathRef) (inv : Bool) (a : MAddr) (m : MDesc) : (s.maintainAll r inv a m).memOk := by
  rw [State.maintainAll]
  exact State.legalIf_memOk h _ _ _ (Sweep.finishShort_memOk _ _ _ _ _ _ (State.sweep_memOk h _ _ _ _
    (fun a h1 a_1 a_2 => State.maintainLane_memOk h1 ..)))

theorem execCwb_memOk (h : s.memOk) (a : MAddr) (m : MDesc) : OkNext (execCwb a m s) := by
  rw [execCwb]
  exact okNext_issued (fun r => State.maintainAll_memOk h ..)

theorem execCinv_memOk (h : s.memOk) (a : MAddr) (m : MDesc) : OkNext (execCinv a m s) := by
  rw [execCinv]
  exact okNext_issued (fun r => State.maintainAll_memOk h ..)

theorem State.windowByte_memOk (h : s.memOk) (r : PathRef) (t : Target) (x : Xlat) : (s.windowByte r t x).1.memOk := by
  unfold State.windowByte
  split
  any_goals exact h
  · extract_lets +onlyGivenNames b
    have h1 : b.1.memOk := (calm_bindBytes ..).ok h
    clear_value b
    exact h1
  · extract_lets +onlyGivenNames b
    have h1 : b.1.memOk := (calm_bindBytes ..).ok h
    clear_value b
    exact h1

theorem State.windowLane_memOk (h : s.memOk) (r : PathRef) (n : Nat) (va : DWord) (k : Nat → List RegWrite) (lane : Nat) :
    OkLane (s.windowLane r n va k lane) := by
  unfold State.windowLane
  split
  · exact okLane_err
  · extract_lets +onlyGivenNames ts
    split
    · exact okLane_err
    · split
      · exact okLane_hold
      · split
        · exact okLane_hold
        · extract_lets -underBinder +onlyGivenNames s y
          have h1 : s.memOk := foldl_keeps State.memOk _ _ _ (fun s x h1 => State.bindMeet_memOk h1 ..) h
          have h2 : y.1.memOk := by
            unfold y
            refine foldl_keeps (fun x : State × List Byte × Bool => x.1.memOk) _ _ _ (fun y x h2 => ?_) h1
            extract_lets +onlyGivenNames b
            have h3 : b.1.memOk := State.windowByte_memOk h2 ..
            clear_value b
            exact h3
          clear_value s y
          split <;> exact okLane h2

theorem execLdp_memOk (h : s.memOk) (d : Byte) (a : MAddr) (m : MDesc) : OkNext (execLdp d a m s) := by
  unfold execLdp
  refine okNext_issued ?_
  intro r
  refine State.legalIf_memOk h _ _ _ ?_
  refine State.withSlot_memOk h _ _ ?_
  intro i
  extract_lets +onlyGivenNames n lanes w o
  refine Sweep.finishLong_memOk _ _ _ _ _ _ _ _ _ _ ?_
  refine State.sweepMem_memOk h _ _ _ _ ?_
  intro a h1 a_1 a_2
  extract_lets +onlyGivenNames k
  split
  · exact State.windowLane_memOk h1 ..
  · exact okLane h1

theorem execAtm_memOk (h : s.memOk) (d : Byte) (a : MAddr) (m : MDesc) : OkNext (execAtm d a m s) := by
  unfold execAtm
  refine okNext_issued ?_
  intro r
  refine State.legalIf_memOk h _ _ _ ?_
  split
  · exact State.illegal_memOk h ..
  · split
    · exact h
    · extract_lets +onlyGivenNames sc
      refine State.releaseIf_memOk h _ _ _ _ ?_
      intro t h1
      refine State.acquire_memOk h1 _ _ _ _ _ ?_
      intro a h2
      extract_lets +onlyGivenNames n base
      exact Sweep.finishShort_memOk _ _ _ _ _ _ (State.sweepMem_memOk h2 _ _ _ _ (fun a h3 a_1 a_2 => State.atmLane_memOk h3 ..))

theorem State.rmwAll_memOk (h : s.memOk) (r : PathRef) (a : MAddr) (m : MDesc) (vregs : List Nat) (f : Nat → Nat → Option Nat)
    (k : Nat → Nat → List RegWrite) : (s.rmwAll r a m vregs f k).memOk := by
  unfold State.rmwAll
  refine State.withSlot_memOk h _ _ ?_
  intro i
  extract_lets +onlyGivenNames lanes
  split
  · exact h
  · extract_lets +onlyGivenNames sc
    exact State.releaseIf_memOk h _ _ _ _ (fun t h1 => State.acquire_memOk h1 _ _ _ _ _
      (fun a h2 => Sweep.finishLong_memOk _ _ _ _ _ _ _ _ _ _ (State.sweepMem_memOk h2 _ _ _ _
      (fun a h3 a_1 a_2 => State.rmwLane_memOk h3 ..))))

theorem execAtmr_memOk (h : s.memOk) (d : Byte) (a : MAddr) (m : MDesc) : OkNext (execAtmr d a m s) := by
  rw [execAtmr]
  refine okNext_issued ?_
  intro r
  refine State.legalIf_memOk h _ _ _ ?_
  split
  · exact State.illegal_memOk h ..
  · exact State.rmwAll_memOk h ..

theorem execXchg_memOk (h : s.memOk) (d : Byte) (a : MAddr) (m : MDesc) : OkNext (execXchg d a m s) := by
  rw [execXchg]
  exact okNext_issued (fun r => State.legalIf_memOk h _ _ _ (State.rmwAll_memOk h ..))

theorem State.casAll_memOk (h : s.memOk) (r : PathRef) (d : Byte) (a : MAddr) (m : MDesc) : (s.casAll r d a m).memOk := by
  unfold State.casAll
  extract_lets +onlyGivenNames hd bits
  exact State.legalIf_memOk h _ _ _ (State.rmwAll_memOk h ..)

theorem execCas_memOk (h : s.memOk) (d : Byte) (a : MAddr) (m : MDesc) : OkNext (execCas d a m s) := by
  rw [execCas]
  exact okNext_issued (fun r => State.casAll_memOk h ..)

theorem execCas128_memOk (h : s.memOk) (d : Byte) (a : MAddr) (m : MDesc) : OkNext (execCas128 d a m s) := by
  rw [execCas128]
  exact okNext_issued (fun r => State.casAll_memOk h ..)

theorem execMarm_memOk (h : s.memOk) (d base : SReg) (m : MDesc) : OkNext (execMarm d base m s) := by
  unfold execMarm
  refine okNext_issued ?_
  intro r
  extract_lets +onlyGivenNames n va stop
  have h1 : ∀ (e : XErr), (stop e).memOk := fun e => State.xerr_memOk _ _ h ..
  clear_value stop
  split
  · exact h1 ..
  · extract_lets -underBinder +onlyGivenNames go
    have h2 : ∀ (x : Unit), (go x).memOk := by
      intro x
      unfold go
      split
      · exact h
      · refine State.acquire_memOk h _ _ _ _ _ ?_
        intro a h2
        extract_lets +onlyGivenNames s s1
        have h3 : s.memOk := (calm_fillHost ..).ok (State.drain_memOk (State.drainSync_memOk (State.bindMeet_memOk h2 ..) ..) ..)
        have h4 : s1.memOk := by
          unfold s1
          split
          · exact State.homeSync_memOk h3 ..
          · exact (calm_useSpans ..).ok h3
        clear_value s s1
        split
        · exact h4
        · split
          · exact State.takeStop_memOk h4 ..
          · extract_lets +onlyGivenNames v s
            have h5 : s.memOk := h4
            clear_value s
            exact h5
    clear_value go
    split
    · exact h1 ..
    · split
      · exact h
      · exact h2 ..
    · exact h2 ..

/-! ### The fetch of an instruction -/

theorem State.fetch_memOk (h : s.memOk) (r : PathRef) (va : DWord) (k : State → Word → Taken)
    (hk : ∀ (a : State), a.memOk → ∀ (a_1 : Word), OkTaken (k a a_1)) : OkTaken (s.fetch r va k) := by
  unfold State.fetch
  split
  · exact okTaken_over (State.xerr_memOk _ _ h ..)
  · split
    · exact okTaken_over (State.takeStop_memOk h ..)
    · split
      · exact okTaken_over h
      · split
        · exact okTaken_over (State.xerr_memOk _ _ h ..)
        · exact okTaken_over (State.xerr_memOk _ _ h ..)
        · split
          · exact okTaken_over h
          · exact hk _ h ..
        · extract_lets +onlyGivenNames t
          have h2 : t.memOk := by
            unfold t
            split
            · exact h
            · exact (calm_useSpans ..).ok h
          clear_value t
          exact hk _ h2 ..

theorem State.ready_memOk (h : s.memOk) (r : PathRef) (i : Instr) : OkTaken (s.ready r i) := by
  unfold State.ready
  extract_lets +onlyGivenNames t n pending
  split
  · exact okTaken_run h
  · split
    · exact okTaken_over h
    · extract_lets +onlyGivenNames s p
      have h1 : s.memOk := (calm_bindRegs ..).ok h
      clear_value s
      split
      · exact okTaken_over h1
      · split
        · refine okTaken_over ?_
          refine State.takeStop_memOk ?_ ..
          exact h1
        · extract_lets +onlyGivenNames badS badV
          split
          · exact okTaken_run h1
          · exact okTaken_over (State.logError_memOk _ _ (State.takeStop_memOk h1 ..) ..)

theorem State.issueWords_memOk (h : s.memOk) (r : PathRef) (w lit : Word) : OkTaken (s.issueWords r w lit) := by
  unfold State.issueWords
  split
  · exact okTaken_over (State.illegal_memOk h ..)
  · exact State.ready_memOk h ..

theorem State.issueMacro_memOk (h : s.memOk) (r : PathRef) (m : MacroRun) (o : MacroOp) : OkTaken (s.issueMacro r m o) := by
  rw [State.issueMacro]
  split
  · exact State.issueWords_memOk h ..
  · exact okTaken_over (State.illegal_memOk h ..)

theorem State.issueClause_memOk (h : s.memOk) (r : PathRef) : OkTaken (s.issueClause r) := by
  unfold State.issueClause
  extract_lets +onlyGivenNames p
  refine State.fetch_memOk h _ _ _ ?_
  intro a h1 a
  split
  · exact okTaken_over (State.illegal_memOk h1 ..)
  · split
    · split
      · exact State.fetch_memOk h1 _ _ _ (fun a h2 a => State.issueWords_memOk h2 ..)
      · exact okTaken_over (State.illegal_memOk h1 ..)
    · exact State.issueWords_memOk h1 ..

theorem State.enterClause_memOk (h : s.memOk) (r : PathRef) : OkTaken (s.enterClause r) := by
  unfold State.enterClause
  extract_lets +onlyGivenNames p
  refine State.fetch_memOk h _ _ _ ?_
  intro a h1 a
  split
  · exact okTaken_over (State.illegal_memOk h1 ..)
  · split
    · exact okTaken_over h1
    · extract_lets +onlyGivenNames s
      have h2 : s.memOk := h1
      clear_value s
      split
      · refine okTaken_over ?_
        refine State.takeStop_memOk ?_ ..
        exact h2
      · exact State.issueClause_memOk h2 ..

theorem State.issueNext_memOk (h : s.memOk) (r : PathRef) : OkTaken (s.issueNext r) := by
  unfold State.issueNext
  extract_lets +onlyGivenNames p
  split
  · exact State.issueClause_memOk h ..
  · exact State.enterClause_memOk h ..

theorem State.takeUp_memOk (h : s.memOk) (r : PathRef) : OkTaken (s.takeUp r) := by
  unfold State.takeUp
  extract_lets +onlyGivenNames p
  split
  · exact okTaken_over h
  · extract_lets -underBinder +onlyGivenNames src s
    have h1 : s.memOk := h
    clear_value s
    split
    · split
      · exact State.issueMacro_memOk h1 ..
      · refine State.issueNext_memOk ?_ ..
        exact h1
    · exact State.issueNext_memOk h1 ..

/-! ### Scratchpads and full/empty words -/

theorem execLds_memOk (h : s.memOk) (d : Byte) (a : MAddr) (m : MDesc) : OkNext (execLds d a m s) := by
  unfold execLds
  refine okNext_issued ?_
  intro r
  refine State.legalIf_memOk h _ _ _ ?_
  extract_lets +onlyGivenNames n me lanes
  refine State.acquire_memOk h _ _ _ _ _ ?_
  intro a h1
  extract_lets +onlyGivenNames ea other
  refine Sweep.finish_memOk _ _ _ _ _ _ _ ?_ ?_
  · refine State.sweep_memOk h1 _ _ _ _ ?_
    intro a h2 a_1 a_2
    split
    · exact okLane_err
    · extract_lets +onlyGivenNames c
      split <;> exact okLane h2
  · intro a h2 a_1 a_2 a_3
    extract_lets +onlyGivenNames note
    clear_value note
    split
    · exact h2
    · extract_lets +onlyGivenNames s
      have h3 : s.memOk := memOk_of_mem (State.regWrites_mem ..) h2
      clear_value s
      refine memOk_of_mem (State.advance_mem ..) ?_
      split
      · exact h3
      · exact h3

theorem execSts_memOk (h : s.memOk) (d : Byte) (a : MAddr) (m : MDesc) : OkNext (execSts d a m s) := by
  unfold execSts
  refine okNext_issued ?_
  intro r
  refine State.legalIf_memOk h _ _ _ ?_
  split
  · exact h
  · refine State.releaseIf_memOk h _ _ _ _ ?_
    intro t h1
    extract_lets +onlyGivenNames n me ea x eas mended
    have h2 : x.s.memOk := by
      unfold x
      refine State.sweep_memOk h1 _ _ _ _ ?_
      intro a h2 a_1 a_2
      split
      · exact okLane_err
      · exact okLane h2
    have h3 : mended.memOk := by
      unfold mended
      refine foldl_keeps State.memOk _ _ _ (fun t c h3 => ?_) h2
      split
      · exact h3
      · exact h3
    clear_value x mended
    refine Sweep.finishShort_memOk _ _ _ _ _ _ ?_
    exact h3

theorem State.feLane_memOk (h : s.memOk) (me : Nat) (row : FeRow) (v : Nat) (va : DWord) (k : Nat → List RegWrite) :
    OkLane (s.feLane me row v va k) := by
  unfold State.feLane
  split
  · exact okLane_err
  · extract_lets +onlyGivenNames c
    split
    · exact okLane_hold
    · split
      · exact okLane h
      · extract_lets +onlyGivenNames ws c c1
        exact okLane h

theorem State.feSweep_memOk (h : s.memOk) (r : PathRef) (d : Byte) (a : MAddr) (m : MDesc) (row : FeRow) (acq : Bool) (k : Sweep → State)
    (hk : ∀ (a : Sweep), a.s.memOk → (k a).memOk) : (s.feSweep r d a m row acq k).memOk := by
  unfold State.feSweep
  extract_lets +onlyGivenNames sc run
  have h2 : ∀ (s : State), s.memOk → (run s).s.memOk := fun s h2 => State.sweep_memOk h2 _ _ _ _
    (fun a h3 a_1 a_2 => State.feLane_memOk h3 ..)
  clear_value run
  exact State.releaseIf_memOk h _ _ _ _ (fun t h3 => State.acquire_memOk h3 _ _ _ _ _ (fun a h4 => hk _ (h2 _ h4)))

theorem State.feLong_memOk (h : s.memOk) (r : PathRef) (d : Byte) (a : MAddr) (m : MDesc) (row : FeRow) (acq : Bool) :
    (s.feLong r d a m row acq).memOk := by
  unfold State.feLong
  refine State.legalIf_memOk h _ _ _ ?_
  refine State.withSlot_memOk h _ _ ?_
  intro i
  extract_lets +onlyGivenNames lanes
  split
  · exact h
  · exact State.feSweep_memOk h _ _ _ _ _ _ _ (fun a h1 => Sweep.finishLong_memOk _ _ _ _ _ _ _ _ _ _ h1)

theorem State.feShort_memOk (h : s.memOk) (r : PathRef) (d : Byte) (a : MAddr) (m : MDesc) (row : FeRow) (acq : Bool) :
    (s.feShort r d a m row acq).memOk := by
  rw [State.feShort]
  refine State.legalIf_memOk h _ _ _ ?_
  split
  · exact h
  · exact State.feSweep_memOk h _ _ _ _ _ _ _ (fun a h1 => Sweep.finishShort_memOk _ _ _ _ _ _ h1)

theorem execLdsf_memOk (h : s.memOk) (d : Byte) (a : MAddr) (m : MDesc) : OkNext (execLdsf d a m s) := by
  rw [execLdsf]
  exact okNext_issued (fun r => State.feLong_memOk h ..)

theorem execLdse_memOk (h : s.memOk) (d : Byte) (a : MAddr) (m : MDesc) : OkNext (execLdse d a m s) := by
  rw [execLdse]
  exact okNext_issued (fun r => State.feLong_memOk h ..)

theorem execStsf_memOk (h : s.memOk) (d : Byte) (a : MAddr) (m : MDesc) : OkNext (execStsf d a m s) := by
  rw [execStsf]
  exact okNext_issued (fun r => State.feShort_memOk h ..)

theorem execStsx_memOk (h : s.memOk) (d : Byte) (a : MAddr) (m : MDesc) : OkNext (execStsx d a m s) := by
  rw [execStsx]
  exact okNext_issued (fun r => State.feShort_memOk h ..)

theorem execFeclr_memOk (h : s.memOk) (a : MAddr) (m : MDesc) : OkNext (execFeclr a m s) := by
  rw [execFeclr]
  exact okNext_issued (fun r => State.feShort_memOk h ..)

theorem execFeset_memOk (h : s.memOk) (a : MAddr) (m : MDesc) : OkNext (execFeset a m s) := by
  rw [execFeset]
  exact okNext_issued (fun r => State.feShort_memOk h ..)

theorem execFeq_memOk (h : s.memOk) (d : Byte) (a : MAddr) (m : MDesc) : OkNext (execFeq d a m s) := by
  rw [execFeq]
  exact okNext_issued (fun r => State.feLong_memOk h ..)

/-! ### Structures read at issue -/

theorem State.rdErr_memOk (h : s.memOk) (r : PathRef) (e : RdErr) (lane : Nat) : (s.rdErr r e lane).memOk := by
  unfold State.rdErr
  split
  · exact State.xerr_memOk _ _ h ..
  · exact h
  · exact State.takeStop_memOk h ..

theorem State.withRead_memOk (h : s.memOk) {α : Type} (r : PathRef) (x : Except RdErr α) (k : α → State) (hk : ∀ (a : α), (k a).memOk) :
    (s.withRead r x k).memOk := by
  unfold State.withRead
  split
  · exact hk ..
  · exact State.rdErr_memOk h ..

theorem State.vUse_memOk (h : s.memOk) (v : View) (va : DWord) (n : Nat) : (s.vUse v va n).memOk := by
  rw [State.vUse]
  split
  · exact h
  · refine foldl_keeps State.memOk _ _ _ (fun s i h1 => ?_) h
    split
    · exact (calm_recallBut ..).ok ((calm_useSpans ..).ok h1)
    · exact h1

theorem State.usedAll_memOk (h : s.memOk) (v : View) (l : List (DWord × Nat)) : (s.usedAll v l).memOk := by
  rw [State.usedAll]
  exact foldl_keeps State.memOk _ _ _ (fun s y h1 => State.vUse_memOk h1 ..) h

theorem State.withUsed_memOk (h : s.memOk) {α : Type} (r : PathRef) (v : View) (at' : List (DWord × Nat)) (x : Except RdErr α)
    (k : State → α → State) (hk : ∀ (a : State), a.memOk → ∀ (a_1 : α), (k a a_1).memOk) : (s.withUsed r v at' x k).memOk := by
  unfold State.withUsed
  exact State.withRead_memOk h _ _ _ (fun a => hk _ (State.usedAll_memOk h ..) ..)

theorem State.readUnits_memOk (h : s.memOk) (r : PathRef) (v : View) (p n : Nat) (va : DWord) (k : State → List Nat → State)
    (hk : ∀ (a : State), a.memOk → ∀ (a_1 : List Nat), (k a a_1).memOk) : (s.readUnits r v p n va k).memOk := by
  rw [State.readUnits]
  exact State.withRead_memOk h _ _ _ (fun a => hk _ (State.vUse_memOk h ..) ..)

theorem State.alignedTo_memOk (h : s.memOk) (r : PathRef) (n : Nat) (va : DWord) (k : State) (hk : k.memOk) :
    (s.alignedTo r n va k).memOk := by
  rw [State.alignedTo]
  split
  · exact hk
  · exact State.takeStop_memOk h ..

/-! ### Scalar instructions -/

theorem scalarArith_memOk (h : s.memOk) (w u : Bool) (d a : SReg) (b : Src2) (f : Nat → ℤ → ℤ → ℤ) :
    OkNext (scalarArith w u d a b f s) := by
  unfold scalarArith
  refine okNext_issued ?_
  intro r
  extract_lets +onlyGivenNames n q
  exact h

theorem scalarShift_memOk (h : s.memOk) (w u : Bool) (d a : SReg) (b : Src2) (f : Nat → DWord → Nat → ℤ) :
    OkNext (scalarShift w u d a b f s) := by
  unfold scalarShift
  refine okNext_issued ?_
  intro r
  extract_lets +onlyGivenNames n
  exact h

theorem execSadd_memOk (h : s.memOk) (w u : Bool) (d a : SReg) (b : Src2) : OkNext (execSadd w u d a b s) := by
  rw [execSadd]
  exact scalarArith_memOk h ..

theorem execSsub_memOk (h : s.memOk) (w u : Bool) (d a : SReg) (b : Src2) : OkNext (execSsub w u d a b s) := by
  rw [execSsub]
  exact scalarArith_memOk h ..

theorem execSmul_memOk (h : s.memOk) (w u : Bool) (d a : SReg) (b : Src2) : OkNext (execSmul w u d a b s) := by
  rw [execSmul]
  exact scalarArith_memOk h ..

theorem execSmulh_memOk (h : s.memOk) (w u : Bool) (d a : SReg) (b : Src2) : OkNext (execSmulh w u d a b s) := by
  rw [execSmulh]
  exact scalarArith_memOk h ..

theorem execSdiv_memOk (h : s.memOk) (w u : Bool) (d a : SReg) (b : Src2) : OkNext (execSdiv w u d a b s) := by
  rw [execSdiv]
  exact scalarArith_memOk h ..

theorem execSrem_memOk (h : s.memOk) (w u : Bool) (d a : SReg) (b : Src2) : OkNext (execSrem w u d a b s) := by
  rw [execSrem]
  exact scalarArith_memOk h ..

theorem scalarBits_memOk (h : s.memOk) (w u : Bool) (d a : SReg) (b : Src2) (f : Nat → Nat → Nat) :
    OkNext (scalarBits w u d a b f s) := by
  rw [scalarBits]
  exact scalarArith_memOk h ..

theorem execSand_memOk (h : s.memOk) (w u : Bool) (d a : SReg) (b : Src2) : OkNext (execSand w u d a b s) := by
  rw [execSand]
  exact scalarBits_memOk h ..

theorem execSor_memOk (h : s.memOk) (w u : Bool) (d a : SReg) (b : Src2) : OkNext (execSor w u d a b s) := by
  rw [execSor]
  exact scalarBits_memOk h ..

theorem execSxor_memOk (h : s.memOk) (w u : Bool) (d a : SReg) (b : Src2) : OkNext (execSxor w u d a b s) := by
  rw [execSxor]
  exact scalarBits_memOk h ..

theorem execSshl_memOk (h : s.memOk) (w u : Bool) (d a : SReg) (b : Src2) : OkNext (execSshl w u d a b s) := by
  rw [execSshl]
  exact scalarShift_memOk h ..

theorem execSshr_memOk (h : s.memOk) (w u : Bool) (d a : SReg) (b : Src2) : OkNext (execSshr w u d a b s) := by
  rw [execSshr]
  exact scalarShift_memOk h ..

theorem execSsra_memOk (h : s.memOk) (w u : Bool) (d a : SReg) (b : Src2) : OkNext (execSsra w u d a b s) := by
  unfold execSsra
  exact scalarShift_memOk h ..

theorem execSmin_memOk (h : s.memOk) (w u : Bool) (d a : SReg) (b : Src2) : OkNext (execSmin w u d a b s) := by
  rw [execSmin]
  exact scalarArith_memOk h ..

theorem execSmax_memOk (h : s.memOk) (w u : Bool) (d a : SReg) (b : Src2) : OkNext (execSmax w u d a b s) := by
  rw [execSmax]
  exact scalarArith_memOk h ..

theorem execScmp_memOk (h : s.memOk) (c : Cond) (p : PReg) (u : Bool) (a : SReg) (b : Src2) : OkNext (execScmp c p u a b s) := by
  unfold execScmp
  refine okNext_issued ?_
  intro r
  extract_lets +onlyGivenNames o
  exact h

theorem execSsel_memOk (h : s.memOk) (d a b : SReg) (p : PReg) (all : Bool) : OkNext (execSsel d a b p all s) := by
  unfold execSsel
  refine okNext_issued ?_
  intro r
  extract_lets +onlyGivenNames c
  exact h

theorem execSmov_memOk (h : s.memOk) (d a : SReg) : OkNext (execSmov d a s) := by
  rw [execSmov]
  exact okNext_issued (fun r => h)

theorem execSli_memOk (h : s.memOk) (d : SReg) (md : SliMode) (lit : Word) : OkNext (execSli d md lit s) := by
  unfold execSli
  refine okNext_issued ?_
  intro r
  extract_lets +onlyGivenNames v
  exact h

theorem execSlea_memOk (h : s.memOk) (d a b : SReg) (k : BitVec 2) : OkNext (execSlea d a b k s) := by
  rw [execSlea]
  exact okNext_issued (fun r => h)

theorem execSbfe_memOk (h : s.memOk) (d a : SReg) (pos : BitVec 6) (len : BitVec 7) (sx : Bool) : OkNext (execSbfe d a pos len sx s) := by
  unfold execSbfe
  refine okNext_issued ?_
  intro r
  extract_lets +onlyGivenNames v q
  exact h

theorem execSbfi_memOk (h : s.memOk) (d a : SReg) (pos : BitVec 6) (len : BitVec 7) : OkNext (execSbfi d a pos len s) := by
  unfold execSbfi
  refine okNext_issued ?_
  intro r
  extract_lets +onlyGivenNames v
  exact h

theorem execSbit_memOk (h : s.memOk) (op : BitOp) (w : Bool) (d a : SReg) : OkNext (execSbit op w d a s) := by
  unfold execSbit
  refine okNext_issued ?_
  intro r
  extract_lets +onlyGivenNames n
  exact h

theorem execSr_memOk (h : s.memOk) (d : SReg) (sel : Special) : OkNext (execSr d sel s) := by
  rw [execSr]
  exact okNext_issued (fun r => h)

theorem State.writeMd_memOk (h : s.memOk) (r : PathRef) (x : DWord) : (s.writeMd r x).memOk := by
  unfold State.writeMd
  extract_lets +onlyGivenNames md
  refine State.legalIf_memOk h _ _ _ ?_
  exact h

theorem execSw_memOk (h : s.memOk) (sel : Special) (a : SReg) : OkNext (execSw sel a s) := by
  unfold execSw
  refine okNext_issued ?_
  intro r
  extract_lets +onlyGivenNames x
  split
  · exact h
  · split
    · exact State.writeMd_memOk h ..
    · exact State.illegal_memOk h ..

theorem execMode_memOk (h : s.memOk) (m : BitVec 24) : OkNext (execMode m s) := by
  rw [execMode]
  exact okNext_issued (fun r => State.writeMd_memOk h ..)

theorem execModes_memOk (h : s.memOk) (a : SReg) : OkNext (execModes a s) := by
  rw [execModes]
  exact okNext_issued (fun r => State.writeMd_memOk h ..)

/-! ### Vector integer instructions -/

theorem intBinary_memOk (h : s.memOk) (d a b : VReg) (f : ElemType → ℤ → ℤ → ℤ) : OkNext (intBinary d a b f s) := by
  unfold intBinary
  exact okNext_issued (fun r => State.elementwise_memOk h ..)

theorem intUnary_memOk (h : s.memOk) (d a : VReg) (f : ElemType → ℤ → ℤ) : OkNext (intUnary d a f s) := by
  unfold intUnary
  exact okNext_issued (fun r => State.elementwise_memOk h ..)

theorem execAdd_memOk (h : s.memOk) (d a b : VReg) : OkNext (execAdd d a b s) := by
  rw [execAdd]
  exact intBinary_memOk h ..

theorem execSub_memOk (h : s.memOk) (d a b : VReg) : OkNext (execSub d a b s) := by
  rw [execSub]
  exact intBinary_memOk h ..

theorem execMul_memOk (h : s.memOk) (d a b : VReg) : OkNext (execMul d a b s) := by
  rw [execMul]
  exact intBinary_memOk h ..

theorem execMulh_memOk (h : s.memOk) (d a b : VReg) : OkNext (execMulh d a b s) := by
  unfold execMulh
  exact okNext_issued (fun r => State.elementwise_memOk h ..)

theorem execMad_memOk (h : s.memOk) (d a b : VReg) : OkNext (execMad d a b s) := by
  unfold execMad
  exact okNext_issued (fun r => State.elementwise_memOk h ..)

theorem execMin_memOk (h : s.memOk) (d a b : VReg) : OkNext (execMin d a b s) := by
  rw [execMin]
  exact intBinary_memOk h ..

theorem execMax_memOk (h : s.memOk) (d a b : VReg) : OkNext (execMax d a b s) := by
  rw [execMax]
  exact intBinary_memOk h ..

theorem execAbs_memOk (h : s.memOk) (d a : VReg) : OkNext (execAbs d a s) := by
  rw [execAbs]
  exact intUnary_memOk h ..

theorem execNeg_memOk (h : s.memOk) (d a : VReg) : OkNext (execNeg d a s) := by
  rw [execNeg]
  exact intUnary_memOk h ..

theorem vecBits_memOk (h : s.memOk) (d : VReg) (srcs : List VReg) (f : Team → ElemType → Nat → Nat) : OkNext (vecBits d srcs f s) := by
  unfold vecBits
  refine okNext_issued ?_
  intro r
  extract_lets +onlyGivenNames ty
  exact State.legalIf_memOk h _ _ _ (memOk_of_mem (State.advance_mem ..) (State.mapLanes_memOk h ..))

theorem execAnd_memOk (h : s.memOk) (d a b : VReg) : OkNext (execAnd d a b s) := by
  rw [execAnd]
  exact vecBits_memOk h ..

theorem execOr_memOk (h : s.memOk) (d a b : VReg) : OkNext (execOr d a b s) := by
  rw [execOr]
  exact vecBits_memOk h ..

theorem execXor_memOk (h : s.memOk) (d a b : VReg) : OkNext (execXor d a b s) := by
  rw [execXor]
  exact vecBits_memOk h ..

theorem execNot_memOk (h : s.memOk) (d a : VReg) : OkNext (execNot d a s) := by
  rw [execNot]
  exact vecBits_memOk h ..

theorem vecShift_memOk (h : s.memOk) (d a b : VReg) (f : Nat → Nat → Nat → ℤ) : OkNext (vecShift d a b f s) := by
  unfold vecShift
  refine okNext_issued ?_
  intro r
  extract_lets +onlyGivenNames ty
  exact State.legalIf_memOk h _ _ _ (memOk_of_mem (State.advance_mem ..) (State.mapLanes_memOk h ..))

theorem execShl_memOk (h : s.memOk) (d a b : VReg) : OkNext (execShl d a b s) := by
  rw [execShl]
  exact vecShift_memOk h ..

theorem execShr_memOk (h : s.memOk) (d a b : VReg) : OkNext (execShr d a b s) := by
  rw [execShr]
  exact vecShift_memOk h ..

theorem execSra_memOk (h : s.memOk) (d a b : VReg) : OkNext (execSra d a b s) := by
  unfold execSra
  exact vecShift_memOk h ..

theorem execRot_memOk (h : s.memOk) (d a b : VReg) : OkNext (execRot d a b s) := by
  rw [execRot]
  exact vecShift_memOk h ..

theorem execBfe_memOk (h : s.memOk) (d a : VReg) (pos : BitVec 5) (len : BitVec 6) : OkNext (execBfe d a pos len s) := by
  unfold execBfe
  exact okNext_issued (fun r => State.elementwise_memOk h ..)

theorem execBfi_memOk (h : s.memOk) (d a : VReg) (pos : BitVec 5) (len : BitVec 6) : OkNext (execBfi d a pos len s) := by
  rw [execBfi]
  exact okNext_issued (fun r => State.elementwise_memOk h ..)

theorem execBcnt_memOk (h : s.memOk) (op : BitOp) (d a : VReg) : OkNext (execBcnt op d a s) := by
  rw [execBcnt]
  exact okNext_issued (fun r => State.elementwise_memOk h ..)

theorem State.writeLanes_memOk (h : s.memOk) (r : PathRef) (p : PReg) (m bits : Mask) : (s.writeLanes r p m bits).memOk := h

theorem execCmp_memOk (h : s.memOk) (c : Cond) (p : PReg) (a b : VReg) : OkNext (execCmp c p a b s) := by
  unfold execCmp
  refine okNext_issued ?_
  intro r
  extract_lets +onlyGivenNames ty t
  refine State.legalIf_memOk h _ _ _ ?_
  exact h

theorem execSel_memOk (h : s.memOk) (d a b : VReg) (p : PReg) (neg : Bool) : OkNext (execSel d a b p neg s) := by
  unfold execSel
  refine okNext_issued ?_
  intro r
  extract_lets +onlyGivenNames ty
  exact State.legalIf_memOk h _ _ _ (memOk_of_mem (State.advance_mem ..) (State.mapLanes_memOk h ..))

theorem execMov_memOk (h : s.memOk) (d a : VReg) : OkNext (execMov d a s) := by
  unfold execMov
  refine okNext_issued ?_
  intro r
  extract_lets +onlyGivenNames ty
  exact State.legalIf_memOk h _ _ _ (memOk_of_mem (State.advance_mem ..) (State.mapLanes_memOk h ..))

theorem execMovs_memOk (h : s.memOk) (d : VReg) (hi : Bool) (a : SReg) : OkNext (execMovs d hi a s) := by
  unfold execMovs
  refine okNext_issued ?_
  intro r
  extract_lets +onlyGivenNames ty x
  exact State.legalIf_memOk h _ _ _ (memOk_of_mem (State.advance_mem ..) (State.mapLanes_memOk h ..))

theorem execLi_memOk (h : s.memOk) (d : VReg) (lit : Word) : OkNext (execLi d lit s) := by
  unfold execLi
  refine okNext_issued ?_
  intro r
  extract_lets +onlyGivenNames ty x
  exact State.legalIf_memOk h _ _ _ (memOk_of_mem (State.advance_mem ..) (State.mapLanes_memOk h ..))

theorem execLid_memOk (h : s.memOk) (d : VReg) : OkNext (execLid d s) := by
  rw [execLid]
  exact okNext_issued (fun r => State.legalIf_memOk h _ _ _ (memOk_of_mem (State.advance_mem ..) (State.mapLanes_memOk h ..)))

end Sys2Proof.Machine
end

section
/-! SUPPORT. The matrix instructions, remote requests, the region table, the boundary of a superstep, and the synchronising
instructions keep memory in its canonical form. -/

namespace Sys2Proof.Machine

variable {s : State}

/-! ### Matrix instructions -/

theorem State.withHandle_memOk (h : s.memOk) (r : PathRef) (hd : Word) (k : Nat → State) (hk : ∀ (a : Nat), (k a).memOk) :
    (s.withHandle r hd k).memOk := by
  unfold State.withHandle
  split
  · exact hk ..
  · exact State.takeStop_memOk h ..

theorem State.enqueue_memOk (h : s.memOk) (r : PathRef) (words : Nat) (op : ArrayOp) (f : CoreSt → CoreSt) :
    (s.enqueue r words op f).memOk := by
  unfold State.enqueue
  extract_lets +onlyGivenNames core
  split
  · exact h
  · extract_lets -underBinder +onlyGivenNames old s
    have h1 : s.memOk := h
    clear_value s
    exact h1

theorem execTclaim_memOk (h : s.memOk) (d : SReg) : OkNext (execTclaim d s) := by
  unfold execTclaim
  refine okNext_issued ?_
  intro r
  refine State.legalIf_memOk h _ _ _ ?_
  extract_lets +onlyGivenNames core
  split
  · exact h
  · extract_lets +onlyGivenNames g bit' s
    have h1 : s.memOk := h
    clear_value s
    exact h1

theorem execTrel_memOk (h : s.memOk) (a : SReg) : OkNext (execTrel a s) := by
  rw [execTrel]
  exact okNext_issued (fun r => State.legalIf_memOk h _ _ _ (State.withHandle_memOk h _ _ _ (fun a => State.enqueue_memOk h ..)))

theorem execTld_memOk (h : s.memOk) (a b : SReg) (first cnt : BitVec 7) (off : BitVec 16) : OkNext (execTld a b first cnt off s) := by
  unfold execTld
  refine okNext_issued ?_
  intro r
  extract_lets +onlyGivenNames n
  refine State.legalIf_memOk h _ _ _ ?_
  refine State.withHandle_memOk h _ _ _ ?_
  intro a
  extract_lets +onlyGivenNames src
  split
  · exact State.xerr_memOk _ _ h ..
  · exact State.enqueue_memOk h ..

theorem execTfmt_memOk (h : s.memOk) (a b : SReg) : OkNext (execTfmt a b s) := by
  unfold execTfmt
  refine okNext_issued ?_
  intro r
  refine State.legalIf_memOk h _ _ _ ?_
  extract_lets +onlyGivenNames x y bad mis
  split
  · exact State.takeStop_memOk h ..
  · split
    · exact State.takeStop_memOk h ..
    · exact h

theorem execMclr_memOk (h : s.memOk) (banks : BitVec 2) : OkNext (execMclr banks s) := by
  rw [execMclr]
  exact okNext_issued (fun r => State.legalIf_memOk h _ _ _ (State.enqueue_memOk h ..))

theorem execTzero_memOk (h : s.memOk) (a : SReg) : OkNext (execTzero a s) := by
  rw [execTzero]
  exact okNext_issued (fun r => State.legalIf_memOk h _ _ _ (State.withHandle_memOk h _ _ _ (fun a => State.enqueue_memOk h ..)))

theorem execTtrans_memOk (h : s.memOk) (d a : SReg) (two : Bool) : OkNext (execTtrans d a two s) := by
  rw [execTtrans]
  exact okNext_issued (fun r => State.legalIf_memOk h _ _ _ (State.withHandle_memOk h _ _ _
    (fun a => State.withHandle_memOk h _ _ _ (fun a => State.enqueue_memOk h ..))))

theorem State.useMul_memOk (h : s.memOk) (r : PathRef) (m : MulCmd) : (s.useMul r m).memOk := by
  unfold State.useMul
  split
  · exact h
  · extract_lets -underBinder +onlyGivenNames v c block rows
    have h1 : ∀ (s : State), s.memOk → ∀ (a : Option DWord), (block s a).memOk := by
      intro s h1 a
      unfold block
      split
      · exact State.vUse_memOk h1 ..
      · exact h1
    have h2 : ∀ (s : State), s.memOk → ∀ (f : FmtBlock) (n : Nat), (rows s f n).memOk := by
      intro s h2 f n
      unfold rows
      extract_lets +onlyGivenNames gs
      refine foldl_keeps State.memOk _ _ _ (fun s row h3 => ?_) h2
      extract_lets +onlyGivenNames s
      have h4 : s.memOk := by
        unfold s
        split
        · exact State.vUse_memOk h3 ..
        · exact h3
      clear_value s
      split
      · exact State.vUse_memOk h4 ..
      · exact h4
    clear_value block rows
    exact h2 _ (h2 _ (h1 _ (h1 _ h ..) ..) ..) ..

theorem State.mulErr_memOk (h : s.memOk) (r : PathRef) (x : MulErr) : (s.mulErr r x).memOk := by
  unfold State.mulErr
  split
  · exact State.takeStop_memOk h ..
  · exact State.rdErr_memOk h ..

theorem State.multiply_memOk (h : s.memOk) (r : PathRef) (a b : SReg) (klen : BitVec 9) (zero : Bool) :
    (s.multiply r a b klen zero).memOk := by
  unfold State.multiply
  refine State.legalIf_memOk h _ _ _ ?_
  extract_lets +onlyGivenNames hb1
  split
  · exact State.mulErr_memOk h ..
  · exact State.enqueue_memOk (State.useMul_memOk h ..) ..

theorem execMma_memOk (h : s.memOk) (a b : SReg) (klen : BitVec 9) : OkNext (execMma a b klen s) := by
  rw [execMma]
  exact okNext_issued (fun r => State.multiply_memOk h ..)

theorem execMmaz_memOk (h : s.memOk) (a b : SReg) (klen : BitVec 9) : OkNext (execMmaz a b klen s) := by
  rw [execMmaz]
  exact okNext_issued (fun r => State.multiply_memOk h ..)

theorem State.runMul_memOk (h : s.memOk) (core : Nat) (e : ArrayEntry) (m : MulCmd) : (s.runMul core e m).memOk := h

theorem State.raceOn_memOk (h : s.memOk) (core slot off n : Nat) : (s.raceOn core slot off n).memOk := by
  unfold State.raceOn
  extract_lets +onlyGivenNames lo now fix old
  split
  · exact h
  · extract_lets -underBinder +onlyGivenNames s
    have h1 : s.memOk := h
    clear_value s
    exact h1

theorem State.raceOp_memOk (h : s.memOk) (core : Nat) (x : ArrayOp) : (s.raceOp core x).memOk := by
  unfold State.raceOp
  split
  any_goals exact State.raceOn_memOk h ..
  · exact h

theorem State.runArray_memOk (h : s.memOk) (core : Nat) (e : ArrayEntry) : (s.runArray core e).memOk := by
  unfold State.runArray
  extract_lets +onlyGivenNames s
  have h1 : s.memOk := State.raceOp_memOk h ..
  clear_value s
  split <;> exact h1

theorem State.popArray_memOk (h : s.memOk) (core : Nat) : (s.popArray core).memOk := h

theorem execArrayQueueExecute_memOk (h : s.memOk) (core : Nat) : OkNext (execArrayQueueExecute core s) := by
  unfold execArrayQueueExecute
  split
  · exact okNext h
  · split
    · exact okNext h
    · extract_lets +onlyGivenNames heads
      refine okNext ?_
      refine foldl_keeps State.memOk _ _ _ ?_ (foldl_keeps State.memOk _ _ _ (fun s x h1 => State.runArray_memOk h1 ..) h)
      exact fun s k h1 => h1

theorem execMcoop_memOk (h : s.memOk) (_a _b : SReg) (klen : BitVec 9) (_z : Bool) (mt : BitVec 3) (nt : BitVec 4) :
    OkNext (execMcoop _a _b klen _z mt nt s) := by
  rw [execMcoop]
  refine okNext_issued ?_
  intro r
  refine State.legalIf_memOk h _ _ _ ?_
  split
  · exact State.takeStop_memOk h ..
  · exact h

theorem execMcoopRendezvous_memOk (h : s.memOk) (grid cluster : Nat) : OkNext (execMcoopRendezvous grid cluster s) := by
  unfold execMcoopRendezvous
  extract_lets +onlyGivenNames w met
  split
  · exact okNext h
  · extract_lets +onlyGivenNames n ps checked bad
    split
    · exact okNext (foldl_keeps State.memOk _ _ _ (fun s x h1 => State.mulErr_memOk h1 ..) h)
    · extract_lets +onlyGivenNames ok match' wide
      split
      · exact okNext (foldl_keeps State.memOk _ _ _ (fun s p h1 => State.takeStop_memOk h1 ..) h)
      · split
        · exact okNext h
        · extract_lets +onlyGivenNames cores
          refine okNext ?_
          refine foldl_keeps State.memOk _ _ _ (fun s x h1 => ?_) h
          extract_lets +onlyGivenNames s
          have h2 : s.memOk := State.enqueue_memOk (State.useMul_memOk h1 ..) ..
          clear_value s
          exact h2

theorem State.raceCell_memOk (h : s.memOk) (core bank m n : Nat) : (s.raceCell core bank m n).memOk := by
  unfold State.raceCell
  split
  · extract_lets -underBinder +onlyGivenNames go
    have h1 : ∀ (c : MulCmd) (op : MulCmd → ArrayOp), (go c op).memOk := by
      intro c op
      unfold go
      extract_lets +onlyGivenNames slot
      clear_value slot
      split
      · exact h
      · extract_lets +onlyGivenNames k lo hi x y
        split
        · exact h
        · exact h
    clear_value go
    split
    · exact h1 ..
    · exact h1 ..
    · exact h
  · exact h

theorem State.raceCells_memOk (h : s.memOk) (core : Nat) (cells : List (Nat × Nat)) : (s.raceCells core cells).memOk := by
  rw [State.raceCells]
  split
  · exact h
  · exact foldl_keeps State.memOk _ _ _ (fun s x h1 => State.raceCell_memOk h1 ..) h

theorem State.useScales_memOk (h : s.memOk) (r : PathRef) (cells : List (Nat × Nat)) : (s.useScales r cells).memOk := by
  unfold State.useScales
  split
  · exact h
  · extract_lets -underBinder +onlyGivenNames c one
    have h1 : ∀ (s : State), s.memOk → ∀ (d : Option DrainScale) (i : Nat), (one s d i).memOk := by
      intro s h1 d i
      unfold one
      split
      · exact h1
      · extract_lets +onlyGivenNames n
        exact State.vUse_memOk h1 ..
    clear_value one
    exact foldl_keeps State.memOk _ _ _ (fun s x h2 => h1 _ (h1 _ h2 ..) ..) h

theorem State.clearAcc_memOk (h : s.memOk) (r : PathRef) (ks : List Nat) : (s.clearAcc r ks).memOk := h

theorem rdLane_memOk (x : RdErr) : OkLane (rdLane x) := by
  unfold rdLane
  split
  · exact okLane_errAt
  · exact okLane_errAt
  · exact okLane_hold

theorem execMdrainRegister_memOk (h : s.memOk) (d : VReg) (a : SReg) (o : OFmt) (clr : Bool) :
    OkNext (execMdrainRegister d a o clr s) := by
  unfold execMdrainRegister
  refine okNext_issued ?_
  intro r
  refine State.legalIf_memOk h _ _ _ ?_
  extract_lets +onlyGivenNames c0
  refine Sweep.finish_memOk _ _ _ _ _ _ _ ?_ ?_
  · refine State.sweep_memOk h _ _ _ _ ?_
    intro a h1 a_1 a_2
    extract_lets +onlyGivenNames m n
    split
    · exact okLane h1
    · extract_lets +onlyGivenNames s
      have h2 : s.memOk := State.raceCells_memOk h1 ..
      clear_value s
      split
      · exact rdLane_memOk ..
      · extract_lets +onlyGivenNames s
        have h3 : s.memOk := State.useScales_memOk h2 ..
        clear_value s
        split
        · exact okLane h3
        · refine okLane ?_
          split
          · exact h3
          · exact h3
  · exact fun a h1 a_1 a_2 a_3 => h1

theorem State.drainElem_memOk (h : s.memOk) (r : PathRef) (o : OFmt) (red : RedOp) (va : DWord) (v : Nat) (bad : Bool) (lane : Nat) :
    OkLane (s.drainElem r o red va v bad lane) := by
  unfold State.drainElem
  extract_lets +onlyGivenNames n
  split
  · exact State.storeLane_memOk h ..
  · extract_lets -underBinder +onlyGivenNames spoil
    have h1 : ∀ (s : State), s.memOk → (spoil s).memOk := by
      intro s h1
      unfold spoil
      split
      · extract_lets +onlyGivenNames s
        have h2 : s.memOk := by
          unfold s
          split
          · exact h1
          · exact (calm_poisonFor ..).ok h1
        clear_value s
        exact (calm_noteFailed ..).ok h2
      · exact h1
    clear_value spoil
    split
    next s' ws out b e2 =>
      have ok2 : s'.memOk := okLane_of_ok e2 (State.rmwLane_memOk h ..)
      split
      · exact okLane (h1 _ ok2)
      · exact okLane ok2
    · exact State.rmwLane_memOk h ..

theorem State.drainRow_memOk {x1 : State} (h : x1.memOk) (r : PathRef) (o : OFmt) (red : RedOp) (m : Nat) (row : DWord) (x : List Nat)
    (x2 : List Out) : OkLane (State.drainRow r o red m row x x1 x2) := by
  match x with
  | [] =>
    rw [State.drainRow]
    exact okLane h
  | n :: ns =>
    unfold State.drainRow
    split
    · exact rdLane_memOk ..
    · extract_lets +onlyGivenNames va
      split
      next s ws more bad e =>
        have ok : s.memOk := okLane_of_ok e (State.drainElem_memOk h ..)
        exact State.drainRow_memOk ok ..
      · exact okLane_errAt
      · exact State.drainElem_memOk h ..

theorem execMdrainMemory_memOk (h : s.memOk) (a : SReg) (o : OFmt) (red : RedOp) (clr wide : Bool) :
    OkNext (execMdrainMemory a o red clr wide s) := by
  unfold execMdrainMemory
  refine okNext_issued ?_
  intro r
  refine State.legalIf_memOk h _ _ _ ?_
  refine State.withSlot_memOk h _ _ ?_
  intro i
  extract_lets +onlyGivenNames lanes cols row rest s
  have h1 : s.memOk := h
  clear_value s
  refine Sweep.finishLong_memOk _ _ _ _ _ _ _ _ _ _ ?_
  refine State.sweepMem_memOk h1 _ _ _ _ ?_
  intro a h2 a_1 a_2
  extract_lets +onlyGivenNames s
  have h3 : s.memOk := State.raceCells_memOk h2 ..
  clear_value s
  split
  next s ws out b e4 =>
    have ok4 : s.memOk := okLane_of_ok e4 (State.drainRow_memOk h3 ..)
    extract_lets +onlyGivenNames s
    have h5 : s.memOk := State.useScales_memOk ok4 ..
    clear_value s
    refine okLane ?_
    split
    · exact h5
    · exact h5
  · exact State.drainRow_memOk h3 ..

/-! ### Remote requests -/

theorem State.endRuns_memOk (h : s.memOk) (r : PathRef) (f : Nat) : (s.endRuns r f).memOk := h

theorem State.sendRun_memOk (h : s.memOk) (r : PathRef) (peer : Word) (body : PBody) (lanes : Mask) (dest : Option (Byte × Bool))
    (after : Option (Nat × Nat × Nat × DWord)) : (s.sendRun r peer body lanes dest after).memOk := h

theorem State.remoteAll_memOk (h : s.memOk) (r : PathRef) (k : RemoteKind) (d : Byte) (a : MAddr) (peer : VReg) (m : MDesc) :
    (s.remoteAll r k d a peer m).memOk := by
  unfold State.remoteAll
  extract_lets +onlyGivenNames t dOk
  refine State.legalIf_memOk h _ _ _ ?_
  refine State.withOwnSlot_memOk h _ _ ?_
  intro i
  extract_lets +onlyGivenNames lanes
  split
  · exact h
  · refine State.releaseIf_memOk h _ _ _ _ ?_
    intro t h1
    extract_lets +onlyGivenNames left
    clear_value left
    split
    · exact memOk_of_mem (State.advance_mem ..) (State.endRuns_memOk (memOk_of_mem (State.takeSlot_mem ..)
        (State.acquireIf_memOk h1 ..)) ..)
    · extract_lets +onlyGivenNames p g ea n bad sent after
      clear_value sent after
      split
      · refine State.takeStop_memOk ?_ ..
        exact h1
      · extract_lets +onlyGivenNames sync pod stays
        split
        · exact h1
        · split
          · exact h1
          · extract_lets +onlyGivenNames s
            have h2 : s.memOk := by
              unfold s
              split
              · exact State.drainSync_memOk h1 ..
              · exact h1
            clear_value s
            split
            · exact h2
            · extract_lets +onlyGivenNames dest
              exact h2

theorem execRld_memOk (h : s.memOk) (d : Byte) (a : MAddr) (peer : VReg) (m : MDesc) : OkNext (execRld d a peer m s) := by
  rw [execRld]
  exact okNext_issued (fun r => State.remoteAll_memOk h ..)

theorem execRst_memOk (h : s.memOk) (d : Byte) (a : MAddr) (peer : VReg) (m : MDesc) : OkNext (execRst d a peer m s) := by
  rw [execRst]
  exact okNext_issued (fun r => State.remoteAll_memOk h ..)

theorem execRatm_memOk (h : s.memOk) (d : Byte) (a : MAddr) (peer : VReg) (m : MDesc) : OkNext (execRatm d a peer m s) := by
  rw [execRatm]
  refine okNext_issued ?_
  intro r
  split
  · exact State.illegal_memOk h ..
  · exact State.remoteAll_memOk h ..

theorem execRatmr_memOk (h : s.memOk) (d : Byte) (a : MAddr) (peer : VReg) (m : MDesc) : OkNext (execRatmr d a peer m s) := by
  rw [execRatmr]
  refine okNext_issued ?_
  intro r
  split
  · exact State.illegal_memOk h ..
  · exact State.remoteAll_memOk h ..

theorem State.endRun_memOk (h : s.memOk) (q : Req) (lanes : List RLane) : (s.endRun q lanes).memOk := by
  unfold State.endRun
  extract_lets +onlyGivenNames s
  have h1 : s.memOk := (calm_modPath ..).ok (memOk_of_mem (State.regWrites_mem ..) h)
  clear_value s
  exact h1

theorem State.failRun_memOk (h : s.memOk) (q : Req) (cause sub lane : Nat) (va : DWord) (uncertain : Bool) :
    (s.failRun q cause sub lane va uncertain).memOk := by
  unfold State.failRun
  extract_lets +onlyGivenNames kind detail
  refine State.takeStop_memOk ?_ ..
  exact h

theorem State.remoteReply_memOk (h : s.memOk) (serial : Nat) (body : PBody) : (s.remoteReply serial body).memOk := by
  unfold State.remoteReply
  split
  · exact h
  · split
    · split
      · exact State.endRun_memOk h ..
      · exact State.failRun_memOk (State.endRun_memOk h ..) ..
    · exact State.failRun_memOk (State.endRun_memOk h ..) ..
    · exact h

theorem execRemoteTimeout_memOk (h : s.memOk) (serial : Nat) : OkNext (execRemoteTimeout serial s) := by
  unfold execRemoteTimeout
  split
  · exact okNext h
  · extract_lets +onlyGivenNames load f
    exact okNext (State.failRun_memOk (State.endRun_memOk h ..) ..)

theorem State.suspend_memOk (h : s.memOk) (serial : Nat) : (s.suspend serial).memOk := h

theorem execHoldNotice_memOk (h : s.memOk) (m : Via × Nat) : OkNext (execHoldNotice m s) := by
  rw [execHoldNotice]
  refine okNext ?_
  refine State.onMsg_memOk h _ _ ?_
  exact okOption h

theorem State.peerLoad_memOk (h : s.memOk) (c n : Nat) (acq : Bool) (va : DWord) :
    OkExcept (fun x => x.1.memOk) (s.peerLoad c n acq va) := by
  unfold State.peerLoad
  split
  · split
    · exact okExcept_error
    · exact okExcept h
  · split
    · exact okExcept_error
    · split
      · exact okExcept_error
      · exact okExcept h
  · exact okExcept_error

theorem State.peerStore_memOk (h : s.memOk) (c : Nat) (p : Packet) (n gti : Nat) (l : RLane) :
    OkExcept (fun x => x.1.memOk) (s.peerStore c p n gti l) := by
  rw [State.peerStore]
  split
  · exact okExcept_error
  · split
    · split
      · exact okExcept_error
      · split
        · exact okExcept_error
        next s e =>
          have ok : s.memOk := OkOption.out (State.firnStore_memOk h ..) e
          exact okExcept ok
    · exact okExcept_error

theorem State.peerAtomic_memOk (h : s.memOk) (c : Nat) (p : Packet) (op : AtomOp) (n : Nat) (l : RLane) :
    OkExcept (fun x => x.1.memOk) (s.peerAtomic c p op n l) := by
  unfold State.peerAtomic
  split
  · exact okExcept_error
  · split
    · exact okExcept_error
    · split
      · exact okExcept_error
      · extract_lets +onlyGivenNames old bits new
        clear_value new
        split
        · exact okExcept h
        · exact okExcept (State.homeWrite_memOk _ _ h)
    · exact okExcept_error

theorem peerLanes_memOk {s : State} (h : s.memOk) (f : State → RLane → PeerRes) (done x : List RLane)
    (hf : ∀ (a : State), a.memOk → ∀ (a_1 : RLane), OkExcept (fun x => x.1.memOk) (f a a_1)) : (peerLanes f s done x).1.memOk := by
  match x with
  | [] =>
    rw [peerLanes]
    exact h
  | l :: ls =>
    rw [peerLanes]
    split
    · exact h
    next s v e2 =>
      have ok2 : s.memOk := OkExcept.out (hf _ h ..) e2
      exact peerLanes_memOk ok2 _ _ _ hf

theorem State.answer_memOk (h : s.memOk) (p : Packet) (body : PBody) : (s.answer p body).memOk := by
  unfold State.answer
  split
  · exact State.remoteReply_memOk h ..
  · extract_lets +onlyGivenNames q
    exact h

theorem State.serve_memOk (h : s.memOk) (c : Nat) (p : Packet) : (s.serve c p).memOk := by
  unfold State.serve
  extract_lets +onlyGivenNames x
  have h1 : OkOption (fun x => x.1.memOk) x := by
    unfold x
    split
    · exact okOption (peerLanes_memOk h _ _ _ (fun a h1 a => State.peerLoad_memOk h1 ..))
    · exact okOption (peerLanes_memOk h _ _ _ (fun a h1 a => State.peerStore_memOk h1 ..))
    · exact okOption (peerLanes_memOk h _ _ _ (fun a h1 a => State.peerAtomic_memOk h1 ..))
    · exact okOption_none
  clear_value x
  split
  · exact h
  next s body =>
    have ok2 : s.memOk := OkOption.out h1 rfl
    refine State.answer_memOk ?_ ..
    exact ok2

theorem State.repeatAnswer_memOk (h : s.memOk) (p : Packet) : (s.repeatAnswer p).memOk := by
  unfold State.repeatAnswer
  split
  · exact h
  · exact h

theorem State.accept_memOk (h : s.memOk) (c : Nat) (p : Packet) : (s.accept c p).memOk := by
  unfold State.accept
  extract_lets +onlyGivenNames p load
  split
  · exact State.repeatAnswer_memOk h ..
  · split
    · extract_lets +onlyGivenNames s
      have h1 : s.memOk := by
        unfold s
        split
        · exact h
        · exact h
      clear_value s
      split <;> exact h1
    · split
      · exact h
      · split
        · exact h
        · exact State.serve_memOk h ..

theorem State.acceptHeld_memOk (h : s.memOk) (c : Nat) : (s.acceptHeld c).memOk := by
  unfold State.acceptHeld
  extract_lets +onlyGivenNames l
  refine foldl_keeps State.memOk _ _ _ (fun s p h1 => State.accept_memOk h1 ..) ?_
  exact h

/-! ### The region table -/

theorem State.noteRead_memOk (h : s.memOk) (table idx : Nat) (bs : List Byte) : (s.noteRead table idx bs).memOk := h

theorem State.logEntry_memOk (h : s.memOk) (ctx : Option Nat) (base : Nat) : (s.logEntry ctx base).memOk := by
  rw [State.logEntry]
  exact State.logRefused_memOk _ _ _ h ..

theorem State.noteRegions_memOk (h : s.memOk) (bad fell : List Nat) : (s.noteRegions bad fell).memOk := by
  unfold State.noteRegions
  extract_lets +onlyGivenNames base
  refine foldl_keeps State.memOk _ _ _ (fun s i h1 => ?_) h
  extract_lets +onlyGivenNames bs s
  have h2 : s.memOk := by
    unfold s
    split
    · exact State.logEntry_memOk h1 ..
    · exact h1
  clear_value s
  exact h2

theorem State.takeRegions_memOk (h : s.memOk) : s.takeRegions.memOk := by
  unfold State.takeRegions
  split
  · exact h
  · extract_lets +onlyGivenNames imm valid live bad base s
    have h1 : s.memOk := foldl_keeps State.memOk _ _ _ (fun s x h1 => State.logEntry_memOk h1 ..) h
    clear_value s
    exact h1

theorem State.readRegions_memOk (h : s.memOk) : s.readRegions.memOk := by
  unfold State.readRegions
  extract_lets +onlyGivenNames es good live pods bad fell s
  have h1 : s.memOk := State.noteRegions_memOk h ..
  clear_value s
  exact h1

theorem State.dropPod_memOk (h : s.memOk) : s.dropPod.memOk := by
  unfold State.dropPod
  split
  · exact h
  · extract_lets +onlyGivenNames pages units s
    have h1 : s.memOk := foldl_keeps State.memOk _ _ _ (fun s u h1 => State.purge_memOk _ h1 ..) h
    clear_value s
    exact foldl_keeps State.memOk _ _ _ (fun s u h2 => (calm_dropCopies ..).ok (State.writeBack_memOk _ h2 ..)) h1

/-! ### The boundary of a superstep -/

theorem State.applyAddr_memOk (h : s.memOk) (l : List FirnEntry) : (s.applyAddr l).1.memOk := by
  unfold State.applyAddr
  split
  · exact h
  · extract_lets +onlyGivenNames src detail
    split
    · exact State.logEvent_memOk _ _ _ ((calm_land ..).ok (memOk_of_mem (State.poisonFlake_mem ..) h)) ..
    · split
      · exact h
      · extract_lets +onlyGivenNames old r
        split
        · exact State.logEvent_memOk _ _ _ h ..
        · exact State.homeWrite_memOk _ _ h

theorem State.applyFirn_memOk (h : s.memOk) : s.applyFirn.1.memOk := by
  unfold State.applyFirn
  extract_lets +onlyGivenNames now mine pas
  refine foldl_keeps (fun x : State × Bool => x.1.memOk) _ _ _ (fun st pa h1 => ?_) h
  extract_lets +onlyGivenNames r
  have h2 : r.1.memOk := State.applyAddr_memOk h1 ..
  clear_value r
  exact h2

theorem State.stepWake_memOk (h : s.memOk) (n out : Nat) : (s.stepWake n out).memOk := by
  unfold State.stepWake
  extract_lets +onlyGivenNames s
  have h1 : s.memOk := by
    unfold s
    refine foldl_keeps State.memOk _ _ _ (fun s r h1 => ?_) h
    split
    · split
      · exact (calm_endWait ..).ok (State.acquireAct_memOk h1 ..)
      · exact h1
    · exact h1
  clear_value s
  exact h1

theorem State.firnReplay_memOk (h : s.memOk) : s.firnReplay.memOk := by
  rw [State.firnReplay]
  refine foldl_keeps State.memOk _ _ _ (fun s r h1 => ?_) h
  split
  · exact h1
  · exact h1

theorem State.depart_memOk (h : s.memOk) (complete : Bool) : (s.depart complete).memOk := by
  unfold State.depart
  extract_lets +onlyGivenNames n a out s s1 s2
  have h1 : a.1.memOk := by
    unfold a
    split
    · exact State.applyFirn_memOk h
    · exact h
  have h2 : s.memOk := h1
  have h3 : s1.memOk := h2
  have h4 : s2.memOk := State.dropPod_memOk (State.takeRegions_memOk (State.dropPod_memOk (State.firnReplay_memOk
    (State.stepWake_memOk h3 ..))))
  clear_value a s s1 s2
  exact foldl_keeps State.memOk _ _ _ (fun s c h5 => State.acceptHeld_memOk h5 ..) h4

theorem State.tell_memOk (h : s.memOk) (dsts : List Nat) (body : PBody) : (s.tell dsts body).memOk := by
  rw [State.tell]
  exact State.postAll_memOk h ..

theorem State.treeStep_memOk (h : s.memOk) : s.treeStep.memOk := by
  unfold State.treeStep
  extract_lets +onlyGivenNames n p lvl
  split
  · exact State.depart_memOk h ..
  · split
    · exact h
    · split
      · split
        · exact h
        · refine State.depart_memOk ?_ ..
          refine State.tell_memOk ?_ ..
          exact h
      · split
        · exact h
        · refine State.tell_memOk ?_ ..
          exact h

theorem State.abort_memOk (h : s.memOk) : s.abort.memOk := by
  unfold State.abort
  extract_lets +onlyGivenNames s
  have h1 : s.memOk := h
  clear_value s
  split
  · exact State.depart_memOk h1 ..
  · exact h1

theorem State.abortIf_memOk (h : s.memOk) : s.abortIf.memOk := by
  rw [State.abortIf]
  split
  · exact State.abort_memOk (State.tell_memOk h ..)
  · exact h

theorem State.stepCheck_memOk (h : s.memOk) (begun : Bool) : (s.stepCheck begun).memOk := by
  rw [State.stepCheck]
  split
  · refine State.treeStep_memOk ?_
    refine State.abortIf_memOk ?_
    exact h
  · exact h

theorem State.arriveMsg_memOk (h : s.memOk) (n : Nat) (node : Nat × Nat) : (s.arriveMsg n node).memOk := by
  unfold State.arriveMsg
  split
  · exact h
  · split
    · exact h
    · split
      · exact h
      · extract_lets +onlyGivenNames s n s1
        have h1 : s.memOk := h
        have h2 : s1.memOk := State.abortIf_memOk h1
        split
        · exact h2
        · split
          · exact State.treeStep_memOk h2
          · exact State.stepCheck_memOk h2 ..

theorem execArrive_memOk (h : s.memOk) (via : Via) (n : Nat) (node : Nat × Nat) : OkNext (execArrive via n node s) := by
  rw [execArrive]
  exact okNext (State.onMsg_memOk h _ _ (okOption (State.arriveMsg_memOk h ..)))

theorem State.decideMsg_memOk (h : s.memOk) (n : Nat) (d : Decision) : (s.decideMsg n d).memOk := by
  rw [State.decideMsg]
  split
  · exact h
  · split
    · split
      · exact State.depart_memOk h ..
      · exact h
    · exact State.abort_memOk h

theorem execBoundaryDecision_memOk (h : s.memOk) (via : Via) (n : Nat) (d : Decision) : OkNext (execBoundaryDecision via n d s) := by
  rw [execBoundaryDecision]
  exact okNext (State.onMsg_memOk h _ _ (okOption (State.decideMsg_memOk h ..)))

theorem State.outcome_memOk (h : s.memOk) (complete : Bool) : (s.outcome complete).memOk := by
  unfold State.outcome
  extract_lets +onlyGivenNames s
  have h1 : s.memOk := by
    unfold s
    refine State.tell_memOk ?_ ..
    exact h
  clear_value s
  split
  · split
    · exact State.depart_memOk h1 ..
    · exact h1
  · exact State.abort_memOk h1

theorem State.ask_memOk (h : s.memOk) : s.ask.memOk := by
  unfold State.ask
  extract_lets +onlyGivenNames s
  have h1 : s.memOk := h
  clear_value s
  split
  · exact State.outcome_memOk h1 ..
  · exact State.tell_memOk h1 ..

theorem State.heard_memOk (h : s.memOk) (rank : Nat) : (s.heard rank).memOk := by
  unfold State.heard
  split
  · extract_lets +onlyGivenNames s
    have h1 : s.memOk := h
    clear_value s
    split
    · exact State.outcome_memOk h1 ..
    · exact h1
  · exact h

theorem State.answerMsg_memOk (h : s.memOk) (src n : Nat) (complete : Option Bool) : (s.answerMsg src n complete).memOk := by
  rw [State.answerMsg]
  split
  · exact h
  · split
    · exact State.outcome_memOk h ..
    · exact State.heard_memOk h ..

theorem State.endColls_memOk (h : s.memOk) (hit : CollDesc → Bool) : (s.endColls hit).memOk := h

theorem State.failColl_memOk (h : s.memOk) (rank : Nat) : (s.failColl rank).memOk := h

theorem State.failMember_memOk (h : s.memOk) (rank : Nat) : (s.failMember rank).memOk := by
  unfold State.failMember
  split
  · exact h
  · extract_lets +onlyGivenNames s s1
    have h1 : s.memOk := by
      unfold s
      split
      · exact h
      · exact h
    have h2 : s1.memOk := h1
    clear_value s s1
    split
    · exact h2
    · split
      · exact State.abortIf_memOk h2
      · split
        · exact State.ask_memOk h2
        · exact State.heard_memOk h2 ..

theorem execMemberFailure_memOk (h : s.memOk) (rank : Nat) : OkNext (execMemberFailure rank s) := by
  rw [execMemberFailure]
  exact okNext (State.failMember_memOk h ..)

theorem State.queryMsg_memOk (h : s.memOk) (src n : Nat) : (s.queryMsg src n).memOk := by
  rw [State.queryMsg]
  split
  · exact State.tell_memOk h ..
  · split
    · refine State.tell_memOk ?_ ..
      exact h
    · exact h

theorem execFailureQuery_memOk (h : s.memOk) (via : Via) (n : Nat) : OkNext (execFailureQuery via n s) := by
  rw [execFailureQuery]
  exact okNext (State.onMsg_memOk h _ _ (okOption (State.queryMsg_memOk h ..)))

theorem execKeepAlive_memOk (h : s.memOk) (n : Nat) : OkNext (execKeepAlive n s) := by
  rw [execKeepAlive]
  split
  · refine okNext ?_
    refine State.tell_memOk ?_ ..
    exact h
  · exact okNext h

/-! ### Synchronising instructions -/

theorem execFence_memOk (h : s.memOk) (ord : Order) (scope : Scope) : OkNext (execFence ord scope s) := by
  rw [execFence]
  refine okNext_issued ?_
  intro r
  refine State.releaseIf_memOk h _ _ _ _ ?_
  intro t h1
  refine State.acquire_memOk h1 _ _ _ _ _ ?_
  exact fun a h2 => h2

theorem execFlwait_memOk (h : s.memOk) (m : BitVec 12) : OkNext (execFlwait m s) := by
  unfold execFlwait
  refine okNext_issued ?_
  intro r
  extract_lets +onlyGivenNames p
  split
  · exact h
  · split
    · refine State.takeStop_memOk ?_ ..
      exact h
    · exact h

theorem State.seeTags_memOk (h : s.memOk) (r : PathRef) (l : List Nat) (k : State → State) (hk : ∀ (a : State), a.memOk → (k a).memOk) :
    (s.seeTags r l k).memOk := by
  unfold State.seeTags
  extract_lets +onlyGivenNames m n
  split
  · refine State.takeStop_memOk ?_ ..
    exact h
  · extract_lets +onlyGivenNames old sc
    refine hk _ ?_
    refine State.acquireAct_memOk ?_ ..
    exact h

theorem execTwany_memOk (h : s.memOk) (d a : SReg) : OkNext (execTwany d a s) := by
  unfold execTwany
  refine okNext_issued ?_
  intro r
  extract_lets +onlyGivenNames m l
  split
  · exact h
  · split
    · exact h
    · refine State.seeTags_memOk h _ _ _ ?_
      exact fun a h1 => h1

theorem execTwall_memOk (h : s.memOk) (a : SReg) : OkNext (execTwall a s) := by
  unfold execTwall
  refine okNext_issued ?_
  intro r
  extract_lets +onlyGivenNames m l
  split
  · refine State.seeTags_memOk h _ _ _ ?_
    exact fun a h1 => h1
  · exact h

theorem execTffr_memOk (h : s.memOk) (d : SReg) : OkNext (execTffr d s) := by
  unfold execTffr
  refine okNext_issued ?_
  intro r
  extract_lets +onlyGivenNames c free
  clear_value free
  split <;> exact h

theorem execTclr_memOk (h : s.memOk) (t : BitVec 6) : OkNext (execTclr t s) := by
  unfold execTclr
  refine okNext_issued ?_
  intro r
  extract_lets +onlyGivenNames n m
  split
  · exact h
  · split
    · exact h
    · refine State.seeTags_memOk h _ _ _ ?_
      exact fun a h1 => h1

theorem execBar_memOk (h : s.memOk) (id : BitVec 2) (scope : BarScope) : OkNext (execBar id scope s) := by
  unfold execBar
  refine okNext_issued ?_
  intro r
  split
  · exact State.takeStop_memOk h ..
  · refine State.release_memOk h _ _ _ ?_
    intro t h1
    extract_lets +onlyGivenNames n
    refine State.barArrive_memOk ?_ ..
    exact h1

theorem execDieArrived_memOk (h : s.memOk) (grid : Nat) (id : BitVec 2) (inst : Nat) : OkNext (execDieArrived grid id inst s) := by
  unfold execDieArrived
  extract_lets +onlyGivenNames m
  split
  · refine okNext ?_
    refine (calm_barSweep ..).ok ?_
    exact h
  · exact okNext h

theorem execComplete_memOk (h : s.memOk) (grid : Nat) (id : BitVec 2) (inst : Nat) : OkNext (execComplete grid id inst s) := by
  unfold execComplete
  extract_lets +onlyGivenNames m
  split
  · refine okNext ?_
    refine (calm_barSweep ..).ok ?_
    exact h
  · exact okNext h

theorem execMwait_memOk (h : s.memOk) (d a : SReg) : OkNext (execMwait d a s) := by
  unfold execMwait
  refine okNext_issued ?_
  intro r
  extract_lets +onlyGivenNames off
  have h1 : ∀ (s : State), s.memOk → (off s).memOk := fun s h1 => h1
  clear_value off
  split
  · exact h
  · split
    · exact (calm_endWait ..).ok (h1 _ h)
    · split
      · exact (calm_endWait ..).ok (h1 _ h)
      · exact h

theorem execGrin_memOk (h : s.memOk) : OkNext (execGrin s) := by
  unfold execGrin
  refine okNext_issued ?_
  intro r
  split
  · exact State.takeStop_memOk h ..
  · extract_lets +onlyGivenNames s
    have h1 : s.memOk := by
      unfold s
      split
      · exact State.acquireAct_memOk h ..
      · exact h
    clear_value s
    exact h1

theorem execGrout_memOk (h : s.memOk) : OkNext (execGrout s) := by
  unfold execGrout
  refine okNext_issued ?_
  intro r
  split
  · exact State.takeStop_memOk h ..
  · refine State.release_memOk h _ _ _ ?_
    intro t h1
    extract_lets +onlyGivenNames s
    have h2 : s.memOk := h1
    clear_value s
    split
    · exact (calm_graceLeave ..).ok h2
    · exact h2

theorem execGrq_memOk (h : s.memOk) (d : SReg) : OkNext (execGrq d s) := by
  unfold execGrq
  refine okNext_issued ?_
  intro r
  extract_lets +onlyGivenNames g v
  exact h

theorem execGrwait_memOk (h : s.memOk) (d : SReg) : OkNext (execGrwait d s) := by
  unfold execGrwait
  refine okNext_issued ?_
  intro r
  refine State.afterAll_memOk h _ _ _ ?_
  intro t h1
  extract_lets +onlyGivenNames c q
  have h2 : q.1.memOk := State.graceRequest_memOk h1 ..
  clear_value q
  refine (calm_graceSettle ..).ok ?_
  exact h2

theorem execGrfree_memOk (h : s.memOk) (d a : SReg) : OkNext (execGrfree d a s) := by
  unfold execGrfree
  refine okNext_issued ?_
  intro r
  extract_lets +onlyGivenNames c x
  split
  · exact State.takeStop_memOk h ..
  · split
    · exact h
    · refine State.afterAll_memOk h _ _ _ ?_
      intro t h1
      extract_lets -underBinder +onlyGivenNames q e s
      have h2 : q.1.memOk := State.graceRequest_memOk h1 ..
      have h3 : s.memOk := by
        unfold s
        refine State.homeWrite_memOk _ _ ?_
        exact h2
      clear_value q s
      refine (calm_graceSettle ..).ok ?_
      exact h3

theorem execGrpop_memOk (h : s.memOk) (d : SReg) : OkNext (execGrpop d s) := by
  unfold execGrpop
  refine okNext_issued ?_
  intro r
  extract_lets +onlyGivenNames c x
  split
  · split
    · extract_lets -underBinder +onlyGivenNames k v t
      have h1 : t.memOk := h
      clear_value t
      exact memOk_of_mem (State.advance_mem ..) (memOk_of_mem (State.startLate_mem ..) (State.acquireAct_memOk h1 ..))
    · exact h
  · exact h

theorem execStep_memOk (h : s.memOk) (d : SReg) : OkNext (execStep d s) := by
  unfold execStep
  refine okNext_issued ?_
  intro r
  split
  · exact State.takeStop_memOk h ..
  · refine State.release_memOk h _ _ _ ?_
    intro t h1
    split
    · exact h1
    · extract_lets +onlyGivenNames n s t at' here
      have h2 : s.memOk := h1
      clear_value s
      refine State.stepCheck_memOk ?_ ..
      exact h2

theorem execStepq_memOk (h : s.memOk) (d : SReg) : OkNext (execStepq d s) := by
  unfold execStepq
  refine okNext_issued ?_
  intro r
  extract_lets +onlyGivenNames v
  exact h

theorem State.withSlot_okState (h : OkState s) (r : PathRef) (k : Nat → State) (hk : ∀ i, OkState (k i)) : OkState (s.withSlot r k) :=
  ⟨State.withSlot_memOk h.ok r k fun i => (hk i).ok⟩

theorem State.release_okState (h : OkState s) (r : PathRef) (sc : Scope) (k : State → State) (hk : ∀ t, OkState t → OkState (k t)) :
    OkState (s.release r sc k) :=
  ⟨State.release_memOk h.ok r sc k fun t ht => (hk t ⟨ht⟩).ok⟩

theorem State.withUsed_okState (h : OkState s) {α : Type} (r : PathRef) (v : View) (at' : List (DWord × Nat)) (x : Except RdErr α)
    (k : State → α → State) (hk : ∀ a, OkState a → ∀ b, OkState (k a b)) : OkState (s.withUsed r v at' x k) :=
  ⟨State.withUsed_memOk h.ok r v at' x k fun a ha b => (hk a ⟨ha⟩ b).ok⟩

end Sys2Proof.Machine
end

section
/-! SUPPORT. Engine commands, placement, grids and launches keep memory in its canonical form. -/

namespace Sys2Proof.Machine

variable {s : State}

/-! ### Engine commands -/

theorem State.vFirn_memOk {s : State} (h : s.memOk) (v : View) (x : Xlat) (va : DWord) (size : Nat) (x1 : List Byte) (x2 : Nat) :
    OkExcept State.memOk (s.vFirn v x va size x1 x2) := by
  match x2 with
  | 0 =>
    rw [State.vFirn]
    exact okExcept h
  | k + 1 =>
    unfold State.vFirn
    split
    · exact okExcept_error
    · split
      · exact okExcept_error
      next s e =>
        have ok : s.memOk := OkOption.out (State.firnStore_memOk h ..) e
        exact State.vFirn_memOk ok ..

theorem State.recallCopies_memOk (h : s.memOk) (k n : Nat) : (s.recallCopies k n).memOk := by
  unfold State.recallCopies
  split
  · exact h
  · extract_lets +onlyGivenNames hit us s
    have h1 : s.memOk := foldl_keeps State.memOk _ _ _ (fun s u h1 => (calm_dropCopies ..).ok (State.l1ToRdc_memOk _ h1 ..)) h
    clear_value s
    exact foldl_keeps State.memOk _ _ _ (fun s u h2 => (calm_dropCopies ..).ok (State.writeBack_memOk _ h2 ..)) h1

theorem State.vWrite_memOk (h : s.memOk) (v : View) (va : DWord) (bs : List Byte) : OkExcept State.memOk (s.vWrite v va bs) := by
  unfold State.vWrite
  extract_lets +onlyGivenNames n
  split
  · exact okExcept h
  · split
    · exact okExcept_error
    · split
      · exact okExcept_error
      · extract_lets -underBinder +onlyGivenNames put
        have h1 : ∀ (x : Unit), OkExcept State.memOk (put x) := by
          intro x
          unfold put
          extract_lets +onlyGivenNames s
          have h1 : s.memOk := by
            unfold s
            split
            · exact State.recallCopies_memOk h ..
            · exact h
          clear_value s
          exact okExcept ((calm_displace ..).ok (State.writeFor_memOk _ _ h1 ..))
        clear_value put
        split
        · exact h1 ..
        · split
          · exact okExcept_error
          · exact h1 ..
        · split
          · exact okExcept_error
          · exact h1 ..
        · extract_lets +onlyGivenNames z
          split
          · exact okExcept_error
          · exact State.vFirn_memOk h ..
        · exact okExcept_error

theorem State.vWriteAll_memOk {s : State} (h : s.memOk) (v : View) (x : Nat) (x1 : DWord) (x2 : List Byte) :
    OkExcept State.memOk (s.vWriteAll v x x1 x2) := by
  match x with
  | 0 =>
    rw [State.vWriteAll]
    exact okExcept h
  | fuel + 1 =>
    unfold State.vWriteAll
    split
    · exact okExcept h
    · extract_lets +onlyGivenNames n
      split
      · exact okExcept_error
      next s e =>
        have ok : s.memOk := OkExcept.out (State.vWrite_memOk h ..) e
        exact State.vWriteAll_memOk ok ..

theorem State.vPut_memOk (h : s.memOk) (v : View) (va : DWord) (bs : List Byte) : OkExcept State.memOk (s.vPut v va bs) := by
  rw [State.vPut]
  exact State.vWriteAll_memOk h ..

theorem State.podPoison_memOk (h : s.memOk) (v : View) (x : Xlat) (lo hi size : Nat) : (s.podPoison v x lo hi size).memOk := by
  unfold State.podPoison
  split
  · exact h
  · refine foldl_keeps State.memOk _ _ _ (fun s i h1 => ?_) h
    extract_lets +onlyGivenNames a
    split
    · exact h1
    · exact okOption_getD (State.firnStore_memOk h1 ..) h1

theorem State.vPoison_memOk (h : s.memOk) (v : View) (va len : Nat) : (s.vPoison v va len).memOk := by
  unfold State.vPoison
  split
  · exact h
  · refine foldl_keeps State.memOk _ _ _ (fun s i h1 => ?_) h
    extract_lets +onlyGivenNames lo hi
    split
    · exact (calm_poisonFor ..).ok h1
    · exact (calm_poisonFor ..).ok h1
    · split
      · exact memOk_of_mem (State.poisonFlake_mem ..) h1
      · exact h1
    · split
      · exact State.podPoison_memOk h1 ..
      · exact h1
    · exact h1

theorem State.objArrive_memOk (h : s.memOk) (v : View) (sc : Scope) (obj : DWord) (gen : Nat) :
    OkExcept State.memOk (s.objArrive v sc obj gen) := by
  unfold State.objArrive
  split
  · exact okExcept h
  · split
    · exact okExcept_error
    · extract_lets +onlyGivenNames s s1 o status
      have h1 : s.memOk := (calm_fillHost ..).ok (State.releaseCore_memOk _ h ..)
      have h2 : s1.memOk := by
        unfold s1
        split
        · exact State.purge_memOk _ h1 ..
        · exact (calm_useSpans ..).ok h1
      have h3 : ∀ (b found : Nat) (s : State), s.memOk → (status b found s).memOk := fun b found s h =>
        State.logEvent_memOk _ _ _ (State.csrPut_memOk h _ _ _) ..
      clear_value status
      split
      · exact okExcept (h3 _ _ _ h2)
      · extract_lets +onlyGivenNames count new s
        have h4 : s.memOk := (calm_displace ..).ok (State.writeFor_memOk _ _ h2 ..)
        clear_value s
        refine okExcept ?_
        split
        · exact h3 _ _ _ h4
        · exact h4

theorem State.engineIssue_memOk (h : s.memOk) (r : PathRef) (tag : BitVec 6) (k : State → State)
    (hk : ∀ (a : State), a.memOk → (k a).memOk) : (s.engineIssue r tag k).memOk := by
  rw [State.engineIssue]
  split
  · exact State.takeStop_memOk h ..
  · refine State.release_memOk h _ _ _ ?_
    intro t h2
    split
    · exact h2
    · exact hk _ h2

theorem State.submit_memOk (h : s.memOk) (r : PathRef) (tag : BitVec 6) (kind : EngKind) (phase : EngPhase) :
    (s.submit r tag kind phase).memOk := h

theorem State.slotIf_memOk (h : s.memOk) (r : PathRef) (hold : Bool) (k : Option Nat → State) (hk : ∀ (a : Option Nat), (k a).memOk) :
    (s.slotIf r hold k).memOk := by
  rw [State.slotIf]
  split
  · exact State.withSlot_memOk h _ _ (fun i => hk ..)
  · exact hk ..

theorem State.submitCopy_memOk (h : s.memOk) (r : PathRef) (d : SReg) (tag : BitVec 6) (hold : Option Nat) (kind : EngKind) :
    (s.submitCopy r d tag hold kind).memOk := by
  unfold State.submitCopy
  split
  · exact h
  · split
    · exact h
    · refine State.advance_memOk ?_ ..
      refine State.startPend_memOk ?_ ..
      exact h

theorem execCpy_memOk (h : s.memOk) (d a : SReg) (sp hold : Bool) (tag : BitVec 6) : OkNext (execCpy d a sp hold tag s) := by
  unfold execCpy
  refine okNext_issued ?_
  intro r
  refine State.slotIf_memOk h _ _ _ ?_
  intro a
  refine State.engineIssue_memOk h _ _ _ ?_
  intro a h1
  extract_lets +onlyGivenNames v va rd bad
  have h2 : bad.memOk := State.takeStop_memOk h1 ..
  clear_value bad
  refine State.alignedTo_memOk h1 _ _ _ _ ?_
  refine State.withRead_memOk h1 _ _ _ ?_
  intro a
  split
  · exact h2
  · split
    · exact h2
    · split
      · exact State.xerr_memOk _ _ h1 ..
      · extract_lets +onlyGivenNames used
        exact State.withUsed_memOk h1 _ _ _ _ _ (fun a h3 a_1 => State.submitCopy_memOk h3 ..)

theorem execCpyx_memOk (h : s.memOk) (d a : SReg) (hold : Bool) (tag : BitVec 6) : OkNext (execCpyx d a hold tag s) := by
  unfold execCpyx
  refine okNext_issued ?_
  intro r
  refine State.slotIf_memOk h _ _ _ ?_
  intro a
  refine State.engineIssue_memOk h _ _ _ ?_
  intro a h1
  extract_lets +onlyGivenNames va
  refine State.alignedTo_memOk h1 _ _ _ _ ?_
  refine State.readUnits_memOk h1 _ _ _ _ _ _ ?_
  intro a h2 a_1
  extract_lets +onlyGivenNames bad
  have h3 : bad.memOk := State.takeStop_memOk h2 ..
  clear_value bad
  split
  · exact h3
  · split
    · exact State.xerr_memOk _ _ h2 ..
    · split
      · exact State.xerr_memOk _ _ h2 ..
      · split
        · exact State.xerr_memOk _ _ h2 ..
        · exact State.submitCopy_memOk h2 ..

theorem State.noteRace_memOk (h : s.memOk) (e : EngCmd) (slot off n : Nat) : (s.noteRace e slot off n).memOk := h

theorem State.engPut_memOk (h : s.memOk) (e : EngCmd) (p : Place) (setf : Bool) (bs : List Byte) :
    OkExcept State.memOk (s.engPut e p setf bs) := by
  unfold State.engPut
  split
  · exact State.vWrite_memOk h ..
  · split
    · exact okExcept_error
    · extract_lets +onlyGivenNames s
      have h1 : s.memOk := by
        unfold s
        split
        · exact State.releaseCore_memOk _ h ..
        · exact h
      clear_value s
      exact okExcept h1
  · split
    · exact okExcept_error
    · split
      · exact okExcept_error
      · exact okExcept h

theorem State.engCopy_memOk {s : State} (h : s.memOk) (e : EngCmd) (setf : Bool) (x : Nat) (x1 x2 : Place) (x3 : Nat) :
    OkExcept State.memOk (s.engCopy e setf x x1 x2 x3) := by
  match x with
  | 0 =>
    rw [State.engCopy]
    exact okExcept h
  | fuel + 1 =>
    unfold State.engCopy
    split
    · exact okExcept h
    · extract_lets +onlyGivenNames n
      split
      · exact okExcept_error
      · extract_lets +onlyGivenNames s
        have h1 : s.memOk := by
          unfold s
          split
          · exact State.vUse_memOk h ..
          · exact h
        clear_value s
        split
        · exact okExcept_error
        next s e2 =>
          have ok2 : s.memOk := OkExcept.out (State.engPut_memOk h1 ..) e2
          exact State.engCopy_memOk ok2 ..

theorem Run.move_memOk (x : Run) (e : EngCmd) (setf : Bool) (src dst : Place) (len : Nat) (hx : x.s.memOk) :
    OkExcept (fun x => x.s.memOk) (x.move e setf src dst len) := by
  unfold Run.move
  extract_lets +onlyGivenNames to'
  split
  · exact okExcept_error
  next s e =>
    have ok : s.memOk := OkExcept.out (State.engCopy_memOk hx ..) e
    exact okExcept ok

theorem Run.rows_memOk (e : EngCmd) (setf : Bool) (src dst : Place) (rl : Nat) (ss ds : ℤ) (x x1 : Nat) (x2 : Run) (hx2 : x2.s.memOk) :
    OkExcept (fun x => x.s.memOk) (Run.rows e setf src dst rl ss ds x x1 x2) := by
  match x with
  | 0 =>
    rw [Run.rows]
    exact okExcept hx2
  | k + 1 =>
    rw [Run.rows]
    split
    · exact okExcept_error
    next x e =>
      have ok : x.s.memOk := OkExcept.out (Run.move_memOk _ _ _ _ _ _ hx2) e
      exact Run.rows_memOk _ _ _ _ _ _ _ _ _ _ ok

theorem runChain_memOk (e : EngCmd) (orig : List ChainEntry) (x x1 : Nat) (x2 : List ChainEntry) (x3 : Store Nat) (x4 : Run)
    (hx4 : x4.s.memOk) : OkExcept (fun x => x.s.memOk) (runChain e orig x x1 x2 x3 x4) := by
  match x with
  | 0 =>
    rw [runChain]
    exact okExcept hx4
  | fuel + 1 =>
    unfold runChain
    split
    · exact okExcept hx4
    · exact okExcept hx4
    · split
      · exact okExcept_error
      next x e =>
        have ok : x.s.memOk := OkExcept.out (Run.move_memOk _ _ _ _ _ _ hx4) e
        exact runChain_memOk _ _ _ _ _ _ _ ok
    · split
      · exact okExcept_error
      next x e =>
        have ok : x.s.memOk := OkExcept.out (Run.rows_memOk _ _ _ _ _ _ _ _ _ _ hx4) e
        exact runChain_memOk _ _ _ _ _ _ _ ok
    · extract_lets +onlyGivenNames done body
      split
      · extract_lets +onlyGivenNames es
        exact runChain_memOk _ _ _ _ _ _ _ hx4
      · extract_lets +onlyGivenNames es
        exact runChain_memOk _ _ _ _ _ _ _ hx4
    · split
      · exact okExcept_error
      · extract_lets +onlyGivenNames t
        have h1 : t.memOk := by
          unfold t
          split
          · exact hx4
          · exact State.vUse_memOk hx4 ..
        clear_value t
        refine runChain_memOk _ _ _ _ _ _ _ ?_
        exact h1
    · split
      · exact okExcept_error
      next s e =>
        have ok : s.memOk := OkExcept.out (State.objArrive_memOk hx4 ..) e
        refine runChain_memOk _ _ _ _ _ _ _ ?_
        exact ok

theorem runIndexed_memOk (e : EngCmd) (d : CpyxDesc) (x x1 : Nat) (x2 : Run) (hx2 : x2.s.memOk) :
    OkExcept (fun x => x.s.memOk) (runIndexed e d x x1 x2) := by
  match x with
  | 0 =>
    rw [runIndexed]
    exact okExcept hx2
  | k + 1 =>
    unfold runIndexed
    split
    · exact okExcept_error
    · extract_lets +onlyGivenNames x far lin m
      have h1 : x.s.memOk := State.vUse_memOk hx2 ..
      have h2 : OkExcept (fun x => x.s.memOk) m := by
        unfold m
        split <;> exact Run.move_memOk _ _ _ _ _ _ h1
      clear_value x m
      split
      · exact okExcept_error
      next x =>
        have ok3 : x.s.memOk := OkExcept.out h2 rfl
        exact runIndexed_memOk _ _ _ _ _ ok3

theorem State.poisonPlace_memOk (h : s.memOk) (e : EngCmd) (x : Place × Nat) : (s.poisonPlace e x).memOk := by
  unfold State.poisonPlace
  split
  · exact State.vPoison_memOk h ..
  · split
    · exact h
    · split
      · exact h
      · exact h
  · split
    · exact h
    · exact h

theorem execColl_memOk (h : s.memOk) (a : SReg) (tag : BitVec 6) : OkNext (execColl a tag s) := by
  unfold execColl
  refine okNext_issued ?_
  intro r
  refine State.engineIssue_memOk h _ _ _ ?_
  intro a h1
  extract_lets +onlyGivenNames va v bad
  have h2 : bad.memOk := State.takeStop_memOk h1 ..
  clear_value bad
  split
  · exact State.takeStop_memOk h1 ..
  · refine State.alignedTo_memOk h1 _ _ _ _ ?_
    refine State.readUnits_memOk h1 _ _ _ _ _ _ ?_
    intro a h3 a_1
    extract_lets +onlyGivenNames n g obj
    split
    · exact h2
    · refine State.readUnits_memOk h3 _ _ _ _ _ _ ?_
      intro a h4 a_1
      refine State.withUsed_memOk h4 _ _ _ _ _ ?_
      intro a h5 a_1
      split
      · exact h2
      · exact h5

theorem State.collStep_memOk (h : s.memOk) (e : EngCmd) (d : CollDesc) (nodes : List (Nat × Nat × List DWord)) :
    OkExcept (fun x => x.1.memOk) (s.collStep e d nodes) := by
  unfold State.collStep
  extract_lets +onlyGivenNames p nodes new nodes1 s
  have h1 : s.memOk := foldl_keeps State.memOk _ _ _ (fun s x h1 => State.postAll_memOk h1 ..) h
  clear_value s
  split
  · exact okExcept h1
  · split
    · exact okExcept_error
    next s e2 =>
      have ok2 : s.memOk := OkExcept.out (State.vPut_memOk h1 ..) e2
      exact okExcept ok2

theorem State.modEngine_memOk (h : s.memOk) (n : Nat) (f : EngCmd → EngCmd) : (s.modEngine n f).memOk := h

theorem State.engineStop_memOk (h : s.memOk) (e : EngCmd) (i : StopInfo) : (s.engineStop e i).memOk := by
  unfold State.engineStop
  extract_lets +onlyGivenNames hd c bs s s1
  have h1 : s.memOk := h
  have h2 : s1.memOk := h1
  clear_value s s1
  exact State.fqAdd_memOk _ _ _ h2

theorem State.poisonAll_memOk (h : s.memOk) (e : EngCmd) (ds : List (Place × Nat)) : (s.poisonAll e ds).memOk := by
  rw [State.poisonAll]
  exact foldl_keeps State.memOk _ _ _ (fun s x h1 => State.poisonPlace_memOk h1 ..) h

theorem State.engError_memOk (h : s.memOk) (e : EngCmd) (ds : List (Place × Nat)) : (s.engError e ds).memOk := by
  rw [State.engError]
  exact State.modEngine_memOk (State.poisonAll_memOk h ..) ..

theorem State.engFault_memOk (h : s.memOk) (e : EngCmd) (er : EngErr) (ds : List (Place × Nat)) : (s.engFault e er ds).memOk := by
  unfold State.engFault
  split
  · extract_lets +onlyGivenNames stop
    have h1 : ∀ (s : State), s.memOk → (stop s).memOk := fun s h1 => State.engineStop_memOk h1 ..
    clear_value stop
    split
    · exact h1 _ h
    · split
      · exact State.engError_memOk h ..
      · exact h1 _ (State.modEngine_memOk (State.poisonAll_memOk h ..) ..)
  · exact h
  · exact State.modEngine_memOk (memOk_of_mem (State.atsAsk_mem ..) h) ..
  · exact h

/-! ### Placement of crews -/

theorem State.useKd_memOk (h : s.memOk) (v : View) (va : DWord) : (s.useKd v va).memOk := by
  unfold State.useKd
  split
  · exact h
  · extract_lets +onlyGivenNames s
    have h1 : s.memOk := State.vUse_memOk h ..
    clear_value s
    split
    · split
      · exact h1
      · split
        · exact State.vUse_memOk h1 ..
        · exact h1
    · exact h1

theorem State.setUpCore_memOk (h : s.memOk) (core : Nat) (k : KDesc) : (s.setUpCore core k).memOk := by
  unfold State.setUpCore
  extract_lets -underBinder +onlyGivenNames src src1 s
  have hc : src.memOk := (calm_dropCopies ..).ok (State.flushHome_memOk _ h ..)
  clear_value src src1
  have h1 : s.memOk := by
    unfold s
    split
    · exact h
    · exact State.csrPut_memOk (State.csrPut_memOk (State.csrPut_memOk hc ..) ..) ..
  clear_value s
  exact h1

theorem State.refreeze_memOk (h : s.memOk) (core : Nat) : (s.refreeze core).memOk := by
  unfold State.refreeze
  extract_lets +onlyGivenNames f
  refine foldl_keeps State.memOk _ _ _ ?_ h
  exact fun s c h1 => h1

theorem State.startTeams_memOk {s : State} (h : s.memOk) (k : KDesc) (src : GridSource) (crew : Nat) (x : List (Nat × TeamDesc)) :
    (s.startTeams k src crew x).memOk := by
  match x with
  | [] =>
    rw [State.startTeams]
    exact h
  | (num, d) :: rest =>
    rw [State.startTeams]
    refine State.startTeams_memOk ?_ ..
    exact h

theorem State.placeCrew_memOk (h : s.memOk) (g idx cidx core : Nat) (pos : Nat × Nat × Nat) :
    (s.placeCrew g idx cidx core pos).memOk := by
  unfold State.placeCrew
  extract_lets +onlyGivenNames gr s k s1 n
  have h1 : s.memOk := State.acquireCore_memOk _ h ..
  have h2 : s1.memOk := by
    unfold s1
    split
    · exact State.setUpCore_memOk h1 ..
    · exact h1
  clear_value s s1
  refine State.refreeze_memOk ?_ ..
  refine State.startTeams_memOk ?_ ..
  exact h2

theorem State.placeCrews_memOk {s : State} (h : s.memOk) (g idx : Nat) (x : List (Nat × (Nat × Nat × Nat) × Nat)) :
    (s.placeCrews g idx x).memOk := by
  match x with
  | [] =>
    rw [State.placeCrews]
    exact h
  | (i, pos, core) :: rest =>
    rw [State.placeCrews]
    exact State.placeCrews_memOk (State.placeCrew_memOk h ..) ..

theorem State.placeCluster_memOk (h : s.memOk) (g idx hw : Nat) (cores : List Nat) : (s.placeCluster g idx hw cores).memOk := by
  unfold State.placeCluster
  extract_lets +onlyGivenNames first old gone left pos s c
  have h1 : s.memOk := State.placeCrews_memOk h ..
  clear_value s
  exact h1

theorem State.placeAll_memOk {s : State} (h : s.memOk) (mask : BitVec 6) (g : Nat) (x : List Nat) :
    OkOption State.memOk (s.placeAll mask g x) := by
  match x with
  | [] =>
    rw [State.placeAll]
    exact okOption h
  | x_1 :: xs =>
    rw [State.placeAll]
    split
    · exact okOption_none
    · exact State.placeAll_memOk (State.placeCluster_memOk h ..) ..

/-! ### Grids -/

theorem State.addGrid_memOk (h : s.memOk) (g : Grid) : (s.addGrid g).1.memOk := h

theorem State.endGrid_memOk (h : s.memOk) (hd cause : Nat) : (s.endGrid hd cause).memOk := by
  rw [State.endGrid]
  refine (calm_meetDeps ..).ok ?_
  refine (calm_completionRecord ..).ok ?_
  exact h

theorem State.refuse_memOk (h : s.memOk) (hd cause : Nat) : (s.refuse hd cause).memOk := by
  unfold State.refuse
  extract_lets +onlyGivenNames g s
  have h1 : s.memOk := by
    unfold s
    split
    · exact State.logRefused_memOk _ _ _ h ..
    · exact h
  clear_value s
  exact State.endGrid_memOk h1 ..

theorem State.takeIn_memOk (h : s.memOk) (hd d v : Nat) : (s.takeIn hd d v).memOk := h

theorem State.allocate_memOk (h : s.memOk) (d parent src req : Nat) (key : BitVec 32) :
    OkOption (fun x => x.1.memOk) (s.allocate d parent src req key) := by
  unfold State.allocate
  extract_lets +onlyGivenNames u
  split
  · exact okOption_none
  · split
    · exact okOption_none
    · extract_lets +onlyGivenNames peers s
      have h1 : s.memOk := h
      clear_value s
      split
      · exact okOption h1
      · extract_lets +onlyGivenNames k s
        have h2 : s.memOk := h1
        clear_value s
        exact okOption (State.postAll_memOk h2 ..)

theorem State.enter_memOk (h : s.memOk) (hd : Nat) (pend : Option Nat) : (s.enter hd pend).1.memOk := by
  unfold State.enter
  extract_lets +onlyGivenNames s c g
  have h1 : s.memOk := h
  clear_value s
  split
  · exact State.refuse_memOk h1 ..
  · split
    · exact h1
    · extract_lets -underBinder +onlyGivenNames req wait
      have h2 : ∀ (s : State), s.memOk → (wait s).1.memOk := fun s h2 => h2
      clear_value wait
      split
      · exact State.refuse_memOk h1 ..
      · split
        · split
          · exact State.refuse_memOk h1 ..
          next s v e3 =>
            have ok3 : s.memOk := OkOption.out (State.allocate_memOk h1 ..) e3
            exact ok3
          next s fst e3 =>
            have ok3 : s.memOk := OkOption.out (State.allocate_memOk h1 ..) e3
            exact h2 _ ok3
        · extract_lets +onlyGivenNames t
          have h3 : t.1.memOk := h2 _ h1
          clear_value t
          exact h3

theorem State.giveResult_memOk (h : s.memOk) (pend : Option Nat) (f : SReg → DWord) : (s.giveResult pend f).memOk := h

theorem State.allocAnswered_memOk (h : s.memOk) (req : Nat) (ver : Option Nat) : (s.allocAnswered req ver).memOk := by
  unfold State.allocAnswered
  split
  · exact h
  · extract_lets +onlyGivenNames s out
    have h1 : s.memOk := h
    have h2 : out.1.memOk := by
      unfold out
      split
      · exact h1
      · split
        · exact State.refuse_memOk h1 ..
        · split
          · exact h1
          · split
            · exact h1
            · exact State.endGrid_memOk h1 ..
    clear_value s out
    exact State.giveResult_memOk h2 ..

theorem State.releaseAll_memOk (h : s.memOk) : s.releaseAll.memOk := by
  unfold State.releaseAll
  extract_lets +onlyGivenNames s
  have h1 : s.memOk := foldl_keeps State.memOk _ _ _ (fun s u h1 => State.l1ToRdc_memOk _ h1 ..) h
  clear_value s
  exact foldl_keeps State.memOk _ _ _ (fun s u h2 => State.writeBack_memOk _ h2 ..) h1

theorem execGridStart_memOk (h : s.memOk) (hd : Nat) : OkNext (execGridStart hd s) := by
  rw [execGridStart]
  split
  · split
    · exact okNext (State.endGrid_memOk (State.releaseAll_memOk h) ..)
    · exact okNext h
  · exact okNext h

theorem execGridCompletion_memOk (h : s.memOk) (hd : Nat) : OkNext (execGridCompletion hd s) := by
  rw [execGridCompletion]
  split
  · exact okNext (State.endGrid_memOk (State.releaseAll_memOk h) ..)
  · exact okNext h

/-! ### Launches, work queues and resolves -/

theorem execLaunch_memOk (h : s.memOk) (d a : SReg) (hold : Bool) : OkNext (execLaunch d a hold s) := by
  unfold execLaunch
  refine okNext_issued ?_
  intro r
  refine State.withOwnSlot_memOk h _ _ ?_
  intro i
  refine State.release_memOk ?_ _ _ _ ?_
  · exact h
  · intro t h1
    extract_lets +onlyGivenNames va v
    refine State.alignedTo_memOk h1 _ _ _ _ ?_
    refine State.readUnits_memOk h1 _ _ _ _ _ _ ?_
    intro a h2 a_1
    extract_lets +onlyGivenNames rec'
    refine State.withRead_memOk h2 _ _ _ ?_
    intro a
    extract_lets +onlyGivenNames s
    have h3 : s.memOk := State.useKd_memOk h2 ..
    clear_value s
    split
    · exact h3
    · extract_lets +onlyGivenNames ser s
      have h4 : s.memOk := h3
      clear_value s
      have h5 := State.addGrid_memOk h4 (s.newGrid r rec' a hold)
      generalize s.addGrid (s.newGrid r rec' a hold) = y at h5 ⊢
      obtain ⟨s1, g⟩ := y
      dsimp only at h5 ⊢
      split
      · exact State.advance_memOk (State.giveResult_memOk h5 ..) ..
      · have h6 := State.enter_memOk h5 g (some ser)
        generalize s1.enter g (some ser) = x at h6 ⊢
        split
        · exact State.advance_memOk h6 ..
        · exact State.advance_memOk (State.giveResult_memOk h6 ..) ..

theorem State.launchCart_memOk (h : s.memOk) (c : Cart) : (s.launchCart c).memOk := by
  unfold State.launchCart
  extract_lets -underBinder +onlyGivenNames s src src1 g
  have h1 : s.memOk := h
  clear_value s
  exact (calm_modGrid ..).ok (State.enter_memOk (State.addGrid_memOk h1 ..) ..)

theorem State.appendCart_memOk (h : s.memOk) (r : PathRef) (kdesc : DWord) (kd : KDesc) (x : List Word) :
    (s.appendCart r kdesc kd x).memOk := by
  unfold State.appendCart
  extract_lets -underBinder +onlyGivenNames s
  have h1 : s.memOk := by
    unfold s
    split <;> exact h
  clear_value s
  split
  · split
    · exact State.launchCart_memOk h1 ..
    · exact h1
  · exact h1

theorem State.spawnLanes_memOk {s : State} (h : s.memOk) (r : PathRef) (va : DWord) (kd : KDesc) (vs : List VReg) (x : List Nat) :
    (s.spawnLanes r va kd vs x).memOk := by
  match x with
  | [] =>
    rw [State.spawnLanes]
    exact h
  | x_1 :: xs =>
    rw [State.spawnLanes]
    split
    · exact h
    · exact State.spawnLanes_memOk ((calm_modPath ..).ok (State.appendCart_memOk h ..)) ..

theorem execSpawn_memOk (h : s.memOk) (len : BitVec 3) (a : SReg) (b : VReg) : OkNext (execSpawn len a b s) := by
  unfold execSpawn
  refine okNext_issued ?_
  intro r
  extract_lets +onlyGivenNames n
  refine State.legalIf_memOk h _ _ _ ?_
  refine State.release_memOk h _ _ _ ?_
  intro t h1
  extract_lets +onlyGivenNames lanes va
  split
  · exact h1
  · refine State.alignedTo_memOk h1 _ _ _ _ ?_
    refine State.withRead_memOk h1 _ _ _ ?_
    intro a
    extract_lets +onlyGivenNames s
    have h2 : s.memOk := State.useKd_memOk h1 ..
    clear_value s
    split
    · exact State.takeStop_memOk h2 ..
    · exact State.spawnLanes_memOk h2 ..

theorem execCartTimerExpiry_memOk (h : s.memOk) (id : Nat) : OkNext (execCartTimerExpiry id s) := by
  unfold execCartTimerExpiry
  split
  · exact okNext h
  · split
    · exact okNext h
    · exact okNext (State.launchCart_memOk (State.passTo_memOk h ..) ..)

theorem State.applyCount_memOk (h : s.memOk) (c : Nat) (x : CountEntry) : (s.applyCount c x).1.memOk := by
  unfold State.applyCount
  split
  · exact h
  · split
    · split
      · exact h
      · split <;> exact h
    · extract_lets +onlyGivenNames g
      split
      · extract_lets +onlyGivenNames set
        exact h
      · exact h

theorem State.applyCounts_memOk {s : State} (h : s.memOk) (v : View) (table : DWord) (x : Nat) (x1 : List CountEntry)
    (x2 : List (Bool × Nat)) (x3 : Nat) : (s.applyCounts v table x x1 x2 x3).1.memOk := by
  match x1 with
  | [] =>
    rw [State.applyCounts]
    exact h
  | x_4 :: xs =>
    rw [State.applyCounts]
    split
    next s o e =>
      have ok := memOk_of_fst e (State.applyCount_memOk h ..)
      exact State.applyCounts_memOk ok ..
    next s e =>
      have ok := memOk_of_fst e (State.applyCount_memOk h ..)
      exact State.applyCounts_memOk (State.logEvent_memOk _ _ _ ok ..) ..

theorem State.releaseHeld_memOk (h : s.memOk) (o : Bool × Nat) : (s.releaseHeld o).memOk := by
  unfold State.releaseHeld
  split
  · split <;> exact h
  · refine State.enter_memOk ?_ ..
    exact h

theorem execCntp_memOk (h : s.memOk) (d a b : SReg) : OkNext (execCntp d a b s) := by
  unfold execCntp
  refine okNext_issued ?_
  intro r
  refine State.withSlot_memOk h _ _ ?_
  intro i
  refine State.release_memOk h _ _ _ ?_
  intro t h1
  extract_lets +onlyGivenNames va n v
  refine State.alignedTo_memOk h1 _ _ _ _ ?_
  split
  · exact State.takeStop_memOk h1 ..
  · refine State.readUnits_memOk h1 _ _ _ _ _ _ ?_
    intro a h2 w
    extract_lets +onlyGivenNames es
    have h3 := State.applyCounts_memOk h2 v va 0 es [] 0
    generalize a.applyCounts v va 0 es [] 0 = y at h3 ⊢
    obtain ⟨s1, objs, k⟩ := y
    dsimp only at h3 ⊢
    split
    · exact h2
    · exact State.advance_memOk (State.startPend_memOk (foldl_keeps State.memOk _ _ _
        (fun s o h => State.releaseHeld_memOk h o) h3) ..) ..

theorem State.disableQueue_memOk (h : s.memOk) (q : Nat) : (s.disableQueue q).memOk := by
  unfold State.disableQueue
  extract_lets +onlyGivenNames w
  refine State.logRefused_memOk _ _ _ ?_ ..
  exact h

theorem State.withQueue_memOk (h : s.memOk) (r : PathRef) (q : Nat) (kind : WqEnt → Bool) (no : State → State) (k : WqEnt → State)
    (hno : ∀ (a : State), a.memOk → (no a).memOk) (hk : ∀ (a : WqEnt), (k a).memOk) : (s.withQueue r q kind no k).memOk := by
  unfold State.withQueue
  extract_lets +onlyGivenNames w
  split
  · exact hno _ h
  · split
    · exact hno _ (State.disableQueue_memOk h ..)
    · exact hk ..
theorem State.withQueue_okState (h : OkState s) (r : PathRef) (q : Nat) (kind : WqEnt → Bool) (no : State → State) (k : WqEnt → State)
    (hno : ∀ a, OkState a → OkState (no a)) (hk : ∀ a, OkState (k a)) : OkState (s.withQueue r q kind no k) :=
  ⟨State.withQueue_memOk h.ok r q kind no k (fun a ha => (hno a ⟨ha⟩).ok) fun a => (hk a).ok⟩

theorem execWqpush_memOk (h : s.memOk) (d a b : SReg) : OkNext (execWqpush d a b s) := by
  unfold execWqpush
  refine okNext_issued_of fun r => ?_
  refine State.withSlot_okState ⟨h⟩ _ _ fun i => ?_
  refine State.release_okState ⟨h⟩ _ _ _ fun t h1 => ?_
  extract_lets +onlyGivenNames q fin
  have h2 : ∀ (x : Nat) (s : State), OkState s → OkState (fin x s) := fun x s h2 =>
    ⟨State.advance_memOk (State.startPend_memOk h2.ok ..) ..⟩
  clear_value fin
  refine State.withQueue_okState h1 _ _ _ _ _ (fun a h3 => h2 _ _ h3) fun w => ?_
  split
  · exact h2 _ _ h1
  · refine State.withUsed_okState h1 _ _ _ _ _ fun a h3 bs => ?_
    extract_lets +onlyGivenNames p
    exact h2 _ _ ⟨State.homeWrite_memOk _ _ (State.homeWrite_memOk _ _ h3.ok)⟩

theorem execWqpop_memOk (h : s.memOk) (d a b : SReg) : OkNext (execWqpop d a b s) := by
  unfold execWqpop
  refine okNext_issued_of fun r => ?_
  refine State.withSlot_okState ⟨h⟩ _ _ fun i => ?_
  extract_lets +onlyGivenNames q fin
  have h1 : ∀ (x : Nat) (s : State), OkState s → OkState (fin x s) := fun x s h1 =>
    ⟨State.advance_memOk (State.startPend_memOk h1.ok ..) ..⟩
  clear_value fin
  refine State.withQueue_okState ⟨h⟩ _ _ _ _ _ (fun a h2 => h1 _ _ h2) fun w => ?_
  extract_lets +onlyGivenNames c
  split
  · exact h1 _ _ ⟨h⟩
  · split
    · exact ⟨State.takeStop_memOk h ..⟩
    · extract_lets +onlyGivenNames s va
      have h2 : s.memOk := State.acquireAct_memOk h ..
      clear_value s
      split
      · exact ⟨State.xerr_memOk _ _ h2 ..⟩
      · exact ⟨State.xerr_memOk _ _ h2 ..⟩
      · exact ⟨State.xerr_memOk _ _ h2 ..⟩
      · exact ⟨memOk_of_mem (State.waitFor_mem ..) h2⟩
      next s' e3 =>
        have ok3 : s'.memOk := OkExcept.out (State.vPut_memOk h2 ..) e3
        exact h1 _ _ ⟨State.homeWrite_memOk _ _ ok3⟩

theorem execResolve_memOk (h : s.memOk) (d a b : SReg) : OkNext (execResolve d a b s) := by
  unfold execResolve
  refine okNext_issued ?_
  intro r
  refine State.withSlot_memOk h _ _ ?_
  intro i
  refine State.release_memOk h _ _ _ ?_
  intro t h1
  extract_lets +onlyGivenNames dm leaf x fin
  have h2 : ∀ (v : DWord) (s : State), s.memOk → (fin v s).memOk := fun v s h2 => State.advance_memOk (State.startPend_memOk h2 ..) ..
  clear_value fin
  split
  · exact h2 _ _ h1
  · split
    · exact h2 _ _ h1
    · extract_lets +onlyGivenNames com sq peers s s1 v
      have h3 : s.memOk := State.applyResolve_memOk h1 ..
      have h4 : s1.memOk := h3
      clear_value s s1
      split
      · exact h2 _ _ h4
      · extract_lets +onlyGivenNames ser s n s1
        have h5 : s.memOk := State.advance_memOk (State.startPend_memOk h4 ..) ..
        have h6 : s1.memOk := h5
        clear_value s s1
        exact State.postAll_memOk h6 ..

theorem State.watchQueues_memOk (h : s.memOk) : s.watchQueues.memOk := by
  rw [State.watchQueues]
  exact foldl_keeps State.memOk _ _ _ (fun s q h1 => State.disableQueue_memOk h1 ..) h

theorem State.visited_memOk (h : s.memOk) (q : Nat) : (s.visited q).memOk := h

theorem execLaunchQueueRecord_memOk (h : s.memOk) (q : Nat) : OkNext (execLaunchQueueRecord q s) := by
  unfold execLaunchQueueRecord
  split
  · exact okNext h
  · extract_lets +onlyGivenNames w
    split
    · exact okNext (State.disableQueue_memOk h ..)
    · extract_lets -underBinder +onlyGivenNames s c rec' v go
      have h1 : s.memOk := State.visited_memOk h ..
      have h2 : ∀ (kd : KDesc), (go kd).memOk := by
        intro kd
        unfold go
        extract_lets +onlyGivenNames s
        have h2 : s.memOk := State.homeWrite_memOk _ _ h1
        clear_value s
        exact State.enter_memOk (State.addGrid_memOk h2 _) ..
      clear_value s go
      split
      · exact okNext (h2 _)
      · exact okNext (memOk_of_mem (State.atsAsk_mem ..) h1)
      · exact okNext (h2 _)

end Sys2Proof.Machine
end

section
/-! SUPPORT. The KV unit, the sampler and the run of engine commands keep memory in its canonical form. -/

namespace Sys2Proof.Machine

variable {s : State}

/-! ### KV commands -/

theorem State.kvIssue_memOk (h : s.memOk) (r : PathRef) (op : KvOp) (a : SReg) (tag : BitVec 6) : (s.kvIssue r op a tag).memOk := by
  unfold State.kvIssue
  refine State.engineIssue_memOk h _ _ _ ?_
  intro a h1
  extract_lets +onlyGivenNames va v bad
  have h2 : bad.memOk := State.takeStop_memOk h1 ..
  clear_value bad
  refine State.alignedTo_memOk h1 _ _ _ _ ?_
  refine State.readUnits_memOk h1 _ _ _ _ _ _ ?_
  intro a h3 a_1
  extract_lets +onlyGivenNames srcva obj
  refine State.alignedTo_memOk h3 _ _ _ _ ?_
  refine State.alignedTo_memOk h3 _ _ _ _ ?_
  split
  · exact h2
  · refine State.readUnits_memOk h3 _ _ _ _ _ _ ?_
    intro a h4 a_1
    refine State.withUsed_memOk h4 _ _ _ _ _ ?_
    intro a h5 a_1
    refine State.withUsed_memOk h5 _ _ _ _ _ ?_
    intro a h6 a_1
    split
    · exact h2
    · split
      · exact h2
      · split
        · exact h2
        · extract_lets +onlyGivenNames sp
          clear_value sp
          split
          · exact State.xerr_memOk _ _ h6 ..
          · exact h6

theorem execGath_memOk (h : s.memOk) (a : SReg) (tag : BitVec 6) : OkNext (execGath a tag s) := by
  rw [execGath]
  exact okNext_issued (fun r => State.kvIssue_memOk h ..)

theorem execKvap_memOk (h : s.memOk) (a : SReg) (tag : BitVec 6) : OkNext (execKvap a tag s) := by
  rw [execKvap]
  exact okNext_issued (fun r => State.kvIssue_memOk h ..)

theorem execKvseal_memOk (h : s.memOk) (a : SReg) (tag : BitVec 6) : OkNext (execKvseal a tag s) := by
  rw [execKvseal]
  exact okNext_issued (fun r => State.kvIssue_memOk h ..)

theorem execKvcopy_memOk (h : s.memOk) (a : SReg) (tag : BitVec 6) : OkNext (execKvcopy a tag s) := by
  rw [execKvcopy]
  exact okNext_issued (fun r => State.kvIssue_memOk h ..)

theorem State.kvPutGo_memOk {s : State} (h : s.memOk) (v : View) (x : Nat) (x1 : DWord) (x2 : List Byte) :
    OkExcept State.memOk (s.kvPutGo v x x1 x2) := by
  match x with
  | 0 =>
    rw [State.kvPutGo]
    exact okExcept h
  | fuel + 1 =>
    unfold State.kvPutGo
    split
    · exact okExcept h
    · extract_lets +onlyGivenNames k
      refine okExcept_bind okExcept_read fun __r _ => ?_
      refine okExcept_bind (okExcept_mapError (State.vWrite_memOk h ..)) fun s h1 => ?_
      exact State.kvPutGo_memOk h1 ..

theorem State.kvPut_memOk (h : s.memOk) (v : View) (va : DWord) (bs : List Byte) : OkExcept State.memOk (s.kvPut v va bs) := by
  rw [State.kvPut]
  exact State.kvPutGo_memOk h ..

theorem State.kvUse_memOk (h : s.memOk) (v : View) (q : SeqRec) (b : Nat) : (s.kvUse v q b).memOk := by
  unfold State.kvUse
  split
  · exact State.vUse_memOk (State.vUse_memOk h ..) ..
  · exact h

theorem State.kvPutTail_memOk (h : s.memOk) (v : View) (q : SeqRec) (t : Tail) : OkExcept State.memOk (s.kvPutTail v q t) := by
  rw [State.kvPutTail]
  refine okExcept_bind (State.kvPut_memOk h ..) fun s h1 => ?_
  refine okExcept_bind (State.kvPut_memOk h1 ..) fun s h2 => ?_
  refine okExcept_bind (State.kvPut_memOk h2 ..) fun s h3 => ?_
  exact State.kvPut_memOk h3 ..

theorem State.kvFill_memOk {s : State} (hs : s.memOk) (v : View) (q : SeqRec) (o : Nat) (x : List (Bool × Nat × List Nat)) (x1 : Tail) :
    OkExcept (fun x => x.1.memOk) (s.kvFill v q o x x1) := by
  match x with
  | [] =>
    rw [State.kvFill]
    exact okExcept hs
  | (part, h, vals) :: rest =>
    rw [State.kvFill]
    refine okExcept_bind (State.kvPut_memOk hs ..) fun s h1 => ?_
    exact State.kvFill_memOk h1 ..

theorem State.kvAppend_memOk (h : s.memOk) (e : EngCmd) (c : KvCmd) : OkExcept State.memOk (s.kvAppend e c) := by
  unfold State.kvAppend
  extract_lets +onlyGivenNames v q b o
  refine okExcept_bind okExcept_read fun en _ => ?_
  split
  · exact okExcept_error
  · refine okExcept_bind okExcept_read fun t _ => ?_
    split
    · exact okExcept_error
    · extract_lets -underBinder +onlyGivenNames t n __do_jp
      have h1 : ∀ (x : List Byte), OkExcept State.memOk (__do_jp x) := by
        intro x
        unfold __do_jp
        extract_lets +onlyGivenNames w rows
        refine okExcept_bind (State.kvFill_memOk h ..) fun st h1 => ?_
        exact State.kvPutTail_memOk h1 ..
      clear_value __do_jp
      split
      · refine okExcept_bind okExcept_read fun bs _ => ?_
        exact h1 ..
      · refine okExcept_bind okExcept_read fun bs _ => ?_
        exact h1 ..

theorem State.kvSealTail_memOk (h : s.memOk) (e : EngCmd) (c : KvCmd) : OkExcept State.memOk (s.kvSealTail e c) := by
  unfold State.kvSealTail
  extract_lets +onlyGivenNames v q
  refine okExcept_bind okExcept_read fun t _ => ?_
  split
  · exact okExcept_error
  · split
    · exact okExcept_error
    · refine okExcept_bind okExcept_read fun en _ => ?_
      split
      · exact okExcept_error
      · extract_lets +onlyGivenNames blk sc hs
        refine okExcept_bind okExcept_read fun rows _ => ?_
        refine okExcept_bind (State.kvPut_memOk h ..) fun s h1 => ?_
        refine okExcept_bind (State.kvPut_memOk h1 ..) fun s h2 => ?_
        refine okExcept_bind (State.kvPut_memOk h2 ..) fun s h3 => ?_
        refine okExcept_bind (State.kvPut_memOk h3 ..) fun s h4 => ?_
        exact State.kvPut_memOk h4 ..

theorem State.kvCopyTail_memOk (h : s.memOk) (e : EngCmd) (c : KvCmd) : OkExcept State.memOk (s.kvCopyTail e c) := by
  unfold State.kvCopyTail
  extract_lets +onlyGivenNames v q src heads
  refine okExcept_bind okExcept_read fun k _ => ?_
  refine okExcept_bind okExcept_read fun w _ => ?_
  refine okExcept_bind okExcept_read fun en _ => ?_
  split
  · exact okExcept_error
  · refine okExcept_bind okExcept_read fun t _ => ?_
    split
    · exact okExcept_error
    · extract_lets +onlyGivenNames rows
      refine okExcept_bind (okExcept_mapError (State.kvFill_memOk h ..)) fun st h1 => ?_
      exact okExcept_mapError (State.kvPutTail_memOk h1 ..)

theorem State.gathPut_memOk (h : s.memOk) (e : EngCmd) (c : KvCmd) (va : DWord) (bs : List Byte) :
    OkExcept State.memOk (s.gathPut e c va bs) := by
  unfold State.gathPut
  split
  · extract_lets +onlyGivenNames p
    exact okExcept_mapError (State.engPut_memOk h ..)
  · exact State.kvPut_memOk h ..

theorem State.gathGo_memOk {x2 : State} (h : x2.memOk) (e : EngCmd) (c : KvCmd) (x x1 : Nat) (x3 : List (Place × Nat)) :
    OkKv State.memOk (State.gathGo e c x x1 x2 x3) := by
  match x with
  | 0 =>
    rw [State.gathGo]
    exact okKv h
  | fuel + 1 =>
    unfold State.gathGo
    split
    · exact okKv h
    · extract_lets +onlyGivenNames b lo hi heads
      split
      · exact okKv_error h
      · extract_lets +onlyGivenNames put
        have h1 : ∀ acc y, OkKv (fun x => x.1.memOk) acc → OkKv (fun x => x.1.memOk) (put acc y) := by
          intro acc y ha
          unfold put
          split
          · exact okKv_error (ha.err rfl)
          · extract_lets +onlyGivenNames bs va pl
            split
            · exact okKv_error (ha.out rfl)
            next s' e1 =>
              have ok : s'.memOk := OkExcept.out (State.gathPut_memOk (ha.out rfl) ..) e1
              exact okKv ok
        clear_value put
        split
        next f e1 => exact okKv_error ((foldl_keeps _ _ _ _ h1 (okKv (State.kvUse_memOk h ..))).err e1)
        next s' ds e1 =>
          have ok : s'.memOk := (foldl_keeps _ _ _ _ h1 (okKv (State.kvUse_memOk h ..))).out e1
          exact State.gathGo_memOk ok ..

theorem State.kvRun_memOk (h : s.memOk) (e : EngCmd) (c : KvCmd) : OkKv State.memOk (s.kvRun e c) := by
  unfold State.kvRun
  extract_lets +onlyGivenNames one
  have h1 : ∀ x b, OkExcept State.memOk x → OkKv State.memOk (one x b) := fun x b hx => okKv_mapError hx fun er => h
  clear_value one
  split
  · exact State.gathGo_memOk h ..
  · exact h1 _ _ (State.kvAppend_memOk h ..)
  · exact h1 _ _ (State.kvSealTail_memOk h ..)
  · exact okKv_mapError (State.kvCopyTail_memOk h ..) fun er => h

theorem State.kvLog_memOk (h : s.memOk) (e : EngCmd) (c : KvCmd) (cause blk : Nat) : (s.kvLog e c cause blk).memOk := by
  rw [State.kvLog]
  exact State.logEvent_memOk _ _ _ h ..

/-! ### The sampler -/

theorem execSmpl_memOk (h : s.memOk) (d a : SReg) (tag : BitVec 6) : OkNext (execSmpl d a tag s) := by
  unfold execSmpl
  refine okNext_issued ?_
  intro r
  refine State.engineIssue_memOk h _ _ _ ?_
  intro a h1
  extract_lets +onlyGivenNames v job ca bad
  have h2 : bad.memOk := State.takeStop_memOk h1 ..
  clear_value bad
  refine State.alignedTo_memOk h1 _ _ _ _ ?_
  split
  · exact State.xerr_memOk _ _ h1 ..
  · split
    · exact h2
    · refine State.readUnits_memOk h1 _ _ _ _ _ _ ?_
      intro a h3 a_1
      refine State.alignedTo_memOk h3 _ _ _ _ ?_
      refine State.withRead_memOk h3 _ _ _ ?_
      intro a
      split
      · exact h2
      · split
        · exact h2
        · extract_lets +onlyGivenNames es obj
          refine State.withUsed_memOk h3 _ _ _ _ _ ?_
          intro a h4 a_1
          refine State.withUsed_memOk h4 _ _ _ _ _ ?_
          intro a h5 a_1
          split
          · exact h2
          · extract_lets +onlyGivenNames cmd
            exact h5

theorem State.slotPut_memOk (h : s.memOk) (e : EngCmd) (va : DWord) (bs : List Byte) : OkExcept State.memOk (s.slotPut e va bs) := by
  rw [State.slotPut]
  exact okExcept_mapError (State.kvPut_memOk h ..)

theorem State.openWork_memOk (h : s.memOk) (e : EngCmd) (c : SmplCmd) (j : Nat) : OkExcept State.memOk (s.openWork e c j) := by
  unfold State.openWork
  extract_lets +onlyGivenNames base bs
  refine State.slotPut_memOk ?_ ..
  exact h

theorem State.setSlot_memOk (h : s.memOk) (n : Nat) (c : SmplCmd) (j : Nat) (p : SlotPhase) (trapped : Bool) :
    (s.setSlot n c j p trapped).memOk := h

theorem State.slotTrap_memOk (h : s.memOk) (e : EngCmd) (c : SmplCmd) (j : Nat) (x : SlotRec) (status stage : Nat) :
    OkExcept State.memOk (s.slotTrap e c j x status stage) := by
  unfold State.slotTrap
  extract_lets +onlyGivenNames t
  split
  · exact okExcept h
  · exact okExcept_error
  next s e =>
    have ok : s.memOk := OkExcept.out (State.vPut_memOk h ..) e
    extract_lets +onlyGivenNames s
    have h2 : s.memOk := by
      unfold s
      split
      · exact State.logEvent_memOk _ _ _ ok ..
      · exact ok
    clear_value s
    exact okExcept h2

theorem State.emitWords_memOk {s : State} (h : s.memOk) (e : EngCmd) (x : List (DWord × Nat)) :
    OkExcept State.memOk (s.emitWords e x) := by
  match x with
  | [] =>
    rw [State.emitWords]
    exact okExcept h
  | (va, x_1) :: rest =>
    rw [State.emitWords]
    refine okExcept_bind (State.slotPut_memOk h ..) fun s h1 => ?_
    exact State.emitWords_memOk h1 ..

theorem State.slotEmit_memOk (h : s.memOk) (e : EngCmd) (c : SmplCmd) (j : Nat) (x : SlotRec) (r : SlotRun) :
    OkExcept State.memOk (s.slotEmit e c j x r) := by
  unfold State.slotEmit
  refine okExcept_bind (State.emitWords_memOk h ..) fun s h1 => ?_
  extract_lets +onlyGivenNames leaf err
  refine okExcept_bind (okExcept_mapError (State.vPut_memOk h1 ..)) fun s h2 => ?_
  refine okExcept_bind (okExcept_mapError (State.vPut_memOk h2 ..)) fun s h3 => ?_
  exact okExcept h3

theorem State.callGrid_memOk (h : s.memOk) (e : EngCmd) (c : SmplCmd) (j : Nat) (x : SlotRec) (r : SlotRun) (kd : KDesc) (arg : DWord) :
    (s.callGrid e c j x r kd arg).1.memOk := by
  unfold State.callGrid
  extract_lets -underBinder +onlyGivenNames regs src src1 g
  exact State.enter_memOk (State.addGrid_memOk h ..) ..

theorem State.slotCall_memOk (h : s.memOk) (e : EngCmd) (c : SmplCmd) (j : Nat) (x : SlotRec) (r : SlotRun) (w : List Nat) (budget : Nat)
    (kdesc arg : DWord) : OkExcept State.memOk (s.slotCall e c j x r w budget kdesc arg) := by
  unfold State.slotCall
  split
  · exact okExcept_error
  · exact State.slotTrap_memOk h ..
  next s' e1 =>
    have ok : s'.memOk := OkExcept.out (State.slotPut_memOk h ..) e1
    split
    · split
      · exact State.slotTrap_memOk h ..
      · exact okExcept_error
    next kd e2 =>
      split
      · exact okExcept_error
      · have h1 := State.callGrid_memOk (State.useKd_memOk ok e.view kdesc) e c j x r kd arg
        generalize ((s'.useKd e.view kdesc).callGrid e c j x r kd arg) = y at h1 ⊢
        obtain ⟨s1, g, no⟩ := y
        dsimp only
        split
        · exact State.slotTrap_memOk h1 ..
        · exact okExcept (State.setSlot_memOk h1 ..)

theorem State.slotHalt_memOk (h : s.memOk) (e : EngCmd) (c : SmplCmd) (j : Nat) (x : SlotRec) (x1 : SlotHalt) :
    OkExcept State.memOk (s.slotHalt e c j x x1) := by
  unfold State.slotHalt
  split
  · exact okExcept_error
  · exact State.slotTrap_memOk h ..
  · exact State.slotCall_memOk h ..
  · split
    next s e =>
      have ok : s.memOk := OkExcept.out (State.slotEmit_memOk h ..) e
      exact okExcept ok
    · exact okExcept_error
    · exact State.slotTrap_memOk h ..

theorem State.slotDone_memOk (h : s.memOk) (e : EngCmd) (x : Except EngErr State) (hx : OkExcept State.memOk x) :
    (s.slotDone e x).memOk := by
  unfold State.slotDone
  split
  next t =>
    have ok2 : t.memOk := OkExcept.out hx rfl
    exact ok2
  · exact State.engFault_memOk h ..

theorem State.slotStart_memOk (h : s.memOk) (e : EngCmd) (c : SmplCmd) (j : Nat) (x : SlotRec) : (s.slotStart e c j x).memOk := by
  unfold State.slotStart
  extract_lets -underBinder +onlyGivenNames start
  have h1 : OkExcept (fun x => x.1.memOk) start := by
    unfold start
    refine okExcept_bind okExcept_read fun t _ => ?_
    extract_lets +onlyGivenNames r
    refine okExcept_bind okExcept_read fun w _ => ?_
    refine okExcept_bind (State.openWork_memOk h ..) fun s h1 => ?_
    exact okExcept h1
  clear_value start
  refine State.slotDone_memOk h _ _ ?_
  split
  · exact okExcept_error
  · exact State.slotTrap_memOk h ..
  next t r w =>
    have ok2 : t.memOk := OkExcept.out h1 rfl
    extract_lets +onlyGivenNames t
    have h3 : t.memOk := State.vUse_memOk (State.vUse_memOk ok2 ..) ..
    clear_value t
    exact State.slotHalt_memOk h3 ..

theorem State.withSlotOf_memOk (h : s.memOk) (n j : Nat) (k : EngCmd → SmplCmd → SlotRec → SlotPhase → State)
    (hk : ∀ (a : EngCmd) (a_1 : SmplCmd) (a_2 : SlotRec) (a_3 : SlotPhase), (k a a_1 a_2 a_3).memOk) : (s.withSlotOf n j k).memOk := by
  unfold State.withSlotOf
  split
  · exact h
  · split
    · split
      · split
        · exact hk ..
        · exact h
      · exact h
    · exact h

theorem execSamplerSlotRun_memOk (h : s.memOk) (n slot : Nat) : OkNext (execSamplerSlotRun n slot s) := by
  rw [execSamplerSlotRun]
  refine okNext ?_
  refine State.withSlotOf_memOk h _ _ _ ?_
  intro a a a a
  split
  · exact State.slotStart_memOk h ..
  · exact h

theorem State.killGrid_memOk (h : s.memOk) (hd : Nat) : (s.killGrid hd).memOk := by
  unfold State.killGrid
  extract_lets +onlyGivenNames s x
  have h1 : s.memOk := foldl_keeps State.memOk _ _ _ (fun s t h1 => (calm_killTeam ..).ok h1) h
  have h2 : x.memOk := h1
  clear_value s x
  exact h2

theorem execAdjustKernelCompletion_memOk (h : s.memOk) (n slot : Nat) : OkNext (execAdjustKernelCompletion n slot s) := by
  unfold execAdjustKernelCompletion
  refine okNext ?_
  refine State.withSlotOf_memOk h _ _ _ ?_
  intro a a a a
  split
  · split
    · exact h
    · refine State.slotDone_memOk h _ _ ?_
      split
      · exact State.slotTrap_memOk h ..
      · split
        · exact State.slotTrap_memOk h ..
        · split
          · exact okExcept_error
          · exact State.slotTrap_memOk h ..
          · extract_lets +onlyGivenNames w
            split
            · exact State.slotTrap_memOk h ..
            · split
              · exact okExcept_error
              · exact State.slotTrap_memOk h ..
              next t e =>
                have ok : t.memOk := OkExcept.out (State.openWork_memOk h ..) e
                exact State.slotHalt_memOk ok ..
  · exact h

theorem execWatchdog_memOk (h : s.memOk) (n slot : Nat) : OkNext (execWatchdog n slot s) := by
  unfold execWatchdog
  split
  · exact okNext h
  · split
    · split
      · split
        · exact okNext (State.setSlot_memOk (State.killGrid_memOk h ..) ..)
        · exact okNext h
      · exact okNext h
    · exact okNext h

/-! ### The run of engine commands -/

theorem runOut_memOk (h : s.memOk) (x : Except (EngErr × List (Place × Nat)) Run) (hx : OkExcept (fun x => x.s.memOk) x) :
    OkRunOut (runOut s x) := by
  unfold runOut
  split
  next x =>
    have ok2 : x.s.memOk := OkExcept.out hx rfl
    exact okRunOut_ran ok2
  · exact okRunOut_bad h
  · exact okRunOut_held

theorem State.tellFail_memOk (h : s.memOk) (e : EngCmd) (d : CollDesc) : (s.tellFail e d).memOk := by
  rw [State.tellFail]
  exact State.postAll_memOk h ..

theorem State.collStart_memOk (h : s.memOk) (e : EngCmd) (d : CollDesc) (have' : List (Nat × Nat × List DWord)) :
    OkRunOut (s.collStart e d have') := by
  unfold State.collStart
  extract_lets +onlyGivenNames p ds
  split
  · split
    · exact okRunOut_bad h
    · exact okRunOut_held
  · extract_lets +onlyGivenNames s mine early s1
    have h1 : s.memOk := State.vUse_memOk h ..
    have h2 : s1.memOk := h1
    clear_value s s1
    split
    · exact okRunOut_bad (State.tellFail_memOk h2 ..)
    · split
      · exact okRunOut_bad h2
      · exact okRunOut_held
      next s nodes fin e3 =>
        have ok3 : s.memOk := OkExcept.out (State.collStep_memOk h2 ..) e3
        exact okRunOut_ran ok3

theorem State.kvRunOut_memOk (h : s.memOk) (e : EngCmd) (c : KvCmd) : OkRunOut (s.kvRunOut e c) := by
  unfold State.kvRunOut
  extract_lets +onlyGivenNames s1 s2
  have h1 : s1.memOk := State.kvUse_memOk h ..
  have h2 : s2.memOk := by
    unfold s2
    split
    · exact State.kvUse_memOk h1 ..
    · exact h1
  clear_value s1 s2
  have hr := State.kvRun_memOk h2 e c
  split
  next t e3 =>
    have ok3 : t.memOk := hr.out e3
    split
    · exact okRunOut_ran ok3
    · extract_lets +onlyGivenNames ds
      split
      next t e4 =>
        have ok4 : t.memOk := OkExcept.out (State.objArrive_memOk ok3 ..) e4
        exact okRunOut_ran ok4
      · exact okRunOut_bad h2
      · exact okRunOut_held
  next e3 => exact okRunOut_bad (State.kvLog_memOk (hr.err e3) ..)
  next e3 => exact okRunOut_bad (hr.err e3)
  · exact okRunOut_held

theorem State.engRun_memOk (h : s.memOk) (e : EngCmd) : OkRunOut (s.engRun e) := by
  unfold State.engRun
  split
  · refine runOut_memOk h _ ?_
    refine runChain_memOk _ _ _ _ _ _ _ ?_
    exact h
  · refine runOut_memOk h _ ?_
    refine runIndexed_memOk _ _ _ _ _ ?_
    exact h
  · exact State.collStart_memOk h ..
  · exact State.kvRunOut_memOk h ..
  · exact okRunOut_ran h

theorem State.engAbort_memOk (h : s.memOk) (e : EngCmd) : (s.engAbort e).memOk := by
  unfold State.engAbort
  split
  · split <;> exact State.engError_memOk h ..
  · exact State.engError_memOk h ..

theorem execEngineCommandStart_memOk (h : s.memOk) (n : Nat) : OkNext (execEngineCommandStart n s) := by
  unfold execEngineCommandStart
  split
  · exact okNext h
  next e e1 =>
    extract_lets +onlyGivenNames shut
    split
    · exact okNext h
    · split
      · exact okNext (State.engError_memOk h ..)
      · extract_lets +onlyGivenNames s
        have h1 : s.memOk := by
          unfold s
          split
          · exact h
          · exact foldl_keeps State.memOk _ _ _ (fun s k h1 => State.recallCopies_memOk h1 ..) h
        clear_value s
        have hr := State.engRun_memOk h1 e
        split
        next s1 fin e2 =>
          have ok2 : s1.memOk := okRunOut_of_ran e2 hr
          exact okNext ok2
        next s1 ds e2 => exact okNext (State.engError_memOk (okRunOut_of_bad e2 hr) ..)
        · refine okNext ?_
          split <;> exact State.engFault_memOk h1 ..

theorem State.engArrive_memOk (h : s.memOk) (e : EngCmd) : OkExcept State.memOk (s.engArrive e) := by
  unfold State.engArrive
  extract_lets +onlyGivenNames o
  split
  · exact okExcept h
  · exact State.objArrive_memOk h ..

theorem State.engGone_memOk (h : s.memOk) (e : EngCmd) : (s.engGone e).memOk := by
  unfold State.engGone
  extract_lets +onlyGivenNames s
  have h1 : s.memOk := h
  clear_value s
  refine State.acceptHeld_memOk ?_ ..
  exact h1

theorem State.engTag_memOk (h : s.memOk) (e : EngCmd) (err : Bool) : (s.engTag e err).memOk := by
  unfold State.engTag
  extract_lets +onlyGivenNames s
  have h1 : s.memOk := State.releaseCore_memOk _ h ..
  clear_value s
  split <;> exact h1

theorem State.engStatus_memOk (h : s.memOk) (e : EngCmd) : (s.engStatus e).memOk := h

theorem State.engEnd_memOk (h : s.memOk) (e : EngCmd) (err : Bool) : (s.engEnd e err).memOk := by
  unfold State.engEnd
  extract_lets +onlyGivenNames s
  have h1 : s.memOk := by
    unfold s
    split
    · exact h
    · exact State.engTag_memOk h ..
  clear_value s
  refine State.engGone_memOk ?_ ..
  split
  · exact h1
  · exact h1

theorem State.smplEnd_memOk (h : s.memOk) (e : EngCmd) (c : SmplCmd) : (s.smplEnd e c).memOk := by
  unfold State.smplEnd
  extract_lets +onlyGivenNames last
  have h1 : ∀ (s : State), s.memOk → ∀ (e : EngCmd), (last s e).memOk := by
    intro s h1 e
    unfold last
    split
    next s e2 =>
      have ok2 : s.memOk := OkExcept.out (State.engArrive_memOk h1 ..) e2
      exact State.engEnd_memOk ok2 ..
    · exact State.engEnd_memOk h1 ..
    · exact State.engFault_memOk h1 ..
  clear_value last
  split
  · exact h1 _ h ..
  · split
    next s e2 =>
      have ok2 : s.memOk := OkExcept.out (State.vPut_memOk h ..) e2
      exact h1 _ (State.modEngine_memOk (State.engTag_memOk ok2 ..) ..) ..
    · exact State.engError_memOk h ..
    · exact State.engFault_memOk h ..

theorem execEngineCommandCompletion_memOk (h : s.memOk) (n : Nat) : OkNext (execEngineCommandCompletion n s) := by
  unfold execEngineCommandCompletion
  split
  · exact okNext h
  · split
    · exact okNext h
    · split
      · exact okNext (State.engEnd_memOk h ..)
      · split
        · exact okNext (State.smplEnd_memOk h ..)
        · split
          next s e =>
            have ok : s.memOk := OkExcept.out (State.engArrive_memOk h ..) e
            exact okNext (State.engEnd_memOk ok ..)
          · exact okNext (State.engError_memOk h ..)
          · exact okNext (State.engFault_memOk h ..)

theorem State.collMsg_memOk (h : s.memOk) (c : CollHdr) (level index : Nat) (vals : List DWord) :
    (s.collMsg c level index vals).memOk := by
  unfold State.collMsg
  extract_lets +onlyGivenNames hit
  clear_value hit
  split
  · exact h
  · split
    · extract_lets +onlyGivenNames keep
      have h1 : ∀ (p : EngPhase), (keep p).memOk := fun p => h
      clear_value keep
      split
      · exact State.engError_memOk (State.tellFail_memOk h ..) ..
      · split
        · exact h1 ..
        · split
          · exact State.engError_memOk h ..
          · exact h1 ..
          · exact State.engFault_memOk (h1 ..) ..
          next s nodes fin e2 =>
            have ok2 : s.memOk := OkExcept.out (State.collStep_memOk h ..) e2
            exact ok2
    · exact h

theorem execCollectiveData_memOk (h : s.memOk) (via : Via) (c : CollHdr) (level index : Nat) (vals : List DWord) :
    OkNext (execCollectiveData via c level index vals s) := by
  rw [execCollectiveData]
  exact okNext (State.onMsg_memOk h _ _ (okOption (State.collMsg_memOk h ..)))

end Sys2Proof.Machine
end

section
/-! SUPPORT. Page walks, preemption, aging, the clocks and the boot sequence keep memory in its canonical form. -/

namespace Sys2Proof.Machine

variable {s : State}

/-! ### Page walks and host translation -/

theorem State.tlbFill_memOk (h : s.memOk) (e : TlbEntry) : (s.tlbFill e).memOk := h

theorem execPageWalk_memOk (h : s.memOk) (unit ctx : Nat) (va : DWord) (_acc : Access) (_who : Option PathRef) :
    OkNext (execPageWalk unit ctx va _acc _who s) := by
  rw [execPageWalk]
  split
  · exact okNext h
  · split
    · exact okNext h
    · exact okNext h

theorem State.atcFill_memOk (h : s.memOk) (x : AtcEntry) : (s.atcFill x).memOk := h

theorem State.retryEngines_memOk (h : s.memOk) (port : Bool) (ctx page : Nat) : (s.retryEngines port ctx page).memOk := by
  rw [State.retryEngines]
  refine foldl_keeps State.memOk _ _ _ ?_ h
  exact fun s e h1 => h1

theorem State.hostFail_memOk (h : s.memOk) (port : Bool) (page sub : Nat) (who : PathRef) : (s.hostFail port page sub who).memOk := by
  unfold State.hostFail
  split
  · exact h
  · split
    · refine State.engineStop_memOk ?_ ..
      exact h
    · exact h

theorem State.takeGroup_memOk (h : s.memOk) (port : Bool) (ctx page : Nat) : OkOption (fun x => x.1.memOk)
    (s.takeGroup port ctx page) := by
  rw [State.takeGroup]
  exact okOption_map (fun q => h)

theorem State.groupFail_memOk (h : s.memOk) (q : PageReq) (sub : Nat) : (s.groupFail q sub).memOk := by
  rw [State.groupFail]
  split
  · exact State.hostFail_memOk h ..
  · exact h

theorem execAtsTranslationCompletion_memOk (h : s.memOk) (port : Bool) (ctx page : Nat) (o : AtsOutcome) (target : Nat)
    (writable : Bool) :
    OkNext (execAtsTranslationCompletion port ctx page o target writable s) := by
  unfold execAtsTranslationCompletion
  split
  · exact okNext h
  · extract_lets +onlyGivenNames s
    have h1 : s.memOk := h
    clear_value s
    split
    · refine okNext ?_
      refine State.retryEngines_memOk ?_ ..
      exact h1
    · exact okNext (foldl_keeps State.memOk _ _ _ (fun s r h2 => memOk_of_mem (State.pageAsk_mem ..) h2) h1)
    · exact okNext (foldl_keeps State.memOk _ _ _ (fun s r h2 => State.hostFail_memOk h2 ..) h1)

theorem execPageRequestResponse_memOk (h : s.memOk) (port : Bool) (ctx page : Nat) (o : PriOutcome) :
    OkNext (execPageRequestResponse port ctx page o s) := by
  unfold execPageRequestResponse
  split
  · exact okNext h
  next s q e =>
    have ok : s.memOk := OkOption.out (State.takeGroup_memOk h ..) e
    split
    · extract_lets +onlyGivenNames s
      have h2 : s.memOk := ok
      clear_value s
      split
      · exact okNext h2
      · exact okNext h2
    · exact okNext (State.groupFail_memOk ok ..)
    · exact okNext (State.groupFail_memOk ok ..)

theorem execAtsTimeout_memOk (h : s.memOk) (port : Bool) (ctx page : Nat) : OkNext (execAtsTimeout port ctx page s) := by
  unfold execAtsTimeout
  split
  · exact okNext h
  next s q e =>
    have ok : s.memOk := OkOption.out (State.takeGroup_memOk h ..) e
    exact okNext (State.groupFail_memOk ok ..)

theorem execHostInvalidationRequest_memOk (h : s.memOk) (port : Bool) (ctx page count : Nat) :
    OkNext (execHostInvalidationRequest port ctx page count s) := by
  unfold execHostInvalidationRequest
  extract_lets +onlyGivenNames hit t waits
  have h1 : t.memOk := by
    unfold t
    refine (calm_deliverAll ..).ok ?_
    exact h
  clear_value t
  split
  · exact okNext h
  · exact okNext h1

/-! ### Saves, restorations and dispatch -/

theorem State.raise_memOk (h : s.memOk) (p bit : Nat) : (s.raise p bit).memOk := by
  unfold State.raise
  extract_lets +onlyGivenNames a
  exact State.homeWrite_memOk _ _ h

theorem State.noteSlice_memOk (h : s.memOk) (g : Grid) : (s.noteSlice g).memOk := by
  unfold State.noteSlice
  extract_lets +onlyGivenNames p e a
  split
  · exact h
  · split
    · exact h
    · exact State.homeWrite_memOk _ _ (State.raise_memOk h ..)

theorem State.noteSlices_memOk (h : s.memOk) (p : Nat) : (s.noteSlices p).memOk := by
  rw [State.noteSlices]
  exact foldl_keeps State.memOk _ _ _ (fun s g h1 => State.noteSlice_memOk h1 ..) h

theorem State.countKind_memOk (h : s.memOk) (die : Bool) (x : Kind) : (s.countKind die x).memOk := by
  unfold State.countKind
  split <;> exact h

theorem State.forgetDie_memOk (h : s.memOk) (hd : Nat) : (s.forgetDie hd).memOk := h

theorem State.beginRestore_memOk (h : s.memOk) (hd idx hw : Nat) (l : List (SavedCrew × Nat)) : (s.beginRestore hd idx hw l).memOk := by
  unfold State.beginRestore
  extract_lets -underBinder +onlyGivenNames k s s1
  have h1 : s.memOk := by
    unfold s
    split
    · exact h
    · exact h
  have h2 : s1.memOk := by
    unfold s1
    refine foldl_keeps State.memOk _ _ _ (fun s x h2 => ?_) h1
    extract_lets +onlyGivenNames s s1
    have h3 : s.memOk := State.acquireCore_memOk _ h2 ..
    have h4 : s1.memOk := by
      unfold s1
      split
      · exact State.setUpCore_memOk h3 ..
      · exact h3
    clear_value s s1
    exact h4
  clear_value s s1
  exact h2

theorem State.placeOne_memOk (h : s.memOk) (hd idx : Nat) : OkOption (fun x => x.1.memOk) (s.placeOne hd idx) := by
  unfold State.placeOne
  extract_lets +onlyGivenNames g mask
  split
  · extract_lets +onlyGivenNames fr
    exact okOption_map (fun x => State.beginRestore_memOk h ..)
  · exact okOption_map (fun x => foldl_keeps State.memOk _ _ _ (fun s k h1 => State.countKind_memOk h1 ..)
      (State.placeCluster_memOk h ..))

theorem State.placeUnit_memOk {s : State} (h : s.memOk) (hd : Nat) (x : List Nat) : OkOption State.memOk (s.placeUnit hd x) := by
  match x with
  | [] =>
    rw [State.placeUnit]
    exact okOption h
  | x_1 :: xs =>
    rw [State.placeUnit]
    split
    · exact okOption_none
    next x e =>
      have ok : x.1.memOk := OkOption.out (State.placeOne_memOk h ..) e
      exact State.placeUnit_memOk ok ..

theorem State.tryPlace_memOk (h : s.memOk) (die : Bool) (c : Cand) : OkOption State.memOk (s.tryPlace die c) := by
  rw [State.tryPlace]
  split
  · exact State.placeUnit_memOk h ..
  · split
    · exact okOption_none
    next t hw e =>
      have ok : t.memOk := OkOption.out (State.placeOne_memOk h ..) e
      split
      · exact okOption ok
      · exact okOption_none

theorem State.without_memOk (h : s.memOk) (l : List Nat) : (s.without l).memOk := h

theorem State.touchExpect_memOk (h : s.memOk) (n : Nat) : (s.touchExpect n).memOk := h

theorem State.promised_memOk (h : s.memOk) (p : Nat) (c : Cand) : (s.promised p c).memOk := by
  unfold State.promised
  extract_lets +onlyGivenNames l l1
  refine foldl_keeps State.memOk _ _ _ (fun t x h1 => okOption_getD (State.placeUnit_memOk h1 ..) h1) ?_
  exact h

theorem State.modUnit_memOk (h : s.memOk) (u : Unit') (f : ClusterSt → ClusterSt) : (s.modUnit u f).memOk := h

theorem State.gate_memOk (h : s.memOk) (u : Unit') (b : Bool) : (s.gate u b).memOk := by
  rw [State.gate]
  refine foldl_keeps State.memOk _ _ _ ?_ h
  exact fun s n h1 => h1

theorem State.pauseWatch_memOk (h : s.memOk) (f : Nat → Bool) : (s.pauseWatch f).memOk := h

theorem State.startWatch_memOk (h : s.memOk) (f : Nat → Bool) : (s.startWatch f).memOk := h

theorem State.beginSave_memOk (h : s.memOk) (u : Unit') : (s.beginSave u).memOk := by
  unfold State.beginSave
  extract_lets +onlyGivenNames p c crews
  split
  · extract_lets +onlyGivenNames die
    exact State.logEvent_memOk _ _ _ (State.modUnit_memOk (State.raise_memOk h ..) ..) ..
  · extract_lets +onlyGivenNames at' s
    have h1 : s.memOk := State.gate_memOk h ..
    clear_value s
    exact h1

theorem State.preempt_memOk (h : s.memOk) (u : Unit') : (s.preempt u).memOk := by
  unfold State.preempt
  extract_lets +onlyGivenNames a s
  have h1 : s.memOk := by
    unfold s
    refine foldl_keeps State.memOk _ _ _ ?_ h
    exact fun s n h1 => h1
  clear_value s a
  split
  · exact h1
  · exact State.beginSave_memOk h1 ..
  · exact State.modUnit_memOk (State.gate_memOk h1 ..) ..

theorem State.claimFor_memOk (h : s.memOk) (c : Cand) : (s.claimFor c).memOk := h

theorem State.placeIn_memOk (h : s.memOk) (die : Bool) (p : Nat) : OkOption State.memOk (s.placeIn die p) := by
  rw [State.placeIn]
  exact okOption_findSome (fun c => State.tryPlace_memOk h ..)

theorem State.dispatchIn_memOk (h : s.memOk) (die : Bool) (p : Nat) : (s.dispatchIn die p).memOk := by
  unfold State.dispatchIn
  extract_lets +onlyGivenNames s
  have h1 : s.memOk := State.noteSlices_memOk h ..
  clear_value s
  split
  next t e2 =>
    have ok2 : t.memOk := OkOption.out (State.placeIn_memOk h1 ..) e2
    exact ok2
  · split
    · refine foldl_keeps State.memOk _ _ _ (fun s u h2 => State.preempt_memOk h2 ..) ?_
      exact h1
    · exact h1

theorem execClusterPlacement_memOk (h : s.memOk) (die : Bool) : OkNext (execClusterPlacement die s) := by
  rw [execClusterPlacement]
  exact okNext (foldl_keeps State.memOk _ _ _ (fun s p h1 => State.dispatchIn_memOk h1 ..) h)

theorem State.forgive_memOk (h : s.memOk) (p : Nat) : (s.forgive p).memOk := h

theorem State.look_memOk (h : s.memOk) (grid cluster : Nat) : (s.look grid cluster).memOk := by
  unfold State.look
  extract_lets +onlyGivenNames die
  refine State.dispatchIn_memOk ?_ ..
  exact h

theorem State.lookAt_memOk (h : s.memOk) (grid cluster : Nat) (t : Option Nat) : (s.lookAt grid cluster t).memOk := by
  unfold State.lookAt
  split
  · exact h
  · exact State.look_memOk (State.passTo_memOk h ..) ..

theorem execTimeSliceExpiry_memOk (h : s.memOk) (grid cluster : Nat) : OkNext (execTimeSliceExpiry grid cluster s) := by
  rw [execTimeSliceExpiry]
  exact okNext (State.lookAt_memOk h ..)

theorem execPriorityAging_memOk (h : s.memOk) (grid cluster : Nat) : OkNext (execPriorityAging grid cluster s) := by
  rw [execPriorityAging]
  exact okNext (State.lookAt_memOk h ..)

theorem execRestorationGuardExpiry_memOk (h : s.memOk) (grid cluster : Nat) : OkNext (execRestorationGuardExpiry grid cluster s) := by
  rw [execRestorationGuardExpiry]
  exact okNext (State.lookAt_memOk h ..)

theorem execDrainExpiry_memOk (h : s.memOk) (grid cluster : Nat) : OkNext (execDrainExpiry grid cluster s) := by
  unfold execDrainExpiry
  extract_lets +onlyGivenNames g
  split
  · exact okNext h
  next c e =>
    split
    · exact okNext h
    · have h1 : (s.passTo (c.saveStart + s.effSlice g * us)).memOk := State.passTo_memOk h ..
      generalize s.passTo (c.saveStart + s.effSlice g * us) = t at h1 ⊢
      exact okNext (State.beginSave_memOk (State.modUnit_memOk h1 ..) ..)

theorem State.saveCrew_memOk (h : s.memOk) (n frame pages : Nat) : (s.saveCrew n frame pages).memOk := by
  unfold State.saveCrew
  extract_lets -underBinder +onlyGivenNames c teams bytes v s s1
  have h1 : s.memOk := (calm_freeArray ..).ok (State.homeWrite_memOk _ _ h)
  have h2 : s1.memOk := h1
  clear_value s s1
  refine State.refreeze_memOk ?_ ..
  exact h2

theorem State.flushCaches_memOk (h : s.memOk) (l : List Nat) : (s.flushCaches l).memOk := by
  unfold State.flushCaches
  extract_lets +onlyGivenNames cores s
  have h1 : s.memOk := foldl_keeps State.memOk _ _ _ (fun s c h1 => State.flushHome_memOk _ h1 ..) h
  clear_value s
  exact State.writeBack_memOk _ (State.writeBack_memOk _ h1 ..) ..

theorem execClusterSaveCompletion_memOk (h : s.memOk) (grid cluster : Nat) : OkNext (execClusterSaveCompletion grid cluster s) := by
  unfold execClusterSaveCompletion
  extract_lets +onlyGivenNames u
  split
  · exact okNext h
  · extract_lets +onlyGivenNames crews
    split
    · exact okNext h
    · extract_lets +onlyGivenNames s s1
      have h1 : s.memOk := State.pauseWatch_memOk (State.flushCaches_memOk h ..) ..
      have h2 : s1.memOk := foldl_keeps State.memOk _ _ _ (fun s x h2 => State.saveCrew_memOk h2 ..) h1
      clear_value s s1
      exact okNext h2

theorem execClusterFlushCompletion_memOk (h : s.memOk) (grid cluster : Nat) : OkNext (execClusterFlushCompletion grid cluster s) := by
  unfold execClusterFlushCompletion
  extract_lets +onlyGivenNames u
  split
  · exact okNext h
  · extract_lets +onlyGivenNames crews
    split
    · exact okNext h
    · extract_lets -underBinder +onlyGivenNames live gone s toks s1 ctx s2 s3 s4
      have h1 : s.memOk := State.flushCaches_memOk h ..
      have h2 : s1.memOk := foldl_keeps State.memOk _ _ _ (fun s n h2 => (calm_freeArray ..).ok h2) h1
      have h3 : s2.memOk := foldl_keeps State.memOk _ _ _ (fun s t h3 => (calm_freeSems ..).ok h3) h2
      have h4 : s3.memOk := h3
      have h5 : s4.memOk := by
        unfold s4
        refine foldl_keeps State.memOk _ _ _ (fun s n h5 => ?_) h4
        extract_lets +onlyGivenNames core
        refine State.refreeze_memOk ?_ ..
        exact h5
      clear_value s s1 s2 s3 s4
      exact okNext h5

theorem State.loadArray_memOk (h : s.memOk) (core : Nat) (mv : List (Nat × Nat)) (a : CoreSt) : (s.loadArray core mv a).memOk := h

theorem State.loadCrew_memOk (h : s.memOk) (mv : List (Nat × Nat)) (v : SavedCrew) : (s.loadCrew mv v).memOk := by
  suffices hs : OkState (s.loadCrew mv v) from hs.ok
  unfold State.loadCrew
  extract_lets +onlyGivenNames core ok v
  clear_value core ok v
  extract_lets +onlyGivenNames s
  have h1 : s.memOk := h
  clear_value s
  extract_lets -underBinder +onlyGivenNames s
  have h2 : s.memOk := foldl_keeps State.memOk _ _ _ (fun s t h => h) h1
  clear_value s
  extract_lets +onlyGivenNames s
  have h3 : s.memOk := by
    unfold s
    split
    · exact State.loadArray_memOk h2 ..
    · exact h2
  clear_value s
  extract_lets +onlyGivenNames s
  have h4 : s.memOk := h3
  clear_value s
  extract_lets +onlyGivenNames s
  have h5 : s.memOk := h4
  clear_value s
  extract_lets -underBinder +onlyGivenNames kill
  have h6 : ∀ (s : State) (t : Nat × Team), s.memOk → (kill s t).memOk := by
    intro s t h6
    unfold kill
    split
    · exact (calm_killTeam ..).ok h6
    · exact h6
  clear_value kill
  extract_lets +onlyGivenNames s
  have h7 : s.memOk := foldl_keeps State.memOk _ _ _ h6 h5
  clear_value s
  extract_lets +onlyGivenNames s
  have h8 : s.memOk := by
    unfold s
    split
    · exact h7
    · exact State.logEvent_memOk _ _ _ h7 ..
  clear_value s
  exact ⟨State.refreeze_memOk h8 ..⟩

theorem execClusterRestoration_memOk (h : s.memOk) (grid cluster : Nat) : OkNext (execClusterRestoration grid cluster s) := by
  unfold execClusterRestoration
  extract_lets +onlyGivenNames fr here
  split
  · exact okNext h
  · extract_lets +onlyGivenNames mv s s1
    have h1 : s.memOk := foldl_keeps State.memOk _ _ _ (fun s v h1 => State.loadCrew_memOk h1 ..) h
    have h2 : s1.memOk := h1
    clear_value s s1
    exact okNext ((calm_barSweep ..).ok h2)

theorem State.firstIssue_memOk (h : s.memOk) (r : PathRef) : (s.firstIssue r).memOk := by
  unfold State.firstIssue
  extract_lets +onlyGivenNames c g
  split
  · exact h
  · split
    · extract_lets +onlyGivenNames tc s
      have h1 : s.memOk := h
      clear_value s
      refine State.noteSlice_memOk ?_ ..
      exact h1
    · exact h

/-! ### Aging -/

theorem execPathAged_memOk (h : s.memOk) (r : PathRef) : OkNext (execPathAged r s) := by
  rw [execPathAged]
  split
  · exact okNext (State.passTo_memOk h ..)
  · exact okNext h

theorem State.watchFirst_memOk (h : s.memOk) (r : PathRef) : (s.watchFirst r).memOk := by
  unfold State.watchFirst
  split
  · extract_lets +onlyGivenNames g
    exact h
  · exact h

theorem State.noteIssue_memOk (h : s.memOk) (r : PathRef) : (s.noteIssue r).memOk := by
  unfold State.noteIssue
  extract_lets +onlyGivenNames s s1
  have h1 : s.memOk := (calm_modPath ..).ok (State.watchFirst_memOk (State.firstIssue_memOk h ..) ..)
  have h2 : s1.memOk := by
    unfold s1
    split
    · exact h1
    · exact h1
  clear_value s s1
  exact h2

theorem execFullEmptyWake_memOk (h : s.memOk) (r : PathRef) : OkNext (execFullEmptyWake r s) := by
  unfold execFullEmptyWake
  extract_lets +onlyGivenNames mine
  split
  · split
    next s e =>
      have ok : s.memOk := okTaken_of_over e (State.takeUp_memOk h ..)
      exact okNext ok
    next i s e =>
      have ok : s.memOk := okTaken_of_run e (State.takeUp_memOk h ..)
      split
      · exact execLdsf_memOk (State.noteIssue_memOk ok ..) ..
      · exact execLdse_memOk (State.noteIssue_memOk ok ..) ..
      · exact execStsf_memOk (State.noteIssue_memOk ok ..) ..
      · exact okNext ok
  · exact okNext h

/-! ### Clocks -/

theorem State.clkWrite_memOk (h : s.memOk) (src : Nat) (ctx : Option Nat) (die : Bool) (f : Nat) : (s.clkWrite src ctx die f).memOk := by
  unfold State.clkWrite
  extract_lets +onlyGivenNames d
  split
  · exact State.logRefused_memOk _ _ _ h ..
  · extract_lets +onlyGivenNames s
    have h1 : s.memOk := by
      unfold s
      split
      · exact State.logRefused_memOk _ _ _ h ..
      · exact h
    clear_value s
    exact State.setDie_memOk h1 ..

theorem State.logStep_memOk (h : s.memOk) (die : Bool) (at' old new : Nat) : (s.logStep die at' old new).memOk := by
  unfold State.logStep
  extract_lets +onlyGivenNames size
  split
  · exact h
  · extract_lets +onlyGivenNames d i bs
    exact State.csrPut_memOk (State.homeWrite_memOk _ _ h) ..

theorem execPowerLimitWrite_memOk (h : s.memOk) (die : Bool) (f : Nat) : OkNext (execPowerLimitWrite die f s) := by
  unfold execPowerLimitWrite
  extract_lets +onlyGivenNames s
  have h1 : s.memOk := State.logRefused_memOk _ _ _ h ..
  clear_value s
  split
  · exact okNext h1
  · extract_lets -underBinder +onlyGivenNames src d waits d1
    exact okNext (State.setDie_memOk h1 ..)

theorem execTimeMessage_memOk (h : s.memOk) (m : Via × Nat) : OkNext (execTimeMessage m s) := by
  unfold execTimeMessage
  refine okNext ?_
  refine State.onMsg_memOk h _ _ ?_
  split
  · exact okOption h
  · extract_lets +onlyGivenNames d
    exact okOption h

/-! ### Reset and boot -/

theorem State.cold_memOk (h : s.memOk) : s.cold.memOk := Store.wf_filter _ _ _ h

theorem State.bootDone_memOk (h : s.memOk) : s.bootDone.memOk := by
  unfold State.bootDone
  split
  · exact h
  · extract_lets +onlyGivenNames s
    have h1 : s.memOk := State.pass_memOk h ..
    clear_value s
    exact h1

theorem State.boot'_memOk (h : s.memOk) : s.boot'.memOk := by
  suffices hs : OkState s.boot' from hs.ok
  unfold State.boot'
  extract_lets +onlyGivenNames s
  have h1 : s.memOk := State.cold_memOk h
  clear_value s
  extract_lets +onlyGivenNames img s
  have h2 : s.memOk := State.pass_memOk h1 _
  clear_value s
  split
  · extract_lets +onlyGivenNames s
    have h3 : s.memOk := h2
    clear_value s
    exact ⟨State.bootDone_memOk (State.setDie_memOk (State.setDie_memOk h3 ..) ..)⟩
  · exact ⟨h2⟩

theorem State.bootIf_memOk (h : s.memOk) : s.bootIf.memOk := by
  rw [State.bootIf]
  split
  · exact State.boot'_memOk h
  · exact State.cold_memOk h

theorem execRelockEnd_memOk (h : s.memOk) (die : Bool) : OkNext (execRelockEnd die s) := by
  unfold execRelockEnd
  split
  · exact okNext h
  · extract_lets +onlyGivenNames r s d
    have h1 : s.memOk := State.passTo_memOk h ..
    clear_value s
    exact okNext (State.bootDone_memOk (State.payOwed_memOk (State.setDie_memOk (State.logStep_memOk h1 ..) ..)))

theorem execPwrgdRise_memOk (h : s.memOk) : OkNext (execPwrgdRise s) := by
  rw [execPwrgdRise]
  refine okNext ?_
  refine State.bootIf_memOk ?_
  exact h

theorem execResetnLow_memOk (h : s.memOk) : OkNext (execResetnLow s) := by
  rw [execResetnLow]
  refine okNext ?_
  refine State.bootIf_memOk ?_
  exact h

theorem execResetnRelease_memOk (h : s.memOk) : OkNext (execResetnRelease s) := by
  rw [execResetnRelease]
  refine okNext ?_
  refine State.bootIf_memOk ?_
  exact h

theorem State.recover_memOk (h : s.memOk) (port : Bool) : (s.recover port).memOk := by
  unfold State.recover
  split
  · exact h
  · extract_lets +onlyGivenNames m img
    split
    · refine State.bootIf_memOk ?_
      exact h
    · exact State.logRefused_memOk _ _ _ h ..

theorem execGo_memOk (h : s.memOk) (port : Bool) : OkNext (execGo port s) := by
  rw [execGo]
  exact okNext (State.recover_memOk h ..)

theorem State.railsDown_memOk (h : s.memOk) (up : List Nat) (rail : Nat) : (s.railsDown up rail).memOk := by
  rw [State.railsDown]
  refine State.cold_memOk ?_
  exact h

theorem execInputPowerApplied_memOk (h : s.memOk) (good : Nat) : OkNext (execInputPowerApplied good s) := by
  unfold execInputPowerApplied
  extract_lets +onlyGivenNames up s
  have h1 : s.memOk := h
  clear_value s
  split
  · refine okNext ?_
    refine State.bootIf_memOk ?_
    exact h1
  · exact okNext (State.railsDown_memOk h1 ..)

theorem execRailFail_memOk (h : s.memOk) (rail : Nat) : OkNext (execRailFail rail s) := by
  rw [execRailFail]
  exact okNext (State.railsDown_memOk h ..)

theorem execRailTelemetryRead_memOk (h : s.memOk) (rail : Nat) : OkNext (execRailTelemetryRead rail s) := by
  rw [execRailTelemetryRead]
  exact okNext h

theorem State.spdm_memOk (h : s.memOk) (chan code : Nat) (body : List Byte) : OkNext (s.spdm chan code body) := by
  rw [State.spdm]
  refine okNext ?_
  split
  · exact h
  · exact h

theorem State.spdmError_memOk (h : s.memOk) (chan code : Nat) : OkNext (s.spdmError chan code) := by
  rw [State.spdmError]
  exact State.spdm_memOk h ..

theorem execGetVersion_memOk (h : s.memOk) (chan : Nat) : OkNext (execGetVersion chan s) := by
  rw [execGetVersion]
  exact State.spdm_memOk h ..

theorem execGetCapabilities_memOk (h : s.memOk) (chan : Nat) : OkNext (execGetCapabilities chan s) := by
  rw [execGetCapabilities]
  exact State.spdm_memOk h ..

theorem execNegotiateAlgorithms_memOk (h : s.memOk) (chan : Nat) : OkNext (execNegotiateAlgorithms chan s) := by
  rw [execNegotiateAlgorithms]
  exact State.spdm_memOk h ..

theorem execGetDigests_memOk (h : s.memOk) (chan : Nat) : OkNext (execGetDigests chan s) := by
  rw [execGetDigests]
  exact State.spdm_memOk h ..

theorem execGetCertificate_memOk (h : s.memOk) (chan slot off len : Nat) : OkNext (execGetCertificate chan slot off len s) := by
  rw [execGetCertificate]
  split
  · exact State.spdm_memOk h ..
  · exact State.spdmError_memOk h ..

theorem execChallenge_memOk (h : s.memOk) (chan slot : Nat) (nonce : BitVec 256) : OkNext (execChallenge chan slot nonce s) := by
  unfold execChallenge
  split
  · extract_lets +onlyGivenNames body
    exact State.spdm_memOk h ..
  · exact State.spdmError_memOk h ..

theorem execGetMeasurements_memOk (h : s.memOk) (chan index : Nat) : OkNext (execGetMeasurements chan index s) := by
  rw [execGetMeasurements]
  split
  · exact State.spdm_memOk h ..
  · split
    · exact State.spdm_memOk h ..
    · split
      · exact State.spdm_memOk h ..
      · exact State.spdmError_memOk h ..

theorem execUnsupportedRequest_memOk (h : s.memOk) (chan _code : Nat) : OkNext (execUnsupportedRequest chan _code s) := by
  rw [execUnsupportedRequest]
  exact State.spdmError_memOk h ..

end Sys2Proof.Machine
end

section
/-! SUPPORT. The vector instructions and the control instructions keep memory in its canonical form. -/

namespace Sys2Proof.Machine

variable {s : State}

/-! ### Vector floating instructions -/

theorem floatBinary_memOk (h : s.memOk) (d a b : VReg) (f : FFmt → Rnd → Bool → Nat → Nat → Nat × BitVec 7) :
    OkNext (floatBinary d a b f s) := by
  unfold floatBinary
  exact okNext_issued (fun r => State.elementwise_memOk h ..)

theorem floatUnary_memOk (h : s.memOk) (d a : VReg) (f : FFmt → Rnd → Bool → Nat → Nat × BitVec 7) : OkNext (floatUnary d a f s) := by
  unfold floatUnary
  exact okNext_issued (fun r => State.elementwise_memOk h ..)

theorem execFadd_memOk (h : s.memOk) (d a b : VReg) : OkNext (execFadd d a b s) := by
  rw [execFadd]
  exact floatBinary_memOk h ..

theorem execFsub_memOk (h : s.memOk) (d a b : VReg) : OkNext (execFsub d a b s) := by
  rw [execFsub]
  exact floatBinary_memOk h ..

theorem execFmul_memOk (h : s.memOk) (d a b : VReg) : OkNext (execFmul d a b s) := by
  rw [execFmul]
  exact floatBinary_memOk h ..

theorem execFfma_memOk (h : s.memOk) (d a b : VReg) : OkNext (execFfma d a b s) := by
  unfold execFfma
  exact okNext_issued (fun r => State.elementwise_memOk h ..)

theorem execFmin_memOk (h : s.memOk) (d a b : VReg) : OkNext (execFmin d a b s) := by
  rw [execFmin]
  exact floatBinary_memOk h ..

theorem execFmax_memOk (h : s.memOk) (d a b : VReg) : OkNext (execFmax d a b s) := by
  rw [execFmax]
  exact floatBinary_memOk h ..

theorem execFabs_memOk (h : s.memOk) (d a : VReg) : OkNext (execFabs d a s) := by
  rw [execFabs]
  exact floatUnary_memOk h ..

theorem execFneg_memOk (h : s.memOk) (d a : VReg) : OkNext (execFneg d a s) := by
  rw [execFneg]
  exact floatUnary_memOk h ..

theorem execFcmp_memOk (h : s.memOk) (c : Cond) (p : PReg) (a b : VReg) : OkNext (execFcmp c p a b s) := by
  unfold execFcmp
  refine okNext_issued ?_
  intro r
  extract_lets +onlyGivenNames t lanes cmp
  refine State.legalIf_memOk h _ _ _ ?_
  exact h

theorem execFrcp_memOk (h : s.memOk) (d a : VReg) : OkNext (execFrcp d a s) := by
  rw [execFrcp]
  exact floatUnary_memOk h ..

theorem execFrsq_memOk (h : s.memOk) (d a : VReg) : OkNext (execFrsq d a s) := by
  rw [execFrsq]
  exact floatUnary_memOk h ..

theorem execFsqrt_memOk (h : s.memOk) (d a : VReg) : OkNext (execFsqrt d a s) := by
  rw [execFsqrt]
  exact floatUnary_memOk h ..

theorem execFdiv_memOk (h : s.memOk) (d a b : VReg) : OkNext (execFdiv d a b s) := by
  unfold execFdiv
  refine okNext_issued ?_
  intro r
  extract_lets +onlyGivenNames ty t
  refine State.legalIf_memOk h _ _ _ ?_
  refine State.withSlot_memOk h _ _ ?_
  intro i
  extract_lets +onlyGivenNames lanes
  split
  · exact h
  · extract_lets -underBinder +onlyGivenNames rs
    exact State.advance_memOk (memOk_of_mem (State.addStatus_mem ..) (State.startPend_memOk h ..)) ..

theorem execFexp2_memOk (h : s.memOk) (d a : VReg) : OkNext (execFexp2 d a s) := by
  rw [execFexp2]
  exact floatUnary_memOk h ..

theorem execFlog2_memOk (h : s.memOk) (d a : VReg) : OkNext (execFlog2 d a s) := by
  rw [execFlog2]
  exact floatUnary_memOk h ..

theorem execFsin_memOk (h : s.memOk) (d a : VReg) : OkNext (execFsin d a s) := by
  rw [execFsin]
  exact floatUnary_memOk h ..

theorem execFcos_memOk (h : s.memOk) (d a : VReg) : OkNext (execFcos d a s) := by
  rw [execFcos]
  exact floatUnary_memOk h ..

theorem execFclass_memOk (h : s.memOk) (d a : VReg) : OkNext (execFclass d a s) := by
  rw [execFclass]
  exact floatUnary_memOk h ..

theorem execFround_memOk (h : s.memOk) (d a : VReg) : OkNext (execFround d a s) := by
  rw [execFround]
  exact floatUnary_memOk h ..

/-! ### Conversions -/

theorem execCvtf_memOk (h : s.memOk) (d a : VReg) (dst src : Fmt) : OkNext (execCvtf d a dst src s) := by
  unfold execCvtf
  exact okNext_issued (fun r => State.legalIf_memOk h _ _ _ (State.advance_memOk (State.mapLanes_memOk h ..) ..))

theorem execCvti_memOk (h : s.memOk) (d a : VReg) (dst src : Fmt) : OkNext (execCvti d a dst src s) := by
  unfold execCvti
  exact okNext_issued (fun r => State.legalIf_memOk h _ _ _ (State.advance_memOk (State.mapLanes_memOk h ..) ..))

theorem execCvtq_memOk (h : s.memOk) (d a : VReg) (b : Option VReg) (e5m2 : Bool) : OkNext (execCvtq d a b e5m2 s) := by
  unfold execCvtq
  exact okNext_issued (fun r => State.legalIf_memOk h _ _ _ (State.advance_memOk (State.mapLanes_memOk h ..) ..))

theorem execCvtd_memOk (h : s.memOk) (d a : VReg) (b : Option VReg) (e5m2 : Bool) : OkNext (execCvtd d a b e5m2 s) := by
  unfold execCvtd
  exact okNext_issued (fun r => State.legalIf_memOk h _ _ _ (State.advance_memOk (State.mapLanes_memOk h ..) ..))

theorem execPk_memOk (h : s.memOk) (d a b : VReg) : OkNext (execPk d a b s) := by
  unfold execPk
  refine okNext_issued ?_
  intro r
  extract_lets +onlyGivenNames ty
  exact State.legalIf_memOk h _ _ _ (State.advance_memOk (State.mapLanes_memOk h ..) ..)

theorem execUpk_memOk (h : s.memOk) (d a : VReg) (hd : Bool) : OkNext (execUpk d a hd s) := by
  unfold execUpk
  refine okNext_issued ?_
  intro r
  extract_lets +onlyGivenNames ty
  exact State.legalIf_memOk h _ _ _ (State.advance_memOk (State.mapLanes_memOk h ..) ..)

theorem execSp8x_memOk (h : s.memOk) (d a : VReg) (j : BitVec 2) : OkNext (execSp8x d a j s) := by
  unfold execSp8x
  refine okNext_issued ?_
  intro r
  extract_lets +onlyGivenNames ty ok
  exact State.legalIf_memOk h _ _ _ (State.advance_memOk (State.mapLanes_memOk h ..) ..)

theorem execI4x_memOk (h : s.memOk) (d a b : VReg) (hd : BitVec 2) : OkNext (execI4x d a b hd s) := by
  unfold execI4x
  exact okNext_issued (fun r => State.legalIf_memOk h _ _ _ (State.advance_memOk (State.mapLanes_memOk h ..) ..))

/-! ### Lane instructions -/

theorem laneMove_memOk (h : s.memOk) (d a : VReg) (words : Nat) (ok : State → PathRef → Bool) (src : Team → Nat → ℤ) :
    OkNext (laneMove d a words ok src s) := by
  unfold laneMove
  refine okNext_issued ?_
  intro r
  extract_lets +onlyGivenNames ty
  exact State.legalIf_memOk h _ _ _ (State.advance_memOk (State.mapLanes_memOk h ..) ..)

theorem execShfl_memOk (h : s.memOk) (d a b : VReg) : OkNext (execShfl d a b s) := by
  rw [execShfl]
  exact laneMove_memOk h ..

theorem execShflx_memOk (h : s.memOk) (d a : VReg) (n : BitVec 10) (mode : ShflMode) : OkNext (execShflx d a n mode s) := by
  rw [execShflx]
  exact laneMove_memOk h ..

theorem execBcast_memOk (h : s.memOk) (d : SReg) (a : VReg) (lane : Option SReg) : OkNext (execBcast d a lane s) := by
  unfold execBcast
  refine okNext_issued ?_
  intro r
  extract_lets +onlyGivenNames ty t
  refine State.legalIf_memOk h _ _ _ ?_
  split
  · exact h
  · extract_lets +onlyGivenNames m x
    exact h

theorem execVote_memOk (h : s.memOk) (d : SReg) (p : PReg) (op : VoteOp) : OkNext (execVote d p op s) := by
  unfold execVote
  refine okNext_issued ?_
  intro r
  extract_lets +onlyGivenNames t act hit v
  split <;> exact h

theorem execMcnt_memOk (h : s.memOk) (d : SReg) (p : PReg) : OkNext (execMcnt d p s) := by
  unfold execMcnt
  refine okNext_issued ?_
  intro r
  extract_lets +onlyGivenNames t act
  split <;> exact h

theorem execScan_memOk (h : s.memOk) (op : FoldOp) (d a : VReg) : OkNext (execScan op d a s) := by
  unfold execScan
  refine okNext_issued ?_
  intro r
  extract_lets +onlyGivenNames ty fs lanes
  exact State.legalIf_memOk h _ _ _ (State.advance_memOk (memOk_of_mem (State.addStatus_mem ..) (memOk_of_mem
    (State.regWrites_mem ..) h)) ..)

theorem execRed_memOk (h : s.memOk) (op : FoldOp) (d : SReg) (a : VReg) : OkNext (execRed op d a s) := by
  unfold execRed
  refine okNext_issued ?_
  intro r
  extract_lets +onlyGivenNames ty
  refine State.legalIf_memOk h _ _ _ ?_
  split <;> exact h

theorem execRank_memOk (h : s.memOk) (d : VReg) (p : PReg) : OkNext (execRank d p s) := by
  unfold execRank
  refine okNext_issued ?_
  intro r
  extract_lets +onlyGivenNames hit
  exact State.legalIf_memOk h _ _ _ (State.advance_memOk (State.mapLanes_memOk h ..) ..)

theorem execCompact_memOk (h : s.memOk) (d a : VReg) (p : PReg) : OkNext (execCompact d a p s) := by
  unfold execCompact
  refine okNext_issued ?_
  intro r
  extract_lets +onlyGivenNames ty t act sel
  exact State.legalIf_memOk h _ _ _ (State.advance_memOk (memOk_of_mem (State.regWrites_mem ..) h) ..)

theorem predicate_memOk (h : s.memOk) (all : Bool) (d : PReg) (which : Mask) (f : State → PathRef → Mask) :
    OkNext (predicate all d which f s) := by
  unfold predicate
  refine okNext_issued ?_
  intro r
  extract_lets +onlyGivenNames m
  exact h

theorem execPand_memOk (h : s.memOk) (all : Bool) (d a b : PReg) : OkNext (execPand all d a b s) := by
  rw [execPand]
  exact predicate_memOk h ..

theorem execPor_memOk (h : s.memOk) (all : Bool) (d a b : PReg) : OkNext (execPor all d a b s) := by
  rw [execPor]
  exact predicate_memOk h ..

theorem execPxor_memOk (h : s.memOk) (all : Bool) (d a b : PReg) : OkNext (execPxor all d a b s) := by
  rw [execPxor]
  exact predicate_memOk h ..

theorem execPnot_memOk (h : s.memOk) (all : Bool) (d a : PReg) : OkNext (execPnot all d a s) := by
  rw [execPnot]
  exact predicate_memOk h ..

theorem execPmov_memOk (h : s.memOk) (all : Bool) (d a : PReg) : OkNext (execPmov all d a s) := by
  rw [execPmov]
  exact predicate_memOk h ..

theorem execPsetClr_memOk (h : s.memOk) (all : Bool) (d : PReg) : OkNext (execPsetClr all d s) := by
  rw [execPsetClr]
  exact predicate_memOk h ..

theorem execPsetSet_memOk (h : s.memOk) (all : Bool) (d : PReg) : OkNext (execPsetSet all d s) := by
  rw [execPsetSet]
  exact predicate_memOk h ..

theorem execPsetSc_memOk (h : s.memOk) (all : Bool) (d : PReg) (a : SReg) (k : BitVec 4) : OkNext (execPsetSc all d a k s) := by
  rw [execPsetSc]
  exact predicate_memOk h ..

theorem execXmget_memOk (h : s.memOk) (d : PReg) : OkNext (execXmget d s) := by
  rw [execXmget]
  exact okNext_issued (fun r => h)

/-! ### Control instructions -/

theorem execNop_memOk (h : s.memOk) : OkNext (execNop s) := by
  rw [execNop]
  exact okNext_issued (fun r => h)

theorem execBra_memOk (h : s.memOk) (off : BitVec 24) : OkNext (execBra off s) := by
  rw [execBra]
  exact okNext_issued (fun r => h)

theorem State.branchIf_memOk (h : s.memOk) (r : PathRef) (c : Bool) (off : Word) : (s.branchIf r c off).memOk := by
  rw [State.branchIf]
  split <;> exact h

theorem execBsz_memOk (h : s.memOk) (a : SReg) (off : Word) : OkNext (execBsz a off s) := by
  rw [execBsz]
  exact okNext_issued (fun r => State.branchIf_memOk h ..)

theorem execBsnz_memOk (h : s.memOk) (a : SReg) (off : Word) : OkNext (execBsnz a off s) := by
  rw [execBsnz]
  exact okNext_issued (fun r => State.branchIf_memOk h ..)

theorem execBany_memOk (h : s.memOk) (p : PReg) (off : Word) : OkNext (execBany p off s) := by
  rw [execBany]
  exact okNext_issued (fun r => State.branchIf_memOk h ..)

theorem execBall_memOk (h : s.memOk) (p : PReg) (off : Word) : OkNext (execBall p off s) := by
  rw [execBall]
  exact okNext_issued (fun r => State.branchIf_memOk h ..)

theorem execBrp_memOk (h : s.memOk) (neg : Bool) (p : PReg) (toff joff : BitVec 16) : OkNext (execBrp neg p toff joff s) := by
  unfold execBrp
  refine okNext_issued ?_
  intro r
  extract_lets +onlyGivenNames x act q tk tgt jn
  split
  · split
    · exact h
    · split
      · exact h
      · extract_lets +onlyGivenNames s
        have h1 : s.memOk := h
        clear_value s
        exact h1
  · split
    · exact State.takeStop_memOk h ..
    · extract_lets +onlyGivenNames e push
      have h1 : ∀ (e : StackEntry) (xm : Mask), (push e xm).memOk := fun e xm => h
      clear_value push
      split
      · exact State.advance_memOk (h1 ..) ..
      · split
        · exact memOk_of_mem (State.transfer_mem ..) (h1 ..)
        · exact State.advance_memOk (h1 ..) ..

theorem State.endPath_memOk (h : s.memOk) (r : PathRef) : (s.endPath r).memOk := h
theorem State.finishPath_memOk (h : s.memOk) (r : PathRef) (k : State → State) (hk : ∀ (a : State), a.memOk → (k a).memOk) :
    (s.finishPath r k).memOk := by
  unfold State.finishPath
  extract_lets +onlyGivenNames p last
  split
  · exact h
  · split
    · refine State.takeStop_memOk ?_ ..
      exact h
    · extract_lets -underBinder +onlyGivenNames fin
      have h2 : ∀ (s : State), s.memOk → (fin s).memOk := fun s h => State.barAfterEnd_memOk (State.endPath_memOk (hk _ h) _) _
      clear_value fin
      split
      · exact State.release_memOk h _ _ _ h2
      · exact h2 _ h

theorem State.setMask_memOk (h : s.memOk) (r : PathRef) (p : Path) (retired : Mask) (k : State → State)
    (hk : ∀ (a : State), a.memOk → (k a).memOk) : (s.setMask r p retired k).memOk := by
  unfold State.setMask
  split
  · exact memOk_of_mem (State.setPath_mem ..) (hk _ h)
  · extract_lets +onlyGivenNames q
    split
    · exact State.finishPath_memOk h _ _ hk
    · exact memOk_of_mem (State.setPath_mem ..) (hk _ h)

theorem execJoin_memOk (h : s.memOk) : OkNext (execJoin s) := by
  unfold execJoin
  refine okNext_issued ?_
  intro r
  extract_lets +onlyGivenNames t p
  split
  · split
    · exact State.takeStop_memOk h ..
    · split
      · extract_lets +onlyGivenNames e'
        exact h
      · extract_lets -underBinder +onlyGivenNames st src q
        have h1 : st.memOk := h
        clear_value st
        split
        · exact h1
        · refine State.setMask_memOk h _ _ _ _ ?_
          exact fun a h2 => h2
  · split
    · split
      · exact State.takeStop_memOk h ..
      · split
        · split
          · refine State.takeStop_memOk ?_ ..
            exact h
          · exact h
        · exact h
    · exact h

theorem execJmpiVector_memOk (h : s.memOk) (a : VReg) (b : SReg) (joff : Word) : OkNext (execJmpiVector a b joff s) := by
  unfold execJmpiVector
  refine okNext_issued ?_
  intro r
  extract_lets +onlyGivenNames t p act hd tgt
  refine State.legalIf_memOk h _ _ _ ?_
  split
  · exact h
  · extract_lets -underBinder +onlyGivenNames go fresh
    have h1 : ∀ (top : StackEntry) (rest : List StackEntry), (go top rest).memOk := by
      intro top rest
      unfold go
      extract_lets +onlyGivenNames grp
      refine State.legalIf_memOk h _ _ _ ?_
      exact h
    have h2 : ∀ (x : Unit), (fresh x).memOk := by
      intro x
      unfold fresh
      split
      · exact State.takeStop_memOk h ..
      · exact h1 ..
    clear_value go fresh
    split
    · split
      · exact h1 ..
      · exact h2 ..
    · exact h2 ..

theorem execJmpiUniform_memOk (h : s.memOk) (b : SReg) : OkNext (execJmpiUniform b s) := by
  rw [execJmpiUniform]
  refine okNext_issued ?_
  intro r
  split
  · exact h
  · refine State.legalIf_memOk h _ _ _ ?_
    exact h

theorem execCall_memOk (h : s.memOk) (d : SReg) (off : Word) : OkNext (execCall d off s) := by
  rw [execCall]
  exact okNext_issued (fun r => h)

theorem execCalli_memOk (h : s.memOk) (d a : SReg) : OkNext (execCalli d a s) := by
  unfold execCalli
  refine okNext_issued ?_
  intro r
  extract_lets +onlyGivenNames t tgt
  have h1 : t.memOk := h
  clear_value t
  refine State.legalIf_memOk h _ _ _ ?_
  exact h1

theorem execRet_memOk (h : s.memOk) (a : SReg) : OkNext (execRet a s) := by
  rw [execRet]
  refine okNext_issued ?_
  intro r
  refine State.legalIf_memOk h _ _ _ ?_
  exact h

theorem execExit_memOk (h : s.memOk) : OkNext (execExit s) := by
  unfold execExit
  refine okNext_issued ?_
  intro r
  extract_lets +onlyGivenNames act retired k p
  have h1 : ∀ (s : State), s.memOk → (k s).memOk := fun s h1 => h1
  clear_value k
  exact State.setMask_memOk h _ _ _ _ h1

theorem execXmset_memOk (h : s.memOk) (neg : Bool) (p : PReg) : OkNext (execXmset neg p s) := by
  unfold execXmset
  refine okNext_issued ?_
  intro r
  extract_lets +onlyGivenNames t x lim m q
  refine State.setMask_memOk h _ _ _ _ ?_
  exact fun a h1 => h1

theorem execMacroWord_memOk (h : s.memOk) (m : BitVec 6) (p0 p1 : BitVec 8) : OkNext (execMacroWord m p0 p1 s) := by
  rw [execMacroWord]
  refine okNext_issued ?_
  intro r
  refine State.legalIf_memOk h _ _ _ ?_
  exact h

theorem execYield_memOk (h : s.memOk) : OkNext (execYield s) := by
  rw [execYield]
  exact okNext_issued (fun r => h)

theorem execTrap_memOk (h : s.memOk) (n : BitVec 8) : OkNext (execTrap n s) := by
  unfold execTrap
  refine okNext_issued ?_
  intro r
  extract_lets +onlyGivenNames pc
  refine State.takeStop_memOk ?_ ..
  exact h

theorem execUnassignedOpcode_memOk (h : s.memOk) (_op : Byte) : OkNext (execUnassignedOpcode _op s) := by
  rw [execUnassignedOpcode]
  exact okNext_issued (fun r => State.illegal_memOk h ..)

theorem State.foundPoison_memOk (h : s.memOk) (r : PathRef) (n : Option PoisonNote) : (s.foundPoison r n).memOk := by
  unfold State.foundPoison
  split
  · exact h
  · split
    · exact State.takeStop_memOk h ..
    · exact h

theorem State.foundBoth_memOk (h : s.memOk) (r : PathRef) (both : Bool) (n : Option PoisonNote) : (s.foundBoth r both n).memOk := by
  unfold State.foundBoth
  extract_lets +onlyGivenNames s
  have h1 : s.memOk := State.foundPoison_memOk h ..
  clear_value s
  split
  · exact State.foundPoison_memOk h1 ..
  · exact h1

theorem State.complete_memOk (h : s.memOk) (p : Pend) : (s.complete p).memOk := by
  unfold State.complete
  extract_lets +onlyGivenNames both s s1
  have h1 : s.memOk := h
  have h2 : s1.memOk := State.foundBoth_memOk (memOk_of_mem (State.clearFlagBoth_mem ..) (memOk_of_mem (State.regWrites_mem ..) h1)) ..
  clear_value s s1
  split
  · exact State.acquireAct_memOk h2 ..
  · exact h2

theorem execLongLatencyCompletion_memOk (h : s.memOk) (n : Nat) : OkNext (execLongLatencyCompletion n s) := by
  unfold execLongLatencyCompletion
  split
  · exact okNext h
  · split
    · exact okNext h
    · extract_lets +onlyGivenNames s
      have h1 : s.memOk := (calm_bindPend ..).ok h
      clear_value s
      split
      · exact okNext h1
      · exact okNext (State.complete_memOk h1 ..)

theorem State.landEarly_memOk (h : s.memOk) (n k : Nat) : (s.landEarly n k).memOk := by
  unfold State.landEarly
  split
  · exact h
  · split
    · exact h
    · extract_lets +onlyGivenNames s
      have h1 : s.memOk := (calm_bindPend ..).ok h
      clear_value s
      split
      · exact h1
      · split
        · exact h1
        · exact memOk_of_mem (State.regWrites_mem ..) h1

theorem execValueArrival_memOk (h : s.memOk) (n : Nat) : OkNext (execValueArrival n s) := by
  unfold execValueArrival
  split
  · exact okNext h
  · extract_lets +onlyGivenNames s
    have h1 : s.memOk := h
    clear_value s
    exact okNext (State.foundPoison_memOk (memOk_of_mem (State.regWrites_mem ..) h1) ..)

theorem execPathMerge_memOk (h : s.memOk) (tok : Nat) : OkNext (execPathMerge tok s) := by
  rw [execPathMerge]
  split
  · exact okNext h
  · exact okNext h

theorem execTeamRetirement_memOk (h : s.memOk) (tok : Nat) : OkNext (execTeamRetirement tok s) := by
  rw [execTeamRetirement]
  split
  · exact okNext ((calm_retireTeam ..).ok h)
  · exact okNext h

end Sys2Proof.Machine
end

section
/-! SUPPORT. Freezes, captures, the pod and the tables of translation keep memory in its canonical form. -/

namespace Sys2Proof.Machine

variable {s : State}

/-! ### Freezes and captures -/

theorem State.frzRequest_memOk (h : s.memOk) (src addr : Nat) (who : Option Nat) (c : Nat) (thaw : Bool) :
    (s.frzRequest src addr who c thaw).memOk := by
  rw [State.frzRequest]
  split
  · exact h
  · exact State.logRefused_memOk _ _ _ h ..

theorem State.logFreeze_memOk (h : s.memOk) (c : Nat) (thaw : Bool) : (s.logFreeze c thaw).memOk := by
  rw [State.logFreeze]
  exact State.logEvent_memOk _ _ _ h ..

theorem State.endFrz_memOk (h : s.memOk) (c : Nat) : (s.endFrz c).memOk := by
  rw [State.endFrz]
  refine foldl_keeps State.memOk _ _ _ (fun s r h1 => ?_) h
  split
  · exact h1
  · exact h1

theorem execFreezeTakesEffect_memOk (h : s.memOk) (c : Nat) : OkNext (execFreezeTakesEffect c s) := by
  unfold execFreezeTakesEffect
  split
  · exact okNext h
  · extract_lets +onlyGivenNames s s1
    have h1 : s.memOk := State.endFrz_memOk (State.passTo_memOk h ..) ..
    have h2 : s1.memOk := h1
    clear_value s s1
    split
    · exact okNext (State.logFreeze_memOk h2 ..)
    · extract_lets +onlyGivenNames cores s s1 shared s2
      have h3 : s.memOk := h2
      have h4 : s1.memOk := foldl_keeps State.memOk _ _ _ (fun s k h4 => State.flushHome_memOk _ (State.refreeze_memOk h4 ..) ..) h3
      have h5 : s2.memOk := h4
      clear_value s s1 s2
      refine okNext ?_
      refine State.logFreeze_memOk ?_ ..
      exact h5

theorem State.unpause_memOk (h : s.memOk) (c at' : Nat) : (s.unpause c at').memOk := h

theorem execThawTakesEffect_memOk (h : s.memOk) (c : Nat) : OkNext (execThawTakesEffect c s) := by
  unfold execThawTakesEffect
  split
  · exact okNext h
  · extract_lets +onlyGivenNames s s1
    have h1 : s.memOk := State.passTo_memOk h ..
    have h2 : s1.memOk := h1
    clear_value s s1
    split
    · exact okNext (State.logFreeze_memOk h2 ..)
    · extract_lets +onlyGivenNames at' s s1
      have h3 : s.memOk := h2
      have h4 : s1.memOk := foldl_keeps State.memOk _ _ _ (fun s core h4 => State.refreeze_memOk h4 ..) h3
      clear_value s s1
      refine okNext ?_
      refine State.logFreeze_memOk ?_ ..
      refine State.acceptHeld_memOk ?_ ..
      exact h4

theorem State.scanRead_memOk (h : s.memOk) (src : Nat) (who : Option Nat) : (s.scanRead src who).1.memOk := by
  unfold State.scanRead
  extract_lets +onlyGivenNames sel off next bad
  have h1 : next.memOk := State.csrPut_memOk h ..
  have h2 : bad.1.memOk := State.logRefused_memOk _ _ _ h1 ..
  clear_value next bad
  split
  · exact h2
  · extract_lets +onlyGivenNames img
    split
    · exact h2
    · exact h1

theorem execScandata_memOk (h : s.memOk) : OkNext (execScandata s) := by
  unfold execScandata
  extract_lets +onlyGivenNames x
  have h1 : x.1.memOk := State.scanRead_memOk h ..
  clear_value x
  exact okNext h1

theorem State.iceStart_memOk (h : s.memOk) (src : Nat) (who : Option Nat) (c : Nat) : (s.iceStart src who c).memOk := by
  rw [State.iceStart]
  split
  · exact State.logRefused_memOk _ _ _ h ..
  · exact h

theorem State.iceRecall_memOk (h : s.memOk) (c : Nat) : (s.iceRecall c).memOk := by
  rw [State.iceRecall]
  exact (calm_drainIf ..).ok h

theorem execIceboxFinished_memOk (h : s.memOk) (ok : Bool) : OkNext (execIceboxFinished ok s) := by
  unfold execIceboxFinished
  split
  · exact okNext h
  · extract_lets +onlyGivenNames s data n st s1 s2
    have h1 : s.memOk := by
      unfold s
      split
      · exact State.iceRecall_memOk h ..
      · exact h
    have h2 : s1.memOk := h1
    have h3 : s2.memOk := by
      unfold s2
      split
      · exact h2
      · exact h2
    clear_value s s1 s2
    exact okNext (State.logEvent_memOk _ _ _ h3 ..)

theorem execCheckpointStream_memOk (h : s.memOk) (src : Nat) (data : Marked) : OkNext (execCheckpointStream src data s) := by
  unfold execCheckpointStream
  extract_lets +onlyGivenNames i base
  split
  · exact okNext (foldl_keeps State.memOk _ _ _ (fun s o h1 => memOk_of_mem (State.poisonFlake_mem ..) (memOk_of_mem
      (State.poisonFlake_mem ..) h1)) (State.homeWrite_memOk _ _ h))
  · exact okNext h

/-! ### The pod -/

theorem State.logPeer_memOk (h : s.memOk) (d peer kind : Nat) (ctx : Option Nat) : (s.logPeer d peer kind ctx).memOk := by
  rw [State.logPeer]
  exact State.logEvent_memOk _ _ _ h ..

theorem State.failPeer_memOk (h : s.memOk) (d peer : Nat) : (s.failPeer d peer).memOk := h

theorem State.withdrawVersion_memOk (h : s.memOk) (d v : Nat) : (s.withdrawVersion d v).memOk := by
  unfold State.withdrawVersion
  extract_lets +onlyGivenNames n pre peers key s
  have h1 : s.memOk := h
  clear_value s
  exact State.postAll_memOk h1 ..

theorem State.answerAlloc_memOk (h : s.memOk) (src req d : Nat) (key : BitVec 32) (v : Option Nat) :
    (s.answerAlloc src req d key v).memOk := by
  rw [State.answerAlloc]
  split
  · exact State.allocAnswered_memOk h ..
  · exact h

theorem State.allocMsg_memOk (h : s.memOk) (src req d parent : Nat) (key : BitVec 32) : (s.allocMsg src req d parent key).memOk := by
  unfold State.allocMsg
  extract_lets +onlyGivenNames x
  split
  · exact h
  · split
    · exact State.answerAlloc_memOk h ..
    next s v e =>
      have ok : s.memOk := OkOption.out (State.allocate_memOk h ..) e
      exact State.answerAlloc_memOk ok ..
    next s fst e =>
      have ok : s.memOk := OkOption.out (State.allocate_memOk h ..) e
      exact ok

theorem execAlloc_memOk (h : s.memOk) (via : Via) (req d parent : Nat) : OkNext (execAlloc via req d parent s) := by
  rw [execAlloc]
  exact okNext (State.onMsg_memOk h _ _ (okOption (State.allocMsg_memOk h ..)))

theorem State.noticeMsg_memOk (h : s.memOk) (key : BitVec 32) (n : DomNum) (v : NewVer) : OkOption State.memOk (s.noticeMsg key n v) := by
  unfold State.noticeMsg
  extract_lets +onlyGivenNames x
  split
  · exact okOption h
  · split
    · exact okOption_none
    · extract_lets +onlyGivenNames s
      have h1 : s.memOk := by
        unfold s
        split
        · exact h
        · exact h
      clear_value s
      exact okOption h1

theorem execVersionNotice_memOk (h : s.memOk) (via : Via) (n : DomNum) (v : NewVer) : OkNext (execVersionNotice via n v s) := by
  rw [execVersionNotice]
  exact okNext (State.onMsg_memOk h _ _ (State.noticeMsg_memOk h ..))

theorem State.allocAcked_memOk (h : s.memOk) (d ver peer : Nat) : (s.allocAcked d ver peer).memOk := by
  unfold State.allocAcked
  split
  · exact h
  · extract_lets +onlyGivenNames left s
    have h1 : s.memOk := h
    clear_value s
    split
    · exact State.answerAlloc_memOk h1 ..
    · exact h1

theorem execAllocAckTimeout_memOk (h : s.memOk) (d ver peer : Nat) : OkNext (execAllocAckTimeout d ver peer s) := by
  unfold execAllocAckTimeout
  split
  · exact okNext h
  · extract_lets +onlyGivenNames ctx
    refine okNext ?_
    refine State.answerAlloc_memOk ?_ ..
    refine State.logPeer_memOk ?_ ..
    refine State.withdrawVersion_memOk ?_ ..
    exact h

theorem execAllocAnswerTimeout_memOk (h : s.memOk) (req : Nat) : OkNext (execAllocAnswerTimeout req s) := by
  unfold execAllocAnswerTimeout
  split
  · exact okNext h
  · extract_lets +onlyGivenNames home
    split
    · exact okNext h
    · exact okNext (memOk_of_mem rfl (State.allocAnswered_memOk h ..))

theorem State.cancelMsg_memOk (h : s.memOk) (src req d : Nat) : (s.cancelMsg src req d).memOk := by
  unfold State.cancelMsg
  split
  · exact h
  · exact State.withdrawVersion_memOk h ..

theorem execCancel_memOk (h : s.memOk) (via : Via) (req d : Nat) : OkNext (execCancel via req d s) := by
  rw [execCancel]
  exact okNext (State.onMsg_memOk h _ _ (okOption (State.cancelMsg_memOk h ..)))

theorem State.numbered_memOk (h : s.memOk) (key : BitVec 32) (n : DomNum) (act : State → State)
    (hact : ∀ (a : State), a.memOk → (act a).memOk) : OkOption State.memOk (s.numbered key n act) := by
  unfold State.numbered
  extract_lets +onlyGivenNames x acks
  have h2 : ∀ (s : State), s.memOk → (acks s).memOk := fun s h2 => h2
  clear_value acks
  split
  · exact okOption h
  · split
    · exact okOption (h2 _ h)
    · split
      · exact okOption (h2 _ ((calm_modDom ..).ok (hact _ h)))
      · exact okOption_none

theorem execWithdraw_memOk (h : s.memOk) (via : Via) (n : DomNum) (ver : Nat) : OkNext (execWithdraw via n ver s) := by
  rw [execWithdraw]
  refine okNext ?_
  refine State.onMsg_memOk h _ _ ?_
  refine State.numbered_memOk h _ _ _ ?_
  exact fun a h1 => h1

theorem State.resolveMsg_memOk (h : s.memOk) (d : Nat) (committed squashed : List Nat) : (s.resolveMsg d committed squashed).memOk := by
  unfold State.resolveMsg
  extract_lets +onlyGivenNames s
  have h1 : s.memOk := State.applyResolve_memOk h ..
  clear_value s
  exact h1

theorem execResolveBroadcast_memOk (h : s.memOk) (via : Via) (n : DomNum) (committed squashed : List Nat) :
    OkNext (execResolveBroadcast via n committed squashed s) := by
  rw [execResolveBroadcast]
  exact okNext (State.onMsg_memOk h _ _ (State.numbered_memOk h _ _ _ (fun a h1 => State.resolveMsg_memOk h1 ..)))

theorem State.resolveEnd_memOk (h : s.memOk) (d n peer : Nat) (acked : Bool) : (s.resolveEnd d n peer acked).memOk := by
  unfold State.resolveEnd
  split
  · exact h
  · extract_lets +onlyGivenNames y s
    have h1 : s.memOk := h
    clear_value s
    split
    · exact State.giveResult_memOk h1 ..
    · exact h1

theorem execResolveAckTimeout_memOk (h : s.memOk) (d n peer : Nat) : OkNext (execResolveAckTimeout d n peer s) := by
  unfold execResolveAckTimeout
  split
  · exact okNext h
  · extract_lets +onlyGivenNames s
    have h1 : s.memOk := by
      unfold s
      refine State.logPeer_memOk ?_ ..
      exact h
    clear_value s
    exact okNext (State.resolveEnd_memOk h1 ..)

theorem State.noteLooped_memOk (h : s.memOk) (p : Packet) : (s.noteLooped p).memOk := by
  rw [State.noteLooped]
  split
  · exact h
  · exact h

theorem execTransactionPacket_memOk (h : s.memOk) (port : Nat) (p : Packet) : OkNext (execTransactionPacket port p s) := by
  unfold execTransactionPacket
  split
  · exact okNext h
  · extract_lets +onlyGivenNames msg
    have h1 : ∀ (a : State → State), (∀ (a_1 : State), a_1.memOk → (a a_1).memOk) → OkNext (msg a) := fun a h1 => okNext
      (State.onMsg_memOk h _ _ (okOption (h1 _ h)))
    clear_value msg
    split
    · exact h1 _ (fun a h2 => State.allocAnswered_memOk h2 ..)
    · exact h1 _ (fun a h2 => State.allocAcked_memOk h2 ..)
    · exact h1 _ (fun a h2 => State.resolveEnd_memOk h2 ..)
    · exact h1 _ (fun a h2 => State.answerMsg_memOk h2 ..)
    · exact h1 _ (fun a h2 => h2)
    · refine h1 _ ?_
      exact fun a h2 => h2
    · extract_lets +onlyGivenNames s
      have h2 : s.memOk := State.noteLooped_memOk h ..
      clear_value s
      split
      · exact okNext (State.dropPacket_memOk h2 ..)
      · split
        · exact okNext (State.accept_memOk h2 ..)
        · exact okNext (State.accept_memOk h2 ..)
        · exact okNext (State.accept_memOk h2 ..)
        · exact okNext (State.remoteReply_memOk h2 ..)
        · exact okNext (State.remoteReply_memOk h2 ..)
        · exact okNext h2
        · exact okNext h2

theorem State.gaveUp_memOk (h : s.memOk) (p : Packet) : (s.gaveUp p).memOk := by
  unfold State.gaveUp
  split
  any_goals exact State.failMember_memOk h ..
  · exact h
  · exact h
  · exact h
  · exact h

theorem execAckResend_memOk (h : s.memOk) (serial : Nat) : OkNext (execAckResend serial s) := by
  unfold execAckResend
  split
  · split
    · exact okNext h
    · extract_lets +onlyGivenNames port
      exact okNext h
  · split
    · exact okNext h
    · split
      · refine okNext ?_
        refine State.gaveUp_memOk ?_ ..
        exact h
      · extract_lets +onlyGivenNames port
        exact okNext h

theorem execLinkDown_memOk (h : s.memOk) (port : Nat) : OkNext (execLinkDown port s) := by
  rw [execLinkDown]
  split
  · refine okNext ?_
    refine State.movePorts_memOk ?_ ..
    refine State.logEvent_memOk _ _ _ ?_ ..
    exact h
  · exact okNext h

theorem execLinkUp_memOk (h : s.memOk) (port : Nat) : OkNext (execLinkUp port s) := by
  rw [execLinkUp]
  split
  · refine okNext ?_
    refine State.sendWaiting_memOk ?_
    exact h
  · exact okNext h

/-! ### Tables of translation -/

theorem State.readCtx_memOk (h : s.memOk) (c : Nat) : (s.readCtx c).memOk := by
  unfold State.readCtx
  extract_lets +onlyGivenNames base inside bs new old out s' s'1
  have h1 : s'.memOk := h
  have h2 : s'1.memOk := by
    unfold s'1
    split
    · exact State.logEntry_memOk h1 ..
    · exact h1
  clear_value s' s'1
  exact h2

theorem State.readCtxs_memOk (h : s.memOk) : s.readCtxs.memOk := by
  rw [State.readCtxs]
  exact foldl_keeps State.memOk _ _ _ (fun s c h1 => State.readCtx_memOk h1 ..) h

theorem State.readWq_memOk (h : s.memOk) (q : Nat) : (s.readWq q).memOk := by
  unfold State.readWq
  extract_lets +onlyGivenNames base bs e fresh
  split
  · exact h
  · extract_lets +onlyGivenNames put
    have h1 : ∀ (w : WqEnt) (s : State), s.memOk → (put w s).memOk := fun w s h1 => h1
    clear_value put
    split
    · exact h1 _ _ h
    · split
      · exact h1 _ _ h
      · refine h1 _ _ ?_
        split
        · exact State.logEntry_memOk h ..
        · exact h

theorem State.readWqs_memOk (h : s.memOk) : s.readWqs.memOk := by
  rw [State.readWqs]
  exact foldl_keeps State.memOk _ _ _ (fun s q h1 => State.readWq_memOk h1 ..) h

theorem State.readDom_memOk (h : s.memOk) (d : Nat) : (s.readDom d).memOk := by
  unfold State.readDom
  extract_lets +onlyGivenNames base bs x fresh s
  have h1 : s.memOk := h
  clear_value s
  split
  · split
    · exact State.logEntry_memOk h1 ..
    · exact h1
  · split
    · exact h1
    · split
      · split
        · exact State.logEntry_memOk h1 ..
        · exact h1
      · exact h1

theorem State.readDoms_memOk (h : s.memOk) : s.readDoms.memOk := by
  rw [State.readDoms]
  exact foldl_keeps State.memOk _ _ _ (fun s d h1 => State.readDom_memOk h1 ..) h

theorem State.readSched_memOk (h : s.memOk) (p : Nat) : (s.readSched p).memOk := by
  unfold State.readSched
  extract_lets +onlyGivenNames base bs
  split
  · exact State.noteSlices_memOk h ..
  · extract_lets +onlyGivenNames s
    have h1 : s.memOk := h
    clear_value s
    split
    · refine State.noteSlices_memOk ?_ ..
      exact h1
    · exact State.logEntry_memOk h1 ..

theorem State.readMembership_memOk (h : s.memOk) : s.readMembership.memOk := h

theorem State.refuseInvalid_memOk (h : s.memOk) (hd : Nat) : (s.refuseInvalid hd).memOk := by
  unfold State.refuseInvalid
  extract_lets +onlyGivenNames g waits
  split
  · extract_lets -underBinder +onlyGivenNames src s
    have h1 : s.memOk := (calm_withoutVersions ..).ok (State.refuse_memOk h ..)
    clear_value s
    exact foldl_keeps State.memOk _ _ _ (fun s a h2 => State.giveResult_memOk h2 ..) h1
  · exact h

theorem State.readTables_memOk (h : s.memOk) : s.readTables.memOk := by
  unfold State.readTables
  extract_lets +onlyGivenNames s s1
  have h1 : s.memOk := State.readDoms_memOk (State.readRegions_memOk (State.readWqs_memOk (State.readCtxs_memOk h)))
  have h2 : s1.memOk := State.readMembership_memOk (foldl_keeps State.memOk _ _ _ (fun s p h2 => State.readSched_memOk h2 ..) h1)
  clear_value s s1
  exact foldl_keeps State.memOk _ _ _ (fun s h h3 => State.refuseInvalid_memOk h3 ..) h2

end Sys2Proof.Machine
end

section
/-! SUPPORT. Control registers, the host's ports, detected errors and the system's events keep memory in its canonical form. -/

namespace Sys2Proof.Machine

variable {s : State}

/-! ### Control registers -/

theorem State.refused_memOk (h : s.memOk) (w : Writer) (addr val : Nat) : (s.refused w addr val).memOk := by
  rw [State.refused]
  exact State.logRefused_memOk _ _ _ h ..

theorem State.putIf_memOk (h : s.memOk) (w : Writer) (addr unit val : Nat) (ok : Bool) (v : Nat) :
    (s.putIf w addr unit val ok v).memOk := by
  rw [State.putIf]
  split
  · exact State.csrPut_memOk h ..
  · exact State.refused_memOk h ..

theorem State.poolWrite_memOk (h : s.memOk) (w : Writer) (core i val : Nat) : (s.poolWrite w core i val).memOk := by
  unfold State.poolWrite
  extract_lets +onlyGivenNames t b
  split
  · exact State.refused_memOk h ..
  · exact State.csrPut_memOk ((calm_dropCopies ..).ok (State.flushHome_memOk _ h ..)) ..

theorem State.partWrite_memOk (h : s.memOk) (w : Writer) (n val : Nat) : (s.partWrite w n val).memOk := by
  unfold State.partWrite
  extract_lets +onlyGivenNames v x
  exact State.putIf_memOk h ..

theorem State.d2dWrite_memOk (h : s.memOk) (w : Writer) (val : Nat) : (s.d2dWrite w val).memOk := by
  unfold State.d2dWrite
  extract_lets +onlyGivenNames n01 n10
  split
  · refine State.csrPut_memOk ?_ ..
    exact h
  · exact State.refused_memOk h ..

theorem State.setDq_memOk (h : s.memOk) (b : Bool) : (s.setDq b).memOk := by
  rw [State.setDq]
  split
  · split
    · exact h
    · exact h
  · refine State.payOwed_memOk ?_
    exact h

theorem State.prdWrite_memOk (h : s.memOk) (val : Nat) : (s.prdWrite val).memOk := by
  suffices hs : OkState (s.prdWrite val) from hs.ok
  unfold State.prdWrite
  extract_lets +onlyGivenNames old new
  clear_value old new
  extract_lets +onlyGivenNames s
  have h1 : OkState s := by
    unfold s
    exact ⟨State.csrPut_memOk (State.setDq_memOk h ..) ..⟩
  clear_value s
  exact ⟨State.sendWaiting_memOk (State.movePorts_memOk (s := { s with pqd := s.pqd &&& new }) h1.ok ..)⟩

theorem State.portenWrite_memOk (h : s.memOk) (w : Writer) (val : Nat) : (s.portenWrite w val).memOk := by
  unfold State.portenWrite
  extract_lets +onlyGivenNames old new ch
  split
  · exact State.refused_memOk h ..
  · split
    · exact h
    · refine State.csrPut_memOk ?_ ..
      exact h

theorem State.rankWrite_memOk (h : s.memOk) (w : Writer) (val : Nat) : (s.rankWrite w val).memOk := by
  unfold State.rankWrite
  extract_lets +onlyGivenNames ok s'
  have h1 : s'.memOk := State.putIf_memOk h ..
  clear_value s'
  split
  · exact h1
  · exact h1

theorem State.stepWrite_memOk (h : s.memOk) (w : Writer) (val : Nat) : (s.stepWrite w val).memOk := by
  unfold State.stepWrite
  extract_lets +onlyGivenNames old new resume reads m
  split
  · exact State.refused_memOk h ..
  · extract_lets +onlyGivenNames s s1
    have h1 : s.memOk := State.csrPut_memOk h ..
    have h2 : s1.memOk := by
      unfold s1
      split
      · exact h1
      · exact h1
    clear_value s s1
    split
    · refine State.stepCheck_memOk ?_ ..
      exact h2
    · exact h2

theorem State.firnBaseWrite_memOk (h : s.memOk) (w : Writer) (die val : Nat) : (s.firnBaseWrite w die val).memOk := by
  unfold State.firnBaseWrite
  extract_lets +onlyGivenNames v
  exact State.putIf_memOk h ..

theorem State.firnSizeWrite_memOk (h : s.memOk) (w : Writer) (die val : Nat) : (s.firnSizeWrite w die val).memOk := by
  unfold State.firnSizeWrite
  extract_lets +onlyGivenNames v low
  exact State.putIf_memOk h ..

theorem State.doorbell_memOk (h : s.memOk) (die : Bool) : (s.doorbell die).memOk := by
  unfold State.doorbell
  extract_lets +onlyGivenNames s
  have h1 : s.memOk := memOk_of_mem (State.wfiSaved_mem ..) (State.readTables_memOk h)
  clear_value s
  refine foldl_keeps State.memOk _ _ _ (fun s r h2 => ?_) h1
  split
  · exact memOk_of_mem (State.wfiEvent_mem ..) h2
  · exact h2

theorem State.hflush_memOk (h : s.memOk) (port : Bool) (token : Nat) : (s.hflush port token).memOk := by
  rw [State.hflush]
  exact State.csrPut_memOk (State.deliver_memOk h ..) ..

theorem State.plainWrite_memOk (h : s.memOk) (w : Writer) (addr unit val : Nat) : (s.plainWrite w addr unit val).memOk := by
  unfold State.plainWrite
  extract_lets +onlyGivenNames get put
  have h1 : ∀ (ok : Bool) (v : Nat), (put ok v).memOk := fun ok v => State.putIf_memOk h ..
  clear_value put
  split
  any_goals exact h1 ..
  · exact State.csrPut_memOk h ..
  · extract_lets +onlyGivenNames s'
    have h2 : s'.memOk := h1 ..
    split
    · exact h2
    · exact h2
  · exact h

theorem State.csrWrite_memOk (h : s.memOk) (w : Writer) (addr unit val : Nat) : (s.csrWrite w addr unit val).memOk := by
  unfold State.csrWrite
  split
  · exact h
  · split
    · exact State.refused_memOk h ..
    · split
      · exact State.poolWrite_memOk h ..
      · exact State.poolWrite_memOk h ..
      · exact State.poolWrite_memOk h ..
      · exact State.doorbell_memOk h ..
      · exact State.firnBaseWrite_memOk h ..
      · exact State.firnSizeWrite_memOk h ..
      · exact State.clkWrite_memOk h ..
      · exact State.partWrite_memOk h ..
      · exact State.partWrite_memOk h ..
      · exact State.partWrite_memOk h ..
      · exact State.partWrite_memOk h ..
      · exact State.partWrite_memOk h ..
      · exact State.partWrite_memOk h ..
      · exact State.hflush_memOk h ..
      · exact State.hflush_memOk h ..
      · exact State.frzRequest_memOk h ..
      · exact State.iceStart_memOk h ..
      · exact State.d2dWrite_memOk h ..
      · exact State.prdWrite_memOk h ..
      · exact State.portenWrite_memOk h ..
      · exact State.rankWrite_memOk h ..
      · exact State.stepWrite_memOk h ..
      · split
        · exact State.recover_memOk h ..
        · exact h
      · exact State.plainWrite_memOk h ..

theorem State.semAsk_memOk (h : s.memOk) (src : SemSource) (n : Nat) (write : Bool) (val : DWord) (who : Option PathRef) :
    (s.semAsk src n write val who).memOk := h

theorem execControlRegisterWrite_memOk (h : s.memOk) (src : Nat) (addr : BitVec 16) (unit : Nat) (val : DWord) :
    OkNext (execControlRegisterWrite src addr unit val s) := by
  unfold execControlRegisterWrite
  extract_lets +onlyGivenNames a
  split
  · exact okNext h
  · exact okNext (State.csrWrite_memOk h ..)

theorem execPoolBoundaryWrite_memOk (h : s.memOk) (core : Nat) (reg : PoolReg) (val : DWord) :
    OkNext (execPoolBoundaryWrite core reg val s) := by
  unfold execPoolBoundaryWrite
  exact okNext (State.csrWrite_memOk h ..)

theorem execDoorbell_memOk (h : s.memOk) (die : Bool) : OkNext (execDoorbell die s) := by
  rw [execDoorbell]
  exact okNext (State.csrWrite_memOk h ..)

theorem execHflush_memOk (h : s.memOk) (port : Bool) (token : Word) : OkNext (execHflush port token s) := by
  rw [execHflush]
  exact okNext (State.csrWrite_memOk h ..)

theorem execPartWrite_memOk (h : s.memOk) (n : Nat) (val : DWord) : OkNext (execPartWrite n val s) := by
  rw [execPartWrite]
  split
  · exact okNext (State.csrWrite_memOk h ..)
  · exact okNext h

theorem execClkctl_memOk (h : s.memOk) (die : Bool) (val : DWord) : OkNext (execClkctl die val s) := by
  rw [execClkctl]
  exact okNext (State.csrWrite_memOk h ..)

theorem execD2dconn_memOk (h : s.memOk) (val : DWord) : OkNext (execD2dconn val s) := by
  rw [execD2dconn]
  exact okNext (State.csrWrite_memOk h ..)

theorem execPorten_memOk (h : s.memOk) (val : Word) : OkNext (execPorten val s) := by
  rw [execPorten]
  exact okNext (State.csrWrite_memOk h ..)

theorem execFmode_memOk (h : s.memOk) (strict : Bool) : OkNext (execFmode strict s) := by
  rw [execFmode]
  exact okNext (State.csrWrite_memOk h ..)

theorem execRankWrite_memOk (h : s.memOk) (rank : BitVec 12) : OkNext (execRankWrite rank s) := by
  rw [execRankWrite]
  exact okNext (State.csrWrite_memOk h ..)

theorem execStepctlEn_memOk (h : s.memOk) (val : DWord) : OkNext (execStepctlEn val s) := by
  rw [execStepctlEn]
  exact okNext (State.csrWrite_memOk h ..)

theorem execFirnsize_memOk (h : s.memOk) (die : Bool) (val : DWord) : OkNext (execFirnsize die val s) := by
  rw [execFirnsize]
  exact okNext (State.csrWrite_memOk h ..)

theorem execFrzctlFreeze_memOk (h : s.memOk) (ctx : Nat) : OkNext (execFrzctlFreeze ctx s) := by
  rw [execFrzctlFreeze]
  exact okNext (State.csrWrite_memOk h ..)

theorem execFrzctlThaw_memOk (h : s.memOk) (ctx : Nat) : OkNext (execFrzctlThaw ctx s) := by
  rw [execFrzctlThaw]
  exact okNext (State.csrWrite_memOk h ..)

theorem execIcectl_memOk (h : s.memOk) (ctx : Nat) : OkNext (execIcectl ctx s) := by
  rw [execIcectl]
  exact okNext (State.csrWrite_memOk h ..)

theorem State.dqWrite_memOk (h : s.memOk) (b : Bool) : (s.dqWrite b).memOk := by
  rw [State.dqWrite]
  exact State.csrWrite_memOk h ..

theorem execDqSet_memOk (h : s.memOk) : OkNext (execDqSet s) := by
  rw [execDqSet]
  exact okNext (State.dqWrite_memOk h ..)

theorem execDqClear_memOk (h : s.memOk) : OkNext (execDqClear s) := by
  rw [execDqClear]
  exact okNext (State.dqWrite_memOk h ..)

theorem execPq_memOk (h : s.memOk) (mask : Word) : OkNext (execPq mask s) := by
  rw [execPq]
  exact okNext (State.csrWrite_memOk h ..)

theorem execResume_memOk (h : s.memOk) : OkNext (execResume s) := by
  rw [execResume]
  exact okNext (State.csrWrite_memOk h ..)

theorem execDieToDieQuiesced_memOk (h : s.memOk) : OkNext (execDieToDieQuiesced s) := by
  unfold execDieToDieQuiesced
  extract_lets +onlyGivenNames crosses
  split
  · exact okNext h
  · exact okNext h

theorem execPortQuiesced_memOk (h : s.memOk) (port : Nat) : OkNext (execPortQuiesced port s) := by
  rw [execPortQuiesced]
  split
  · exact okNext h
  · exact okNext h

theorem execCircuitChangeDone_memOk (h : s.memOk) : OkNext (execCircuitChangeDone s) := by
  unfold execCircuitChangeDone
  split
  · exact okNext h
  next t e =>
    have h1 : (s.passTo t).memOk := State.passTo_memOk h t
    exact okNext h1

/-! ### The host's ports -/

theorem State.setSem_memOk (h : s.memOk) (n : Nat) (m : Sem) : (s.setSem n m).memOk := h

theorem State.semAnswer_memOk (h : s.memOk) (q : SemReq) (v : Nat) : (s.semAnswer q v).memOk := by
  unfold State.semAnswer
  extract_lets +onlyGivenNames x
  split
  · split
    · split
      · exact h
      · exact h
    · exact h
  · exact h

theorem State.semServe_memOk (h : s.memOk) (q : SemReq) : (s.semServe q).memOk := by
  unfold State.semServe
  extract_lets +onlyGivenNames m mine
  split
  · split
    · exact h
    · exact State.logRefused_memOk _ _ _ h ..
  · split
    · exact State.semAnswer_memOk h ..
    · refine State.semAnswer_memOk ?_ ..
      exact h

theorem execSemaphoreTickServe_memOk (h : s.memOk) : OkNext (execSemaphoreTickServe s) := by
  unfold execSemaphoreTickServe
  split
  · exact okNext h
  · extract_lets +onlyGivenNames t now s
    have h1 : s.memOk := by
      unfold s
      refine State.passTo_memOk ?_ ..
      exact h
    clear_value s
    exact okNext (foldl_keeps State.memOk _ _ _ (fun s q h2 => State.semServe_memOk h2 ..) h1)

theorem execSemRead_memOk (h : s.memOk) (src : SemSource) (n : Nat) : OkNext (execSemRead src n s) := by
  rw [execSemRead]
  split
  · exact okNext h
  · exact okNext h

theorem execSemWrite_memOk (h : s.memOk) (src : SemSource) (n : Nat) : OkNext (execSemWrite src n s) := by
  rw [execSemWrite]
  split
  · exact okNext h
  · exact okNext h

theorem execHostLinkDown_memOk (h : s.memOk) (port : Bool) : OkNext (execHostLinkDown port s) := by
  unfold execHostLinkDown
  extract_lets +onlyGivenNames s
  have h1 : s.memOk := by
    unfold s
    split <;> exact h
  clear_value s
  refine okNext ?_
  refine foldl_keeps State.memOk _ _ _ (fun s n h2 => ?_) h1
  extract_lets +onlyGivenNames m
  split
  · refine State.logRefused_memOk _ _ _ ?_ ..
    exact h2
  · exact h2

theorem execHostLinkUp_memOk (h : s.memOk) (port : Bool) : OkNext (execHostLinkUp port s) := by
  rw [execHostLinkUp]
  split
  · refine okNext ?_
    split <;> exact h
  · exact okNext h

theorem State.hostRead_memOk (h : s.memOk) (port : Bool) (off : Nat) : (s.hostRead port off).memOk := by
  unfold State.hostRead
  extract_lets +onlyGivenNames a unit reply
  have h1 : ∀ (s : State), s.memOk → ∀ (v : DWord), (reply s v).memOk := fun s h1 v => h1
  clear_value reply
  split
  · exact h
  · split
    · exact h1 _ h ..
    · split
      · exact h
      · split
        · extract_lets +onlyGivenNames x
          have h2 : x.1.memOk := State.scanRead_memOk h ..
          clear_value x
          exact h1 _ h2 ..
        · exact h1 _ h ..

theorem State.hostStore_memOk (h : s.memOk) (k : Nat) (bs : List Byte) : (s.hostStore k bs).memOk := by
  unfold State.hostStore
  split
  · exact Store.wf_setList _ _ _ _ h
  · split
    · exact State.homeWrite_memOk _ _ h
    · exact h

theorem State.windowAccess_memOk (h : s.memOk) (port die : Bool) (a : HostAccess) : (s.windowAccess port die a).memOk := by
  unfold State.windowAccess
  extract_lets +onlyGivenNames k n reply
  have h1 : ∀ (s : State), s.memOk → ∀ (v : Nat), (reply s v).memOk := fun s h1 v => h1
  clear_value reply
  split
  · exact h1 _ h ..
  · exact State.homeWrite_memOk _ _ h
  · extract_lets +onlyGivenNames old
    exact h1 _ (State.homeWrite_memOk _ _ h) ..

theorem State.stageAccess_memOk (h : s.memOk) (port : Bool) (a : HostAccess) : (s.stageAccess port a).memOk := by
  unfold State.stageAccess
  extract_lets -underBinder +onlyGivenNames off n m old put reply
  have h1 : ∀ (v : Nat), (put v).memOk := by
    intro v
    unfold put
    extract_lets +onlyGivenNames m'
    split <;> exact h
  have h2 : ∀ (s : State), s.memOk → (reply s).memOk := fun s h2 => h2
  clear_value put reply
  split
  · exact h2 _ h
  · exact h1 ..
  · exact h2 _ (h1 ..)

theorem State.windowOrWait_memOk (h : s.memOk) (port die : Bool) (a : HostAccess) : (s.windowOrWait port die a).memOk := by
  rw [State.windowOrWait]
  split
  · split
    · exact h
    · exact h
  · refine State.windowAccess_memOk ?_ ..
    exact h

theorem execHostWindowAccess_memOk (h : s.memOk) (port die : Bool) (a : HostAccess) : OkNext (execHostWindowAccess port die a s) := by
  unfold execHostWindowAccess
  extract_lets +onlyGivenNames r
  split
  · exact okNext h
  · split
    · split
      · exact okNext (State.stageAccess_memOk h ..)
      · exact okNext h
    · split
      · exact okNext (State.windowOrWait_memOk h ..)
      · exact okNext h

/-! ### Detected errors -/

theorem State.logCorrected_memOk (h : s.memOk) (src at' : Nat) : (s.logCorrected src at').memOk := by
  rw [State.logCorrected]
  exact State.logEvent_memOk _ _ _ h ..

theorem execCorrectedError_memOk (h : s.memOk) (source : Nat) (addr : DWord) : OkNext (execCorrectedError source addr s) := by
  rw [execCorrectedError]
  exact okNext (State.logCorrected_memOk h ..)

theorem State.homeError_memOk (h : s.memOk) (pa : Nat) : (s.homeError pa).memOk := by
  rw [State.homeError]
  exact State.logError_memOk _ _ (memOk_of_mem (State.poisonFlake_mem ..) h) ..

theorem State.dropFlake_memOk (h : s.memOk) (unit pa : Nat) : (s.dropFlake unit pa).memOk := by
  rw [State.dropFlake]
  refine State.logCorrected_memOk ?_ ..
  exact h

theorem State.l1Error_memOk (h : s.memOk) (core pa : Nat) : (s.l1Error core pa).memOk := by
  unfold State.l1Error
  extract_lets +onlyGivenNames s
  have h1 : s.memOk := (calm_drainIf ..).ok h
  clear_value s
  split
  · exact State.failOwn_memOk h1 ..
  · split
    · refine foldl_keeps State.memOk _ _ _ (fun s i h2 => ?_) h1
      extract_lets +onlyGivenNames k c
      split
      · exact h2
      · exact h2
    · exact State.dropFlake_memOk h1 ..

theorem State.firnError_memOk (h : s.memOk) (die : Bool) (pa : Nat) : (s.firnError die pa).memOk := by
  rw [State.firnError]
  split
  · refine State.logError_memOk _ _ ?_ ..
    exact h
  · exact State.logCorrected_memOk h ..

theorem execUncorrectableError_memOk (h : s.memOk) (site : ErrSite) : OkNext (execUncorrectableError site s) := by
  unfold execUncorrectableError
  extract_lets +onlyGivenNames addNew
  split
  · exact okNext (State.homeError_memOk h ..)
  · refine okNext ?_
    split
    · exact State.homeError_memOk h ..
    · exact State.logCorrected_memOk h ..
  · exact okNext (State.l1Error_memOk h ..)
  · refine okNext ?_
    split
    · exact State.failCopy_memOk _ _ h
    · exact State.dropFlake_memOk h ..
  · extract_lets +onlyGivenNames c
    refine okNext ?_
    refine State.logError_memOk _ _ ?_ ..
    exact h
  · exact okNext h
  · exact okNext h
  · refine okNext ?_
    refine State.logError_memOk _ _ ?_ ..
    exact h
  · refine okNext ?_
    refine State.logError_memOk _ _ ?_ ..
    exact h
  · split
    · exact okNext (State.logError_memOk _ _ (State.takeStop_memOk h ..) ..)
    · exact okNext h
  · exact okNext (State.logCorrected_memOk h ..)
  · exact okNext (State.logCorrected_memOk h ..)
  · exact okNext (State.logCorrected_memOk h ..)
  · exact okNext (State.firnError_memOk h ..)
  · exact okNext (State.logCorrected_memOk h ..)

theorem execRemoteCopyBoundExpiry_memOk (h : s.memOk) (unit flake : Nat) : OkNext (execRemoteCopyBoundExpiry unit flake s) := by
  unfold execRemoteCopyBoundExpiry
  extract_lets +onlyGivenNames mine s
  have h1 : s.memOk := by
    unfold s
    split
    · exact State.flushHome_memOk _ h ..
    · exact State.writeBack_memOk _ h ..
  clear_value s
  exact okNext h1

theorem execFaultRecordDeferredWrite_memOk (h : s.memOk) (c : Nat) : OkNext (execFaultRecordDeferredWrite c s) := by
  unfold execFaultRecordDeferredWrite
  split
  · exact okNext h
  · split
    · refine okNext ?_
      refine State.fqWrite_memOk _ _ ?_
      exact h
    · exact okNext h

/-! ### System events -/

theorem execCsrr_memOk (h : s.memOk) (d : SReg) (addr : BitVec 16) : OkNext (execCsrr d addr s) := by
  unfold execCsrr
  refine okNext_issued ?_
  intro r
  extract_lets +onlyGivenNames a
  refine State.legalIf_memOk h _ _ _ ?_
  refine State.privileged_memOk h _ _ ?_
  split
  · exact h
  · split
    · extract_lets +onlyGivenNames x
      have h1 : x.1.memOk := State.scanRead_memOk h ..
      clear_value x
      exact h1
    · exact h

theorem execCsrw_memOk (h : s.memOk) (op : CsrOp) (addr : BitVec 16) (a : SReg) : OkNext (execCsrw op addr a s) := by
  unfold execCsrw
  refine okNext_issued ?_
  intro r
  extract_lets +onlyGivenNames n
  refine State.legalIf_memOk h _ _ _ ?_
  refine State.privileged_memOk h _ _ ?_
  split
  · exact h
  · split
    · exact h
    · refine State.release_memOk h _ _ _ ?_
      intro t h1
      extract_lets +onlyGivenNames unit v
      split
      · exact h1
      · refine State.csrWrite_memOk ?_ ..
        exact h1

theorem State.tretPath_memOk (h : s.memOk) (q : PathRef) (act : Act) : (s.tretPath q act).memOk := by
  unfold State.tretPath
  extract_lets +onlyGivenNames dead
  split
  · exact (calm_killTeam ..).ok h
  · split
    · exact (calm_killTeam ..).ok h
    · exact h
  · split
    · exact (calm_killTeam ..).ok h
    · exact h

theorem State.modSaved_memOk (h : s.memOk) (tok : Nat) (f : Team → Team) : (s.modSaved tok f).memOk := h

theorem State.tretEngine_memOk (h : s.memOk) (e : EngCmd) (late : Bool) (act : Act) : (s.tretEngine e late act).memOk := by
  unfold State.tretEngine
  split
  · exact State.engAbort_memOk h ..
  · exact h

theorem State.tret_memOk (h : s.memOk) (r : PathRef) (hd : BitVec 64) (act : Act) : (s.tret r hd act).memOk := by
  unfold State.tret
  extract_lets +onlyGivenNames mine no
  have h1 : no.memOk := State.refused_memOk h ..
  clear_value no
  split
  · split
    · exact State.tretPath_memOk h ..
    · exact h1
  · split
    · split
      · exact h
      · exact h1
    · split
      · split
        · exact State.tretEngine_memOk h ..
        · exact h1
      · exact h1

theorem execTretRes_memOk (h : s.memOk) (a _b : SReg) : OkNext (execTretRes a _b s) := by
  rw [execTretRes]
  refine okNext_issued ?_
  intro r
  refine State.privileged_memOk h _ _ ?_
  refine State.tret_memOk ?_ ..
  exact h

theorem execTretVal_memOk (h : s.memOk) (a b : SReg) : OkNext (execTretVal a b s) := by
  rw [execTretVal]
  refine okNext_issued ?_
  intro r
  refine State.privileged_memOk h _ _ ?_
  refine State.tret_memOk ?_ ..
  exact h

theorem execTretKill_memOk (h : s.memOk) (a _b : SReg) : OkNext (execTretKill a _b s) := by
  rw [execTretKill]
  refine okNext_issued ?_
  intro r
  refine State.privileged_memOk h _ _ ?_
  refine State.tret_memOk ?_ ..
  exact h

theorem execEcall_memOk (h : s.memOk) (n : BitVec 8) : OkNext (execEcall n s) := by
  unfold execEcall
  refine okNext_issued ?_
  intro r
  extract_lets +onlyGivenNames pc
  refine State.takeStop_memOk ?_ ..
  exact h

theorem State.tlbDrop_memOk (h : s.memOk) (f : TlbEntry → Bool) : (s.tlbDrop f).memOk := h

theorem State.tlbi_memOk (h : s.memOk) (r : PathRef) (ctxs : Nat → Bool) (f : TlbEntry → Bool) : (s.tlbi r ctxs f).memOk := by
  unfold State.tlbi
  extract_lets +onlyGivenNames s
  have h1 : s.memOk := h
  clear_value s
  split
  · exact h1
  · exact State.advance_memOk ((calm_drainIf ..).ok ((calm_bindIf ..).ok h1)) ..

theorem execTlbiPage_memOk (h : s.memOk) (d a : SReg) : OkNext (execTlbiPage d a s) := by
  unfold execTlbiPage
  refine okNext_issued ?_
  intro r
  extract_lets +onlyGivenNames va c
  exact State.privileged_memOk h _ _ (State.tlbi_memOk h ..)

theorem execTlbiCtx_memOk (h : s.memOk) (a : SReg) : OkNext (execTlbiCtx a s) := by
  unfold execTlbiCtx
  refine okNext_issued ?_
  intro r
  extract_lets +onlyGivenNames c
  exact State.privileged_memOk h _ _ (State.tlbi_memOk h ..)

theorem execTlbiPart_memOk (h : s.memOk) : OkNext (execTlbiPart s) := by
  unfold execTlbiPart
  refine okNext_issued ?_
  intro r
  extract_lets +onlyGivenNames mine
  exact State.privileged_memOk h _ _ (State.tlbi_memOk h ..)

theorem execSfence_memOk (h : s.memOk) : OkNext (execSfence s) := by
  rw [execSfence]
  refine okNext_issued ?_
  intro r
  refine State.privileged_memOk h _ _ ?_
  split
  · exact h
  · exact State.advance_memOk (State.readTables_memOk (State.releaseAct_memOk h ..)) ..

theorem execFrz_memOk (h : s.memOk) (a : SReg) : OkNext (execFrz a s) := by
  unfold execFrz
  refine okNext_issued ?_
  intro r
  refine State.privileged_memOk h _ _ ?_
  extract_lets +onlyGivenNames c w own s
  have h1 : s.memOk := State.frzRequest_memOk h ..
  clear_value s
  split <;> exact h1

theorem execFrzThaw_memOk (h : s.memOk) (a : SReg) : OkNext (execFrzThaw a s) := by
  unfold execFrzThaw
  refine okNext_issued ?_
  intro r
  extract_lets +onlyGivenNames w
  exact State.privileged_memOk h _ _ (State.advance_memOk (State.frzRequest_memOk h ..) ..)

theorem execWfi_memOk (h : s.memOk) (d a : SReg) : OkNext (execWfi d a s) := by
  unfold execWfi
  refine okNext_issued ?_
  intro r
  refine State.privileged_memOk h _ _ ?_
  extract_lets +onlyGivenNames p
  split
  · exact h
  · split <;> exact h

theorem execWfiTimeout_memOk (h : s.memOk) (r : PathRef) : OkNext (execWfiTimeout r s) := by
  unfold execWfiTimeout
  split
  · split
    · exact okNext ((calm_endWait ..).ok (State.passTo_memOk h ..))
    · exact okNext h
  · exact okNext h

theorem execMwaitTimeout_memOk (h : s.memOk) (r : PathRef) : OkNext (execMwaitTimeout r s) := by
  unfold execMwaitTimeout
  split
  · split
    · exact okNext ((calm_endWait ..).ok ((calm_modPath ..).ok (State.passTo_memOk h ..)))
    · exact okNext h
  · exact okNext h

end Sys2Proof.Machine
end

section
/-! SUPPORT. Every instruction and every step keeps memory in its canonical form. -/

namespace Sys2Proof.Machine

variable {s : State}

/-! ### Every instruction -/

theorem exec_memOk (h : s.memOk) (i : Instr) : OkNext (exec i s) := by
  unfold exec
  split
  · exact execNop_memOk h
  · exact execBra_memOk h ..
  · exact execBsz_memOk h ..
  · exact execBsnz_memOk h ..
  · exact execBrp_memOk h ..
  · exact execBany_memOk h ..
  · exact execBall_memOk h ..
  · exact execJoin_memOk h
  · exact execJmpiVector_memOk h ..
  · exact execJmpiUniform_memOk h ..
  · exact execCall_memOk h ..
  · exact execCalli_memOk h ..
  · exact execRet_memOk h ..
  · exact execExit_memOk h
  · exact execMacroWord_memOk h ..
  · exact execYield_memOk h
  · exact execTrap_memOk h ..
  · exact execSadd_memOk h ..
  · exact execSsub_memOk h ..
  · exact execSmul_memOk h ..
  · exact execSmulh_memOk h ..
  · exact execSdiv_memOk h ..
  · exact execSrem_memOk h ..
  · exact execSand_memOk h ..
  · exact execSor_memOk h ..
  · exact execSxor_memOk h ..
  · exact execSshl_memOk h ..
  · exact execSshr_memOk h ..
  · exact execSsra_memOk h ..
  · exact execSmin_memOk h ..
  · exact execSmax_memOk h ..
  · exact execScmp_memOk h ..
  · exact execSsel_memOk h ..
  · exact execSmov_memOk h ..
  · exact execSli_memOk h ..
  · exact execSlea_memOk h ..
  · exact execSbfe_memOk h ..
  · exact execSbfi_memOk h ..
  · exact execSbit_memOk h ..
  · exact execSr_memOk h ..
  · exact execSw_memOk h ..
  · exact execAdd_memOk h ..
  · exact execSub_memOk h ..
  · exact execMul_memOk h ..
  · exact execMulh_memOk h ..
  · exact execMad_memOk h ..
  · exact execMin_memOk h ..
  · exact execMax_memOk h ..
  · exact execAbs_memOk h ..
  · exact execNeg_memOk h ..
  · exact execAnd_memOk h ..
  · exact execOr_memOk h ..
  · exact execXor_memOk h ..
  · exact execNot_memOk h ..
  · exact execShl_memOk h ..
  · exact execShr_memOk h ..
  · exact execSra_memOk h ..
  · exact execRot_memOk h ..
  · exact execBfe_memOk h ..
  · exact execBfi_memOk h ..
  · exact execBcnt_memOk h ..
  · exact execCmp_memOk h ..
  · exact execSel_memOk h ..
  · exact execMov_memOk h ..
  · exact execMovs_memOk h ..
  · exact execLi_memOk h ..
  · exact execLid_memOk h ..
  · exact execFadd_memOk h ..
  · exact execFsub_memOk h ..
  · exact execFmul_memOk h ..
  · exact execFfma_memOk h ..
  · exact execFmin_memOk h ..
  · exact execFmax_memOk h ..
  · exact execFabs_memOk h ..
  · exact execFneg_memOk h ..
  · exact execFcmp_memOk h ..
  · exact execFrcp_memOk h ..
  · exact execFrsq_memOk h ..
  · exact execFsqrt_memOk h ..
  · exact execFdiv_memOk h ..
  · exact execFexp2_memOk h ..
  · exact execFlog2_memOk h ..
  · exact execFsin_memOk h ..
  · exact execFcos_memOk h ..
  · exact execFclass_memOk h ..
  · exact execFround_memOk h ..
  · exact execCvtf_memOk h ..
  · exact execCvti_memOk h ..
  · exact execCvtq_memOk h ..
  · exact execCvtd_memOk h ..
  · exact execPk_memOk h ..
  · exact execUpk_memOk h ..
  · exact execSp8x_memOk h ..
  · exact execI4x_memOk h ..
  · exact execShfl_memOk h ..
  · exact execShflx_memOk h ..
  · exact execBcast_memOk h ..
  · exact execVote_memOk h ..
  · exact execMcnt_memOk h ..
  · exact execScan_memOk h ..
  · exact execRed_memOk h ..
  · exact execRank_memOk h ..
  · exact execCompact_memOk h ..
  · exact execPand_memOk h ..
  · exact execPor_memOk h ..
  · exact execPxor_memOk h ..
  · exact execPnot_memOk h ..
  · exact execPmov_memOk h ..
  · exact execPsetClr_memOk h ..
  · exact execPsetSet_memOk h ..
  · exact execPsetSc_memOk h ..
  · exact execXmset_memOk h ..
  · exact execXmget_memOk h ..
  · exact execMode_memOk h ..
  · exact execModes_memOk h ..
  · exact execLds_memOk h ..
  · exact execSts_memOk h ..
  · exact execLdsf_memOk h ..
  · exact execLdse_memOk h ..
  · exact execStsf_memOk h ..
  · exact execStsx_memOk h ..
  · exact execFeclr_memOk h ..
  · exact execFeset_memOk h ..
  · exact execFeq_memOk h ..
  · exact execFullEmptyWake_memOk h ..
  · exact execLdg_memOk h ..
  · exact execStg_memOk h ..
  · exact execPfg_memOk h ..
  · exact execCwb_memOk h ..
  · exact execCinv_memOk h ..
  · exact execLdp_memOk h ..
  · exact execRld_memOk h ..
  · exact execRst_memOk h ..
  · exact execRatm_memOk h ..
  · exact execRatmr_memOk h ..
  · exact execAtm_memOk h ..
  · exact execAtmr_memOk h ..
  · exact execCas_memOk h ..
  · exact execCas128_memOk h ..
  · exact execXchg_memOk h ..
  · exact execTclaim_memOk h ..
  · exact execTrel_memOk h ..
  · exact execTld_memOk h ..
  · exact execTfmt_memOk h ..
  · exact execMma_memOk h ..
  · exact execMmaz_memOk h ..
  · exact execMclr_memOk h ..
  · exact execMdrainRegister_memOk h ..
  · exact execMdrainMemory_memOk h ..
  · exact execMcoop_memOk h ..
  · exact execMcoopRendezvous_memOk h ..
  · exact execTzero_memOk h ..
  · exact execTtrans_memOk h ..
  · exact execArrayQueueExecute_memOk h ..
  · exact execFence_memOk h ..
  · exact execFlwait_memOk h ..
  · exact execTwany_memOk h ..
  · exact execTwall_memOk h ..
  · exact execTffr_memOk h ..
  · exact execTclr_memOk h ..
  · exact execBar_memOk h ..
  · exact execDieArrived_memOk h ..
  · exact execComplete_memOk h ..
  · exact execMarm_memOk h ..
  · exact execMwait_memOk h ..
  · exact execMwaitTimeout_memOk h ..
  · exact execGrin_memOk h
  · exact execGrout_memOk h
  · exact execGrq_memOk h ..
  · exact execGrwait_memOk h ..
  · exact execGrfree_memOk h ..
  · exact execGrpop_memOk h ..
  · exact execStep_memOk h ..
  · exact execStepq_memOk h ..
  · exact execLdacq_memOk h ..
  · exact execStrel_memOk h ..
  · exact execCpy_memOk h ..
  · exact execCpyx_memOk h ..
  · exact execGath_memOk h ..
  · exact execKvap_memOk h ..
  · exact execKvseal_memOk h ..
  · exact execKvcopy_memOk h ..
  · exact execSmpl_memOk h ..
  · exact execColl_memOk h ..
  · exact execSpawn_memOk h ..
  · exact execLaunch_memOk h ..
  · exact execResolve_memOk h ..
  · exact execWqpop_memOk h ..
  · exact execWqpush_memOk h ..
  · exact execCntp_memOk h ..
  · exact execCsrr_memOk h ..
  · exact execCsrw_memOk h ..
  · exact execTretRes_memOk h ..
  · exact execTretVal_memOk h ..
  · exact execTretKill_memOk h ..
  · exact execEcall_memOk h ..
  · exact execTlbiPage_memOk h ..
  · exact execTlbiCtx_memOk h ..
  · exact execTlbiPart_memOk h
  · exact execFrz_memOk h ..
  · exact execFrzThaw_memOk h ..
  · exact execWfi_memOk h ..
  · exact execWfiTimeout_memOk h ..
  · exact execSfence_memOk h
  · exact execLongLatencyCompletion_memOk h ..
  · exact execPathMerge_memOk h ..
  · exact execTeamRetirement_memOk h ..
  · exact execGridCompletion_memOk h ..
  · exact execGridStart_memOk h ..
  · exact execLaunchQueueRecord_memOk h ..
  · exact execCartTimerExpiry_memOk h ..
  · exact execClusterPlacement_memOk h ..
  · exact execTimeSliceExpiry_memOk h ..
  · exact execDrainExpiry_memOk h ..
  · exact execClusterSaveCompletion_memOk h ..
  · exact execClusterFlushCompletion_memOk h ..
  · exact execClusterRestoration_memOk h ..
  · exact execPathAged_memOk h ..
  · exact execRemoteCopyBoundExpiry_memOk h ..
  · exact execPageWalk_memOk h ..
  · exact execEngineCommandStart_memOk h ..
  · exact execEngineCommandCompletion_memOk h ..
  · exact execSamplerSlotRun_memOk h ..
  · exact execAdjustKernelCompletion_memOk h ..
  · exact execWatchdog_memOk h ..
  · exact execFaultRecordDeferredWrite_memOk h ..
  · exact execKeepAlive_memOk h ..
  · exact execRemoteTimeout_memOk h ..
  · exact execAckResend_memOk h ..
  · exact execFreezeTakesEffect_memOk h ..
  · exact execThawTakesEffect_memOk h ..
  · exact execSemaphoreTickServe_memOk h
  · exact execRelockEnd_memOk h ..
  · exact execHomeAcknowledgement_memOk h ..
  · exact execValueArrival_memOk h ..
  · exact execUnassignedOpcode_memOk h ..
  · exact execPriorityAging_memOk h ..
  · exact execRestorationGuardExpiry_memOk h ..
  · exact execHostWindowAccess_memOk h ..
  · exact execAtsTimeout_memOk h ..
  · exact execAllocAckTimeout_memOk h ..
  · exact execAllocAnswerTimeout_memOk h ..
  · exact execResolveAckTimeout_memOk h ..
  · exact execTransactionPacket_memOk h ..
  · exact execAtsTranslationCompletion_memOk h ..
  · exact execPageRequestResponse_memOk h ..
  · exact execHostInvalidationRequest_memOk h ..
  · exact execHostLinkDown_memOk h ..
  · exact execCollectiveData_memOk h ..
  · exact execUncorrectableError_memOk h ..
  · exact execCorrectedError_memOk h ..
  · exact execArrive_memOk h ..
  · exact execBoundaryDecision_memOk h ..
  · exact execMemberFailure_memOk h ..
  · exact execFailureQuery_memOk h ..
  · exact execAlloc_memOk h ..
  · exact execVersionNotice_memOk h ..
  · exact execWithdraw_memOk h ..
  · exact execCancel_memOk h ..
  · exact execResolveBroadcast_memOk h ..
  · exact execHoldNotice_memOk h ..
  · exact execLinkDown_memOk h ..
  · exact execLinkUp_memOk h ..
  · exact execTimeMessage_memOk h ..
  · exact execCheckpointStream_memOk h ..
  · exact execIceboxFinished_memOk h ..
  · exact execFrzctlFreeze_memOk h ..
  · exact execFrzctlThaw_memOk h ..
  · exact execIcectl_memOk h ..
  · exact execPoolBoundaryWrite_memOk h ..
  · exact execDoorbell_memOk h ..
  · exact execSemRead_memOk h ..
  · exact execSemWrite_memOk h ..
  · exact execHflush_memOk h ..
  · exact execPartWrite_memOk h ..
  · exact execClkctl_memOk h ..
  · exact execD2dconn_memOk h ..
  · exact execPq_memOk h ..
  · exact execPortQuiesced_memOk h ..
  · exact execPorten_memOk h ..
  · exact execFmode_memOk h ..
  · exact execRankWrite_memOk h ..
  · exact execStepctlEn_memOk h ..
  · exact execFirnsize_memOk h ..
  · exact execControlRegisterWrite_memOk h ..
  · exact execGo_memOk h ..
  · exact execRailFail_memOk h ..
  · exact execPowerLimitWrite_memOk h ..
  · exact execRailTelemetryRead_memOk h ..
  · exact execGetVersion_memOk h ..
  · exact execGetCapabilities_memOk h ..
  · exact execNegotiateAlgorithms_memOk h ..
  · exact execGetDigests_memOk h ..
  · exact execGetCertificate_memOk h ..
  · exact execChallenge_memOk h ..
  · exact execGetMeasurements_memOk h ..
  · exact execUnsupportedRequest_memOk h ..
  · exact execInputPowerApplied_memOk h ..
  · exact execHostLinkUp_memOk h ..
  · exact execScandata_memOk h
  · exact execDqSet_memOk h
  · exact execDqClear_memOk h
  · exact execDieToDieQuiesced_memOk h
  · exact execCircuitChangeDone_memOk h
  · exact execResume_memOk h
  · exact execPwrgdRise_memOk h
  · exact execResetnLow_memOk h
  · exact execResetnRelease_memOk h

/-! ### Issue and aging -/

theorem State.ageFrom_memOk (h : s.memOk) (before : State) (issued : Option PathRef) : (s.ageFrom before issued).memOk := by
  unfold State.ageFrom
  extract_lets +onlyGivenNames n0 n1
  split
  · exact h
  · exact h

theorem State.issue_memOk (h : s.memOk) (r : PathRef) : OkTaken (s.issue r) := by
  rw [State.issue]
  split
  · exact State.takeUp_memOk h ..
  · exact okTaken_over h

/-! ### Every step -/

theorem settle_memOk (b : State) (x : Res) (hx : OkNext x) : OkNext (settle b x) := by
  unfold settle
  split
  next s =>
    have h1 : s.memOk := hx.out rfl
    extract_lets +onlyGivenNames t
    have h2 : t.memOk := by
      unfold t
      refine State.watchQueues_memOk ?_
      refine State.stepCheck_memOk ?_ ..
      exact h1
    clear_value t
    exact okNext (State.ageFrom_memOk (State.tick_memOk h2) ..)
  · exact hx
  · exact okNext_refused

theorem idle_memOk (x : Res) (hx : OkNext x) : OkNext (idle x) := by
  unfold idle
  split
  next s =>
    have h1 : s.memOk := hx.out rfl
    exact okNext h1
  · exact hx

theorem State.runIssue_memOk (h : s.memOk) (r : PathRef) (i : Instr) : OkNext (s.runIssue r i) := by
  unfold State.runIssue
  split
  next t e =>
    have ok : t.memOk := (exec_memOk (State.noteIssue_memOk h ..) ..).out e
    split
    · exact idle_memOk _ (exec_memOk h ..)
    · exact okNext ok
  · exact exec_memOk (State.noteIssue_memOk h ..) ..

theorem runTaken_memOk (r : PathRef) (x : Taken) (hx : OkTaken x) : OkNext (runTaken r x) := by
  unfold runTaken
  split
  next s =>
    have ok : s.memOk := okTaken_of_over rfl hx
    exact idle_memOk _ (okNext ok)
  next i s =>
    have ok : s.memOk := okTaken_of_run rfl hx
    exact State.runIssue_memOk ok ..

theorem State.move_memOk (h : s.memOk) (x : Turn) : OkNext (s.move x) := by
  unfold State.move
  split
  · refine settle_memOk _ _ ?_
    refine exec_memOk ?_ ..
    exact h
  · exact settle_memOk _ _ (runTaken_memOk _ _ (State.issue_memOk h ..))
  · exact settle_memOk _ _ (okNext (State.landEarly_memOk h ..))
  · exact settle_memOk _ _ (okNext (State.hostRead_memOk h ..))
  · exact settle_memOk _ _ (okNext (State.hostStore_memOk h ..))

theorem State.free_memOk (h : s.memOk) : OkNext s.free := by
  unfold State.free
  split
  · exact State.move_memOk h ..
  · exact settle_memOk _ _ (okNext h)

theorem step_memOk (h : s.memOk) : OkNext (step s) := by
  unfold step
  split
  · split
    · exact State.move_memOk h ..
    · refine State.move_memOk ?_ ..
      exact h
  · split
    · exact State.move_memOk h ..
    · exact State.free_memOk h

/-- Settles O5: what each instruction and event does is taken function by function, in the order of the model. -/
theorem stepKeepsMemoryCanonical : Obligations.StepKeepsMemoryCanonical := by
  unfold Obligations.StepKeepsMemoryCanonical
  intro s t h e
  exact (step_memOk h).out e

end Sys2Proof.Machine
end
